-- ==== Sys2Proof/Word.lean ====
section
/-!
DEFINITION. The word types of the W9 module and the numbering of its units (00_scope.md, Table 0.3, R4).
A unit number is a Fin of its range, so that no command can name a unit the module does not have (R1).
-/
namespace Sys2Proof

/-- One byte. -/
abbrev Byte := BitVec 8
/-- A 16-bit field. -/
abbrev Half := BitVec 16
/-- A 32-bit register or field. -/
abbrev Word := BitVec 32
/-- A 64-bit register, argument or global address. -/
abbrev DWord := BitVec 64
/-- A byte string on a wire or in memory, lowest address first. -/
abbrev Bytes := List Byte

/-- Module cell index (R4). -/
abbrev CellIx := Fin 4096
/-- Compute die CD0 to CD15. -/
abbrev CdIx := Fin 16
/-- Base quadrant BQ0 to BQ3. -/
abbrev QuadIx := Fin 4
/-- Region 0 to 63. -/
abbrev RegionIx := Fin 64
/-- Near-tier site M0 to M23. -/
abbrev SiteIx := Fin 24
/-- Far-memory unit FMU0 to FMU7. -/
abbrev FmuIx := Fin 8
/-- Copy engine CE0 to CE63. -/
abbrev CeIx := Fin 64
/-- Management core MC0 to MC3. -/
abbrev McIx := Fin 4
/-- Service core SC0 to SC19. -/
abbrev ScIx := Fin 20
/-- Turf 0 to 63 (R318). -/
abbrev TurfIx := Fin 64
/-- Queue 0 to 8,191 (Table 13.6). -/
abbrev QueueIx := Fin 8192
/-- Index in a ring of at most 4,096 entries (R338). -/
abbrev SlotIx := Fin 4096
/-- PCI Express port 0 or 1 (R330). -/
abbrev PcieIx := Fin 2
/-- Optical endpoint number (R145, Table 6.3). -/
abbrev OepIx := Fin 44
/-- Port identifier OEP x 64 + port (R145). -/
abbrev PortIx := Fin 2816
/-- Laser bank 0 to 79 (Table 1.1). -/
abbrev BankIx := Fin 80
/-- Fibre pair F0 to F127. -/
abbrev FibreIx := Fin 128
/-- Fabric fibre F0 to F95. -/
abbrev FabFibreIx := Fin 96
/-- A link: 0 to 63 far sublink (unit x 8 + sublink, R216), 64 onward fabric channel 64 + 3 x fibre + channel (Table 11.1). -/
abbrev LinkIx := Fin 352
/-- Access engine AE0 or AE1 of a cell. -/
abbrev AeIx := Fin 2
/-- Regulator phase 0 to 2,303 (Table 1.1). -/
abbrev PhaseIx := Fin 2304
/-- Regulator group 0 to 255 (Table 16.8). -/
abbrev GroupIx := Fin 256
/-- Sensor 0 to 319 (Table 17.1). -/
abbrev SensorIx := Fin 320
/-- Wavelength position of a port's group, 0 to 17 (R174). -/
abbrev PosIx := Fin 18
/-- A sync counter: 0 to 65,535 the sync space; 65,536 + cell x 64 + n is Sn of a cell (R233, Table 9.1). -/
abbrev CtrIx := Fin 327680

end Sys2Proof
end

