-- ==== Sys2Proof/Syntax.lean ====
section
/-!
DEFINITION. The commands of the block: one constructor per row of spec/opcode_table.json, in the table's order.
A row's operands are what the outside, or the physics of a part, decides about that step: the bytes that arrived, the
value that was measured, the GTC count `now` at which the event falls. What the module itself holds is read from State.
-/
namespace Sys2Proof

/-- Who wrote the bring-up window (R408). -/
inductive Via where
  | port (p : PcieIx)
  | smbus
deriving DecidableEq, Repr

/-- Trigger of a module reset that is not BU_RESET (Table 15.1, Table 15.11). -/
inductive ModuleResetCause where
  | rstN
  | vinLow
  | refclkLost
deriving DecidableEq, Repr

/-- A defect a start-of-day test or a standby test finds (Tables 15.12, 15.13). -/
structure DefectFound where
  kind : Byte
  unit : Half
  detail : Word
deriving DecidableEq, Repr

/-- A position fuse word as BASE_POWER reads it (R144): the word and whether its check code holds. -/
structure Fuse where
  word : Half
  checkOk : Bool
deriving DecidableEq, Repr

/-- What BASE_POWER meets (R141, R142, R144): the bump masks read low per silicon quadrant, the fuses of the forty dies as they are mounted
(of each silicon quadrant in turn its four CD sites, then its six DRAM sites), a regulator group that does not come up, and whether three boot cores still agree (R368). -/
structure BaseObs where
  bumps : List (BitVec 4)
  fuses : List Fuse
  badGroup : Option GroupIx := none
  votingCores : Nat := 4
deriving DecidableEq, Repr

/-- What TRAIN meets: a site that fails with its sub-cause, a port with fewer than sixteen usable positions, a supply failure. -/
structure TrainObs where
  badSite : Option (SiteIx × Nat) := none
  badPort : Option PortIx := none
  badGroup : Option GroupIx := none
  votingCores : Nat := 4
deriving DecidableEq, Repr

/-- What SOD_TEST finds: the defects of its tests and the regions that fail to wake for the cell tests (R409). -/
structure SodObs where
  defects : List DefectFound := []
  wakeFails : List RegionIx := []
  votingCores : Nat := 4
deriving DecidableEq, Repr

/-- The part of a rick that a control access names (R56): a cell's, a service core's, a queue's notice stream. -/
inductive RickRef where
  | cell (c : CellIx)
  | core (c : ScIx)
  | queue (q : QueueIx)
deriving DecidableEq, Repr

/-- A register without behaviour of its own that a write names (R7, R333, R365, R492, Table 15.3). -/
inductive RegRef where
  | bar0 (p : PcieIx) (offset : Fin 65536)
  | bar2 (p : PcieIx) (q : QueueIx) (offset : Fin 4096)
  | cellCtl (c : CellIx) (offset : Fin 65536)
  | heartwood (byManagement : Bool) (reg : Nat)
deriving DecidableEq, Repr

/-- A Dynamic packet: the 48 B operation header, its 16 B extension when it carries one, and its payload (R168, R266). -/
structure Packet where
  hdr : BitVec 384
  ext : Option (BitVec 128) := none
  data : Bytes := []
  poison : Bool := false
deriving DecidableEq, Repr

/-- How a request reached its target: its turf (R323), whether it came from another module, and from which. -/
structure Arrival where
  turf : TurfIx
  remote : Bool := false
  module : Nat := 0
deriving DecidableEq, Repr

/-- One sample of one sensor (R448): the reading in 1/8 degree, whether it is valid, and whether an invalid one is high (open). -/
structure SensorReading where
  sensor : SensorIx
  value : Int
  valid : Bool := true
  high : Bool := false
deriving DecidableEq, Repr

/-- What a patrol or store scrub finds in what it reads (R39, R209). -/
inductive ScrubFind where
  | clean
  | corrected
  | uncorrectable
deriving DecidableEq, Repr

/-- A TIME answer with the follower's receive stamp (Table 16.7). -/
structure TimeAns where
  reqId : Word
  hops : Byte
  rootUid : DWord
  t1 : Nat
  t2 : Nat
  t3 : Nat
  t4 : Nat
deriving DecidableEq, Repr

/-- The sequenced frame of a fabric fibre that brought a message: its channel and SEQ (Table 11.3). -/
structure MsgFrame where
  channel : Fin 2 := 0
  seq : Half := 1
deriving DecidableEq, Repr

/-- A message of a fabric fibre with the sequenced frame that brought it. -/
structure FabMsg where
  bytes : Bytes
  frame : MsgFrame := {}
deriving DecidableEq, Repr

/-- A TIME answer with its frame. -/
structure TimeMsg where
  frame : MsgFrame := {}
  ans : TimeAns
deriving DecidableEq, Repr

/-- A lane map message of a link with the SEQ of its frame (R225). -/
structure MapMsg where
  map : Bytes
  seq : Half := 1
deriving DecidableEq, Repr

/-- A message that says only that it came: the SEQ of its frame and the count of its arrival. -/
structure SeqTime where
  seq : Half := 1
  now : Nat
deriving DecidableEq, Repr

/-- A fabric fibre and the count at which something of it falls due. -/
structure FibreTime where
  fibre : FabFibreIx
  now : Nat
deriving DecidableEq, Repr

/-- A repeat of a receive entry: its engine, and the words of a mesh repeat in which the check found an error (R130), each as
row x 64 + word and whether it could not be corrected. -/
structure RecvRepeat where
  engine : AeIx
  errs : List (Fin 49152 × Bool) := []
deriving DecidableEq, Repr

/-- A cell whose ramp is updated, and whether its MAC unit still feeds K-steps of a MATMUL as the next 1,500 cycles begin (R122). -/
structure RampCheck where
  cell : CellIx
  feeding : Bool
deriving DecidableEq, Repr

/-- The write of CLOCKS_START, and how many boot cores agree on the step's outputs (R368). -/
structure ClockStart where
  via : Via
  votingCores : Nat
deriving DecidableEq, Repr

/-- The commands of the W9, one per row of spec/opcode_table.json. -/
inductive Instr where
  -- Host commands: `q` and `slot` name the accepted submission entry that is performed; `data` is what a HOST read returned.
  | nop (q : QueueIx) (slot : SlotIx)
  | openQueue (q : QueueIx) (slot : SlotIx)
  | closeQueue (q : QueueIx) (slot : SlotIx)
  | bindTurf (q : QueueIx) (slot : SlotIx)
  | queryIdentity (q : QueueIx) (slot : SlotIx)
  | queryQueue (q : QueueIx) (slot : SlotIx)
  | queryNotices (q : QueueIx) (slot : SlotIx)
  | loadImage (q : QueueIx) (slot : SlotIx) (data : Option Bytes)
  | unloadImage (q : QueueIx) (slot : SlotIx)
  | runBatch (q : QueueIx) (slot : SlotIx)
  | abort (q : QueueIx) (slot : SlotIx)
  | alloc (q : QueueIx) (slot : SlotIx)
  | free (q : QueueIx) (slot : SlotIx)
  | copy (q : QueueIx) (slot : SlotIx)
  | fill (q : QueueIx) (slot : SlotIx)
  | mapAperture (q : QueueIx) (slot : SlotIx)
  | setTuningGapGap (q : QueueIx) (slot : SlotIx)
  | setTuningGapAccept (q : QueueIx) (slot : SlotIx)
  | setTuningGapHold (q : QueueIx) (slot : SlotIx)
  | syncCreateCreate (q : QueueIx) (slot : SlotIx)
  | syncCreateRelease (q : QueueIx) (slot : SlotIx)
  | syncCreateTakeOver (q : QueueIx) (slot : SlotIx)
  | syncSignal (q : QueueIx) (slot : SlotIx)
  | syncDump (q : QueueIx) (slot : SlotIx)
  | cfgWriteShadow (q : QueueIx) (slot : SlotIx) (data : Option Bytes)
  | cfgSwap (q : QueueIx) (slot : SlotIx)
  | cfgSwapDrainedCalendar (q : QueueIx) (slot : SlotIx)
  | cfgSwapDrainedRouting (q : QueueIx) (slot : SlotIx)
  | cfgStore (q : QueueIx) (slot : SlotIx)
  | cfgRead (q : QueueIx) (slot : SlotIx)
  | pstateSet (q : QueueIx) (slot : SlotIx)
  | limitsRead (q : QueueIx) (slot : SlotIx)
  | regionSleep (q : QueueIx) (slot : SlotIx)
  | regionWake (q : QueueIx) (slot : SlotIx)
  | fabJoin (q : QueueIx) (slot : SlotIx)
  | fabLeave (q : QueueIx) (slot : SlotIx)
  | routeLoadShadow (q : QueueIx) (slot : SlotIx)
  | linkRoleSwap (q : QueueIx) (slot : SlotIx)
  | fabStatus (q : QueueIx) (slot : SlotIx)
  | ctrReadRead (q : QueueIx) (slot : SlotIx)
  | ctrReadClear (q : QueueIx) (slot : SlotIx)
  | ctrReadProgram (q : QueueIx) (slot : SlotIx) (data : Option Bytes)
  | ctrReadClampCopy (q : QueueIx) (slot : SlotIx)
  | traceStart (q : QueueIx) (slot : SlotIx)
  | traceStop (q : QueueIx) (slot : SlotIx)
  | digestArmArm (q : QueueIx) (slot : SlotIx)
  | digestArmDisarm (q : QueueIx) (slot : SlotIx)
  | digestArmRead (q : QueueIx) (slot : SlotIx)
  | clampArmSet (q : QueueIx) (slot : SlotIx)
  | clampArmClamp (q : QueueIx) (slot : SlotIx)
  | clampArmFabric (q : QueueIx) (slot : SlotIx)
  | ashRead (q : QueueIx) (slot : SlotIx)
  | healthRead (q : QueueIx) (slot : SlotIx)
  | spareSubst (q : QueueIx) (slot : SlotIx)
  | defectListRead (q : QueueIx) (slot : SlotIx)
  | fwUpdateStageWrite (q : QueueIx) (slot : SlotIx) (data : Option Bytes)
  | fwUpdateStageDiscard (q : QueueIx) (slot : SlotIx)
  | fwUpdateStageAttest (q : QueueIx) (slot : SlotIx) (data : Option Bytes)
  | fwUpdateStageCertificate (q : QueueIx) (slot : SlotIx)
  | fwActivateHeartwood (q : QueueIx) (slot : SlotIx)
  | fwActivateCordwood (q : QueueIx) (slot : SlotIx)
  -- Queues, doorbells and the aperture
  | cmdFetch (q : QueueIx) (data : Option Bytes)
  | sqTailWrite (q : QueueIx) (p : PcieIx) (value : DWord)
  | cqHeadWrite (q : QueueIx) (p : PcieIx) (value : DWord)
  | fabricQueueFetch (q : QueueIx)
  | fabricQueueRelease (q : QueueIx) (n : Word)
  | apertureWrite (p : PcieIx) (offset : Fin 68719476736) (data : Bytes)
  | apertureRead (p : PcieIx) (offset : Fin 68719476736) (len : Fin 4097)
  | perst (p : PcieIx)
  | registerWrite (r : RegRef) (value : DWord)
  -- Bring-up
  | basePower (v : Via) (o : BaseObs)
  | clocksStart (o : ClockStart)
  | train (v : Via) (o : TrainObs)
  | sodTest (v : Via) (o : SodObs)
  | loadHeartwood (v : Via)
  | loadCordwood (v : Via) (data : Option Bytes)
  | cellsPower (v : Via) (wakeFails : List RegionIx) (badGroup : Option GroupIx)
  | stewardBroadcast (v : Via) (resent : Nat) (bad : List CellIx)
  | queuesEnable (v : Via)
  | hwRecover (v : Via) (data : Option Bytes)
  | buResetModule (key : Half)
  | buResetCompute (key : Half)
  | buResetDie (key : Half) (cd : CdIx)
  | buResetFirmware (key : Half)
  | bringupStepTimeout (sub : Byte)
  | mirrorStatusRead
  | smbusBlockWrite (address : BitVec 7) (offset : Half) (data : Bytes)
  -- Resets, supplies, pins
  | coldReset (backupOk : Bool) (strapMv : Nat)
  | moduleReset (cause : ModuleResetCause) (strapMv : Nat)
  | computeReset
  | firmwareReset (failed : Option ScIx)
  | bringupIslandRelease
  | peatXtalFail
  | vauxLoss
  | brownoutWarn (minMv : Half) (now : Nat)
  | brownoutClear (minMv : Half) (now : Nat)
  | refclkLost (now : Nat) (strapMv : Nat)
  | refclkBack (now : Nat)
  | refclkSafeStop (now : Nat)
  | throtNAssert (now : Nat)
  | throtNRelease (now : Nat)
  | clampInEdge (now : Nat)
  | clamp (now : Nat)
  -- Collier steps: the step at the step pointer of the cell issues
  | matmul (c : CellIx)
  | drain (c : CellIx)
  | vop (c : CellIx)
  | vload (c : CellIx)
  | vstore (c : CellIx)
  | rowcopy (c : CellIx)
  | ctlRead (c : CellIx)
  | ctlWrite (c : CellIx)
  | rickRead (c : CellIx)
  | wait (c : CellIx)
  | signal (c : CellIx)
  | sread (c : CellIx)
  | token (c : CellIx)
  | lset (c : CellIx)
  | ladd (c : CellIx)
  | lcopy (c : CellIx)
  | djnz (c : CellIx)
  | jmp (c : CellIx)
  | jz (c : CellIx)
  | jltu (c : CellIx)
  | mark (c : CellIx)
  | halt (c : CellIx)
  | haltComplete (c : CellIx)
  | stepComplete (c : CellIx) (k : Fin 2048)
  | waitSatisfied (ctr : CtrIx)
  -- Access engines: the engine's current entry starts its next repeat
  | get (c : CellIx) (e : AeIx)
  | put (c : CellIx) (e : AeIx)
  | getInd (c : CellIx) (e : AeIx)
  | putInd (c : CellIx) (e : AeIx)
  | aeSignal (c : CellIx) (e : AeIx)
  | aeWait (c : CellIx) (e : AeIx)
  | schedRecv (c : CellIx) (e : RecvRepeat)
  | schedSend (c : CellIx) (e : AeIx)
  | aeEnd (c : CellIx) (e : AeIx)
  | aeActionComplete (c : CellIx) (e : AeIx)
  | aeSchedDeadline (c : CellIx) (e : AeIx)
  | opNack (c : CellIx) (e : AeIx) (tag : Word) (status : Byte)
  | aeNackRetry (c : CellIx) (e : AeIx) (tag : Word) (now : Nat)
  | rampUpdate (c : RampCheck)
  | storeScrub (c : CellIx) (row : Fin 3072) (find : ScrubFind)
  | logicFault (c : CellIx) (retestPasses : Bool)
  -- Batches
  | batchArmNotice (cd : CdIx) (arg : Word) (count : DWord)
  | batchCancelNotice (cd : CdIx) (arg : Word) (count : DWord)
  | armDeadline (t : TurfIx) (now : Nat)
  | batchStart (t : TurfIx) (now : Nat)
  | batchDone (t : TurfIx) (now : Nat)
  -- Photonic base
  | frameLaunch
  | interstitialFrame
  | billetReceive (p : PortIx) (hdr : BitVec 512) (payload : Bytes)
  | repairSend (p : PortIx)
  | repairHoldCheck (p : PortIx)
  | repairHoldEnd
  | dynamicFrameRequest (p : PortIx)
  | dynamicGrant (p : PortIx)
  | dynamicFrameReceive (p : PortIx) (hdr : BitVec 512) (body : Bytes)
  | dynamicResend (p : PortIx) (now : Nat)
  | carriageReceive (src : OepIx) (field : BitVec 128) (now : Nat)
  | missingDuplicate (src : OepIx) (dst : OepIx) (seq : Half) (now : Nat)
  | syncPacketApply (arg : Word) (addr : DWord)
  | signalRefusalReceive (arg : Word) (addr : DWord)
  | swapAnnouncement (arg : Word) (count : DWord)
  | cfgSwapTakeEffect (set : Byte) (now : Nat)
  | faultNotice (arg : Word) (count : DWord)
  | bankMonitorSample (b : BankIx) (output : Nat) (lineMin : Nat) (biasAtLimit : Bool) (now : Nat)
  | lightHoldStart (now : Nat)
  | lightHoldEnd (now : Nat)
  | bankWearSwap (b : BankIx) (now : Nat)
  | ringLock (p : PortIx) (pos : PosIx) (detunePm : Nat) (atEnd : Bool)
  | channelSweep (p : PortIx) (now : Nat)
  | channelSweepEnd (p : PortIx) (heaterOver : Bool) (now : Nat)
  | tuningStarved (p : PortIx) (now : Nat)
  | tuningHoldStart (now : Nat)
  | tuningHoldEnd (now : Nat)
  -- Memory tiers
  | patrolScrub (m : SiteIx) (granule : Fin 268435456) (find : ScrubFind) (now : Nat)
  | rowReplace (m : SiteIx) (pc : Fin 66) (bank : Byte) (row : Half)
  | rowReplaceEnd (m : SiteIx)
  | pcMigration (m : SiteIx) (pc : Fin 64)
  | pcMigrationEnd (m : SiteIx) (lost : List (Fin 268435456))
  | selfRefreshEnter (m : SiteIx) (now : Nat)
  | selfRefreshExit (m : SiteIx) (now : Nat)
  | farDataGranule (l : LinkIx) (frame : Bytes)
  | completion (l : LinkIx) (frame : Bytes)
  | ident (l : LinkIx) (msg : Bytes)
  | identAck (l : LinkIx)
  | laneMapReq (l : LinkIx) (m : MapMsg)
  | laneMap (l : LinkIx) (m : MapMsg) (switchSeq : Half)
  | linkDown (l : LinkIx) (m : SeqTime)
  | identRepeat (l : LinkIx)
  | sublinkRetrain (l : LinkIx) (now : Nat)
  | farFrameResend (l : LinkIx) (retry : Bool) (expSeq : Half) (now : Nat)
  | sublinkLoss (l : LinkIx) (now : Nat)
  | sublinkFailover (l : LinkIx) (now : Nat)
  | farUnitDown (u : FmuIx) (now : Nat)
  | farBilletWriteQueue (u : FmuIx) (p : PortIx)
  | farBilletReadQueue (u : FmuIx) (p : PortIx)
  -- Tomic operations at their target, answers at their issuer
  | load (a : Arrival) (p : Packet)
  | store (a : Arrival) (p : Packet)
  | atomAdd (a : Arrival) (p : Packet)
  | atomMin (a : Arrival) (p : Packet)
  | atomMax (a : Arrival) (p : Packet)
  | atomCas (a : Arrival) (p : Packet)
  | ack (unit : Half) (p : Packet)
  | data (unit : Half) (p : Packet)
  | nack (unit : Half) (p : Packet)
  | tomicOpTimeout (unit : Half) (tag : Word) (now : Nat)
  | ceSubmit (ce : CeIx) (a : Arrival) (p : Packet)
  | ceDescriptorStart (ce : CeIx) (data : Option Bytes)
  | ceDescriptorComplete (ce : CeIx)
  | messageInboxStore (a : Arrival) (p : Packet)
  -- Fabric
  | linkFrameReceive (l : LinkIx) (frame : Bytes)
  | escapeMove (l : LinkIx) (vc : Fin 4) (now : Nat)
  | channelLoss (l : LinkIx) (now : Nat)
  | fibreFailed (f : FabFibreIx) (now : Nat)
  | joinClaim (f : FabFibreIx) (msg : Option FabMsg) (now : Nat)
  | founder (f : FabFibreIx) (msg : FabMsg)
  | founderElection (now : Nat)
  | joinReq (f : FabFibreIx) (msg : FabMsg)
  | joinAccept (f : FabFibreIx) (msg : FabMsg)
  | leave (f : FabFibreIx) (msg : FabMsg)
  | dupId (f : FabFibreIx) (msg : FabMsg)
  | founderLost (now : Nat)
  | roleSwapReq (f : FabFibreIx) (msg : FabMsg)
  | roleSwapAns (f : FabFibreIx) (msg : FabMsg)
  | pairDesc (module : Fin 1024) (msg : Bytes) (now : Nat)
  | pairDescSend (module : Fin 1024)
  | fabricBilletReceive (l : LinkIx) (route : BitVec 128) (payload : Bytes)
  | inboundBilletMissing (p : PortIx)
  | timeRequest (f : FabFibreIx) (incoming : Option (MsgFrame × Word × Nat)) (now : Nat)
  | timeAnswer (f : FabFibreIx) (a : TimeMsg)
  | fabricClampMessage (count : DWord) (uid : DWord) (now : Nat)
  -- Leases and the call gate
  | leaseExpiry (now : Nat)
  | orphanFree (ctr : Fin 65536) (now : Nat)
  | gateTableSwap (core : ScIx) (req : BitVec 512) (entry : Bytes)
  | gateSettingsCommit (core : ScIx) (req : BitVec 512) (entry : Bytes)
  | gateLease (core : ScIx) (req : BitVec 512) (entry : Bytes)
  | gateRegionPstate (core : ScIx) (req : BitVec 512) (entry : Bytes)
  | gateCellTableWrite (core : ScIx) (req : BitVec 512) (entry : Bytes)
  | gateSpareSubst (core : ScIx) (req : BitVec 512) (entry : Bytes)
  | gateFirmware (core : ScIx) (req : BitVec 512) (entry : Bytes)
  | gateQueue (core : ScIx) (req : BitVec 512) (entry : Bytes)
  | gateHealth (core : ScIx) (req : BitVec 512) (entry : Bytes)
  -- Management cores
  | mgmtDeviation (m : McIx) (now : Nat)
  | standbyJoin (m : McIx) (now : Nat)
  | duplexDisagree (now : Nat)
  | standbyPromote (m : McIx) (passed : Bool) (now : Nat)
  -- Clocks and power
  | pstateSwitch (now : Nat)
  | throttleChange (now : Nat)
  | powerCeilingCheck (p1ms : Nat) (p100ms : Nat) (now : Nat)
  | marginSample (r : RegionIx) (low : Bool) (now : Nat)
  | phaseOpen (p : PhaseIx) (now : Nat)
  | phaseSenseCheck (g : GroupIx) (miss : Option (Fin 9)) (now : Nat)
  | phaseShed (g : GroupIx) (lossPermille : Nat) (now : Nat)
  | kindlingStep (r : RegionIx) (ready : Bool) (badPhases : List PhaseIx) (now : Nat)
  -- Thermal
  | thermalSample (readings : List SensorReading) (now : Nat)
  | thermalFallBoundary (now : Nat)
  | thermalCeilingCheck (now : Nat)
  | thermistorSample (n : Fin 8) (reading : SensorReading) (now : Nat)
  -- Spares and wear
  | spareStandbyTest (kind : Byte) (unit : Half) (detail : Word) (passed : Bool)
  | wearSubstitution (kind : Byte) (unit : Half) (detail : Word) (now : Nat)
  | wearLogWrite (rkind : Byte) (unit : Half) (value : Word) (detail : Word)
  -- Rick and snapshot registers
  | rickDataRead (r : RickRef)
  | dropItem (r : RickRef)
  | flush (r : RickRef)
  | snapArm (c : CellIx)
  -- Ends of operations in progress
  | computeResetRelease
  | pcieLinkUp (p : PcieIx)
  | bringupStepEnd
  | bankCommit (readBackOk : Bool)
  | drainWaitTimeout (now : Nat)
  | swapHoldStart (now : Nat)
  | swapHoldEnd (now : Nat)
  | regionSafeState (r : RegionIx)
  | farIdleFrame (l : LinkIx) (frame : Bytes)
  | fecLock (l : LinkIx)
  | dynamicFrameAck (p : PortIx) (seq : Nat)
  | tuningGapEnd (t : TurfIx) (now : Nat)
  | copyEngineFault (ce : CeIx)
  | roleSwapRetry (f : FibreTime)
  | qualityWindow (f : FibreIx) (group : Fin 2) (bad : List PosIx)
  | telemetrySample (p : PhaseIx) (milliamps : Nat)
deriving DecidableEq, Repr

end Sys2Proof
end

