-- ==== Sys2Proof/Decode.lean ====
section
/-!
DEFINITION. The decoder of the opcode table's words. No row of spec/opcode_table.json gives bits: the block takes commands from
outside and decodes no instruction of its own, so every word spells none (log entry 13).
-/
namespace Sys2Proof

/-- The command a word of the opcode table spells: none, since no row gives bits. -/
def decodeTableWord (_nbits _w : Nat) : Option Instr := none

end Sys2Proof
end

