-- ==== Sys2Proof/Config.lean ====
section
/-!
DEFINITION. What an implementation fixes, and the values the spec leaves open. A constant without a body is a free value:
no proof can see what it is (log entries 1 and 5).
-/
namespace Sys2Proof.Config

/-- The n-th free value drawn (State.drawn): a nonce, a random delay, an undefined byte (R308, R313, R547). Log entry 1. -/
opaque freeValue : Nat → BitVec 64

/-- Which value a special function returns among those R45 allows for an input that Table 2.4 does not list; function code as
Table 4.7. Log entry 6. -/
opaque specialFn : Nat → BitVec 32 → BitVec 32

/-- The element bits of a NaN in a format that has none: its block's scale makes it a NaN (R86 step 7). Log entry 6. -/
opaque nanElem : Nat → Nat

/-- SHA-384 of a byte string (FIPS 180-4, R381, R386), uninterpreted. Log entry 7. -/
opaque sha384 : List (BitVec 8) → BitVec 384

/-- Whether an ECDSA P-384 signature of a digest verifies under a public key (FIPS 186-5, R381), uninterpreted. Log entry 7. -/
opaque ecdsaOk : List (BitVec 8) → BitVec 384 → List (BitVec 8) → Bool

/-- The device key's signature of a report (R386), byte by byte. Log entry 7. -/
opaque deviceSig : List (BitVec 8) → Nat → BitVec 8

/-- The device certificate (R386), byte by byte, and its length below 4,096. Log entry 7. -/
opaque certByte : Nat → BitVec 8

/-- The length of the device certificate. Log entry 7. -/
opaque certLen : BitVec 12

/-- The module's unique identifier (Table 13.13). Log entry 5. -/
opaque uid : BitVec 64

/-- SHA-384 of the boot ROM (Table 14.6). Log entry 5. -/
opaque romHash : BitVec 384

/-- The resources that the ARGS of a request of a gate service name, for the services whose layout the spec does not give
(Table 14.3): 0 a region, 1 a sync space counter, 2 a queue, with its number. Log entry 30. -/
opaque gateNames : Nat → BitVec 384 → List (Nat × Nat)

/-- The fused digest of key slot n (Table 14.7). Log entry 5. -/
opaque keyHash : Nat → BitVec 384

/-- The reference rate of a spare kind in the factory trim region (R489). Log entry 5. -/
opaque refRate : Nat → BitVec 16

/-- The flat endpoint number that a numbering plan outside the module's own memory gives a module and local index (R311).
Log entry 15. -/
opaque planWord : Nat → Nat → BitVec 16

/-- The candidate ring that factory trim selects for a position of a port (Table 7.5). Log entry 5. -/
opaque trimRing : Nat → Nat → BitVec 2

/-- The candidate qualified as the in-field spare ring of a group of eight rings of a port (Table 7.5). Log entry 5. -/
opaque fieldRing : Nat → Nat → BitVec 2

/-- Banks of a DRAM pseudo-channel, which the spec does not number (Table 19.1). Log entry 5. -/
opaque dramBanks : BitVec 8

/-- Kardecast's JEDEC manufacturer identity (R527). Log entry 5. -/
opaque jedecMaker : BitVec 11

end Sys2Proof.Config
end

