-- ==== Sys2Proof/Machine/State.lean ====
section
/-!
DEFINITION. The state of the W9 module as plain data, grouped as the spec's chapters group it, the reasons a command can
stop, and the state after reset. A field's default value is its value after a cold reset (R391, R400), by the rule its
docstring names; where no rule gives one the value is the model's (log entry 3).
-/
namespace Sys2Proof.Machine

/-- Why a command stops the machine. -/
inductive Fault where
  /-- Raised by a meaning whose operand is no byte string the wire of that row can carry (a frame of a wrong length): safe,
  since nothing happens. Log entry 4. -/
  | illFormed
deriving DecidableEq, Repr

/-- Why a command has no meaning in the model. -/
inductive Refusal where
  /-- Raised by the dispatch for a row that has no meaning yet: safe, since nothing happens. -/
  | notModelled (mnemonic : String)
deriving DecidableEq, Repr

/-- A table keyed by a number: keys strictly rising, an unlisted key reads as the table's own default record. -/
abbrev Tbl (α : Type) := List (Nat × α)
/-- Memory: addresses strictly rising, no entry equal to 0, which is what an unlisted address reads as (log entry 2). -/
abbrev Memory := List Host.Cell

/-! ### Ricks (R56 to R61) -/

/-- A rick (R56): visible items oldest first, the current item with the number of its words already read (R57), and the
fields of RICK_COUNT that are not counts (Table 2.9). -/
structure Rick where
  items : List (List (BitVec 128)) := []
  cur : Option (List (BitVec 128) × Nat) := none
  lost : Nat := 0
  overrun : Bool := false
deriving DecidableEq, Repr

/-! ### Sync counters (09) -/

/-- A standing wait (R239, R243, Table 9.9): the waiter in SIGNALLER encoding, its threshold and decrement. -/
structure Waiter where
  who : Half
  thresh : Int
  dec : Nat
  since : Nat
  underflow : Bool := false
  layer : Half := 0
  operator : Half := 0
deriving DecidableEq, Repr

/-- Who owns a sync counter (R233 to R235, R255). -/
inductive CtrOwner where
  | free
  | image (turf : Nat)
  | leased (holder : Nat) (turf : Nat)
  | orphan (turf : Nat)
  | system (turf : Nat)
  | cell
deriving DecidableEq, Repr

/-- A sync counter with its lease and its record fields (R236, R253, Table 9.9). -/
structure Ctr where
  value : Nat := 0
  epoch : Nat := 1
  everLeased : Bool := false
  owner : CtrOwner := .free
  termUs : Nat := 10000
  renewed : Nat := 0
  orphanAt : Nat := 0
  lastHolder : Nat := 0xFFFF
  waiters : List Waiter := []
  lastSig : Half := 0
  lastRemote : Bool := false
  underflowSeen : Bool := false
  changed : Nat := 0
  changedSinceArm : Bool := false
deriving DecidableEq, Repr

/-- An event of the sync dump's log (R260, Table 9.9). -/
structure SyncEvent where
  gtc : Nat
  addr : DWord
  event : Byte
  status : Byte
  signaller : Half
  remote : Bool
  amount : Word
  epoch : Word
deriving DecidableEq, Repr

/-- A sync trace record (R497, Table 20.5). -/
structure TraceRec where
  gtc : Nat
  addr : DWord
  event : Byte
  turf : Nat
  actor : Half
  cause : Half
  layer : Half
  operator : Half
  amount : Word
  isCell : Bool
  /-- the producer: 0 to 15 a CD, 16 to 19 a quadrant sync unit -/
  producer : Nat
deriving DecidableEq, Repr

/-! ### Cells (02, 03, 04, 05) -/

/-- An effect of an issued step that comes about when the step completes (R93, R46). -/
inductive StepEffect where
  | vreg (n : Nat) (lanes : List Word)
  | lreg (n : Nat) (v : Word)
  /-- bytes at a store location, with the offsets of their marked words and whether a mark is poison (R208) -/
  | store (loc : Nat) (data : Bytes) (marks : List (Nat × Bool))
deriving DecidableEq, Repr

/-- The unit a step runs on (Table 4.1). -/
inductive StepUnit where
  | mac
  | drn
  | vec
  | mov
  | ctl
deriving DecidableEq, Repr

/-- A step that has issued and not completed (R92 to R94). -/
structure InFlight where
  unit : StepUnit
  readsV : List Nat := []
  writesV : List Nat := []
  writesL : List Nat := []
  acc : List Nat := []
  postT : Nat := 0
  postN : Nat := 0
  effects : List StepEffect := []
  /-- the tag the step issued under (R111) -/
  layer : Half := 0
  operator : Half := 0
deriving DecidableEq, Repr

/-- An accumulator slot (R42, R100): its mode, the anchor of a ledger slot, and its values by index m x 64 + n, 0 where none
is listed; an FP32 value stands in the low 32 bits. -/
structure AccSlot where
  ledger : Bool := false
  anchor : Int := 0
  vals : Tbl (BitVec 128) := []
deriving DecidableEq, Repr

/-- A Dynamic operation an access engine has outstanding (R47, R117). -/
structure AeOp where
  tag : Word
  isLoad : Bool
  addr : DWord
  loc : Nat
  len : Nat
  rep : Nat
  retries : Nat := 0
  refusedAt : Option Nat := none
deriving DecidableEq, Repr

/-- A started repeat of an entry that has not posted (R115, R116). -/
structure AeRep where
  id : Nat
  post : Byte
  opsLeft : Nat
  layer : Half
  operator : Half
  nackAct : Nat
  /-- operations of the repeat not yet issued under the limit of R47 -/
  queued : List AeOp := []
deriving DecidableEq, Repr

/-- An access engine (R47, R115 to R121): its table of 64 B entries, pointer, repeat, and what is in progress. -/
structure Ae where
  table : List (BitVec 512) := []
  ptr : Nat := 0
  rep : Nat := 0
  nextId : Nat := 0
  reps : List AeRep := []
  ops : List AeOp := []
  finished : Bool := false
  faulted : Bool := false
  gated : Bool := false
deriving DecidableEq, Repr

/-- One snapshot slot (Table 2.13): valid, and its 512 bytes as the layout gives them. -/
structure SnapSlot where
  valid : Bool := false
  data : Bytes := []
deriving DecidableEq, Repr

/-- A compute cell (R34 to R64, R91 to R126). Its store is in the module's memory and its sync counters S0 to S63 are in the
counter table. REGION_STATE of CELL_STATE is its region's. -/
structure CellSt where
  -- CELL_STATE (Table 2.7)
  running : Bool := false
  halted : Bool := false
  stoppedErr : Bool := false
  waitGated : Bool := false
  haltIssued : Bool := false
  -- CELL_ERR (Table 2.8)
  err : Word := 0
  -- loop registers and token counters (R50, R53)
  l : Tbl Word := []
  t : Tbl Nat := []
  -- vector registers, lanes 0 to 127 (Table 2.1)
  v : Tbl (List Word) := []
  acc : Tbl AccSlot := []
  rick : Rick := {}
  -- Collier
  steps : List (BitVec 256) := []
  ptr : Nat := 0
  inflight : List InFlight := []
  layer : Half := 0
  operator : Half := 0
  stepCount : Nat := 0
  stopping : Bool := false
  -- soft-start ramp (R122)
  ramp : Nat := 0
  macBusy : Bool := false
  ae0 : Ae := {}
  ae1 : Ae := {}
  steward : Bytes := []
  windows : List (BitVec 128) := []
  initL : List Word := []
  initT : List Byte := []
  lmask : Half := 0
  -- snapshot bank (Tables 2.13, 2.14)
  first : SnapSlot := {}
  latest : SnapSlot := {}
  snapHold : Bool := false
  clamps : Nat := 0
  missed : Nat := 0
  -- counters (R492): CTR_CFGn as written, PCTR0 to 7 at 0 to 7, FCTR0 to 3 at 8 to 11
  ctrCfg : Tbl DWord := []
  ctrs : Tbl Nat := []
  ledgerRange : Bool := false
deriving DecidableEq, Repr

/-- What Heartwood counts of a cell for wear (R37, R38, R130, R481, R483, R552): the GTC counts of its store corrections of the last
24 h and of its soft errors of the last 30 days, of the corrections on each mesh link it receives on of the last 24 h, and the
corrections since the last hourly records. -/
structure CellWear where
  corrections : List Nat := []
  softs : List Nat := []
  links : Tbl (List Nat) := []
  hourStore : Nat := 0
  hourLinks : Nat := 0
deriving DecidableEq, Repr

/-- A row on the mesh (R127 to R130): the receiving cell and its link, the write cycle counted from the batch start, the row with the
numbers of its marked words and whether a mark is poison. -/
structure Flit where
  cell : Nat
  link : Nat
  cycle : Nat
  row : Bytes
  marks : List (Nat × Bool)
deriving DecidableEq, Repr

/-- A CD: its retired physical columns (R137) and the staging rows of its concentrators (R135, R136): key concentrator x 128
+ row, receive rows from 64 on; a row is 512 bytes with the numbers of its marked 64-bit words. -/
structure CdSt where
  retired : List Nat := []
  staging : Tbl (Bytes × List Nat) := []
  /-- the latest writes of send staging rows: key, schedule cycle, the row and marks that stood there before (R157) -/
  rowWrites : List (Nat × Nat × Bytes × List Nat) := []
  /-- rows on the mesh -/
  flits : List Flit := []
deriving DecidableEq, Repr

/-- An arm a CD holds for a turf (R29). -/
structure HeldArm where
  regions : Nat
  attempt : Nat
  count : Nat
deriving DecidableEq, Repr

/-! ### Regions and power (16) -/

/-- Region sleep states (Table 16.1). -/
inductive Sleep where
  | s0
  | s1
  | s2
  | s3
  | s4
deriving DecidableEq, Repr

/-- A wake in progress (R421): the Kindling step, 1 to 4, 0 for the rail ramp of a wake from S3, and the attempt. -/
structure Waking where
  step : Nat
  attempt : Nat
  fromS4 : Bool
deriving DecidableEq, Repr

/-- A region (R416 to R423). -/
structure RegionSt where
  sleep : Sleep := .s4
  /-- the state a sleep in progress is going to (R419) -/
  going : Option Sleep := none
  waking : Option Waking := none
  /-- the latest request held PENDING (R419): S0 is a wake -/
  pending : Option Sleep := none
  /-- the request last carried out or superseding, for R420 -/
  asked : Sleep := .s4
  wakeFail : Bool := false
  failed : Bool := false
  failCause : Nat := 0
  needsTables : Bool := true
  altPll : Bool := false
  /-- consecutive low samples of the margin monitor (R437) -/
  lowMargin : Nat := 0
deriving DecidableEq, Repr

/-- A regulator group (R439 to R442, Table 16.8). -/
structure GroupSt where
  spareUsed : Bool := false
  onSeven : Bool := false
  lacksHeadroom : Bool := false
  misses : List (Nat × Nat) := []
  shedNext : Nat := 0
  currentMa : Nat := 0
  /-- an H = 128 request waits for the group's spare to be in (R440) -/
  spareComing : Bool := false
deriving DecidableEq, Repr

/-- A regulator phase: open, sense failed, telemetry range high, samples below 3.0 A, last value, RANGE_CHANGED (R443). -/
structure PhaseSt where
  isOpen : Bool := false
  senseFailed : Bool := false
  highRange : Bool := false
  lowSamples : Nat := 0
  value : Nat := 0
  rangeChanged : Bool := false
  firstLoss : Option Nat := none
deriving DecidableEq, Repr

/-- Clocks, time, P-states, throttle and supply (R413 to R444, R124, R125). -/
structure PowerSt where
  gtcRunning : Bool := false
  gtc : Nat := 0
  halfRate : Nat := 0
  slew : Int := 0
  /-- nanoseconds since the slew last moved the GTC -/
  slewTick : Nat := 0
  timeSource : Option Nat := none
  schedCycles : Nat := 0
  /-- module cycle count (R416) -/
  modCycles : Nat := 0
  -- P-states (R425, R426)
  target : Nat := 0
  pstate : Nat := 0
  marginCeil : Nat := 0
  powerCeil : Nat := 0
  thermalCeil : Nat := 0
  switchAt : Option (Nat × Nat) := none
  settled : Nat := 0
  p1ms : Nat := 0
  p100ms : Nat := 0
  over1ms : Nat := 0
  powerNextCheck : Nat := 0
  belowSince : Option Nat := none
  lastMarginWarn : Nat := 0
  -- throttle (R124, R125): requests in force, H in force and the announced H
  reqThermal : Nat := 0
  reqThrotN : Bool := false
  reqSupply : Bool := false
  reqPhase : List Nat := []
  h : Nat := 0
  /-- changes of H announced and not yet in effect, oldest first: count, ratio (R125) -/
  hAt : List (Nat × Nat) := []
  -- supply monitor (R444) and reference (R438)
  brownout : Bool := false
  brownoutCount : Nat := 0
  brownoutMin : Nat := 0
  vinMv : Nat := 0
  phaseFaults : Nat := 0
  marginSteps : Nat := 0
  refclk : Bool := true
  holdover : Option Nat := none
  safeStopped : Bool := false
  -- thermal (17)
  hMaxThisMs : Nat := 0
  /-- when h_thermal last became zero or nonzero, oldest first (R457) -/
  hHist : List (Nat × Bool) := []
  lastWarnAt : Nat := 0
  thermalNextCheck : Nat := 0
  shutdown : Bool := false
deriving DecidableEq, Repr

/-- A thermal sensor (R445 to R453): last value used in 1/8 degree, its states. -/
structure SensorSt where
  value : Int := 0
  isOpen : Bool := false
  substituted : Bool := false
  warn : Bool := false
  throttle : Bool := false
  period : Nat := 1000000
  noticedAt : Option Nat := none
deriving DecidableEq, Repr

/-! ### Photonic base and light (06, 07) -/

/-- A billet a transmit port has sent and keeps (R162): receive port, module slot, header, payload, and the numbers of its
poisoned 64 B half-granules. -/
structure BilletSt where
  port : Nat
  slot : Nat
  hdr : BitVec 512
  payload : Bytes
  poison : List Nat := []
deriving DecidableEq, Repr

/-- A billet that is not in place at a receive port (R162 to R164): the slot of its first sending, its CONSUME and transmit port, and
the failures counted. -/
structure PendingBillet where
  slot : Nat
  consume : Nat
  src : Nat
  turf : Nat
  failures : Nat := 0
  /-- the frame of its last sending, by the number of launches before it -/
  frame : Nat := 0
  /-- its data was not there when its slot came, and it has not been sent since (R231, R307) -/
  late : Bool := false
  /-- its receive port has found it missing or wrong and has asked for a repair (R162) -/
  noticed : Bool := false
deriving DecidableEq, Repr

/-- A request for Dynamic frames at the arbiter of a receive port (R166, R167): transmit port, turf, virtual channel, packet ids, and
its age as the model's running number. -/
structure DynReq where
  tx : Nat
  turf : Nat
  vc : Nat
  ids : List Nat
  stamp : Nat
deriving DecidableEq, Repr

/-- A grant at a transmit port (R166): receive port, turf, packet ids, the age of its request, and the frame it names by the number of
launches before it. -/
structure DynGrant where
  rx : Nat
  turf : Nat
  ids : List Nat
  stamp : Nat
  frame : Nat
deriving DecidableEq, Repr

/-- A repair that the frame launched last carries (R163): transmit port, receive port, slot of the billet's sending. -/
structure RepairPlan where
  tx : Nat
  rx : Nat
  slot : Nat
deriving DecidableEq, Repr

/-- A Protected packet whose source stalls for a place in a port's queue (R18): source endpoint, PTYPE, DEST, ARG, ADDR. -/
structure ProtWait where
  oep : Nat
  ptype : Nat
  dest : Nat
  arg : Nat
  addr : DWord
deriving DecidableEq, Repr

/-- A Dynamic packet queued at a transmit port or sent and not acknowledged (R166 to R169). -/
structure DynPkt where
  id : Nat
  dst : Nat
  turf : Nat
  vc : Nat
  pkt : Packet
  requested : Bool := false
  frame : Option Nat := none
  sentAt : Nat := 0
  sends : Nat := 0
deriving DecidableEq, Repr

/-- The state of one in-package port as transmitter and receiver (R145 to R172, R189 to R201). -/
structure PortSt where
  protectedQ : List (BitVec 128) := []
  dynQ : List DynPkt := []
  /-- granted frames (R166) -/
  grants : List DynGrant := []
  awaiting : List DynPkt := []
  held : List BilletSt := []
  pending : List PendingBillet := []
  /-- arbiter: deficit per turf (R167), the last virtual channel served per turf, and the requests at this receive port, oldest
  first -/
  deficits : Tbl Int := []
  vcLast : Tbl Nat := []
  requests : List DynReq := []
  -- light and tuning
  dark : Bool := false
  failed : Bool := false
  /-- LANE of Table 7.7 by position: lanes 0 to 15 on positions 0 to 15, 16 and 17 spare idle -/
  lanes : Tbl Nat := []
  /-- groups of eight rings (position ÷ 8) whose in-field spare ring is in use, with the position that has it (R199) -/
  fieldRing : Tbl Nat := []
  /-- positions whose in-field spare ring waits for its sweep, each with the position its lane runs on meanwhile (R199) -/
  toSweep : List (Nat × Option Nat) := []
  nextSweep : Nat := 0
  /-- the position swept, its stand-in when it has one, and the count of the start (R189, R191) -/
  sweeping : Option (Nat × Option Nat × Nat) := none
  /-- a position to be swept whose lane moves to a stand-in first: position, stand-in (R191) -/
  standIn : Option (Nat × Nat) := none
  starveSince : Option Nat := none
  starved : Nat := 0
  detune : Tbl Nat := []
  detuneRuns : Tbl Nat := []
  lastSwept : Tbl Nat := []
  /-- fibre groups: consecutive 1 s windows with uncorrectable codewords, by position (R484) -/
  codeRuns : Tbl Nat := []
deriving DecidableEq, Repr

/-- The receiver's record of one source's Protected packets (R171, R172): N, the marked numbers among the last 1,024, the
numbers whose second copy is missing, and the missing duplicates counted with their times. -/
structure SeqRec where
  newest : Option Nat := none
  marked : List Nat := []
  /-- numbers of which one copy has arrived: SEQ, the copy that arrived, the count -/
  single : List (Nat × Nat × Nat) := []
  /-- missing duplicates: parity of the missing copy, the count -/
  missing : List (Nat × Nat) := []
deriving DecidableEq, Repr

/-- A laser bank (R176 to R186): faulted, removed after a failed standby test, low samples, its drift. -/
structure BankSt where
  faulted : Bool := false
  removed : Bool := false
  lowSamples : Nat := 0
  output : Nat := 1000
  driftPermille : Int := 0
  wornAt : Option Nat := none
  /-- the group whose line window a spare bank was set to last (R177) -/
  window : Option Nat := none
deriving DecidableEq, Repr

/-- The holds of the module (R126, R164, R179, R195, R469): each with its start and end counts. -/
structure HoldSt where
  /-- the repair hold in force, with the billets it waits for: receive port and slot -/
  repair : Option (List (Nat × Nat)) := none
  /-- billets that a check found pending, for whose use the hold starts: receive port, slot, first slot of use (R164) -/
  repairDue : List (Nat × Nat × Nat) := []
  /-- repairs of the frame launched last (R163) -/
  repairs : List RepairPlan := []
  lightAt : Option Nat := none
  lightOn : Bool := false
  lightEnd : Option Nat := none
  /-- feed groups under swap -/
  swapping : List Nat := []
  /-- feed groups swapped without a hold that are not re-tuned yet, with the worn bank (R186) -/
  retuning : List (Nat × Nat) := []
  /-- the bank whose fault announced the light hold -/
  lightBank : Nat := 0
  /-- tuning holds announced, and in force: count, length in us, command (R195) -/
  tunes : List (Nat × Nat × Nat × Nat) := []
  tuning : List (Nat × Nat × Nat × Nat) := []
  swapAt : Option Nat := none
  swapOn : Bool := false
  swapEnd : Option Nat := none
deriving DecidableEq, Repr

/-- The calendar of one turf (R155, R160, R229, R305): period, entries by transmit port, gaps, descriptors by edge group and index. -/
structure Calendar where
  period : Nat := 0
  entries : List (Nat × BitVec 256) := []
  gaps : List (Nat × Nat) := []
  farBd : List (Nat × Nat × BitVec 128) := []
  fabBd : List (Nat × Nat × BitVec 128) := []
deriving DecidableEq, Repr

/-- Both sets of one turf's calendar (R461). -/
structure CalSets where
  active : Calendar := {}
  shadow : Calendar := {}
deriving DecidableEq, Repr

/-! ### Memory tiers (08) -/

/-- A write of a near-tier site: the slot it fell in (a billet's sending slot), whether a billet made it, its offset, and the bytes and
marks that stood there before and stand there after it. -/
structure SiteWrite where
  slot : Nat
  billet : Bool
  off : Nat
  was : Bytes × List Nat
  now : Bytes × List Nat
deriving DecidableEq, Repr

/-- A near-tier site (R202 to R214). -/
structure SiteSt where
  selfRefresh : Bool := false
  /-- held in self-refresh by a compute reset or by shutdown (R214) -/
  heldRefresh : Bool := false
  lastAccess : Nat := 0
  /-- error log of R207: pseudo-channel, location, GTC -/
  errors : List (Nat × Nat × Nat) := []
  /-- physical pseudo-channel of a logical one, where a spare carries it -/
  pcMap : Tbl Nat := []
  sparePcs : List Nat := [64, 65]
  corrected : Tbl (List (Nat × Nat)) := []
  /-- corrected symbols by pseudo-channel since the last hourly wear record (R483) -/
  wearCount : Tbl Nat := []
  rowCopy : Option (Nat × Nat × Nat) := none
  /-- rows whose replacement waits for the copy in progress (R210) -/
  rowWaits : List (Nat × Nat × Nat) := []
  rowsReplaced : List (Nat × Nat × Nat) := []
  migrating : Option (Nat × Nat) := none
  /-- the site's latest writes, oldest first, as billet reads see them (R157, R159) -/
  recent : List SiteWrite := []
  waitingPc : List Nat := []
  degraded : Bool := false
deriving DecidableEq, Repr

/-- A far billet held by the protocol engine (R230): port and slot, direction, unit offset, its granules by index with those
that are poisoned, whether its command is queued, whether that has ended, and whether a read's data stands ready. -/
structure FarBillet where
  port : Nat
  slot : Nat
  isWrite : Bool
  off : Nat
  data : Tbl Bytes := []
  poison : List Nat := []
  /-- the turf and, with ARRIVE_EN, the counter to signal once the unit has written it (R158, R252) -/
  turf : Nat := 0
  arrive : Option Nat := none
  queued : Bool := false
  done : Bool := false
  good : Bool := false
deriving DecidableEq, Repr

/-- A far-memory unit (R216, R224, R227, R228). -/
structure FmuSt where
  uid : DWord := 0
  bootEpoch : Word := 0
  known : Bool := false
  capGib : Nat := 0
  caps : Byte := 0
  maxLen : Nat := 0
  down : Bool := false
  registered : Bool := false
  noSublinkSince : Option Nat := none
  /-- at most 256 (R230) -/
  billets : List FarBillet := []
deriving DecidableEq, Repr

/-- A far-link command on a sublink (R217 to R221): its record, the granules of a write or those a read has returned, by INDEX,
with the poisoned ones; whether it waits for credits; what it serves: a granule of a far operation, or a far billet by port and
slot; the worst status that came back. -/
structure FarCmd where
  tag : Nat
  record : BitVec 256
  data : Tbl Bytes := []
  poison : List Nat := []
  slot : Nat := 0
  sent : Bool := false
  op : Option (Nat × Nat) := none
  billet : Option (Nat × Nat) := none
  status : Byte := 0
deriving DecidableEq, Repr

/-- A Tomic operation at a far unit whose granules are on their way (R217): the request with its turf, the granules not yet
answered, data read by granule, poison met, the first failing status, the old value of an atomic, LEDGER_RANGE. -/
structure FarOp where
  id : Nat
  unit : Nat
  turf : Nat
  pkt : Packet
  left : Nat
  data : Tbl Bytes := []
  poison : Bool := false
  status : Nat := 0
  old : BitVec 128 := 0
  ledger : Bool := false
deriving DecidableEq, Repr

/-- State of a link (Table 11.1, R223, R317). -/
inductive LinkState where
  | down
  | training
  | identify
  | inService
  | refused
deriving DecidableEq, Repr

/-- A far sublink or a fabric channel (R218 to R226, R289 to R293, R314). -/
structure LinkSt where
  state : LinkState := .down
  cause : Nat := 0
  /-- identity of the peer when the link was last in service, and the one accepted in this bring-up -/
  peerIdent : Option Bytes := none
  newIdent : Option Bytes := none
  ackSeen : Bool := false
  trainedAt : Nat := 0
  /-- the link has retrained since its first training frame (R223) -/
  retrained : Bool := false
  txSeq : Nat := 1
  rxExp : Nat := 1
  /-- a frame has been received in order since the link came up -/
  rxAny : Bool := false
  /-- when ACK last advanced or the oldest held frame was sent (R219) -/
  ackAt : Nat := 0
  retry : Bool := false
  /-- sequenced frames sent and not acknowledged: SEQ, bytes, times resent -/
  heldFrames : List (Nat × Bytes × Nat) := []
  recCredits : Tbl Nat := []
  granCredits : Tbl Nat := []
  rxHcr : Tbl Nat := []
  rxGcr : Tbl Nat := []
  txHcr : Tbl Nat := []
  txGcr : Tbl Nat := []
  txMap : Bytes := []
  rxMap : Bytes := []
  txMapAt : Option (Nat × Bytes) := none
  rxMapAt : Option (Nat × Bytes) := none
  /-- a transmit map that waits to be announced, and the receive map the module has asked its peer for (R225) -/
  mapOut : Option Bytes := none
  rxWant : Option Bytes := none
  lastGood : Nat := 0
  lostAt : Option Nat := none
  losses : Nat := 0
  cmds : List FarCmd := []
  nextTag : Nat := 0
  /-- what waits to be sent: VC, since when, the link it was queued for first, frame body -/
  waiting : List (Nat × Nat × Nat × Bytes) := []
  /-- egress arbiter of the fibre, kept with its channel 0: deficit per turf and the last virtual channel served per turf (R327) -/
  deficits : Tbl Int := []
  vcLast : Tbl Nat := []
  /-- the fibre counts as failed since this channel did not return (R314) -/
  failed : Bool := false
deriving DecidableEq, Repr

/-! ### Tomic and copy engines (10) -/

/-- An operation outstanding at its issuing unit (R270 to R272, R301). -/
structure TomicOp where
  unit : Half
  tag : Word
  pkt : Packet
  turf : Nat
  sentAt : Nat
  /-- module number of a target in another module -/
  peer : Option Nat := none
  /-- waits at its window (R301) or for a drain (R304) and is not yet sent -/
  waitingWindow : Bool := false
  /-- its request has gone on the escape channel (R302) -/
  escaped : Bool := false
  /-- what the answer serves: 0 access engine, 1 copy engine load, 2 copy engine store, 3 aperture (extra: the port),
  4 status store, 5 a store of a base unit's own (extra: a counter to signal after it, 0 for none), 6 a command's output (extra: queue x 4,096 +
  slot) -/
  purpose : Nat := 0
  extra : Nat := 0
deriving DecidableEq, Repr

/-- A copy-engine descriptor (Table 10.9) in its engine: who submitted it and how far it is. -/
structure CeDesc where
  raw : BitVec 512
  turf : Nat
  cmd : Option (Nat × Nat) := none
  srcHost : Bool := false
  dstHost : Bool := false
  started : Bool := false
  /-- bytes of a copy or fill whose operations have been issued, the stores that wait for their loads (offset and length), and
  the bytes loaded by offset, with whether they came poisoned; a HOST source stands at offset 0 -/
  next : Nat := 0
  moving : List (Nat × Nat) := []
  gather : Tbl (Bytes × Bool) := []
  /-- submitted by a cell, which names no epoch (Table 10.9) -/
  byCell : Bool := false
  /-- ended at its first failing operation or after its last (R281) -/
  ended : Bool := false
  statusSent : Bool := false
  /-- its status record is stored, or it names none, and DONE may go -/
  stored : Bool := false
  /-- DONE is on its way to a counter of the module, whose outcome the descriptor waits for (R246, R282) -/
  doneSent : Bool := false
  status : Byte := 0
  /-- bytes of the destination known to be written -/
  bytes : Nat := 0
  /-- bits 10 to 8 of the status record: LEDGER_RANGE, POISON_SEEN, INDETERMINATE -/
  flags : Nat := 0
  id : Nat := 0
deriving DecidableEq, Repr

/-- A copy engine (R277 to R283, Table 10.8). -/
structure CeSt where
  epoch : Nat := 1
  queue : List CeDesc := []
  retired : Bool := false
  nextId : Nat := 0
deriving DecidableEq, Repr

/-! ### Fabric (11) -/

/-- What the module knows of a peer module (R312, R315, R317). -/
structure PairSt where
  state : Nat := 0
  bootEpoch : Option Word := none
  uid : DWord := 0
  calEpoch : Half := 0
  lastSent : Nat := 0
deriving DecidableEq, Repr

/-- A fibre's time role and its exchange (R313, R433): whether the module leads, its outstanding request (count and REQ_ID), the
role that applies from a count, the collisions met, the role a command wants and the command; HOPS and ROOT_UID of the last
answer, and the consecutive answers with a lower HOPS than the source's. -/
structure RoleSt where
  leader : Bool := false
  pending : Option (Nat × Word) := none
  at_ : Option (Bool × Nat) := none
  collided : Nat := 0
  /-- the count from which a collided request is made again (R313) -/
  retryAt : Nat := 0
  want : Bool := false
  cmd : Option (Nat × Nat) := none
  hops : Option Nat := none
  root : DWord := 0
  better : Nat := 0
deriving DecidableEq, Repr

/-- Joining (R308 to R311). -/
inductive JoinPhase where
  | none
  | claiming
  | requested
  | member
  | founder
  | halted
  | left
deriving DecidableEq, Repr

/-- A module the founder has admitted: its number, and the NONCE of its JOIN_REQ; none for one that a new founder knows and that has not
joined it yet (R310, R311). -/
structure Member where
  uid : DWord
  number : Nat
  nonce : Option Word := none
deriving DecidableEq, Repr

/-- Fabric membership and the tables of R297. -/
structure FabricSt where
  phase : JoinPhase := .none
  epoch : Nat := 0
  nonce : Word := 0
  mode : Nat := 0
  planAddr : DWord := 0
  claimStart : Nat := 0
  /-- when the module's next claim is due (R308) -/
  claimDue : Nat := 0
  /-- what the module was when its fabric activity was halted (R310) -/
  haltedAs : JoinPhase := .none
  /-- claims heard: fabric epoch, UID, nonce -/
  claims : List (Nat × DWord × Word) := []
  founderUid : DWord := 0
  moduleNo : Nat := 0
  nextModule : Nat := 1
  members : List Member := []
  /-- MEMBERS of the FOUNDER message a member heard last (R309) -/
  admitted : Nat := 0
  /-- flat numbers of local indices 0 to 63; empty before a join, when they equal the index (R20) -/
  flat : List Nat := []
  joinCmd : Option (Nat × Nat) := none
  epTable : Memory := []
  epShadow : Memory := []
  routes : Memory := []
  routesShadow : Memory := []
  header : Memory := []
  headerShadow : Memory := []
  pairs : Tbl PairSt := []
  roles : Tbl RoleSt := []
  /-- requests outstanding and bytes per destination endpoint (R301) -/
  windows : Tbl (Nat × Nat) := []
  inbound : Tbl (Option Bytes) := []
deriving DecidableEq, Repr

/-! ### Host interface (13) -/

/-- One MSI-X vector (R354): its table entry and its pending bit. -/
structure MsixSt where
  addr : DWord := 0
  data : Word := 0
  masked : Bool := true
  pending : Bool := false
deriving DecidableEq, Repr

/-- An aperture window (R355, R364). -/
structure WindowSt where
  base : DWord
  turf : Nat
deriving DecidableEq, Repr

/-- A read through an aperture window that is not answered yet (R356): its parts by tag with length and data, the stores
of the window that were outstanding before it, whether a part was refused, whether one came poisoned. -/
structure ApRead where
  window : Nat
  parts : List (Word × Nat × Option Bytes)
  waits : List Word
  refused : Bool := false
  poisoned : Bool := false
deriving DecidableEq, Repr

/-- A PCI Express port (R330 to R332). -/
structure PcieSt where
  linkUp : Bool := false
  perst : Bool := true
  msix : Tbl MsixSt := []
  windows : Tbl WindowSt := []
  apertureErrors : Nat := 0
  reads : List ApRead := []
deriving DecidableEq, Repr

/-- STATE of a queue (Table 13.5). -/
inductive QState where
  | closed
  | opened
  | closing
  | error
deriving DecidableEq, Repr

/-- A command queue (R333 to R347). -/
structure QueueSt where
  state : QState := .closed
  cause : Nat := 0
  turf : Nat := 0
  port : Nat := 0
  sqAddr : DWord := 0
  cqAddr : DWord := 0
  sqLog2 : Nat := 4
  cqLog2 : Nat := 4
  sqMod : Bool := false
  cqMod : Bool := false
  vecEn : Bool := false
  vector : Nat := 0
  partner : Nat := 0
  partnerCtr : DWord := 0
  dCtr : Nat := 0
  sqHead : Nat := 0
  sqTail : Nat := 0
  cqHead : Nat := 0
  cqTail : Nat := 0
  phase : Bool := true
  /-- completion entries reserved for accepted commands (R340) -/
  reserved : Nat := 0
  epoch : Nat := 1
  termMs : Nat := 10
  renewed : Nat := 0
  noTerm : Bool := false
  notices : Rick := {}
  ignored : Nat := 0
  closeCmd : Option (Nat × Nat) := none
  closeMode : Nat := 0
deriving DecidableEq, Repr

/-- An accepted, uncompleted command (R341, R352): its 64 B entry, its place in the order of acceptance, started or held. -/
structure Accepted where
  q : Nat
  slot : Nat
  seq : Nat
  entry : BitVec 512
  started : Bool := false
  aux : Nat := 0
deriving DecidableEq, Repr

/-- A running or arming batch of a turf (R27 to R33). -/
structure BatchSt where
  handle : Nat
  bucket : Nat
  q : Nat
  slot : Nat
  seq : Nat
  regions : Nat
  hostCount : Bool
  startCount : Nat
  attempt : Nat
  /-- waiting for wakes or a gap before it can be armed -/
  waiting : Bool := true
  started : Bool := false
  stopping : Bool := false
  endStatus : Option (Byte × DWord) := none
  sawRepair : Bool := false
  sawLight : Bool := false
  sawThrottle : Bool := false
  startSlot : Nat := 0
  lastHalt : Nat := 0
  aborted : Bool := false
  /-- stopped by a fault: every rick's MODE is held at 1 until its completion is written (R59) -/
  recover : Bool := false
  abortCmd : Option (Nat × Nat) := none
deriving DecidableEq, Repr

/-! ### Images (21) -/

/-- The CELL record of an image, relocated (Table 21.5). -/
structure CellRec where
  cell : Nat
  lmask : Half
  initL : List Word
  initT : List Byte
  steps : List (BitVec 256)
  ae0 : List (BitVec 512)
  ae1 : List (BitVec 512)
  wins : List (BitVec 128)
deriving DecidableEq, Repr

/-- A loaded image (R509 to R521). -/
structure ImageSt where
  turf : Nat
  seed : DWord
  regionMask : Nat
  siteMask : Nat
  fmuMask : Nat
  ceMask : Nat
  columns : Nat
  period : Nat
  ctrBase : Nat
  ctrInit : List Nat
  /-- bucket, PERIODS, BV0 to BV15 -/
  buckets : List (Nat × Nat × List Word)
  cells : List CellRec
  groups : List Nat
  /-- local index, offset, length -/
  placements : List (Nat × Nat × Nat)
  /-- retained copy: site, GiB range (R516) -/
  retained : List (Nat × Nat)
  /-- section, offset and local index of each KIND 1 relocation in the CELL section (R517) -/
  reloc1 : List (Nat × Nat × Nat)
  /-- the relocated CELL section, which the retained copy holds (R516) -/
  cellSec : Bytes
  /-- the calendar and site groups that stage 8 puts in place (R513) -/
  cal : Calendar
  groupDefs : List (Nat × List Nat)
  ready : Bool := false
  loadCmd : Option (Nat × Nat) := none
deriving DecidableEq, Repr

/-! ### Firmware, stores, bring-up (14, 15, 18) -/

/-- Role of a management core (R367 to R371). -/
inductive McRole where
  | off
  | running
  | standby
  | joining
  | retired
  | failed
deriving DecidableEq, Repr

/-- A management core: its role, when it was retired, retirement times within 24 h (R370). -/
structure McSt where
  role : McRole := .off
  retiredAt : Nat := 0
  retirements : List Nat := []
deriving DecidableEq, Repr

/-- Service core: whether its physical core is removed from use (R373), and the rick of the core of its number. -/
structure ScSt where
  failed : Bool := false
  rick : Rick := {}
deriving DecidableEq, Repr

/-- A firmware image as its header gives it (Table 14.5). -/
structure FwImage where
  kind : Nat
  key : Nat
  revokeLower : Bool
  release : Nat
  svn : Nat
  peerMin : Nat
  length : Nat
  bodyHash : Bytes
  steward : Bytes := []
deriving DecidableEq, Repr

/-- A Heartwood bank (R384, R473). -/
structure HwBank where
  valid : Bool := false
  seq : Nat := 0
  img : Option FwImage := none
  booted : Bool := false
deriving DecidableEq, Repr

/-- A settings bank (Table 18.7): contents of the persisted sets by SET code, and the floors. -/
structure SetBank where
  valid : Bool := false
  seq : Nat := 0
  sets : Tbl Memory := []
  floors : Word := 0
deriving DecidableEq, Repr

/-- A defect list entry (Table 15.13). -/
structure Defect where
  kind : Nat
  origin : Nat
  unit : Nat
  detail : Word
  bootEpoch : Nat
  action : Nat
deriving DecidableEq, Repr

/-- A wear log record (Table 19.3). -/
structure WearRec where
  gtc : Nat
  bootEpoch : Nat
  rkind : Nat
  unit : Nat
  value : Word
  detail : Word
deriving DecidableEq, Repr

/-- A bank write in progress (R473, R475, R388). -/
structure BankWrite where
  heartwood : Bool
  bankB : Bool
  settings : Option SetBank := none
  image : Option FwImage := none
  cmd : Option (Nat × Nat) := none
  fromWindow : Bool := false
  rewritten : Bool := false
deriving DecidableEq, Repr

/-- The bring-up window and the resets (Tables 15.3 to 15.11), the backup domain (R397 to R399) and the pins. -/
structure BringupSt where
  args : Tbl DWord := []
  cmdIgnored : Bool := false
  step : Nat := 0
  state : Nat := 0
  resultData : DWord := 0
  resultCause : Byte := 0
  /-- the outcome a running step ends with: cause (0 for DONE) and the DATA field -/
  outcome : Byte × DWord := (0, 0)
  lastDone : Nat := 0
  /-- a fault of ORIENT, FUSE or PEAT_XTAL that only a cold reset clears, with its DATA (R402) -/
  latched : Option (Byte × DWord) := none
  /-- the running step was accepted and has not begun its action: written through SMBus, or held by CRST_N (R395, R408) -/
  awaits : Bool := false
  /-- LOAD_HEARTWOOD found no valid bank (R404), and DATA of the last LOAD_CORDWOOD (R395) -/
  noBank : Bool := false
  cwData : DWord := 0
  islandUp : Bool := false
  cfgSel : Nat := 0
  cause : Nat := 1
  prior : Nat := 0
  strapFault : Bool := false
  /-- RST_N has been asserted since thermal shutdown latched (R459) -/
  thermRst : Bool := false
  lastopScope : Nat := 0
  lastopShown : Option (Nat × Nat × Word) := none
  backupLost : Bool := false
  counts : Tbl Nat := [(0, 1)]
  bootEpoch : Nat := 1
  record : Option (Nat × Nat × Word) := none
  monotonic : Word := 0
  xtalFailed : Bool := false
  vaux : Bool := true
  /-- scopes being asserted: compute, dies (R393, R395) -/
  computeHeld : Bool := false
  crstLow : Bool := false
  diesHeld : List Nat := []
  /-- logical number of each silicon quadrant, as its orientation bump gives it (R141) -/
  orient : List Nat := []
  smbAlert : Bool := true
  faultN : Bool := false
  thermtripN : Bool := false
  /-- CLAMP_OUT is high before this count (R503) -/
  clampOutUntil : Nat := 0
  throtN : Bool := false
  -- domains released (R392, Table 1.6)
  baseOn : Bool := false
  clocksOn : Bool := false
  photonicsOn : Bool := false
  memoryOn : Bool := false
  computeOn : Bool := false
  cordwoodUp : Bool := false
  queuesUp : Bool := false
deriving DecidableEq, Repr

/-- What factory trim chose, in the factory trim region of the settings store (R198, Table 7.5); the choice of rings stands in Config
(log entry 130). -/
structure TrimSt where
  /-- the two spare positions of a port -/
  spares : Tbl (Nat × Nat) := []
  /-- the bus waveguide of each nine that is the spare, by group of 8 ports; the 16 spare waveguides of a bridge direction -/
  busSpare : Tbl Nat := []
  bridgeSpares : Tbl (List Nat) := []
  /-- first comb line of a bank's window for a feed group's group, at bank x 2 + group -/
  windows : Tbl Nat := []
  /-- bias and line power set points of a bank -/
  setPoints : Tbl (Nat × Nat) := []
deriving DecidableEq, Repr

/-- Firmware and the management complex (14, 18, 19). -/
structure FirmSt where
  trim : TrimSt := {}
  mcs : Tbl McSt := []
  duplexHeld : Bool := false
  fatal : Bool := false
  scs : Tbl ScSt := []
  /-- physical service core of each logical one (R373) -/
  scMap : Tbl Nat := []
  runningHw : Option FwImage := none
  runningBankB : Bool := false
  runningCw : Option FwImage := none
  /-- the staging half and the running half of the code store (R366) -/
  staged : Memory := []
  runHalf : Memory := []
  stagedTop : Nat := 0
  activating : Option (Nat × Nat) := none
  bankA : HwBank := {}
  bankB : HwBank := {}
  setA : SetBank := {}
  setB : SetBank := {}
  setInForceB : Bool := false
  seqInForce : Nat := 0
  floors : Word := 0
  revoked : List Nat := []
  stewardCopy : Bytes := []
  write : Option BankWrite := none
  storeFail : Bool := false
  defects : List Defect := []
  listFull : Bool := false
  wear : List WearRec := []
  operDays : Nat := 0
  busErrors : Nat := 0
  /-- kinds for which SPARE_LOW has reported a projection below 12 months (R487) -/
  lowKinds : List Nat := []
  /-- spares removed (R479) and spares taken, by kind x 65,536 + pool -/
  sparesFailed : Tbl Nat := []
  sparesTaken : Tbl Nat := []
  /-- substitutions deferred by R482: kind, unit, detail -/
  deferred : List (Nat × Nat × Word) := []
  /-- wear figures of the cells -/
  cellWear : Tbl CellWear := []
  /-- cells whose fault Heartwood retests once their Colliers stand at a step boundary, and whether they pass (R31, R38, R552) -/
  retests : List (Nat × Bool) := []
  selfTest : Tbl Nat := []
  gateAnswers : List (Nat × Byte × Byte × DWord) := []
deriving DecidableEq, Repr

/-- One configuration set (R461 to R466): active, shadow, generation, and the announced swap: count, new generation, command. -/
structure CfgSet where
  active : Memory := []
  shadow : Memory := []
  generation : Nat := 0
  announced : Option (Nat × Nat × Option (Nat × Nat)) := none
deriving DecidableEq, Repr

/-- A drained swap in progress (R304, R469): routing or the turf's calendar; its command; the new epoch; whether it is an
unload's (R518); the count from which the 50 us bound runs. -/
structure Drain where
  routing : Bool
  turf : Nat
  cmd : Nat × Nat
  epoch : Nat
  unload : Option Nat := none
  since : Nat := 0
  leaving : Bool := false
  /-- the drain of a FAB_LEAVE, which ends the module's membership (Table 11.12) -/
  fabLeave : Bool := false
deriving DecidableEq, Repr

/-! ### Observability (20) -/

/-- A running sync trace (R497, R498). -/
structure TraceSt where
  buffer : DWord
  length : Nat
  select : Nat
  wrap : Bool
  startGtc : Nat
  written : Nat := 0
  dropped : Nat := 0
  next : Nat := 64
  wrapped : Bool := false
deriving DecidableEq, Repr

/-- A digest's running figures over one cell (R500, R501). -/
structure DigestAcc where
  crc : DWord := 0
  elements : Nat := 0
  min : Option Word := none
  max : Option Word := none
  absmax : Option Word := none
  sum : BitVec 128 := 0
  range : Bool := false
  zeros : Nat := 0
  nans : Nat := 0
  infs : Nat := 0
deriving DecidableEq, Repr

/-- An armed digest slot of a turf (R499): filter, anchor, figures by cell for the batch that runs and for the last one. -/
structure DigestSt where
  operator : Half
  layer : Half
  layerAny : Bool
  anchor : Int
  cur : Tbl DigestAcc := []
  done : Tbl DigestAcc := []
deriving DecidableEq, Repr

/-- An Ash record (R507, R508). -/
structure AshRec where
  id : Nat
  trigger : Nat
  turf : Nat
  pinned : Bool
  gtc : Nat
  data : Bytes
deriving DecidableEq, Repr

/-- An arrival signal on its way (R252, R283): the endpoint that signals, ADDR of its packet, the turf of what arrived, and the STORE that
is answered once its outcome is known. -/
structure Arriving where
  oep : Nat
  addr : DWord
  turf : Nat
  store : Option Packet := none
  operand : BitVec 128 := 0
deriving DecidableEq, Repr

/-- Events that a rule has the module count and that Table 20.1 gives no counter (log entry 113). -/
inductive Tally where
  /-- an operation at an unmapped OFFSET of a local index (R22) -/
  | unmapped (ix : Nat)
  /-- a packet discarded at a receive port (R168) -/
  | badPacket (port : Nat)
  /-- an atomic left indeterminate, by its issuing unit (R226, R272) -/
  | indeterminate (unit : Nat)
  /-- an answer to an operation that is no longer outstanding, by its unit (R32, R315) -/
  | lateAnswer (unit : Nat)
  /-- a packet dropped at a fibre that fails check 1 or 5 (R295) -/
  | fabricDrop (fibre : Nat)
  /-- an operation that its issuing unit does not send (R263) -/
  | notSent (unit : Nat)
  /-- a signal refused at a CD, or by no counter: the local index its ENDPOINT names, 64 for none (R247) -/
  | signalRefused (ix : Nat)
  /-- a LEDGER_RANGE event at a site (R84) -/
  | ledgerRange (site : Nat)
deriving DecidableEq, Repr

/-- Counters, traces, digests, Clamp, Ash store. -/
structure ObsSt where
  /-- the counts of R22, R32, R84, R168, R226, R247, R272, R295 and R315 -/
  tallies : List (Tally × Nat) := []
  /-- counter sets 1 to 5: key SET x 2^20 + unit x 16 + index (Table 20.1) -/
  ctrs : Tbl Nat := []
  clampCtrs : Tbl Nat := []
  lastXturf : Tbl Nat := []
  /-- frames every transmit port has launched; of index 4 of SET 1 the table holds what to take from it -/
  launches : Nat := 0
  clampLaunches : Nat := 0
  traceRing : List TraceRec := []
  traces : Tbl TraceSt := []
  digests : Tbl (List DigestSt) := []
  clampMask : Nat := 4
  clampCompare : Option Nat := none
  /-- announced Clamp counts that have not been reached (R502, R503) -/
  clampAt : List Nat := []
  lastClampAt : Option Nat := none
  lateClamps : Nat := 0
  ash : List AshRec := []
  nextAsh : Nat := 1
deriving DecidableEq, Repr

/-- Something the module emitted on an interface that no other field holds. -/
inductive Out where
  | msix (port vector : Nat)
  | pcieRead (port : Nat) (data : Bytes) (poisoned : Bool)
  | rickWord (w : BitVec 128)
  | frame (port : Nat) (hdr : BitVec 512) (payload : Bytes)
  | mgmt (link : Nat) (msg : Bytes)
  | linkFrame (link : Nat) (frame : Bytes)
  | repairRequest (oep port slot : Nat)
  | frameAck (port : Nat)
deriving DecidableEq, Repr

/-- The state of the module. -/
structure State where
  /-- commands that are waiting, first in first out -/
  pending : List Instr := []
  /-- the model's own: how many free values have been drawn (log entry 1) -/
  drawn : Nat := 0
  bu : BringupSt := {}
  pw : PowerSt := {}
  regions : Tbl RegionSt := []
  groups : Tbl GroupSt := []
  phases : Tbl PhaseSt := []
  sensors : Tbl SensorSt := []
  cells : Tbl CellSt := []
  cds : Tbl CdSt := []
  /-- MODE of every rick is held at 1 (R59): from reset until QUEUES_ENABLE completes, and in the test modes -/
  ricksHeld : Bool := true
  /-- held arms: key CD x 64 + turf -/
  arms : Tbl HeldArm := []
  ctrs : Tbl Ctr := []
  syncLog : List SyncEvent := []
  /-- cell stores and near-tier sites, by module-local global address -/
  mem : Memory := []
  /-- marked 64-bit store words and poisoned 64 B half-granules, by address, strictly rising -/
  marks : List Nat := []
  /-- the marked store words whose mark is the poison of R207 and no error of the cell's own (R208), strictly rising -/
  poison : List Nat := []
  /-- what the module has written to host memory, by bus address, per port at port x 2^64 -/
  hostMem : Memory := []
  /-- writes to sites that a compute reset or a shutdown holds: key, bytes, poisoned (R26, R214) -/
  siteWaits : List (Nat × Bytes × Bool) := []
  /-- symbols in error that a site's half-granules hold, by address of the half-granule (R206) -/
  flaws : Tbl Nat := []
  ports : Tbl PortSt := []
  /-- Protected packets whose sources stall (R18) -/
  protHeld : List ProtWait := []
  /-- key source OEP x 64 + destination OEP: next SEQ (R171) -/
  seqNext : Tbl Nat := []
  seqRecs : Tbl SeqRec := []
  banks : Tbl BankSt := []
  /-- feed group quadrant x 16 + f: the bank its selector takes -/
  selectors : Tbl Nat := []
  holds : HoldSt := {}
  cals : Tbl CalSets := []
  sites : Tbl SiteSt := []
  siteGroups : Tbl (List Nat) := []
  allocs : List (Nat × Nat × Nat × Nat) := []
  fmus : Tbl FmuSt := []
  farOps : List FarOp := []
  links : Tbl LinkSt := []
  ops : List TomicOp := []
  /-- arrival signals on their way, oldest first (R252) -/
  arrivals : List Arriving := []
  /-- next TAG of each issuing unit (R271) -/
  tags : Tbl Nat := []
  /-- answers of the last 256 atomics per issuing unit: unit, tag, answer (R271) -/
  atoms : List (Nat × Word × Packet) := []
  ces : Tbl CeSt := []
  fab : FabricSt := {}
  pcie0 : PcieSt := {}
  pcie1 : PcieSt := {}
  queues : Tbl QueueSt := []
  accepted : List Accepted := []
  nextSeq : Nat := 0
  /-- last queue served in the round (R341) -/
  lastServed : Option Nat := none
  images : Tbl ImageSt := []
  batches : Tbl BatchSt := []
  /-- when the last batch of a turf ended (R193) -/
  batchEnds : Tbl Nat := []
  /-- turfs that accepted the downgrade (R195), and gaps: turf, start (0 while it waits for a batch to end), length, command -/
  tuneAccepted : List Nat := []
  tuneGaps : List (Nat × Nat × Nat × Nat × Nat) := []
  firm : FirmSt := {}
  cfg : Tbl CfgSet := []
  drain : Option Drain := none
  obs : ObsSt := {}
  out : List Out := []
deriving DecidableEq, Repr

/-- The module right after a cold reset with its strap read as slot 0 (R391, R397, R400). -/
def State.reset : State := {}

end Sys2Proof.Machine
end

