-- ==== Sys2Proof/Machine/Bytes.lean ====
section
/-!
DEFINITION. Bit fields, little-endian byte strings, sorted tables, memory in its canonical form, and the check codes the
spec names (CRC-32C, CRC-64 ECMA-182). Nothing here is specific to a unit.
-/
namespace Sys2Proof.Machine

/-! ### Bit fields -/

/-- Bits [hi:lo] of a number. -/
def bits (v hi lo : Nat) : Nat := v / 2 ^ lo % 2 ^ (hi + 1 - lo)

/-- The number b2n of a bit. -/
def b2n (b : Bool) : Nat := if b then 1 else 0

/-- Bits set in the low n bits of a number, rising. -/
def setBits (v n : Nat) : List Nat := (List.range n).filter (fun i => v.testBit i)

/-- How many of the low n bits are set. -/
def popCount (v n : Nat) : Nat := (setBits v n).length

/-- The mask with the listed bits set. -/
def maskOf (l : List Nat) : Nat := l.foldl (fun m i => m ||| 2 ^ i) 0

/-- x ÷ y rounded up. -/
def ceilDiv (x y : Nat) : Nat := (x + y - 1) / y

/-- A two's-complement reading of the low n bits. -/
def signed (n v : Nat) : Int := if v % 2 ^ n < 2 ^ (n - 1) then (v % 2 ^ n : Nat) else (v % 2 ^ n : Nat) - (2 ^ n : Nat)

/-- The low n bits of an integer. -/
def wrap (n : Nat) (i : Int) : Nat := (i % (2 ^ n : Nat)).toNat

/-! ### Byte strings, little-endian (00, Numbers and units) -/

/-- The number a little-endian byte string spells. -/
def leNat : Bytes → Nat
  | [] => 0
  | b :: t => b.toNat + 256 * leNat t

/-- The n low bytes of a number, lowest first. -/
def natLe : Nat → Nat → Bytes
  | 0, _ => []
  | n + 1, v => BitVec.ofNat 8 v :: natLe n (v / 256)

/-- n bytes of a string from an offset. -/
def slice (bs : Bytes) (off n : Nat) : Bytes := (bs.drop off).take n

/-- The little-endian field of n bytes at an offset. -/
def leAt (bs : Bytes) (off n : Nat) : Nat := leNat (slice bs off n)

/-- A byte string cut or zero-padded to n bytes. -/
def padTo (n : Nat) (bs : Bytes) : Bytes := (bs ++ List.replicate n 0).take n

/-- Cut into pieces of n bytes, at most `fuel` of them. -/
def chunks (n : Nat) : Nat → Bytes → List Bytes
  | 0, _ => []
  | _ + 1, [] => []
  | f + 1, bs => bs.take n :: chunks n f (bs.drop n)

/-- Replace the bytes from an offset on. -/
def splice (bs : Bytes) (off : Nat) (new : Bytes) : Bytes :=
  bs.take off ++ new ++ bs.drop (off + new.length)

/-! ### Sorted tables -/

/-- The record listed under a key. -/
def tfind {α : Type} : Tbl α → Nat → Option α
  | [], _ => none
  | (k, v) :: t, key => if k = key then some v else tfind t key

/-- The record under a key, or the table's default. -/
def tget {α : Type} (t : Tbl α) (d : α) (key : Nat) : α := (tfind t key).getD d

/-- Insert or replace, keys rising. -/
def tset {α : Type} : Tbl α → Nat → α → Tbl α
  | [], key, v => [(key, v)]
  | (k, w) :: t, key, v =>
    if key < k then (key, v) :: (k, w) :: t
    else if key = k then (key, v) :: t
    else (k, w) :: tset t key v

/-- Remove a key. -/
def tdel {α : Type} (t : Tbl α) (key : Nat) : Tbl α := t.filter (fun p => p.1 ≠ key)

/-- Change every listed record. -/
def tmap {α : Type} (t : Tbl α) (f : Nat → α → α) : Tbl α := t.map (fun p => (p.1, f p.1 p.2))

/-- Insert into a strictly rising list. -/
def setIns : List Nat → Nat → List Nat
  | [], a => [a]
  | b :: t, a => if a < b then a :: b :: t else if a = b then b :: t else b :: setIns t a

/-- Remove from a list. -/
def setDel (l : List Nat) (a : Nat) : List Nat := l.filter (· ≠ a)

/-! ### Memory -/

/-- The byte at an address; an unlisted one reads 0 (log entry 2). -/
def memGet : Memory → Nat → Byte
  | [], _ => 0
  | (k, b) :: t, a => if k = a then b else memGet t a

/-- Write one byte; writing 0 removes the entry, so the form stays canonical. -/
def memSet : Memory → Nat → Byte → Memory
  | [], a, b => if b = 0 then [] else [(a, b)]
  | (k, c) :: t, a, b =>
    if a < k then (if b = 0 then (k, c) :: t else (a, b) :: (k, c) :: t)
    else if a = k then (if b = 0 then t else (a, b) :: t)
    else (k, c) :: memSet t a b

/-- The canonical form: addresses strictly rising, no byte 0. -/
def Memory.wf : Memory → Bool
  | [] => true
  | [(_, b)] => b ≠ 0
  | (k, b) :: (l, c) :: t => decide (b ≠ 0) && decide (k < l) && Memory.wf ((l, c) :: t)

/-- Read n bytes from an address. -/
def memRead (m : Memory) (a n : Nat) : Bytes := (List.range n).map (fun i => memGet m (a + i))

/-- Write a byte string from an address. -/
def memWrite : Memory → Nat → Bytes → Memory
  | m, _, [] => m
  | m, a, b :: t => memWrite (memSet m a b) (a + 1) t

/-- Write zeros over a range. -/
def memZero (m : Memory) (a n : Nat) : Memory := m.filter (fun c => c.1 < a || a + n ≤ c.1)

/-- The little-endian field of n bytes at an address. -/
def memNat (m : Memory) (a n : Nat) : Nat := leNat (memRead m a n)

/-! ### Check codes -/

/-- One byte into a reflected CRC of the given polynomial. -/
def crcByte (poly crc : Nat) (b : Byte) : Nat :=
  let step := fun (c : Nat) => if c % 2 = 1 then (c / 2) ^^^ poly else c / 2
  step (step (step (step (step (step (step (step (crc ^^^ b.toNat))))))))

/-- CRC-32C (Castagnoli), reflected, initial and final value all ones. -/
def crc32c (bs : Bytes) : Nat := (bs.foldl (crcByte 0x82F63B78) 0xFFFFFFFF) ^^^ 0xFFFFFFFF

/-- One byte into the CRC-64 of ECMA-182, most significant bit first. -/
def crc64Byte (crc : Nat) (b : Byte) : Nat :=
  let step := fun (c : Nat) =>
    if c.testBit 63 then ((c * 2) % 2 ^ 64) ^^^ 0x42F0E1EBA9EA3693 else (c * 2) % 2 ^ 64
  step (step (step (step (step (step (step (step (crc ^^^ (b.toNat * 2 ^ 56)))))))))

end Sys2Proof.Machine
end

