-- ==== Sys2Proof/Machine/Numeric.lean ====
section
/-!
DEFINITION. Number formats and arithmetic (03): exact values, decoding and rounding of every format of Table 3.1, the block
quantiser, the ledger, the stochastic rounding key, and the vector functions of Table 4.7.
-/
namespace Sys2Proof.Machine

/-- An exact value: a NaN, an infinity, or (-1)^neg x m x 2^e, zeros signed. -/
inductive FV where
  | nan
  | inf (neg : Bool)
  | fin (neg : Bool) (m : Nat) (e : Int)
deriving DecidableEq, Repr

/-- Multiply a Nat by 2^s when s >= 0. -/
def shl (m : Nat) (s : Int) : Nat := m * 2 ^ s.toNat

/-- A zero of the given sign. -/
def FV.zero (neg : Bool) : FV := .fin neg 0 0

/-- The exact product; infinity times zero is NaN (R76). -/
def FV.mul : FV → FV → FV
  | .nan, _ => .nan
  | _, .nan => .nan
  | .inf a, .inf b => .inf (a != b)
  | .inf a, .fin b m _ => if m = 0 then .nan else .inf (a != b)
  | .fin a m _, .inf b => if m = 0 then .nan else .inf (a != b)
  | .fin a m e, .fin b n f => .fin (a != b) (m * n) (e + f)

/-- The exact sum of two finite values; a zero sum of unlike signs is +0, as IEEE 754 gives to nearest. -/
def addFin (a : Bool) (m : Nat) (e : Int) (b : Bool) (n : Nat) (f : Int) : FV :=
  let lo := min e f
  let x : Int := shl m (e - lo)
  let y : Int := shl n (f - lo)
  let z := (if a then -x else x) + (if b then -y else y)
  if z = 0 then .fin (a && b) 0 lo else .fin (decide (z < 0)) z.natAbs lo

/-- The exact sum; infinities of opposite sign give NaN (R76). -/
def FV.add : FV → FV → FV
  | .nan, _ => .nan
  | _, .nan => .nan
  | .inf a, .inf b => if a = b then .inf a else .nan
  | .inf a, .fin _ _ _ => .inf a
  | .fin _ _ _, .inf b => .inf b
  | .fin a m e, .fin b n f => addFin a m e b n f

/-- The negation. -/
def FV.neg : FV → FV
  | .nan => .nan
  | .inf a => .inf (!a)
  | .fin a m e => .fin (!a) m e

/-! ### Decoding (Tables 3.2, 3.3) -/

/-- A binary interchange format with infinities and NaNs. -/
def decIeee (eb mb v : Nat) : FV :=
  let s := v.testBit (eb + mb)
  let e := v / 2 ^ mb % 2 ^ eb
  let f := v % 2 ^ mb
  let bias : Int := 2 ^ (eb - 1) - 1
  if e = 2 ^ eb - 1 then (if f = 0 then .inf s else .nan)
  else if e = 0 then .fin s f (1 - bias - mb)
  else .fin s (2 ^ mb + f) (e - bias - mb)

/-- An MX element without infinities or NaNs, bias 2^(eb-1) - 1. -/
def decMini (eb mb v : Nat) : FV :=
  let s := v.testBit (eb + mb)
  let e := v / 2 ^ mb % 2 ^ eb
  let f := v % 2 ^ mb
  let bias : Int := 2 ^ (eb - 1) - 1
  if e = 0 then .fin s f (1 - bias - mb) else .fin s (2 ^ mb + f) (e - bias - mb)

/-- The value of an element of a format code of Table 3.1, without its scale. -/
def decElem (fmt v : Nat) : FV :=
  match fmt with
  | 0 => decIeee 8 23 v
  | 1 => decIeee 5 10 v
  | 2 => decIeee 8 7 v
  | 3 => if v % 128 = 127 then .nan else decMini 4 3 v
  | 4 => decIeee 5 2 v
  | 5 => decMini 3 2 v
  | 6 => decMini 2 3 v
  | 7 => decMini 2 1 v
  | 8 => let i := signed 8 v; .fin (decide (i < 0)) i.natAbs (-6)
  | _ => .nan

/-- An MX element with its scale (R70, R71). -/
def decMx (fmt scale v : Nat) : FV :=
  if scale = 255 then .nan
  else match decElem fmt v with
    | .nan => .nan
    | .inf a => .inf a
    | .fin a m e => .fin a m (e + scale - 127)

/-- Element bits of a format (Table 3.1). -/
def fmtBits (fmt : Nat) : Nat :=
  match fmt with
  | 0 => 32 | 1 => 16 | 2 => 16 | 3 => 8 | 4 => 8 | 5 => 6 | 6 => 6 | 7 => 4 | 8 => 8 | 9 => 128 | 10 => 32 | _ => 0

/-- Whether a format is one of the MX formats. -/
def isMx (fmt : Nat) : Bool := decide (3 ≤ fmt ∧ fmt ≤ 8)

/-! ### Rounding (R69, R85 to R88, R543) -/

/-- Whether a discarded fraction rem / 2^k rounds away from zero under RMODE; `rnd` is the random word of R88. -/
def roundsAway (mode rnd : Nat) (neg : Bool) (t rem k : Nat) : Bool :=
  match mode with
  | 0 => decide (2 * rem > 2 ^ k) || (decide (2 * rem = 2 ^ k) && t % 2 == 1)
  | 1 => false
  | 2 => decide (rem ≠ 0) && !neg
  | 3 => decide (rem ≠ 0) && neg
  | _ => let d := rem * 2 ^ 32 / 2 ^ k; decide (d ≠ 0) && decide (d + rnd ≥ 2 ^ 32)

/-- The magnitude m x 2^e rounded to a multiple of 2^q, in multiples of 2^q. -/
def roundAt (mode rnd : Nat) (neg : Bool) (m : Nat) (e q : Int) : Nat :=
  if q ≤ e then shl m (e - q)
  else
    let k := (q - e).toNat
    let t := m / 2 ^ k
    if roundsAway mode rnd neg t (m % 2 ^ k) k then t + 1 else t

/-- The quantum exponent of a format with mb fraction bits and least quantum `emin` for a magnitude m x 2^e. -/
def quantum (mb : Nat) (emin : Int) (m : Nat) (e : Int) : Int :=
  max emin ((Nat.log2 m : Int) + e - mb)

/-- The magnitude code of a rounded value: exponent field and fraction together; a carry moves into the exponent. -/
def magCode (mb : Nat) (emin : Int) (mode rnd : Nat) (neg : Bool) (m : Nat) (e : Int) : Nat :=
  if m = 0 then 0
  else
    let q := quantum mb emin m e
    (q - emin).toNat * 2 ^ mb + roundAt mode rnd neg m e q

/-- Rounding to an IEEE format with eb exponent and mb fraction bits, overflow as the mode and R543 give. -/
def encIeee (eb mb mode rnd : Nat) (v : FV) : Nat :=
  let top := (2 ^ eb - 1) * 2 ^ mb
  let sgn := fun (a : Bool) => if a then 2 ^ (eb + mb) else 0
  match v with
  | .nan => top + 2 ^ (mb - 1)
  | .inf a => sgn a + top
  | .fin a m e =>
    let c := magCode mb (1 - (2 ^ (eb - 1) - 1) - mb) mode rnd a m e
    if c < top then sgn a + c
    else if mode = 1 ∨ (mode = 2 ∧ a) ∨ (mode = 3 ∧ !a) then sgn a + top - 1
    else sgn a + top

/-- FP32 to nearest, ties to even (R69). -/
def toF32 (v : FV) : Word := BitVec.ofNat 32 (encIeee 8 23 0 0 v)

/-- The value of an FP32 word. -/
def ofF32 (w : Word) : FV := decIeee 8 23 w.toNat

/-- Fraction bits, least quantum and largest finite code of an MX element format. -/
def miniParams (fmt : Nat) : Nat × Int × Nat :=
  match fmt with
  | 3 => (3, -9, 0x7E)
  | 4 => (2, -16, 0x7B)
  | 5 => (2, -4, 0x1F)
  | 6 => (3, -3, 0x1F)
  | _ => (1, -1, 0x7)

/-- One element of a quantised block (R86, steps 4 to 7), of a value already divided by the scale. -/
def encMini (fmt mode rnd : Nat) (v : FV) : Nat :=
  let w := fmtBits fmt
  match v with
  | .nan => if fmt = 3 ∨ fmt = 4 then 0x7F else Config.nanElem fmt % 2 ^ w
  | .inf a =>
    if fmt = 8 then (if a then 129 else 127)
    else (if a then 2 ^ (w - 1) else 0) + (if fmt = 4 then 0x7C else (miniParams fmt).2.2)
  | .fin a m e =>
    if fmt = 8 then
      let t := min 127 (roundAt mode rnd a m e (-6))
      if a then (256 - t) % 256 else t
    else
      let p := miniParams fmt
      (if a then 2 ^ (w - 1) else 0) + min p.2.2 (magCode p.1 p.2.1 mode rnd a m e)

/-- emax of R86. -/
def mxEmax (fmt : Nat) : Int :=
  match fmt with
  | 3 => 8 | 4 => 15 | 5 => 4 | 6 => 2 | 7 => 2 | _ => 0

/-- floor(log2) of the largest finite magnitude of a block, none when it is 0 (R86). -/
def blockTop (vs : List FV) : Option Int :=
  vs.foldl (fun acc v =>
    match v with
    | .fin _ m e =>
      if m = 0 then acc
      else
        let t := (Nat.log2 m : Int) + e
        match acc with
        | none => some t
        | some u => some (max t u)
    | _ => acc) none

/-- Quantise a block of FP32 values: the scale byte and the element codes (R86); `rnds` gives each element's random word. -/
def quantise (fmt mode : Nat) (vs : List FV) (rnds : List Nat) : Nat × List Nat :=
  let nanScale := decide (5 ≤ fmt) && vs.any (fun v => v == .nan)
  let x : Int := match blockTop vs with
    | none => 0
    | some t => max (-127) (min 127 (t - mxEmax fmt))
  let cut := fun (v : FV) => match v with
    | .fin a m e => .fin a m (e - x)
    | w => w
  (if nanScale then 255 else (x + 127).toNat,
   (List.zip vs rnds).map (fun p => encMini fmt mode p.2 (cut p.1)))

/-- FP32 to INT32 under RMODE: NaN gives 0, out of range saturates (Table 3.6). -/
def toI32 (mode rnd : Nat) (v : FV) : Word :=
  match v with
  | .nan => 0
  | .inf a => if a then 0x80000000 else 0x7FFFFFFF
  | .fin a m e =>
    let t := roundAt mode rnd a m e 0
    if a then (if t ≥ 2 ^ 31 then 0x80000000 else BitVec.ofInt 32 (-t))
    else (if t ≥ 2 ^ 31 then 0x7FFFFFFF else BitVec.ofNat 32 t)

/-- INT32 to FP32, to nearest (Table 3.6). -/
def ofI32 (w : Word) : Word :=
  let i := w.toInt
  toF32 (.fin (decide (i < 0)) i.natAbs 0)

/-! ### Ledger (R79 to R82) -/

/-- Adjust a term to the ledger of an anchor: J and whether a LEDGER_RANGE event was recorded (R80). -/
def ledgerTerm (anchor : Int) (v : FV) : Int × Bool :=
  let lim : Nat := 2 ^ 112 - 1
  match v with
  | .nan => (0, true)
  | .inf a => (if a then -(lim : Int) else lim, true)
  | .fin a m e =>
    let s := e + 100 - anchor
    let t := if 0 ≤ s then shl m s else m / 2 ^ (-s).toNat
    let lost := if 0 ≤ s then false else decide (m % 2 ^ (-s).toNat ≠ 0)
    let j := min t lim
    (if a then -(j : Int) else j, lost || decide (t > lim))

/-- Saturate to a ledger word (R81). -/
def ledgerSat (i : Int) : BitVec 128 × Bool :=
  if i > 2 ^ 127 - 1 then (BitVec.ofInt 128 (2 ^ 127 - 1), true)
  else if i < -2 ^ 127 then (BitVec.ofInt 128 (-2 ^ 127), true)
  else (BitVec.ofInt 128 i, false)

/-- A ledger addition (R81). -/
def ledgerAdd (w : BitVec 128) (j : Int) : BitVec 128 × Bool := ledgerSat (w.toInt + j)

/-- A ledger operand of anchor `b` brought to a target's anchor `a` (R82). -/
def ledgerAlign (w : BitVec 128) (a b : Int) : Int × Bool :=
  if a ≤ b then
    let r := ledgerSat (w.toInt * 2 ^ (b - a).toNat)
    (r.1.toInt, r.2)
  else
    let d := 2 ^ (a - b).toNat
    let t := w.toInt.natAbs / d
    (if w.toInt < 0 then -(t : Int) else t, decide (w.toInt.natAbs % d ≠ 0))

/-- The exact value of a ledger word (R79). -/
def ofLedger (anchor : Int) (w : BitVec 128) : FV :=
  .fin (decide (w.toInt < 0)) w.toInt.natAbs (anchor - 100)

/-! ### Stochastic rounding key (R88) -/

/-- mix64 of R88. -/
def mix64 (z : DWord) : DWord :=
  let a := (z ^^^ (z >>> 30)) * 0xbf58476d1ce4e5b9
  let b := (a ^^^ (a >>> 27)) * 0x94d049bb133111eb
  b ^^^ (b >>> 31)

/-- The key of one executed step of one cell (R88). -/
def srKey (seed : DWord) (cell stepCount : Nat) : DWord :=
  mix64 (seed ^^^ mix64 (BitVec.ofNat 64 (cell * 2 ^ 48 + stepCount % 2 ^ 48)))

/-- The random word of output element e (R88). -/
def srWord (key : DWord) (e : Nat) : Nat :=
  (mix64 (key + BitVec.ofNat 64 (e + 1) * 0x9e3779b97f4a7c15)).toNat / 2 ^ 32

/-! ### Vector functions (Table 4.7, R45, R102, R103) -/

/-- An order on FP32 words with -0 below +0 (R103). -/
def f32Key (w : Word) : Int :=
  let mag : Int := (w.toNat % 2 ^ 31 : Nat)
  if w.toNat.testBit 31 then -mag - 1 else mag

/-- Whether an FP32 word is a NaN. -/
def f32Nan (w : Word) : Bool := ofF32 w == .nan

/-- The default NaN (R67). -/
def nan32 : Word := 0x7FC00000

/-- Minimum or maximum of R103. -/
def f32MinMax (wantMax : Bool) (a b : Word) : Word :=
  if f32Nan a || f32Nan b then nan32
  else if (f32Key a < f32Key b) = wantMax then b else a

/-- a < b as IEEE compares (R103). -/
def f32Lt (a b : Word) : Bool :=
  let k := fun (w : Word) => if w.toNat % 2 ^ 31 = 0 then 0 else f32Key w
  !f32Nan a && !f32Nan b && decide (k a < k b)

/-- a = b as IEEE compares (R103). -/
def f32Eq (a b : Word) : Bool :=
  !f32Nan a && !f32Nan b && (a == b || (a.toNat % 2 ^ 31 == 0 && b.toNat % 2 ^ 31 == 0))

/-- Integer square root by bits, 64 of them. -/
def isqrt (n : Nat) : Nat :=
  (List.range 64).foldl (fun r i => if (r + 2 ^ (63 - i)) ^ 2 ≤ n then r + 2 ^ (63 - i) else r) 0

/-- One of the FP32 values within n ulp of the positive value m x 2^e (`lost`: a little more than m), the choice left open by R45; a
value beyond the FP32 range has none. -/
def withinUlps (n func : Nat) (a : Word) (neg lost : Bool) (m : Nat) (e : Int) : Word :=
  let q := quantum 23 (-149) m e
  let c := magCode 23 (-149) 1 0 false m e
  let lo := min e (-149)
  let v := shl m (e - lo)
  let off := n * 2 ^ (q - lo).toNat
  let near := fun (d : Nat) =>
    match decIeee 8 23 d with
    | .fin _ k f =>
      let w := shl k (f - lo)
      decide (w ≤ v + off) && (if lost then decide (v < w + off) else decide (v ≤ w + off))
    | _ => false
  let fit := ((List.range (3 * n + 2)).map (fun i => c + i - 2 * n)).eraseDups.filter near
  let pick := Config.specialFn func a
  match fit with
  | [] => pick
  | _ => BitVec.ofNat 32 ((if neg then 2 ^ 31 else 0) + fit.getD (pick.toNat % fit.length) c)

/-- ln 2 in units of 2^-160. -/
def ln2 : Nat := 0xb17217f7d1cf79abc9e3b39803f2f6af40f34326

/-- 2^(f / 2^160) for f below 2^160, in units of 2^-160 to some 150 bits: the exponential series. -/
def exp2Frac (f : Nat) : Nat :=
  let y := f * ln2 / 2 ^ 160
  ((List.range 50).foldl (fun (acc : Nat × Nat) i => (acc.1 + acc.2, acc.2 * y / 2 ^ 160 / (i + 1))) (0, 2 ^ 160)).1

/-- log2(y / 2^160) for y from 2^160 to 2^161, in units of 2^-160 to some 150 bits: the series of the inverse hyperbolic tangent. -/
def log2Frac (y : Nat) : Nat :=
  let z := (y - 2 ^ 160) * 2 ^ 160 / (y + 2 ^ 160)
  let z2 := z * z / 2 ^ 160
  let t := ((List.range 55).foldl (fun (acc : Nat × Nat) i => (acc.1 + acc.2 / (2 * i + 1), acc.2 * z2 / 2 ^ 160)) (0, z)).1
  2 * t * 2 ^ 160 / ln2

/-- The special functions: Table 2.4 at special inputs, and elsewhere a value within the bounds of R45, which one is free (log entry 6).
DESIGN CHOICE (log entry 6): log2 of 1, whose exact result 0 has no ulp of its own to measure R45's bound in, is +0. -/
def specialFunc (func : Nat) (a : Word) : Word :=
  let inf := fun (s : Bool) => if s then (0xFF800000 : Word) else 0x7F800000
  let zer := fun (s : Bool) => if s then (0x80000000 : Word) else 0
  match func, ofF32 a with
  | _, .nan => nan32
  | 8, .inf s => if s then 0 else inf false
  | 8, .fin s m e =>
    if m = 0 then 0x3F800000
    else if decide ((Nat.log2 m : Int) + e ≥ 8) then (if s then withinUlps 2 8 a false true 0 (-149) else inf false)
    else
      let x : Int := shl m (e + 160)
      let x := if s then -x else x
      let f := (x % 2 ^ 160).toNat
      if !s && decide (x ≥ 128 * 2 ^ 160) then inf false
      else withinUlps 2 8 a false (f != 0) (exp2Frac f) (x / 2 ^ 160 - 160)
  | 9, .inf s => zer s
  | 9, .fin s m e =>
    if m = 0 then inf s
    else
      let k := 60 + Nat.log2 m
      withinUlps 1 9 a s (decide (2 ^ k % m ≠ 0)) (2 ^ k / m) (-(k : Int) - e)
  | 10, .inf s => if s then nan32 else 0
  | 10, .fin s m e =>
    if m = 0 then inf s
    else if s then nan32
    else
      let m2 := if e % 2 = 0 then m else m * 2
      let e2 := if e % 2 = 0 then e else e - 1
      let k := 48 + Nat.log2 m2 / 2
      let r := isqrt (2 ^ (2 * k) / m2)
      withinUlps 1 10 a false (decide (r * r * m2 ≠ 2 ^ (2 * k))) r (-(k : Int) - e2 / 2)
  | _, .inf s => if s then nan32 else inf false
  | _, .fin s m e =>
    if m = 0 then inf true
    else if s then nan32
    else
      let b := Nat.log2 m
      let t : Int := ((b : Int) + e) * 2 ^ 160 + log2Frac (m * 2 ^ (160 - b))
      if t = 0 then 0
      else withinUlps 2 11 a (decide (t < 0)) (decide (m ≠ 2 ^ b)) t.natAbs (-160)

/-- FSUM's fixed tree (R102): lane i with lane i + n/2, halving down to one. -/
def treeSum : Nat → List Word → Word
  | 0, l => l.headD 0
  | n + 1, l =>
    let h := 2 ^ n
    treeSum n ((List.zip (l.take h) (l.drop h)).map (fun p => toF32 ((ofF32 p.1).add (ofF32 p.2))))

/-- 1 or 0 as INT32. -/
def flag32 (b : Bool) : Word := if b then 1 else 0

/-- One lane of a lane-by-lane function of Table 4.7. -/
def vopLane (func mode rnd : Nat) (a b c : Word) : Word :=
  match func with
  | 0x00 => toF32 ((ofF32 a).add (ofF32 b))
  | 0x01 => toF32 ((ofF32 a).add (ofF32 b).neg)
  | 0x02 => toF32 ((ofF32 a).mul (ofF32 b))
  | 0x03 => toF32 (((ofF32 a).mul (ofF32 b)).add (ofF32 c))
  | 0x04 => f32MinMax false a b
  | 0x05 => f32MinMax true a b
  | 0x06 => flag32 (f32Lt a b)
  | 0x07 => flag32 (f32Eq a b)
  | 0x08 => specialFunc 8 a
  | 0x09 => specialFunc 9 a
  | 0x0A => specialFunc 10 a
  | 0x0B => specialFunc 11 a
  | 0x0E => toI32 mode rnd (ofF32 a)
  | 0x0F => ofI32 a
  | 0x10 => a + b
  | 0x11 => a - b
  | 0x12 => a &&& b
  | 0x13 => a ||| b
  | 0x14 => a ^^^ b
  | 0x15 => a <<< (b.toNat % 32)
  | 0x16 => a >>> (b.toNat % 32)
  | 0x17 => flag32 (decide (a.toInt < b.toInt))
  | 0x18 => flag32 (a == b)
  | 0x19 => if c ≠ 0 then a else b
  | _ => 0

/-- Lanes 0 to 127 with a value in lane 0 and 0 elsewhere. -/
def lane0 (w : Word) : List Word := w :: List.replicate 127 0

/-- A vector function of Table 4.7 over 128 lanes; `rnds` gives each lane's random word for CVT_F2I in SR mode. -/
def vopResult (func mode : Nat) (imm : Word) (rnds : List Nat) (a b c : List Word) : List Word :=
  match func with
  | 0x0C => lane0 (treeSum 7 a)
  | 0x0D => lane0 ((a.drop 1).foldl (fun x y => f32MinMax true x y) (if f32Nan (a.headD 0) then nan32 else a.headD 0))
  | 0x1A => lane0 (a.foldl (· + ·) 0)
  | 0x1B => (List.range 128).map (fun i => (a.take i).foldl (· + ·) 0)
  | 0x1C =>
    let kept := ((List.zip a b).filter (fun p => p.2 ≠ 0)).map (fun p => p.1)
    (kept ++ List.replicate 128 0).take 128
  | 0x1D => List.replicate 128 imm
  | 0x1E => (List.range 128).map (fun i => BitVec.ofNat 32 i)
  | 0x1F => List.replicate 128 (a.getD (imm.toNat % 128) 0)
  | _ => (List.range 128).map (fun i => vopLane func mode (rnds.getD i 0) (a.getD i 0) (b.getD i 0) (c.getD i 0))

/-- Latency of a vector function in schedule cycles (Table 4.7). -/
def vopLatency (func : Nat) : Nat :=
  if 0x08 ≤ func ∧ func ≤ 0x0B then 27
  else if func = 0x0C ∨ func = 0x0D ∨ (0x1A ≤ func ∧ func ≤ 0x1C) then 8
  else 4

end Sys2Proof.Machine
end

