-- ==== Sys2Proof/Machine/Operands.lean ====
section
/-!
DEFINITION. Operand forms: the fields of the Collier step word (Tables 4.2 to 4.12), of an access-table entry (Tables 4.14,
4.15), of a submission entry (Table 13.7), and the checks that a step word's or an entry's fields alone decide (R98, R113, R119).
-/
namespace Sys2Proof.Machine

/-! ### Store rows (R34) -/

/-- A row range lies in one bank of the store (R98). -/
def rowsOk (first n : Nat) : Bool :=
  decide (1 ≤ n) && decide (first + n ≤ 3072) && decide (first / 768 = (first + n - 1) / 768)

/-! ### Step word -/

/-- The operation a step word names (Table 4.3). -/
inductive StepOp where
  | matmul | drain | vop | vload | vstore
  | rowcopy | ctlRead | ctlWrite | rickRead
  | wait | signal | sread | token
  | lset | ladd | lcopy | djnz | jmp | jz | jltu
  | mark | halt
deriving DecidableEq, Repr

/-- Bits [hi:lo] of a step word. -/
def sf (w : BitVec 256) (hi lo : Nat) : Nat := bits w.toNat hi lo

/-- CLASS and OP of Table 4.3, none when reserved. -/
def stepOp (w : BitVec 256) : Option StepOp :=
  match sf w 255 252, sf w 251 248 with
  | 0, 0 => some .matmul
  | 0, 1 => some .drain
  | 0, 2 => some .vop
  | 0, 3 => some .vload
  | 0, 4 => some .vstore
  | 1, 0 => some .rowcopy
  | 1, 1 => some .ctlRead
  | 1, 2 => some .ctlWrite
  | 1, 3 => some .rickRead
  | 2, 0 => some .wait
  | 2, 1 => some .signal
  | 2, 2 => some .sread
  | 2, 3 => some .token
  | 3, 0 => some .lset
  | 3, 1 => some .ladd
  | 3, 2 => some .lcopy
  | 3, 3 => some .djnz
  | 3, 4 => some .jmp
  | 3, 5 => some .jz
  | 3, 6 => some .jltu
  | 4, 0 => some .mark
  | 5, 0 => some .halt
  | _, _ => none

/-- TAKE_T and TAKE_N. -/
def stepTake (w : BitVec 256) : Nat × Nat := (sf w 247 244, sf w 243 240)
/-- POST_T and POST_N. -/
def stepPost (w : BitVec 256) : Nat × Nat := (sf w 239 236, sf w 235 232)
/-- FENCE. -/
def stepFence (w : BitVec 256) : Bool := w.toNat.testBit 231

/-- The unit of Table 4.1 a step runs on. -/
def stepUnit : StepOp → StepUnit
  | .matmul => .mac
  | .drain => .drn
  | .vop => .vec
  | .vload => .vec
  | .vstore => .vec
  | .rowcopy => .mov
  | .ctlRead => .mov
  | .ctlWrite => .mov
  | .rickRead => .mov
  | _ => .ctl

/-- The reserved body bit ranges of each step (Tables 4.4 to 4.11, R111, R112). -/
def reservedBits : StepOp → List (Nat × Nat)
  | .matmul => [(120, 0)]
  | .drain => [(200, 0)]
  | .vop => [(157, 0)]
  | .vload => [(156, 0)]
  | .vstore => [(156, 0)]
  | .rowcopy => [(189, 0)]
  | .ctlRead => [(207, 0)]
  | .ctlWrite => [(211, 208), (202, 192), (159, 0)]
  | .rickRead => [(223, 217), (211, 0)]
  | .wait => [(148, 0)]
  | .signal => [(216, 186), (153, 128), (63, 0)]
  | .sread => [(217, 212), (207, 0)]
  | .token => [(223, 0)]
  | .mark => [(191, 0)]
  | .halt => [(223, 0)]
  | _ => [(204, 192), (159, 0)]

/-! MATMUL fields (Table 4.4) -/

/-- A matrix step's operands, K as given by the word or a loop register. -/
structure MatOp where
  fmtA : Nat
  fmtB : Nat
  sparse : Bool
  ledger : Bool
  init : Bool
  acc : Nat
  anchor : Int
  aRow : Nat
  asRow : Nat
  bRow : Nat
  bsRow : Nat
  metaRow : Nat
  k : Nat
deriving DecidableEq, Repr

/-- The fields of a MATMUL; `l` reads a loop register for K_FROM_L. -/
def matOp (w : BitVec 256) (l : Nat → Word) : MatOp :=
  { fmtA := sf w 223 220, fmtB := sf w 219 216, sparse := w.toNat.testBit 215, ledger := w.toNat.testBit 214,
    init := w.toNat.testBit 213, acc := sf w 212 210, anchor := signed 8 (sf w 209 202),
    aRow := sf w 201 190, asRow := sf w 189 178, bRow := sf w 177 166, bsRow := sf w 165 154,
    metaRow := sf w 153 142,
    k := if w.toNat.testBit 125 then (l (sf w 124 121)).toNat else sf w 141 126 }

/-- Rows of an element area of `ks` K-steps (R72). -/
def elemRows (fmt ks : Nat) : Nat := ceilDiv (ks * 64 * fmtBits fmt) 4096

/-- The areas a matrix step reads: first row and rows, elements of A and B, scales, metadata (Table 4.4, R72, R75). -/
def matAreas (o : MatOp) : List (Nat × Nat) :=
  [(o.aRow, elemRows o.fmtA (if o.sparse then o.k / 2 else o.k)), (o.bRow, elemRows o.fmtB o.k)]
  ++ (if isMx o.fmtA then [(o.asRow, ceilDiv (ceilDiv o.k 32 * 64) 512), (o.bsRow, ceilDiv (ceilDiv o.k 32 * 64) 512)] else [])
  ++ (if o.sparse then [(o.metaRow, ceilDiv (ceilDiv o.k 4 * 32) 512)] else [])

/-- Operand pairings of R77. -/
def pairingOk (o : MatOp) : Bool :=
  ((isMx o.fmtA && isMx o.fmtB) || (o.fmtA == o.fmtB && decide (o.fmtA ≤ 2)))
  && (!o.ledger || (decide (3 ≤ o.fmtA ∧ o.fmtA ≤ 7) && decide (3 ≤ o.fmtB ∧ o.fmtB ≤ 7)))
  && (!o.sparse || o.fmtA == 3 || o.fmtA == 4 || o.fmtA == 7)

/-- K and the areas (Table 4.4, R73, R98). -/
def matKOk (o : MatOp) : Bool :=
  decide (1 ≤ o.k ∧ o.k ≤ 65535) && (!isMx o.fmtA || o.k % 32 == 0)
  && (matAreas o).all (fun a => rowsOk a.1 a.2)

/-! VLOAD and VSTORE fields (Table 4.8) -/

/-- A vector load's or store's operands, rows as R105 adds the loop register. -/
structure VecMem where
  fmt : Nat
  rmode : Nat
  vr : Nat
  row : Nat
  byteOff : Nat
  scaleRow : Nat
  scaleOff : Nat
  anchor : Int
deriving DecidableEq, Repr

/-- The fields of a VLOAD or VSTORE; `l` reads a loop register for ROW_FROM_L. -/
def vecMem (w : BitVec 256) (l : Nat → Word) : VecMem :=
  let add := if w.toNat.testBit 161 then (l (sf w 160 157)).toNat else 0
  { fmt := sf w 223 220, rmode := sf w 219 217, vr := sf w 216 212, row := sf w 211 200 + add,
    byteOff := sf w 199 191, scaleRow := sf w 190 179 + add, scaleOff := sf w 178 170, anchor := signed 8 (sf w 169 162) }

/-- Bytes of 128 elements (R105). -/
def vecBytes (fmt : Nat) : Nat := 16 * fmtBits fmt

/-- The placements of R105 that the offsets decide. -/
def vecOffOk (o : VecMem) : Bool :=
  decide (o.fmt ≤ 10) && o.byteOff % 32 == 0 && (o.fmt == 9 && o.byteOff == 0 || decide (o.byteOff + vecBytes o.fmt ≤ 512))
  && (!isMx o.fmt || (o.scaleOff % 4 == 0 && decide (o.scaleOff + 4 ≤ 512)))

/-- The rows of R105 lie in their bank. -/
def vecRowOk (o : VecMem) : Bool :=
  rowsOk o.row (if o.fmt = 9 then 4 else 1) && (!isMx o.fmt || rowsOk o.scaleRow 1)

/-- A control-space offset that Table 2.5 maps and a CTL_READ may name (R107). -/
def ctlReadOk (o : Nat) : Bool :=
  o % 4 == 0 && (decide (o ≤ 8) || o == 0x10 || o == 0x14 || decide (0x40 ≤ o ∧ o < 0x90) || o == 0xC0
    || decide (0x100 ≤ o ∧ o < 0x200) || decide (0x400 ≤ o ∧ o < 0x800))

/-- Destination rows of a DRAIN (R43, R101). -/
def drainRows (fmt : Nat) : Nat := if fmt = 9 then 128 else if fmt = 0 then 32 else 16

/-- The conditions that a step word's fields alone decide (R113); `nsteps` is the table's length (log entry 8). DESIGN CHOICE (log entry 8):
a row field that the form does not use (AS_ROW, BS_ROW and SCALE_ROW outside MX, META_ROW when dense) and TARGET of a loop step that does
not jump (LSET, LADD, LCOPY) may hold any value. -/
def stepStaticOk (nsteps : Nat) (w : BitVec 256) : Bool :=
  match stepOp w with
  | none => false
  | some op =>
    sf w 230 224 == 0 && (reservedBits op).all (fun r => sf w r.1 r.2 == 0) &&
    (match op with
     | .matmul =>
       let o := matOp w (fun _ => 0)
       let kl := w.toNat.testBit 125
       pairingOk o && (!o.ledger || decide (o.acc < 2)) && (kl || matKOk o)
         && (!kl || (matAreas { o with k := 32 }).all (fun a => decide (a.1 < 3072)))
     | .drain =>
       let f := sf w 223 220
       (decide (f ≤ 2) || f == 9) && decide (sf w 219 217 ≤ 4) && rowsOk (sf w 212 201) (drainRows f)
     | .vop => decide (sf w 223 218 < 32) && decide (sf w 197 195 ≤ 4)
     | .vload | .vstore =>
       let o := vecMem w (fun _ => 0)
       decide (o.rmode ≤ 4) && vecOffOk o &&
         (if w.toNat.testBit 161 then decide (o.row < 3072) && (!isMx o.fmt || decide (o.scaleRow < 3072)) else vecRowOk o)
     | .rowcopy =>
       let a := sf w 223 212
       let d := sf w 211 200
       let n := sf w 199 190
       decide (n ≤ 768) && rowsOk a n && rowsOk d n && (decide (a + n ≤ d) || decide (d + n ≤ a))
     | .ctlRead => ctlReadOk (sf w 223 212)
     | .ctlWrite => sf w 223 212 == 0x14
     | .wait => decide (sf w 185 154 < 2 ^ 31)
     | .signal => decide (1 ≤ sf w 185 154) && decide (sf w 185 154 < 2 ^ 31)
     | .djnz | .jmp | .jz | .jltu => decide (sf w 215 205 < nsteps)
     | _ => true)

/-! ### Access-table entry (Tables 4.14, 4.15) -/

/-- The little-endian field of n bytes at an offset of a 64 B record held as one number. -/
def fld (w : BitVec 512) (off n : Nat) : Nat := bits w.toNat (8 * (off + n) - 1) (8 * off)

/-- KIND. -/
def aeKind (w : BitVec 512) : Nat := fld w 0 1
/-- NACK_ACT. -/
def aeNackAct (w : BitVec 512) : Nat := bits w.toNat 9 8
/-- TAKE: token and amount. -/
def aeTake (w : BitVec 512) : Nat × Nat := (bits w.toNat 19 16, bits w.toNat 23 20)
/-- COUNT. -/
def aeCount (w : BitVec 512) : Nat := fld w 4 2
/-- NBUF. -/
def aeNbuf (w : BitVec 512) : Nat := fld w 6 1
/-- LAYER. -/
def aeLayer (w : BitVec 512) : Half := BitVec.ofNat 16 (fld w 8 2)
/-- OPERATOR. -/
def aeOperator (w : BitVec 512) : Half := BitVec.ofNat 16 (fld w 10 2)
/-- First row of the buffer of repeat r (R115). -/
def aeBufRow (w : BitVec 512) (r : Nat) : Nat := fld w 12 2 + r % (max 1 (aeNbuf w)) * fld w 14 2

/-- Number of bytes of an entry that Table 4.15 names for its kind, beyond the 16 B header, as the reserved rest. -/
def aeReservedOk (w : BitVec 512) : Bool :=
  match aeKind w with
  | 0 => fld w 1 63 == 0
  | 1 | 2 => fld w 36 28 == 0 && bits w.toNat 15 10 == 0 && fld w 7 1 == 0
  | 3 | 4 => fld w 48 16 == 0 && bits w.toNat 15 10 == 0 && fld w 7 1 == 0
  | 5 => fld w 28 36 == 0 && bits w.toNat 15 10 == 0 && fld w 7 1 == 0
  | 6 => fld w 17 3 == 0 && fld w 28 36 == 0 && bits w.toNat 15 10 == 0 && fld w 7 1 == 0
  | _ => fld w 28 36 == 0 && bits w.toNat 15 10 == 0 && fld w 7 1 == 0

/-- Every buffer an entry names lies within one bank (R98): the rows one buffer moves, of every buffer of the ring. -/
def aeBufsOk (w : BitVec 512) (rows : Nat) : Bool :=
  (List.range (aeNbuf w)).all (fun b => rowsOk (fld w 12 2 + b * fld w 14 2) rows)

/-- The checks of an access-table entry at load (R115, R119, R120, R98). Log entry 8. -/
def aeStaticOk (w : BitVec 512) : Bool :=
  aeReservedOk w &&
  (if aeKind w = 0 then true
   else decide (aeKind w ≤ 8) && decide (1 ≤ aeCount w) && decide (1 ≤ aeNbuf w ∧ aeNbuf w ≤ 16) && decide (aeNackAct w ≤ 2) &&
    (match aeKind w with
     | 1 | 2 =>
       let len := fld w 32 4
       len % 256 == 0 && decide (256 ≤ len) && decide (len ≤ fld w 14 2 * 512) && aeBufsOk w (ceilDiv len 512)
     | 3 | 4 =>
       let eb := fld w 32 4
       let mc := fld w 40 4
       eb % 256 == 0 && decide (256 ≤ eb ∧ eb ≤ 4096) && decide (mc * eb ≤ fld w 14 2 * 512)
         && aeBufsOk w (max 1 (ceilDiv (mc * eb) 512))
         && (List.range (aeNbuf w)).all (fun b => rowsOk (fld w 36 2 + b * fld w 38 2) (fld w 38 2))
     | 5 => decide (1 ≤ fld w 24 4 ∧ fld w 24 4 < 2 ^ 31)
     | 6 => decide (fld w 16 1 < 64) && decide (fld w 24 4 < 2 ^ 31)
     | _ => decide (1 ≤ fld w 24 2) && aeBufsOk w (fld w 24 2)))

/-! ### Submission entry (Table 13.7) -/

/-- OPCODE. -/
def sqOpcode (w : BitVec 512) : Nat := fld w 0 2
/-- FLAGS. -/
def sqFlags (w : BitVec 512) : Nat := fld w 2 2
/-- FENCE. -/
def sqFence (w : BitVec 512) : Bool := (sqFlags w).testBit 0
/-- NOTIFY. -/
def sqNotify (w : BitVec 512) : Bool := (sqFlags w).testBit 1
/-- PROTECTED. -/
def sqProtected (w : BitVec 512) : Bool := (sqFlags w).testBit 2
/-- TAG. -/
def sqTag (w : BitVec 512) : Word := BitVec.ofNat 32 (fld w 4 4)
/-- TURF. -/
def sqTurf (w : BitVec 512) : Nat := bits w.toNat 69 64
/-- ARG0 to ARG5. -/
def sqArg (w : BitVec 512) (i : Nat) : Nat := fld w (16 + 8 * i) 8

end Sys2Proof.Machine
end

