-- ==== Sys2Proof/Machine/Flags.lean ====
section
/-!
DEFINITION. Status codes and register words: how the registers the spec numbers are composed from State (Tables 2.6 to 2.14,
10.8, 13.5, 13.9, 15.5 to 15.11).
-/
namespace Sys2Proof.Machine

/-! ### Status codes (Table 13.9) -/
/-- `OK`. -/
abbrev stOk : Nat := 0x00
/-- `BUSY`. -/
abbrev stBusy : Nat := 0x02
/-- `NEEDS_DRAIN`. -/
abbrev stNeedsDrain : Nat := 0x03
/-- `DRAIN_TIMEOUT`. -/
abbrev stDrainTimeout : Nat := 0x04
/-- `DENIED`. -/
abbrev stDenied : Nat := 0x05
/-- `BAD_ARG`. -/
abbrev stBadArg : Nat := 0x06
/-- `NO_RESOURCE`. -/
abbrev stNoResource : Nat := 0x07
/-- `PEER_RESTARTED`. -/
abbrev stPeerRestarted : Nat := 0x08
/-- `SWAP_COLLIDED`. -/
abbrev stSwapCollided : Nat := 0x09
/-- `NOT_COMMITTED`. -/
abbrev stNotCommitted : Nat := 0x0A
/-- `WAKE_FAIL`. -/
abbrev stWakeFail : Nat := 0x0B
/-- `VERSION_MISMATCH`. -/
abbrev stVersionMismatch : Nat := 0x0C
/-- `LEASE_REVOKED`. -/
abbrev stLeaseRevoked : Nat := 0x0D
/-- `PARSE_ERROR`. -/
abbrev stParseError : Nat := 0x0E
/-- `INTERNAL`. -/
abbrev stInternal : Nat := 0x0F

/-! ### Numbering (R4) -/

/-- The region of a module cell. -/
def regionOf (c : Nat) : Nat := c / 256 * 4 + c % 256 / 64

/-- The cells of a region, ascending. -/
def regionCells (r : Nat) : List Nat := (List.range 64).map (fun i => r * 64 + i)

/-- The concentrator of a cell within its CD (R135). -/
def concOf (c : Nat) : Nat := c % 256 / 16 / 2 * 8 + c % 16 / 2

/-! ### Ricks (Tables 2.9 to 2.11) -/

/-- Words held by visible items, the current one included. -/
def Rick.words (r : Rick) : Nat :=
  (r.items.map List.length).sum + (match r.cur with | none => 0 | some p => p.1.length)

/-- Visible items. -/
def Rick.count (r : Rick) : Nat := r.items.length + (match r.cur with | none => 0 | some _ => 1)

/-- RICK_COUNT (Table 2.9). -/
def rickCountWord (r : Rick) : Nat :=
  r.lost % 65536 * 2 ^ 16 + b2n r.overrun * 2 ^ 15 + r.words * 2 ^ 8 + r.count

/-- Item word 0 (Table 2.11); `len` is the words of the item minus 1. -/
def itemHead (prio len code source gtc : Nat) : BitVec 128 :=
  BitVec.ofNat 128 (prio * 2 ^ 125 + len * 2 ^ 123 + code * 2 ^ 96 + source % 2 ^ 32 * 2 ^ 64 + gtc % 2 ^ 64)

/-- Word 1 of SIGNAL_REFUSED and OP_NACK (Table 2.12). -/
def refusedWord (addr : DWord) (status issuer : Nat) : BitVec 128 :=
  BitVec.ofNat 128 (addr.toNat * 2 ^ 64 + status * 2 ^ 48 + issuer * 2 ^ 40)

/-! ### Cell registers (Tables 2.7, 2.14) -/

/-- The number of a sleep state. -/
def Sleep.num : Sleep → Nat
  | .s0 => 0
  | .s1 => 1
  | .s2 => 2
  | .s3 => 3
  | .s4 => 4

/-- The sleep state of a number. -/
def Sleep.ofNum : Nat → Sleep
  | 0 => .s0
  | 1 => .s1
  | 2 => .s2
  | 3 => .s3
  | _ => .s4

/-- Loop register n. -/
def CellSt.loop (x : CellSt) (n : Nat) : Word := tget x.l 0 n

/-- Token counter n. -/
def CellSt.token (x : CellSt) (n : Nat) : Nat := tget x.t 0 n

/-- Whether a take of n from token t succeeds (R50); an amount of 0 takes nothing. -/
def CellSt.canTake (x : CellSt) (t n : Nat) : Bool := decide (n ≤ x.token t)

/-- The Collier waits for the token of its next step, with no step in flight (R64, R92). -/
def CellSt.tokenWait (x : CellSt) : Bool :=
  x.running && !x.stopping && !x.haltIssued && x.inflight.isEmpty
    && (match x.steps[x.ptr]? with | some w => !x.canTake (stepTake w).1 (stepTake w).2 | none => false)

/-- The Collier side gates its clock in a wait for a sync counter or a token, once no other step is in flight (R64). -/
def CellSt.clockGated (c : CellSt) : Bool := (c.waitGated && c.inflight.all (fun i => i.unit == .ctl)) || c.tokenWait

/-- An engine gates its clock in a wait for a sync counter or for the token of its entry, when it has no operation in flight (R64). -/
def CellSt.aeClockGated (x : CellSt) (e : Ae) : Bool :=
  e.ops.isEmpty && (e.gated || (x.running && !x.stopping && !e.finished && !e.faulted
    && (match e.table[e.ptr]? with | some w => !x.canTake (aeTake w).1 (aeTake w).2 | none => false)))

/-- CELL_STATE (Table 2.7) of a cell whose region is in the given state. -/
def cellStateWord (c : CellSt) (r : Sleep) : Nat :=
  b2n c.stoppedErr * 256 + b2n c.halted * 128 + b2n (c.aeClockGated c.ae1) * 64 + b2n (c.aeClockGated c.ae0) * 32
    + b2n c.clockGated * 16 + b2n c.running * 8 + r.num

/-- SNAP_CTRL (Table 2.14). -/
def snapCtrlWord (c : CellSt) : Nat :=
  c.missed * 2 ^ 16 + c.clamps * 2 ^ 8 + b2n c.snapHold * 8 + b2n c.latest.valid * 4 + b2n c.first.valid * 2

/-! ### Host registers (Table 13.5) -/

/-- The number of a queue state. -/
def QState.num : QState → Nat
  | .closed => 0
  | .opened => 1
  | .closing => 2
  | .error => 3

/-- QUEUE_STATE (Table 13.5). -/
def queueStateWord (q : QueueSt) : Nat :=
  q.sqHead * 2 ^ 48 + q.cqTail * 2 ^ 32 + q.cause * 2 ^ 24 + q.notices.count * 2 ^ 16
    + b2n (decide (q.notices.lost ≠ 0)) * 2 ^ 15 + q.state.num

/-- Entries of a ring. -/
def QueueSt.sqSize (q : QueueSt) : Nat := 2 ^ q.sqLog2
/-- Entries of a completion ring. -/
def QueueSt.cqSize (q : QueueSt) : Nat := 2 ^ q.cqLog2

/-! ### Bring-up registers (Tables 15.5, 15.6, 15.10, 15.11) -/

/-- BU_STATUS (Table 15.5). -/
def buStatusWord (b : BringupSt) : Nat :=
  b2n b.lastopShown.isSome * 2 ^ 31 + b2n b.backupLost * 2 ^ 30 + b2n b.cmdIgnored * 2 ^ 29
    + b.cfgSel * 2 ^ 20 + b.step * 2 ^ 8 + b.state

/-- BU_RESULT (Table 15.6). -/
def buResultWord (b : BringupSt) : Nat := b.resultData.toNat / 2 ^ 8 * 2 ^ 8 + b.resultCause.toNat

/-- BU_LASTOP (Table 15.10). -/
def buLastopWord (b : BringupSt) : Nat :=
  match b.lastopShown with
  | none => 0
  | some r => b.lastopScope * 2 ^ 64 + r.2.2.toNat * 2 ^ 32 + r.2.1

/-- BU_RSTCAUSE (Table 15.11). -/
def buRstcauseWord (b : BringupSt) : Nat :=
  (match b.lastopShown with | none => 0 | some r => r.1) * 2 ^ 16 + b.prior * 2 ^ 8 + b.cause

end Sys2Proof.Machine
end

