-- ==== Sys2Proof/Machine/Ops.lean ====
section
/-!
DEFINITION. Named operations shared by the meanings: access to the tables of State, time, the turf map, global addresses,
ricks and notices, event counters, sync counters with their waits and leases, packets on their way, completions.
-/
namespace Sys2Proof.Machine

/-! ### Tables of State -/

/-- A cell. -/
def State.cell (s : State) (c : Nat) : CellSt := tget s.cells {} c
/-- Change a cell. -/
def State.modCell (s : State) (c : Nat) (f : CellSt → CellSt) : State := { s with cells := tset s.cells c (f (s.cell c)) }
/-- A region. -/
def State.region (s : State) (r : Nat) : RegionSt := tget s.regions {} r
/-- Change a region. -/
def State.modRegion (s : State) (r : Nat) (f : RegionSt → RegionSt) : State :=
  { s with regions := tset s.regions r (f (s.region r)) }
/-- A regulator group. -/
def State.group (s : State) (g : Nat) : GroupSt := tget s.groups {} g
/-- Change a regulator group. -/
def State.modGroup (s : State) (g : Nat) (f : GroupSt → GroupSt) : State := { s with groups := tset s.groups g (f (s.group g)) }
/-- A regulator phase. -/
def State.phase (s : State) (p : Nat) : PhaseSt := tget s.phases {} p
/-- Change a regulator phase. -/
def State.modPhase (s : State) (p : Nat) (f : PhaseSt → PhaseSt) : State := { s with phases := tset s.phases p (f (s.phase p)) }
/-- A sensor. -/
def State.sensor (s : State) (n : Nat) : SensorSt := tget s.sensors {} n
/-- Change a sensor. -/
def State.modSensor (s : State) (n : Nat) (f : SensorSt → SensorSt) : State :=
  { s with sensors := tset s.sensors n (f (s.sensor n)) }
/-- A CD. -/
def State.cd (s : State) (n : Nat) : CdSt := tget s.cds {} n
/-- Change a CD. -/
def State.modCd (s : State) (n : Nat) (f : CdSt → CdSt) : State := { s with cds := tset s.cds n (f (s.cd n)) }
/-- A sync counter. -/
def State.ctr (s : State) (k : Nat) : Ctr := tget s.ctrs {} k
/-- Change a sync counter. -/
def State.modCtr (s : State) (k : Nat) (f : Ctr → Ctr) : State := { s with ctrs := tset s.ctrs k (f (s.ctr k)) }
/-- Counter values and the images' initial values lie in the range of R236. -/
def State.ctrsInRange (s : State) : Prop :=
  (∀ p ∈ s.ctrs, p.2.value < 2 ^ 31) ∧ ∀ p ∈ s.images, ∀ v ∈ p.2.ctrInit, v < 2 ^ 31
/-- An in-package port. -/
def State.port (s : State) (p : Nat) : PortSt := tget s.ports {} p
/-- Change an in-package port. -/
def State.modPort (s : State) (p : Nat) (f : PortSt → PortSt) : State := { s with ports := tset s.ports p (f (s.port p)) }
/-- A laser bank. -/
def State.bank (s : State) (b : Nat) : BankSt := tget s.banks {} b
/-- Change a laser bank. -/
def State.modBank (s : State) (b : Nat) (f : BankSt → BankSt) : State := { s with banks := tset s.banks b (f (s.bank b)) }
/-- A near-tier site. -/
def State.site (s : State) (m : Nat) : SiteSt := tget s.sites {} m
/-- Change a near-tier site. -/
def State.modSite (s : State) (m : Nat) (f : SiteSt → SiteSt) : State := { s with sites := tset s.sites m (f (s.site m)) }
/-- A far-memory unit. -/
def State.fmu (s : State) (n : Nat) : FmuSt := tget s.fmus {} n
/-- Change a far-memory unit. -/
def State.modFmu (s : State) (n : Nat) (f : FmuSt → FmuSt) : State := { s with fmus := tset s.fmus n (f (s.fmu n)) }
/-- A link. -/
def State.link (s : State) (l : Nat) : LinkSt := tget s.links {} l
/-- Change a link. -/
def State.modLink (s : State) (l : Nat) (f : LinkSt → LinkSt) : State := { s with links := tset s.links l (f (s.link l)) }
/-- A copy engine. -/
def State.ce (s : State) (n : Nat) : CeSt := tget s.ces {} n
/-- Change a copy engine. -/
def State.modCe (s : State) (n : Nat) (f : CeSt → CeSt) : State := { s with ces := tset s.ces n (f (s.ce n)) }
/-- A queue. -/
def State.queue (s : State) (q : Nat) : QueueSt := tget s.queues {} q
/-- Change a queue. -/
def State.modQueue (s : State) (q : Nat) (f : QueueSt → QueueSt) : State := { s with queues := tset s.queues q (f (s.queue q)) }
/-- A PCI Express port. -/
def State.pcie (s : State) (p : Nat) : PcieSt := if p = 0 then s.pcie0 else s.pcie1
/-- Change a PCI Express port. -/
def State.modPcie (s : State) (p : Nat) (f : PcieSt → PcieSt) : State :=
  if p = 0 then { s with pcie0 := f s.pcie0 } else { s with pcie1 := f s.pcie1 }
/-- A configuration set (Table 18.1). -/
def State.cset (s : State) (k : Nat) : CfgSet := tget s.cfg {} k
/-- Change a configuration set. -/
def State.modCset (s : State) (k : Nat) (f : CfgSet → CfgSet) : State := { s with cfg := tset s.cfg k (f (s.cset k)) }
/-- A turf's calendar sets. -/
def State.cal (s : State) (t : Nat) : CalSets := tget s.cals {} t
/-- A service core. -/
def State.sc (s : State) (n : Nat) : ScSt := tget s.firm.scs {} n
/-- A management core. -/
def State.mc (s : State) (n : Nat) : McSt := tget s.firm.mcs {} n
/-- Change a management core. -/
def State.modMc (s : State) (n : Nat) (f : McSt → McSt) : State :=
  { s with firm := { s.firm with mcs := tset s.firm.mcs n (f (s.mc n)) } }
/-- The management core of the lowest number that runs (R367); MC0 where none does (log entry 12). -/
def State.leadMc (s : State) : Nat := ((List.range 4).find? (fun n => decide ((s.mc n).role = .running))).getD 0
/-- Whether a physical service core passed its tests and is not removed. -/
def State.scUsable (s : State) (n : Nat) : Bool := !(s.sc n).failed
/-- The physical core that a logical one has before any spare stands in for it: SC4, SC9, SC14 and SC19 are spares (R373). -/
def scHome (i : Nat) : Nat := i / 4 * 5 + i % 4
/-- The physical core of a logical one, by its number in Table 1.1. -/
def State.scOf (s : State) (i : Nat) : Nat := tget s.firm.scMap (scHome i) i
/-- The logical cores whose physical core serves. -/
def State.scServing (s : State) : List Nat := (List.range 16).filter (fun i => s.scUsable (s.scOf i))
/-- The service core that runs a turf's batch control and serves its queues, by its number in Table 1.1 (R12): that of logical core
turf mod 16, or of the lowest logical core that serves where this one has none (R376, log entry 10). -/
def State.batchCore (s : State) (t : Nat) : Nat :=
  if s.scUsable (s.scOf (t % 16)) then s.scOf (t % 16) else s.scOf (s.scServing.headD (t % 16))
/-- The edge group through which a turf's service core sends: its own quadrant's (R14, R170). -/
def State.batchOep (s : State) (t : Nat) : Nat := 40 + s.batchCore t / 5 % 4
/-- The edge group through which Heartwood sends: that of its lowest running core's quadrant (R14, R170, log entry 12). -/
def State.leadOep (s : State) : Nat := 40 + s.leadMc % 4
/-- Log something emitted. -/
def State.emit (s : State) (o : Out) : State := { s with out := s.out ++ [o] }
/-- Draw a free value: the n-th one and the state that has drawn it (log entry 1). -/
def State.draw (s : State) : DWord × State := (Config.freeValue s.drawn, { s with drawn := s.drawn + 1 })

/-! ### Time (R413, R431) -/

/-- The GTC. -/
def State.now (s : State) : Nat := s.pw.gtc

/-- Bring the GTC to the count at which an event falls; it does not run before CLOCKS_START (R431) and does not go back. -/
def State.at_ (s : State) (t : Nat) : State :=
  if s.pw.gtcRunning then { s with pw := { s.pw with gtc := max s.pw.gtc t } } else s

/-- A nanosecond in which no command waits (log entry 14): the GTC advances by one tick; at half rate by one in two, and while an
offset is slewed by one more or less in every 5,000, that is 200 ppm (R434). -/
def State.idle (s : State) : State :=
  if !s.pw.gtcRunning then s
  else if s.pw.halfRate ≠ 0 then
    { s with pw := { s.pw with halfRate := s.pw.halfRate - 1, gtc := s.pw.gtc + (s.pw.halfRate - 1) % 2 } }
  else if s.pw.slew = 0 then { s with pw := { s.pw with gtc := s.pw.gtc + 1 } }
  else if s.pw.slewTick < 4999 then { s with pw := { s.pw with slewTick := s.pw.slewTick + 1, gtc := s.pw.gtc + 1 } }
  else if 0 < s.pw.slew then { s with pw := { s.pw with slewTick := 0, slew := s.pw.slew - 1, gtc := s.pw.gtc + 2 } }
  else { s with pw := { s.pw with slewTick := 0, slew := s.pw.slew + 1 } }

/-- Heartwood holds every control action: two cores have disagreed and no third has joined, or it has stopped (R369, R371). -/
def State.ctlHeld (s : State) : Bool := s.firm.duplexHeld || s.firm.fatal

/-! ### Turf map (Tables 12.1 to 12.3) -/

/-- The active turf map. -/
def State.turfMap (s : State) : Memory := (s.cset 3).active

/-- An owner byte of a map: the owning turf. -/
def ownerAt (m : Memory) (off : Nat) : Option Nat :=
  let b := (memGet m off).toNat
  if b.testBit 7 then some (b % 64) else none

/-- Owner of a region. -/
def regionOwner (m : Memory) (r : Nat) : Option Nat := ownerAt m (0x840 + r)
/-- Owner of 1 GiB range j of a site. -/
def siteOwner (m : Memory) (site j : Nat) : Option Nat := ownerAt m (0x880 + 64 * site + j)
/-- Owner of 16 GiB range j of a far unit. -/
def farOwner (m : Memory) (n j : Nat) : Option Nat := ownerAt m (0xE80 + 64 * n + j)
/-- VALID of a turf record. -/
def turfValid (m : Memory) (t : Nat) : Bool := (memGet m (0x40 + 32 * t)).toNat.testBit 0
/-- DYN_SHARE. -/
def dynShare (m : Memory) (t : Nat) : Nat := memNat m (0x42 + 32 * t) 2
/-- FIBRE_SHARE. -/
def fibreShare (m : Memory) (t : Nat) : Nat := memNat m (0x44 + 32 * t) 2
/-- QUEUE_QUOTA. -/
def queueQuota (m : Memory) (t : Nat) : Nat := memNat m (0x46 + 32 * t) 2
/-- SLOT_COLUMNS. -/
def slotColumns (m : Memory) (t : Nat) : Nat := memNat m (0x48 + 32 * t) 4
/-- SYNC_QUOTA. -/
def syncQuota (m : Memory) (t : Nat) : Nat := memNat m (0x4C + 32 * t) 4
/-- CE_MASK. -/
def ceMask (m : Memory) (t : Nat) : Nat := memNat m (0x50 + 32 * t) 8

/-- An operation of turf t reaches a resource of the given owner (R324). -/
def mayReach (t : Nat) (owner : Option Nat) : Bool := t = 0 || owner = some t

/-- The regions a turf owns. -/
def State.turfRegions (s : State) (t : Nat) : List Nat := (List.range 64).filter (fun r => regionOwner s.turfMap r = some t)

/-! ### Global addresses (R20 to R22, Tables 1.3 to 1.5, 10.7) -/

/-- HASH_SEED in force since the last reset (R286). -/
def State.hashSeed (s : State) : Nat := memNat (s.cset 9).active 0 4

/-- The local index of a flat endpoint number of this module. -/
def State.localIx (s : State) (flat : Nat) : Option Nat :=
  match s.fab.flat with
  | [] => if flat < 64 then some flat else none
  | l => l.findIdx? (· == flat)

/-- The flat endpoint number of a local index. -/
def State.flatOf (s : State) (ix : Nat) : Nat :=
  match s.fab.flat with
  | [] => ix
  | l => l.getD ix 0xFFFF

/-- The xor of the k-bit groups of a number, lowest first (R264). -/
def foldBits (k v : Nat) : Nat :=
  if k = 0 then 0 else (List.range 64).foldl (fun x i => x ^^^ (v / 2 ^ (k * i) % 2 ^ k)) 0

/-- What a local index and OFFSET name. -/
inductive Loc where
  | store (cell loc : Nat)
  | ctr (k : Nat)
  | site (m off : Nat)
  | far (n off : Nat)
  | ceSubmit (n : Nat)
  | ceState (n : Nat)
  | inbox
  | unmapped
deriving DecidableEq, Repr

/-- The current module slot: the schedule cycles counted, divided by 72 (R91). -/
def State.slot (s : State) : Nat := s.pw.schedCycles / 72

/-- Member site and site offset of a group OFFSET (R264). -/
def groupSite (seed : Nat) (members : List Nat) (off : Nat) : Nat × Nat :=
  let k := Nat.log2 members.length
  let gran := off / 256
  let hi := gran / 2 ^ k
  let sel := (gran ^^^ foldBits k hi ^^^ bits seed 11 8) % 2 ^ k
  (members.getD sel 0, hi * 256 + off % 256)

/-- Resolve an OFFSET at a local index (Tables 1.4, 1.5, 10.7). -/
def State.locOf (s : State) (ix off : Nat) : Loc :=
  if ix < 16 then
    let c := ix * 256 + off / 2 ^ 21 % 256
    let l := off % 2 ^ 21
    if 2 ^ 29 ≤ off then .unmapped
    else if l < 0x180000 then .store c l
    else if 0x1F0000 ≤ l ∧ l < 0x1F0100 then .ctr (65536 + c * 64 + (l - 0x1F0000) / 4)
    else .unmapped
  else if ix < 40 then (if off < 2 ^ 36 then .site (ix - 16) off else .unmapped)
  else if ix < 48 then (if off < (s.fmu (ix - 40)).capGib * 2 ^ 30 then .far (ix - 40) off else .unmapped)
  else if ix = 48 then (if off % 4 = 0 ∧ off < 0x40000 then .ctr (off / 4) else .unmapped)
  else if ix = 49 then
    (if off = 0x1000000 then .inbox
     else if off < 64 * 0x10000 ∧ off % 0x10000 = 0 then .ceSubmit (off / 0x10000)
     else if off < 64 * 0x10000 ∧ off % 0x10000 = 0x100 then .ceState (off / 0x10000)
     else .unmapped)
  else
    match tget s.siteGroups [] (ix - 50) with
    | [] => .unmapped
    | ms => if off < ms.length * 2 ^ 36 then
        let p := groupSite s.hashSeed ms off
        .site p.1 p.2
      else .unmapped

/-- Whether a local index is registered now (Table 10.1). -/
def State.registered (s : State) (ix : Nat) : Bool :=
  decide (ix < 40) || ix == 48 || ix == 49 || (decide (ix < 48) && (s.fmu (ix - 40)).registered)
    || (decide (50 ≤ ix) && !(tget s.siteGroups [] (ix - 50)).isEmpty)

/-- Whether an endpoint of this module stands in its endpoint table: a registered one (R263), and a far unit that is DOWN, whose number
stays (R262). -/
def State.ownPresent (s : State) (ix : Nat) : Bool := s.registered ix || (decide (40 ≤ ix) && decide (ix < 48) && (s.fmu (ix - 40)).known)

/-- A byte of the active endpoint table: where no table gives an own endpoint's number an entry, the module's own (R263, R297). -/
def State.epByte (s : State) (a : Nat) : Byte :=
  let flat := a / 8
  if (memGet s.fab.epTable (8 * flat)).toNat.testBit 0 then memGet s.fab.epTable a
  else match s.localIx flat with
    | some ix => if s.ownPresent ix then (natLe 8 (3 + ix * 2 ^ 8 + s.fab.moduleNo * 2 ^ 16)).getD (a % 8) 0 else memGet s.fab.epTable a
    | none => memGet s.fab.epTable a

/-- A field of n bytes of the active endpoint table. -/
def State.epField (s : State) (a n : Nat) : Nat := leNat ((List.range n).map (fun i => s.epByte (a + i)))

/-- Resolve a global address: none when its endpoint is of another module (R20). -/
def State.resolve (s : State) (addr : Nat) : Option Loc :=
  (s.localIx (addr / 2 ^ 48)).map (fun ix => s.locOf ix (addr % 2 ^ 48))

/-- Key in State.mem of byte `loc` of a cell's store. -/
def storeKey (cell loc : Nat) : Nat := cell / 256 * 2 ^ 48 + cell % 256 * 2 ^ 21 + loc
/-- Key in State.mem of byte `off` of a site. -/
def siteKey (m off : Nat) : Nat := (16 + m) * 2 ^ 48 + off

/-- Global address of a sync counter (Table 9.1). -/
def State.ctrAddr (s : State) (k : Nat) : DWord :=
  if k < 65536 then BitVec.ofNat 64 (s.flatOf 48 * 2 ^ 48 + 4 * k)
  else
    let c := (k - 65536) / 64
    BitVec.ofNat 64 (s.flatOf (c / 256) * 2 ^ 48 + c % 256 * 2 ^ 21 + 0x1F0000 + 4 * ((k - 65536) % 64))

/-- Owner of a resolved location through the turf map (Table 12.4); none where no turf owns it. -/
def State.locOwner (s : State) : Loc → Option Nat
  | .store c _ => regionOwner s.turfMap (regionOf c)
  | .site m off => siteOwner s.turfMap m (off / 2 ^ 30)
  | .far n off => farOwner s.turfMap n (off / 2 ^ 34)
  | _ => none

/-! ### Event counters (R491 to R494) -/

/-- Key of a counter of sets 1 to 5. -/
def ctrKey (set unit index : Nat) : Nat := set * 2 ^ 20 + unit * 16 + index

/-- Add to a counter of sets 1 to 5. -/
def State.bump (s : State) (set unit index n : Nat) : State :=
  let k := ctrKey set unit index
  { s with obs := { s.obs with ctrs := tset s.obs.ctrs k (tget s.obs.ctrs 0 k + n) } }

/-- The reset value of CTR_CFGn (Table 20.2). -/
def ctrCfgReset : DWord := 0xC00000

/-- Add n to an event that a rule counts and Table 20.1 does not (log entry 113). -/
def State.tally (s : State) (k : Tally) (n : Nat) : State :=
  let l := s.obs.tallies
  let l' := if l.any (fun p => p.1 == k) then l.map (fun p => if p.1 = k then (k, p.2 + n) else p) else l ++ [(k, n)]
  { s with obs := { s.obs with tallies := l' } }

/-- A cell event of Table 20.3, n occurrences, with its tag (R493). -/
def cellCount (c : CellSt) (code n : Nat) (layer operator : Half) : CellSt :=
  let prog := (List.range 8).foldl (fun (t : Tbl Nat) i =>
    let g := (tget c.ctrCfg ctrCfgReset i).toNat
    if g.testBit 0 && bits g 15 8 == code && (g.testBit 23 || bits g 63 48 == layer.toNat)
        && (g.testBit 22 || bits g 47 32 == operator.toNat)
    then tset t i (tget t 0 i + n) else t) c.ctrs
  let fix := fun (t : Tbl Nat) i => tset t (8 + i) (tget t 0 (8 + i) + n)
  { c with ctrs :=
      if code = 1 then fix prog 0 else if code = 4 then fix prog 1 else if code = 6 then fix prog 2
      else if code = 7 then fix prog 3 else prog }

/-- A cell event in a cell of the module. -/
def State.cellEvent (s : State) (c code n : Nat) (layer operator : Half) : State :=
  s.modCell c (fun x => cellCount x code n layer operator)

/-- A boundary crossing counted at its target with the issuer's turf (R325). -/
def State.crossing (s : State) (set unit index turf : Nat) : State :=
  let t := s.bump set unit index 1
  { t with obs := { t.obs with lastXturf := tset t.obs.lastXturf (ctrKey set unit 0) (128 + turf) } }

/-- Count an operation at an unmapped OFFSET at the target its endpoint names (R22). -/
def State.countUnmapped (s : State) (addr : Nat) : State :=
  match s.localIx (addr / 2 ^ 48) with
  | some ix => if s.locOf ix (addr % 2 ^ 48) = .unmapped then s.tally (.unmapped ix) 1 else s
  | none => s

/-- Count a boundary crossing at its target's error counters (R325). -/
def State.countRefusal (s : State) (l : Loc) (turf : Nat) : State :=
  match l with
  | .store c _ => s.crossing 2 (c / 256 * 64 + concOf c) 9 turf
  | .site m _ => s.crossing 3 m 8 turf
  | .ctr k => if k < 65536 then s.crossing 5 (k / 16384) 6 turf
      else s.crossing 2 ((k - 65536) / 64 / 256 * 64 + concOf ((k - 65536) / 64)) 9 turf
  | .far n _ => s.crossing 4 (96 + 4 * n) 10 turf
  | .ceSubmit n => s.crossing 5 (n / 16) 6 turf
  | .ceState n => s.crossing 5 (n / 16) 6 turf
  | _ => s

/-! ### Ricks (R56 to R60) -/

/-- Discard whole items, oldest first, until n words fit beside the rest (R58). -/
def dropUntil (cap n : Nat) : Nat → Rick → Rick
  | 0, r => r
  | f + 1, r =>
    if r.words + n ≤ cap then r
    else match r.items with
      | [] => r
      | _ :: t => dropUntil cap n f { r with items := t, lost := min 0xFFFF (r.lost + 1) }

/-- A new item arrives at a rick (R58); `held` is MODE = 1. -/
def Rick.put (r : Rick) (held : Bool) (item : List (BitVec 128)) : Rick :=
  if r.words + item.length ≤ 16 then { r with items := r.items ++ [item] }
  else if held then { r with overrun := true }
  else
    let r' := dropUntil 16 item.length 17 r
    { r' with items := r'.items ++ [item] }

/-- Priority of an item. -/
def itemPrio (i : List (BitVec 128)) : Nat := bits (i.headD 0).toNat 127 125

/-- The highest-priority item, oldest first within a priority, and the rest (R57). -/
def takeBest : List (List (BitVec 128)) → Option (List (BitVec 128) × List (List (BitVec 128)))
  | [] => none
  | i :: t =>
    match takeBest t with
    | none => some (i, [])
    | some (j, rest) => if itemPrio i < itemPrio j then some (j, i :: rest) else some (i, t)

/-- A read of RICK_DATA (R57): the word, all zeros when no item is visible. -/
def Rick.read (r : Rick) : BitVec 128 × Rick :=
  match r.cur with
  | some (i, n) =>
    (i.getD n 0, if n + 1 < i.length then { r with cur := some (i, n + 1) } else { r with cur := none })
  | none =>
    match takeBest r.items with
    | none => (0, r)
    | some (i, rest) =>
      (i.headD 0, if 1 < i.length then { r with items := rest, cur := some (i, 1) } else { r with items := rest })

/-- RICK_CTRL.DROP_ITEM (R57). -/
def Rick.drop (r : Rick) : Rick := { r with cur := none }

/-- RICK_CTRL.FLUSH (R60, Table 2.9). -/
def Rick.flush (r : Rick) : Rick := { r with items := [], cur := none, lost := 0 }

/-- MODE of every rick (R58, R59): held at 1 until QUEUES_ENABLE completes, in the test modes, and during recovery, from a fault stop
until the completion entry of the RUN_BATCH is written. R59 names the module's ricks and not the stopped turf's, so recovery is taken
to hold all of them (log entry 117, DEDUCED). -/
def State.rickMode (s : State) : Bool := s.ricksHeld || s.batches.any (fun b => b.2.recover)

/-- Place an item in a cell's rick; `words` are word 1 onward. -/
def State.cellItem (s : State) (c prio code : Nat) (words : List (BitVec 128)) : State :=
  s.modCell c (fun x =>
    { x with rick := x.rick.put s.rickMode (itemHead prio words.length code c s.now :: words) })

/-- Place a notice on a queue's stream (R353); a closed queue has none. -/
def State.notice (s : State) (q prio code : Nat) (words : List (BitVec 128)) : State :=
  if (s.queue q).state = .closed then s
  else s.modQueue q (fun x =>
    { x with notices := x.notices.put s.rickMode (itemHead prio words.length code q s.now :: words) })

/-- Place an item in a service core's rick. -/
def State.coreItem (s : State) (n prio code : Nat) (words : List (BitVec 128)) : State :=
  let x := s.sc n
  let y := { x with rick := x.rick.put s.rickMode (itemHead prio words.length code n s.now :: words) }
  { s with firm := { s.firm with scs := tset s.firm.scs n y } }

/-- The open queues bound to a turf. -/
def State.turfQueues (s : State) (t : Nat) : List Nat :=
  (s.queues.filter (fun p => p.2.state ≠ .closed ∧ p.2.turf = t)).map (fun p => p.1)

/-- Place a notice on every queue of a turf. -/
def State.noticeTurf (s : State) (t prio code : Nat) (words : List (BitVec 128)) : State :=
  (s.turfQueues t).foldl (fun s q => s.notice q prio code words) s

/-- A CELL_ERROR item and its CELL_ERR bit (Tables 2.8, 2.12). -/
def State.cellError (s : State) (c bitNo : Nat) (place : Bool) : State :=
  let s := s.modCell c (fun x => { x with err := x.err ||| BitVec.ofNat 32 (2 ^ bitNo) })
  if place then s.cellItem c 7 0x0005 [] else s

/-! ### Sync trace and the dump's event log (R260, R497) -/

/-- Bytes of a trace record (Table 20.5). -/
def traceBytes (r : TraceRec) : Bytes :=
  natLe 8 r.gtc ++ natLe 8 r.addr.toNat ++ [r.event] ++ natLe 1 r.turf ++ natLe 2 r.actor.toNat ++ natLe 2 r.cause.toNat
    ++ natLe 2 r.layer.toNat ++ natLe 2 r.operator.toNat ++ natLe 4 r.amount.toNat ++ natLe 2 0

/-- The bytes one mark stands for at a key: a 64-bit word of a cell store, a 64 B half-granule of a site (R37, R206). -/
def markUnit (key : Nat) : Nat := if key / 2 ^ 48 < 16 then 8 else 64

/-- The marks that a write of n bytes at a key leaves: it clears those it covers in full (R37, R208). -/
def clearMarks (l : List Nat) (key n : Nat) : List Nat :=
  l.filter (fun a => !(decide (key ≤ a) && decide (a + markUnit key ≤ key + n)))

/-- The symbol errors that a write of n bytes at a key leaves: it stores new check symbols for what it covers in full (R206). -/
def clearFlaws (l : Tbl Nat) (key n : Nat) : Tbl Nat :=
  l.filter (fun p => !(decide (key ≤ p.1) && decide (p.1 + 64 ≤ key + n)))

/-- Write bytes at a module-local key, clearing the marks they cover (R37, R208). -/
def State.poke (s : State) (key : Nat) (bs : Bytes) : State :=
  { s with mem := memWrite s.mem key bs, marks := clearMarks s.marks key bs.length, poison := clearMarks s.poison key bs.length,
           flaws := clearFlaws s.flaws key bs.length }

/-- Write n zeros at a module-local key. -/
def State.pokeZero (s : State) (key n : Nat) : State :=
  { s with mem := memZero s.mem key n, marks := clearMarks s.marks key n, poison := clearMarks s.poison key n,
           flaws := clearFlaws s.flaws key n }

/-- The mark addresses that n bytes at a key touch. -/
def markSpan (key n : Nat) : List Nat :=
  let u := markUnit key
  if n = 0 then [] else (List.range ((key + n - 1) / u - key / u + 1)).map (fun i => (key / u + i) * u)

/-- Whether a read of n bytes at a key meets a mark, or an error of a site that its check symbols cannot correct (R206, R207). -/
def State.marked (s : State) (key n : Nat) : Bool :=
  (markSpan key n).any (fun a => s.marks.contains a || decide (2 ≤ tget s.flaws 0 a))

/-- Mark everything n bytes at a key touch (R207). -/
def State.setMarks (s : State) (key n : Nat) : State :=
  { s with marks := (markSpan key n).foldl setIns s.marks }

/-- Write bytes whose source was poisoned: every unit they touch is marked, as poison (R207, R208). -/
def State.pokePoison (s : State) (key : Nat) (bs : Bytes) : State :=
  let t := (s.poke key bs).setMarks key bs.length
  { t with poison := (markSpan key bs.length).foldl setIns t.poison }

/-- Mark words of a store by their offsets from a key, with whether a mark is poison. -/
def State.markWords (s : State) (key : Nat) (marks : List (Nat × Bool)) : State :=
  { s with
    marks := marks.foldl (fun l a => setIns l (key + a.1)) s.marks
    poison := marks.foldl (fun l a => if a.2 then setIns l (key + a.1) else setDel l (key + a.1)) s.poison }

/-- The marked words of n bytes of a store at a key: offset, and whether the mark is poison (R38, R208). -/
def State.wordsMarked (s : State) (key n : Nat) : List (Nat × Bool) :=
  (s.marks.filter (fun a => decide (key ≤ a) && decide (a < key + n))).map (fun a => (a - key, s.poison.contains a))

/-- n bytes whose values the spec leaves open. -/
def State.drawBytes (s : State) : Nat → Bytes × State
  | 0 => ([], s)
  | n + 1 =>
    let r := s.drawBytes n
    let d := r.2.draw
    (r.1 ++ [BitVec.ofNat 8 d.1.toNat], d.2)

/-- An uncorrectable error over n bytes at a key: their content is open and their units are marked (R38, R207, R209). -/
def State.spoil (s : State) (key n : Nat) : State :=
  let r := s.drawBytes n
  (r.2.poke key r.1).setMarks key n

/-! ### Near-tier sites (R26, R157, R206, R207, R214) -/

/-- The logical pseudo-channel of a site offset (R202). -/
def State.pcOf (s : State) (off : Nat) : Nat :=
  let loc := off / 2 ^ 14
  let g := bits loc 5 0 ^^^ bits loc 11 6 ^^^ bits loc 17 12 ^^^ bits loc 21 18
  bits off 13 8 ^^^ g ^^^ bits s.hashSeed 5 0

/-- An access takes an idle site out of self-refresh; one that a reset or a shutdown holds stays (R26, R214). -/
def State.touch (s : State) (m : Nat) : State := s.modSite m (fun x => { x with selfRefresh := x.heldRefresh, lastAccess := s.now })

/-- The marks whose units n bytes at a key touch. -/
def State.marksIn (s : State) (key n : Nat) : List Nat :=
  s.marks.filter (fun a => decide (key < a + markUnit key) && decide (a < key + n))

/-- Write bytes of a site, with their poisoned half-granules, and keep what stood there for the billets that read the site by slot
(R157, R159). -/
def State.putSite (s : State) (m off : Nat) (bs : Bytes) (poison : List Nat) (billet : Bool) (slot : Nat) : State :=
  let key := siteKey m off
  let was := (memRead s.mem key bs.length, s.marksIn key bs.length)
  let s := s.poke key bs
  let s := { s with marks := poison.foldl setIns s.marks }
  let w : SiteWrite := { slot := slot, billet := billet, off := off, was := was, now := (bs, s.marksIn key bs.length) }
  s.modSite m (fun x => { x with recent := x.recent ++ [w] })

/-- A write of a site by anything but a billet: it takes the site out of self-refresh, and waits for one that is held (R26, R214). -/
def State.storeSite (s : State) (m off : Nat) (bs : Bytes) (poison : Bool) : State :=
  if (s.site m).heldRefresh then { s with siteWaits := s.siteWaits ++ [(siteKey m off, bs, poison)] }
  else (s.touch m).putSite m off bs (if poison then markSpan (siteKey m off) bs.length else []) false s.slot

/-- The sites leave a held self-refresh, and the writes that waited for it are performed in their order (R214). -/
def State.releaseSites (s : State) : State :=
  let ws := s.siteWaits
  let s := { s with sites := tmap s.sites (fun _ x => { x with heldRefresh := false }), siteWaits := [] }
  ws.foldl (fun s w => s.storeSite (w.1 / 2 ^ 48 - 16) (w.1 % 2 ^ 48) w.2.1 w.2.2) s

/-- One running trace takes a record it selects (R497, R498). The store is performed at once (log entry 9). -/
def State.traceInto (s : State) (t : Nat) (x : TraceSt) (r : TraceRec) : State :=
  if !((t = 0 || r.turf = t) && x.select.testBit (if r.isCell then 0 else 1)) then s
  else
    match s.resolve x.buffer.toNat with
    | some (.site m off) =>
      if x.next + 32 ≤ x.length then
        let s := s.storeSite m (off + x.next) (traceBytes r) false
        { s with obs := { s.obs with traces := tset s.obs.traces t { x with next := x.next + 32, written := x.written + 1 } } }
      else if x.wrap then
        let s := s.storeSite m (off + 64) (traceBytes r) false
        let y := { x with next := 96, written := x.written + 1, wrapped := true }
        { s with obs := { s.obs with traces := tset s.obs.traces t y } }
      else { s with obs := { s.obs with traces := tset s.obs.traces t { x with dropped := x.dropped + 1 } } }
    | _ => { s with obs := { s.obs with traces := tset s.obs.traces t { x with dropped := x.dropped + 1 } } }

/-- Keep the newest n entries of a list that match, oldest first. -/
def keepLast {α : Type} (p : α → Bool) (n : Nat) (l : List α) : List α :=
  let extra := (l.filter p).length - n
  (l.foldl (fun (acc : Nat × List α) x =>
    if p x && decide (0 < acc.1) then (acc.1 - 1, acc.2) else (acc.1, acc.2 ++ [x])) (extra, [])).2

/-- Record a trace event in its producer's ring of 1,024 and in the running traces (R497). -/
def State.trace (s : State) (r : TraceRec) : State :=
  let s := { s with obs := { s.obs with
    traceRing := keepLast (fun x => x.producer == r.producer) 1024 (s.obs.traceRing ++ [r]) } }
  s.obs.traces.foldl (fun s p => s.traceInto p.1 p.2 r) s

/-- Enter an event in the module's last 256 (R260). -/
def State.logSync (s : State) (e : SyncEvent) : State :=
  { s with syncLog := keepLast (fun _ => true) 256 (s.syncLog ++ [e]) }

/-! ### Sync counters (09) -/

/-- Who changes or waits on a counter, for records and checks. -/
structure Party where
  /-- SIGNALLER encoding (Tables 9.3, 9.4) -/
  who : Half
  turf : Nat := 0
  remote : Bool := false
  layer : Half := 0
  operator : Half := 0
  /-- lease epoch named, low 12 bits significant; 0 names none -/
  epoch : Nat := 0
deriving DecidableEq, Repr

/-- SIGNALLER of a unit of a cell: 0 Collier, 1 AE0, 2 AE1. -/
def cellParty (unit c : Nat) : Half := BitVec.ofNat 16 (unit * 4096 + c)
/-- SIGNALLER of a base core: 0 service core, 1 management core, 2 copy engine or window. -/
def coreParty (kind n : Nat) : Half := BitVec.ofNat 16 (0x4000 + kind * 4096 + n)
/-- SIGNALLER of a queue. -/
def queueParty (q : Nat) : Half := BitVec.ofNat 16 (0x8000 + q)
/-- SIGNALLER of a receiving endpoint. -/
def oepParty (o : Nat) : Half := BitVec.ofNat 16 (0xC000 + o)

/-- Owner of a counter (R233 to R235). -/
def State.ctrOwner (s : State) (k : Nat) : CtrOwner :=
  if 65536 ≤ k then .cell else if k < 128 then .system (k / 2) else (s.ctr k).owner

/-- Turf a counter belongs to (Table 12.4, R546). -/
def State.ctrTurf (s : State) (k : Nat) : Option Nat :=
  match s.ctrOwner k with
  | .free => none
  | .image t => some t
  | .leased _ t => some t
  | .orphan t => some t
  | .system t => some t
  | .cell => regionOwner s.turfMap (regionOf ((k - 65536) / 64))

/-- The next epoch: raised by 1, never with low 12 bits 0 (R253). -/
def nextEpoch (e : Nat) : Nat :=
  let n := (e + 1) % 2 ^ 32
  if n % 4096 = 0 then n + 1 else n

/-- Trace record of an event on a counter. -/
def State.traceRec (s : State) (k event amount : Nat) (p : Party) (cause : Half) : TraceRec :=
  { gtc := s.now, addr := s.ctrAddr k,
    event := BitVec.ofNat 8 (event + (if p.remote then 16 else 0)),
    turf := (s.ctrTurf k).getD 0, actor := p.who, cause := cause, layer := p.layer, operator := p.operator,
    amount := BitVec.ofNat 32 amount, isCell := decide (65536 ≤ k),
    producer := if 65536 ≤ k then (k - 65536) / 64 / 256 else 16 + k / 16384 }

/-- The owner of a counter receives a notice (R240): code and words as on a queue, cell code and words in a rick. -/
def State.ownerNotice (s : State) (k prio cellCode queueCode : Nat) (word : BitVec 128) : State :=
  match s.ctrOwner k with
  | .cell => s.cellItem ((k - 65536) / 64) prio cellCode [word]
  | .image t => s.noticeTurf t prio queueCode [word]
  | .leased q _ => s.notice q prio queueCode [word]
  | .system t => s.coreItem (s.batchCore t) prio queueCode [word]
  | _ => s

/-- SYNC_UNDERFLOW (R238, R239): event log, flag and notice; `status` is what the issuer is told, 0 for a wait. -/
def State.underflow (s : State) (k amount : Nat) (p : Party) (status : Nat) : State :=
  let s := s.logSync {
    gtc := s.now, addr := s.ctrAddr k, event := 1, status := BitVec.ofNat 8 status, signaller := p.who,
    remote := p.remote, amount := BitVec.ofNat 32 amount, epoch := BitVec.ofNat 32 p.epoch }
  let s := s.modCtr k (fun c => { c with underflowSeen := true })
  let s := if k < 65536 then s.bump 5 (k / 16384) 2 1 else s
  s.ownerNotice k 6 0x0002 0x1002 (BitVec.ofNat 128 ((s.ctrAddr k).toNat * 2 ^ 64 + amount % 2 ^ 32))

/-- Why a change of a party to a counter is refused before its value is looked at (R25, R235, R256); none if not. A system counter
takes signals only, of this module's cells of its turf (R234, Table 12.4). -/
def State.ctrRefusal (s : State) (k : Nat) (delta : Int) (p : Party) : Option Nat :=
  match s.ctrOwner k with
  | .free => some (if p.turf = 0 then stBadArg else stDenied)
  | .cell =>
    let r := regionOf ((k - 65536) / 64)
    if !mayReach p.turf (regionOwner s.turfMap r) then some stDenied
    else if (s.region r).sleep.num ≤ 1 then none else some stBusy
  | .leased _ t =>
    if !mayReach p.turf (some t) then some stDenied
    else if p.epoch ≠ 0 ∧ p.epoch % 4096 ≠ (s.ctr k).epoch % 4096 then some stLeaseRevoked else none
  | .orphan t => if !mayReach p.turf (some t) then some stDenied else some stLeaseRevoked
  | .image t => if mayReach p.turf (some t) then none else some stDenied
  | .system t => if 0 ≤ delta ∧ p.turf = t ∧ !p.remote ∧ p.who.toNat / 2 ^ 14 = 0 then none else some stDenied

/-- A change refused: counted, traced and entered in the event log (R246, R247, R325), as an overflow (R237) or a refusal. -/
def State.refuseChange (s : State) (k amount status : Nat) (overflow : Bool) (p : Party) : State :=
  let s := if status = stDenied then s.countRefusal (.ctr k) p.turf else s
  let s := if k < 65536 then s.bump 5 (k / 16384) 3 1 else s.tally (.signalRefused ((k - 65536) / 64 / 256)) 1
  let s := s.logSync {
    gtc := s.now, addr := s.ctrAddr k, event := if overflow then 2 else 3,
    status := BitVec.ofNat 8 status, signaller := p.who, remote := p.remote, amount := BitVec.ofNat 32 amount,
    epoch := BitVec.ofNat 32 p.epoch }
  s.trace (s.traceRec k 5 amount p 0)

/-- Apply a signal (positive delta) or a decrement (negative) to a counter; the status answered (R236 to R238, R256). -/
def State.addCtr (s : State) (k : Nat) (delta : Int) (p : Party) : State × Nat :=
  match s.ctrRefusal k delta p with
  | some st => (s.refuseChange k delta.natAbs st false p, st)
  | none =>
    let v : Int := (s.ctr k).value
    if v + delta < 0 then
      let s := if k < 65536 then s.bump 5 (k / 16384) 3 1 else s
      ((s.underflow k delta.natAbs p stBadArg).trace (s.traceRec k 5 delta.natAbs p 0), stBadArg)
    else if v + delta > 2 ^ 31 - 1 then (s.refuseChange k delta.natAbs stBadArg true p, stBadArg)
    else
      let s := s.modCtr k (fun c => { c with
        value := (v + delta).toNat, lastSig := p.who, lastRemote := p.remote, changed := s.now, changedSinceArm := true,
        renewed := if p.epoch ≠ 0 then s.now else c.renewed })
      let s := if k < 65536 then s.bump 5 (k / 16384) 0 1 else s
      (s.trace (s.traceRec k (if 0 ≤ delta then 3 else 4) delta.natAbs p 0), stOk)

/-- The rank of a waiter on a cell counter: Collier, AE0, AE1 (R243). -/
def waiterRank (k : Nat) (w : Waiter) : Nat := if 65536 ≤ k then bits w.who.toNat 13 12 else 0

/-- Insert a waiter in its order of evaluation (R243). -/
def insWaiter (k : Nat) (w : Waiter) : List Waiter → List Waiter
  | [] => [w]
  | x :: t => if waiterRank k w < waiterRank k x then w :: x :: t else x :: insWaiter k w t

/-- Whether a wait succeeds on a value (R239). -/
def waitOk (v : Nat) (thresh : Int) (dec : Nat) : Bool := decide (thresh ≤ (v : Int)) && decide (dec ≤ v)

/-- A wait that has not succeeded raises SYNC_UNDERFLOW once when only DEC stands in its way (R239). -/
def State.waitUnderflow (s : State) (k : Nat) (w : Waiter) : State × Waiter :=
  if decide (w.thresh ≤ ((s.ctr k).value : Int)) && !w.underflow then
    (s.underflow k w.dec { who := w.who } 0, { w with underflow := true })
  else (s, w)

/-- A wait is issued (R239, R243, R244): done now, standing, or refused with a status. -/
inductive WaitResult where
  | done
  | standing
  | refused (status : Nat)
deriving DecidableEq, Repr

/-- Subtract DEC for a wait that succeeds. -/
def State.waitTake (s : State) (k : Nat) (w : Waiter) : State :=
  let cause := (s.ctr k).lastSig
  let s := s.modCtr k (fun c => { c with
    value := c.value - w.dec,
    changed := if w.dec = 0 then c.changed else s.now, changedSinceArm := c.changedSinceArm || w.dec ≠ 0 })
  let s := if k < 65536 then s.bump 5 (k / 16384) 1 1 else s
  s.trace (s.traceRec k 2 w.dec { who := w.who, layer := w.layer, operator := w.operator } cause)

/-- Why a wait on a leased counter or an orphan is refused: it names another epoch than the current one, or the counter is an orphan
(R256). -/
def State.waitRefusal (s : State) (k epoch : Nat) : Option Nat :=
  match s.ctrOwner k with
  | .leased _ _ => if epoch ≠ 0 ∧ epoch % 4096 ≠ (s.ctr k).epoch % 4096 then some stLeaseRevoked else none
  | .orphan _ => some stLeaseRevoked
  | _ => none

/-- The waits that stand on the counters of sync space from 128 on and that a predicate picks: system counters have waiter entries of
their own (R244). -/
def State.waitsHeld (s : State) (p : Nat → Waiter → Bool) : Nat :=
  ((s.ctrs.filter (fun x => decide (128 ≤ x.1) && decide (x.1 < 65536))).map (fun x => (x.2.waiters.filter (p x.1)).length)).sum

/-- Issue a wait on a counter, naming an epoch or none (R239, R244, R256): refused where the quadrant's waiter table is full or the core or
copy engine has 16 waits outstanding. -/
def State.waitOn (s : State) (k : Nat) (w : Waiter) (epoch : Nat := 0) : State × WaitResult :=
  if 128 ≤ k ∧ k < 65536 ∧ (1024 ≤ s.waitsHeld (fun j _ => j / 16384 == k / 16384) ∨ 16 ≤ s.waitsHeld (fun _ x => x.who == w.who)) then
    (s.bump 5 (k / 16384) 4 1, .refused stNoResource)
  else if let some st := s.waitRefusal k epoch then (s, .refused st)
  else
    let s := s.trace (s.traceRec k 1 (wrap 32 w.thresh) { who := w.who, layer := w.layer, operator := w.operator } 0)
    if waitOk (s.ctr k).value w.thresh w.dec then (s.waitTake k w, .done)
    else
      let p := s.waitUnderflow k { w with since := s.now }
      (p.1.modCtr k (fun c => { c with waiters := insWaiter k p.2 c.waiters }), .standing)

/-- Evaluate the standing waits of a counter in turn (R243): the state and the waiters released. -/
def State.evalWaits (s : State) (k : Nat) : State × List Waiter :=
  let ws := (s.ctr k).waiters
  let s := s.modCtr k (fun c => { c with waiters := [] })
  ws.foldl (fun (acc : State × List Waiter) w =>
    if waitOk (acc.1.ctr k).value w.thresh w.dec then (acc.1.waitTake k w, acc.2 ++ [w])
    else
      let p := acc.1.waitUnderflow k w
      (p.1.modCtr k (fun c => { c with waiters := c.waiters ++ [p.2] }), acc.2)) (s, [])

/-- Release every wait on a counter (R255). -/
def State.releaseWaits (s : State) (k : Nat) : State :=
  let ws := (s.ctr k).waiters
  let s := s.modCtr k (fun c => { c with waiters := [] })
  ws.foldl (fun s w => s.trace (s.traceRec k 6 w.dec { who := w.who, layer := w.layer, operator := w.operator } 0)) s

/-- Word 1 of LEASE_REVOKED for a counter (Table 13.10). -/
def leaseWordCtr (addr : DWord) (epoch : Nat) : BitVec 128 := BitVec.ofNat 128 (addr.toNat * 2 ^ 64 + epoch)

/-- Free a counter (R255). -/
def State.freeCtr (s : State) (k : Nat) : State :=
  let e := nextEpoch (s.ctr k).epoch
  let s := s.releaseWaits k
  let s := s.modCtr k (fun c => { c with value := 0, epoch := e, owner := .free, lastSig := 0, underflowSeen := false })
  s.logSync {
    gtc := s.now, addr := s.ctrAddr k, event := 5, status := 0, signaller := 0, remote := false, amount := 0,
    epoch := BitVec.ofNat 32 e }

/-- Return an image's counter to the free pool (R235, R518). -/
def State.dropCtr (s : State) (k : Nat) : State :=
  (s.releaseWaits k).modCtr k (fun c => { c with value := 0, owner := .free, lastSig := 0, underflowSeen := false })

/-- Revoke the lease on a counter (R255): it becomes an orphan. -/
def State.revokeCtr (s : State) (k : Nat) : State :=
  match (s.ctr k).owner with
  | .leased q t =>
    let e := nextEpoch (s.ctr k).epoch
    let s := s.releaseWaits k
    let s := s.modCtr k (fun c => { c with epoch := e, owner := .orphan t, orphanAt := s.now, lastHolder := q })
    let s := s.logSync {
      gtc := s.now, addr := s.ctrAddr k, event := 4, status := 0, signaller := 0, remote := false,
      amount := 0, epoch := BitVec.ofNat 32 e }
    s.notice 0 6 0x1004 [leaseWordCtr (s.ctrAddr k) e]
  | _ => s

/-- Counters leased to a queue. -/
def State.leasedTo (s : State) (q : Nat) : List Nat :=
  (s.ctrs.filter (fun p => match p.2.owner with | .leased h _ => h == q | _ => false)).map (fun p => p.1)

/-- Revoke every counter lease a queue holds. -/
def State.revokeQueueCtrs (s : State) (q : Nat) : State := (s.leasedTo q).foldl (fun s k => s.revokeCtr k) s

/-- Sync space counters a turf holds, image, leased and orphan together (Table 12.2, R255). -/
def State.syncHeld (s : State) (t : Nat) : Nat :=
  (s.ctrs.filter (fun p => match p.2.owner with
    | .image u => u == t | .leased _ u => u == t | .orphan u => u == t | _ => false)).length

/-- The lowest free counter at 128 or above (R257). -/
def State.lowestFree (s : State) : Option Nat :=
  let used := (s.ctrs.filter (fun p => 128 ≤ p.1 ∧ p.1 < 65536 ∧ p.2.owner ≠ .free)).map (fun p => p.1)
  let n := used.foldl (fun m k => if k = m then m + 1 else m) 128
  if n < 65536 then some n else none

/-- A refused signal of a cell places SIGNAL_REFUSED, or LEASE_REVOKED for a stale epoch or an orphan (R246, R256); the event carries the
tag given (R111, R493). -/
def State.refuseToCell (s : State) (c unit status : Nat) (addr : DWord) (newEpoch : Nat) (layer operator : Half) : State :=
  let s := s.cellEvent c 0x23 1 layer operator
  if status = stLeaseRevoked then s.cellItem c 6 0x0004 [leaseWordCtr addr newEpoch]
  else s.cellItem c 5 0x0001 [refusedWord addr status unit]

/-! ### Packets on their way (R288, R135, R14) -/

/-- The port of an edge group that a unit's Dynamic packet takes, by the granule of its address (log entry 11). -/
def edgePort (quad addr : Nat) : Nat := (40 + quad) * 64 + foldBits 6 (addr / 256)

/-- The transmit port of an issuing unit (R14, R135, R356). -/
def unitPort (unit addr : Nat) : Nat :=
  if unit / 2 ^ 14 = 0 then
    let c := unit % 4096
    c / 256 * 64 + concOf c
  else
    let n := unit % 4096
    match unit / 4096 % 4 with
    | 0 => edgePort (n / 5 % 4) addr
    | 1 => edgePort (n % 4) addr
    | _ => if n < 64 then edgePort (n / 16) addr else if n < 128 then edgePort 0 addr else edgePort 2 addr

/-- The receive port of a target in this module (R288). -/
def State.targetPort (s : State) (ix addr : Nat) : Nat :=
  let off := addr % 2 ^ 48
  if ix < 16 then ix * 64 + concOf (ix * 256 + off / 2 ^ 21 % 256)
  else if ix < 40 then ix * 64 + (foldBits 4 (off / 256) ^^^ bits s.hashSeed 15 12)
  else if ix < 48 then edgePort ((ix - 40) / 2) addr
  else if ix = 48 then edgePort (off / 4 / 16384 % 4) addr
  else if ix = 49 then edgePort (off / 0x10000 % 64 / 16) addr
  else match s.locOf ix off with
    | .site m _ => (16 + m) * 64 + (foldBits 4 (off / 256) ^^^ bits s.hashSeed 15 12)
    | _ => edgePort 0 addr

/-- Queue a Dynamic packet at a transmit port. -/
def State.queueDyn (s : State) (port dst turf vc : Nat) (p : Packet) : State :=
  s.modPort port (fun x =>
    { x with dynQ := x.dynQ ++ [{ id := s.nextSeq, dst := dst, turf := turf, vc := vc, pkt := p }] }) |>
  (fun s => { s with nextSeq := s.nextSeq + 1 })

/-- The little-endian field of n bytes at an offset of an operation header (Table 10.3). -/
def hfld (h : BitVec 384) (off n : Nat) : Nat := bits h.toNat (8 * (off + n) - 1) (8 * off)

/-- Build an operation header (Table 10.3). -/
def mkHdr (opcode otype flags status len srcUnit tag srcEp : Nat) (addr : DWord) (operand : BitVec 128) : BitVec 384 :=
  BitVec.ofNat 384 (opcode + otype * 2 ^ 8 + flags * 2 ^ 16 + status * 2 ^ 24 + len * 2 ^ 32 + srcUnit * 2 ^ 48
    + tag % 2 ^ 32 * 2 ^ 64 + srcEp * 2 ^ 96 + addr.toNat * 2 ^ 128 + operand.toNat * 2 ^ 192)

/-- The next TAG of an issuing unit (R271). -/
def State.takeTag (s : State) (unit : Nat) : Nat × State :=
  let t := tget s.tags 0 unit
  (t, { s with tags := tset s.tags unit ((t + 1) % 2 ^ 32) })

/-- The virtual channel of a unit's requests (Table 11.4): 2 for copy engines and aperture windows, else 0. -/
def unitVc (unit : Nat) : Nat := if unit / 4096 = 6 then 2 else 0

/-- SRC_EP of an issuing unit (Table 10.3). -/
def State.srcEp (s : State) (unit : Nat) : Nat :=
  if unit / 2 ^ 14 = 0 then s.flatOf (unit % 4096 / 256) else s.flatOf 49

/-- The route entry a packet of a turf takes to an endpoint of another module (R298): its offset, when valid for the turf. -/
def State.routeOf (s : State) (turf ep : Nat) : Option Nat :=
  let r := 16 * (memNat s.fab.header (2 * turf) 2 + memNat s.fab.epTable (8 * ep + 4) 2)
  if (memGet s.fab.routes (r + 11)).toNat.testBit 0 ∧ (memGet s.fab.routes r).toNat % 64 = turf then some r else none

/-- The fibre a packet to another module takes (R288); F0 where it has no route. -/
def State.fibreOf (s : State) (turf addr : Nat) : Nat :=
  match s.routeOf turf (addr / 2 ^ 48) with
  | none => 0
  | some r =>
    let n := max 1 (memNat s.fab.routes (r + 1) 1)
    memNat s.fab.routes (r + 2 + (foldBits 12 (addr % 2 ^ 48 / 256) ^^^ bits s.hashSeed 31 20) % n) 1

/-- The edge port of the coupler of a fibre (R146, log entry 11). -/
def fibrePort (f : Nat) : Nat := (40 + f / 24) * 64 + 2 * (f % 24)

/-- Whether a request may be sent to an endpoint of another module: no routing drain holds it (R304), no duplicated identity has
halted the module (R310), and it fits the endpoint's window of 64 requests and 256 KiB (R301). -/
def State.windowOpen (s : State) (ep n : Nat) : Bool :=
  let w := tget s.fab.windows (0, 0) ep
  !(match s.drain with | some d => d.routing && !d.leaving | none => false) && decide (s.fab.phase ≠ .halted) && decide (w.1 < 64) && decide (w.2 + n ≤ 262144)

/-- Count a request at its destination's window. -/
def State.takeWindow (s : State) (ep n : Nat) : State :=
  let w := tget s.fab.windows (0, 0) ep
  { s with fab := { s.fab with windows := tset s.fab.windows ep (w.1 + 1, w.2 + n) } }

/-- Whether a request that waits at a window must go before a new one: an older one of its unit, or to its destination (R301). -/
def State.waitsBefore (s : State) (unit : Half) (ep : Nat) : Bool :=
  s.ops.any (fun o => o.waitingWindow && (o.unit == unit || hfld o.pkt.hdr 16 8 / 2 ^ 48 == ep))

/-- Issue a Tomic operation: it is outstanding at its unit and its packet is queued (R263, R271, R301). -/
def State.issueOp (s : State) (unit turf opcode otype flags len : Nat) (addr : DWord) (operand : BitVec 128)
    (ext : Option (BitVec 128)) (data : Bytes) (poison : Bool) (purpose extra : Nat) : State × Word :=
  let tg := s.takeTag unit
  let pkt : Packet := { hdr := mkHdr opcode otype (flags + (if poison then 2 else 0)) 0 len unit tg.1 (s.srcEp unit) addr operand,
                        ext := ext, data := data, poison := poison }
  let s := tg.2
  let tag : Word := BitVec.ofNat 32 tg.1
  let op : TomicOp := { unit := BitVec.ofNat 16 unit, tag := tag, pkt := pkt, turf := turf, sentAt := s.now,
                        purpose := purpose, extra := extra }
  match s.localIx (addr.toNat / 2 ^ 48) with
  | some ix =>
    let s := { s with ops := s.ops ++ [op] }
    (s.queueDyn (unitPort unit addr.toNat) (s.targetPort ix addr.toNat) turf (unitVc unit) pkt, tag)
  | none =>
    let ep := addr.toNat / 2 ^ 48
    let op := { op with peer := some (memNat s.fab.epTable (8 * ep + 2) 2 % 1024) }
    let n := if 0x10 ≤ opcode then 16 else len
    if s.windowOpen ep n && !s.waitsBefore op.unit ep then
      ((({ s with ops := s.ops ++ [op] } : State).takeWindow ep n).queueDyn (unitPort unit addr.toNat) 
        (fibrePort (s.fibreOf turf addr.toNat)) turf (unitVc unit) pkt, tag)
    else ({ s with ops := s.ops ++ [{ op with waitingWindow := true }] }, tag)

/-- Bytes a request counts at its window (R301): its LEN, an atomic 16. -/
def windowBytes (p : Packet) : Nat := if 0x10 ≤ hfld p.hdr 0 1 then 16 else hfld p.hdr 4 2

/-- A request is no longer outstanding at its destination's window (R301). -/
def State.freeWindow (s : State) (ep n : Nat) : State :=
  let w := tget s.fab.windows (0, 0) ep
  { s with fab := { s.fab with windows := tset s.fab.windows ep (w.1 - 1, w.2 - n) } }

/-- Send a request that has waited at its window, and count its stall in ns on its fibre (Table 20.1, R491). One that a table change has left without a valid route is refused to its issuer with
BAD_ARG and counted (R298, R263). -/
def State.admitOp (s : State) (o : TomicOp) : State :=
  let a := hfld o.pkt.hdr 16 8
  let s := s.takeWindow (a / 2 ^ 48) (windowBytes o.pkt)
  let s := { s with ops := s.ops.map (fun (x : TomicOp) =>
    if x.unit = o.unit ∧ x.tag = o.tag then { x with waitingWindow := false, sentAt := s.now } else x) }
  let port := unitPort o.unit.toNat a
  if (s.routeOf o.turf (a / 2 ^ 48)).isSome then (s.bump 4 (s.fibreOf o.turf a) 8 (s.now - o.sentAt)).queueDyn port (fibrePort (s.fibreOf o.turf a)) o.turf (unitVc o.unit.toNat) o.pkt
  else
    let nack : Packet := {
      hdr := mkHdr 0x82 (hfld o.pkt.hdr 1 1) 0 stBadArg 0 o.unit.toNat o.tag.toNat (hfld o.pkt.hdr 12 2) (BitVec.ofNat 64 a) 0 }
    (s.tally (.notSent o.unit.toNat) 1).queueDyn (edgePort 0 a) port o.turf (unitVc o.unit.toNat + 1) nack

/-- Admit the requests that wait at their windows, oldest first and each unit's in issue order: one that does not fit holds back the
younger ones of its unit and to its destination (R301, R304). -/
def State.pumpWindows (s : State) : State :=
  let waiting := s.ops.filter (fun o => o.waitingWindow)
  (waiting.foldl (fun (acc : State × List Half × List Nat) o =>
    let ep := hfld o.pkt.hdr 16 8 / 2 ^ 48
    if acc.2.1.contains o.unit || acc.2.2.contains ep || !acc.1.windowOpen ep (windowBytes o.pkt)
    then (acc.1, o.unit :: acc.2.1, ep :: acc.2.2)
    else (acc.1.admitOp o, acc.2)) (s, [], [])).1

/-! ### Protected packets (R17, R18, R170, R171) -/

/-- A Protected packet of a source endpoint: 16 bytes with its SEQ, PTYPE, DEST and copy (Table 6.6). -/
def carriage (seq ptype dest copy arg : Nat) (addr : DWord) : BitVec 128 :=
  BitVec.ofNat 128 (seq % 2 ^ 16 + ptype * 2 ^ 16 + (dest + copy * 128) * 2 ^ 24 + arg % 2 ^ 32 * 2 ^ 32 + addr.toNat * 2 ^ 64)

/-- Number of ports of an optical endpoint (Table 6.3). -/
def oepPorts (o : Nat) : Nat := if 16 ≤ o ∧ o < 40 then 16 else if o < 44 then 64 else 0

/-- The quadrant of an optical endpoint. -/
def oepQuad (o : Nat) : Nat := if o < 16 then o / 4 else if o < 40 then (o - 16) / 6 else o - 40

/-- The feed group of a port, quadrant x 16 + f (R176). -/
def feedOf (p : Nat) : Nat := oepQuad (p / 64) * 16 + p % 16

/-- No light reaches a port: its feed group is dark, or shutdown has turned every bank off (R183, R458). -/
def State.unlit (s : State) (p : Nat) : Bool := (s.port p).dark || s.pw.shutdown

/-- A port takes no new traffic: dark, failed, its feed group under swap, or a lane of it swept without a stand-in (R180, R183, R184, R191,
R192). -/
def State.portOut (s : State) (p : Nat) : Bool :=
  let x := s.port p
  s.unlit p || x.failed || s.holds.swapping.contains (feedOf p)
    || (match x.sweeping with | some (pos, none, _) => decide (tget x.lanes (if pos < 16 then pos else 16) pos < 16) | _ => false)

/-- Of an endpoint's ports of one parity that take traffic, the one with the shortest Protected queue, lowest first (R170, R180,
R192). -/
def State.protPort (s : State) (oep parity : Nat) : Nat :=
  let cand := (List.range (oepPorts oep)).filter (fun i => i % 2 = parity && !s.portOut (oep * 64 + i))
  let len := fun i => (s.port (oep * 64 + i)).protectedQ.length
  oep * 64 + cand.foldl (fun b i => if len i < len b then i else b) (cand.headD parity)

/-- Queue a Protected packet as two copies on ports of both parities (R17, R170), numbered for its destination (R171). -/
def State.queueProtected (s : State) (oep ptype dest arg : Nat) (addr : DWord) : State :=
  let seq := tget s.seqNext 0 (oep * 64 + dest)
  let s := { s with seqNext := tset s.seqNext (oep * 64 + dest) ((seq + 1) % 65536) }
  let a := s.protPort oep 0
  let s := s.modPort a (fun x => { x with protectedQ := x.protectedQ ++ [carriage seq ptype dest 0 arg addr] })
  let b := s.protPort oep 1
  s.modPort b (fun x => { x with protectedQ := x.protectedQ ++ [carriage seq ptype dest 1 arg addr] })

/-- Whether an endpoint can take one more Protected packet on each parity, and no source of it stalls (R18). -/
def State.protRoom (s : State) (oep : Nat) : Bool :=
  decide ((s.port (s.protPort oep 0)).protectedQ.length < 32) && decide ((s.port (s.protPort oep 1)).protectedQ.length < 32)
    && !s.protHeld.any (fun w => w.oep == oep)

/-- Send a Protected packet; where a queue is full its source stalls until an entry frees (R18). -/
def State.sendProtected (s : State) (oep ptype dest arg : Nat) (addr : DWord) : State :=
  if s.protRoom oep then s.queueProtected oep ptype dest arg addr
  else { s with protHeld := s.protHeld ++ [{ oep := oep, ptype := ptype, dest := dest, arg := arg, addr := addr }] }

/-- Entries have freed: the packets of stalled sources are queued in their order, as far as there is room (R18). -/
def State.pumpProtected (s : State) : State :=
  s.protHeld.foldl (fun s w => s.sendProtected w.oep w.ptype w.dest w.arg w.addr) { s with protHeld := [] }

/-- Heartwood announces to each of the 20 CDs and edge groups (R466, R485), through its own edge group (R14, R170). -/
def State.announceAll (s : State) (ptype arg : Nat) (addr : DWord) : State :=
  (List.range 16 ++ [40, 41, 42, 43]).foldl (fun v d => v.sendProtected s.leadOep ptype d arg addr) s

/-- ADDR of a sync packet (Table 9.3). -/
def syncAddr (endpoint index epoch pkind : Nat) (remote : Bool) (who : Half) : DWord :=
  BitVec.ofNat 64 (endpoint * 2 ^ 48 + index * 2 ^ 32 + epoch % 4096 * 2 ^ 20 + pkind * 2 ^ 18 + b2n remote * 2 ^ 17 + who.toNat)

/-! ### Completions (R339 to R342, R350, R354) -/

/-- Bytes of a completion entry (Table 13.8). -/
def cqeBytes (tag : Word) (status cause : Nat) (phase : Bool) (result : DWord) : Bytes :=
  natLe 4 tag.toNat ++ natLe 1 status ++ natLe 1 cause ++ natLe 1 (b2n phase) ++ [0] ++ natLe 8 result.toNat

/-- Send an MSI-X vector's message, or set its pending bit when it is masked (R354). -/
def State.msix (s : State) (port vector : Nat) : State :=
  let v := tget (s.pcie port).msix {} vector
  if v.masked then s.modPcie port (fun x => { x with msix := tset x.msix vector { v with pending := true } })
  else s.emit (.msix port vector)

/-- Key of host memory behind a port. -/
def hostKey (port addr : Nat) : Nat := port * 2 ^ 64 + addr

/-- Whether completions of a queue are written (R346). -/
def QueueSt.writes (q : QueueSt) : Bool :=
  match q.state with
  | .opened => true
  | .error => true
  | .closing => decide (q.closeMode = 0)
  | .closed => false

/-- Whether a site offset lies in the retained copy of an image, which every other operation is denied (R516). -/
def State.retainedAt (s : State) (m off : Nat) : Bool := s.images.any (fun p => p.2.retained.contains (m, off / 2 ^ 30))

/-- Write one completion entry on a queue (R339, R342, R343). -/
def State.writeCqe (s : State) (q : Nat) (tag : Word) (status cause : Nat) (notify : Bool) (result : DWord) : State :=
  let x := s.queue q
  let bs := cqeBytes tag status cause x.phase result
  let addr := x.cqAddr.toNat + 16 * x.cqTail
  let step := fun (s : State) => s.modQueue q (fun y =>
    if y.cqTail + 1 = y.cqSize then { y with cqTail := 0, phase := !y.phase } else { y with cqTail := y.cqTail + 1 })
  if 4096 ≤ q then
    let r := s.issueOp (coreParty 0 (s.batchCore x.turf)).toNat x.turf 0x02 0 0 16 (BitVec.ofNat 64 addr) 0 none bs false 5
      (if notify then x.partnerCtr.toNat else 0)
    step r.1
  else if x.cqMod then
    match s.resolve addr with
    | some (.site m off) =>
      if mayReach x.turf (siteOwner s.turfMap m (off / 2 ^ 30)) && !s.retainedAt m off then
        let s := step (s.storeSite m off bs false)
        if notify && x.vecEn then s.msix x.port x.vector else s
      else s.modQueue q (fun y => { y with state := if y.state = .opened then .error else y.state, cause := 4 })
    | _ => s.modQueue q (fun y => { y with state := if y.state = .opened then .error else y.state, cause := 4 })
  else
    let s := step { s with hostMem := memWrite s.hostMem (hostKey x.port addr) bs }
    if notify && x.vecEn then s.msix x.port x.vector else s

/-- The accepted command in a slot of a queue. -/
def State.acceptedAt (s : State) (q slot : Nat) : Option Accepted :=
  s.accepted.find? (fun a => a.q == q && a.slot == slot)

/-- Change an accepted command. -/
def State.modAccepted (s : State) (q slot : Nat) (f : Accepted → Accepted) : State :=
  { s with accepted := s.accepted.map (fun a => if a.q = q ∧ a.slot = slot then f a else a) }

/-- Whether a command is recorded in the last-operation record (R350). -/
def isRecorded (w : BitVec 512) : Bool :=
  sqProtected w || sqOpcode w == 0x0403 || sqOpcode w == 0x0900 || sqOpcode w == 0x0901

/-- Complete an accepted command: entry, record and reservation (R340, R342, R350). -/
def State.completeCore (s : State) (a : Accepted) (status cause : Nat) (result : DWord) : State :=
  let s := { s with accepted := s.accepted.filter (fun b => !(b.q == a.q && b.slot == a.slot)) }
  let s := if (s.queue a.q).writes then s.writeCqe a.q (sqTag a.entry) status cause (sqNotify a.entry) result else s
  let s := s.modQueue a.q (fun x => { x with reserved := x.reserved - 1 })
  if isRecorded a.entry && s.bu.record == some (sqOpcode a.entry, a.q, sqTag a.entry)
  then { s with bu := { s.bu with record := none } } else s

/-- Copy the binding-table entry of a queue into both sets (R347, Table 18.5). -/
def State.bindEntry (s : State) (q : Nat) : State :=
  let x := s.queue q
  let open_ := decide (x.state ≠ .closed)
  let flags := b2n open_ + b2n (decide (4096 ≤ q)) * 2 + x.port * 4 + b2n x.vecEn * 8 + b2n x.sqMod * 16 + b2n x.cqMod * 32
  let bs : Bytes := if open_ then
      natLe 1 flags ++ natLe 1 x.turf ++ natLe 2 x.vector ++ natLe 2 x.partner ++ natLe 2 0 ++ natLe 8 x.sqAddr.toNat
        ++ natLe 8 x.cqAddr.toNat ++ natLe 1 (x.sqLog2 + x.cqLog2 * 16) ++ natLe 7 0
    else natLe 32 0
  s.modCset 4 (fun c => { c with active := memWrite c.active (32 * q) bs, shadow := memWrite c.shadow (32 * q) bs })

/-- Word 1 of LEASE_REVOKED for a queue or copy engine (Table 13.10): kind 1 or 2. -/
def leaseWordObj (kind n epoch : Nat) : BitVec 128 := BitVec.ofNat 128 (n * 2 ^ 64 + kind * 2 ^ 62 + epoch)

/-- Revoke the lease a queue other than 0 holds on itself (R255, R345). The event that R255 has entered in the log names no counter: its
ADDR is 0 (log entry 122, DESIGN CHOICE). -/
def State.revokeSelf (s : State) (q : Nat) : State :=
  if q = 0 then s
  else
    let e := nextEpoch (s.queue q).epoch
    let s := s.logSync {
      gtc := s.now, addr := 0, event := 4, status := 0, signaller := 0, remote := false, amount := 0, epoch := BitVec.ofNat 32 e }
    (s.modQueue q (fun y => { y with epoch := e })).notice 0 6 0x1004 [leaseWordObj 1 q e]

/-- The indices of a closed queue 0 are reset and its rings released (R405). -/
def QueueSt.ringsOut (y : QueueSt) : QueueSt :=
  { y with sqAddr := 0, cqAddr := 0, sqLog2 := 4, cqLog2 := 4, sqHead := 0, sqTail := 0, cqHead := 0, cqTail := 0, phase := true }

/-- Finish closing a queue whose accepted commands have run to their end (R346, R405). -/
def State.finishClose (s : State) (q : Nat) : State :=
  let x := s.queue q
  let s := s.revokeQueueCtrs q
  let s := if 5 ≤ x.cause ∧ x.cause ≤ 7 then s else s.revokeSelf q
  let s := s.modQueue q (fun y => { y with state := .closed, notices := {}, reserved := 0 })
  let s := if q = 0 then s.modQueue 0 QueueSt.ringsOut else s
  let s := s.bindEntry q
  let s := s.notice 0 6 0x1005 [BitVec.ofNat 128 (q + x.cause * 2 ^ 16)]
  let waiting := s.accepted.filter (fun a => a.q == 0 && a.started && sqOpcode a.entry == 0x0002 && sqArg a.entry 0 == q)
  waiting.foldl (fun s a => s.completeCore a stOk 0 (BitVec.ofNat 64 a.aux)) s

/-- Close a queue that is CLOSING and has no accepted command left. -/
def State.settleQueue (s : State) (q : Nat) : State :=
  if (s.queue q).state = .closing ∧ !(s.accepted.any (fun a => a.q == q)) then s.finishClose q else s

/-- Complete an accepted command and finish whatever close waited for it. -/
def State.complete (s : State) (a : Accepted) (status cause : Nat) (result : DWord) : State :=
  let s := s.completeCore a status cause result
  let s := s.settleQueue a.q
  s.settleQueue 0

/-- Start closing a queue with a cause (R332, R344 to R346); but for `CLOSE_QUEUE` its lease is revoked at once (Table 9.6). -/
def State.startClose (s : State) (q cause mode : Nat) : State :=
  let x := s.queue q
  let s := if x.state = .closed ∨ x.state = .closing ∨ cause = 8 then s else s.revokeSelf q
  match x.state with
  | .closed => s
  | .closing => s
  | .error => (s.modQueue q (fun y =>
      { y with state := .closing, closeMode := mode, cause := if cause = 8 then y.cause else cause })).settleQueue q
  | .opened => (s.modQueue q (fun y => { y with state := .closing, cause := cause, closeMode := mode })).settleQueue q

/-- Put an open queue in ERROR (R334, R343, Table 13.5). -/
def State.queueError (s : State) (q cause : Nat) : State :=
  if (s.queue q).state = .opened then s.modQueue q (fun y => { y with state := .error, cause := cause }) else s

/-- Renew a queue's lease on itself and on what it holds (R254, R345). -/
def State.renewQueue (s : State) (q : Nat) : State :=
  let s := s.modQueue q (fun x => { x with renewed := s.now })
  (s.leasedTo q).foldl (fun s k => s.modCtr k (fun c => { c with renewed := s.now })) s

end Sys2Proof.Machine
end

