-- ==== Sys2Proof/Machine/Records.lean ====
section
/-!
DEFINITION. What the module writes down when something goes wrong: defect list, wear log, fault notices (15, 19), the
announcement of a Clamp (R502, R503), and Ash records with their sync section (R260, R507, R508).
-/
namespace Sys2Proof.Machine

/-! ### Defect list and wear log (R411, R412, R483) -/

/-- Place a notice on the queues of turf 0 (Table 19.6). -/
def State.notice0 (s : State) (prio code : Nat) (words : List (BitVec 128)) : State := s.noticeTurf 0 prio code words

/-- Append a defect entry, unless the list is full or already holds the unit (R409, R411, R412). -/
def State.addDefect (s : State) (kind origin unit : Nat) (detail : Word) (action : Nat) : State :=
  if s.firm.defects.length < 4096 then
    let d : Defect := { kind := kind, origin := origin, unit := unit, detail := detail, bootEpoch := s.bu.bootEpoch, action := action }
    { s with firm := { s.firm with defects := s.firm.defects ++ [d] } }
  else if s.firm.listFull then s
  else ({ s with firm := { s.firm with listFull := true } }).notice0 6 0x1105 []

/-- Whether the defect list holds a unit's defect. -/
def State.hasDefect (s : State) (kind unit : Nat) (detail : Word) : Bool :=
  s.firm.defects.any (fun d => d.kind == kind && d.unit == unit && d.detail == detail)

/-- Write a wear log record; a full region loses its oldest (R483). -/
def State.addWear (s : State) (rkind unit : Nat) (value detail : Word) : State :=
  let r : WearRec := { gtc := s.now, bootEpoch := s.bu.bootEpoch, rkind := rkind, unit := unit, value := value, detail := detail }
  let l := s.firm.wear ++ [r]
  { s with firm := { s.firm with wear := if l.length ≤ 454656 then l else l.drop 1 } }

/-- Word 1 of FAULT and WEAR_SUBST (Table 19.6). -/
def faultWord (kind action unit : Nat) (detail : Word) (cls : Nat) : BitVec 128 :=
  BitVec.ofNat 128 (kind + action * 2 ^ 8 + unit % 65536 * 2 ^ 16 + detail.toNat * 2 ^ 32 + cls * 2 ^ 64)

/-- A FAULT notice (R485). -/
def State.faultNotice (s : State) (kind action unit : Nat) (detail : Word) (cls : Nat) : State :=
  s.notice0 6 0x1101 [faultWord kind action unit detail cls]

/-- A fault acted on by retiring or replacing a unit: notice and defect entry (R485). -/
def State.faultActed (s : State) (kind origin action unit : Nat) (detail : Word) (cls : Nat) : State :=
  (s.addDefect kind origin unit detail action).faultNotice kind action unit detail cls

/-! ### Spare pools (R478 to R480, R487) -/

/-- Spares per pool of a kind (Table 19.1). -/
def sparesOf (kind : Nat) : Nat :=
  match kind with
  | 0x01 => 2 | 0x02 => 2 | 0x04 => 1 | 0x05 => 1 | 0x06 => 4 | 0x07 => 1 | 0x08 => 2 | 0x09 => 1 | 0x0A => 32 | 0x0B => 2
  | 0x0C => 1 | 0x0D => 4 | 0x10 => 2 | _ => 0

/-- Spares a pool is built with: a bridge direction has 16, numbered from 208 on (Table 19.1). -/
def sparesIn (kind pool : Nat) : Nat := if kind = 0x09 ∧ 208 ≤ pool then 16 else sparesOf kind

/-- The kind under which a pool is kept: cell columns under 0x02 (Table 19.8). -/
def poolKind (kind : Nat) : Nat := if kind = 1 then 2 else kind

/-- Key of a pool. -/
def poolKey (kind pool : Nat) : Nat := poolKind kind * 2 ^ 24 + pool

/-- Spares left in a pool. -/
def State.sparesLeft (s : State) (kind pool : Nat) : Nat :=
  sparesIn kind pool - tget s.firm.sparesTaken 0 (poolKey kind pool) - tget s.firm.sparesFailed 0 (poolKey kind pool)

/-- Pools of a kind (Table 19.1). -/
def poolsOf (kind : Nat) : Nat :=
  match kind with
  | 0x02 => 16 | 0x04 => 256 | 0x05 => 64 | 0x06 => 4 | 0x07 => 9984 | 0x08 => 3328 | 0x09 => 216 | 0x0A => 24 * 66 * Config.dramBanks.toNat | 0x0B => 24
  | 0x0C => 1 | 0x0D => 1 | 0x10 => 256 | _ => 0

/-- Pools of a kind of which a spare was taken or removed, with the spares left. -/
def State.touchedPools (s : State) (kind : Nat) : List (Nat × Nat) :=
  let mine := fun (t : Tbl Nat) => (t.filter (fun p => p.1 / 2 ^ 24 == kind)).map (fun p => p.1 % 2 ^ 24)
  ((mine s.firm.sparesFailed).foldl setIns (mine s.firm.sparesTaken)).map (fun p => (p, sparesIn kind p
    - tget s.firm.sparesTaken 0 (kind * 2 ^ 24 + p) - tget s.firm.sparesFailed 0 (kind * 2 ^ 24 + p)))

/-- MIN_LEFT of a kind: fewest spares left in any one pool (Table 19.9). -/
def State.minLeft (s : State) (kind : Nat) : Nat := ((s.touchedPools kind).map (fun p => p.2)).foldl min (sparesOf kind)

/-- Substitutions of a kind over the last 365 operating days, or all when there are fewer (R489): the records that stand behind
the 365th operating-day record from the end of the wear log. -/
def State.substitutions (s : State) (kind : Nat) : Nat :=
  (s.firm.wear.reverse.foldl (fun (acc : Nat × Nat) r =>
    if r.rkind = 0x0F then (acc.1, acc.2 + 1)
    else if r.rkind = 0x0D ∧ poolKind (r.detail.toNat % 256) = kind ∧ acc.2 < 365 then (acc.1 + 1, acc.2) else acc) (0, 0)).1

/-- RATE (R489): substitutions of a kind per 1,000 operating days. -/
def State.spareRate (s : State) (kind : Nat) : Nat :=
  let d := s.firm.operDays
  if d < 30 then (Config.refRate kind).toNat else min 0xFFFF (s.substitutions kind * 1000 / min d 365)

/-- PROJ_MONTHS (R489). -/
def State.projMonths (s : State) (kind : Nat) : Nat :=
  let r := s.spareRate kind
  if r = 0 then 0xFFFF else min 0xFFFE (s.minLeft kind * 1000 * poolsOf kind * 10000 / (r * 304375))

/-- A SPARE_LOW notice of a kind (Table 19.6). -/
def State.spareLow (s : State) (kind : Nat) : State :=
  s.notice0 5 0x1103 [BitVec.ofNat 128 (kind + min 255 (s.minLeft kind) * 2 ^ 8 + s.projMonths kind * 2 ^ 16)]

/-- Remember that a kind's projection has fallen below 12 months (R487). -/
def State.markLow (s : State) (kind : Nat) : State :=
  if s.projMonths kind < 12 then { s with firm := { s.firm with lowKinds := setIns s.firm.lowKinds kind } } else s

/-- SPARE_LOW when a kind's projection first falls below 12 months (R487). -/
def State.checkProj (s : State) (kind : Nat) : State :=
  if s.projMonths kind < 12 ∧ !s.firm.lowKinds.contains kind then (s.markLow kind).spareLow kind else s

/-- Take a spare for a unit, by origin 2 in service or 3 for wear; the wear log records it (R483), and SPARE_LOW is placed when it
was the last of its pool (R487). -/
def State.takeSpare (s : State) (kind pool unit origin : Nat) : State :=
  let k := poolKey kind pool
  let s := { s with firm := { s.firm with sparesTaken := tset s.firm.sparesTaken k (tget s.firm.sparesTaken 0 k + 1) } }
  let s := s.addWear 0x0D unit 1 (BitVec.ofNat 32 (kind + origin * 2 ^ 8))
  if s.sparesLeft kind pool = 0 then (s.markLow (poolKind kind)).spareLow (poolKind kind) else s.checkProj (poolKind kind)

/-! ### Clamp announcement (R502, R503) -/

/-- Announce a Clamp at a count; one within 2 us after a count already announced merges into it (R503). -/
def State.announceClamp (s : State) (count : Nat) : State :=
  let near := fun (a : Nat) => decide (a ≤ count) && decide (count ≤ a + 2000)
  if s.obs.clampAt.any near || (match s.obs.lastClampAt with | some a => near a | none => false) then s
  else { s with obs := { s.obs with clampAt := setIns s.obs.clampAt count } }

/-- A fault of class C or F, a fatal management fault or a thermal shutdown Clamps when bit 2 is armed (Table 20.7). -/
def State.faultClamp (s : State) : State :=
  if s.obs.clampMask.testBit 2 then s.announceClamp (s.now + 1024) else s

/-! ### Ash records (R260, R507, R508) -/

/-- Whether a counter belongs to the captured scope: the whole module for turf 0's, else the turf's. -/
def State.inScope (s : State) (whole : Bool) (t k : Nat) : Bool := whole || s.ctrTurf k == some t

/-- A counter record with its waiter records (Table 9.9). -/
def State.ctrRecord (s : State) (k : Nat) (c : Ctr) : Bytes :=
  let holder := match c.owner with | .leased q _ => q | _ => 0xFFFF
  let leased := match c.owner with | .leased _ _ => true | _ => false
  let orphan := match c.owner with | .orphan _ => true | _ => false
  natLe 8 (s.ctrAddr k).toNat ++ natLe 4 c.value ++ natLe 4 (if c.everLeased then c.epoch else 0) ++ natLe 2 holder
    ++ natLe 1 ((s.ctrTurf k).getD 0) ++ natLe 1 c.waiters.length ++ natLe 2 c.lastSig.toNat
    ++ natLe 2 (b2n c.lastRemote + b2n leased * 2 + b2n orphan * 4 + b2n c.underflowSeen * 8)
    ++ natLe 4 s.now ++ natLe 4 c.changed
    ++ c.waiters.flatMap (fun w => natLe 2 w.who.toNat ++ natLe 2 (b2n w.underflow) ++ natLe 4 (wrap 32 w.thresh)
        ++ natLe 4 w.dec ++ natLe 4 w.since)

/-- The counters a sync section selects (R260). -/
def State.selected (s : State) (whole : Bool) (t : Nat) : List (Nat × Ctr) :=
  s.ctrs.filter (fun p => s.inScope whole t p.1 &&
    ((match p.2.owner with | .leased _ _ => true | .orphan _ => true | _ => false)
      || !p.2.waiters.isEmpty || decide (p.2.value ≠ 0) || p.2.changedSinceArm))

/-- Whether an event of the log is in scope. -/
def State.eventInScope (s : State) (whole : Bool) (t : Nat) (e : SyncEvent) : Bool :=
  whole || (match s.resolve e.addr.toNat with | some (.ctr k) => s.inScope whole t k | _ => false)

/-- An event record (Table 9.9). -/
def eventBytes (e : SyncEvent) : Bytes :=
  natLe 8 e.gtc ++ natLe 8 e.addr.toNat ++ [e.event] ++ [e.status] ++ natLe 2 e.signaller.toNat ++ natLe 1 (b2n e.remote)
    ++ natLe 3 0 ++ natLe 4 e.amount.toNat ++ natLe 4 e.epoch.toNat

/-- The sync section (R260). -/
def State.syncSection (s : State) (whole : Bool) (t : Nat) : Bytes :=
  let cs := s.selected whole t
  let es := s.syncLog.filter (s.eventInScope whole t)
  natLe 4 cs.length ++ natLe 4 ((cs.map (fun p => p.2.waiters.length)).sum) ++ natLe 4 es.length ++ natLe 4 0
    ++ natLe 8 s.now ++ natLe 8 s.now
    ++ cs.flatMap (fun p => s.ctrRecord p.1 p.2) ++ es.flatMap eventBytes

/-- Section 2: the ring records in scope, in GTC order (R508). -/
def State.ringSection (s : State) (whole : Bool) (t : Nat) : Bytes :=
  ((s.obs.traceRing.filter (fun r => whole || r.turf == t)).mergeSort (fun a b => decide (a.gtc ≤ b.gtc))).flatMap traceBytes

/-- Section 3: cell records (Table 20.9). -/
def State.cellSection (s : State) (whole : Bool) (t : Nat) : Bytes :=
  ((List.range 64).filter (fun r => whole || regionOwner s.turfMap r == some t)).flatMap (fun r =>
    (regionCells r).flatMap (fun c =>
      let x := s.cell c
      natLe 2 c ++ natLe 1 ((regionOwner s.turfMap r).getD 0) ++ natLe 1 0 ++ natLe 4 x.err.toNat ++ natLe 4 (snapCtrlWord x)
        ++ natLe 4 (rickCountWord x.rick) ++ padTo 512 x.first.data ++ padTo 512 x.latest.data))

/-- Section 4: queue records of open queues (Table 20.9). -/
def State.queueSection (s : State) (whole : Bool) (t : Nat) : Bytes :=
  (s.queues.filter (fun p => p.2.state ≠ .closed ∧ (whole ∨ p.2.turf = t))).flatMap (fun p =>
    let q := p.2
    let acc := s.accepted.filter (fun a => a.q == p.1)
    natLe 2 p.1 ++ natLe 1 q.state.num ++ natLe 1 q.cause ++ natLe 1 q.turf ++ [memGet (s.cset 4).active (32 * p.1)] ++ natLe 2 0
      ++ natLe 2 q.sqHead ++ natLe 2 q.sqTail ++ natLe 2 q.cqHead ++ natLe 2 q.cqTail ++ natLe 4 acc.length
      ++ (match acc with
          | [] => natLe 8 0
          | a :: _ => natLe 2 (sqOpcode a.entry) ++ natLe 2 0 ++ natLe 4 (sqTag a.entry).toNat)
      ++ natLe 4 q.epoch)

/-- Section 5: lease records (Table 20.9). -/
def State.leaseSection (s : State) (whole : Bool) (t : Nat) : Bytes :=
  s.ctrs.flatMap (fun p => match p.2.owner with
    | .leased q u => if whole ∨ u = t then natLe 1 0 ++ natLe 1 0 ++ natLe 2 p.1 ++ natLe 2 q ++ natLe 2 0 ++ natLe 4 p.2.epoch
        ++ natLe 4 p.2.termUs ++ natLe 8 (p.2.renewed + p.2.termUs * 1000) else []
    | .orphan u => if whole ∨ u = t then natLe 1 0 ++ natLe 1 1 ++ natLe 2 p.1 ++ natLe 2 p.2.lastHolder ++ natLe 2 0
        ++ natLe 4 p.2.epoch ++ natLe 4 p.2.termUs ++ natLe 8 (p.2.renewed + p.2.termUs * 1000) else []
    | _ => [])
  ++ s.queues.flatMap (fun p =>
    if p.1 ≠ 0 ∧ p.2.state ≠ .closed ∧ (whole ∨ p.2.turf = t) then
      natLe 1 1 ++ natLe 1 0 ++ natLe 2 p.1 ++ natLe 2 p.1 ++ natLe 2 0 ++ natLe 4 p.2.epoch ++ natLe 4 (p.2.termMs * 1000)
        ++ natLe 8 (p.2.renewed + p.2.termMs * 1000000)
    else [])

/-- An Ash record's bytes (R508): header with its directory, then the sections. -/
def ashBytes (id trigger turf gtc : Nat) (secs : List Bytes) : Bytes :=
  let total := 64 + (secs.map List.length).sum
  let dir := (secs.foldl (fun (acc : Nat × Bytes) b => (acc.1 + b.length, acc.2 ++ natLe 4 acc.1 ++ natLe 4 b.length)) (64, [])).2
  natLe 4 0x4853414B ++ natLe 2 1 ++ natLe 2 id ++ natLe 1 trigger ++ natLe 1 turf ++ natLe 2 0 ++ natLe 4 total ++ natLe 8 gtc
    ++ padTo 40 dir ++ secs.flatten

/-- Bytes the Ash store holds. -/
def ashUsed (l : List AshRec) : Nat := (l.map (fun r => r.data.length)).sum

/-- Remove the oldest records that are not pinned until n bytes fit (R507). -/
def ashEvict (n : Nat) : Nat → List AshRec → List AshRec
  | 0, l => l
  | f + 1, l =>
    if ashUsed l + n ≤ 50331648 then l
    else match l.findIdx? (fun r => !r.pinned) with
      | none => l
      | some i => ashEvict n f (l.eraseIdx i)

/-- Capture an Ash record (R507, Table 20.8): trigger 1 covers the whole module, 2 a turf, 3 the command's TURF. -/
def State.ashCapture (s : State) (trigger t : Nat) : State :=
  let whole := decide (trigger = 1) || (decide (trigger = 3) && decide (t = 0))
  let secs := s.syncSection whole t :: (if trigger = 3 then []
    else [s.ringSection whole t, s.cellSection whole t, s.queueSection whole t, s.leaseSection whole t])
  let data := ashBytes s.obs.nextAsh trigger t s.now secs
  let kept := ashEvict data.length (s.obs.ash.length + 1) s.obs.ash
  if ashUsed kept + data.length ≤ 50331648 then
    let r : AshRec := { id := s.obs.nextAsh, trigger := trigger, turf := t, pinned := decide (trigger = 1), gtc := s.now, data := data }
    { s with obs := { s.obs with ash := kept ++ [r], nextAsh := (s.obs.nextAsh + 1) % 65536 } }
  else
    ({ s with obs := { s.obs with ash := kept } }).notice0 6 0x1108
      [BitVec.ofNat 128 (trigger + t * 2 ^ 8 + s.now % 2 ^ 32 * 2 ^ 32)]

end Sys2Proof.Machine
end

