-- ==== Sys2Proof/Machine/BatchOps.lean ====
section
/-!
DEFINITION. Operations on cells and batches that several families share: clearing and loading cells (R40, R53, R139), the
column shift (R137 to R140), stopping and completing a batch (R31, R32, R96, R361, R551), a cell fault (R31, R36).
-/
namespace Sys2Proof.Machine

/-! ### Clearing cells (R9, R40, R53, R54) -/

/-- Clear the cells a predicate names: registers, tables, rick, snapshot bank, counters, S0 to S63, store and marks. -/
def State.clearCells (s : State) (p : Nat → Bool) : State :=
  let cellOfKey := fun (a : Nat) => a / 2 ^ 48 * 256 + a % 2 ^ 48 / 2 ^ 21
  let hit := fun (a : Nat) => decide (a / 2 ^ 48 < 16) && p (cellOfKey a)
  { s with
    cells := s.cells.filter (fun c => !p c.1)
    ctrs := s.ctrs.filter (fun c => !(decide (65536 ≤ c.1) && p ((c.1 - 65536) / 64)))
    mem := s.mem.filter (fun c => !hit c.1)
    marks := s.marks.filter (fun a => !hit a)
    poison := s.poison.filter (fun a => !hit a) }

/-- Clear a region's cells. -/
def State.clearRegion (s : State) (r : Nat) : State := s.clearCells (fun c => regionOf c == r)

/-- The image loaded for a turf. -/
def State.turfImage (s : State) (t : Nat) : Option (Nat × ImageSt) := s.images.find? (fun p => p.2.turf == t && p.2.ready)

/-- Write a cell's tables from an image (R97, R512): steps, access tables, router windows, initial values. -/
def loadTables (r : CellRec) (c : CellSt) : CellSt :=
  { c with
    steps := r.steps, windows := r.wins, initL := r.initL, initT := r.initT, lmask := r.lmask
    ae0 := { table := r.ae0 }, ae1 := { table := r.ae1 } }

/-- Write the tables of the images loaded for a region's turf into the region's cells (R394). -/
def State.loadRegion (s : State) (r : Nat) : State :=
  let s := (regionCells r).foldl (fun s c => s.modCell c (fun x => { x with steward := s.firm.stewardCopy })) s
  match regionOwner s.turfMap r with
  | none => s
  | some t =>
    match s.turfImage t with
    | none => s
    | some (_, img) =>
      img.cells.foldl (fun s rec_ => if regionOf rec_.cell = r then s.modCell rec_.cell (loadTables rec_) else s) s

/-! ### Column shift (R137 to R140) -/

/-- The physical column of a logical column (R137). -/
def physColumn (retired : List Nat) (j : Nat) : Nat := ((List.range 18).filter (fun p => !retired.contains p)).getD j 18

/-- Reload a moved cell: store, T and L cleared, tables and steward microcode again (R139). What a step in flight there would still
have written is gone with the column (log entry 118). -/
def State.reloadCell (s : State) (c : Nat) : State :=
  let s := s.pokeZero (storeKey c 0) 0x180000
  let s := s.modCell c (fun x => { x with t := [], l := [], inflight := [], waitGated := false, steward := s.firm.stewardCopy })
  match regionOwner s.turfMap (regionOf c) with
  | none => s
  | some t =>
    match s.turfImage t with
    | none => s
    | some (_, img) =>
      match img.cells.find? (fun r => r.cell == c) with
      | none => s
      | some r => s.modCell c (loadTables r)

/-- The largest ratio requested (R125). -/
def State.hWanted (s : State) : Nat :=
  max s.pw.reqThermal (if s.pw.reqThrotN || s.pw.reqSupply || !s.pw.reqPhase.isEmpty then 128 else 0)

/-- Announce a change of H for a count when the requests call for one (R125); changes announced before it still take effect. -/
def State.requestH (s : State) (count : Nat) : State :=
  let cur := match s.pw.hAt.getLast? with | some x => x.2 | none => s.pw.h
  if s.hWanted = cur then s else { s with pw := { s.pw with hAt := s.pw.hAt ++ [(count, s.hWanted)] } }

/-- The region a compute group feeds; none for another rail (Table 16.8). -/
def groupRegion (g : Nat) : Option Nat := if g % 64 < 48 then some (16 * (g / 64) + g % 64 / 3) else none

/-- Fail a region (R140): S4, never woken again. What its regulator groups requested of the throttle ends with it (R440). -/
def State.failRegion (s : State) (r cause : Nat) : State :=
  let s := (s.clearRegion r).modRegion r (fun x => { x with
    failed := true, failCause := cause, sleep := .s4, going := none, waking := none, pending := none })
  ({ s with pw := { s.pw with reqPhase := s.pw.reqPhase.filter (fun g => groupRegion g != some r) } } : State).requestH (s.now + 500)

/-- Retire a physical column of a CD, and move the logical columns over it (R139); none when two are retired (R140). The wear figures of a
moved cell are those of another physical cell from then on. -/
def State.shiftColumn (s : State) (cd phys : Nat) : Option State :=
  let old := (s.cd cd).retired
  if old.contains phys then some s
  else if 2 ≤ old.length then none
  else
    let new := setIns old phys
    let s := s.modCd cd (fun x => { x with retired := new })
    let moved := (List.range 16).filter (fun j => physColumn old j ≠ physColumn new j)
    let fresh := fun (c : Nat) (w : CellWear) =>
      if c / 256 = cd ∧ moved.contains (c % 16) then { w with corrections := [], softs := [], links := [] } else w
    let s := { s with firm := { s.firm with cellWear := tmap s.firm.cellWear fresh } }
    some (moved.foldl (fun s j => (List.range 16).foldl (fun s row => s.reloadCell (cd * 256 + row * 16 + j)) s) s)

/-! ### Batches -/

/-- The batch of a turf. -/
def State.batch (s : State) (t : Nat) : Option BatchSt := tfind s.batches t

/-- Change the batch of a turf, if it has one. -/
def State.modBatch (s : State) (t : Nat) (f : BatchSt → BatchSt) : State :=
  match tfind s.batches t with
  | none => s
  | some b => { s with batches := tset s.batches t (f b) }

/-- The cells of a batch (R551). -/
def batchCells (b : BatchSt) : List Nat := (setBits b.regions 64).flatMap regionCells

/-- Both engines have reached END and every operation they issued has been acknowledged (R112). -/
def CellSt.enginesDone (x : CellSt) : Bool :=
  x.ae0.finished && x.ae1.finished && x.ae0.ops.isEmpty && x.ae1.ops.isEmpty && x.ae0.reps.isEmpty && x.ae1.reps.isEmpty

/-- A HALT has issued and can complete (R112). -/
def CellSt.haltDue (x : CellSt) : Bool := x.running && x.haltIssued && x.enginesDone

/-- Stop one cell at its next step boundary (R96): a standing wait ends, the engines start nothing more; under ABORT their
outstanding operations are no longer waited for, nor a HALT that waits for them (R32). A HALT already issued stays in flight. -/
def stopCell (aborted : Bool) (c : CellSt) : CellSt :=
  let ae := fun (e : Ae) => { e with
    gated := false, ops := if aborted then [] else e.ops.filter (fun o => o.refusedAt.isNone)
    reps := if aborted then [] else e.reps.map (fun r => { r with queued := [] }) }
  let halts := c.haltIssued && (!aborted || c.enginesDone)
  { c with stopping := true, waitGated := false, haltIssued := halts, inflight := c.inflight.filter (fun i => halts || i.unit != .ctl),
           ae0 := ae c.ae0, ae1 := ae c.ae1 }

/-- Stop a turf's batch: no cell of it issues again, and it will complete with the first status recorded. Any stop but that of ABORT is a
fault stop and begins the recovery of R59. -/
def State.stopBatch (s : State) (t status : Nat) (result : DWord) (aborted : Bool) : State :=
  match s.batch t with
  | none => s
  | some b =>
    let s := s.modBatch t (fun b => { b with
      stopping := true, aborted := b.aborted || aborted, waiting := false, recover := b.recover || !aborted
      endStatus := match b.endStatus with | some e => some e | none => some (BitVec.ofNat 8 status, result) })
    let hit := fun (c : Nat) => b.regions.testBit (regionOf c)
    let s := { s with ctrs := tmap s.ctrs (fun k c =>
      if 65536 ≤ k ∧ hit ((k - 65536) / 64) then { c with waiters := [] } else c) }
    { s with cells := tmap s.cells (fun k c => if hit k then stopCell aborted c else c) }

/-- No cell of a stopped batch has work in flight that completes (R96). A HALT waits for END entries that a stopped engine does not
reach any more, unless both stand there. -/
def State.quiet (s : State) (b : BatchSt) : Bool :=
  s.cells.all (fun p => !b.regions.testBit (regionOf p.1) ||
    (p.2.inflight.all (fun i => i.unit == .ctl) && !p.2.haltDue && (b.aborted || (p.2.ae0.ops.isEmpty && p.2.ae1.ops.isEmpty))))

/-! ### Faulted cells (R31, R38, R139, R140, R481, R552) -/

/-- The turf whose running batch a fault of a cell ends: that which owns its region, whether or not the batch uses the region (R31, R140,
R552). -/
def State.faultBatch (s : State) (c : Nat) : Option Nat :=
  (s.batches.find? (fun p => p.2.started && (p.2.regions.testBit (regionOf c) || regionOwner s.turfMap (regionOf c) == some p.1))).map
    (fun p => p.1)

/-- A faulted cell (R38, R139, R140, R406, R552): its column is shifted, or its region fails and with it the batch that its turf runs;
the ACTION taken and the state. -/
def State.retireCell (s : State) (c origin : Nat) : Nat × State :=
  let cd := c / 256
  let phys := physColumn (s.cd cd).retired (c % 16)
  match s.shiftColumn cd phys with
  | some s' =>
    (1, ((s'.addDefect 0x01 origin c (BitVec.ofNat 32 phys) 1).takeSpare 0x02 cd c origin).faultNotice 0x01 1 c (BitVec.ofNat 32 phys) 1)
  | none =>
    let s := match s.faultBatch c with | none => s | some t => s.stopBatch t stInternal (BitVec.ofNat 64 (c + 2 ^ 16)) false
    let s := s.failRegion (regionOf c) 2
    (2, (s.addDefect 0x03 origin (regionOf c) 2 2).faultNotice 0x01 2 c (BitVec.ofNat 32 phys) 1)

/-- Change a cell's wear figures. -/
def State.modWear (s : State) (c : Nat) (f : CellWear → CellWear) : State :=
  { s with firm := { s.firm with cellWear := tset s.firm.cellWear c (f (tget s.firm.cellWear {} c)) } }

/-- A soft error of a cell: entered in the wear log, and counted toward the threshold of 30 days (Table 19.2). -/
def State.softError (s : State) (c : Nat) : State :=
  (s.modWear c (fun w => { w with softs := w.softs.filter (fun t => decide (s.now < t + 2592000000000000)) ++ [s.now] })).addWear 0x05 c 1 0

/-- Heartwood retests a cell that a fault has stopped: it is retired, or the event was a soft error (R38, R552). -/
def State.retest (s : State) (x : Nat × Bool) : State := if x.2 then s.softError x.1 else (s.retireCell x.1 2).2

/-- The retests that wait for a turf's cells to stand at their step boundary (R31). -/
def State.runRetests (s : State) (t : Nat) : State :=
  let mine := fun (x : Nat × Bool) => s.faultBatch x.1 == some t
  (s.firm.retests.filter mine).foldl State.retest { s with firm := { s.firm with retests := s.firm.retests.filter (fun x => !mine x) } }

/-- RESULT of a batch that completed (Table 13.15). -/
def State.okResult (s : State) (b : BatchSt) : DWord :=
  let lr := s.cells.any (fun p => b.regions.testBit (regionOf p.1) && p.2.ledgerRange)
  BitVec.ofNat 64 (b2n lr + b2n b.sawRepair * 2 + b2n b.sawLight * 4 + b2n b.sawThrottle * 8
    + min 0xFFFFFFFF ((b.lastHalt - b.startCount) / 1000) * 2 ^ 32)

/-- End a turf's batch and write its completion: the Ash record first (R507), then the retests (R31), CELL_ERR cleared (R55), the digests
kept (R501). The recovery of R59 ends as the completion entry is written. -/
def State.finishBatch (s : State) (t : Nat) (b : BatchSt) (status : Nat) (result : DWord) : State :=
  let cause := bits result.toNat 23 16
  let s := if status = stInternal ∧ 1 ≤ cause ∧ cause ≤ 5 then s.ashCapture 2 t else s
  let s := s.runRetests t
  let gaps := s.tuneGaps.map (fun g => if g.1 = t ∧ g.2.1 = 0 then (g.1, max 1 s.now, g.2.2) else g)
  let s := { s with
    batches := tdel s.batches t, batchEnds := if b.started then tset s.batchEnds t s.now else s.batchEnds, tuneGaps := gaps
    ctrs := tmap s.ctrs (fun k c => if k = 2 * t ∨ k = 2 * t + 1 then { c with waiters := [] } else c) }
  let s := { s with cells := tmap s.cells (fun k c => if b.regions.testBit (regionOf k) then
    { c with running := false, stopping := false, err := 0, stoppedErr := false, haltIssued := false, waitGated := false,
             inflight := [] } else c) }
  let s := { s with obs := { s.obs with digests := tmap s.obs.digests (fun k l =>
    if k = t then l.map (fun d => { d with done := d.cur, cur := [] }) else l) } }
  match s.acceptedAt b.q b.slot with
  | none => s
  | some a => s.complete a status 0 result

/-- A stopped batch whose cells are at their step boundary completes, and the ABORT that stopped it after it (R361). -/
def State.settleStop (s : State) (t : Nat) : State :=
  match s.batch t with
  | none => s
  | some b =>
    match b.endStatus with
    | none => s
    | some (st, r) =>
      if b.stopping && s.quiet b then
        let s := s.finishBatch t b st.toNat r
        match b.abortCmd with
        | none => s
        | some (q, slot) =>
          match s.acceptedAt q slot with
          | none => s
          | some a => s.complete a stOk 0 (BitVec.ofNat 64 (b2n (st.toNat == stDenied) + a.aux * 2 ^ 16))
      else s

/-- Settle every stopped batch. -/
def State.settleAll (s : State) : State := (s.batches.map (fun p => p.1)).foldl (fun s t => s.settleStop t) s

/-- The turf whose running batch a cell is part of. -/
def State.batchOfCell (s : State) (c : Nat) : Option Nat :=
  (s.batches.find? (fun p => p.2.started && p.2.regions.testBit (regionOf c))).map (fun p => p.1)

/-- An error of a cell (Table 2.8) that ends its batch (R31, R36, R52, R114, R119, R552): CELL_ERR bit, CELL_ERROR item, the
cell stopped, the batch stopped with INTERNAL, a Clamp when faults are armed. Where Heartwood retests the cell, it does so once the
batch's cells stand at their step boundary, or at once where no batch runs (R31). -/
def State.cellFault (s : State) (c bitNo cause : Nat) (item : Bool) (retest : Option Bool) : State :=
  let s := s.cellError c bitNo item
  let s := s.modCell c (fun x => { stopCell false x with stoppedErr := true, running := false })
  let s := s.faultClamp
  match s.faultBatch c with
  | none => match retest with | none => s | some p => s.retest (c, p)
  | some t =>
    let s := match retest with
      | none => s
      | some p => { s with firm := { s.firm with retests := s.firm.retests ++ [(c, p)] } }
    (s.stopBatch t stInternal (BitVec.ofNat 64 (c + cause * 2 ^ 16)) false).settleStop t

/-- Cordwood clears the bits of CELL_ERR that no batch's end has cleared, after an Ash record has taken them (R55). -/
def State.clearErrors (s : State) (t : Nat) : State :=
  let mine := fun (c : Nat) => regionOwner s.turfMap (regionOf c) == some t
  if (s.batch t).isNone && s.cells.any (fun p => mine p.1 && p.2.err != 0) then
    let s := s.ashCapture 2 t
    { s with cells := tmap s.cells (fun k c => if mine k then { c with err := 0, stoppedErr := false } else c) }
  else s

/-- End the running batch of every turf that owns one of the listed regions, with a status and RESULT (R394, R440). -/
def State.endBatchesOn (s : State) (rs : List Nat) (status : Nat) (result : DWord) : State :=
  s.batches.foldl (fun s p =>
    if rs.any (fun r => regionOwner s.turfMap r == some p.1) then
      match s.batch p.1 with
      | none => s
      | some b => s.finishBatch p.1 b status result
    else s) s

end Sys2Proof.Machine
end

