-- ==== Sys2Proof/Machine/SiteOps.lean ====
section
/-!
DEFINITION. What the controller of a near-tier site does on its own: the count and log of what its check symbols find (R206, R207), spare
rows and spare pseudo-channels (R210 to R212).
-/
namespace Sys2Proof.Machine

/-- The physical pseudo-channel that carries a logical one. -/
def SiteSt.phys (x : SiteSt) (pc : Nat) : Nat := tget x.pcMap pc pc

/-- The logical pseudo-channel that a physical one carries. -/
def SiteSt.logical (x : SiteSt) (phys : Nat) : Option Nat := (List.range 64).find? (fun l => x.phys l == phys)

/-- A site's pseudo-channel cannot be replaced: it stays in service DEGRADED (R212). -/
def State.siteDegraded (s : State) (m phys : Nat) : State :=
  let w := [BitVec.ofNat 128 (2 + m * 2 ^ 8 + 2 ^ 16 + 2 ^ 24)]
  let s := (s.modSite m (fun x => { x with degraded := true })).faultNotice 0x0B 0 m (BitVec.ofNat 32 phys) 0
  let owners := ((List.range 64).filterMap (fun j => siteOwner s.turfMap m j)).foldl setIns []
  ((owners.filter (· ≠ 0)).foldl (fun s t => s.noticeTurf t 5 0x1104 w) (s.notice0 5 0x1104 w))

/-- A pseudo-channel is to be replaced: it begins migrating to a spare, waits for a migration in progress, or stays (R211, R212). -/
def State.migrate (s : State) (m pc : Nat) : State :=
  let x := s.site m
  match x.migrating with
  | some (l, _) => if l = pc ∨ x.waitingPc.contains pc then s else s.modSite m (fun y => { y with waitingPc := y.waitingPc ++ [pc] })
  | none =>
    match x.sparePcs with
    | [] => s.siteDegraded m (x.phys pc)
    | sp :: rest =>
      (s.modSite m (fun y => { y with migrating := some (pc, sp), sparePcs := rest })).takeSpare 0x0B m m
        (if x.errors.any (fun e => e.1 == pc) then 2 else 3)

/-- One corrected symbol of a site is counted against its pseudo-channel and entered for the hourly wear record (R207, R483); a
pseudo-channel with more than 1,000 of them in 1 h is replaced (R211). -/
def State.siteCorrected (s : State) (m off : Nat) : State :=
  let pc := s.pcOf off
  let l := (tget (s.site m).corrected [] pc).filter (fun c => decide (s.now < c.2 + 86400000000000)) ++ [(off / 2 ^ 14, s.now)]
  let s := (s.modSite m (fun y => { y with
    corrected := tset y.corrected pc l, wearCount := tset y.wearCount pc (tget y.wearCount 0 pc + 1) })).bump 3 m 4 1
  if 1000 < (l.filter (fun c => decide (s.now < c.2 + 3600000000000))).length then s.migrate m pc else s

/-- An uncorrectable read of a granule of a site is logged and counted (R207). -/
def State.siteUncorrectable (s : State) (m off : Nat) : State :=
  (s.modSite m (fun y => { y with errors := y.errors ++ [(s.pcOf off, off / 2 ^ 14, s.now)] })).bump 3 m 5 1

/-- What the check symbols find in the half-granules of a granule, by their addresses (R206, R207). -/
def State.eccGranule (s : State) (m : Nat) (halves : List Nat) : State :=
  let s := (halves.filter (fun a => tget s.flaws 0 a == 1)).foldl (fun s a => s.siteCorrected m (a - siteKey m 0)) s
  match halves.find? (fun a => decide (2 ≤ tget s.flaws 0 a)) with
  | some a => s.siteUncorrectable m (a - siteKey m 0)
  | none => s

/-- What the check symbols find in the granules that a read of n bytes of a site meets (R206, R207). -/
def State.eccRead (s : State) (m off n : Nat) : State :=
  let span := markSpan (siteKey m off) n
  ((span.map (fun a => a / 256)).eraseDups).foldl (fun s g => s.eccGranule m (span.filter (fun a => a / 256 == g))) s

/-- A read of n bytes of a site finds it out of self-refresh and meets what its check symbols find (R26, R206, R214). -/
def State.meetSite (s : State) (m off n : Nat) : State := (s.touch m).eccRead m off n

/-! ### Spare rows (R210) -/

/-- The pool of spare rows of a bank of a physical pseudo-channel of a site (Table 19.1). -/
def rowPool (m pc bank : Nat) : Nat := (m * 66 + pc) * 256 + bank

/-- DETAIL of a DRAM row (Table 15.13). -/
def rowDetail (r : Nat × Nat × Nat) : Word := BitVec.ofNat 32 (r.1 + r.2.1 * 2 ^ 8 + r.2.2 * 2 ^ 16)

/-- Why a row of a physical pseudo-channel is replaced: 2 for an uncorrectable error, 3 for corrections (R210). -/
def State.rowOrigin (s : State) (m phys : Nat) : Nat :=
  let x := s.site m
  match x.logical phys with
  | some l => if x.errors.any (fun e => e.1 == l) then 2 else 3
  | none => 3

/-- A row begins copying to a spare row of its bank, after a copy in progress; with no spare row left its pseudo-channel is replaced
(R210, R211). -/
def State.replaceRow (s : State) (m pc bank row : Nat) : State :=
  let x := s.site m
  let r := (pc, bank, row)
  if x.rowCopy.isSome then (if x.rowCopy = some r ∨ x.rowWaits.contains r then s else s.modSite m (fun y => { y with rowWaits := y.rowWaits ++ [r] }))
  else if 0 < s.sparesLeft 0x0A (rowPool m pc bank) then
    (s.modSite m (fun y => { y with rowCopy := some r })).takeSpare 0x0A (rowPool m pc bank) m (s.rowOrigin m pc)
  else match x.logical pc with
  | none => s
  | some l => s.migrate m l

end Sys2Proof.Machine
end

