-- ==== Sys2Proof/Machine/MemOps.lean ====
section
/-!
DEFINITION. Ranges of the global address space as commands, engines and windows reach them: the checks of R22 and R324, reads
and writes by pieces that lie in one 256 B granule each, and destinations and sources in host memory (R547).
-/
namespace Sys2Proof.Machine

/-- Cut a range at 256 B granule boundaries (R265, R287): address and length of each piece. -/
def pieces (addr len : Nat) : List (Nat × Nat) :=
  (List.range (ceilDiv (addr % 256 + len) 256)).map (fun i =>
    let a := max addr (addr / 256 * 256 + 256 * i)
    let e := min (addr + len) (addr / 256 * 256 + 256 * (i + 1))
    (a, e - a))

/-- Whether an address's endpoint is in the module's endpoint table (R263). -/
def State.epPresent (s : State) (ep : Nat) : Bool := (s.epByte (8 * ep)).toNat.testBit 0

/-- The module number of a peer's endpoint. -/
def State.peerOf (s : State) (ep : Nat) : Nat := memNat s.fab.epTable (8 * ep + 2) 2 % 1024

/-- State of the pair with the module of a flat endpoint (R312, R317): 1 management-only, 2 Dynamic-only, 3 full. -/
def State.pairWith (s : State) (ep : Nat) : Nat := (tget s.fab.pairs {} (s.peerOf ep)).state

/-- Why an operation to an address is refused at its issuer (R263, R298, Table 11.11); none when it is sent. -/
def State.issueRefusal (s : State) (turf addr : Nat) : Option Nat :=
  let ep := addr / 2 ^ 48
  match s.localIx ep with
  | some ix => if s.ownPresent ix then none else some stBadArg
  | none =>
    if !s.epPresent ep then some stBadArg
    else if (s.routeOf turf ep).isNone then some stBadArg
    else if (tget s.fab.pairs {} (s.peerOf ep)).state = 1 then some stVersionMismatch else none

/-- Why a far unit's endpoint takes no operation: absent before its first sublink came into service (R261, R263), withdrawn while
it is DOWN (R262). -/
def State.farAbsent (s : State) (n : Nat) : Option Nat :=
  if (s.fmu n).registered then none else if (s.fmu n).known then some stBusy else some stBadArg

/-- Why a piece of a turf is refused where it would be performed, before its effect (R22, R25, R324): none when it is not. -/
def State.pieceRefusal (s : State) (turf addr : Nat) : Option Nat :=
  match s.resolve addr with
  | none => s.issueRefusal turf addr
  | some l =>
    match l with
    | .store _ _ => if mayReach turf (s.locOwner l) then none else some stDenied
    | .site m o => if mayReach turf (s.locOwner l) && !s.retainedAt m o then none else some stDenied
    | .far n _ =>
      match s.farAbsent n with
      | some st => some st
      | none => if mayReach turf (s.locOwner l) then none else some stDenied
    | _ => some stBadArg

/-- The check a command makes of a module-memory range before any effect (R547): BAD_ARG first, then DENIED. -/
def State.rangeCheck (s : State) (turf addr len : Nat) : Option Nat :=
  let rs := (pieces addr len).map (fun p => s.pieceRefusal turf p.1)
  if rs.contains (some stBadArg) then some stBadArg
  else if rs.contains (some stDenied) then some stDenied
  else if rs.contains (some stVersionMismatch) then some stVersionMismatch else none

/-- Whether a cell's store can be reached: its region is in S0 or S1 (R25). -/
def State.cellAwake (s : State) (c : Nat) : Bool := decide ((s.region (regionOf c)).sleep.num ≤ 1)

/-- Read a piece of the module's own memory: the bytes and whether a mark was met; none when it is refused. -/
def State.readPiece (s : State) (addr n : Nat) : Option (Bytes × Bool) :=
  match s.resolve addr with
  | some (.store c l) => if s.cellAwake c then some (memRead s.mem (storeKey c l) n, s.marked (storeKey c l) n) else none
  | some (.site m o) => some (memRead s.mem (siteKey m o) n, s.marked (siteKey m o) n)
  | _ => none

/-- Read a range of the module's own memory. -/
def State.readRange (s : State) (addr len : Nat) : Option (Bytes × Bool) :=
  (pieces addr len).foldl (fun acc p =>
    match acc, s.readPiece p.1 p.2 with
    | some a, some b => some (a.1 ++ b.1, a.2 || b.2)
    | _, _ => none) (some ([], false))

/-- Whether a range lies wholly in the module's own memory. -/
def State.rangeOwn (s : State) (addr len : Nat) : Bool :=
  (pieces addr len).all (fun p => match s.resolve p.1 with
    | some (.store _ _) => true | some (.site _ _) => true | _ => false)

/-- Write a piece in the module's own memory: false when it is refused. A site that is held takes it once it is released (R214). -/
def State.writePiece (s : State) (addr : Nat) (bs : Bytes) (poison : Bool) : State × Bool :=
  match s.resolve addr with
  | some (.store c l) =>
    if s.cellAwake c then (if poison then s.pokePoison (storeKey c l) bs else s.poke (storeKey c l) bs, true) else (s, false)
  | some (.site m o) => (s.storeSite m o bs poison, true)
  | _ => (s, false)

/-- What a read of a range of the module's own memory does at the sites it reaches (R26, R206, R214). -/
def State.meetRange (s : State) (addr len : Nat) : State :=
  (pieces addr len).foldl (fun s p => match s.resolve p.1 with | some (.site m o) => s.meetSite m o p.2 | _ => s) s

/-- Whether a compute reset or a shutdown holds a site that an address names (R214). -/
def State.heldAt (s : State) (addr : Nat) : Bool :=
  match s.localIx (addr / 2 ^ 48) with
  | some ix =>
    if ix < 16 then false else if ix < 40 then (s.site (ix - 16)).heldRefresh
    else if 50 ≤ ix then (tget s.siteGroups [] (ix - 50)).any (fun m => (s.site m).heldRefresh) else false
  | none => false

/-- Write a range: pieces in the module's own memory at once, others as STORE operations of the given unit, purpose and
extra (log entry 15). -/
def State.writeRange (s : State) (unit turf addr : Nat) (bs : Bytes) (poison : Bool) (purpose extra : Nat) : State × Bool :=
  (pieces addr bs.length).foldl (fun acc p =>
    let d := slice bs (p.1 - addr) p.2
    let far := fun (s : State) => (s.issueOp unit turf 0x02 0 0 p.2 (BitVec.ofNat 64 p.1) 0 none d poison purpose extra).1
    match acc.1.resolve p.1 with
    | some (.store _ _) => let r := acc.1.writePiece p.1 d poison; (r.1, acc.2 && r.2)
    | some (.site _ _) => let r := acc.1.writePiece p.1 d poison; (r.1, acc.2 && r.2)
    | some (.far n _) => if (acc.1.fmu n).registered then (far acc.1, acc.2) else (acc.1, false)
    | some _ => (acc.1, false)
    | none => (far acc.1, acc.2)) (s, true)

/-! ### Command sources and destinations (R358, R547) -/

/-- The check of an address that may have a HOST bit (R358): fabric queues never set it. -/
def State.addrCheck (s : State) (q turf : Nat) (host : Bool) (addr len : Nat) : Option Nat :=
  if host then (if 4096 ≤ q then some stBadArg else none) else s.rangeCheck turf addr len

/-- The key under which a command's outstanding stores are kept. -/
def cmdKey (a : Accepted) : Nat := a.q * 4096 + a.slot

/-- Write a command's output: false when the write fails (R547). -/
def State.writeOut (s : State) (a : Accepted) (host : Bool) (addr : Nat) (bs : Bytes) : State × Bool :=
  if host then
    let p := (s.queue a.q).port
    if (s.pcie p).linkUp then ({ s with hostMem := memWrite s.hostMem (hostKey p addr) bs }, true) else (s, false)
  else s.writeRange (coreParty 0 (s.batchCore (s.queue a.q).turf)).toNat (s.queue a.q).turf addr bs false 6 (cmdKey a)

/-- What a command reads from its source: from the module's own memory, else what the read outside it returned, which the
row's operand carries; none when the access failed or its data came poisoned (R547, log entry 15). -/
def State.readIn (s : State) (host : Bool) (addr len : Nat) (data : Option Bytes) : Option Bytes :=
  if !host && s.rangeOwn addr len then
    match s.readRange addr len with
    | some (bs, false) => some bs
    | _ => none
  else data

/-- A command's read of its source at the sites it reaches. -/
def State.meetIn (s : State) (host : Bool) (addr len : Nat) : State := if !host && s.rangeOwn addr len then s.meetRange addr len else s

/-- Whether the operand that carries a read is a byte string the read can return (log entry 4). -/
def State.readFits (s : State) (host : Bool) (addr len : Nat) (data : Option Bytes) : Bool :=
  match data with
  | none => true
  | some d => decide (d.length = len) || (!host && s.rangeOwn addr len)

/-! ### Performing an accepted command (R341, R350, R337) -/

/-- Commands that Cordwood carries out through a call gate, which answers none while control actions are held (Table 14.4, R369,
R371); HEALTH_READ stays served (R507). -/
def isGated (op : Nat) : Bool :=
  op ∈ [0x0001, 0x0002, 0x0003, 0x0100, 0x0102, 0x0300, 0x0401, 0x0402, 0x0403, 0x0500, 0x0502, 0x0503, 0x0801, 0x0802, 0x0900, 0x0901]

/-- The addresses in module memory at which a command reads its source or writes its output (Tables 13.11, 13.12, 18.2, 16.4, 11.12, 19.9,
20.4, 14.7): those whose HOST bit is 0. -/
def State.cmdAddrs (s : State) (w : BitVec 512) : List Nat :=
  let arg := fun (i j b : Nat) => if (sqArg w j).testBit b then [] else [sqArg w i]
  match sqOpcode w with
  | 0x0004 => arg 1 2 0
  | 0x0100 => arg 0 2 0
  | 0x0200 => if (sqArg w 2).testBit 0 then [s.flatOf (sqArg w 0) * 2 ^ 48] else []
  | 0x0400 => arg 1 4 0
  | 0x0404 => arg 2 5 0
  | 0x0501 => arg 0 1 0
  | 0x0602 => [sqArg w 1]
  | 0x0604 => [sqArg w 0]
  | 0x0700 => arg 4 5 0
  | 0x0703 => arg 3 4 0
  | 0x0705 => arg 1 4 0
  | 0x0800 => arg 1 3 0
  | 0x0802 => arg 0 3 0
  | 0x0900 => arg 1 4 0 ++ (if sqArg w 0 = 2 then arg 3 4 0 else [])
  | _ => []

/-- The work of a queue that a signal of it waits for (R248): its earlier copies, fills and atomics. -/
def isMove (op : Nat) : Bool := op == 0x0202 || op == 0x0203

/-- Whether an accepted command may start: FENCE waits for every earlier command of its queue, a recorded command for the
record to be free, OPEN_QUEUE, CLOSE_QUEUE and BIND_TURF for one another in ring order, SYNC_SIGNAL for its queue's earlier copies (R248),
and a command that reads or writes a site for the release of that site (R214). -/
def State.mayStart (s : State) (a : Accepted) : Bool :=
  let op := sqOpcode a.entry
  !a.started && !(isGated op && s.ctlHeld)
  && !(s.cmdAddrs a.entry).any s.heldAt
  && (op != 0x0301 || !s.accepted.any (fun b => b.q == a.q && decide (b.seq < a.seq) && isMove (sqOpcode b.entry)))
  && (!sqFence a.entry || !s.accepted.any (fun b => b.q == a.q && decide (b.seq < a.seq)))
  && (!isRecorded a.entry || s.bu.record.isNone)
  && (!(decide (1 ≤ op) && decide (op ≤ 3)) || !s.accepted.any (fun b => b.q == a.q && decide (b.seq < a.seq)
        && decide (1 ≤ sqOpcode b.entry) && decide (sqOpcode b.entry ≤ 3)))

/-- Start an accepted command: it is recorded before it takes any effect when R350 asks for it. -/
def State.beginCmd (s : State) (a : Accepted) : State :=
  let s := s.modAccepted a.q a.slot (fun b => { b with started := true })
  if isRecorded a.entry then { s with bu := { s.bu with record := some (sqOpcode a.entry, a.q, sqTag a.entry) } } else s

/-- Perform the accepted command in a slot of a queue, when it is of the given opcode and selected form and may start; the
state stays as it is otherwise (log entry 16). -/
def State.withCmd (s : State) (q slot opcode : Nat) (sel : BitVec 512 → Bool) (f : State → Accepted → State) : State :=
  match s.acceptedAt q slot with
  | none => s
  | some a => if (sqOpcode a.entry == opcode) && sel a.entry && s.mayStart a then f (s.beginCmd a) a else s

/-- Complete with a status alone. -/
def State.fail (s : State) (a : Accepted) (status : Nat) : State := s.complete a status 0 0
/-- Complete a command whose output has been written, once every store of it has been answered (R342). -/
def State.finishOut (a : Accepted) (result : Nat) (r : State × Bool) : State :=
  if !r.2 then r.1.complete a stInternal 0 0
  else if r.1.ops.any (fun o => o.purpose == 6 && o.extra == cmdKey a) then
    r.1.modAccepted a.q a.slot (fun b => { b with aux := result })
  else r.1.complete a stOk 0 (BitVec.ofNat 64 result)

/-- An outstanding store of a command has been answered: a refused one makes it INTERNAL (R547). -/
def State.cmdStored (s : State) (key : Nat) (refused : Bool) : State :=
  let s := if refused then s.modAccepted (key / 4096) (key % 4096) (fun b => { b with aux := 2 ^ 64 }) else s
  if s.ops.any (fun o => o.purpose == 6 && o.extra == key) then s
  else match s.acceptedAt (key / 4096) (key % 4096) with
    | none => s
    | some a => if a.aux < 2 ^ 64 then s.complete a stOk 0 (BitVec.ofNat 64 a.aux) else s.complete a stInternal 0 0

/-- Write a command's output of which the address was checked, and complete it (R547, R342). -/
def State.output (s : State) (a : Accepted) (host : Bool) (addr : Nat) (bs : Bytes) (result : Nat) : State :=
  match s.addrCheck a.q (s.queue a.q).turf host addr bs.length with
  | some st => s.complete a st 0 0
  | none => State.finishOut a result (s.writeOut a host addr bs)

/-- Complete with OK and a RESULT. -/
def State.done (s : State) (a : Accepted) (result : Nat) : State := s.complete a stOk 0 (BitVec.ofNat 64 result)

end Sys2Proof.Machine
end

