-- ==== Sys2Proof/Machine/Queues.lean ====
section
/-!
DEFINITION. Queues, doorbells, command fetch, the PCI Express ports and their apertures, and registers without behaviour of
their own (13).
-/
namespace Sys2Proof.Machine

/-! ### The checks a submission entry's fields alone decide (R8, R349, R358, R323) -/

/-- All 64 bits. -/
abbrev allBits : Nat := 0xFFFFFFFFFFFFFFFF

/-- The bits of ARG0 to ARG5 that a command lists (Tables 13.11, 13.12, 16.4, 18.2, 20.4, 19.9, 14.7, 11.12); an unlisted
argument is 0. None for a reserved opcode. -/
def argMasks (op : Nat) : Option (List Nat) :=
  match op with
  | 0x0000 => some []
  | 0x0001 => some [0x1FFF, allBits, allBits, 0xFFFFFFFF0FFF07FF, 0xFFFF, allBits]
  | 0x0002 => some [0x1FFF, 1]
  | 0x0003 => some [0x1FFF, 0x3F]
  | 0x0004 => some [3, allBits, 0x1F01, 0x9FFF]
  | 0x0100 => some [allBits, allBits, 1]
  | 0x0101 => some [allBits]
  | 0x0102 => some [allBits, 0x3F, allBits]
  | 0x0103 => some []
  | 0x0104 => some [3, allBits, allBits]
  | 0x0200 => some [0x3F, allBits, 1]
  | 0x0201 => some [allBits]
  | 0x0202 => some [allBits, allBits, allBits, 0xFFFF0007, allBits]
  | 0x0203 => some [allBits, allBits, allBits, allBits, allBits, 4]
  | 0x0204 => some [0x3F, allBits, 1]
  | 0x0300 => some [3, allBits, allBits, allBits]
  | 0x0301 => some [allBits, allBits, allBits]
  | 0x0302 => some []
  | 0x0400 => some [allBits, allBits, allBits, allBits, 1]
  | 0x0401 => some [allBits, allBits]
  | 0x0402 => some [allBits, allBits]
  | 0x0403 => some [allBits, 1]
  | 0x0404 => some [allBits, allBits, allBits, allBits, allBits, 1]
  | 0x0500 => some [allBits, allBits]
  | 0x0501 => some [allBits, 1]
  | 0x0502 => some [allBits, allBits]
  | 0x0503 => some [allBits]
  | 0x0600 => some [1, allBits]
  | 0x0601 => some []
  | 0x0602 => some [3, allBits, allBits, allBits]
  | 0x0603 => some [allBits, 1]
  | 0x0604 => some [allBits, allBits]
  | 0x0700 => some [3, allBits, allBits, allBits, allBits, 1]
  | 0x0701 => some [allBits, allBits, 3, 1]
  | 0x0702 => some []
  | 0x0703 => some [3, 0x1FFFFFFFF, 0xFF, allBits, 1]
  | 0x0704 => some [3, allBits, allBits]
  | 0x0705 => some [allBits, allBits, allBits, allBits, 3]
  | 0x0800 => some [0xF, allBits, allBits, 1]
  | 0x0801 => some [allBits, allBits, allBits]
  | 0x0802 => some [allBits, allBits, allBits, 1]
  | 0x0900 => some [3, allBits, allBits, allBits, 1]
  | 0x0901 => some [3, allBits]
  | _ => none

/-- The MODE values a command defines (ARG0); others are reserved. DESIGN CHOICE (log entry 103): an argument that the command lists for some
MODE is ignored in a MODE that does not list it (`FW_UPDATE_STAGE` 1 to 3, `DIGEST_ARM` 1 and 2, `CLAMP_ARM` 1), where the table of the
command gives it no other meaning; `QUERY` and `CFG_SWAP_DRAINED` take 0 there. -/
def modeOk (w : BitVec 512) : Bool :=
  let m := sqArg w 0
  match sqOpcode w with
  | 0x0004 =>
    match m with
    | 0 => decide (sqArg w 2 ≤ 1) && sqArg w 3 == 0
    | 1 => decide (sqArg w 1 < 8192) && sqArg w 2 == 0 && sqArg w 3 == 0
    | 2 => true
    | _ => false
  | 0x0104 => decide (m ≤ 2)
  | 0x0300 => decide (m ≤ 2)
  | 0x0602 => decide (m ≤ 2)
  | 0x0703 => decide (m ≤ 2)
  | 0x0704 => decide (m ≤ 2)
  | 0x0901 => decide (m = 1 ∨ m = 2)
  | 0x0402 => decide (m ∈ [1, 2, 3, 4, 5, 8]) && (m == 8 || sqArg w 1 == 0)
  | _ => true

/-- Whether an entry holds no reserved value (R8). -/
def entryOk (w : BitVec 512) : Bool :=
  match argMasks (sqOpcode w) with
  | none => false
  | some ms =>
    decide (sqFlags w < 8) && fld w 8 2 == sqTurf w && fld w 14 2 == 0
    && (List.range 6).all (fun i => (sqArg w i &&& ms.getD i 0) == sqArg w i) && modeOk w

/-- Commands that queues bound to turf 0 alone may submit (Table 13.16). -/
def turf0Only (op : Nat) : Bool :=
  op ∈ [0x0400, 0x0403, 0x0500, 0x0501, 0x0600, 0x0601, 0x0602, 0x0603, 0x0604, 0x0801, 0x0802, 0x0900, 0x0901]

/-- Commands that need a compute region (R401, log entry 17). -/
def needsCompute (op : Nat) : Bool := op ∈ [0x0100, 0x0102, 0x0502, 0x0503]

/-- The status an entry completes with at once, before any effect; none when it is accepted to be performed.
A command that needs a compute region or a link has none in safe mode (R401) and while shutdown is latched (R458). -/
def State.entryRefusal (s : State) (q : Nat) (w : BitVec 512) : Option Nat :=
  let t := (s.queue q).turf
  let op := sqOpcode w
  if !entryOk w then some stBadArg
  else if t ≠ 0 ∧ sqTurf w ≠ t then some stDenied
  else if t ≠ 0 ∧ turf0Only op then some stDenied
  else if q ≠ 0 ∧ 1 ≤ op ∧ op ≤ 3 then some stDenied
  else if 4096 ≤ q ∧ op = 0x0204 then some stDenied
  else if s.bu.cfgSel = 0xF ∧ needsCompute op then some stNoResource
  else if s.pw.shutdown ∧ (needsCompute op ∨ op = 0x0600 ∨ op = 0x0603) then some stNoResource
  else none

/-! ### Fetch (R339 to R343) -/

/-- Completion entries written and not released. -/
def QueueSt.unreleased (x : QueueSt) : Nat := (x.cqTail + x.cqSize - x.cqHead) % x.cqSize

/-- Whether a queue has an entry pending and a completion entry to reserve for it (R339, R340). -/
def State.fetchable (s : State) (q : Nat) : Bool :=
  let x := s.queue q
  decide (x.state = .opened) && decide (x.unreleased + x.reserved + 1 < x.cqSize)
  && (if q < 4096 then decide (x.sqHead ≠ x.sqTail) else decide (1 ≤ (s.ctr x.dCtr).value))

/-- The queue the round of R341 serves next. -/
def State.nextServed (s : State) : Option Nat :=
  let qs := (s.queues.map (fun p => p.1)).filter s.fetchable
  match s.lastServed with
  | none => qs.head?
  | some l => match qs.find? (fun q => decide (l < q)) with
    | some q => some q
    | none => qs.head?

/-- An activation of Cordwood waits for the accepted commands: Cordwood has stopped fetching (R389). -/
def State.fetchStopped (s : State) : Bool :=
  match s.firm.activating with
  | none => false
  | some (q, k) => match s.acceptedAt q k with
    | none => false
    | some a => sqArg a.entry 0 == 2

/-- Whether Cordwood may fetch from a queue now (R341, R389). -/
def State.mayFetch (s : State) (q : Nat) : Bool :=
  s.bu.cordwoodUp && !s.fetchStopped && decide (s.accepted.length < 65536) && s.nextServed == some q

/-- RESULT of an entry refused at once: of a sleep or wake command the named regions in another state than the one asked for (R420). -/
def State.refusalResult (s : State) (w : BitVec 512) (st : Nat) : DWord :=
  let asked := if sqOpcode w = 0x0503 then Sleep.s0 else Sleep.ofNum (sqArg w 1)
  if st = stNoResource ∧ (sqOpcode w = 0x0502 ∨ sqOpcode w = 0x0503) then
    BitVec.ofNat 64 (((setBits (sqArg w 0) 64).filter (fun r => (s.region r).sleep ≠ asked)).map (fun r => 2 ^ r)).sum
  else 0

/-- The command an entry fetched from a queue becomes. -/
def State.entryCmd (s : State) (q : Nat) (w : BitVec 512) : Accepted :=
  { q := q, slot := (s.queue q).sqHead, seq := s.nextSeq, entry := w }

/-- An entry is fetched: it holds its place and its reserved completion entry, and renews the queue's lease (R340, R341, R345). -/
def State.takeEntry (s : State) (q : Nat) (w : BitVec 512) : State :=
  let a := s.entryCmd q w
  let s := { s with nextSeq := s.nextSeq + 1, lastServed := some q, accepted := s.accepted ++ [a] }
  let s := s.modQueue q (fun y => { y with sqHead := (y.sqHead + 1) % y.sqSize, reserved := y.reserved + 1 })
  s.renewQueue q

/-- Accept an entry: a completion entry is reserved, the leases renewed, and a refused one completes at once. -/
def State.acceptEntry (s : State) (q : Nat) (w : BitVec 512) : State :=
  let a := s.entryCmd q w
  let s := s.takeEntry q w
  match s.entryRefusal q w with
  | none => s
  | some st => s.complete a st 0 (s.refusalResult w st)

/-- Fetch one entry of a ring in module memory: none when the queue's turf may not reach it or the read fails (R324, R516, R341). -/
def State.fetchOwn (s : State) (turf addr : Nat) : Option Bytes :=
  if (s.rangeCheck turf addr 64).isSome then none else s.readIn false addr 64 none

/-- CMD_FETCH (R341): `data` is what a fetch from host memory returned. -/
def execCmdFetch (q : QueueIx) (data : Option Bytes) (s : State) : Host.Outcome State Fault Refusal :=
  let x := s.queue q
  if q.val < 4096 && s.mayFetch q then
    let addr := x.sqAddr.toNat + 64 * x.sqHead
    if x.sqMod && s.heldAt addr then .next s
    else
    let got := if x.sqMod then s.fetchOwn x.turf addr else data
    let s := if x.sqMod && (s.rangeCheck x.turf addr 64).isNone then s.meetIn false addr 64 else s
    match got with
    | none => .next (s.queueError q 3)
    | some d => if d.length = 64 then .next (s.acceptEntry q (BitVec.ofNat 512 (leNat d))) else .fault .illFormed
  else .next s

/-- FABRIC_QUEUE_FETCH (R343 step 2): the wait on D succeeds and the next entry is fetched from module memory. -/
def execFabricQueueFetch (q : QueueIx) (s : State) : Host.Outcome State Fault Refusal :=
  let x := s.queue q
  let addr := x.sqAddr.toNat + 64 * x.sqHead
  if 4096 ≤ q.val && s.mayFetch q && !s.heldAt addr then
    let s := s.waitTake x.dCtr { who := coreParty 0 (s.batchCore x.turf), thresh := 1, dec := 1, since := s.now }
    let got := s.fetchOwn x.turf addr
    let s := if (s.rangeCheck x.turf addr 64).isNone then s.meetIn false addr 64 else s
    match got with
    | none => .next (s.queueError q 3)
    | some d => .next (s.acceptEntry q (BitVec.ofNat 512 (leNat d)))
  else .next s

/-- FABRIC_QUEUE_RELEASE (R343 step 4): Cordwood takes n from D + 1 and releases n completion entries. -/
def execFabricQueueRelease (q : QueueIx) (n : Word) (s : State) : Host.Outcome State Fault Refusal :=
  let x := s.queue q
  if 4096 ≤ q.val ∧ x.state = .opened ∧ 1 ≤ n.toNat ∧ n.toNat ≤ (s.ctr (x.dCtr + 1)).value ∧ n.toNat ≤ x.unreleased then
    let s := s.waitTake (x.dCtr + 1) {
      who := coreParty 0 (s.batchCore x.turf), thresh := n.toNat, dec := n.toNat, since := s.now }
    .next (s.modQueue q (fun y => { y with cqHead := (y.cqHead + n.toNat) % y.cqSize }))
  else .next s

/-- The checks of R343 after a signal of a fabric queue's doorbell counters, and the renewal of its lease (R345). -/
def State.doorbell (s : State) (k : Nat) : State :=
  match s.queues.find? (fun p => decide (4096 ≤ p.1) && p.2.state == .opened && (p.2.dCtr == k || p.2.dCtr + 1 == k)) with
  | none => s
  | some (q, x) =>
    let s := s.renewQueue q
    if x.dCtr = k then (if x.sqSize - 1 < (s.ctr k).value then s.queueError q 1 else s)
    else if x.unreleased < (s.ctr k).value then s.queueError q 2 else s

/-! ### Doorbell pages (R333 to R335) -/

/-- A doorbell write that is ignored and counted (R334). -/
def State.doorbellIgnored (s : State) (q : Nat) : State := s.modQueue q (fun y => { y with ignored := y.ignored + 1 })

/-- Whether a doorbell write of a port reaches a queue (R334). -/
def State.doorbellReaches (s : State) (q p : Nat) : Bool :=
  decide (q < 4096) && decide ((s.queue q).state = .opened) && (s.queue q).port == p

/-- A write that a port has received is not yet performed: a store of one of its windows is outstanding (R335). -/
def State.portWrites (s : State) (p : Nat) : Bool :=
  s.ops.any (fun o => o.purpose == 3 && o.extra == p && hfld o.pkt.hdr 0 1 == 2)

/-- SQ_TAIL_WRITE (R334): it takes effect once every write received before it has been performed (R335). -/
def execSqTailWrite (q : QueueIx) (p : PcieIx) (value : DWord) (s : State) : Host.Outcome State Fault Refusal :=
  let t := bits value.toNat 15 0
  if s.portWrites p then .next s
  else if !s.doorbellReaches q p then .next (s.doorbellIgnored q)
  else
    let s := s.renewQueue q
    if (s.queue q).sqSize ≤ t then .next (s.queueError q 1)
    else .next (s.modQueue q (fun y => { y with sqTail := t }))

/-- CQ_HEAD_WRITE (R334): it takes effect once every write received before it has been performed (R335). -/
def execCqHeadWrite (q : QueueIx) (p : PcieIx) (value : DWord) (s : State) : Host.Outcome State Fault Refusal :=
  let h := bits value.toNat 15 0
  let x := s.queue q
  if s.portWrites p then .next s
  else if !s.doorbellReaches q p then .next (s.doorbellIgnored q)
  else
    let s := s.renewQueue q
    if x.cqSize ≤ h ∨ x.unreleased < (h + x.cqSize - x.cqHead) % x.cqSize then .next (s.queueError q 2)
    else .next (s.modQueue q (fun y => { y with cqHead := h }))

/-! ### Ports (R332, R533) -/

/-- A port loses its link or has PERST_N asserted (R332): function, MSI-X table and windows reset, its queues closed, every
lease held through it revoked at once (Table 9.6). -/
def State.portReset (s : State) (p : Nat) : State :=
  let s := s.modPcie p (fun _ => {})
  let qs := (s.queues.filter (fun x => decide (x.1 < 4096) && x.2.port == p && x.2.state != .closed)).map (fun x => x.1)
  let s := qs.foldl (fun s q => s.revokeQueueCtrs q) s
  qs.foldl (fun s q => s.startClose q 6 1) s

/-- PERST (R332). -/
def execPerst (p : PcieIx) (s : State) : Host.Outcome State Fault Refusal := .next (s.portReset p)

/-- PCIE_LINK_UP (R533): the port trains, PERST_N released and the bring-up island released. -/
def execPcieLinkUp (p : PcieIx) (s : State) : Host.Outcome State Fault Refusal :=
  if s.bu.vaux && s.bu.islandUp then .next (s.modPcie p (fun x => { x with linkUp := true, perst := false })) else .next s

/-! ### Aperture (R355, R356) -/

/-- SIGNALLER of window w of port p (R356). -/
def windowParty (p w : Nat) : Half := coreParty 2 (64 + 64 * p + w)

/-- A request through an unmapped window is counted (R355). -/
def State.apertureError (s : State) (p : Nat) : State := s.modPcie p (fun x => { x with apertureErrors := x.apertureErrors + 1 })

/-- APERTURE_WRITE (R355, R356): STORE operations in ascending address order; a part refused at the window is counted. -/
def execApertureWrite (p : PcieIx) (offset : Fin 68719476736) (data : Bytes) (s : State) : Host.Outcome State Fault Refusal :=
  let w := offset.val / 2 ^ 30
  match tfind (s.pcie p).windows w with
  | none => .next (s.apertureError p)
  | some win =>
    let addr := win.base.toNat + offset.val % 2 ^ 30
    .next ((pieces addr data.length).foldl (fun s x =>
      if (s.issueRefusal win.turf x.1).isSome then s.apertureError p
      else (s.issueOp (windowParty p w).toNat win.turf 0x02 0 0 x.2 (BitVec.ofNat 64 x.1) 0 none
              (slice data (x.1 - addr) x.2) false 3 p).1) s)

/-- Answer every read of a port that is complete, in order of arrival (R356). -/
def State.answerReads (s : State) (p : Nat) : State :=
  let ready := fun (r : ApRead) => r.waits.isEmpty && (r.refused && r.parts.all (fun x => x.2.2.isSome)
    || r.parts.all (fun x => x.2.2.isSome))
  let rs := (s.pcie p).reads.filter ready
  let s := s.modPcie p (fun x => { x with reads := x.reads.filter (fun r => !ready r) })
  rs.foldl (fun s r =>
    let d := r.parts.flatMap (fun x => x.2.2.getD [])
    s.emit (.pcieRead p (if r.refused || r.poisoned then List.replicate d.length 0xFF else d) (r.poisoned && !r.refused))) s

/-- APERTURE_READ (R355, R356). -/
def execApertureRead (p : PcieIx) (offset : Fin 68719476736) (len : Fin 4097) (s : State) : Host.Outcome State Fault Refusal :=
  let w := offset.val / 2 ^ 30
  match tfind (s.pcie p).windows w with
  | none => .next ((s.apertureError p).emit (.pcieRead p (List.replicate len.val 0xFF) false))
  | some win =>
    let addr := win.base.toNat + offset.val % 2 ^ 30
    let unit := windowParty p w
    let waits := (s.ops.filter (fun o => o.unit == unit && hfld o.pkt.hdr 0 1 == 2)).map (fun o => o.tag)
    let r := (pieces addr len.val).foldl (fun (acc : State × List (Word × Nat × Option Bytes) × Bool) x =>
      if (acc.1.issueRefusal win.turf x.1).isSome then
        (acc.1.apertureError p, acc.2.1 ++ [(0, x.2, some (List.replicate x.2 0xFF))], true)
      else
        let i := acc.1.issueOp unit.toNat win.turf 0x01 0 0 x.2 (BitVec.ofNat 64 x.1) 0 none [] false 3 p
        (i.1, acc.2.1 ++ [(i.2, x.2, none)], acc.2.2)) (s, [], false)
    let rd : ApRead := { window := w, parts := r.2.1, waits := waits, refused := r.2.2 }
    .next ((r.1.modPcie p (fun x => { x with reads := x.reads ++ [rd] })).answerReads p)

/-- An answer reaches a window (R356): `data` of a load, whether the answer refuses it, whether it is poisoned. -/
def State.windowAnswer (s : State) (p w : Nat) (tag : Word) (isLoad : Bool) (data : Bytes) (refused poisoned : Bool) : State :=
  let upd := fun (r : ApRead) =>
    if r.window ≠ w then r
    else if isLoad then
      if r.parts.any (fun x => x.1 == tag && x.2.2.isNone) then
        { r with parts := r.parts.map (fun x => if x.1 == tag && x.2.2.isNone
                    then (x.1, x.2.1, some (if refused then List.replicate x.2.1 0xFF else data)) else x)
                 refused := r.refused || refused, poisoned := r.poisoned || poisoned }
      else r
    else { r with waits := r.waits.filter (· != tag) }
  (s.modPcie p (fun x => { x with reads := x.reads.map upd })).answerReads p

/-! ### Registers without behaviour of their own (R7) -/

/-- A 4-byte write to an MSI-X table entry (R331, R354, log entry 102): address, data or the mask bit; a vector unmasked with its bit
pending sends its message. -/
def State.msixWrite (s : State) (p offset : Nat) (value : DWord) : State :=
  let v := offset / 16
  let e := tget (s.pcie p).msix {} v
  let low := bits value.toNat 31 0
  let e' := match offset % 16 / 4 with
    | 0 => { e with addr := BitVec.ofNat 64 (bits e.addr.toNat 63 32 * 2 ^ 32 + low) }
    | 1 => { e with addr := BitVec.ofNat 64 (bits e.addr.toNat 31 0 + low * 2 ^ 32) }
    | 2 => { e with data := BitVec.ofNat 32 low }
    | _ => { e with masked := value.toNat.testBit 0 }
  if !e'.masked && e'.pending then
    (s.modPcie p (fun x => { x with msix := tset x.msix v { e' with pending := false } })).emit (.msix p v)
  else s.modPcie p (fun x => { x with msix := tset x.msix v e' })

/-- A write to a cell's control space (Tables 2.5, 2.8, 2.9, 2.14, 20.2): W1C bits clear, RW fields take the value, every other
offset and reserved bit is ignored. While the Collier runs the die control path only reads RICK_COUNT (R61). -/
def State.cellCtlWrite (s : State) (c offset : Nat) (value : DWord) : State :=
  if offset = 0x08 then s.modCell c (fun x => { x with err := x.err &&& ~~~(BitVec.ofNat 32 value.toNat) })
  else if offset = 0x10 then
    (if value.toNat.testBit 15 && !(s.cell c).running then s.modCell c (fun x => { x with rick := { x.rick with overrun := false } }) else s)
  else if offset = 0xC0 then s.modCell c (fun x => { x with snapHold := value.toNat.testBit 3 })
  else if 0x160 ≤ offset ∧ offset < 0x1A0 ∧ offset % 8 = 0 then
    s.modCell c (fun x => { x with ctrCfg := tset x.ctrCfg ((offset - 0x160) / 8) (value &&& 0xFFFFFFFF00C0FF01) })
  else s

/-- REGISTER_WRITE (R7, R333, R365). -/
def execRegisterWrite (r : RegRef) (value : DWord) (s : State) : Host.Outcome State Fault Refusal :=
  match r with
  | .bar0 p off =>
    if 0x110 ≤ off.val ∧ off.val < 0x130 ∧ off.val % 8 = 0 then
      .next { s with bu := { s.bu with args := tset s.bu.args ((off.val - 0x110) / 8) value } }
    else if off.val = 0x104 ∧ value.toNat.testBit 29 then .next { s with bu := { s.bu with cmdIgnored := false } }
    else if 0x8000 ≤ off.val ∧ off.val % 4 = 0 then .next (s.msixWrite p (off.val - 0x8000) value)
    else .next s
  | .bar2 _ _ _ => .next s
  | .cellCtl c off => if s.cellAwake c then .next (s.cellCtlWrite c off.val value) else .next s
  | .heartwood byManagement _ =>
    if byManagement then .next s
    else .next { s with firm := { s.firm with busErrors := s.firm.busErrors + 1 } }

end Sys2Proof.Machine
end

