-- ==== Sys2Proof/Machine/HostQueue.lean ====
section
/-!
DEFINITION. The queue and memory commands of Table 13.11: NOP, OPEN_QUEUE, CLOSE_QUEUE, BIND_TURF, QUERY, ALLOC, FREE, COPY,
FILL, MAP_APERTURE.
-/
namespace Sys2Proof.Machine

/-- NOP (R358). -/
def execNop (q : QueueIx) (slot : SlotIx) (s : State) : Host.Outcome State Fault Refusal :=
  .next (s.withCmd q slot 0x0000 (fun _ => true) (fun s a => s.done a 0))

/-! ### Opening and closing (R337 to R347) -/

/-- Queues 1 to 8,191 bound to a turf (QUEUE_QUOTA, R337). -/
def State.queuesHeld (s : State) (t : Nat) : Nat :=
  (s.queues.filter (fun p => p.1 ≠ 0 ∧ p.2.state ≠ .closed ∧ p.2.turf = t)).length

/-- The lowest closed queue of a range. -/
def State.lowestQueue (s : State) (lo n : Nat) : Option Nat :=
  ((List.range n).map (· + lo)).find? (fun q => (s.queue q).state == .closed)

/-- The lowest two consecutive free sync space counters (R343). -/
def State.lowestPair (s : State) : Option Nat :=
  let used := (s.ctrs.filter (fun p => 128 ≤ p.1 ∧ p.1 < 65536 ∧ p.2.owner ≠ .free)).map (fun p => p.1)
  let n := used.foldl (fun m k => if k = m ∨ k = m + 1 then k + 1 else m) 128
  if n + 1 < 65536 then some n else none

/-- A ring in module memory lies in site ranges that the turf owns (R338): none when it does, else the status. -/
def State.ringRefusal (s : State) (t addr bytes : Nat) : Option Nat :=
  let rs := (pieces addr bytes).map (fun p =>
    match s.resolve p.1 with
    | some (.site m o) => if siteOwner s.turfMap m (o / 2 ^ 30) = some t then none else some stDenied
    | _ => some stBadArg)
  if rs.contains (some stBadArg) then some stBadArg
  else if rs.contains (some stDenied) then some stDenied else none

/-- Why OPEN_QUEUE's own fields refuse it with BAD_ARG (Tables 13.11, 13.12, R338). -/
def openBad (w : BitVec 512) : Bool :=
  let g := sqArg w 3
  let fabric := decide (sqArg w 4 ≠ 0)
  decide (10000 < bits g 63 32) || decide (bits g 3 0 < 4) || decide (12 < bits g 3 0) || decide (bits g 7 4 < 4)
  || decide (12 < bits g 7 4) || decide (sqArg w 1 % 4096 ≠ 0) || decide (sqArg w 2 % 4096 ≠ 0)
  || (fabric && (!g.testBit 8 || g.testBit 9)) || (!fabric && decide (sqArg w 5 ≠ 0))
  || (decide (sqArg w 0 ≠ 0) && (fabric != decide (4096 ≤ sqArg w 0)))

/-- Lease a pair of doorbell counters to a queue (R343). -/
def State.leaseDoorbell (s : State) (q t d termUs : Nat) : State :=
  [d, d + 1].foldl (fun s k => s.modCtr k (fun c =>
    { c with value := 0, owner := .leased q t, everLeased := true, termUs := termUs, renewed := s.now, changedSinceArm := true })) s

/-- Open a queue that every check has passed. -/
def State.openQueue (s : State) (a : Accepted) (q t d : Nat) : State :=
  let w := a.entry
  let g := sqArg w 3
  let term := if bits g 63 32 = 0 then 10 else bits g 63 32
  let s := s.modQueue q (fun x => {
    x with
    state := .opened, cause := 0, turf := t, port := bits g 10 10, sqAddr := BitVec.ofNat 64 (sqArg w 1)
    cqAddr := BitVec.ofNat 64 (sqArg w 2), sqLog2 := bits g 3 0, cqLog2 := bits g 7 4, sqMod := g.testBit 8
    cqMod := g.testBit 9, vecEn := g.testBit 27, vector := bits g 26 16, partner := sqArg w 4
    partnerCtr := BitVec.ofNat 64 (sqArg w 5), dCtr := d, sqHead := 0, sqTail := 0, cqHead := 0, cqTail := 0, phase := true
    reserved := 0, termMs := term, renewed := s.now, noTerm := false, notices := {}, closeMode := 0 })
  let s := if d ≠ 0 then s.leaseDoorbell q t d (term * 1000) else s
  let s := s.bindEntry q
  s.done a (q + d * 2 ^ 16 + (s.queue q).epoch * 2 ^ 32)

/-- OPEN_QUEUE (R337 to R343, Table 13.11). -/
def execOpenQueue (q : QueueIx) (slot : SlotIx) (s : State) : Host.Outcome State Fault Refusal :=
  .next (s.withCmd q slot 0x0001 (fun _ => true) (fun s a =>
    let w := a.entry
    let t := sqTurf w
    let g := sqArg w 3
    let fabric := decide (sqArg w 4 ≠ 0)
    let sq := if g.testBit 8 then s.ringRefusal t (sqArg w 1) (64 * 2 ^ bits g 3 0) else none
    let cq := if g.testBit 9 then s.ringRefusal t (sqArg w 2) (16 * 2 ^ bits g 7 4) else none
    let pick := if sqArg w 0 ≠ 0 then some (sqArg w 0)
      else if fabric then s.lowestQueue 4096 4096 else s.lowestQueue 1 4095
    if openBad w || !turfValid s.turfMap t then s.fail a stBadArg
    else if fabric && (!s.epPresent (sqArg w 4) || (s.localIx (sqArg w 4)).isSome) then s.fail a stBadArg
    else match sq, cq with
    | some st, _ => s.fail a st
    | none, some st => s.fail a st
    | none, none =>
      match pick with
      | none => s.fail a stNoResource
      | some n =>
        if (s.queue n).state ≠ .closed then s.fail a stBusy
        else if queueQuota s.turfMap t ≤ s.queuesHeld t then s.fail a stNoResource
        else if fabric && (tget s.fab.pairs {} (s.peerOf (sqArg w 4))).state == 1 then s.fail a stVersionMismatch
        else if !fabric then s.openQueue a n t 0
        else match s.lowestPair with
        | none => s.fail a stNoResource
        | some d => if syncQuota s.turfMap t < s.syncHeld t + 2 then s.fail a stNoResource else s.openQueue a n t d))

/-- CLOSE_QUEUE (R346). -/
def execCloseQueue (q : QueueIx) (slot : SlotIx) (s : State) : Host.Outcome State Fault Refusal :=
  .next (s.withCmd q slot 0x0002 (fun _ => true) (fun s a =>
    let n := sqArg a.entry 0
    if n = 0 then s.fail a stBadArg
    else
      match (s.queue n).state with
      | .closed => s.done a 1
      | .closing => s.modAccepted a.q a.slot (fun b => { b with aux := 1 })
      | _ => (s.modAccepted a.q a.slot (fun b => { b with aux := 0 })).startClose n 8 (sqArg a.entry 1)))

/-- BIND_TURF (Table 13.11). -/
def execBindTurf (q : QueueIx) (slot : SlotIx) (s : State) : Host.Outcome State Fault Refusal :=
  .next (s.withCmd q slot 0x0003 (fun _ => true) (fun s a =>
    let n := sqArg a.entry 0
    let t := sqArg a.entry 1
    let x := s.queue n
    if n = 0 ∨ x.state ≠ .opened ∨ !turfValid s.turfMap t then s.fail a stBadArg
    else if s.accepted.any (fun b => b.q == n) then s.fail a stBusy
    else if x.turf ≠ t ∧ queueQuota s.turfMap t ≤ s.queuesHeld t then s.fail a stNoResource
    else
      let s := s.revokeQueueCtrs n
      let s := s.modQueue n (fun y => { y with turf := t })
      (s.bindEntry n).done a 0))

/-! ### QUERY (Table 13.13) -/

/-- The module's ordering number and stepping as bytes (R535, Table 13.13). -/
def orderingNumber : Bytes :=
  [0x4B, 0x43, 0x57, 0x39, 0x2D, 0x46, 0x41, 0x30, 0, 0, 0, 0, 0, 0, 0, 0, 0x41, 0x30]

/-- RELEASE of a running image, 0 for none. -/
def fwRelease (f : Option FwImage) : Nat := match f with | some i => i.release | none => 0

/-- The 64 B identity record (Table 13.13). -/
def State.identityRecord (s : State) : Bytes :=
  padTo 64 (orderingNumber ++ natLe 6 0 ++ natLe 8 Config.uid.toNat ++ natLe 4 s.bu.bootEpoch
    ++ natLe 2 (fwRelease s.firm.runningCw) ++ natLe 2 (fwRelease s.firm.runningHw))

/-- QUERY mode 0 (Table 13.13). -/
def execQueryIdentity (q : QueueIx) (slot : SlotIx) (s : State) : Host.Outcome State Fault Refusal :=
  .next (s.withCmd q slot 0x0004 (fun w => sqArg w 0 == 0) (fun s a =>
    s.output a ((sqArg a.entry 2).testBit 0) (sqArg a.entry 1) s.identityRecord 64))

/-- QUERY mode 1 (Table 13.13). -/
def execQueryQueue (q : QueueIx) (slot : SlotIx) (s : State) : Host.Outcome State Fault Refusal :=
  .next (s.withCmd q slot 0x0004 (fun w => sqArg w 0 == 1) (fun s a =>
    let n := sqArg a.entry 1
    if a.q ≠ 0 ∧ n ≠ a.q then s.fail a stDenied
    else
      let x := s.queue n
      s.done a (x.state.num + x.cause * 2 ^ 8 + x.turf * 2 ^ 16
        + (s.accepted.filter (fun b => b.q == n)).length * 2 ^ 32)))

/-- Move up to n items out of a rick, whole items in the order the reader receives them (R57). -/
def moveItems : Nat → Rick → List (List (BitVec 128)) × Rick
  | 0, r => ([], r)
  | n + 1, r =>
    match r.cur with
    | some (i, k) => let m := moveItems n { r with cur := none }; (i.drop k :: m.1, m.2)
    | none =>
      match takeBest r.items with
      | none => ([], r)
      | some (i, rest) => let m := moveItems n { r with items := rest }; (i :: m.1, m.2)

/-- QUERY mode 2 (Table 13.13, R353). -/
def execQueryNotices (q : QueueIx) (slot : SlotIx) (s : State) : Host.Outcome State Fault Refusal :=
  .next (s.withCmd q slot 0x0004 (fun w => sqArg w 0 == 2) (fun s a =>
    let g := sqArg a.entry 2
    let other := (sqArg a.entry 3).testBit 15
    let n := if other then bits (sqArg a.entry 3) 12 0 else a.q
    let host := g.testBit 0
    if other ∧ a.q ≠ 0 then s.fail a stDenied
    else
      match s.addrCheck a.q (s.queue a.q).turf host (sqArg a.entry 1) (64 * bits g 12 8) with
      | some st => s.fail a st
      | none =>
        let r := (s.queue n).notices
        let m := moveItems (bits g 12 8) r
        let bs := m.1.flatMap (fun i => padTo 64 (i.flatMap (fun w => natLe 16 w.toNat)))
        let s := s.modQueue n (fun x => { x with notices := { m.2 with overrun := false } })
        State.finishOut a (m.1.length + r.lost * 2 ^ 16 + b2n r.overrun * 2 ^ 32) (s.writeOut a host (sqArg a.entry 1) bs)))

/-! ### ALLOC and FREE (R362) -/

/-- Bytes of one ownership range of a local index: 1 GiB of a site, 16 GiB of a far unit. -/
def rangeUnit (ix : Nat) : Nat := if ix < 40 then 2 ^ 30 else 2 ^ 34

/-- Owner of an ownership range of a site or far unit. -/
def State.rangeOwner (s : State) (ix j : Nat) : Option Nat :=
  if ix < 40 then siteOwner s.turfMap (ix - 16) j else farOwner s.turfMap (ix - 40) j

/-- Bytes of a site or far unit. -/
def State.unitBytes (s : State) (ix : Nat) : Nat := if ix < 40 then 2 ^ 36 else (s.fmu (ix - 40)).capGib * 2 ^ 30

/-- The ranges of a unit that allocations may not take: live ones, the turf's image data and its retained copy (R362). -/
def State.takenRanges (s : State) (t ix : Nat) : List (Nat × Nat) :=
  (s.allocs.filter (fun p => p.2.1 = ix)).map (fun p => p.2.2)
  ++ (s.images.filter (fun p => p.2.turf = t)).flatMap (fun p =>
      (p.2.placements.filter (fun r => r.1 = ix)).map (fun r => r.2)
      ++ (p.2.retained.filter (fun r => r.1 + 16 = ix)).map (fun r => (r.2 * 2 ^ 30, 2 ^ 30)))

/-- The lowest free owned range of n bytes. -/
def State.findFree (s : State) (t ix n : Nat) : Option Nat :=
  let u := rangeUnit ix
  let taken := s.takenRanges t ix
  let owned := (List.range 64).filter (fun j => s.rangeOwner ix j = some t)
  let fits := fun (c : Nat) =>
    decide (c + n ≤ s.unitBytes ix)
    && (List.range ((c + n - 1) / u - c / u + 1)).all (fun i => owned.contains (c / u + i))
    && taken.all (fun r => decide (c + n ≤ r.1) || decide (r.1 + r.2 ≤ c))
  let cand := (owned.map (· * u)) ++ taken.map (fun r => ceilDiv (r.1 + r.2) 4096 * 4096)
  (cand.filter fits).foldl (fun b c => match b with | none => some c | some x => some (min x c)) none

/-- ALLOC (R362). -/
def execAlloc (q : QueueIx) (slot : SlotIx) (s : State) : Host.Outcome State Fault Refusal :=
  .next (s.withCmd q slot 0x0200 (fun _ => true) (fun s a =>
    let ix := sqArg a.entry 0
    let n := sqArg a.entry 1
    let t := sqTurf a.entry
    if ix < 16 ∨ 48 ≤ ix ∨ n = 0 ∨ n % 4096 ≠ 0 then s.fail a stBadArg
    else if !(List.range 64).any (fun j => s.rangeOwner ix j == some t) then s.fail a stDenied
    else if 40 ≤ ix ∧ !(s.fmu (ix - 40)).registered then s.fail a stBusy
    else match s.findFree t ix n with
    | none => s.fail a stNoResource
    | some off =>
      let addr := s.flatOf ix * 2 ^ 48 + off
      let s := { s with allocs := s.allocs ++ [(t, ix, off, n)] }
      if !(sqArg a.entry 2).testBit 0 then s.done a addr
      else if ix < 40 then ((s.touch (ix - 16)).pokeZero (siteKey (ix - 16) off) n).done a addr
      else State.finishOut a addr (s.writeOut a false addr (List.replicate n 0))))

/-- FREE (Table 13.11). -/
def execFree (q : QueueIx) (slot : SlotIx) (s : State) : Host.Outcome State Fault Refusal :=
  .next (s.withCmd q slot 0x0201 (fun _ => true) (fun s a =>
    let hit := fun (p : Nat × Nat × Nat × Nat) => s.flatOf p.2.1 * 2 ^ 48 + p.2.2.1 == sqArg a.entry 0
    match s.allocs.find? hit with
    | none => s.fail a stBadArg
    | some p =>
      if (s.queue a.q).turf ≠ 0 ∧ p.1 ≠ sqTurf a.entry then s.fail a stDenied
      else ({ s with allocs := s.allocs.filter (fun x => !hit x) }).done a 0))

/-! ### COPY and FILL (R363) -/

/-- FREE of CE_STATE (Table 10.8). -/
def CeSt.free (c : CeSt) : Nat := 256 - c.queue.length

/-- INFLIGHT of CE_STATE (Table 10.8). -/
def CeSt.inflight (c : CeSt) : Nat := (c.queue.filter (fun d => d.started)).length

/-- The copy engine of a turf's CE_MASK with the fewest descriptors in flight among those with a free place (R363). -/
def State.leastLoaded (s : State) (ces : List Nat) : Option Nat :=
  ces.foldl (fun b n => match b with
    | none => some n
    | some m => if (s.ce n).inflight < (s.ce m).inflight then some n else some m) none

/-- The epoch a queue's command names for a counter (R256): that of the queue's own lease on it. -/
def State.heldEpoch (s : State) (q : Nat) (k : Nat) : Nat :=
  match (s.ctr k).owner with
  | .leased h _ => if h = q then (s.ctr k).epoch else 0
  | _ => 0

/-- The counter a global address names in this module. -/
def State.ctrAt (s : State) (addr : Nat) : Option Nat :=
  match s.resolve addr with
  | some (.ctr k) => some k
  | _ => none

/-- Queue a descriptor at a copy engine. -/
def State.pushDesc (s : State) (ce : Nat) (d : CeDesc) : State :=
  s.modCe ce (fun c => { c with queue := c.queue ++ [{ d with id := c.nextId }], nextId := c.nextId + 1 })

/-- Build a copy-engine descriptor (Table 10.9). -/
def mkDesc (op otype flags len dst src operand done arrive anchors epoch statusAddr : Nat) : BitVec 512 :=
  BitVec.ofNat 512 (op + otype * 2 ^ 8 + flags * 2 ^ 16 + len % 2 ^ 32 * 2 ^ 32 + dst * 2 ^ 64 + src * 2 ^ 128 + operand * 2 ^ 192
    + done * 2 ^ 320 + arrive * 2 ^ 384 + anchors * 2 ^ 400 + epoch % 2 ^ 32 * 2 ^ 416 + statusAddr * 2 ^ 448)

/-- Hand a COPY or FILL to a copy engine; the command stays held while no engine of the mask has a free place. -/
def State.dispatchDesc (s0 s : State) (a : Accepted) (raw : BitVec 512) (srcHost dstHost : Bool) : State :=
  let ces := (setBits (ceMask s.turfMap (s.queue a.q).turf) 64).filter (fun n => !(s.ce n).retired)
  if ces.isEmpty then s.fail a stNoResource
  else match s.leastLoaded (ces.filter (fun n => decide (1 ≤ (s.ce n).free))) with
  | none => s0
  | some n => s.pushDesc n { raw := raw, turf := (s.queue a.q).turf, cmd := some (a.q, a.slot), srcHost := srcHost, dstHost := dstHost }

/-- EPOCH of a host descriptor (R363): from the queue's lease on DONE, else on ARRIVE. -/
def State.descEpoch (s : State) (q done arrive : Nat) (arriveEn : Bool) : Nat :=
  let d := match s.ctrAt done with | some k => if done = 0 then 0 else s.heldEpoch q k | none => 0
  if d ≠ 0 then d else if arriveEn then s.heldEpoch q arrive else 0

/-- COPY (R363). -/
def execCopy (q : QueueIx) (slot : SlotIx) (s : State) : Host.Outcome State Fault Refusal :=
  .next (s.withCmd q slot 0x0202 (fun _ => true) (fun s' a =>
    let w := a.entry
    let g := sqArg w 3
    let len := sqArg w 2
    if len = 0 ∨ 2 ^ 30 < len ∨ (4096 ≤ a.q ∧ (g.testBit 1 ∨ g.testBit 2)) ∨ (g.testBit 0 ∧ g.testBit 2) then s'.fail a stBadArg
    else
      let epoch := s'.descEpoch a.q (sqArg w 4) (bits g 31 16) (g.testBit 0)
      State.dispatchDesc s s' a (mkDesc 0x20 0 (b2n (g.testBit 0) * 2) len (sqArg w 0) (sqArg w 1) 0 (sqArg w 4) (bits g 31 16)
        0 epoch 0) (g.testBit 1) (g.testBit 2)))

/-- FILL (R363). -/
def execFill (q : QueueIx) (slot : SlotIx) (s : State) : Host.Outcome State Fault Refusal :=
  .next (s.withCmd q slot 0x0203 (fun _ => true) (fun s' a =>
    let w := a.entry
    let host := (sqArg w 5).testBit 2
    let len := sqArg w 1
    if len = 0 ∨ 2 ^ 30 < len ∨ len % 16 ≠ 0 ∨ sqArg w 0 % 16 ≠ 0 ∨ (4096 ≤ a.q ∧ host) then s'.fail a stBadArg
    else
      let epoch := s'.descEpoch a.q (sqArg w 4) 0 false
      State.dispatchDesc s s' a (mkDesc 0x21 0 0 len (sqArg w 0) 0 (sqArg w 2 + sqArg w 3 * 2 ^ 64) (sqArg w 4) 0 0 epoch 0)
        false host))

/-! ### MAP_APERTURE (R364) -/

/-- MAP_APERTURE (R355, R364): performed once no access accepted under the old mapping is outstanding. -/
def execMapAperture (q : QueueIx) (slot : SlotIx) (s : State) : Host.Outcome State Fault Refusal :=
  let p := (s.queue q).port
  .next (s.withCmd q slot 0x0204 (fun w =>
      let unit := windowParty p (sqArg w 0)
      !(s.ops.any (fun o => o.unit == unit)) && !((s.pcie p).reads.any (fun r => r.window == sqArg w 0))) (fun s a =>
    let n := sqArg a.entry 0
    let base := sqArg a.entry 1
    let t := (s.queue a.q).turf
    let other := match tfind (s.pcie p).windows n with | some x => decide (x.turf ≠ t) | none => false
    if base % 2 ^ 30 ≠ 0 then s.fail a stBadArg
    else if other && decide (t ≠ 0) then s.fail a stDenied
    else if (sqArg a.entry 2).testBit 0 then
      (s.modPcie p (fun x => { x with windows := tset x.windows n { base := BitVec.ofNat 64 base, turf := t } })).done a 0
    else (s.modPcie p (fun x => { x with windows := tdel x.windows n })).done a 0))

end Sys2Proof.Machine
end

