-- ==== Sys2Proof/Machine/Power.lean ====
section
/-!
DEFINITION. P-states, throttle, region sleep requests, the power and margin ceilings, regulator phases, supply monitor and
THROT_N (16, R124 to R126, R460).
-/
namespace Sys2Proof.Machine

/-! ### P-state table and ceilings (R424, R425, Tables 16.5, 16.6) -/

/-- ALLOWED of a state in the active P-state table. -/
def State.pAllowed (s : State) (n : Nat) : Bool := (memGet (s.cset 1).active (8 * n + 4)).toNat.testBit 0
/-- POWER_LIMIT_W in force. -/
def State.powerLimit (s : State) : Nat := memNat (s.cset 1).active 104 4
/-- LOR_COMPAT in force. -/
def State.lorCompat (s : State) : Bool := (memGet (s.cset 1).active 108).toNat.testBit 0
/-- The lowest-numbered ALLOWED state. -/
def State.tableCeil (s : State) : Nat := ((List.range 13).find? s.pAllowed).getD 12
/-- The thermal ceiling with the floor of R451: P6 while a CD has more than two open diodes. -/
def State.thermalCeilNow (s : State) : Nat :=
  let floor := if (List.range 16).any (fun c =>
    decide (2 < ((List.range 16).filter (fun i => (s.sensor (16 * c + i)).isOpen)).length)) then 6 else 0
  max floor s.pw.thermalCeil
/-- The highest-numbered ceiling. -/
def State.ceiling (s : State) : Nat :=
  max (max s.tableCeil s.pw.marginCeil) (max s.pw.powerCeil s.thermalCeilNow)
/-- The state R425 puts in force. -/
def State.pWanted (s : State) : Nat := max s.pw.target s.ceiling
/-- CEIL_CAUSE (Table 16.6, byte 4). -/
def State.ceilCause (s : State) : Nat :=
  b2n (decide (0 < s.tableCeil)) + b2n (decide (0 < s.pw.marginCeil)) * 2 + b2n (decide (0 < s.pw.powerCeil)) * 4
    + b2n (decide (0 < s.thermalCeilNow)) * 8 + b2n s.pw.safeStopped * 16

/-- The earliest count a switch may be announced for now (R426). -/
def State.earliestSwitch (s : State) : Nat :=
  (match s.pw.switchAt with
   | some (c, p) => c + (if s.pw.pstate < p then 18000 else 0)
   | none => max s.now s.pw.settled) + 20000

/-- Announce a switch when the state in force is not the wanted one and none is announced (R426). -/
def State.considerSwitch (s : State) (notBefore : Nat) : State :=
  if s.pw.switchAt.isSome || s.pWanted == s.pw.pstate then s
  else { s with pw := { s.pw with switchAt := some (max notBefore s.earliestSwitch, s.pWanted) } }

/-- RESULT of PSTATE_SET (Table 16.3). -/
def State.pstateResult (s : State) : Nat := s.pw.pstate + s.pw.target * 2 ^ 8 + s.ceilCause * 2 ^ 16

/-- The PSTATE_SET commands that wait for a switch: started, in order. -/
def State.pstateWaiting (s : State) : List Accepted := s.accepted.filter (fun a => a.started && sqOpcode a.entry == 0x0500)

/-- PSTATE_SET (R426): aux 1 marks a command that the announced switch carries out, 0 one held for the next. -/
def execPstateSet (q : QueueIx) (slot : SlotIx) (s : State) : Host.Outcome State Fault Refusal :=
  .next (s.withCmd q slot 0x0500 (fun _ => true) (fun s a =>
    let p := sqArg a.entry 0
    let c := sqArg a.entry 1
    if 12 < p ∨ (c ≠ 0 ∧ c < s.earliestSwitch) then s.fail a stBadArg
    else
      let held := s.pw.switchAt.isSome
      let s := { s with pw := { s.pw with target := p } }
      if held then s
      else
        let s := s.considerSwitch c
        if s.pw.switchAt.isNone then s.done a s.pstateResult
        else s.modAccepted a.q a.slot (fun b => { b with aux := 1 })))

/-- Every region switches to a state now; a lower voltage settles after it (R426, R427). -/
def State.switchTo (s : State) (p : Nat) : State :=
  let settle := if s.pw.pstate < p then 18000 else 0
  { s with pw := { s.pw with pstate := p, switchAt := none, settled := s.now + settle } }

/-- After a switch the commands it carried out complete, and those held for the next announce it or complete (R426). -/
def State.settlePstates (s : State) : State :=
  let ridden := s.pstateWaiting.filter (fun a => a.aux == 1)
  let s := ridden.foldl (fun s a => s.done a s.pstateResult) s
  let next := match s.pstateWaiting.getLast? with | some a => sqArg a.entry 1 | none => 0
  let s := s.considerSwitch next
  if s.pw.switchAt.isSome then
    { s with accepted := s.accepted.map (fun a => if a.started && sqOpcode a.entry == 0x0500 then { a with aux := 1 } else a) }
  else s.pstateWaiting.foldl (fun s a => s.done a s.pstateResult) s

/-- PSTATE_SWITCH (R426, R427): at the announced count every region switches; the commands it carries out complete. -/
def execPstateSwitch (now : Nat) (s : State) : Host.Outcome State Fault Refusal :=
  let s := s.at_ now
  match s.pw.switchAt with
  | none => .next s
  | some (c, p) => if s.now < c ∨ s.ctlHeld then .next s else .next (s.switchTo p).settlePstates

/-- A PSTATE_CEILING notice (Table 16.10). -/
def State.ceilingNotice (s : State) (causeBit region : Nat) : State :=
  s.notice0 4 0x1201 [BitVec.ofNat 128 (s.ceiling + 2 ^ causeBit * 2 ^ 8 + region * 2 ^ 16)]

/-- Raise the power ceiling by n states and consider the switch; no 100 ms check before 10 ms after it (R428). -/
def State.raisePower (s : State) (n : Nat) : State :=
  let c := s.pw.powerCeil
  let s := { s with pw := { s.pw with powerCeil := min 12 (c + n) } }
  let s := (if s.pw.powerCeil = c then s else s.ceilingNotice 2 0).considerSwitch 0
  { s with pw := { s.pw with powerNextCheck := (match s.pw.switchAt with | some x => x.1 | none => s.now) + 10000000 } }

/-- Lower the power ceiling by one state after 100 ms below 95 % of the limit (R428). -/
def State.lowerPower (s : State) : State :=
  let s := { s with pw := { s.pw with powerCeil := s.pw.powerCeil - 1, belowSince := some s.now } }
  (s.ceilingNotice 2 0).considerSwitch 0

/-- Take the averages of the input power: a first 1 ms average above 12,500 W is remembered for the next (R428). -/
def State.takePower (s : State) (p1ms p100ms : Nat) : State :=
  let burst := decide (12500 < p1ms) && decide (0 < s.pw.over1ms)
  { s with pw := { s.pw with
    p1ms := p1ms, p100ms := p100ms, over1ms := b2n (decide (12500 < p1ms) && !burst)
    belowSince := if p100ms * 100 < s.powerLimit * 95 then some (s.pw.belowSince.getD s.now) else none } }

/-- POWER_CEILING_CHECK (R428): `p1ms` and `p100ms` are the averages of the VIN_IB input power in W. -/
def execPowerCeilingCheck (p1ms p100ms now : Nat) (s : State) : Host.Outcome State Fault Refusal :=
  let s := s.at_ now
  let t := s.takePower p1ms p100ms
  if 12500 < p1ms ∧ 0 < s.pw.over1ms then .next (t.raisePower 2)
  else if s.powerLimit < p100ms ∧ s.pw.powerNextCheck ≤ s.now then .next (t.raisePower 1)
  else if decide (0 < t.pw.powerCeil) && (match t.pw.belowSince with | some x => decide (x + 100000000 ≤ s.now) | none => false) then
    .next t.lowerPower
  else .next t

/-- The eighth low sample in a row of a region: the wear record, the margin ceiling and the switch (R437). -/
def State.marginStep (s : State) (r : Nat) : State :=
  let s := s.addWear 0x0A r (BitVec.ofNat 32 s.pw.pstate) 0
  let s := { s with pw := { s.pw with lastMarginWarn := s.now } }
  let s := if s.pw.pstate < 12 ∧ s.pw.switchAt.isNone then
      { s with pw := { s.pw with marginCeil := min 12 (s.pw.marginCeil + 1), marginSteps := s.pw.marginSteps + 1 } }
    else s
  (s.ceilingNotice 1 r).considerSwitch 0

/-- MARGIN_SAMPLE (R437): `low` says whether a replica of the region shows less than 6 % of the period. -/
def execMarginSample (r : RegionIx) (low : Bool) (now : Nat) (s : State) : Host.Outcome State Fault Refusal :=
  let s := s.at_ now
  let n := if low then (s.region r).lowMargin + 1 else 0
  let s := s.modRegion r (fun x => { x with lowMargin := n % 8 })
  if n = 8 then .next (s.marginStep r)
  else if 0 < s.pw.marginCeil ∧ s.pw.lastMarginWarn + 10000000000 ≤ s.now then
    .next (({ s with pw := { s.pw with marginCeil := s.pw.marginCeil - 1, lastMarginWarn := s.now } } : State).considerSwitch 0)
  else .next s

/-! ### Throttle (R124, R125) -/

/-- THROTTLE_CHANGE (R125): the announced ratio takes effect; running batches have met a nonzero ratio (Table 13.15). -/
def execThrottleChange (now : Nat) (s : State) : Host.Outcome State Fault Refusal :=
  let s := s.at_ now
  match s.pw.hAt with
  | [] => .next s
  | (c, v) :: rest =>
    if s.now < c ∨ s.ctlHeld then .next s
    else
      let s := { s with pw := { s.pw with h := v, hAt := rest } }
      if v = 0 then .next s
      else .next { s with batches := tmap s.batches (fun _ b => if b.started then { b with sawThrottle := true } else b) }

/-- THROT_N_ASSERT (R460). -/
def execThrotNAssert (now : Nat) (s : State) : Host.Outcome State Fault Refusal :=
  let s := s.at_ now
  if s.bu.throtN then .next s
  else
    let s := { s with bu := { s.bu with throtN := true }, pw := { s.pw with reqThrotN := true } }
    .next ((s.requestH (s.now + 500)).notice0 4 0x1225 [1])

/-- THROT_N_RELEASE (R460): the request is withdrawn and the notice placed with it. -/
def execThrotNRelease (now : Nat) (s : State) : Host.Outcome State Fault Refusal :=
  let s := s.at_ now
  if !s.bu.throtN then .next s
  else
    let s := { s with bu := { s.bu with throtN := false }, pw := { s.pw with reqThrotN := false } }
    .next ((s.requestH (s.now + 500)).notice0 4 0x1225 [0])

/-- BROWNOUT_WARN (R444): `minMv` is the minimum VIN_IB sampled up to the notice. -/
def execBrownoutWarn (minMv : Half) (now : Nat) (s : State) : Host.Outcome State Fault Refusal :=
  let s := s.at_ now
  if s.pw.brownout then
    .next { s with pw := { s.pw with brownoutMin := min s.pw.brownoutMin minMv.toNat, vinMv := minMv.toNat } }
  else
    let n := (s.pw.brownoutCount + 1) % 2 ^ 32
    let s := { s with pw := { s.pw with
      brownout := true, brownoutCount := n, brownoutMin := minMv.toNat, vinMv := minMv.toNat, reqSupply := true } }
    .next ((s.requestH (s.now + 500)).notice0 5 0x1202 [BitVec.ofNat 128 (minMv.toNat + n * 2 ^ 32)])

/-- BROWNOUT_CLEAR (R444): VIN_IB has stayed above 2.40 V for 100 us. -/
def execBrownoutClear (minMv : Half) (now : Nat) (s : State) : Host.Outcome State Fault Refusal :=
  let s := s.at_ now
  if !s.pw.brownout then .next s
  else
    let m := min s.pw.brownoutMin minMv.toNat
    let s := s.addWear 0x0B 0 (BitVec.ofNat 32 m) 0
    let s := { s with pw := { s.pw with brownout := false, brownoutMin := m, reqSupply := false } }
    .next (s.requestH (s.now + 500))

/-! ### Regulator phases (R439 to R443, Table 16.8) -/

/-- Fail a region over a second open phase (R140, R440). -/
def State.phaseFailRegion (s : State) (r phase : Nat) : State :=
  let s := s.failRegion r 1
  let s := s.addDefect 0x03 2 r 2 2
  let s := s.faultNotice 0x04 2 phase 0 0
  match s.faultBatch (64 * r) with
  | none => s
  | some t => (s.stopBatch t stNoResource (BitVec.ofNat 64 r) false).settleStop t

/-- A phase is lost to its group (R440, R441): the spare comes in, or the group runs on seven, or the region fails; an idle spare
leaves its pool (R479). `sense` tells a failed sense, which asks for no throttle. -/
def State.losePhase (s : State) (p : Nat) (sense : Bool) : State :=
  let g := p / 9
  let x := s.group g
  let lacks := decide (g % 64 < 48) && decide (56000 < x.currentMa) && !sense
  let s := { s with pw := { s.pw with phaseFaults := (s.pw.phaseFaults + 1) % 2 ^ 32 } }
  let note := fun (s : State) (noSpare throttled : Bool) => s.notice0 5 0x1203 [BitVec.ofNat 128
    (p + b2n (!sense) * 2 ^ 16 + b2n sense * 2 ^ 17 + b2n throttled * 2 ^ 18 + b2n noSpare * 2 ^ 19)]
  let throttle := fun (s : State) =>
    if lacks then ({ s with pw := { s.pw with reqPhase := setIns s.pw.reqPhase g } }).requestH (s.now + 500) else s
  if p % 9 = 8 ∧ !x.spareUsed then
    let k := poolKey 0x04 g
    let s := note s false false
    (({ s with firm := { s.firm with sparesFailed := tset s.firm.sparesFailed k (tget s.firm.sparesFailed 0 k + 1) } } : State).faultActed
      0x04 2 0 p 0 0).checkProj 0x04
  else if x.onSeven then
    match groupRegion g with
    | some r => (note s true false).phaseFailRegion r p
    | none => (note s true false).faultActed 0x04 2 2 p 0 0
  else if x.spareUsed || s.sparesLeft 0x04 g == 0 then
    let s := (throttle (s.modGroup g (fun y => { y with onSeven := true, lacksHeadroom := lacks })))
    let s := (note s true lacks).faultActed 0x04 2 2 p 0 0
    match groupRegion g with
    | none => s
    | some r =>
      let w := [BitVec.ofNat 128 (1 + r * 2 ^ 8 + 1 * 2 ^ 16 + 1 * 2 ^ 24)]
      let s := s.notice0 5 0x1104 w
      match regionOwner s.turfMap r with
      | some t => if t = 0 then s else s.noticeTurf t 5 0x1104 w
      | none => s
  else
    let s := throttle (s.modGroup g (fun y => { y with spareUsed := true, spareComing := lacks }))
    ((note s false lacks).faultActed 0x04 2 1 p 0 0).takeSpare 0x04 g p 2

/-- A phase fails open (R440). -/
def State.phaseOpens (s : State) (p : Nat) : State :=
  if (s.phase p).isOpen then s else (s.modPhase p (fun x => { x with isOpen := true })).losePhase p false

/-- One check of a group's phase readings (R441): `miss` names the phase of the group whose reading misses both checks. A spare that was coming is
in by this check, and its throttle request is withdrawn (R440, log entry 18). -/
def State.senseCheck (s : State) (g : GroupIx) (miss : Option (Fin 9)) : State :=
  let s := if (s.group g).spareComing then
      let s := s.modGroup g (fun y => { y with spareComing := false })
      ({ s with pw := { s.pw with reqPhase := setDel s.pw.reqPhase g.val } }).requestH (s.now + 500)
    else s
  match miss with
  | none => s.modGroup g (fun y => { y with misses := [] })
  | some i =>
    let p := 9 * g.val + i.val
    let n := tget (s.group g).misses 0 i.val + 1
    if (s.phase p).senseFailed || (s.phase p).isOpen || (s.phase p).rangeChanged then s
    else if n < 5 then s.modGroup g (fun y => { y with misses := [(i.val, n)] })
    else (((s.modGroup g (fun y => { y with misses := [] })).modPhase p (fun x => { x with senseFailed := true })).losePhase p true)

/-- TELEMETRY_SAMPLE (R443): ranges of 4 A by 1 mA and 20 A by 5 mA. -/
def execTelemetrySample (p : PhaseIx) (milliamps : Nat) (s : State) : Host.Outcome State Fault Refusal :=
  let x := s.phase p
  let v := if x.highRange then min 20000 milliamps / 5 * 5 else min 4000 milliamps
  let low := if v < 3000 then x.lowSamples + 1 else 0
  let up := !x.highRange && decide (3800 < v)
  let down := x.highRange && decide (16 ≤ low)
  let s := s.modPhase p (fun y => { y with
    value := if y.rangeChanged then y.value else v, lowSamples := if up || down then 0 else low,
    highRange := if up then true else if down then false else y.highRange, rangeChanged := up || down })
  let g := p.val / 9
  .next (s.modGroup g (fun y => { y with currentMa := ((List.range 9).map (fun i => (s.phase (9 * g + i)).value)).sum }))

/-! ### Region sleep and wake requests (R417 to R420) -/

/-- What a REGION_SLEEP or REGION_WAKE waits for, by region mask: not yet carried out, of these held PENDING, failed before,
ended in another state, failed Kindling under the command. -/
structure SleepWait where
  rem : Nat := 0
  pend : Nat := 0
  before : Nat := 0
  bad : Nat := 0
  wf : Nat := 0
deriving DecidableEq, Repr

/-- The number an accepted command keeps of it. -/
def SleepWait.num (w : SleepWait) : Nat := w.rem + w.pend * 2 ^ 64 + w.before * 2 ^ 128 + w.bad * 2 ^ 192 + w.wf * 2 ^ 256
/-- Read it back. -/
def sleepWaitOf (n : Nat) : SleepWait :=
  { rem := bits n 63 0, pend := bits n 127 64, before := bits n 191 128, bad := bits n 255 192, wf := bits n 319 256 }

/-- The state a sleep or wake command asks for. -/
def askedState (w : BitVec 512) : Sleep := if sqOpcode w = 0x0503 then .s0 else Sleep.ofNum (sqArg w 1)

/-- A region has a sleep or wake in progress. -/
def RegionSt.busy (r : RegionSt) : Bool := r.going.isSome || r.waking.isSome

/-- Carry out a request on a region with none in progress (Table 16.1, R418, R421). -/
def State.startReq (s : State) (r : Nat) (t : Sleep) : State :=
  let x := s.region r
  if x.failed || x.wakeFail then s
  else if t = .s0 then
    match x.sleep with
    | .s0 => s
    | .s1 => s.modRegion r (fun y => { y with sleep := .s0, asked := .s0 })
    | .s2 => s.modRegion r (fun y => { y with asked := .s0, waking := some { step := 2, attempt := 0, fromS4 := false } })
    | .s3 => s.modRegion r (fun y => { y with asked := .s0, waking := some { step := 0, attempt := 0, fromS4 := false } })
    | .s4 => s.modRegion r (fun y => { y with asked := .s0, waking := some { step := 1, attempt := 0, fromS4 := true } })
  else if t.num ≤ x.sleep.num then s
  else if t = .s1 then s.modRegion r (fun y => { y with sleep := .s1, asked := .s1 })
  else s.modRegion r (fun y => { y with going := some t, asked := t })

/-- A request reaches a region: carried out, or held PENDING while an earlier one is in progress (R419). -/
def State.request (s : State) (r : Nat) (t : Sleep) : State :=
  if (s.region r).busy then s.modRegion r (fun y => { y with pending := some t }) else s.startReq r t

/-- Change what the waiting sleep and wake commands wait for. -/
def State.modSleepWaits (s : State) (f : Sleep → SleepWait → SleepWait) : State :=
  { s with accepted := s.accepted.map (fun a =>
    if a.started && (sqOpcode a.entry == 0x0502 || sqOpcode a.entry == 0x0503)
    then { a with aux := (f (askedState a.entry) (sleepWaitOf a.aux)).num } else a) }

/-- The request in progress on a region has ended: the commands it or its superseding carries out are marked. -/
def State.markEnded (s : State) (r : Nat) : State :=
  let x := s.region r
  s.modSleepWaits (fun asked w =>
    if w.rem.testBit r && !w.pend.testBit r then
      { w with
        rem := w.rem - 2 ^ r, bad := if x.sleep ≠ asked then w.bad ||| 2 ^ r else w.bad
        wf := if x.wakeFail then w.wf ||| 2 ^ r else w.wf }
    else w)

/-- The request held for a region that has failed meanwhile is carried out on a failed region (R420): it ends there. -/
def State.markDead (s : State) (r : Nat) : State :=
  let x := s.region r
  s.modSleepWaits (fun asked w =>
    if w.rem.testBit r && !w.pend.testBit r then
      { w with rem := w.rem - 2 ^ r, before := w.before ||| 2 ^ r, bad := if x.sleep ≠ asked then w.bad ||| 2 ^ r else w.bad }
    else w)

/-- Complete the sleep and wake commands whose every region has carried out its request (R420). -/
def State.settleSleeps (s : State) : State :=
  (s.accepted.filter (fun a => a.started && (sqOpcode a.entry == 0x0502 || sqOpcode a.entry == 0x0503)
      && (sleepWaitOf a.aux).rem == 0)).foldl (fun s a =>
    let w := sleepWaitOf a.aux
    let st := if w.wf ≠ 0 then stWakeFail else if w.before ≠ 0 then stNoResource else stOk
    s.complete a st 0 (BitVec.ofNat 64 w.bad)) s

/-- A region's request has ended (R419, R420): a held one is carried out, and commands that wait for no region complete. -/
def State.regionEnded (s : State) (r : Nat) : State :=
  let s := s.markEnded r
  match (s.region r).pending with
  | none => s.settleSleeps
  | some t =>
    let s := (s.modRegion r (fun y => { y with pending := none })).modSleepWaits (fun _ w =>
      { w with pend := if w.pend.testBit r then w.pend - 2 ^ r else w.pend })
    let dead := (s.region r).failed || (s.region r).wakeFail
    let s := if dead then s.markDead r else s.startReq r t
    (if (s.region r).busy then s else s.markEnded r).settleSleeps

/-- Regions of a mask whose owner is not the turf. -/
def State.foreignRegions (s : State) (t mask : Nat) : Bool :=
  (setBits mask 64).any (fun r => !mayReach t (regionOwner s.turfMap r))

/-- Start a sleep or wake command on the regions it names. -/
def State.beginSleeps (s : State) (a : Accepted) (mask : Nat) (t : Sleep) : State :=
  let rs := setBits mask 64
  let dead := fun r => (s.region r).failed || (s.region r).wakeFail
  let busy := rs.filter (fun r => (s.region r).busy && !dead r)
  let w0 : SleepWait := { pend := maskOf busy, before := maskOf (rs.filter dead) }
  let s := (rs.filter (fun r => !dead r)).foldl (fun s r => s.request r t) s
  let rem := rs.filter (fun r => (s.region r).busy && !dead r)
  let bad := rs.filter (fun r => !(s.region r).busy && (s.region r).sleep ≠ t)
  let s := s.modAccepted a.q a.slot (fun b => { b with aux := ({ w0 with rem := maskOf rem, bad := maskOf bad }).num })
  s.settleSleeps

/-- REGION_SLEEP (R418 to R420). -/
def execRegionSleep (q : QueueIx) (slot : SlotIx) (s : State) : Host.Outcome State Fault Refusal :=
  .next (s.withCmd q slot 0x0502 (fun _ => true) (fun s a =>
    let mask := sqArg a.entry 0
    let n := sqArg a.entry 1
    let t := (s.queue a.q).turf
    let busy := (setBits mask 64).any (fun r => match regionOwner s.turfMap r with
      | some u => (s.batch u).isSome | none => false)
    if n = 0 ∨ 4 < n then s.fail a stBadArg
    else if s.foreignRegions t mask || (n == 1 && decide (t ≠ 0)) then s.fail a stDenied
    else if busy then s.fail a stBusy
    else s.beginSleeps a mask (Sleep.ofNum n)))

/-- REGION_WAKE (R418 to R420, R438). -/
def execRegionWake (q : QueueIx) (slot : SlotIx) (s : State) : Host.Outcome State Fault Refusal :=
  .next (s.withCmd q slot 0x0503 (fun _ => true) (fun s a =>
    let mask := sqArg a.entry 0
    if s.foreignRegions (s.queue a.q).turf mask then s.fail a stDenied
    else if s.pw.safeStopped then s.fail a stBusy
    else s.beginSleeps a mask .s0))

/-! ### The time source (R433) -/

/-- The link of a fabric channel. -/
def fabLink (fibre channel : Nat) : Nat := 64 + 3 * fibre + channel
/-- A fibre is in service while channels 0 and 1 both are (R290). -/
def State.fibreUp (s : State) (f : Nat) : Bool :=
  (s.link (fabLink f 0)).state == .inService && (s.link (fabLink f 1)).state == .inService

/-- The role record of a fibre. -/
def State.role (s : State) (f : Nat) : RoleSt := tget s.fab.roles {} f
/-- Whether the module leads in time on a fibre: an agreed role applies from its count (R313). -/
def State.leads (s : State) (f : Nat) : Bool :=
  match (s.role f).at_ with
  | some (r, c) => if c ≤ s.now then r else (s.role f).leader
  | none => (s.role f).leader

/-- A fibre can be the time source (R433). -/
def State.timeUsable (s : State) (f : Nat) : Bool := s.fibreUp f && !s.leads f && (s.role f).hops.isSome

/-- The best time source: the lowest HOPS, then the lowest fibre (R433). -/
def State.bestSource (s : State) : Option Nat :=
  ((List.range 96).filter s.timeUsable).foldl (fun b f => match b with
    | none => some f
    | some g => if (s.role f).hops.getD 0 < (s.role g).hops.getD 0 then some f else b) none

/-- The time source in force: one that is no longer usable has been left for the best of the others (R433). -/
def State.sourceNow (s : State) : Option Nat :=
  match s.pw.timeSource with
  | some g => if s.timeUsable g then some g else s.bestSource
  | none => none

/-! ### LIMITS_READ (R430) -/

/-- The limits record (Table 16.6). -/
def State.limitsRecord (s : State) : Bytes :=
  let hsrc := b2n (decide (0 < s.pw.reqThermal)) + b2n s.pw.reqThrotN * 2 + b2n s.pw.reqSupply * 4
    + b2n (!s.pw.reqPhase.isEmpty) * 8
  let cf := b2n s.lorCompat + b2n s.pw.refclk * 2 + b2n s.pw.holdover.isSome * 4 + b2n s.sourceNow.isSome * 8
  natLe 1 s.pw.pstate ++ natLe 1 s.pw.target ++ natLe 1 s.ceiling ++ natLe 1 0 ++ natLe 1 s.ceilCause ++ natLe 1 s.pw.h
    ++ natLe 1 hsrc ++ natLe 1 cf ++ natLe 4 s.pw.p1ms ++ natLe 4 s.pw.p100ms ++ natLe 4 s.powerLimit ++ natLe 2 s.pw.vinMv
    ++ natLe 2 0 ++ natLe 4 s.pw.brownoutCount ++ natLe 4 s.pw.phaseFaults ++ natLe 4 s.pw.marginSteps ++ natLe 4 0
    ++ natLe 8 s.now ++ natLe 8 (maskOf ((List.range 64).filter (fun r => decide ((s.region r).sleep.num ≤ 1))))
    ++ natLe 8 (maskOf ((List.range 64).filter (fun r => (s.region r).failed || (s.region r).wakeFail)))

/-- LIMITS_READ (R430). -/
def execLimitsRead (q : QueueIx) (slot : SlotIx) (s : State) : Host.Outcome State Fault Refusal :=
  .next (s.withCmd q slot 0x0501 (fun _ => true) (fun s a =>
    s.output a ((sqArg a.entry 1).testBit 0) (sqArg a.entry 0) s.limitsRecord 64))

end Sys2Proof.Machine
end

