-- ==== Sys2Proof/Machine/Thermal.lean ====
section
/-!
DEFINITION. Thermal sensing, the throttle law and the thermal ceiling (17).
-/
namespace Sys2Proof.Machine

/-! ### Sensors (R445 to R450, Tables 17.1, 17.2) -/

/-- The highest stored reading of the valid sensors of a list. -/
def State.hottest (s : State) (l : List Nat) : Option Int :=
  (l.filter (fun n => !(s.sensor n).isOpen)).foldl (fun b n => match b with
    | none => some (s.sensor n).value
    | some v => some (max v (s.sensor n).value)) none

/-- The diodes of a CD. -/
def cdDiodes (c : Nat) : List Nat := (List.range 16).map (fun i => 16 * c + i)
/-- The diodes of a base quadrant. -/
def quadDiodes (q : Nat) : List Nat := (List.range 8).map (fun i => 256 + 8 * q + i)

/-- The orthogonal grid neighbours of a CD diode. -/
def gridNeighbours (n : Nat) : List Nat :=
  let i := n % 16
  let b := n - i
  (if 4 ≤ i then [b + i - 4] else []) ++ (if i < 12 then [b + i + 4] else [])
    ++ (if i % 4 = 0 then [] else [b + i - 1]) ++ (if i % 4 = 3 then [] else [b + i + 1])

/-- The first of a list of substitutes that has a value. -/
def firstSome : List (Option Int) → Option Int
  | [] => none
  | some v :: _ => some v
  | none :: t => firstSome t

/-- The substitute reading of an open sensor (Table 17.2); none where the table's last source has no valid reading either. -/
def State.substitute (s : State) (n : Nat) : Option Int :=
  if n < 256 then
    firstSome [(s.hottest (gridNeighbours n)).map (· + 40), (s.hottest (cdDiodes (n / 16))).map (· + 40),
               (s.hottest (quadDiodes (n / 64))).map (· + 80)]
  else if n < 288 then
    let q := (n - 256) / 8
    let i := (n - 256) % 8
    firstSome [(s.hottest [256 + 8 * q + (i + 1) % 8, 256 + 8 * q + (i + 7) % 8]).map (· + 40),
               (s.hottest (quadDiodes q)).map (· + 40)]
  else (s.hottest (quadDiodes ((n - 288) / 6))).map (· + 80)

/-- Enter the substitute of an open sensor; a reading the table gives none for is a free value (log entry 1). -/
def State.refresh (s : State) (n : Nat) : State :=
  match s.substitute n with
  | some v => s.modSensor n (fun x => { x with value := v, substituted := true })
  | none =>
    let d := s.draw
    d.2.modSensor n (fun x => { x with value := signed 16 d.1.toNat, substituted := true })

/-- Whether a sensor is a stack sensor. -/
def isStack (n : Nat) : Bool := decide (288 ≤ n) && decide (n < 312)

/-- The level bytes of the active thermal limits set, in 1/8 degree: offset 0 WARN_J, 1 THROT_J, 2 WARN_M, 3 THROT_M. -/
def State.level (s : State) (off : Nat) : Int := 8 * ((memGet (s.cset 2).active off).toNat : Int)
/-- Warning trip level of a sensor. -/
def State.warnLevel (s : State) (n : Nat) : Int := s.level (if isStack n then 2 else 0)
/-- Throttle trip level of a sensor. -/
def State.throtLevel (s : State) (n : Nat) : Int := s.level (if isStack n then 3 else 1)
/-- Shutdown level of a sensor (Table 17.3). -/
def shutdownLevel (n : Nat) : Int := if isStack n then 840 else 864

/-- The junction and stack sensors whose group has been sampled. -/
def State.sampled (s : State) : List Nat := ((s.sensors.map (fun p => p.1)).filter (fun n => decide (n < 312)))

/-- h_thermal of the readings as they stand (R454). -/
def State.hThermal (s : State) : Nat :=
  let e := s.sampled.foldl (fun (m : Int) n => max m ((s.sensor n).value - s.throtLevel n)) 0
  min 192 (e.toNat * 64 / 25)

/-- Mark a sensor open at its first invalid sample (R449). -/
def State.openSensor (s : State) (n : Nat) (high : Bool) : State :=
  if (s.sensor n).isOpen then s
  else
    let s := s.modSensor n (fun x => { x with isOpen := true })
    let s := s.notice0 5 0x1223 [BitVec.ofNat 128 (n + (if high then 512 else 1024))]
    s.faultActed 0x0F 2 0 n 0 0

/-- Take one reading; a listed or open sensor is not read (R411, R449). -/
def State.takeReading (s : State) (r : SensorReading) : State :=
  let n := r.sensor.val
  if (s.sensor n).isOpen || s.hasDefect 0x0F n 0 then s.modSensor n (fun x => { x with isOpen := true })
  else if r.valid then s.modSensor n (fun x => { x with value := r.value })
  else s.openSensor n r.high

/-- The thermal item word: sensor, reading and more. -/
def thermalWord (n : Nat) (v : Int) (more : Nat) : BitVec 128 := BitVec.ofNat 128 (n + wrap 16 v * 2 ^ 16 + more)

/-- Compare a sensor with its levels (R452, R453). -/
def State.compareLevels (s : State) (n : Nat) : State :=
  let x := s.sensor n
  let v := x.value
  let warn := if x.warn then decide (s.warnLevel n - 24 ≤ v) else decide (s.warnLevel n ≤ v)
  let thr := if x.throttle then decide (s.throtLevel n - 24 ≤ v) else decide (s.throtLevel n ≤ v)
  let h := s.hThermal
  let s := s.modSensor n (fun y => { y with warn := warn, throttle := thr })
  let s := if warn && !x.warn then s.notice0 4 0x1220 [thermalWord n v 0] else s
  if thr != x.throttle then s.notice0 5 0x1221 [thermalWord n v (b2n thr * 512 + h * 2 ^ 32)] else s

/-- The period a group takes after a sample (R446). -/
def State.groupPeriod (s : State) (l : List Nat) : Nat :=
  if s.pw.shutdown then 1000000
  else if l.any (fun n => decide ((if isStack n then 816 else 840) ≤ (s.sensor n).value)) then 50000
  else if l.any (fun n => decide (s.throtLevel n - 40 ≤ (s.sensor n).value)) then 250000 else 1000000

/-- The changes of a history that still matter from a count on: the last one before it and all later ones. -/
def recent : List (Nat × Bool) → Nat → List (Nat × Bool)
  | a :: b :: t, lo => if b.1 ≤ lo then recent (b :: t) lo else a :: b :: t
  | l, _ => l

/-- Enter h_thermal in the history that R457 reads. -/
def State.noteThermal (s : State) (h : Nat) : State :=
  let nz := decide (0 < h)
  let last := match s.pw.hHist.getLast? with | some x => x.2 | none => false
  let hist := if last = nz then s.pw.hHist else s.pw.hHist ++ [(s.now, nz)]
  { s with pw := { s.pw with hMaxThisMs := max s.pw.hMaxThisMs h, hHist := recent hist (s.now - 100000000) } }

/-- The junction and stack sensors a list of readings names. -/
def sampledIds (readings : List SensorReading) : List Nat :=
  (readings.map (fun r => r.sensor.val)).filter (fun n => decide (n < 312))

/-- Take the readings of one group: values, notices, warning and throttle states, the period of the next sample, the ratio requested and
the ceiling (R446 to R454). -/
def State.thermalTaken (s : State) (readings : List SensorReading) : State :=
  let ids := sampledIds readings
  let c0 := s.thermalCeilNow
  let warned := s.sensors.any (fun p => decide (p.1 < 312) && p.2.warn)
  let s := (readings.filter (fun r => decide (r.sensor.val < 312))).foldl (fun s r => s.takeReading r) s
  let s := (s.sensors.filter (fun p => decide (p.1 < 312) && p.2.isOpen)).foldl (fun s p => s.refresh p.1) s
  let s := ids.foldl (fun s n => s.compareLevels n) s
  let s := if warned || s.sensors.any (fun p => decide (p.1 < 312) && p.2.warn) then { s with pw := { s.pw with lastWarnAt := s.now } } else s
  let per := s.groupPeriod ids
  let s := ids.foldl (fun s n => s.modSensor n (fun x => { x with period := per })) s
  let h := s.hThermal
  let s := s.noteThermal h
  let s := if s.pw.reqThermal < h then ({ s with pw := { s.pw with reqThermal := h } }).requestH (s.now + 500) else s
  (if s.thermalCeilNow = c0 then s else s.ceilingNotice 3 0).considerSwitch 0

/-- THERMAL_FALL_BOUNDARY (R454): a millisecond boundary of the GTC. -/
def execThermalFallBoundary (now : Nat) (s : State) : Host.Outcome State Fault Refusal :=
  let s := s.at_ now
  let top := s.pw.hMaxThisMs
  let s := { s with pw := { s.pw with hMaxThisMs := 0 } }
  if top < s.pw.reqThermal then .next (({ s with pw := { s.pw with reqThermal := top } }).requestH (s.now + 500)) else .next s

/-- How long h_thermal was nonzero in the 100 ms before a count (R457). -/
def nonzeroTime (hist : List (Nat × Bool)) (now : Nat) : Nat :=
  let lo := now - 100000000
  match hist with
  | [] => 0
  | _ :: t =>
    ((hist.zip (t.map (fun x => x.1) ++ [now])).map (fun x =>
      if x.1.2 then min now x.2 - min (min now x.2) (max lo x.1.1) else 0)).sum

/-- When h_thermal last became 0; none while it is nonzero. -/
def zeroSince (hist : List (Nat × Bool)) : Option Nat :=
  match hist.getLast? with
  | none => some 0
  | some x => if x.2 then none else some x.1

/-- Raise the thermal ceiling by one state above the one in force; no check before 100 ms after the switch (R457). -/
def State.raiseThermal (s : State) : State :=
  let s := { s with pw := { s.pw with thermalCeil := s.thermalCeilNow + 1 } }
  let s := (s.ceilingNotice 3 0).considerSwitch 0
  { s with pw := { s.pw with thermalNextCheck := (match s.pw.switchAt with | some x => x.1 | none => s.now) + 100000000 } }

/-- Lower the thermal ceiling by one state (R457). -/
def State.lowerThermal (s : State) : State :=
  let c := s.thermalCeilNow
  let s := { s with pw := { s.pw with thermalCeil := s.pw.thermalCeil - 1, lastWarnAt := s.now } }
  (if s.thermalCeilNow = c then s else s.ceilingNotice 3 0).considerSwitch 0

/-- One second without a ratio and without a sensor in warning (R457). -/
def State.thermalCalm (s : State) : Bool :=
  (match zeroSince s.pw.hHist with | some t => decide (t + 1000000000 ≤ s.now) | none => false)
    && decide (s.pw.lastWarnAt + 1000000000 ≤ s.now)

/-- THERMAL_CEILING_CHECK (R457). -/
def execThermalCeilingCheck (now : Nat) (s : State) : Host.Outcome State Fault Refusal :=
  let s := s.at_ now
  if 50000000 ≤ nonzeroTime s.pw.hHist s.now ∧ s.pw.thermalNextCheck ≤ s.now ∧ s.pw.thermalCeil < 12 then .next s.raiseThermal
  else if s.thermalCalm && decide (0 < s.pw.thermalCeil) then .next s.lowerThermal
  else .next s

/-- THERMISTOR_SAMPLE (R447, R456): an input whose ROLE is 0 is not read. -/
def execThermistorSample (n : Fin 8) (reading : SensorReading) (now : Nat) (s : State) : Host.Outcome State Fault Refusal :=
  let s := s.at_ now
  let k := 312 + n.val
  let act := (s.cset 2).active
  let role := (memGet act (16 + 8 * n.val)).toNat
  let lim : Int := 8 * ((memGet act (17 + 8 * n.val)).toNat : Int)
  if role = 0 ∨ (s.sensor k).isOpen ∨ s.hasDefect 0x0F k 0 then .next s
  else if !reading.valid then .next (s.openSensor k reading.high)
  else
    let s := s.modSensor k (fun x => { x with value := reading.value })
    if lim ≠ 0 ∧ lim < reading.value then
      let due := match (s.sensor k).noticedAt with | none => true | some t => decide (t + 1000000000 ≤ s.now)
      if due then
        let s := s.notice0 4 0x1224 [BitVec.ofNat 128 (n.val + wrap 16 reading.value * 2 ^ 16)]
        .next (s.modSensor k (fun x => { x with noticedAt := some s.now }))
      else .next s
    else .next (s.modSensor k (fun x => { x with noticedAt := none }))

end Sys2Proof.Machine
end

