-- ==== Sys2Proof/Machine/Images.lean ====
section
/-!
DEFINITION. Schedule images: their layout (Tables 21.2 to 21.8), the checks of the load stages (R513, with R113, R133, R161,
R205, R229, R232, R305, R326) and the load itself.
-/
namespace Sys2Proof.Machine

/-! ### Header and directory (R510, R511) -/

/-- REGION_MASK. -/
def imgRegions (b : Bytes) : Nat := leAt b 24 8
/-- NCOUNTERS. -/
def imgCounters (b : Bytes) : Nat := leAt b 60 4
/-- NPEERS. -/
def imgPeers (b : Bytes) : Nat := leAt b 80 4
/-- NSECTIONS. -/
def imgSections (b : Bytes) : Nat := leAt b 10 2
/-- PERIOD. -/
def imgPeriod (b : Bytes) : Nat := leAt b 56 4

/-- A directory entry (Table 21.3). -/
structure DirEntry where
  type : Nat
  count : Nat
  off : Nat
  len : Nat
deriving DecidableEq, Repr

/-- Directory entry i. -/
def dirEntry (b : Bytes) (i : Nat) : DirEntry :=
  let o := 256 + 24 * i
  { type := leAt b o 2, count := leAt b (o + 4) 4, off := leAt b (o + 8) 8, len := leAt b (o + 16) 8 }

/-- The directory. -/
def directory (b : Bytes) : List DirEntry := (List.range (imgSections b)).map (dirEntry b)

/-- Index and entry of a section type. -/
def findSection (b : Bytes) (type : Nat) : Option (Nat × DirEntry) :=
  ((directory b).zipIdx.find? (fun p => p.1.type == type)).map (fun p => (p.2, p.1))

/-- The bytes of a section type, empty when it is absent. -/
def sectionBytes (b : Bytes) (type : Nat) : Bytes :=
  match findSection b type with
  | some (_, d) => slice b d.off d.len
  | none => []

/-- Records of fixed size of a section type. -/
def sectionRecs (b : Bytes) (type size : Nat) : List Bytes :=
  let s := sectionBytes b type
  (List.range (s.length / size)).map (fun i => slice s (size * i) size)

/-- Length of the CELL record at an offset (R512). -/
def cellRecLen (s : Bytes) (o : Nat) : Nat :=
  ceilDiv (96 + 32 * leAt s (o + 2) 2 + 64 * (leAt s (o + 4) 2 + leAt s (o + 6) 2) + 16 * leAt s (o + 8) 2) 64 * 64

/-- Offsets of n variable records. -/
def recOffsets (len : Nat → Nat) : Nat → Nat → List Nat
  | 0, _ => []
  | n + 1, o => o :: recOffsets len n (o + len o)

/-- Length of the CALENDAR port record at an offset (Table 21.4). -/
def portRecLen (s : Bytes) (o : Nat) : Nat := 16 + 32 * leAt s (o + 2) 2

/-- The length a section's COUNT and record sizes give (R511, Table 21.4). -/
def sectionLen (b : Bytes) (d : DirEntry) : Nat :=
  let s := slice b d.off d.len
  match d.type with
  | 1 => ((recOffsets (cellRecLen s) d.count 0).map (cellRecLen s)).sum
  | 2 => ((recOffsets (portRecLen s) d.count 0).map (portRecLen s)).sum
  | 3 => 8 * d.count
  | 4 => 4112 * d.count
  | 5 => 4112 * d.count
  | 6 => 4 * d.count
  | 7 => 32 * d.count
  | 8 => 32 * d.count
  | 9 => 96 * d.count
  | 0xA => 128 * d.count
  | 0xB => 8 * d.count
  | _ => 32 * d.count

/-- COUNT within its range (Table 21.4); whether each cell has its record is stage 6's to find (Table 21.9). -/
def countOk (b : Bytes) (d : DirEntry) : Bool :=
  match d.type with
  | 3 => decide (d.count ≤ 16)
  | 4 => decide (d.count ≤ 4)
  | 5 => decide (d.count ≤ 4)
  | 6 => d.count == imgCounters b
  | 7 => decide (d.count ≤ 14)
  | 9 => d.count == (leAt b 9 1)
  | 0xA => d.count == imgPeers b
  | _ => true

/-- Whether a byte range is all zeros. -/
def zeroAt (b : Bytes) (off n : Nat) : Bool := leAt b off n == 0

/-- Stage 2, header (Table 21.2). -/
def headerOk (b : Bytes) (turf len : Nat) : Bool :=
  leAt b 0 4 == 0x474D494B && leAt b 64 8 == len && decide (len ≤ 2 ^ 30) && decide (b.length = len)
  && leAt b 72 8 == (slice b 0 72 ++ natLe 8 0 ++ b.drop 80).foldl crc64Byte 0
  && leAt b 8 1 == turf && decide (1 ≤ leAt b 9 1 ∧ leAt b 9 1 ≤ 64) && decide (3 ≤ imgSections b ∧ imgSections b ≤ 12)
  && zeroAt b 12 4 && zeroAt b 35 1 && zeroAt b 37 3 && decide (leAt b 40 4 < 2 ^ 31) && zeroAt b 44 4
  && decide (32 ≤ imgPeriod b ∧ imgPeriod b ≤ 65536) && imgPeriod b % 32 == 0 && decide (imgCounters b ≤ 65408)
  && decide (imgPeers b ≤ 64) && zeroAt b 84 12 && zeroAt b 128 128

/-- Stage 2: the sections that must be present (R511); one that is missing has no entry, so the fault names the header. -/
def sectionsOk (b : Bytes) : Bool :=
  [1, 2, 9].all (fun t => (findSection b t).isSome)
  && (imgCounters b == 0 || (findSection b 6).isSome) && (imgPeers b == 0 || (findSection b 0xA).isSome)

/-- Stage 2, directory entry i (R510, R511). -/
def dirOk (b : Bytes) (i : Nat) : Bool :=
  let d := dirEntry b i
  let start := 256 + 24 * imgSections b
  decide (1 ≤ d.type ∧ d.type ≤ 0xC) && zeroAt b (256 + 24 * i + 2) 2 && d.off % 64 == 0 && decide (start ≤ d.off)
  && decide (d.off + d.len ≤ b.length) && countOk b d && d.len == sectionLen b d
  && (List.range i).all (fun j =>
      let e := dirEntry b j
      e.type != d.type && (decide (e.off + e.len ≤ d.off) || decide (d.off + d.len ≤ e.off)))

/-- A fault found in an image: CHECK, INDEX, CELL (Table 13.14). -/
abbrev ImgFault := Option (Nat × Nat × Nat)

/-- The first fault of a list. -/
def firstFault : List ImgFault → ImgFault
  | [] => none
  | some f :: _ => some f
  | none :: t => firstFault t

/-- A fault when a condition fails. -/
def need (ok : Bool) (check index cell : Nat) : ImgFault := if ok then none else some (check, index, cell)

/-- Stage 2. -/
def stage2 (b : Bytes) (turf len : Nat) : ImgFault :=
  firstFault (need (headerOk b turf len) 6 0 0 :: (List.range (imgSections b)).map (fun i => need (dirOk b i) 6 i 0)
    ++ [need (sectionsOk b) 6 0 0])

/-! ### Placement, groups, counters (stages 3 and 4) -/

/-- A PLACEMENT record: local index, offset, length (Table 21.8). -/
def placementOf (r : Bytes) : Nat × Nat × Nat := (leAt r 0 1, leAt r 8 8, leAt r 16 8)

/-- The placement records of an image. -/
def imgPlacements (b : Bytes) : List (Nat × Nat × Nat) := (sectionRecs b 0xC 32).map placementOf

/-- Fields of the placement records (Table 21.8): CHECK 6 on the section. -/
def placementsOk (b : Bytes) : Bool :=
  let rs := sectionRecs b 0xC 32
  rs.all (fun r =>
    let p := placementOf r
    decide (16 ≤ p.1 ∧ p.1 ≤ 47) && decide (1 ≤ leAt r 1 1 ∧ leAt r 1 1 ≤ 5) && zeroAt r 2 6 && p.2.1 % 4096 == 0
      && p.2.2 % 4096 == 0 && p.2.2 != 0 && zeroAt r 28 4)
  && ((imgPlacements b).zipIdx.all (fun x => (imgPlacements b).zipIdx.all (fun y =>
      x.2 == y.2 || x.1.1 != y.1.1 || decide (x.1.2.1 + x.1.2.2 ≤ y.1.2.1) || decide (y.1.2.1 + y.1.2.2 ≤ x.1.2.1))))

/-- A GROUPS record: group number and members (Table 21.4, R264). -/
def groupOf (r : Bytes) : Nat × List Nat := (leAt r 0 1, (List.range (2 ^ leAt r 1 1)).map (fun i => leAt r (16 + i) 1))

/-- The site groups an image declares. -/
def imgGroups (b : Bytes) : List (Nat × List Nat) := (sectionRecs b 7 32).map groupOf

/-- The counters' initial values lie in the range of R236. -/
def countersOk (b : Bytes) : Bool := (sectionRecs b 6 4).all (fun r => decide (leAt r 0 4 < 2 ^ 31))

/-- Fields of the group records. -/
def groupsOk (b : Bytes) : Bool :=
  (sectionRecs b 7 32).all (fun r =>
    let g := groupOf r
    decide (g.1 ≤ 13) && decide (leAt r 1 1 ≤ 4) && zeroAt r 2 14 && g.2.all (fun m => decide (m < 24)) && decide g.2.Nodup
      && (List.range 16).all (fun i => decide (i < 2 ^ leAt r 1 1) || leAt r (16 + i) 1 == 0xFF))
  && decide ((imgGroups b).map (fun g => g.1)).Nodup

/-- The turf owns every byte of a range of a site or far unit, within its capacity; a far unit with no known capacity counts
as 1,024 GiB (Table 21.8). -/
def State.ownsRange (s : State) (t ix off len : Nat) : Bool :=
  let u := rangeUnit ix
  let size := if 40 ≤ ix ∧ !(s.fmu (ix - 40)).registered then 2 ^ 40 else s.unitBytes ix
  decide (off + len ≤ size)
  && (len == 0 || (List.range ((off + len - 1) / u - off / u + 1)).all (fun i => s.rangeOwner ix (off / u + i) == some t))

/-- Whether the turf owns at least one range of a site or far unit. -/
def State.ownsAny (s : State) (t ix : Nat) : Bool := (List.range 64).any (fun j => s.rangeOwner ix j == some t)

/-- Stage 3 (R326). -/
def State.stage3 (s : State) (t : Nat) (b : Bytes) : Bool :=
  (setBits (imgRegions b) 64).all (fun r => regionOwner s.turfMap r == some t)
  && (setBits (leAt b 32 4) 24).all (fun m => s.ownsAny t (16 + m))
  && (setBits (leAt b 36 1) 8).all (fun n => s.ownsAny t (40 + n))
  && (leAt b 40 4 &&& slotColumns s.turfMap t) == leAt b 40 4
  && (leAt b 48 8 &&& ceMask s.turfMap t) == leAt b 48 8
  && (imgPlacements b).all (fun p => s.ownsRange t p.1 p.2.1 p.2.2)
  && (imgGroups b).all (fun g => g.2.all (fun m => (List.range 64).all (fun j => siteOwner s.turfMap m j == some t)))

/-- The lowest block of n consecutive free counters at 128 or above (R514). -/
def State.counterBlock (s : State) (n : Nat) : Option Nat :=
  if n = 0 then some 128
  else
    let used := (s.ctrs.filter (fun p => 128 ≤ p.1 ∧ p.1 < 65536 ∧ p.2.owner ≠ .free)).map (fun p => p.1)
    let base := used.foldl (fun m k => if m ≤ k ∧ k < m + n then k + 1 else m) 128
    if base + n ≤ 65536 then some base else none

/-- The ranges of the retained copy (R516): lowest owned 1 GiB site ranges that no placement and no ALLOC names. -/
def State.retainedRanges (s : State) (t : Nat) (b : Bytes) : Option (List (Nat × Nat)) :=
  let n := ceilDiv (sectionBytes b 1).length (2 ^ 30)
  let meets := fun (j off len : Nat) => decide (off < (j + 1) * 2 ^ 30) && decide (j * 2 ^ 30 < off + len)
  let free := (List.range 24).flatMap (fun m => ((List.range 64).filter (fun j =>
    siteOwner s.turfMap m j == some t
      && !(imgPlacements b).any (fun p => p.1 == 16 + m && meets j p.2.1 p.2.2)
      && !s.allocs.any (fun p => p.2.1 == 16 + m && meets j p.2.2.1 p.2.2.2))).map (fun j => (m, j)))
  if n ≤ free.length then some (free.take n) else none

/-- Stage 4: BASE and the retained ranges; none is NO_RESOURCE. -/
def State.stage4 (s : State) (t : Nat) (b : Bytes) : Option (Nat × List (Nat × Nat)) :=
  let clash := (imgPlacements b).any (fun p => s.allocs.any (fun a => a.2.1 == p.1
    && decide (a.2.2.1 < p.2.1 + p.2.2) && decide (p.2.1 < a.2.2.1 + a.2.2.2)))
  let taken := (imgGroups b).any (fun g => s.images.any (fun p => p.2.groups.contains g.1))
  match s.counterBlock (imgCounters b), s.retainedRanges t b with
  | some base, some rs =>
    if clash || taken || decide (syncQuota s.turfMap t < s.syncHeld t + imgCounters b) then none else some (base, rs)
  | _, _ => none

/-! ### Relocation (stage 5, Table 21.7) -/

/-- Bytes of a relocated field. -/
def relocWidth (kind : Nat) : Nat := if kind = 4 then 4 else 2

/-- The value of a field after load; none where stage 5 refuses it. -/
def State.relocValue (s : State) (b : Bytes) (base kind v : Nat) : Option Nat :=
  match kind with
  | 1 => if v < 64 then some (s.flatOf v) else none
  | 2 =>
    if 4096 ≤ v ∨ imgPeers b ≤ v / 64 then none
    else
      let e := leAt (sectionBytes b 0xA) (128 * (v / 64) + 2 * (v % 64)) 2
      if e = 0xFFFF then none else some e
  | 3 => if v < imgCounters b then some (base + v) else none
  | 4 => if v % 4 = 0 ∧ v / 4 < imgCounters b then some (4 * (base + v / 4)) else none
  | _ => none

/-- Apply the relocation records in order (stage 5): the image, or the index of the record that fails. -/
def State.relocate (s : State) (b0 : Bytes) (base : Nat) : List (Nat × Bytes) → List (Nat × Nat) → Bytes → Bytes ⊕ Nat
  | [], _, b => .inl b
  | (i, r) :: rest, touched, b =>
    let sec := leAt r 0 2
    let kind := leAt r 2 1
    let off := leAt r 4 4
    let d := dirEntry b0 sec
    let w := relocWidth kind
    let at_ := d.off + off
    if imgSections b0 ≤ sec ∨ leAt r 3 1 ≠ 0 ∨ d.len < off + w
        ∨ touched.any (fun x => decide (x.1 < at_ + w) && decide (at_ < x.1 + x.2)) then .inr i
    else match s.relocValue b0 base kind (leAt b at_ w) with
      | none => .inr i
      | some v => s.relocate b0 base rest ((at_, w) :: touched) (splice b at_ (natLe w v))

/-- KIND 1 relocations of the CELL section: section, offset, local index (R517). -/
def reloc1Of (b : Bytes) : List (Nat × Nat × Nat) :=
  match findSection b 1 with
  | none => []
  | some (k, d) => ((sectionRecs b 0xB 8).filter (fun r => leAt r 0 2 == k && leAt r 2 1 == 1)).map (fun r =>
      (k, leAt r 4 4, leAt b (d.off + leAt r 4 4) 2))

/-! ### CELL records (stage 6, R512) -/

/-- A CELL record from the section's bytes. -/
def cellRecAt (s : Bytes) (o : Nat) : CellRec :=
  let ns := leAt s (o + 2) 2
  let n0 := leAt s (o + 4) 2
  let n1 := leAt s (o + 6) 2
  let nw := leAt s (o + 8) 2
  let a0 := o + 96 + 32 * ns
  let a1 := a0 + 64 * n0
  let w0 := a1 + 64 * n1
  { cell := leAt s o 2, lmask := BitVec.ofNat 16 (leAt s (o + 10) 2)
    initL := (List.range 16).map (fun i => BitVec.ofNat 32 (leAt s (o + 16 + 4 * i) 4))
    initT := (List.range 16).map (fun i => BitVec.ofNat 8 (leAt s (o + 80 + i) 1))
    steps := (List.range ns).map (fun i => BitVec.ofNat 256 (leAt s (o + 96 + 32 * i) 32))
    ae0 := (List.range n0).map (fun i => BitVec.ofNat 512 (leAt s (a0 + 64 * i) 64))
    ae1 := (List.range n1).map (fun i => BitVec.ofNat 512 (leAt s (a1 + 64 * i) 64))
    wins := (List.range nw).map (fun i => BitVec.ofNat 128 (leAt s (w0 + 16 * i) 16)) }

/-- The CELL records of a section. -/
def cellRecs (s : Bytes) (n : Nat) : List CellRec := (recOffsets (cellRecLen s) n 0).map (cellRecAt s)

/-- Fields of a router window (Table 5.2). -/
structure Win where
  start : Nat
  period : Nat
  count : Nat
  len : Nat
  inp : Nat
  out : Nat
deriving DecidableEq, Repr

/-- Read a router window. -/
def winOf (w : BitVec 128) : Win :=
  { start := bits w.toNat 31 0, period := bits w.toNat 63 32, count := bits w.toNat 79 64, len := bits w.toNat 95 80,
    inp := bits w.toNat 103 96, out := bits w.toNat 111 104 }

/-- Reserved values and ranges of a window (R133, Table 5.2). -/
def winOk (w : BitVec 128) : Bool :=
  let x := winOf w
  decide (x.inp < 4) && decide (x.out < 4) && x.inp != x.out && bits w.toNat 127 112 == 0 && decide (1 ≤ x.count)
    && decide (1 ≤ x.len) && decide (x.len ≤ x.period)

/-- PATH of a scheduled entry's ROUTE: 0 mesh, 1 vertical (Table 5.3). -/
def routePath (e : BitVec 512) : Nat := bits e.toNat (8 * 26 + 15) (8 * 26 + 14)
/-- LINK. -/
def routeLink (e : BitVec 512) : Nat := bits e.toNat (8 * 26 + 13) (8 * 26 + 11)
/-- SROW. -/
def routeSrow (e : BitVec 512) : Nat := bits e.toNat (8 * 26 + 5) (8 * 26)
/-- START of a scheduled entry. -/
def schedStart (e : BitVec 512) : Nat := fld e 16 4
/-- PERIOD. -/
def schedPeriod (e : BitVec 512) : Nat := fld e 20 4
/-- ROWS. -/
def schedRows (e : BitVec 512) : Nat := fld e 24 2
/-- Whether an entry is scheduled. -/
def isSched (e : BitVec 512) : Bool := aeKind e == 7 || aeKind e == 8

/-- ROUTE and PERIOD of a scheduled entry (R133). -/
def routeOk (e : BitVec 512) : Bool :=
  !isSched e ||
    (bits e.toNat (8 * 26 + 10) (8 * 26 + 6) == 0 &&
    (if routePath e = 0 then
        decide (routeLink e < 4) && routeSrow e == 0 && decide (8 * schedRows e ≤ schedPeriod e)
     else routePath e == 1 && routeLink e == 0 && decide (schedRows e ≤ schedPeriod e)))

/-- Stage 6 on one CELL record (Table 21.9): its place in the order, its fields, step words, AE0, AE1, windows in that order; `known`
names the cells that have a record to come. -/
def cellRecFault (known : Nat → Bool) (sec : Bytes) (o idx expected : Nat) : ImgFault :=
  let r := cellRecAt sec o
  let ns := leAt sec (o + 2) 2
  let n0 := leAt sec (o + 4) 2
  let n1 := leAt sec (o + 6) 2
  let nw := leAt sec (o + 8) 2
  let used := 96 + 32 * ns + 64 * (n0 + n1) + 16 * nw
  let fields := decide (1 ≤ ns ∧ ns ≤ 2048) && decide (1 ≤ n0 ∧ n0 ≤ 512) && decide (1 ≤ n1 ∧ n1 ≤ 512)
    && decide (nw ≤ 128) && zeroAt sec (o + 12) 4 && zeroAt sec (o + used) (cellRecLen sec o - used)
  let table := fun (e : Nat) (l : List (BitVec 512)) => l.zipIdx.map (fun x =>
    need (aeStaticOk x.1 && routeOk x.1 && (decide (x.2 + 1 < l.length) || aeKind x.1 == 0)) 2 (e * 2048 + x.2) expected)
  let order := r.cell == expected
  firstFault (need order 6 idx (if known r.cell && decide (expected < r.cell) then expected else r.cell) :: need fields 6 idx expected
    :: (r.steps.zipIdx.map (fun x => need (stepStaticOk ns x.1) 1 x.2 expected)
    ++ table 0 r.ae0 ++ table 1 r.ae1 ++ r.wins.zipIdx.map (fun x => need (winOk x.1) 3 x.2 expected)))

/-! ### Mesh and vertical timing of the whole image (R128 to R136) -/

/-- The neighbour of a cell over a link, none at the die's edge: 0 north, 1 east, 2 south, 3 west. -/
def meshNext (c link : Nat) : Option Nat :=
  match link with
  | 0 => if c % 256 < 16 then none else some (c - 16)
  | 1 => if c % 16 = 15 then none else some (c + 1)
  | 2 => if 240 ≤ c % 256 then none else some (c + 16)
  | _ => if c % 16 = 0 then none else some (c - 1)

/-- Flight time of a hop (R128). -/
def flight (link : Nat) : Nat := if link % 2 = 0 then 1 else 2

/-- Whether an occurrence of a window meets the n cycles from lo. -/
def winMeets (w : Win) (lo n : Nat) : Bool :=
  let o := if lo < w.start ∨ w.period = 0 then 0 else (lo - w.start) / w.period
  [o, o + 1].any (fun k => decide (k < w.count) && decide (w.start + k * w.period < lo + n)
    && decide (lo < w.start + k * w.period + w.len))

/-- The intervals of a scheduled entry's repeats: first cycle of each. -/
def schedStarts (e : BitVec 512) : List Nat := (List.range (aeCount e)).map (fun r => schedStart e + r * schedPeriod e)

/-- The scheduled entries of a cell. -/
def CellRec.sched (r : CellRec) : List (BitVec 512) := (r.ae0 ++ r.ae1).filter isSched

/-- The drives of a cell's mesh sends: link, first cycle, cycles (R129). -/
def CellRec.sendDrives (r : CellRec) : List (Nat × Nat × Nat) :=
  (r.sched.filter (fun e => aeKind e == 8 && routePath e == 0)).flatMap (fun e =>
    (schedStarts e).map (fun c => (routeLink e, c + 1, 8 * schedRows e)))

/-- The arrivals of a cell's mesh receives: link, first cycle, cycles (R129, R132); flit 0 of a row arrives 7 cycles before its write. -/
def CellRec.recvCover (r : CellRec) : List (Nat × Nat × Nat) :=
  (r.sched.filter (fun e => aeKind e == 7 && routePath e == 0)).flatMap (fun e =>
    (schedStarts e).map (fun c => (routeLink e, c - 7, 8 * schedRows e)))

/-- Two windows, or a window and a send, or two sends drive one output link in one cycle. -/
def CellRec.drivesOk (r : CellRec) : Bool :=
  let ws := r.wins.map winOf
  let ds := r.sendDrives
  ws.zipIdx.all (fun x =>
    ws.zipIdx.all (fun y => decide (y.2 ≤ x.2) || x.1.out != y.1.out
      || (List.range x.1.count).all (fun o => !winMeets y.1 (x.1.start + o * x.1.period) x.1.len))
    && ds.all (fun d => d.1 != x.1.out || !winMeets x.1 d.2.1 d.2.2))
  && ds.zipIdx.all (fun x => ds.zipIdx.all (fun y => x.2 == y.2 || x.1.1 != y.1.1
      || decide (x.1.2.1 + x.1.2.2 ≤ y.1.2.1) || decide (y.1.2.1 + y.1.2.2 ≤ x.1.2.1)))

/-- The rows of a cell's mesh receives: link, cycle of flit 0. -/
def CellRec.recvRows (r : CellRec) : List (Nat × Nat) :=
  r.recvCover.flatMap (fun x => (List.range (x.2.2 / 8)).map (fun i => (x.1, x.2.1 + 8 * i)))

/-- Where a flit driven onto a link ends: the cell, port and cycle of the receive that covers it; none when a cycle is not
covered, the link ends, or it enters a region of another turf (R133). DESIGN CHOICE (log entry 131): where a receive and a window, or two
windows of one IN, cover the cycle, the receive takes the flit, else the window listed first. -/
def traceFlit (cells : List CellRec) (mask : Nat) : Nat → Nat → Nat → Nat → Option (Nat × Nat × Nat)
  | 0, _, _, _ => none
  | f + 1, c, link, t =>
    match meshNext c link with
    | none => none
    | some n =>
      let a := t + flight link
      let inp := (link + 2) % 4
      if !mask.testBit (regionOf n) then none
      else match cells.find? (fun r => r.cell == n) with
        | none => none
        | some r =>
          if r.recvCover.any (fun x => x.1 == inp && decide (x.2.1 ≤ a) && decide (a < x.2.1 + x.2.2)) then some (n, inp, a)
          else match (r.wins.map winOf).find? (fun w => w.inp == inp && winMeets w a 1) with
            | none => none
            | some w => traceFlit cells mask f n w.out a

/-- The rows of a cell's sends with where each ends: the cell, port and cycle of its flit 0, where its eight flits end one after another at
one port. -/
def rowEnds (cells : List CellRec) (mask : Nat) (r : CellRec) : List (Option (Nat × Nat × Nat)) :=
  r.sendDrives.flatMap (fun d => (List.range (d.2.2 / 8)).map (fun i =>
    let flit := fun k => traceFlit cells mask 1024 r.cell d.1 (d.2.1 + 8 * i + k)
    match flit 0 with
    | none => none
    | some (n, inp, a) => if (List.range 8).all (fun k => flit k == some (n, inp, a + k)) then some (n, inp, a) else none))

/-- The vertical transfers of a cell: send, first cycle, rows, first staging row (R132, R136). -/
def CellRec.vertical (r : CellRec) : List (Bool × Nat × Nat × Nat) :=
  (r.sched.filter (fun e => routePath e == 1)).flatMap (fun e =>
    (schedStarts e).map (fun c => (aeKind e == 8, c, schedRows e, routeSrow e)))

/-- Bonds of a cell: no two transfers in one cycle, and a free cycle at each turnaround (R133, R136). -/
def CellRec.bondsOk (r : CellRec) : Bool :=
  let vs := r.vertical
  vs.zipIdx.all (fun x => vs.zipIdx.all (fun y => x.2 == y.2 ||
    (let gap := if x.1.1 = y.1.1 then 0 else 1
     decide (x.1.2.1 + x.1.2.2.1 + gap ≤ y.1.2.1) || decide (y.1.2.1 + y.1.2.2.1 + gap ≤ x.1.2.1))))

/-- Two cells of one concentrator write one staging row in one cycle (R133). -/
def stagingClash (x y : Bool × Nat × Nat × Nat) : Bool :=
  x.1 && y.1 && decide (x.2.1 < y.2.1 + y.2.2.1) && decide (y.2.1 < x.2.1 + x.2.2.1)
    && decide ((x.2.2.2 + y.2.1) % 64 = (y.2.2.2 + x.2.1) % 64)

/-- R133 over the whole image: every row sent arrives where one receive names it, and every row a receive names arrives. -/
def meshFault (cells : List CellRec) (mask : Nat) : ImgFault :=
  let ends := cells.flatMap (rowEnds cells mask)
  let named := cells.flatMap (fun r => r.recvRows.map (fun x => (r.cell, x.1, x.2)))
  firstFault (cells.map (fun r => need (r.drivesOk && r.bondsOk
    && (rowEnds cells mask r).all (fun e => match e with | none => false | some a => named.count a == 1)
    && r.recvRows.all (fun x => ends.contains (some (r.cell, x.1, x.2)))
    && cells.all (fun q => decide (q.cell ≤ r.cell) || concOf q.cell != concOf r.cell || q.cell / 256 != r.cell / 256
        || !(r.vertical.any (fun x => q.vertical.any (fun y => stagingClash x y))))) 3 0 r.cell))

/-! ### Calendar, gaps and descriptors (R153 to R161, R205, R229, R232, R305) -/

/-- SLOT of a calendar entry (Table 6.7). -/
def ceSlot (e : BitVec 256) : Nat := bits e.toNat 15 0
/-- The receive port of an entry. -/
def ceDst (e : BitVec 256) : Nat := bits e.toNat 23 16 * 64 + bits e.toNat 31 24
/-- TURF. -/
def ceTurf (e : BitVec 256) : Nat := bits e.toNat 39 32
/-- FLAGS. -/
def ceFlags (e : BitVec 256) : Nat := bits e.toNat 47 40
/-- ARRIVE. -/
def ceArrive (e : BitVec 256) : Nat := bits e.toNat 63 48
/-- CONSUME. -/
def ceConsume (e : BitVec 256) : Nat := bits e.toNat 175 160
/-- FIRST_PERIOD. -/
def ceFirst (e : BitVec 256) : Nat := bits e.toNat 223 192
/-- LAST_PERIOD. -/
def ceLast (e : BitVec 256) : Nat := bits e.toNat 255 224

/-- A locator in period p (R156): value and stride from the given bit of the entry. -/
def locAt (e : BitVec 256) (src : Bool) (p : Nat) : Int :=
  let v : Int := (if src then bits e.toNat 95 64 else bits e.toNat 127 96 : Nat)
  let d := signed 16 (if src then bits e.toNat 143 128 else bits e.toNat 159 144)
  v + ((p : Int) - ceFirst e) * d

/-- The stride of a locator. -/
def ceStride (e : BitVec 256) (src : Bool) : Int := signed 16 (if src then bits e.toNat 143 128 else bits e.toNat 159 144)


/-- The far unit an edge port serves, none for a fabric coupler (R146, R216). -/
def portFmu (p : Nat) : Option Nat :=
  let c := p % 64 / 2
  if 40 ≤ p / 64 ∧ 24 ≤ c then some (2 * (p / 64 - 40) + (c - 24) / 4) else none

/-- Whether the turf owns a port's unit (R161). -/
def State.ownsPort (s : State) (t p : Nat) : Bool :=
  let o := p / 64
  if o < 16 then regionOwner s.turfMap (o * 4 + p % 64 / 16) == some t
  else if o < 40 then s.ownsAny t o
  else match portFmu p with
    | some n => s.ownsAny t (40 + n)
    | none => true

/-- The bridge directions a connection crosses (R150): direction 2q from BQq clockwise, 2q + 1 counter-clockwise. -/
def bridgesOf (src dst : Nat) : List Nat :=
  let q := oepQuad (src / 64)
  match (oepQuad (dst / 64) + 4 - q) % 4 with
  | 0 => []
  | 1 => [2 * q]
  | 3 => [2 * q + 1]
  | _ => if src % 2 = 0 then [2 * q, 2 * ((q + 1) % 4)] else [2 * q + 1, 2 * ((q + 3) % 4) + 1]

/-- The periods in which an entry's locators are checked: all when it ends, one when its strides are 0. -/
def cePeriods (e : BitVec 256) (src : Bool) : List Nat :=
  if ceStride e src = 0 then [ceFirst e] else (List.range (ceLast e + 1 - ceFirst e)).map (· + ceFirst e)

/-- The descriptor of an edge group's table (Tables 8.10, 11.9). -/
def bdFind (l : List (Nat × Nat × BitVec 128)) (edge idx : Nat) : Option (BitVec 128) :=
  (l.find? (fun x => x.1 == edge && x.2.1 == idx)).map (fun x => x.2.2)

/-- A locator of an entry at a port of one end (R161, R229, R305, R326). -/
def State.locatorOk (s : State) (t : Nat) (cal : Calendar) (e : BitVec 256) (port : Nat) (src : Bool) : Bool :=
  let o := port / 64
  if o < 16 then decide (0 ≤ locAt e src (ceFirst e)) && decide (locAt e src (ceFirst e) < 64)
  else if o < 40 then
    (ceStride e src == 0 || ceLast e != 0xFFFFFFFF)
    && (cePeriods e src).all (fun p => decide (0 ≤ locAt e src p) && decide (locAt e src p < 8388608)
        && s.ownsRange t o ((locAt e src p).toNat * 8192) 8192)
  else
    (ceStride e src == 0 || ceLast e != 0xFFFFFFFF) &&
    (cePeriods e src).all (fun p =>
      let v := (locAt e src p).toNat
      decide (0 ≤ locAt e src p) &&
      (match portFmu port with
       | some n =>
         match bdFind cal.farBd (o - 40) (v / 2 ^ 24) with
         | none => false
         | some d => v / 2 ^ 24 == (locAt e src (ceFirst e)).toNat / 2 ^ 24 && decide (v % 2 ^ 24 < bits d.toNat 95 64)
             && bits d.toNat 103 96 == n && bits d.toNat 119 112 == ceTurf e && d.toNat.testBit (if src then 104 else 105)
       | none =>
         match bdFind cal.fabBd (o - 40) v with
         | none => false
         | some d => bits d.toNat 23 16 == (if src then 2 else 1) && bits d.toNat 31 24 == ceTurf e))

/-- Whether a slot index lies in a tuning gap. -/
def inGap (gaps : List (Nat × Nat)) (slot : Nat) : Bool := gaps.any (fun g => decide (g.1 ≤ slot) && decide (slot < g.1 + g.2))

/-- Whether a vertical send writes a billet's staging rows after the cut-off, or a vertical receive reads them too early
(R161): `vs` are the transfers of the concentrator's cells. -/
def stagingFault (vs : List (Bool × Nat × Nat × Nat)) (period : Nat) (e : BitVec 256) (src : Bool) : Bool :=
  let last := vs.foldl (fun m v => max m (v.2.1 + v.2.2.1)) 0
  let pmax := min (ceLast e) ((last + 16) / (72 * period) + 1)
  (List.range (pmax + 1 - ceFirst e)).any (fun i =>
    let p := ceFirst e + i
    let n := ceSlot e + p * period
    let row0 := ((locAt e src p) % 64).toNat
    vs.any (fun v => v.1 == src && (List.range v.2.2.1).any (fun k =>
      let row := (v.2.2.2 + k) % 64
      let t := v.2.1 + k
      decide ((row + 64 - row0) % 64 < 16) &&
        (if src then decide (72 * n ≤ t + 2 + 15) && decide (t + 2 + 8 ≤ 72 * n)
         else decide (72 * (n + 1) ≤ t) && decide (t < 72 * (n + ceConsume e))))))

/-- The vertical transfers of the four cells of a CD port. -/
def portVertical (cells : List CellRec) (port : Nat) : List (Bool × Nat × Nat × Nat) :=
  (cells.filter (fun r => r.cell / 256 == port / 64 && concOf r.cell == port % 64)).flatMap CellRec.vertical

/-- One calendar entry (R161): `all` are the image's entries with their transmit ports. -/
def State.entryGood (s : State) (t : Nat) (cal : Calendar) (cells : List CellRec) (port idx : Nat) (e : BitVec 256) : Bool :=
  let slot := ceSlot e
  let dst := ceDst e
  let all := cal.entries.zipIdx
  let same := all.filter (fun x => ceSlot x.1.2 == slot)
  let site := fun (o : Nat) => (same.filter (fun x => x.1.1 / 64 == o || ceDst x.1.2 / 64 == o)).length
  decide (slot < cal.period) && slot % 32 != 31 && (slotColumns s.turfMap t).testBit (slot % 32) && !inGap cal.gaps slot
  && ceTurf e == t && decide (ceFlags e < 2) && bits e.toNat 191 176 == 0 && decide (bits e.toNat 23 16 < 44)
  && decide (bits e.toNat 31 24 < oepPorts (bits e.toNat 23 16)) && decide (port % 64 < oepPorts (port / 64))
  && port / 64 != dst / 64 && s.ownsPort t port && s.ownsPort t dst
  && decide (3 ≤ ceConsume e) && (!(decide (16 ≤ dst / 64 ∧ dst / 64 < 40)) || decide (5 ≤ ceConsume e))
  && same.all (fun x => x.2 == idx || (x.1.1 != port && ceDst x.1.2 != dst))
  && s.locatorOk t cal e port true && s.locatorOk t cal e dst false
  && (bridgesOf port dst).all (fun d => decide ((same.filter (fun x => (bridgesOf x.1.1 (ceDst x.1.2)).contains d)).length ≤ 224))
  && [port / 64, dst / 64].all (fun o => !(decide (16 ≤ o ∧ o < 40)) || decide (site o ≤ 14))
  && (match portFmu port with
      | some n => decide ((same.filter (fun x => portFmu x.1.1 == some n)).length ≤ 6)
      | none => true)
  && (match portFmu dst with
      | some n => decide ((same.filter (fun x => portFmu (ceDst x.1.2) == some n)).length ≤ 6)
      | none => true)
  && (decide (16 ≤ port / 64) || !stagingFault (portVertical cells port) cal.period e true)
  && (decide (16 ≤ dst / 64) || !stagingFault (portVertical cells dst) cal.period e false)

/-- The offsets of the CALENDAR section's port records. -/
def calOffsets (b : Bytes) : List Nat :=
  match findSection b 2 with
  | none => []
  | some (_, d) => recOffsets (portRecLen (slice b d.off d.len)) d.count 0

/-- The billet descriptors of a section: edge group, index, descriptor; an unused one is left out (R511). -/
def descriptorsOf (b : Bytes) (type : Nat) : List (Nat × Nat × BitVec 128) :=
  (sectionRecs b type 4112).flatMap (fun r => (List.range 256).filterMap (fun i =>
    let v := leAt r (16 + 16 * i) 16
    if v = 0 then none else some (leAt r 0 1, i, BitVec.ofNat 128 v)))

/-- The calendar an image carries (R155, R160). -/
def imgCalendar (b : Bytes) : Calendar :=
  let sec := sectionBytes b 2
  { period := imgPeriod b
    entries := (calOffsets b).flatMap (fun o => (List.range (leAt sec (o + 2) 2)).map (fun i =>
      (leAt sec o 2, BitVec.ofNat 256 (leAt sec (o + 16 + 32 * i) 32))))
    gaps := (sectionRecs b 3 8).map (fun r => (leAt r 0 4, leAt r 4 4))
    farBd := descriptorsOf b 4
    fabBd := descriptorsOf b 5 }

/-- The directory index of a section type. -/
def sectionIndex (b : Bytes) (type : Nat) : Nat :=
  match findSection b type with
  | some (i, _) => i
  | none => 0

/-- Heads of the port records: RSV, NENTRIES, a transmit port, ascending (Table 21.4). -/
def calHeadsOk (b : Bytes) : Bool :=
  let sec := sectionBytes b 2
  let os := calOffsets b
  os.all (fun o => zeroAt sec (o + 4) 12 && decide (1 ≤ leAt sec (o + 2) 2 ∧ leAt sec (o + 2) 2 ≤ 512)
    && decide (leAt sec o 2 % 64 < oepPorts (leAt sec o 2 / 64)))
  && (os.zip (os.drop 1)).all (fun p => decide (leAt sec p.1 2 < leAt sec p.2 2))

/-- A far descriptor (Table 8.10, R229). -/
def State.farBdOk (s : State) (t : Nat) (x : Nat × Nat × BitVec 128) : Bool :=
  let d := x.2.2.toNat
  let base := bits d 63 0
  let len := bits d 95 64
  let n := bits d 103 96
  base % 8192 == 0 && decide (1 ≤ len ∧ len ≤ 2 ^ 24) && decide (n / 2 = x.1) && bits d 111 106 == 0 && bits d 119 118 == 0
    && bits d 127 120 == 0 && s.ownsRange t (40 + n) base (len * 8192)

/-- A fabric descriptor (Table 11.9, R305). -/
def fabBdOk (x : Nat × Nat × BitVec 128) : Bool :=
  let d := x.2.2.toNat
  let dir := bits d 23 16
  (dir == 1 || dir == 2) && bits d 31 30 == 0 && bits d 127 48 == 0
    && (if dir = 1 then decide (bits d 39 32 ≤ 95) else bits d 47 32 == 0)

/-- Heads of the descriptor sections: one record for each edge group named. -/
def bdHeadsOk (b : Bytes) (type : Nat) : Bool :=
  let rs := sectionRecs b type 4112
  rs.all (fun r => decide (leAt r 0 1 ≤ 3) && zeroAt r 1 15) && decide (rs.map (fun r => leAt r 0 1)).Nodup

/-- BUCKETS records (Table 21.6): bucket, PERIODS, values. -/
def imgBuckets (b : Bytes) : List (Nat × Nat × List Word) :=
  (sectionRecs b 9 96).map (fun r => (leAt r 0 1, leAt r 4 4, (List.range 16).map (fun i => BitVec.ofNat 32 (leAt r (16 + 4 * i) 4))))

/-- BUCKETS values. -/
def bucketsOk (b : Bytes) : Bool :=
  (sectionRecs b 9 96).all (fun r => decide (leAt r 0 1 < 64) && zeroAt r 1 3) && decide ((imgBuckets b).map (fun x => x.1)).Nodup

/-- Stage 6 on the relocated content, in the order of Table 21.9. -/
def State.stage6 (s : State) (t : Nat) (b : Bytes) : ImgFault :=
  let sec := sectionBytes b 1
  let expected := (setBits (imgRegions b) 64).flatMap regionCells
  let n := match findSection b 1 with | some p => p.2.count | none => 0
  let os := recOffsets (cellRecLen sec) n 0
  let cells := cellRecs sec n
  let cal := imgCalendar b
  let csec := sectionBytes b 2
  let calFaults := (calOffsets b).flatMap (fun o =>
    let port := leAt csec o 2
    let cell := if port / 64 < 16 then port / 64 * 256 else 0
    (cal.entries.zipIdx.filter (fun x => x.1.1 == port)).zipIdx.map (fun y =>
      need (s.entryGood t cal cells port y.1.2 y.1.1.2) 4 y.2 cell))
  firstFault ((expected.zip os).map (fun x => cellRecFault expected.contains sec x.2 (sectionIndex b 1) x.1)
    ++ (expected.drop n).map (fun c => some (6, sectionIndex b 1, c))
    ++ (cells.drop expected.length).map (fun r => some (6, sectionIndex b 1, r.cell)) ++ [meshFault cells (imgRegions b), need (calHeadsOk b) 6 (sectionIndex b 2) 0] ++ calFaults
    ++ [need (cal.gaps.all (fun g => decide (1 ≤ g.2) && decide (g.1 + g.2 ≤ cal.period))) 6 (sectionIndex b 3) 0,
        need (bdHeadsOk b 4) 6 (sectionIndex b 4) 0, need (bdHeadsOk b 5) 6 (sectionIndex b 5) 0]
    ++ cal.farBd.map (fun x => need (s.farBdOk t x) 5 x.2.1 0) ++ cal.fabBd.map (fun x => need (fabBdOk x) 5 x.2.1 0)
    ++ [need (bucketsOk b) 6 (sectionIndex b 9) 0, need (countersOk b) 6 (sectionIndex b 6) 0])

/-! ### The load (R513 to R516) -/

/-- RESULT with `BAD_ARG` (Table 13.14). -/
def imgResult (f : Nat × Nat × Nat) : DWord := BitVec.ofNat 64 (f.1 * 2 ^ 24 + f.2.1 % 4096 * 2 ^ 12 + f.2.2 % 4096)

/-- Whether a turf holds an image, counting one being loaded (R515). -/
def State.holdsImage (s : State) (t : Nat) : Bool := s.images.any (fun p => p.2.turf == t)

/-- Release what stage 4 allocated, and the image with it (R515, R518). -/
def State.releaseImage (s : State) (h : Nat) : State :=
  match tfind s.images h with
  | none => s
  | some img =>
    let s := (List.range img.ctrInit.length).foldl (fun s i => s.dropCtr (img.ctrBase + i)) s
    let s := { s with siteGroups := img.groups.foldl tdel s.siteGroups }
    { s with images := tdel s.images h }

/-- Stage 8: cell tables, shadow calendar, site groups, retained copy; the load completes with its handle. -/
def State.finishLoad (s : State) (h : Nat) (img : ImageSt) : State :=
  let s := { s with images := tset s.images h { img with ready := true, loadCmd := none } }
  let s := img.cells.foldl (fun s r => s.modCell r.cell (loadTables r)) s
  let s := { s with cals := tset s.cals img.turf { s.cal img.turf with shadow := img.cal } }
  let s := { s with siteGroups := img.groupDefs.foldl (fun (t : Tbl (List Nat)) g => tset t g.1 g.2) s.siteGroups }
  let s := match img.retained with
    | [] => s
    | (m, j) :: _ => s.storeSite m (j * 2 ^ 30) img.cellSec false
  match img.loadCmd with
  | none => s
  | some (q, slot) =>
    match s.acceptedAt q slot with
    | none => s
    | some a => s.done a h

/-- A load that waits in stage 7 goes on when its regions are in S0, and fails when one cannot wake. -/
def State.loadProgress (s : State) (h : Nat) : State :=
  match tfind s.images h with
  | none => s
  | some img =>
    match img.loadCmd with
    | none => s
    | some (q, slot) =>
      let rs := setBits img.regionMask 64
      if rs.any (fun r => (s.region r).sleep ≠ .s0 ∧ !(s.region r).busy) then
        match s.acceptedAt q slot with
        | none => s.releaseImage h
        | some a => (s.releaseImage h).fail a stWakeFail
      else if rs.all (fun r => decide ((s.region r).sleep = .s0) && !(s.region r).busy) then s.finishLoad h img else s

/-- The lowest handle that names no image. -/
def State.freeHandle (s : State) : Option Nat := ((List.range 255).map (· + 1)).find? (fun h => (tfind s.images h).isNone)

/-- Stages 1 to 6 on an image's bytes: the image, or the status and RESULT that end the load. -/
def State.checkImage (s : State) (t len : Nat) (b : Bytes) : ImageSt ⊕ (Nat × DWord) :=
  let cw := match s.firm.runningCw with | some i => i.release | none => 0
  if leAt b 4 2 ≠ 1 ∨ cw < leAt b 6 2 then .inr (stVersionMismatch, 0)
  else match firstFault [stage2 b t len, need (placementsOk b) 6 (sectionIndex b 0xC) 0, need (groupsOk b) 6 (sectionIndex b 7) 0] with
  | some f => .inr (stBadArg, imgResult f)
  | none =>
    if !s.stage3 t b then .inr (stDenied, 0)
    else match s.stage4 t b with
    | none => .inr (stNoResource, 0)
    | some (base, ranges) =>
      match s.relocate b base ((sectionRecs b 0xB 8).zipIdx.map (fun x => (x.2, x.1))) [] b with
      | .inr i => .inr (stBadArg, imgResult (6, i, 0))
      | .inl r =>
        match s.stage6 t r with
        | some f => .inr (stBadArg, imgResult f)
        | none => .inl {
            turf := t, seed := BitVec.ofNat 64 (leAt b 16 8), regionMask := imgRegions b, siteMask := leAt b 32 4
            fmuMask := leAt b 36 1, ceMask := leAt b 48 8, columns := leAt b 40 4, period := imgPeriod b, ctrBase := base
            ctrInit := (sectionRecs r 6 4).map (fun x => leAt x 0 4)
            buckets := imgBuckets r, cells := cellRecs (sectionBytes r 1) (64 * popCount (imgRegions b) 64)
            groups := (imgGroups b).map (fun g => g.1), placements := imgPlacements r, retained := ranges
            reloc1 := reloc1Of b, cellSec := sectionBytes r 1, cal := imgCalendar r, groupDefs := imgGroups b }

/-- Enter a checked image: its counters and groups are held, its regions are asked to wake (stage 7). -/
def State.enterImage (s : State) (a : Accepted) (h : Nat) (img : ImageSt) : State :=
  let s := { s with images := tset s.images h { img with loadCmd := some (a.q, a.slot) } }
  let s := (List.range img.ctrInit.length).foldl (fun s i =>
    s.modCtr (img.ctrBase + i) (fun c => { c with owner := .image img.turf })) s
  let s := (setBits img.regionMask 64).foldl (fun s r => s.request r .s0) s
  s.loadProgress h

/-- LOAD_IMAGE (R359, R513). -/
def execLoadImage (q : QueueIx) (slot : SlotIx) (data : Option Bytes) (s : State) : Host.Outcome State Fault Refusal :=
  match s.acceptedAt q.val slot.val with
  | none => .next s
  | some a =>
    let host := (sqArg a.entry 2).testBit 0
    let addr := sqArg a.entry 0
    let len := sqArg a.entry 1
    if !s.readFits host addr len data then .fault .illFormed
    else .next (s.withCmd q slot 0x0100 (fun _ => true) (fun s a =>
      let t := sqTurf a.entry
      if s.holdsImage t || s.pw.safeStopped then s.fail a stBusy
      else if 2 ^ 30 < len ∨ len < 256 then s.complete a stBadArg 0 (imgResult (6, 0, 0))
      else match s.addrCheck a.q (s.queue a.q).turf host addr len with
      | some st => s.fail a st
      | none =>
        let s := s.meetIn host addr len
        match s.readIn host addr len data with
        | none => s.fail a stInternal
        | some b =>
          match s.checkImage t len b, s.freeHandle with
          | .inr (st, r), _ => s.complete a st 0 r
          | .inl _, none => s.fail a stNoResource
          | .inl img, some h => s.enterImage a h img))

/-! ### Relocation anew (R517) -/

/-- An image whose KIND 1 relocations have been applied again with the module's flat numbers (R517). -/
def State.relocated (s : State) (img : ImageSt) : ImageSt :=
  if img.reloc1.isEmpty then img
  else
    let sec := img.reloc1.foldl (fun b r => splice b r.2.1 (natLe 2 (s.flatOf (r.2.2 % 64)))) img.cellSec
    { img with cellSec := sec, cells := cellRecs sec img.cells.length }

/-- A cell's tables written again, its running state kept. -/
def patchTables (r : CellRec) (c : CellSt) : CellSt :=
  { c with
    steps := r.steps, windows := r.wins, initL := r.initL, initT := r.initT
    ae0 := { c.ae0 with table := r.ae0 }, ae1 := { c.ae1 with table := r.ae1 } }

/-- Write an image's relocated tables to its cells that are not in S4, and its retained copy (R516, R517). -/
def State.rewriteImage (s : State) (img : ImageSt) : State :=
  if !img.ready || img.reloc1.isEmpty then s
  else
    let s := img.cells.foldl (fun s r =>
      if (s.region (regionOf r.cell)).sleep = .s4 then s else s.modCell r.cell (patchTables r)) s
    match img.retained with
    | [] => s
    | (m, j) :: _ => s.storeSite m (j * 2 ^ 30) img.cellSec false

/-- The module's flat numbers have changed: every KIND 1 relocation of each image is applied again (R517). -/
def State.reflat (s : State) : State :=
  let l := s.images.map (fun p => (p.1, s.relocated p.2))
  l.foldl (fun s p => s.rewriteImage p.2) { s with images := l }

end Sys2Proof.Machine
end

