-- ==== Sys2Proof/Machine/Links.lean ====
section
/-!
DEFINITION. What far sublinks and fabric channels share: link frames, sequence numbers, acknowledgement, replay and credits
(R218 to R220, R289, R291, R292), management messages (Table 8.9), and lane maps (R225).
-/
namespace Sys2Proof.Machine

/-! ### Links and their headers (Tables 8.3, 11.1, 11.3) -/

/-- Whether a link is a far sublink. -/
def isFar (l : Nat) : Bool := decide (l < 64)
/-- The fibre of a link (R216, Table 11.1). -/
def linkFibre (l : Nat) : Nat := if l < 64 then 96 + 4 * (l / 8) + l % 8 / 2 else (l - 64) / 3
/-- SUBLINK of a link's identity message: the sublink, or the channel. -/
def linkChannel (l : Nat) : Nat := if l < 64 then l % 8 else (l - 64) % 3
/-- Frames kept until acknowledged (R219, R289). -/
def linkDepth (l : Nat) : Nat := if l < 64 then 512 else 256
/-- Where SEQ stands in a header; ACK, TYPE, FLAGS, EXP_SEQ and the credit totals follow it in both layouts. -/
def seqAt (l : Nat) : Nat := if l < 64 then 0 else 16

/-- How far sequence number b lies ahead of a, modulo 65,536. -/
def seqAhead (a b : Nat) : Nat := (b + 65536 - a % 65536) % 65536

/-- Eight totals as bytes. -/
def totals (t : Tbl Nat) : Bytes := (List.range 8).map (fun i => BitVec.ofNat 8 (tget t 0 i))

/-- The part of a header that every sending brings up to date: ACK, TYPE, FLAGS, EXP_SEQ and the credit totals. -/
def linkState (l type : Nat) (x : LinkSt) : Bytes :=
  natLe 2 (x.rxExp + 65535) ++ natLe 1 type ++ natLe 1 (b2n x.retry + b2n x.rxAny * 2) ++ natLe 2 (if x.retry then x.rxExp else 0)
    ++ totals x.txHcr ++ (if isFar l then totals x.txGcr else [])

/-- A whole frame: `carriage` is the fabric header's field, `rest` the header bytes after the totals up to the CRC. -/
def linkFrame (l seq type : Nat) (x : LinkSt) (carriage : Bytes) (rest body : Bytes) : Bytes :=
  let head := padTo 44 ((if isFar l then [] else padTo 16 carriage) ++ natLe 2 seq ++ linkState l type x ++ rest)
  head ++ natLe 4 (crc32c (head ++ body)) ++ body

/-- Whether a received frame has a correct CRC. -/
def linkCrcOk (frame : Bytes) : Bool :=
  decide (48 ≤ frame.length) && leAt frame 44 4 == crc32c (frame.take 44 ++ frame.drop 48)

/-- Whether a byte string has the length of a frame of its link (R218, Table 11.3, log entry 4). -/
def linkShapeOk (l : Nat) (frame : Bytes) : Bool :=
  if isFar l then frame.length == 560 else decide (48 ≤ frame.length) && decide (frame.length ≤ 48 + 8208)

/-- Count at a link's fibre (Table 20.1, SET 4). -/
def State.fibreCount (s : State) (l index : Nat) : State := s.bump 4 (linkFibre l) index 1

/-! ### Sending (R219, R220) -/

/-- Whether a sequenced frame may be sent. -/
def LinkSt.room (x : LinkSt) (l n : Nat) : Bool := x.state == .inService && decide (x.heldFrames.length + n ≤ linkDepth l)

/-- Send a sequenced frame and keep it until it is acknowledged; a lane map announced for its SEQ applies from it (R225). -/
def State.sendFrame (s : State) (l type : Nat) (rest body : Bytes) : State :=
  let x := s.link l
  let f := linkFrame l x.txSeq type x [] rest body
  let map := match x.txMapAt with | some (n, m) => if n = x.txSeq then (m, none) else (x.txMap, x.txMapAt) | none => (x.txMap, none)
  let s := s.modLink l (fun y => { y with
    txSeq := (x.txSeq + 1) % 65536, heldFrames := y.heldFrames ++ [(x.txSeq, f, 0)], txMap := map.1, txMapAt := map.2
    ackAt := if y.heldFrames.isEmpty then s.now else y.ackAt })
  (s.emit (.linkFrame l f)).fibreCount l 0

/-- The type of a frame that carries a waiting body: management, or on a fabric channel a routed packet (Tables 8.3, 11.3). -/
def bodyType (l : Nat) (body : Bytes) : Nat := if isFar l then 3 else if body.length = 512 then 2 else 1
/-- FRAME_LEN and VC of a fabric frame. -/
def bodyRest (l vc : Nat) (body : Bytes) : Bytes := if isFar l then [] else natLe 2 body.length ++ natLe 1 vc

/-- The first waiting body of a virtual channel becomes its head now (R302). -/
def newHead (vc now : Nat) : List (Nat × Nat × Nat × Bytes) → List (Nat × Nat × Nat × Bytes)
  | [] => []
  | w :: t => if w.1 = vc then (vc, now, w.2.2) :: t else w :: newHead vc now t

/-- A waiting body: virtual channel, since when, the link it was queued for first, bytes. -/
abbrev Waiting := Nat × Nat × Nat × Bytes

/-- Whether a body's frame is granted by the shares of the turfs: a Dynamic packet on channel 0 or 1 of a fabric fibre (R327). -/
def sharedBody (l : Nat) (w : Waiting) : Bool :=
  !isFar l && linkChannel l != 2 && bodyType l w.2.2.2 == 1 && leAt w.2.2.2 0 1 == 1

/-- TURF of a routed packet. -/
def bodyTurf (w : Waiting) : Nat := leAt w.2.2.2 6 1 % 64

/-- The turf an arbiter grants among candidates: the largest deficit, ties to the lower number; one of share 0 only when no other
asks (R167, R327). -/
def pickTurf (share : Nat → Nat) (deficits : Tbl Int) (cand : List Nat) : Option Nat :=
  let paid := cand.filter (fun t => share t != 0)
  (if paid.isEmpty then cand else paid).foldl (fun r t => match r with
    | none => some t
    | some u => if tget deficits 0 u < tget deficits 0 t then some t else r) none

/-- Every turf of a list gains its share (R167, R327). -/
def raiseTurfs (share : Nat → Nat) (turfs : List Nat) (deficits : Tbl Int) : Tbl Int :=
  turfs.foldl (fun (t : Tbl Int) u => tset t u (tget t 0 u + share u)) deficits

/-- The turfs of bodies, each once. -/
def bodyTurfs (ws : List Waiting) : List Nat := ws.foldl (fun l w => setIns l (bodyTurf w)) []

/-- The deficits at the egress of a link's fibre once every turf that waits there has its share (R327). -/
def State.egressDeficits (s : State) (l : Nat) : Tbl Int :=
  let f := linkFibre l
  let ws := [0, 1].flatMap (fun c => (s.link (fabLink f c)).waiting.filter (sharedBody (fabLink f c)))
  raiseTurfs (fibreShare s.turfMap) (bodyTurfs ws) (s.link (fabLink f 0)).deficits

/-- What a link sends next of the bodies that hold a credit: the oldest, or when that falls under the shares the oldest of the granted
turf, its virtual channels in turn (R292, R327). -/
def State.nextBody (s : State) (l : Nat) : Option Waiting :=
  let x := s.link l
  let ok := x.waiting.filter (fun w => decide (1 ≤ tget x.recCredits 0 w.1))
  match ok with
  | [] => none
  | w :: _ =>
    if !sharedBody l w then some w
    else
      let ws := ok.filter (sharedBody l)
      match pickTurf (fibreShare s.turfMap) (s.egressDeficits l) (bodyTurfs ws) with
      | none => none
      | some u =>
        let last := tget (s.link (fabLink (linkFibre l) 0)).vcLast 7 u
        ((List.range 8).map (fun i => (last + 1 + i) % 8)).findSome? (fun v => ws.find? (fun w => bodyTurf w == u && w.1 == v))

/-- A grant of the egress arbiter costs its turf 256 (R327). -/
def State.chargeBody (s : State) (l : Nat) (w : Waiting) : State :=
  if !sharedBody l w then s
  else
    let ds := s.egressDeficits l
    let u := bodyTurf w
    s.modLink (fabLink (linkFibre l) 0) (fun y => { y with
      deficits := tset ds u (tget ds 0 u - 256), vcLast := tset y.vcLast u w.1 })

/-- Send what waits at a link, each virtual channel in its order, as far as credits and the replay store allow (R219, R292).
The ns for which a body has stood at the head are counted as its fibre's credit stall (Table 20.1, log entry 140). -/
def State.pumpLink (s : State) (l : Nat) : Nat → State
  | 0 => s
  | f + 1 =>
    let x := s.link l
    match s.nextBody l with
    | none => s
    | some w =>
      if !x.room l 1 then s
      else
        let s := (s.chargeBody l w).modLink l (fun y => { y with
          waiting := newHead w.1 s.now (y.waiting.erase w), recCredits := tset y.recCredits w.1 (tget y.recCredits 0 w.1 - 1) })
        let s := s.bump 4 (linkFibre l) 7 (s.now - w.2.1)
        (s.sendFrame l (bodyType l w.2.2.2) (bodyRest l w.1 w.2.2.2) w.2.2.2).pumpLink l f

/-- Queue a body on a link and send what may go. -/
def State.queueLink (s : State) (l vc origin : Nat) (body : Bytes) : State :=
  let s := s.modLink l (fun x => { x with waiting := x.waiting ++ [(vc, s.now, origin, body)] })
  s.pumpLink l ((s.link l).waiting.length)

/-- A frame that waits in the replay store with its header brought up to date. -/
def refreshFrame (l : Nat) (x : LinkSt) (f : Bytes) : Bytes :=
  let b := seqAt l
  let st := linkState l (leAt f (b + 4) 1) x
  let head := splice (f.take 44) (b + 2) st
  head ++ natLe 4 (crc32c (head ++ f.drop 48)) ++ f.drop 48

/-- The held frames from a SEQ on. -/
def LinkSt.heldFrom (x : LinkSt) (exp : Nat) : List (Nat × Bytes × Nat) := x.heldFrames.filter (fun f => decide (seqAhead exp f.1 < 32768))

/-- Resend every held frame from a SEQ on (R219). -/
def State.replayFrom (s : State) (l exp : Nat) : State :=
  let fs := (s.link l).heldFrom exp
  let s := s.modLink l (fun y => { y with
    ackAt := s.now, heldFrames := y.heldFrames.map (fun f => if fs.contains f then (f.1, f.2.1, f.2.2 + 1) else f) })
  fs.foldl (fun s f => (s.emit (.linkFrame l (refreshFrame l (s.link l) f.2.1))).fibreCount l 2) s

/-- Return credits of a virtual channel by raising its total: records or frames, or granules (R220, R221, R292). -/
def State.returnCredits (s : State) (l vc records granules : Nat) : State :=
  s.modLink l (fun x => { x with
    txHcr := tset x.txHcr vc ((tget x.txHcr 0 vc + records) % 256), txGcr := tset x.txGcr vc ((tget x.txGcr 0 vc + granules) % 256) })

/-! ### Receiving (R219, R220) -/

/-- Credits gained from received totals. -/
def gainCredits (have_ old : Tbl Nat) (new : Bytes) : Tbl Nat :=
  (List.range 8).foldl (fun t i =>
    let d := ((new.getD i 0).toNat + 256 - tget old 0 i) % 256
    if d = 0 then t else tset t i (tget t 0 i + d)) have_

/-- The totals as they stand after a header. -/
def newTotals (new : Bytes) : Tbl Nat := (List.range 8).map (fun i => (i, (new.getD i 0).toNat))

/-- What every good frame's header carries: the link is alive, credits returned, frames acknowledged. -/
def State.linkHeader (s : State) (l : Nat) (f : Bytes) : State :=
  let b := seqAt l
  let x := s.link l
  let h := slice f (b + 8) 8
  let g := slice f (b + 16) 8
  let ack := leAt f (b + 2) 2
  let valid := (leAt f (b + 5) 1).testBit 1
  let kept := if valid then x.heldFrames.filter (fun y => decide (1 ≤ seqAhead ack y.1) && decide (seqAhead ack y.1 < 32768)) else x.heldFrames
  let s := s.modLink l (fun y => { y with
    lastGood := s.now, heldFrames := kept, ackAt := if kept.length < x.heldFrames.length then s.now else y.ackAt
    recCredits := gainCredits y.recCredits y.rxHcr h, rxHcr := newTotals h
    granCredits := if isFar l then gainCredits y.granCredits y.rxGcr g else y.granCredits
    rxGcr := if isFar l then newTotals g else y.rxGcr })
  s.fibreCount l 1

/-- RETRY of a header: the SEQ from which to resend. -/
def retryOf (l : Nat) (f : Bytes) : Option Nat :=
  if (leAt f (seqAt l + 5) 1).testBit 0 then some (leAt f (seqAt l + 6) 2) else none

/-- Accept a sequenced frame when its SEQ is the expected one; any other is discarded and RETRY set (R219). A lane map applies
from its SWITCH_SEQ (R225). -/
def State.acceptSeq (s : State) (l seq : Nat) : State × Bool :=
  let x := s.link l
  if seq = x.rxExp then
    let map := match x.rxMapAt with | some (n, m) => if n = seq then (m, none) else (x.rxMap, x.rxMapAt) | none => (x.rxMap, none)
    (s.modLink l (fun y => { y with
      rxExp := (seq + 1) % 65536, rxAny := true, retry := false, rxMap := map.1, rxMapAt := map.2 }), true)
  else (s.modLink l (fun y => { y with retry := true }), false)

/-! ### Identity (R223, R224, R290, Tables 8.9, 11.2) -/

/-- The lane map of a link before any change (R174): lanes 0 to 15, two spare positions. -/
def defaultMap : Bytes := (List.range 18).map (fun i => BitVec.ofNat 8 (if i < 16 then i else 16))

/-- The transmit map in force. -/
def LinkSt.map (x : LinkSt) : Bytes := if x.txMap.isEmpty then defaultMap else x.txMap

/-- Credits the module offers: completion records and read granules on a far sublink (Table 8.5), the minimum of Table 11.4 on a
fabric channel. -/
def offered (l : Nat) : Bytes × Bytes :=
  if isFar l then
    ((List.range 8).flatMap (fun v => natLe 2 (if v = 4 then 128 else if v = 5 then 4 else 0)),
     (List.range 8).flatMap (fun v => natLe 2 (if v = 3 then 256 else 0)))
  else
    ((List.range 8).flatMap (fun v => natLe 2 (if linkChannel l = 2 then (if v < 4 then 8 else 0)
        else if v < 4 then 32 else if v = 4 then 16 else if v < 7 then 4 else 0)), List.replicate 16 0)

/-- The module's IDENT message (log entry 22). -/
def State.identMsg (s : State) (l : Nat) : Bytes :=
  padTo 512 (natLe 2 1 ++ natLe 2 0x0101 ++ natLe 1 0 ++ natLe 1 (linkChannel l) ++ natLe 2 0 ++ natLe 8 Config.uid.toNat
    ++ natLe 4 s.bu.bootEpoch ++ natLe 4 0 ++ natLe 1 0 ++ natLe 1 (if isFar l then 32 else 0) ++ natLe 2 0
    ++ (offered l).1 ++ (offered l).2 ++ natLe 4 0 ++ (s.link l).map)

/-- A management message that carries nothing but its code and a map. -/
def mapMsg (code seq : Nat) (map : Bytes) : Bytes := padTo 512 (natLe 2 code ++ List.replicate 58 0 ++ natLe 2 seq ++ natLe 2 0 ++ padTo 18 map)

/-- Send a management message on a link: outside sequence before service, on VC5 after (Table 8.5, R291). -/
def State.sendMgmt (s : State) (l : Nat) (msg : Bytes) : State :=
  if (s.link l).state = .inService then s.queueLink l 5 l (padTo 512 msg) else s.emit (.mgmt l (padTo 512 msg))

/-- A message that travels in a sequenced frame of its own (R219, R291): a link out of service takes none, a frame out of turn is discarded
and asked for again, and one in turn returns its credit and is acted on (log entry 25). -/
def State.onMessage (s : State) (l vc : Nat) (seq : Half) (act : State → State) : State :=
  if (s.link l).state ≠ .inService then s
  else
    let r := (s.modLink l (fun x => { x with lastGood := s.now })).acceptSeq l seq.toNat
    if r.2 then act (r.1.returnCredits l vc 1 0) else r.1

/-- RCRED or GCRED of an identity message for a virtual channel. -/
def identCredit (msg : Bytes) (base vc : Nat) : Nat := leAt msg (base + 2 * vc) 2

/-- The protocol range includes version 1. -/
def protoOk (msg : Bytes) : Bool := decide (leAt msg 2 1 ≤ 1) && decide (1 ≤ leAt msg 3 1)

/-- The minimum a fabric peer offers (Table 11.4). -/
def fabCreditsOk (channel : Nat) (msg : Bytes) : Bool :=
  let c := identCredit msg 28
  if channel = 2 then (List.range 4).all (fun v => decide (8 ≤ c v))
  else (List.range 4).all (fun v => decide (32 ≤ c v)) && decide (16 ≤ c 4) && decide (4 ≤ c 5) && decide (4 ≤ c 6)

/-- The minimum a far unit offers (Table 8.5). -/
def farCreditsOk (msg : Bytes) : Bool :=
  (List.range 3).all (fun v => decide (32 ≤ identCredit msg 28 v)) && decide (64 ≤ identCredit msg 44 1) && decide (4 ≤ identCredit msg 28 5)

/-- The sublinks of a far unit in service. -/
def State.farUp (s : State) (u : Nat) : List Nat := ((List.range 8).map (fun i => 8 * u + i)).filter (fun l => (s.link l).state == .inService)

/-- Why a peer's identity is refused: the cause of Table 19.10 or of FAB_STATUS (R224, R290, R317); none when it is accepted. -/
def State.identRefusal (s : State) (l : Nat) (msg : Bytes) : Option Nat :=
  let role := leAt msg 4 1
  let sub := leAt msg 5 1
  if !protoOk msg then some 1
  else if isFar l then
    if role ≠ 1 ∨ sub ≠ linkChannel l then some 2
    else if leAt msg 20 4 = 0 then some 3
    else if !farCreditsOk msg then some 4
    else if !(s.farUp (l / 8)).isEmpty && leAt msg 8 8 != (s.fmu (l / 8)).uid.toNat then some 5 else none
  else if role ≠ 2 then some 2
  else if sub ≠ linkChannel l then some 3
  else if !fabCreditsOk (linkChannel l) msg then some 4 else none

/-- Initial credits of a peer's identity message. -/
def identCredits (msg : Bytes) (base : Nat) : Tbl Nat := (List.range 8).map (fun v => (v, identCredit msg base v))

/-! ### Lane maps of edge ports (R146, R175, R225) -/

/-- The edge port of a wavelength group of a fibre (R146). -/
def fibreGroupPort (f g : Nat) : Nat :=
  if f < 96 then (40 + f / 24) * 64 + 2 * (f % 24) + g else (40 + (f - 96) / 8) * 64 + 2 * (24 + (f - 96) % 8) + g

/-- The edge port whose lanes a link takes (R174, R216): none is the escape channel's own. -/
def linkPort (l : Nat) : Option Nat :=
  if linkChannel l = 2 ∧ 64 ≤ l then none else some (fibreGroupPort (linkFibre l) (linkChannel l % 2))

/-- LANE of a position (Table 7.7): lanes 0 to 15 on positions 0 to 15 and two spare idle positions where nothing has moved. -/
def PortSt.lane (x : PortSt) (pos : Nat) : Nat := tget x.lanes (if pos < 16 then pos else 16) pos

/-- The lane map of a port, one byte per position. -/
def PortSt.mapBytes (x : PortSt) : Bytes := (List.range 18).map (fun i => BitVec.ofNat 8 (x.lane i))

/-- Whether the module can send by a map that its peer asks for (R225): every lane once, none on a position without a ring. -/
def PortSt.canTake (x : PortSt) (map : Bytes) : Bool :=
  (List.range 16).all (fun k => map.count (BitVec.ofNat 8 k) == 1)
    && (List.range 18).all (fun i => decide (x.lane i ≠ 31) || decide (16 ≤ leAt map i 1))

/-- Announce the transmit map that waits (R225): LANE_MAP is the next frame of the link, and the map applies from the one after it. It
goes out once the map before it is in force and the frame has its credit and its place. -/
def State.pumpMap (s : State) (l : Nat) : State :=
  let x := s.link l
  match x.mapOut with
  | none => s
  | some map =>
    if x.txMapAt.isSome || !x.room l 1 || decide (tget x.recCredits 0 5 = 0) then s
    else
      let n := (x.txSeq + 1) % 65536
      (s.modLink l (fun y => { y with mapOut := none, txMapAt := some (n, map) })).sendMgmt l (mapMsg 4 n map)

/-- Send what waits at a link: bodies, then a lane map. -/
def State.pumpAll (s : State) (l : Nat) : State := (s.pumpLink l (s.link l).waiting.length).pumpMap l

/-- The module sends by another map on a link: at once where the link has not identified itself yet, else from the frame it announces
(R175, R225). -/
def State.changeMap (s : State) (l : Nat) (map : Bytes) : State :=
  match (s.link l).state with
  | .down | .training => s.modLink l (fun y => { y with txMap := map })
  | _ => (s.modLink l (fun y => { y with mapOut := some map })).pumpMap l

/-- The receive map in force. -/
def LinkSt.rxInForce (x : LinkSt) : Bytes := if x.rxMap.isEmpty then defaultMap else x.rxMap

/-- The receive map that the module would have: the one it has asked for, else the one in force. -/
def LinkSt.rxWanted (x : LinkSt) : Bytes := x.rxWant.getD x.rxInForce

/-- A lane map with a position retired and its lane, if another position takes it, there. -/
def moveLane (m : Bytes) (pos : Nat) (dst : Option Nat) : Bytes :=
  let m := match dst with | some i => m.set i (m.getD pos 31) | none => m
  m.set pos 31

/-- The module asks its peer for a receive map, at once or when their link comes into service (R225). -/
def State.wantMap (s : State) (l : Nat) (map : Bytes) : State :=
  let s := s.modLink l (fun y => { y with rxWant := some map })
  if (s.link l).state = .inService then s.sendMgmt l (mapMsg 3 0 map) else s

/-! ### The escape channel (R302) -/

/-- The link that escape packets take: the escape channel of ESC_UP, or of ESC_ALT while that is out of service. -/
def State.escapeLink (s : State) : Nat :=
  let up := fabLink (memNat s.fab.header 128 1 % 96) 2
  let alt := memNat s.fab.header 129 1
  if (s.link up).state ≠ .inService ∧ alt < 96 ∧ (s.link (fabLink alt 2)).state = .inService then fabLink alt 2 else up

/-- The escape packets that wait at an escape channel out of service go to the one that escape packets take. -/
def State.moveEscape (s : State) : State :=
  let e := s.escapeLink
  let from_ := ([memNat s.fab.header 128 1 % 96, memNat s.fab.header 129 1].map (fun f => fabLink f 2)).filter (fun l =>
    decide (l < fabLink 96 0) && l != e && (s.link l).state != .inService)
  if (s.link e).state ≠ .inService then s
  else from_.foldl (fun s l =>
    let ws := (s.link l).waiting
    let s := s.modLink l (fun y => { y with waiting := [] })
    (s.modLink e (fun y => { y with waiting := y.waiting ++ ws })).pumpAll e) s

/-! ### Loss (R219, R226, R314) -/

/-- A link goes out of service; it retrains, and what it holds waits. Escape packets at a lost escape channel take the other one; with both
out of service they wait, and turf 0 is noticed (R302). -/
def State.loseLink (s : State) (l : Nat) : State :=
  if (s.link l).state ≠ .inService then s
  else
    let s := s.modLink l (fun x => { x with
      state := .down, lostAt := some s.now, losses := x.losses + 1, ackSeen := false, cause := 0, retry := false })
    if isFar l then (if (s.farUp (l / 8)).isEmpty then s.modFmu (l / 8) (fun u => { u with noSublinkSince := some s.now }) else s)
    else if linkChannel l ≠ 2 then s
    else
      let s := s.moveEscape
      if (s.link s.escapeLink).state ≠ .inService ∧ !(s.link s.escapeLink).waiting.isEmpty then s.notice0 5 0x1008 [] else s

/-- Act on RETRY, or on an ACK that stalls: resend, or take the link down where a frame has been resent 8 times already. -/
def State.resendLink (s : State) (l exp : Nat) : State :=
  if ((s.link l).heldFrom exp).any (fun f => decide (8 ≤ f.2.2)) then s.loseLink l else s.replayFrom l exp

/-- Start training a link's lanes (R223). The identity that follows carries the transmit map, a waiting one with it (R225). -/
def State.trainLink (s : State) (l : Nat) : State :=
  s.modLink l (fun x => { x with
    state := .training, trainedAt := s.now, ackSeen := false, cause := 0, retrained := decide (x.state ≠ .down) || x.retrained
    txMap := match x.mapOut, x.txMapAt with | some m, _ => m | none, some (_, m) => m | none, none => x.txMap
    txMapAt := none, mapOut := none })

end Sys2Proof.Machine
end

