-- ==== Sys2Proof/Machine/ConfigSets.lean ====
section
/-!
DEFINITION. The configuration sets (18, Table 18.1): their sizes, defaults (R474), the checks a swap makes of a shadow set
(R299, R320, R321, R424, R455, R468), and the exchange itself (R462, R463).
-/
namespace Sys2Proof.Machine

/-! ### Sizes and defaults -/

/-- Bytes of a set (Table 18.1, Tables 11.6 to 11.8); 0 for a set without a fixed size or a reserved code. -/
def setSize (k : Nat) : Nat :=
  match k with
  | 1 => 112 | 2 => 80 | 3 => 4224 | 4 => 262144 | 5 => 786688 | 9 => 64 | _ => 0

/-- A byte string as a memory from address 0. -/
def bytesMem (bs : Bytes) : Memory := memWrite [] 0 bs

/-- FREQ_MHZ of Pn (Table 16.4). -/
def pFreq (n : Nat) : Nat := if n = 12 then 450 else 1500 - 75 * n
/-- Default VOLT_MV of Pn. -/
def pVolt (n : Nat) : Nat := 800 - 15 * n

/-- The default P-state table (R474): P0 to P12 ALLOWED, 10,500 W. -/
def defaultPstates : Bytes :=
  (List.range 13).flatMap (fun n => natLe 2 (pFreq n) ++ natLe 2 (pVolt n) ++ [1, 0, 0, 0]) ++ natLe 4 10500 ++ natLe 4 0

/-- The default thermal limits (Tables 17.3, 17.4). -/
def defaultLimits : Bytes := padTo 80 [92, 97, 90, 95]

/-- The default turf map (R322). -/
def defaultTurfMap : Bytes :=
  List.replicate 64 0
  ++ padTo 2048 (natLe 2 1 ++ natLe 2 256 ++ natLe 2 256 ++ natLe 2 8191 ++ natLe 4 (2 ^ 31 - 1) ++ natLe 4 65408 ++ natLe 8 allBits)
  ++ List.replicate (64 + 24 * 64 + 8 * 64) 0x80

/-- The default reset settings: HASH_SEED the low 32 bits of the UID, with the given floors. -/
def defaultReset (floors : Word) : Bytes := padTo 64 (natLe 4 Config.uid.toNat ++ natLe 4 floors.toNat)

/-! ### Checks of a shadow set (R467) -/

/-- R424. -/
def pstatesOk (m : Memory) : Bool :=
  (List.range 13).all (fun n =>
    memNat m (8 * n) 2 == pFreq n && decide (pVolt n ≤ memNat m (8 * n + 2) 2 + 20) && decide (memNat m (8 * n + 2) 2 ≤ pVolt n + 30)
    && decide (memNat m (8 * n + 4) 1 ≤ 1) && memNat m (8 * n + 5) 3 == 0)
  && memNat m 100 1 == 1 && decide (4000 ≤ memNat m 104 4) && decide (memNat m 104 4 ≤ 10500)
  && decide (memNat m 108 1 ≤ 1) && memNat m 109 3 == 0

/-- R455. -/
def limitsOk (m : Memory) : Bool :=
  let b := fun a => memNat m a 1
  decide (80 ≤ b 0 ∧ b 0 ≤ 92) && decide (b 0 + 2 ≤ b 1 ∧ b 1 ≤ 97) && decide (75 ≤ b 2 ∧ b 2 ≤ 90)
  && decide (b 2 + 2 ≤ b 3 ∧ b 3 ≤ 95) && memNat m 4 12 == 0
  && (List.range 8).all (fun n =>
      let o := 16 + 8 * n
      decide (b o ≤ 3) && (b o == 0 || (decide (2500 ≤ memNat m (o + 2) 2 ∧ memNat m (o + 2) 2 ≤ 5000)
        && decide (1000 ≤ memNat m (o + 4) 4 ∧ memNat m (o + 4) 4 ≤ 100000))))

/-- An owner byte without reserved bits that names a valid turf (R320). -/
def ownerByteOk (m : Memory) (a : Nat) : Bool :=
  let b := memNat m a 1
  !b.testBit 6 && (!b.testBit 7 || turfValid m (b % 64))

/-- R320. -/
def turfMapOk (m : Memory) : Bool :=
  let ts := List.range 64
  let vs := ts.filter (turfValid m)
  let disjoint := fun (f : Nat → Nat) (n : Nat) => (List.range n).all (fun i => decide ((vs.filter (fun t => (f t).testBit i)).length ≤ 1))
  memNat m 4 60 == 0
  && ts.all (fun t => decide (memNat m (0x40 + 32 * t) 1 ≤ 1) && memNat m (0x41 + 32 * t) 1 == 0
      && !(slotColumns m t).testBit 31 && memNat m (0x58 + 32 * t) 8 == 0)
  && (List.range (64 + 24 * 64 + 8 * 64)).all (fun i => ownerByteOk m (0x840 + i))
  && turfValid m 0
  && vs.all (fun t => decide (dynShare m t ≤ 256) && decide (fibreShare m t ≤ 256))
  && decide ((vs.map (dynShare m)).sum ≤ 256) && decide ((vs.map (fibreShare m)).sum ≤ 256)
  && disjoint (slotColumns m) 31 && disjoint (ceMask m) 64
  && decide ((vs.map (queueQuota m)).sum ≤ 8191) && decide ((vs.map (syncQuota m)).sum ≤ 65408)

/-- Under the active turf map of the state, an image's turf still owns everything the image uses (R321, R326). -/
def State.imageOwned (s : State) (img : ImageSt) : Bool :=
  let t := img.turf
  (setBits img.regionMask 64).all (fun r => regionOwner s.turfMap r == some t)
  && (setBits img.siteMask 24).all (fun m => s.ownsAny t (16 + m))
  && (setBits img.fmuMask 8).all (fun n => s.ownsAny t (40 + n))
  && (img.ceMask &&& ceMask s.turfMap t) == img.ceMask
  && img.placements.all (fun p => s.ownsRange t p.1 p.2.1 p.2.2)
  && img.retained.all (fun r => siteOwner s.turfMap r.1 r.2 == some t)
  && img.groupDefs.all (fun g => g.2.all (fun m => (List.range 64).all (fun j => siteOwner s.turfMap m j == some t)))
  && img.cal.entries.all (fun x => s.ownsPort t x.1 && s.ownsPort t (ceDst x.2)
      && s.locatorOk t img.cal x.2 x.1 true && s.locatorOk t img.cal x.2 (ceDst x.2) false)
  && img.cal.farBd.all (s.farBdOk t)

/-- R321: what a new turf map would take from a turf that uses it. -/
def State.turfMapBusy (s : State) (m : Memory) : Bool :=
  let s' := s.modCset 3 (fun c => { c with active := m })
  s.images.any (fun p => !s'.imageOwned p.2 || slotColumns m p.2.turf != slotColumns s.turfMap p.2.turf)
  || (List.range 64).any (fun t =>
      (decide (queueQuota m t < queueQuota s.turfMap t) && decide (queueQuota m t < s.queuesHeld t))
      || (decide (syncQuota m t < syncQuota s.turfMap t) && decide (syncQuota m t < s.syncHeld t))
      || (turfValid s.turfMap t && !turfValid m t && !(s.turfQueues t).isEmpty))

/-- The queues whose binding entries differ between two tables. -/
def bindDiff (a b : Memory) : List Nat :=
  (((a ++ b).filter (fun c => memGet a c.1 ≠ memGet b c.1)).map (fun c => c.1 / 32)).eraseDups

/-- R468 on one changed entry: only TURF, VEC_EN and VECTOR of an open queue other than queue 0 change. -/
def State.bindChangeOk (s : State) (a b : Memory) (q : Nat) : Bool :=
  q != 0 && decide ((s.queue q).state ≠ .closed)
  && (memNat a (32 * q) 1 ||| 8) == (memNat b (32 * q) 1 ||| 8)
  && memNat a (32 * q + 4) 28 == memNat b (32 * q + 4) 28
  && decide (memNat b (32 * q + 1) 1 < 64) && decide (memNat b (32 * q + 2) 2 < 2048)
  && turfValid s.turfMap (memNat b (32 * q + 1) 1)

/-- R468: the status that refuses a swap of the binding table. -/
def State.bindRefusal (s : State) (a b : Memory) : Option Nat :=
  let ds := bindDiff a b
  let turfAfter := fun (q : Nat) => if ds.contains q then memNat b (32 * q + 1) 1 else (s.queue q).turf
  let opened := (s.queues.filter (fun p => p.1 ≠ 0 ∧ p.2.state ≠ .closed)).map (fun p => p.1)
  if !ds.all (s.bindChangeOk a b) then some stBadArg
  else if ds.any (fun q => let t := turfAfter q
      t != (s.queue q).turf && decide (queueQuota s.turfMap t < (opened.filter (fun x => turfAfter x == t)).length)) then some stNoResource
  else if ds.any (fun q => s.accepted.any (fun x => x.q == q)) then some stBusy else none

/-- R467: the status that refuses an atomic swap; none when it may be announced. -/
def State.swapRefusal (s : State) (k : Nat) : Option Nat :=
  let c := s.cset k
  match k with
  | 1 => if pstatesOk c.shadow then none else some stBadArg
  | 2 => if limitsOk c.shadow then none else some stBadArg
  | 3 => if !turfMapOk c.shadow then some stBadArg else if s.turfMapBusy c.shadow then some stBusy else none
  | 4 => s.bindRefusal c.active c.shadow
  | _ => some stBadArg

/-! ### Routing tables (R261, R297, R299) -/

/-- Reserved fields of an endpoint entry. -/
def epEntryOk (m : Memory) (e : Nat) : Bool :=
  let f := memNat m (8 * e) 1
  let own := f.testBit 1
  decide (f < 4) && decide (memNat m (8 * e + 1) 1 < 64) && (own || memNat m (8 * e + 1) 1 == 0)
    && decide (memNat m (8 * e + 2) 2 < 2 ^ 14) && (!own || memNat m (8 * e + 4) 2 == 0) && decide (memNat m (8 * e + 4) 2 < 4096)
    && memNat m (8 * e + 6) 2 == 0

/-- The fibres a route entry names. -/
def routeFibres (m : Memory) (r : Nat) : List Nat :=
  (List.range (min 8 (memNat m (16 * r + 1) 1))).map (fun i => memNat m (16 * r + 2 + i) 1)

/-- Fields of a valid route entry; an invalid one is not used (R298). -/
def routeEntryOk (m : Memory) (r : Nat) : Bool :=
  let n := memNat m (16 * r + 1) 1
  decide (memNat m (16 * r + 11) 1 ≤ 1) && memNat m (16 * r + 12) 4 == 0 && decide (memNat m (16 * r) 1 < 64)
  && (!(memNat m (16 * r + 11) 1).testBit 0 ||
    (decide (1 ≤ n ∧ n ≤ 8) && (routeFibres m r).all (fun f => decide (f < 96)) && decide (routeFibres m r).Nodup
      && (List.range 8).all (fun i => decide (i < n) || memNat m (16 * r + 2 + i) 1 == 0xFF)))

/-- The entries of a table that some listed byte is part of; every other entry is all zeros, which no check of R299 refuses. -/
def listedEntries (m : Memory) (size count : Nat) : List Nat :=
  ((m.map (fun c => c.1 / size)).eraseDups).filter (fun e => decide (e < count))

/-- Whether an entry that is VALID in both tables names the same OWN, LOCAL and MODULE (R299). The entries that the module makes itself for its
own endpoints (R263) know no pod. -/
def State.sameEntry (s : State) (ep : Memory) (e : Nat) : Bool :=
  if (memNat s.fab.epTable (8 * e) 1).testBit 0 then memNat ep (8 * e) 4 == s.epField (8 * e) 4
  else memNat ep (8 * e) 2 == s.epField (8 * e) 2 && memNat ep (8 * e + 2) 2 % 1024 == s.epField (8 * e + 2) 2 % 1024

/-- R299 on the shadow tables. -/
def State.routesOk (s : State) : Bool :=
  let ep := s.fab.epShadow
  let rt := s.fab.routesShadow
  let hd := s.fab.headerShadow
  let eps := listedEntries ep 8 65536
  let own := (eps.filter (fun e => (memNat ep (8 * e) 1) % 4 == 3)).map (fun e => memNat ep (8 * e + 1) 1)
  let rts := (listedEntries rt 16 16384).filter (fun r => (memNat rt (16 * r + 11) 1).testBit 0)
  let valid := eps.filter (fun e => (memNat ep (8 * e) 1) % 4 == 1)
  memNat hd 130 126 == 0 && eps.all (epEntryOk ep) && (listedEntries rt 16 16384).all (routeEntryOk rt)
  && (List.range 64).all (fun ix => !s.registered ix || (own.filter (· == ix)).length == 1)
  && eps.all (fun e => !(memNat ep (8 * e) 1).testBit 0 || !(s.epByte (8 * e)).toNat.testBit 0 || s.sameEntry ep e)
  && (List.range 64).all (fun t => valid.all (fun e => decide (memNat hd (2 * t) 2 + memNat ep (8 * e + 4) 2 < 16384)))
  && rts.all (fun x => rts.all (fun y => memNat rt (16 * x) 1 == memNat rt (16 * y) 1
      || memNat rt (16 * x + 10) 1 != memNat rt (16 * y + 10) 1 || (routeFibres rt x).all (fun f => !(routeFibres rt y).contains f)))

/-! ### The exchange (R462, R463) -/

/-- Exchange the two sets of an atomically swapped kind and raise its generation; MAP_EPOCH is written at the swap. -/
def State.exchange (s : State) (k : Nat) : State :=
  s.modCset k (fun c =>
    let g := (c.generation + 1) % 2 ^ 32
    { c with
      active := if k = 3 then memWrite c.shadow 0 (natLe 4 g) else c.shadow, shadow := c.active, generation := g, announced := none })

/-- The rebinding a swap of the binding table does to one queue (R468). -/
def State.rebind (s : State) (q : Nat) : State :=
  let m := (s.cset 4).active
  let t := memNat m (32 * q + 1) 1
  let s := if t ≠ (s.queue q).turf then s.revokeQueueCtrs q else s
  s.modQueue q (fun x => { x with turf := t, vecEn := (memNat m (32 * q) 1).testBit 3, vector := memNat m (32 * q + 2) 2 })

/-- A swap takes effect: the exchange and what it changes elsewhere (R424, R466 to R468, R494). -/
def State.takeSwap (s : State) (k : Nat) : State :=
  let old := (s.cset k).active
  let s := s.exchange k
  let new := (s.cset k).active
  match k with
  | 1 =>
    let v := 8 * s.pw.pstate + 2
    let s := s.considerSwitch s.now
    if s.pw.switchAt.isNone && memNat old v 2 != memNat new v 2 then
      { s with pw := { s.pw with switchAt := some (s.earliestSwitch, s.pw.pstate) } }
    else s
  | 3 =>
    let moved := fun (c : Nat) => regionOwner old (regionOf c) != regionOwner new (regionOf c)
    { s with cells := tmap s.cells (fun c x => if moved c then { x with ctrs := [], ctrCfg := [] } else x) }
  | 4 => (bindDiff old new).foldl (fun s q => s.rebind q) s
  | _ => s

/-! ### Calendar and routing swaps (R304, R462, R469) -/

/-- Exchange a turf's calendar sets and set the module's calendar epoch; an unload empties both (R462, R518). The far engines discard what they
have read for slots of the old calendar (R470). -/
def State.swapCalendar (s : State) (t epoch : Nat) (empty : Bool) : State :=
  let c := s.cal t
  let d : CalSets := if empty then {} else { active := c.shadow, shadow := c.active }
  let fmus := tmap s.fmus (fun _ u => { u with billets := u.billets.filter (fun b => b.isWrite || b.turf != t) })
  ({ s with cals := tset s.cals t d, fmus := fmus } : State).modCset 8 (fun x => { x with generation := epoch })

/-- The flat endpoint numbers that a table's OWN entries give the module's local indices (Table 11.6); one that it does not name keeps its
number (R262). -/
def State.ownFlats (s : State) (ep : Memory) : List Nat :=
  let own := (listedEntries ep 8 65536).filter (fun e => memNat ep (8 * e) 1 % 4 == 3)
  (List.range 64).map (fun ix => (own.find? (fun e => memNat ep (8 * e + 1) 1 == ix)).getD (s.flatOf ix))

/-- Exchange the endpoint and route tables; where the new table gives an own endpoint another number, that is its number (R297, R517). -/
def State.swapRoutes (s : State) : State :=
  let f := s.fab
  let g := { f with
    epTable := f.epShadow, epShadow := f.epTable, routes := f.routesShadow, routesShadow := f.routes
    header := f.headerShadow, headerShadow := f.header }
  let flats := s.ownFlats f.epShadow
  let s := ({ s with fab := g }).modCset 5 (fun x => { x with generation := (x.generation + 1) % 2 ^ 32 })
  if flats = (List.range 64).map s.flatOf then s else ({ s with fab := { s.fab with flat := flats } } : State).reflat

/-- The calendar generation a drained swap gives: ARG1, or the next (Table 18.2). -/
def State.nextCal (s : State) (arg1 : Nat) : Nat := if arg1 = 0 then ((s.cset 8).generation + 1) % 2 ^ 32 else arg1

/-- Complete a command by its queue and slot. -/
def State.completeAt (s : State) (c : Nat × Nat) (status : Nat) (result : Nat) : State :=
  match s.acceptedAt c.1 c.2 with
  | none => s
  | some a => s.complete a status 0 (BitVec.ofNat 64 result)

/-- Nothing scheduled is on its way (R469 step 2): every billet sent has passed its CRC, no repair is pending, every far-destined WRITE has
completed. -/
def State.billetsQuiet (s : State) : Bool :=
  s.ports.all (fun p => p.2.pending.isEmpty) && s.fmus.all (fun p => p.2.billets.all (fun b => b.done || !b.isWrite))

/-- No fabric request of the module is unanswered and every egress queue is empty (R304 step 3). -/
def State.fabricQuiet (s : State) : Bool :=
  !s.ops.any (fun o => o.peer.isSome && !o.waitingWindow) && s.links.all (fun p => decide (p.1 < 64) || p.2.waiting.isEmpty)

/-- What ends a calendar's drained swap: the set is swapped, and with an unload the image is released (R518). -/
def State.endCalendar (s : State) (d : Drain) : State :=
  let s := s.swapCalendar d.turf d.epoch d.unload.isSome
  match d.unload with
  | none => s
  | some h => s.releaseImage h

/-- Send a management message on every in-service fabric fibre, on its channel 0 (R308, R309). -/
def State.sendFabric (s : State) (msg : Bytes) : State :=
  ((List.range 96).filter (fun f => (s.link (fabLink f 0)).state == .inService && (s.link (fabLink f 1)).state == .inService)).foldl
    (fun s f => s.sendMgmt (fabLink f 0) msg) s

/-- LEAVE (Table 11.13). -/
def State.leaveMsg (s : State) : Bytes :=
  natLe 2 0x24 ++ natLe 2 0 ++ natLe 4 s.fab.epoch ++ natLe 8 Config.uid.toNat ++ List.replicate 16 0 ++ natLe 2 s.fab.moduleNo

/-- What the module is in the exchange of join messages, which goes on while its other fabric activity is halted (R310). -/
def FabricSt.joinPhase (f : FabricSt) : JoinPhase := if f.phase = .halted then f.haltedAs else f.phase

/-- The module leaves the fabric (Table 11.12): a member tells the others. -/
def State.leaveFabric (s : State) : State :=
  let s := if s.fab.joinPhase = .member ∨ s.fab.joinPhase = .founder then s.sendFabric s.leaveMsg else s
  { s with fab := { s.fab with phase := .left, haltedAs := .none, members := [], claims := [] } }

/-- A drained swap in progress goes on when what it waits for has come about (R304, R469): a routing swap then completes; a
calendar swap announces the end of its hold and completes there. -/
def State.drainProgress (s : State) : State :=
  match s.drain with
  | none => s
  | some d =>
    if d.leaving then s
    else if d.routing then
      if s.fabricQuiet then
        let s := if d.fabLeave then s.leaveFabric else s.swapRoutes
        let s := { s with drain := none }
        (s.completeAt d.cmd stOk (if d.fabLeave then 0 else (s.cset 5).generation)).pumpWindows
      else s
    else if s.holds.swapOn && s.billetsQuiet then
      let s := s.endCalendar d
      let n := s.now + 2000
      let s := { s with drain := some { d with leaving := true }, holds := { s.holds with swapEnd := some n } }
      s.announceAll 4 (8 + 2 * 2 ^ 9 + d.epoch % 65536 * 2 ^ 16) (BitVec.ofNat 64 n)
    else s

/-- Start a drained swap of a turf's calendar, or make it at once when no batch runs (R469): `unload` names the image an
UNLOAD_IMAGE removes. -/
def State.startCalendarSwap (s : State) (a : Accepted) (t epoch : Nat) (unload : Option Nat) : State :=
  let d : Drain := { routing := false, turf := t, cmd := (a.q, a.slot), epoch := epoch, unload := unload, since := s.now + 2000 }
  if s.batches.all (fun p => !p.2.started) then
    (s.endCalendar d).done a (if unload.isSome then 0 else epoch)
  else
    let s := { s with drain := some d, holds := { s.holds with swapAt := some (s.now + 2000) } }
    s.announceAll 4 (8 + 1 * 2 ^ 9 + epoch % 65536 * 2 ^ 16) (BitVec.ofNat 64 (s.now + 2000))

end Sys2Proof.Machine
end

