-- ==== Sys2Proof/Machine/CfgCmds.lean ====
section
/-!
DEFINITION. The configuration commands (R464 to R476), UNLOAD_IMAGE (R518), the swap events of R466 and R469, the bound of a
drained swap (R304, R469) and the commit of a bank (R473).
-/
namespace Sys2Proof.Machine

/-- From a turf other than 0 only SET 0x08 of the queue's own turf is open (R464). -/
def State.cfgDenied (s : State) (a : Accepted) : Bool := decide ((s.queue a.q).turf ≠ 0) && sqArg a.entry 0 != 8

/-- CFG_WRITE_SHADOW (R465, Table 18.2). -/
def execCfgWriteShadow (q : QueueIx) (slot : SlotIx) (data : Option Bytes) (s : State) : Host.Outcome State Fault Refusal :=
  match s.acceptedAt q.val slot.val with
  | none => .next s
  | some a =>
    let host := (sqArg a.entry 4).testBit 0
    if !s.readFits host (sqArg a.entry 1) (sqArg a.entry 3) data then .fault .illFormed
    else .next (s.withCmd q slot 0x0400 (fun _ => true) (fun s a =>
      let k := sqArg a.entry 0
      let addr := sqArg a.entry 1
      let off := sqArg a.entry 2
      let len := sqArg a.entry 3
      if k = 5 ∨ k = 8 ∨ setSize k < off + len ∨ setSize k = 0 then s.fail a stBadArg
      else if (s.cset k).announced.isSome then s.fail a stBusy
      else match s.addrCheck a.q (s.queue a.q).turf host addr len with
      | some st => s.fail a st
      | none =>
        let s := s.meetIn host addr len
        match s.readIn host addr len data with
        | none => s.fail a stInternal
        | some b =>
          let s := s.modCset k (fun c =>
            let m := memWrite c.shadow off b
            { c with shadow := if k = 9 then memWrite m 4 (natLe 4 s.firm.floors.toNat) else m })
          s.done a 0))

/-- Check and announce an atomic swap for a count, 0 for the earliest (R466, R467). -/
def State.announceSwap (s : State) (a : Accepted) (k count : Nat) : State :=
  if k = 5 ∨ k = 8 then s.fail a stNeedsDrain
  else if !(decide (1 ≤ k ∧ k ≤ 4)) then s.fail a stBadArg
  else if (s.cset k).announced.isSome then s.fail a stBusy
  else match s.swapRefusal k with
  | some st => s.fail a st
  | none =>
    if count ≠ 0 ∧ (count < s.now + 10000 ∨ s.now + 10000000000 < count) then s.fail a stBadArg
    else
      let n := if count = 0 then s.now + 10000 else count
      let g := ((s.cset k).generation + 1) % 2 ^ 32
      let s := s.modCset k (fun c => { c with announced := some (n, g, some (a.q, a.slot)) })
      s.announceAll 4 (k + g % 65536 * 2 ^ 16) (BitVec.ofNat 64 n)

/-- CFG_SWAP (R466, R467); CFG_SWAP_DRAINED naming another set acts as it with ARG1 = 0 (R471). -/
def execCfgSwap (q : QueueIx) (slot : SlotIx) (s : State) : Host.Outcome State Fault Refusal :=
  let run := fun (count : BitVec 512 → Nat) (s : State) (a : Accepted) =>
    if s.cfgDenied a then s.fail a stDenied else s.announceSwap a (sqArg a.entry 0) (count a.entry)
  .next (match s.acceptedAt q.val slot.val with
    | none => s
    | some a =>
      if sqOpcode a.entry = 0x0402 then
        s.withCmd q slot 0x0402 (fun w => sqArg w 0 != 5 && sqArg w 0 != 8) (run (fun _ => 0))
      else s.withCmd q slot 0x0401 (fun _ => true) (run (fun w => sqArg w 1)))

/-- Whether a turf has a batch running or arming. -/
def State.batchHeld (s : State) (t : Nat) : Bool := (s.batch t).isSome

/-- CFG_SWAP_DRAINED on SET 0x08 (R469). -/
def execCfgSwapDrainedCalendar (q : QueueIx) (slot : SlotIx) (s : State) : Host.Outcome State Fault Refusal :=
  .next (s.withCmd q slot 0x0402 (fun w => sqArg w 0 == 8) (fun s a =>
    let t := sqTurf a.entry
    let e := sqArg a.entry 1
    if 2 ^ 32 ≤ e ∨ (e ≠ 0 ∧ e = (s.cset 8).generation) then s.fail a stBadArg
    else if s.batchHeld t || s.drain.isSome then s.fail a stBusy
    else s.startCalendarSwap a t (s.nextCal e) none))

/-- Whether a running batch's calendar names an edge port of a fabric fibre (R304). -/
def State.fabricScheduled (s : State) : Bool :=
  let fabric := fun (p : Nat) => decide (40 ≤ p / 64) && (portFmu p).isNone
  s.batches.any (fun b => b.2.started && (s.cal b.1).active.entries.any (fun e => fabric e.1 || fabric (ceDst e.2)))

/-- CFG_SWAP_DRAINED on SET 0x05 (R304, R299). -/
def execCfgSwapDrainedRouting (q : QueueIx) (slot : SlotIx) (s : State) : Host.Outcome State Fault Refusal :=
  .next (s.withCmd q slot 0x0402 (fun w => sqArg w 0 == 5) (fun s a =>
    if s.cfgDenied a then s.fail a stDenied
    else if !s.routesOk then s.fail a stBadArg
    else if s.drain.isSome || s.fabricScheduled then s.fail a stBusy
    else
      let d : Drain := { routing := true, turf := 0, cmd := (a.q, a.slot), epoch := 0, since := s.now }
      ({ s with drain := some d }).drainProgress))

/-- UNLOAD_IMAGE (R518, R548). -/
def execUnloadImage (q : QueueIx) (slot : SlotIx) (s : State) : Host.Outcome State Fault Refusal :=
  .next (s.withCmd q slot 0x0101 (fun _ => true) (fun s a =>
    let h := sqArg a.entry 0
    match tfind s.images h with
    | none => s.fail a stBadArg
    | some img =>
      let t := (s.queue a.q).turf
      if !img.ready then s.fail a stBadArg
      else if t ≠ 0 ∧ img.turf ≠ t then s.fail a stDenied
      else if s.batchHeld img.turf || s.drain.isSome then s.fail a stBusy
      else s.startCalendarSwap a img.turf (s.nextCal 0) (some h)))

/-! ### Swap events -/

/-- The effect of an announcement on the block that receives it (Table 18.3): a swap or its withdrawal, or a swap hold's start
or end. Heartwood's own record of it is the same field, so an announcement already known changes nothing. -/
def State.swapAnnounced (s : State) (arg : Word) (count : DWord) : State :=
  let v := arg.toNat
  let k := bits v 7 0
  let c := s.cset k
  let g := (c.generation + 1) % 2 ^ 32
  match bits v 10 9 with
  | 0 =>
    if v.testBit 8 then s.modCset k (fun c => { c with announced := none })
    else if c.announced.isNone && decide (1 ≤ k ∧ k ≤ 4) && g % 65536 == bits v 31 16 then
      s.modCset k (fun c => { c with announced := some (count.toNat, g, none) })
    else s
  | 1 => if s.holds.swapOn || s.drain.isNone then s else { s with holds := { s.holds with swapAt := some count.toNat } }
  | 2 => if s.holds.swapOn then { s with holds := { s.holds with swapEnd := some count.toNat } } else s
  | _ => s

/-- SWAP_ANNOUNCEMENT (R466, Table 18.3). -/
def execSwapAnnouncement (arg : Word) (count : DWord) (s : State) : Host.Outcome State Fault Refusal := .next (s.swapAnnounced arg count)

/-- CFG_SWAP_TAKE_EFFECT (R466): at the announced count every block swaps, and the command completes. -/
def execCfgSwapTakeEffect (set : Byte) (now : Nat) (s : State) : Host.Outcome State Fault Refusal :=
  let s := s.at_ now
  match (s.cset set.toNat).announced with
  | none => .next s
  | some (n, g, cmd) =>
    if s.now < n then .next s
    else
      let s := s.takeSwap set.toNat
      .next (match cmd with
        | none => s
        | some c => s.completeAt c stOk g)

/-- SWAP_HOLD_START (R469). -/
def execSwapHoldStart (now : Nat) (s : State) : Host.Outcome State Fault Refusal :=
  let s := s.at_ now
  match s.holds.swapAt with
  | none => .next s
  | some n =>
    if s.now < n then .next s
    else
      let s := { s with holds := { s.holds with swapAt := none, swapOn := true, swapEnd := none } }
      let d := s.drain.map (fun (d : Drain) => { d with since := s.now })
      .next ({ s with drain := d } : State).drainProgress

/-- SWAP_HOLD_END (R469, R470): the hold ends at its announced count and a swap that has been made completes. -/
def execSwapHoldEnd (now : Nat) (s : State) : Host.Outcome State Fault Refusal :=
  let s := s.at_ now
  match s.holds.swapEnd with
  | none => .next s
  | some n =>
    if s.now < n then .next s
    else
      let s := { s with holds := { s.holds with swapOn := false, swapEnd := none } }
      match s.drain with
      | none => .next s
      | some d =>
        if d.leaving then
          .next (({ s with drain := none }).completeAt d.cmd stOk (if d.unload.isSome then 0 else d.epoch))
        else .next s

/-- DRAIN_WAIT_TIMEOUT (R304, R469): the old set stays, the held requests go, the hold ends. -/
def execDrainWaitTimeout (now : Nat) (s : State) : Host.Outcome State Fault Refusal :=
  let s := s.at_ now
  match s.drain with
  | none => .next s
  | some d =>
    if d.leaving ∨ s.now < d.since + 50000 ∨ (!d.routing && !s.holds.swapOn) then .next s
    else
      let s := { s with drain := none }
      let s := s.completeAt d.cmd stDrainTimeout 0
      if d.routing then .next s.pumpWindows
      else
        let n := s.now + 2000
        let s := { s with holds := { s.holds with swapEnd := some n } }
        .next (s.announceAll 4 (8 + 2 * 2 ^ 9 + (s.cset 8).generation % 65536 * 2 ^ 16) (BitVec.ofNat 64 n))

/-! ### The settings store (R472 to R476) -/

/-- The bank CFG_STORE writes (R475): the active sets 1 to 3, the shadow record of SET 9 and the floors, or the defaults. -/
def State.storeBank (s : State) (defaults : Bool) : SetBank :=
  let f := natLe 4 s.firm.floors.toNat
  { valid := false, seq := s.firm.seqInForce + 1, floors := s.firm.floors
    sets := if defaults then
        [(1, bytesMem defaultPstates), (2, bytesMem defaultLimits), (3, bytesMem defaultTurfMap), (9, bytesMem (defaultReset s.firm.floors))]
      else [(1, (s.cset 1).active), (2, (s.cset 2).active), (3, (s.cset 3).active), (9, memWrite (s.cset 9).shadow 4 f)] }

/-- Begin a write of the settings bank that is not in force: its commit record is invalidated first (R473). -/
def State.beginStore (s : State) (b : SetBank) (cmd : Option (Nat × Nat)) : State :=
  let toB := !s.firm.setInForceB
  let w : BankWrite := { heartwood := false, bankB := toB, settings := some b, cmd := cmd }
  let f := if toB then { s.firm with setB := { s.firm.setB with valid := false } } else { s.firm with setA := { s.firm.setA with valid := false } }
  { s with firm := { f with write := some w } }

/-- A swap of SET 0x01 to 0x03 is announced. -/
def State.storedSwap (s : State) : Bool := [1, 2, 3].any (fun k => (s.cset k).announced.isSome)

/-- Whether ARG holds the bitwise complement of the entry's TAG (R475, R387). -/
def confirms (w : BitVec 512) (arg : Nat) : Bool := arg == 2 ^ 32 - 1 - (sqTag w).toNat

/-- CFG_STORE (R475). -/
def execCfgStore (q : QueueIx) (slot : SlotIx) (s : State) : Host.Outcome State Fault Refusal :=
  .next (s.withCmd q slot 0x0403 (fun _ => true) (fun s a =>
    if !confirms a.entry (sqArg a.entry 0) then s.fail a stBadArg
    else if s.firm.write.isSome || s.storedSwap then s.fail a stBusy
    else s.beginStore (s.storeBank ((sqArg a.entry 1).testBit 0)) (some (a.q, a.slot))))

/-- Complete the command at a place, when there is one. -/
def State.completeOpt (s : State) (c : Option (Nat × Nat)) (status result : Nat) : State :=
  match c with
  | some c => s.completeAt c status result
  | none => s

/-- The bank write `w` has ended: its command completes, and the bring-up step or the activation that made it ends (R388, R404, R475). -/
def State.endWrite (s : State) (w : BankWrite) (status result : Nat) : State :=
  let s := { s with firm := { s.firm with write := none } }
  let s := s.completeOpt w.cmd status result
  if w.fromWindow then
    { s with bu := { s.bu with outcome := if status = stOk then (0, 0) else (0x0F, BitVec.ofNat 64 (3 * 2 ^ 8)) } }
  else if w.heartwood then { s with firm := { s.firm with activating := none } } else s

/-- BANK_COMMIT (R473, R475, R388, R404): the read-back of the bank being written ends. One that fails is rewritten once. -/
def execBankCommit (readBackOk : Bool) (s : State) : Host.Outcome State Fault Refusal :=
  match s.firm.write with
  | none => .next s
  | some w =>
    if !readBackOk then
      if !w.rewritten && !w.heartwood then .next { s with firm := { s.firm with write := some { w with rewritten := true } } }
      else
        let s := { s with firm := { s.firm with storeFail := s.firm.storeFail || !w.heartwood } }
        .next ((if w.heartwood then s else s.notice0 6 0x1106 []).endWrite w stInternal 0)
    else match w.settings, w.image with
    | some b, _ =>
      let b := { b with valid := true }
      let f := if w.bankB then { s.firm with setB := b } else { s.firm with setA := b }
      let s := { s with firm := { f with setInForceB := w.bankB, seqInForce := b.seq } }
      .next (s.endWrite w stOk (b.seq + b2n w.bankB * 2 ^ 32))
    | none, some i =>
      let old := if w.bankB then s.firm.bankB else s.firm.bankA
      let other := if w.bankB then s.firm.bankA else s.firm.bankB
      let b : HwBank := { valid := true, seq := max old.seq other.seq + 1, img := some i }
      let s := { s with firm := if w.bankB then { s.firm with bankB := b } else { s.firm with bankA := b } }
      .next (s.endWrite w stOk (i.release + 2 ^ 16))
    | none, none => .next (s.endWrite w stOk 0)

/-! ### CFG_READ (R464) -/

/-- A turf's calendar in the layout of an image's sections 2 to 5 (log entry 19). -/
def calendarBytes (c : Calendar) : Bytes :=
  let ports := (c.entries.map (fun e => e.1)).eraseDups
  let bd := fun (l : List (Nat × Nat × BitVec 128)) => ((l.map (fun d => d.1)).eraseDups).flatMap (fun e =>
    natLe 16 e ++ (List.range 256).flatMap (fun i => match bdFind l e i with | some d => natLe 16 d.toNat | none => natLe 16 0))
  ports.flatMap (fun p =>
    let es := c.entries.filter (fun e => e.1 = p)
    natLe 2 p ++ natLe 2 es.length ++ natLe 12 0 ++ es.flatMap (fun e => natLe 32 e.2.toNat))
  ++ c.gaps.flatMap (fun g => natLe 4 g.1 ++ natLe 4 g.2) ++ bd c.farBd ++ bd c.fabBd

/-- The settings bank in force, none when neither is valid. -/
def State.bankInForce (s : State) : Option SetBank :=
  let b := if s.firm.setInForceB then s.firm.setB else s.firm.setA
  if b.valid then some b else none

/-- The bytes CFG_READ reads: copy 0 active, 1 shadow, 2 stored; none for a range the set does not have. -/
def State.cfgBytes (s : State) (t k copy off len : Nat) : Option Bytes :=
  let mem := fun (m : Memory) => if off + len ≤ setSize k then some (memRead m off len) else none
  let pick := fun (a b : Memory) => mem (if copy = 0 then a else b)
  if k = 8 then
    let c := calendarBytes (if copy = 0 then (s.cal t).active else (s.cal t).shadow)
    if copy ≤ 1 ∧ off + len ≤ c.length then some (slice c off len) else none
  else if k = 5 then
    if copy ≤ 1 ∧ off + len ≤ setSize 5 then
      let f := s.fab
      let get := fun (a : Nat) =>
        if a < 524288 then (if copy = 0 then s.epByte a else memGet f.epShadow a)
        else if a < 786432 then memGet (if copy = 0 then f.routes else f.routesShadow) (a - 524288)
        else memGet (if copy = 0 then f.header else f.headerShadow) (a - 786432)
      some ((List.range len).map (fun i => get (off + i)))
    else none
  else if copy ≤ 1 then pick (s.cset k).active (s.cset k).shadow
  else if copy = 2 ∧ (k ∈ [1, 2, 3, 9]) then
    match s.bankInForce with
    | some b => mem (tget b.sets [] k)
    | none => mem []
  else none

/-- CFG_READ (R464, Table 18.2). -/
def execCfgRead (q : QueueIx) (slot : SlotIx) (s : State) : Host.Outcome State Fault Refusal :=
  .next (s.withCmd q slot 0x0404 (fun _ => true) (fun s a =>
    let w := a.entry
    let len := sqArg w 4
    if s.cfgDenied a then s.fail a stDenied
    else if !(decide (sqArg w 0 ∈ [1, 2, 3, 4, 5, 8, 9])) then s.fail a stBadArg
    else match s.cfgBytes (sqTurf w) (sqArg w 0) (sqArg w 1) (sqArg w 3) len with
    | none => s.fail a stBadArg
    | some b => s.output a ((sqArg w 5).testBit 0) (sqArg w 2) b len))

end Sys2Proof.Machine
end

