-- ==== Sys2Proof/Machine/Packets.lean ====
section
/-!
DEFINITION. Tomic requests as packets and their answers (R265 to R270): the checks that a request's headers alone decide, and the answer's
way back to the issuer.
-/
namespace Sys2Proof
open Machine

/-! ### Fields of the operation header (Table 10.3) -/

/-- OPCODE. -/
def Packet.op (p : Packet) : Nat := hfld p.hdr 0 1
/-- OTYPE. -/
def Packet.otype (p : Packet) : Nat := hfld p.hdr 1 1
/-- FLAGS. -/
def Packet.flags (p : Packet) : Nat := hfld p.hdr 2 1
/-- STATUS. -/
def Packet.status (p : Packet) : Nat := hfld p.hdr 3 1
/-- LEN. -/
def Packet.len (p : Packet) : Nat := hfld p.hdr 4 2
/-- SRC_UNIT. -/
def Packet.unit (p : Packet) : Nat := hfld p.hdr 6 2
/-- TAG. -/
def Packet.tag (p : Packet) : Nat := hfld p.hdr 8 4
/-- SRC_EP. -/
def Packet.srcEp (p : Packet) : Nat := hfld p.hdr 12 2
/-- ADDR. -/
def Packet.addr (p : Packet) : Nat := hfld p.hdr 16 8
/-- OPERAND. -/
def Packet.operand (p : Packet) : BitVec 128 := BitVec.ofNat 128 (hfld p.hdr 24 16)
/-- LAST. -/
def Packet.last (p : Packet) : Bool := p.flags.testBit 0
/-- POISON, of the header or of the payload as the packet carries it. -/
def Packet.poisoned (p : Packet) : Bool := p.flags.testBit 1 || p.poison

/-- Bytes of an atomic's operand by OTYPE (Table 10.2). -/
def otypeBytes (t : Nat) : Nat := if t = 1 then 8 else if t = 3 then 16 else 4

/-- Reserved bits of the header and STATUS are 0 (R266). -/
def Packet.headerOk (p : Packet) : Bool :=
  decide (p.otype < 4) && decide (p.flags < 16) && p.status == 0 && hfld p.hdr 14 2 == 0 && hfld p.hdr 40 8 == 0

/-- The extension an operation must and may carry (R267, Table 10.4). -/
def Packet.extOk (p : Packet) : Bool :=
  match p.ext with
  | none => !(p.op == 0x10 && p.otype == 3) && !(p.op == 2 && p.last)
  | some e =>
    let v := e.toNat
    if p.op = 0x10 ∧ p.otype = 3 then bits v 7 0 == 1 && bits v 127 24 == 0
    else if p.op = 2 ∧ p.last then bits v 15 0 == 2 && decide (128 ≤ bits v 31 16) && bits v 127 64 == 0
    else false

/-- A LOAD or STORE range of R265. -/
def rangeShapeOk (addr len : Nat) : Bool :=
  decide (1 ≤ len) && decide (len ≤ 4096) && decide (addr % 4096 + len ≤ 4096)
    && ((addr % 256 == 0 && len % 256 == 0) || decide (addr % 256 + len ≤ 256))

/-- OTYPE, LEN and alignment of R265; a reserved OPCODE has none. -/
def Packet.shapeOk (p : Packet) : Bool :=
  match p.op with
  | 0x01 => p.otype == 0 && rangeShapeOk p.addr p.len
  | 0x02 => p.otype == 0 && rangeShapeOk p.addr p.len && p.data.length == p.len
  | 0x10 => p.len == 0 && p.addr % otypeBytes p.otype == 0
  | 0x11 | 0x12 => decide (p.otype ≤ 2) && p.len == 0 && p.addr % otypeBytes p.otype == 0
  | 0x13 => p.otype == 1 && p.len == 0 && p.addr % 8 == 0
  | _ => false

/-- Whether a request's headers satisfy R265 to R267. -/
def Packet.requestOk (p : Packet) : Bool := p.headerOk && p.extOk && p.shapeOk

/-- A reserved operation code (Table 10.2). -/
def Packet.reservedOp (p : Packet) : Bool := !(p.op ∈ [0x01, 0x02, 0x10, 0x11, 0x12, 0x13, 0x80, 0x81, 0x82])

/-- Whether a packet is a request and not an answer. -/
def Packet.isRequest (p : Packet) : Bool := !(p.op ∈ [0x80, 0x81, 0x82])

end Sys2Proof

namespace Sys2Proof.Machine

/-! ### The way back -/

/-- The port an answer leaves from: that of the endpoint which was addressed. -/
def State.answerFrom (s : State) (addr : Nat) : Nat :=
  match s.localIx (addr / 2 ^ 48) with
  | some ix => s.targetPort ix addr
  | none => edgePort 0 addr

/-- The port an answer goes to: its issuer's in this module, else that of a fibre on the route to SRC_EP (R288, R298). -/
def State.answerTo (s : State) (turf : Nat) (p : Packet) : Nat :=
  match s.localIx p.srcEp with
  | some _ => unitPort p.unit p.addr
  | none => fibrePort (s.fibreOf turf (p.srcEp * 2 ^ 48 + p.addr % 2 ^ 48))

/-- Send an answer to a request (R270), on the virtual channel that pairs with the request's (Table 11.4). -/
def State.answer (s : State) (turf : Nat) (p : Packet) (opcode status flags len : Nat) (operand : BitVec 128) (data : Bytes)
    (poison : Bool) : State :=
  let a : Packet := {
    hdr := mkHdr opcode p.otype (flags + b2n poison * 2) status len p.unit p.tag p.srcEp (BitVec.ofNat 64 p.addr) operand,
    data := data, poison := poison }
  s.queueDyn (s.answerFrom p.addr) (s.answerTo turf p) turf (unitVc p.unit + 1) a

/-- NACK with a refusal status. -/
def State.nackReq (s : State) (turf : Nat) (p : Packet) (status : Nat) : State := s.answer turf p 0x82 status 0 0 0 [] false

/-- ACK. -/
def State.ackReq (s : State) (turf : Nat) (p : Packet) (status flags : Nat) (operand : BitVec 128) : State :=
  s.answer turf p 0x80 status flags 0 operand [] false

/-- DATA. -/
def State.dataReq (s : State) (turf : Nat) (p : Packet) (data : Bytes) (poison : Bool) : State :=
  s.answer turf p 0x81 stOk 0 p.len 0 data poison

end Sys2Proof.Machine
end

