-- ==== Sys2Proof/Machine/Sync.lean ====
section
/-!
DEFINITION. Signals as they travel and arrive (R245 to R247, R544), and the sync commands: SYNC_CREATE, SYNC_SIGNAL, SYNC_DUMP,
lease terms and orphans (R254 to R260).
-/
namespace Sys2Proof.Machine

/-! ### Carriage of a signal -/

/-- INDEX of a counter in a sync packet (Table 9.3), none where the OFFSET cannot name a counter (R544). -/
def ctrIndexOf (off : Nat) : Option Nat :=
  if off % 4 ≠ 0 then none
  else if off < 0x40000 then some (off / 4)
  else if off < 2 ^ 29 ∧ 0x1F0000 ≤ off % 2 ^ 21 ∧ off % 2 ^ 21 < 0x1F0100 then
    some (off / 2 ^ 21 * 64 + (off % 2 ^ 21 - 0x1F0000) / 4)
  else none

/-- Why a signal to an address is refused before it is sent (R544, R263). An own endpoint that is no counter's is refused, and so is every
address of this module that names none. -/
def State.signalBad (s : State) (turf addr : Nat) : Bool :=
  match s.resolve addr with
  | some (.ctr _) => decide (addr % 4 ≠ 0)
  | some _ => true
  | none => (ctrIndexOf (addr % 2 ^ 48)).isNone || (s.issueRefusal turf addr).isSome

/-- The endpoint of this module that holds a counter: its CD, or the edge group of its quadrant. -/
def ctrOep (k : Nat) : Nat := if k < 65536 then 40 + k / 16384 else (k - 65536) / 64 / 256

/-- Whether an address's endpoint is of another module. -/
def State.isRemote (s : State) (addr : Nat) : Bool := (s.localIx (addr / 2 ^ 48)).isNone

/-- The fabric fibres of a signal's two copies: FIBRE0 and the last of the route (R293). -/
def State.signalFibres (s : State) (turf ep : Nat) : Option (Nat × Nat) :=
  (s.routeOf turf ep).map (fun r =>
    let n := max 1 (memNat s.fab.routes (r + 1) 1)
    (memNat s.fab.routes (r + 2) 1, memNat s.fab.routes (r + 1 + n) 1))

/-- The endpoint a signal's packet goes to (R245): for another module's counter the edge group of the route's first fibre. -/
def State.signalDest (s : State) (turf addr : Nat) : Nat :=
  match s.resolve addr with
  | some (.ctr k) => ctrOep k
  | _ => match s.signalFibres turf (addr / 2 ^ 48) with | some f => 40 + f.1 % 96 / 24 | none => 40

/-- Put a signal on its way as a Protected packet (R245). To another module SIGNALLER is the flat number of the issuer's CD or
of the module's sync space. -/
def State.sendSignal (s : State) (oep turf addr amount epoch : Nat) (who : Half) : State :=
  let remote := s.isRemote addr
  let w : Half := if remote then BitVec.ofNat 16 (s.flatOf (if who.toNat / 2 ^ 14 = 0 then who.toNat % 4096 / 256 else 48)) else who
  s.sendProtected oep 1 (s.signalDest turf addr) amount
    (syncAddr (addr / 2 ^ 48) ((ctrIndexOf (addr % 2 ^ 48)).getD 0) epoch 0 remote w)

/-- A signal or decrement applied to a counter, with the doorbell counters of R343. -/
def State.signalCtr (s : State) (k : Nat) (delta : Int) (p : Party) : State × Nat :=
  let r := s.addCtr k delta p
  (if r.2 = stOk then r.1.doorbell k else r.1, r.2)

/-- The counter a sync packet names. -/
def State.packetCtr (s : State) (addr : DWord) : Option Nat :=
  let a := addr.toNat
  let ix := bits a 47 32
  match s.localIx (a / 2 ^ 48) with
  | some 48 => some ix
  | some n => if n < 16 ∧ ix < 2 ^ 14 then some (65536 + (n * 256 + ix / 64) * 64 + ix % 64) else none
  | none => none

/-- ADDR of the signal whose refusal an ADDR belongs to: the same but for PKIND (R246). -/
def signalOf (addr : DWord) : DWord := BitVec.ofNat 64 (addr.toNat / 2 ^ 20 * 2 ^ 20 + addr.toNat % 2 ^ 18)

/-- The descriptor of a copy engine whose DONE a sync packet carries, the oldest (R281). -/
def State.doneDesc (s : State) (who : Half) (addr : DWord) : Option CeDesc :=
  (s.ce (who.toNat % 64)).queue.find? (fun d => d.doneSent && fld d.raw 40 8 / 2 ^ 48 == addr.toNat / 2 ^ 48
    && ctrIndexOf (fld d.raw 40 8 % 2 ^ 48) == some (bits addr.toNat 47 32) && fld d.raw 52 4 % 4096 == bits addr.toNat 31 20)

/-- The turf of a signaller in this module (R323): a cell's region owner, a queue's turf, a copy engine's submitter, that of what arrived,
and turf 0 for firmware. -/
def State.signallerTurf (s : State) (who : Half) (addr : DWord) : Nat :=
  let v := who.toNat
  match v / 2 ^ 14 with
  | 0 => (regionOwner s.turfMap (regionOf (v % 4096))).getD 64
  | 1 => if v / 4096 % 4 = 2 then ((s.doneDesc who addr).map (fun d => d.turf)).getD 0 else 0
  | 2 => (s.queue (v % 8192)).turf
  | _ => ((s.arrivals.find? (fun a => a.addr == addr)).map (fun a => a.turf)).getD 0

/-- The started SYNC_SIGNAL commands whose packet an ADDR is: they name its counter and epoch (R245, R258). -/
def State.signalCmds (s : State) (addr : DWord) : List Accepted :=
  s.accepted.filter (fun a => a.started && sqOpcode a.entry == 0x0301
    && sqArg a.entry 0 / 2 ^ 48 == addr.toNat / 2 ^ 48 && ctrIndexOf (sqArg a.entry 0 % 2 ^ 48) == some (bits addr.toNat 47 32)
    && sqArg a.entry 2 % 4096 == bits addr.toNat 31 20)

/-- The end of a completed descriptor: its place is free, and a queue's command completes with its status record (R281, R363). -/
def State.descDone (s : State) (n : Nat) (d : CeDesc) : State :=
  let s := s.modCe n (fun c => { c with queue := c.queue.filter (fun x => x.id != d.id) })
  match d.cmd with
  | none => s
  | some (q, slot) =>
    match s.acceptedAt q slot with
    | none => s
    | some a => s.complete a d.status.toNat 0 (BitVec.ofNat 64 (ceilDiv d.bytes 256 * 2 ^ 32 + d.flags % 8 * 2 ^ 8 + d.status.toNat))

/-- An arrival signal's outcome is known: the STORE that it stands for is answered, a refusal with ARRIVAL_REFUSED (R252, R270). -/
def State.arrivalDone (s : State) (addr : DWord) (status : Nat) : State :=
  match s.arrivals.find? (fun a => a.addr == addr) with
  | none => s
  | some a =>
    let s := { s with arrivals := s.arrivals.erase a }
    let s := if status = stOk then s.bump 5 (bits addr.toNat 47 32 / 16384) 5 1 else s
    match a.store with
    | none => s
    | some p => if status = stOk then s.ackReq a.turf p stOk 0 a.operand else s.ackReq a.turf p status 8 a.operand

/-- The outcome of a signal of this module reaches its issuer where that waits for it: a queue's oldest SYNC_SIGNAL of that counter, epoch
and amount completes (R258), a copy engine's descriptor takes the status of a refused DONE and completes (R282), and an arrival is answered.
A refusal's packet carries no amount. -/
def State.signalDone (s : State) (who : Half) (amount : Option Nat) (addr : DWord) (status : Nat) : State :=
  match who.toNat / 2 ^ 14 with
  | 1 =>
    if who.toNat / 4096 % 4 ≠ 2 then s
    else match s.doneDesc who addr with
    | none => s
    | some d => s.descDone (who.toNat % 64) { d with status := if d.status = 0 then BitVec.ofNat 8 status else d.status }
  | 2 =>
    match (s.signalCmds addr).find? (fun a => a.q == who.toNat % 8192 && (match amount with | some n => sqArg a.entry 1 == n | none => true)) with
    | none => s
    | some a => s.complete a status 0 0
  | 3 => s.arrivalDone addr status
  | _ => s

/-- The endpoint through which a unit sends, and to which a refusal returns (R14, R170). -/
def State.signallerOep (s : State) (who : Half) : Nat :=
  let v := who.toNat
  match v / 2 ^ 14 with
  | 0 => v % 4096 / 256
  | 1 => if v / 4096 % 4 = 2 then 40 + v % 64 / 16 else if v / 4096 % 4 = 0 then 40 + v % 4096 / 5 % 4 else 40 + v % 4
  | 2 => s.batchOep (s.queue (v % 8192)).turf
  | _ => v % 64

/-- An endpoint signals an arrival counter for what has arrived (R252): a Protected packet like any signal (R245). -/
def State.sendArrival (s : State) (oep k epoch turf : Nat) (store : Option Packet) (operand : BitVec 128) : State :=
  let addr := syncAddr (s.flatOf 48) k epoch 0 false (oepParty oep)
  let s := { s with arrivals := s.arrivals ++ [(⟨oep, addr, turf, store, operand⟩ : Arriving)] }
  s.sendProtected oep 1 (ctrOep k) 1 addr

/-- A signal of a party is applied to a counter, or refused; a refusal within the module returns as a packet, one from
another module is counted and noticed to the owner (R246, R247). -/
def State.applySignal (s : State) (k amount : Nat) (p : Party) (addr : DWord) : State :=
  let r := s.signalCtr k (amount : Int) p
  if r.2 = stOk then (if p.remote then r.1 else r.1.signalDone p.who (some amount) addr stOk)
  else if p.remote then
    r.1.ownerNotice k 5 0x0001 0x1003 (if 65536 ≤ k then refusedWord (r.1.ctrAddr k) r.2 0
      else BitVec.ofNat 128 ((r.1.ctrAddr k).toNat * 2 ^ 64 + r.2 * 2 ^ 48 + 2 ^ 16 + p.who.toNat))
  else r.1.sendProtected (ctrOep k) 1 (s.signallerOep p.who) r.2
    (syncAddr (addr.toNat / 2 ^ 48) (bits addr.toNat 47 32) (bits addr.toNat 31 20) 1 false p.who)

/-- A sync packet that names no counter is refused: counted, entered in the event log, and within the module returned (R22, R246, R247). -/
def State.signalLost (s : State) (amount : Nat) (remote : Bool) (who : Half) (addr : DWord) : State :=
  let a := addr.toNat
  let s := s.tally (.signalRefused ((s.localIx (a / 2 ^ 48)).getD 64)) 1
  let s := s.logSync {
    gtc := s.now, addr := BitVec.ofNat 64 (a / 2 ^ 48 * 2 ^ 48 + bits a 47 32 * 4), event := 3, status := BitVec.ofNat 8 stBadArg
    signaller := who, remote := remote, amount := BitVec.ofNat 32 amount, epoch := BitVec.ofNat 32 (bits a 31 20) }
  if remote then s
  else s.sendProtected (match s.localIx (a / 2 ^ 48) with | some ix => if ix < 16 then ix else 40 | none => 40) 1 (s.signallerOep who) stBadArg
    (syncAddr (a / 2 ^ 48) (bits a 47 32) (bits a 31 20) 1 false who)

/-- A sync packet reaches its counter. A packet from another module carries no turf, so which turf its issuer is of is open (log entry 123):
whether the boundary of R324 refuses it is a free value. -/
def State.syncApply (s : State) (arg : Word) (addr : DWord) : State :=
  let a := addr.toNat
  let who : Half := BitVec.ofNat 16 a
  let n := arg.toNat % 2 ^ 31
  let remote := a.testBit 17
  match s.packetCtr addr with
  | none => s.signalLost n remote who addr
  | some k =>
    let d := s.draw
    if remote then d.2.applySignal k n { who := who, remote := true, epoch := bits a 31 20, turf := d.1.toNat % 64 } addr
    else s.applySignal k n { who := who, epoch := bits a 31 20, turf := s.signallerTurf who addr } addr

/-- SYNC_PACKET_APPLY (R242, R245). -/
def execSyncPacketApply (arg : Word) (addr : DWord) (s : State) : Host.Outcome State Fault Refusal :=
  .next (if bits addr.toNat 19 18 = 0 then s.syncApply arg addr else s)

/-- A refused signal reaches its issuer (R246): a cell's rick, a queue's command, a copy engine's descriptor, an arrival. -/
def State.refusalArrives (s : State) (arg : Word) (addr : DWord) : State :=
  let a := addr.toNat
  let who := a % 2 ^ 16
  let st := arg.toNat % 256
  match who / 2 ^ 14 with
  | 0 =>
    let k := (s.packetCtr addr).getD 0
    s.refuseToCell (who % 4096) (who / 4096 % 4) st (s.ctrAddr k) (s.ctr k).epoch 0 0
  | _ => s.signalDone (BitVec.ofNat 16 a) none (signalOf addr) st

/-- SIGNAL_REFUSAL_RECEIVE (R246). -/
def execSignalRefusalReceive (arg : Word) (addr : DWord) (s : State) : Host.Outcome State Fault Refusal :=
  .next (if bits addr.toNat 19 18 = 1 then s.refusalArrives arg addr else s)

/-! ### SYNC_CREATE (R257, R546) -/

/-- A term argument in range (Table 9.7). -/
def termOk (t : Nat) : Bool := t == 0 || (decide (1000 ≤ t) && decide (t ≤ 10000000))

/-- A term in microseconds. -/
def termOf (t : Nat) : Nat := if t = 0 then 10000 else t

/-- SYNC_CREATE MODE 0 (R257). -/
def execSyncCreateCreate (q : QueueIx) (slot : SlotIx) (s : State) : Host.Outcome State Fault Refusal :=
  .next (s.withCmd q slot 0x0300 (fun w => sqArg w 0 == 0) (fun s a =>
    let w := a.entry
    let t := (s.queue a.q).turf
    if 2 ^ 31 ≤ sqArg w 1 ∨ !termOk (sqArg w 2) ∨ sqArg w 3 ≠ 0 then s.fail a stBadArg
    else if syncQuota s.turfMap t ≤ s.syncHeld t then s.fail a stNoResource
    else match s.lowestFree with
    | none => s.fail a stNoResource
    | some k =>
      let s := s.modCtr k (fun c => { c with
        value := sqArg w 1, owner := .leased a.q t, everLeased := true, termUs := termOf (sqArg w 2), renewed := s.now
        changed := s.now, changedSinceArm := true })
      s.done a (k + (s.ctr k).epoch * 2 ^ 32)))

/-- The first failure of R546 up to the check of the epoch, for MODE 1 (release) and MODE 2. -/
def State.leaseRefusal (s : State) (a : Accepted) (release : Bool) : Option Nat :=
  let w := a.entry
  let k := sqArg w 1
  let c := s.ctr k
  let t := (s.queue a.q).turf
  if k < 128 ∨ 65535 < k ∨ 2 ^ 32 ≤ sqArg w 3 ∨ (if release then sqArg w 2 ≠ 0 else !termOk (sqArg w 2)) then some stBadArg
  else if t ≠ 0 ∧ s.ctrTurf k ≠ some t then some stDenied
  else
    let stale := if sqArg w 3 = c.epoch then none else some stLeaseRevoked
    match c.owner with
    | .leased h _ => if release then (if h = a.q then stale else some stDenied) else some stBusy
    | .orphan _ => if release then some stLeaseRevoked else stale
    | _ => some stBadArg

/-- SYNC_CREATE MODE 1 (R255, R257): the lease is revoked and the counter freed at once. -/
def execSyncCreateRelease (q : QueueIx) (slot : SlotIx) (s : State) : Host.Outcome State Fault Refusal :=
  .next (s.withCmd q slot 0x0300 (fun w => sqArg w 0 == 1) (fun s a =>
    match s.leaseRefusal a true with
    | some st => s.fail a st
    | none => ((s.revokeCtr (sqArg a.entry 1)).freeCtr (sqArg a.entry 1)).done a 0))

/-- SYNC_CREATE MODE 2 (R257, R546): the epoch is raised, the value kept, and the counter moves to the queue's turf. -/
def execSyncCreateTakeOver (q : QueueIx) (slot : SlotIx) (s : State) : Host.Outcome State Fault Refusal :=
  .next (s.withCmd q slot 0x0300 (fun w => sqArg w 0 == 2) (fun s a =>
    let k := sqArg a.entry 1
    let t := (s.queue a.q).turf
    match s.leaseRefusal a false with
    | some st => s.fail a st
    | none =>
      if s.ctrTurf k ≠ some t ∧ syncQuota s.turfMap t ≤ s.syncHeld t then s.fail a stNoResource
      else
        let e := nextEpoch (s.ctr k).epoch
        let s := s.modCtr k (fun c => { c with
          epoch := e, owner := .leased a.q t, termUs := termOf (sqArg a.entry 2), renewed := s.now })
        s.done a (k + e * 2 ^ 32)))

/-! ### SYNC_SIGNAL and SYNC_DUMP (R258, R259) -/

/-- A signal refused before it is sent is an event of the log (R246, R260). -/
def State.logUnsent (s : State) (addr amount epoch : Nat) (who : Half) : State :=
  s.logSync {
    gtc := s.now, addr := BitVec.ofNat 64 addr, event := 3, status := BitVec.ofNat 8 stBadArg, signaller := who, remote := false
    amount := BitVec.ofNat 32 amount, epoch := BitVec.ofNat 32 epoch }

/-- SYNC_SIGNAL (R258): the signal leaves as a Protected packet through its service core's edge group, and the command waits for its
outcome; one to another module completes when both copies have left the module. -/
def execSyncSignal (q : QueueIx) (slot : SlotIx) (s : State) : Host.Outcome State Fault Refusal :=
  let oep := s.batchOep (s.queue q).turf
  if !s.protRoom oep then .next s
  else .next (s.withCmd q slot 0x0301 (fun _ => true) (fun s a =>
    let addr := sqArg a.entry 0
    let n := sqArg a.entry 1
    let e := sqArg a.entry 2
    if n = 0 ∨ 2 ^ 31 ≤ n ∨ 2 ^ 32 ≤ e then s.fail a stBadArg
    else if s.signalBad (s.queue a.q).turf addr then (s.logUnsent addr n e (queueParty a.q)).fail a stBadArg
    else s.sendSignal oep (s.queue a.q).turf addr n e (queueParty a.q)))

/-- The record of a dump and its ASH_ID (R507). For a record that does not fit, and so is not made, no ASH_ID is stated: it is a free
value (log entry 1). -/
def State.dumpCapture (s : State) (t : Nat) : Nat × State :=
  let s' := s.ashCapture 3 t
  if s'.obs.ash.any (fun r => r.id == s.obs.nextAsh) then (s.obs.nextAsh, s') else (s'.draw.1.toNat % 65536, s'.draw.2)

/-- SYNC_DUMP (R259). -/
def execSyncDump (q : QueueIx) (slot : SlotIx) (s : State) : Host.Outcome State Fault Refusal :=
  .next (s.withCmd q slot 0x0302 (fun _ => true) (fun s a =>
    let t := sqTurf a.entry
    if t = 0 ∧ (s.queue a.q).turf ≠ 0 then s.fail a stDenied
    else
      let n := (s.syncSection (decide (t = 0)) t).length
      let r := s.dumpCapture t
      r.2.done a (n + r.1 * 2 ^ 32)))

/-! ### Terms (R254, R255, R345) -/

/-- LEASE_EXPIRY (R254, R345): the check that Heartwood makes every 100 us. -/
def execLeaseExpiry (now : Nat) (s : State) : Host.Outcome State Fault Refusal :=
  let s := s.at_ now
  let late := fun (c : Ctr) => match c.owner with
    | .leased _ _ => decide (c.renewed + c.termUs * 1000 ≤ s.now)
    | _ => false
  let ks := (s.ctrs.filter (fun p => late p.2)).map (fun p => p.1)
  let qs := (s.queues.filter (fun p => p.1 ≠ 0 ∧ p.2.state ≠ .closed ∧ p.2.state ≠ .closing ∧ !p.2.noTerm
    ∧ p.2.renewed + p.2.termMs * 1000000 ≤ s.now)).map (fun p => p.1)
  if s.ctlHeld then .next s
  else
  let s := ks.foldl (fun s k => s.revokeCtr k) s
  .next (qs.foldl (fun (s : State) q => s.startClose q 5 0) s)

/-- ORPHAN_FREE (R255): an orphan of 1 s is freed. -/
def execOrphanFree (ctr : Fin 65536) (now : Nat) (s : State) : Host.Outcome State Fault Refusal :=
  let s := s.at_ now
  match (s.ctr ctr).owner with
  | .orphan _ => .next (if (s.ctr ctr).orphanAt + 1000000000 ≤ s.now then s.freeCtr ctr else s)
  | _ => .next s

end Sys2Proof.Machine
end

