-- ==== Sys2Proof/Machine/Batches.lean ====
section
/-!
DEFINITION. Batches from command to completion (R27 to R33, R97, R360, R361, R520, R551): RUN_BATCH, ABORT, the arm and cancel
notices, the arm deadline, the start and the end.
-/
namespace Sys2Proof.Machine

/-! ### Arming (R28, R29, R520) -/

/-- The CDs that hold a region of a mask. -/
def cdsOf (regions : Nat) : List Nat := (List.range 16).filter (fun c => bits regions (4 * c + 3) (4 * c) ≠ 0)

/-- Send an arm (PTYPE 2) or cancel (PTYPE 3) notice to every CD of a batch (Table 1.8), through the turf's service core (R14). -/
def State.sendNotices (s : State) (ptype t attempt regions start : Nat) : State :=
  (cdsOf regions).foldl (fun s c =>
    s.sendProtected (s.batchOep t) ptype c
      (t + attempt * 2 ^ 8 + (if ptype = 2 then bits regions (4 * c + 3) (4 * c) * 2 ^ 16 else 0)) (BitVec.ofNat 64 start)) s

/-- Every port the active calendar of a turf names. -/
def State.calPorts (s : State) (t : Nat) : List Nat := (s.cal t).active.entries.flatMap (fun e => [e.1, ceDst e.2])

/-- The start count Cordwood chooses (R28, R154): at least 5 us from now, one slot length before the GTC count at which a module slot
begins whose number is a multiple of 32 while no hold intervenes. A slot has 72 cell cycles. The batch starts with that slot (log entry
129). -/
def State.startAfter (s : State) : Nat :=
  let f := pFreq s.pw.pstate
  let least := s.slot + 1 + ceilDiv (5000 * f) 72000
  s.now + (ceilDiv least 32 * 32 - s.slot - 1) * 72000 / f

/-- Cordwood's standing waits on a turf's arm and done counters, which have waiter entries of their own (R244). -/
def State.batchWaits (s : State) (t : Nat) (b : BatchSt) : State :=
  let w := fun (n : Nat) => ({ who := coreParty 0 (s.batchCore t), thresh := n, dec := 0, since := s.now } : Waiter)
  let n := popCount b.regions 64
  ((s.waitOn (2 * t) (w n)).1.waitOn (2 * t + 1) (w (64 * n))).1

/-- Cordwood arms a batch: the sites its calendar names leave self-refresh (R215), both system counters 0, the image's counters at
their initial values (R234, R235), its waits, a start count. -/
def State.armBatch (s : State) (t : Nat) (b : BatchSt) (attempt start : Nat) : State :=
  let s := (List.range 24).foldl (fun s m => if (s.calPorts t).any (fun p => p / 64 == 16 + m) then s.touch m else s) s
  let zero := fun (s : State) (k : Nat) => s.modCtr k (fun c => { c with value := 0, changed := s.now, waiters := [] })
  let s := (zero (zero s (2 * t)) (2 * t + 1)).batchWaits t b
  let s := match tfind s.images b.handle with
    | none => s
    | some img => img.ctrInit.zipIdx.foldl (fun (s : State) (x : Nat × Nat) =>
      s.modCtr (img.ctrBase + x.2) (fun c => { c with value := x.1, changed := s.now })) s
  let mine := fun (k : Nat) => s.ctrTurf k == some t
  let s := { s with ctrs := tmap s.ctrs (fun k c => if mine k then { c with changedSinceArm := false } else c) }
  let s := s.modBatch t (fun b => { b with waiting := false, attempt := attempt, startCount := start })
  s.sendNotices 2 t attempt b.regions start

/-- A region of a batch cannot be woken. -/
def State.deadRegion (s : State) (r : Nat) : Bool := decide ((s.region r).sleep ≠ .s0) && !(s.region r).busy

/-- The far units the active calendar names. -/
def State.calUnits (s : State) (t : Nat) : List Nat := (s.calPorts t).filterMap portFmu

/-- A resource the batch needs is lost (R140, R183, R184, R227, R440). -/
def State.batchLacks (s : State) (t : Nat) : Bool :=
  (s.turfRegions t).any (fun r => (s.region r).failed)
  || (s.calPorts t).any (fun p => (s.port p).dark || (s.port p).failed)
  || (s.calUnits t).any (fun n => (s.fmu n).down)

/-- A batch that waits for its regions goes on when they are in S0 (R30); it ends with NO_RESOURCE when it lacks a part by then, and with
WAKE_FAIL when a region cannot wake. -/
def State.batchProgress (s : State) (t : Nat) : State :=
  match s.batch t with
  | none => s
  | some b =>
    let rs := setBits b.regions 64
    if !b.waiting then s
    else if s.batchLacks t then s.finishBatch t b stNoResource 0
    else if rs.any s.deadRegion then s.finishBatch t b stWakeFail 0
    else if rs.all (fun r => decide ((s.region r).sleep = .s0) && !(s.region r).busy) then
      s.armBatch t b 1 (if b.hostCount then b.startCount else s.startAfter)
    else s

/-! ### RUN_BATCH (R28, R360, R548) -/

/-- The turf of the image a RUN_BATCH names. -/
def State.runTurf (s : State) (a : Accepted) : Option Nat := (tfind s.images (sqArg a.entry 0)).map (fun i => i.turf)

/-- A column of a CD of which the turf owns a region waits to be shifted for wear (R482). -/
def State.shiftWaits (s : State) (t : Nat) : Bool :=
  s.firm.deferred.any (fun d => d.1 == 1 && (List.range 4).any (fun i => regionOwner s.turfMap (d.2.1 / 256 * 4 + i) == some t))

/-- Whether a RUN_BATCH must wait: its turf runs a batch, has an earlier RUN_BATCH, a gap, a drained swap or a column shift that waits
(R27, R195, R469, R482). -/
def State.runWaits (s : State) (a : Accepted) : Bool :=
  match s.runTurf a with
  | none => false
  | some t =>
    (s.batch t).isSome || s.shiftWaits t || s.tuneGaps.any (fun g => g.1 == t)
    || (match s.drain with | some d => !d.routing && d.turf == t | none => false)
    || s.accepted.any (fun b => sqOpcode b.entry == 0x0102 && decide (b.seq < a.seq) && s.runTurf b == some t)

/-- Whether a pair that the active descriptors name is not admitted to Scheduled traffic (R307, R312). -/
def State.pairRefused (s : State) (t : Nat) : Bool :=
  (s.cal t).active.fabBd.any (fun d => (tget s.fab.pairs {} (s.peerOf (bits d.2.2.toNat 15 0))).state ≠ 3)

/-- The status that refuses a RUN_BATCH; none when it may start. -/
def State.runRefusal (s : State) (a : Accepted) : Option Nat :=
  let w := a.entry
  let t0 := (s.queue a.q).turf
  match tfind s.images (sqArg w 0) with
  | none => some stBadArg
  | some img =>
    if !img.ready then some stBadArg
    else if t0 ≠ 0 ∧ img.turf ≠ t0 then some stDenied
    else if !img.buckets.any (fun b => b.1 == sqArg w 1) then some stBadArg
    else if sqArg w 2 ≠ 0 ∧ sqArg w 2 < s.now + 5000 then some stBadArg
    else if (s.cal img.turf).active ≠ img.cal then some stNeedsDrain
    else if s.batchLacks img.turf ∨ (setBits img.regionMask 64).any (fun r => (s.region r).wakeFail) then some stNoResource
    else if s.pairRefused img.turf then some stDenied
    else if s.pw.safeStopped ∧ (setBits img.regionMask 64).any (fun r => (s.region r).sleep ≠ .s0) then some stBusy
    else none

/-- Enter a batch and ask its regions to wake. -/
def State.enterBatch (s : State) (a : Accepted) (img : ImageSt) : State :=
  let w := a.entry
  let b : BatchSt := {
    handle := sqArg w 0, bucket := sqArg w 1, q := a.q, slot := a.slot, seq := a.seq, regions := img.regionMask
    hostCount := decide (sqArg w 2 ≠ 0), startCount := sqArg w 2, attempt := 0 }
  let s := { s with batches := tset s.batches img.turf b }
  let s := (setBits img.regionMask 64).foldl (fun s r => s.request r .s0) s
  s.batchProgress img.turf

/-- RUN_BATCH. -/
def execRunBatch (q : QueueIx) (slot : SlotIx) (s : State) : Host.Outcome State Fault Refusal :=
  match s.acceptedAt q.val slot.val with
  | none => .next s
  | some a =>
    if s.runWaits a then .next s
    else .next (s.withCmd q slot 0x0102 (fun _ => true) (fun s a =>
      let s := match s.runTurf a with | some t => s.clearErrors t | none => s
      match s.runRefusal a, tfind s.images (sqArg a.entry 0) with
      | some st, _ => s.fail a st
      | none, none => s.fail a stBadArg
      | none, some img => s.enterBatch a img))

/-! ### ABORT (R32, R361) -/

/-- Complete the RUN_BATCH commands of a turf that have not started with DENIED. -/
def State.cancelRuns (s : State) (t : Nat) : State × Nat :=
  let rs := s.accepted.filter (fun b => sqOpcode b.entry == 0x0102 && !b.started && s.runTurf b == some t)
  (rs.foldl (fun s b => s.fail b stDenied) s, rs.length)

/-- ABORT. -/
def execAbort (q : QueueIx) (slot : SlotIx) (s : State) : Host.Outcome State Fault Refusal :=
  .next (s.withCmd q slot 0x0103 (fun _ => true) (fun s a =>
    let t := sqTurf a.entry
    let c := s.cancelRuns t
    match c.1.batch t with
    | none => c.1.done a (c.2 * 2 ^ 16)
    | some b =>
      if b.started then
        let s := c.1.modAccepted a.q a.slot (fun x => { x with aux := c.2 })
        let s := s.modBatch t (fun b => { b with abortCmd := some (a.q, a.slot) })
        (s.stopBatch t stDenied 0 true).settleStop t
      else
        let s := if b.waiting then c.1 else c.1.sendNotices 3 t b.attempt b.regions b.startCount
        (s.finishBatch t b stDenied 0).done a ((c.2 + 1) * 2 ^ 16)))

/-! ### Notices at a CD (R29) -/

/-- A discarded notice counts against the CD's receive ports. -/
def State.discardNotice (s : State) (cd : Nat) : State := s.bump 2 (cd * 64) 7 1

/-- A cell's state at the start count (R97, R53, R520). -/
def armCell (values : List Word) (c : CellSt) : CellSt :=
  { c with
    halted := false, haltIssued := false, stopping := false, waitGated := false, stoppedErr := false, ptr := 0, inflight := []
    v := [], acc := [], layer := 0, operator := 0, stepCount := 0, ramp := 0, macBusy := false, ledgerRange := false
    ae0 := { table := c.ae0.table }, ae1 := { table := c.ae1.table }
    t := ((List.range 16).map (fun i => (i, (c.initT.getD i 0).toNat))).filter (fun p => p.2 ≠ 0)
    l := ((List.range 16).map (fun i => (i, c.initL.getD i 0 + (if c.lmask.toNat.testBit i then values.getD i 0 else 0)))).filter
      (fun p => p.2 ≠ 0) }

/-- The bucket values of a turf's batch. -/
def State.bucketOf (s : State) (t : Nat) : Nat × List Word :=
  match s.batch t with
  | none => (0, [])
  | some b =>
    match tfind s.images b.handle with
    | none => (0, [])
    | some img => match img.buckets.find? (fun x => x.1 == b.bucket) with
      | some x => x.2
      | none => (0, [])

/-- BATCH_ARM_NOTICE (R29): the regions named load their first steps and signal the turf's arm counter. -/
def State.armNotice (s : State) (cd : Nat) (arg : Word) (count : DWord) : State :=
  let v := arg.toNat
  let t := bits v 5 0
  let key := cd * 64 + t
  let held := match tfind s.arms key with | some h => decide (s.now < h.count) | none => false
  if held then s.discardNotice cd
  else
    let rs := (setBits (bits v 19 16) 4).map (fun i => 4 * cd + i)
    let s := { s with arms := tset s.arms key { regions := bits v 19 16, attempt := bits v 9 8, count := count.toNat } }
    let vals := (s.bucketOf t).2
    let s := s.modCd cd (fun d => { d with flits := d.flits.filter (fun f => !rs.contains (regionOf f.cell)) })
    rs.foldl (fun s r =>
      let s := (regionCells r).foldl (fun s c => s.modCell c (armCell vals)) s
      s.sendSignal cd t (s.ctrAddr (2 * t)).toNat 1 0 (cellParty 0 (64 * r))) s

/-- BATCH_ARM_NOTICE (R29). -/
def execBatchArmNotice (cd : CdIx) (arg : Word) (count : DWord) (s : State) : Host.Outcome State Fault Refusal :=
  .next (s.armNotice cd arg count)

/-- The effect of a cancel notice. -/
def State.cancelNotice (s : State) (cd : Nat) (arg : Word) (count : DWord) : State :=
  let key := cd * 64 + bits arg.toNat 5 0
  match tfind s.arms key with
  | none => s.discardNotice cd
  | some h =>
    if h.attempt = bits arg.toNat 9 8 ∧ h.count = count.toNat then { s with arms := tdel s.arms key } else s.discardNotice cd

/-- BATCH_CANCEL_NOTICE (R29). -/
def execBatchCancelNotice (cd : CdIx) (arg : Word) (count : DWord) (s : State) : Host.Outcome State Fault Refusal :=
  .next (s.cancelNotice cd arg count)

/-! ### Deadline, start, end -/

/-- The arm counter is complete. -/
def State.armed (s : State) (t : Nat) (b : BatchSt) : Bool := decide (popCount b.regions 64 ≤ (s.ctr (2 * t)).value)

/-- A batch that cannot start is withdrawn: its notices are cancelled and its command completes. -/
def State.withdrawBatch (s : State) (t : Nat) (b : BatchSt) (status : Nat) (result : DWord) : State :=
  (s.sendNotices 3 t b.attempt b.regions b.startCount).finishBatch t b status result

/-- ARM_DEADLINE (R28, R360). -/
def execArmDeadline (t : TurfIx) (now : Nat) (s : State) : Host.Outcome State Fault Refusal :=
  let s := s.at_ now
  match s.batch t with
  | none => .next s
  | some b =>
    if b.waiting ∨ b.started ∨ s.now + 1000 < b.startCount ∨ s.armed t b then .next s
    else if s.batchLacks t then .next (s.withdrawBatch t b stNoResource 0)
    else if b.attempt = 1 ∧ !b.hostCount then
      .next ((s.sendNotices 3 t b.attempt b.regions b.startCount).armBatch t b 2 s.startAfter)
    else .next (s.withdrawBatch t b stInternal (BitVec.ofNat 64 (6 * 2 ^ 16)))

/-- The ports whose starvation timers a counting gap restarts, or that enter scheduled service (R193, R194). -/
def State.startTimers (s : State) (ps : List Nat) (restart : Bool) (at_ : Nat) : State :=
  ps.eraseDups.foldl (fun s p => s.modPort p (fun x =>
    { x with starveSince := if restart || x.starveSince.isNone then some at_ else x.starveSince })) s

/-- A port has stood out of scheduled service since the last batch that used it, for 20 us or more when there was one (R190, R193). -/
def State.restedPort (s : State) (t p : Nat) : Bool :=
  s.batches.all (fun b => b.1 == t || !b.2.started || !(s.calPorts b.1).contains p)
  && s.batchEnds.all (fun e => !(s.calPorts e.1).contains p || decide (e.2 + 20000 ≤ s.now))

/-- A batch starts (R97, R154) with the next module slot: every Collier of it runs from step 0. The interval since the batch before it
counts as a gap of each port when it lasted 20 us (R160, R193), and then ends a downgrade (R195). A cell with a bit of CELL_ERR set does not
start (R55). -/
def State.beginBatch (s : State) (t : Nat) (b : BatchSt) : State :=
  let s := (s.evalWaits (2 * t)).1
  let s := s.modBatch t (fun b => { b with
    started := true, startSlot := s.slot + 1, sawRepair := s.holds.repair.isSome, sawLight := s.holds.lightOn
    sawThrottle := decide (s.pw.h ≠ 0) })
  let s := (batchCells b).foldl (fun s c => s.modCell c (fun x => { x with running := decide (x.err = 0) })) s
  let ds := tmap s.obs.digests (fun k l => if k = t then l.map (fun (d : DigestSt) => { d with cur := [] }) else l)
  let s := { s with obs := { s.obs with digests := ds } }
  let ps := s.calPorts t
  let s := if (tfind s.batchEnds t).isSome && ps.all (s.restedPort t) then { s with tuneAccepted := setDel s.tuneAccepted t } else s
  (s.startTimers (ps.filter (s.restedPort t)) true s.now).startTimers ps false s.now

/-- BATCH_START (R97, R154): from the start count of an armed batch on, before the first module slot whose number is a multiple of 32; a
mode 0 gap of the turf ends first (R195). A batch that lacks a part by then does not start (R183, R184). -/
def execBatchStart (t : TurfIx) (now : Nat) (s : State) : Host.Outcome State Fault Refusal :=
  let s := s.at_ now
  match s.batch t with
  | none => .next s
  | some b =>
    if b.waiting ∨ b.started ∨ b.stopping ∨ s.now < b.startCount ∨ !s.armed t b ∨ (s.slot + 1) % 32 ≠ 0
        ∨ s.tuneGaps.any (fun g => g.1 == t.val && g.2.1 != 0) then .next s
    else if s.batchLacks t then .next (s.withdrawBatch t b stNoResource 0)
    else .next (s.beginBatch t b)

/-- BATCH_DONE (R551): the done counter has reached the number of the batch's cells; a waiting ABORT then finds none stopped. -/
def execBatchDone (t : TurfIx) (now : Nat) (s : State) : Host.Outcome State Fault Refusal :=
  let s := s.at_ now
  match s.batch t with
  | none => .next s
  | some b =>
    if !b.started ∨ (s.ctr (2 * t + 1)).value < 64 * popCount b.regions 64 then .next s
    else
      let s := (s.evalWaits (2 * t + 1)).1
      let s := s.finishBatch t b stOk (s.okResult b)
      match b.abortCmd with
      | none => .next s
      | some (q, slot) =>
        match s.acceptedAt q slot with
        | none => .next s
        | some a => .next (s.done a (a.aux * 2 ^ 16))

end Sys2Proof.Machine
end

