-- ==== Sys2Proof/Machine/Wakes.lean ====
section
/-!
DEFINITION. Kindling and the end of a region's sleep or wake (R419 to R423), and the events after which whatever waits for a
region is looked at again: loads, batches, sleep and wake commands; what a Clamp latches (R62, R502); thermal
shutdown (R458).
-/
namespace Sys2Proof.Machine

/-- Look again at everything that waits for a region: the request of a region with nothing in progress has ended. -/
def State.settleWakes (s : State) : State :=
  let asked := (s.accepted.filter (fun a => a.started && (sqOpcode a.entry == 0x0502 || sqOpcode a.entry == 0x0503))).map
    (fun a => (sleepWaitOf a.aux).rem)
  let stale := (List.range 64).filter (fun r => !(s.region r).busy && asked.any (fun m => m.testBit r))
  let s := stale.foldl (fun s r => s.regionEnded r) (s.modSleepWaits (fun _ w =>
    { w with pend := stale.foldl (fun m r => if m.testBit r && (s.region r).pending.isNone then m - 2 ^ r else m) w.pend }))
  let s := (s.images.map (fun p => p.1)).foldl (fun s h => s.loadProgress h) s
  (s.batches.map (fun p => p.1)).foldl (fun s t => s.batchProgress t) s

/-- REGION_SAFE_STATE (R419, Table 16.1): in S4 the cells lose everything, and their tables must be loaded again. -/
def execRegionSafeState (r : RegionIx) (s : State) : Host.Outcome State Fault Refusal :=
  match (s.region r).going with
  | none => .next s
  | some t =>
    let s := s.modRegion r (fun x => { x with sleep := t, going := none, needsTables := x.needsTables || decide (t = .s4) })
    let s := if t = .s4 then s.clearRegion r else s
    .next (s.regionEnded r).settleWakes

/-- A region that still times out after its second retry (R423). -/
def State.wakeFailed (s : State) (r step : Nat) (bad : List PhaseIx) : State :=
  let s := s.clearRegion r
  let s := s.modRegion r (fun x => { x with sleep := .s4, waking := none, wakeFail := true, needsTables := true })
  let s := s.faultActed 0x03 2 0 r 1 0
  let s := if step = 1 then bad.foldl (fun s p => s.addDefect 0x04 2 p.val 0 0) s else s.addDefect 0x05 2 r 0 0
  let w := [BitVec.ofNat 128 r]
  let s := s.notice0 6 0x1006 w
  let s := match regionOwner s.turfMap r with
    | some t => if t = 0 then s else s.noticeTurf t 6 0x1006 w
    | none => s
  s.regionEnded r

/-- The region reports S0; from S4 its store has been zeroed and its microcode and tables loaded (R40, R394, R421). -/
def State.wakeDone (s : State) (r : Nat) (fromS4 : Bool) : State :=
  let s := if fromS4 then ((s.clearRegion r).loadRegion r).modRegion r (fun x => { x with needsTables := false }) else s
  (s.modRegion r (fun x => { x with sleep := .s0, waking := none })).regionEnded r

/-- A region that locked on its alternate PLL has taken its pool's spare (R485, Table 19.1). -/
def State.pllTaken (s : State) (r : Nat) (w : Waking) : State :=
  if w.attempt ≠ 1 ∨ s.hasDefect 0x05 r 0 then s else (s.takeSpare 0x05 r r 2).faultActed 0x05 2 1 r 0 0

/-- The retry of a Kindling step (Table 16.2): the spare phase for each phase that is not ready, which is replaced and so listed (R485), or
the other PLL. -/
def State.retryStep (s : State) (r : Nat) (w : Waking) (bad : List PhaseIx) : State :=
  let s := s.modRegion r (fun x => { x with
    waking := some { w with attempt := w.attempt + 1 }, altPll := if w.step = 2 then decide (w.attempt = 0) else x.altPll })
  if w.step = 1 ∧ w.attempt = 0 then
    bad.foldl (fun s p =>
      let g := p.val / 9
      if (s.group g).spareUsed || s.sparesLeft 0x04 g == 0 then s
      else
        let s := (s.modGroup g (fun y => { y with spareUsed := true })).modPhase p.val (fun x => { x with isOpen := true })
        (s.takeSpare 0x04 g p.val 2).faultActed 0x04 2 1 p.val 0 0) s
  else s

/-- KINDLING_STEP (R421 to R423); a region under reset does not wake (R394): `ready` says whether the step is ready before its timeout, `badPhases` the phases that are not. -/
def execKindlingStep (r : RegionIx) (ready : Bool) (badPhases : List PhaseIx) (now : Nat) (s : State) :
    Host.Outcome State Fault Refusal :=
  let s := s.at_ now
  match (s.region r).waking with
  | none => .next s
  | some w =>
    if s.bu.computeHeld || s.bu.crstLow || s.bu.diesHeld.contains (r.val / 4) then .next s
    else
    let goTo := fun (n : Nat) => s.modRegion r (fun x => { x with waking := some { w with step := n, attempt := 0 } })
    let switchDue := match s.pw.switchAt with | some (c, _) => decide (c ≤ s.now) | none => false
    match w.step, ready with
    | 0, true => .next (goTo 2)
    | 1, true => .next (goTo 2)
    | 2, true => .next ((goTo 3).pllTaken r w)
    | 3, true => .next (if switchDue then s else goTo 4)
    | 4, true => .next (s.wakeDone r w.fromS4).settleWakes
    | n, _ =>
      if n ≠ 1 ∧ n ≠ 2 then .next s
      else if w.attempt < 2 then .next (s.retryStep r w badPhases)
      else .next (s.wakeFailed r n badPhases).settleWakes

/-! ### What a Clamp latches (R62, R502) -/

/-- A snapshot slot of a cell (Table 2.13). -/
def State.snapshot (s : State) (c count : Nat) : SnapSlot :=
  let x := s.cell c
  { valid := true
    data := natLe 8 count ++ natLe 4 (cellStateWord x (s.region (regionOf c)).sleep) ++ natLe 4 x.err.toNat ++ natLe 4 x.ptr
      ++ natLe 4 x.ae0.ptr ++ natLe 4 x.ae1.ptr ++ natLe 4 (x.layer.toNat * 2 ^ 16 + x.operator.toNat)
      ++ (List.range 16).flatMap (fun i => natLe 4 (x.loop i).toNat) ++ (List.range 16).flatMap (fun i => natLe 1 (x.token i))
      ++ natLe 4 (rickCountWord x.rick) ++ natLe 12 0 ++ (List.range 12).flatMap (fun i => natLe 8 (tget x.ctrs 0 i)) ++ natLe 32 0
      ++ (List.range 64).flatMap (fun i => natLe 4 (s.ctr (65536 + 64 * c + i)).value) }

/-- A Clamp reaches a cell's snapshot bank (R62, Table 2.14). -/
def State.clampCell (s : State) (count c : Nat) : State :=
  s.modCell c (fun x =>
    if x.snapHold then { x with missed := min 255 (x.missed + 1), clamps := min 255 (x.clamps + 1) }
    else
      let n := s.snapshot c count
      { x with latest := n, first := if x.first.valid then x.first else n, clamps := min 255 (x.clamps + 1) })

/-- The Clamp announced for a count latches every cell that is not in S4 and every counter set (R502). -/
def State.latchClamp (s : State) (c : Nat) : State :=
  let s := { s with obs := { s.obs with
    clampAt := setDel s.obs.clampAt c, lastClampAt := some c, clampCtrs := s.obs.ctrs, clampLaunches := s.obs.launches } }
  let s := { s with bu := { s.bu with clampOutUntil := c + 1000 } }
  let rs := (List.range 64).filter (fun r => decide ((s.region r).sleep ≠ .s4))
  (rs.flatMap regionCells).foldl (fun s x => s.clampCell c x) s

/-! ### Thermal shutdown (R458) -/

/-- The holds in progress end; what is announced for later stays announced (R458). -/
def HoldSt.ended (h : HoldSt) : HoldSt :=
  let g : HoldSt := { h with repair := none, tuning := [], swapOn := false, swapEnd := none }
  if h.lightOn then { g with lightOn := false, lightEnd := none, swapping := [], retuning := [] } else g

/-- The holds in progress end and their commands complete: with no batch left, a calendar swap under way is made at once (R458, R469). -/
def State.endHolds (s : State) : State :=
  let h := s.holds
  let s := { s with holds := h.ended }
  let s := h.tuning.foldl (fun s x => s.completeAt (x.2.2.1, x.2.2.2) stOk 0) s
  match s.drain with
  | none => s
  | some d =>
    if d.routing || !h.swapOn then s
    else
      let s := if d.leaving then s else s.endCalendar d
      ({ s with drain := none } : State).completeAt d.cmd stOk (if d.unload.isSome then 0 else d.epoch)

/-- The latch trips: Ash record, Clamp, pins, regions to S4, sites to self-refresh, light off, batches ended. Regions are in S4 only after
the Clamp that the shutdown calls for (R503). -/
def State.thermalShutdown (s : State) (n : Nat) : State :=
  if s.pw.shutdown then s
  else
    let x := s.sensor n
    let s := s.notice0 7 0x1222 [thermalWord n x.value (b2n x.substituted * 2 ^ 32)]
    let s := (s.ashCapture 1 0).faultClamp
    let due := if s.obs.clampMask.testBit 2 then s.obs.clampAt.filter (fun c => decide (c ≤ s.now + 1024)) else []
    let s := due.foldl (fun s c => s.latchClamp c) s
    let s := { s with pw := { s.pw with shutdown := true }, bu := { s.bu with thermtripN := true, faultN := true } }
    let s := (List.range 64).foldl (fun s r => if (s.region r).sleep = .s4 ∧ !(s.region r).busy then s
      else (s.clearRegion r).modRegion r (fun y =>
        { y with sleep := .s4, asked := .s4, going := none, waking := none, pending := none, needsTables := true })) s
    let s := (List.range 24).foldl (fun s m => s.modSite m (fun y => { y with selfRefresh := true, heldRefresh := true })) s
    let s := (List.range 352).foldl (fun s l => s.loseLink l) s
    let s := { s with links := tmap s.links (fun _ l => { l with state := .down }) }
    let s := (List.range 64).foldl (fun s r => s.regionEnded r) s
    let s := s.batches.foldl (fun s p => match s.batch p.1 with
      | none => s
      | some b => s.finishBatch p.1 b stInternal 0) s
    s.endHolds.settleWakes

/-- THERMAL_SAMPLE (R446 to R454, R458): the readings of one group; a sensor at its shutdown level shuts the module down. -/
def execThermalSample (readings : List SensorReading) (now : Nat) (s : State) : Host.Outcome State Fault Refusal :=
  let s := (s.at_ now).thermalTaken readings
  match (sampledIds readings).find? (fun n => decide (shutdownLevel n ≤ (s.sensor n).value)) with
  | none => .next s
  | some n => .next (s.thermalShutdown n)

/-- PHASE_OPEN (R440). -/
def execPhaseOpen (p : PhaseIx) (now : Nat) (s : State) : Host.Outcome State Fault Refusal :=
  .next ((s.at_ now).phaseOpens p).settleWakes

/-- PHASE_SENSE_CHECK (R441). -/
def execPhaseSenseCheck (g : GroupIx) (miss : Option (Fin 9)) (now : Nat) (s : State) : Host.Outcome State Fault Refusal :=
  .next ((s.at_ now).senseCheck g miss).settleWakes

end Sys2Proof.Machine
end

