-- ==== Sys2Proof/Machine/Matrix.lean ====
section
/-!
DEFINITION. The cell's data path: operand panels of the matrix unit (R72 to R78), accumulator slots (R42, R100), the tile a
MATMUL leaves, drained rows (R101), vector loads and stores (R105), and the tensor digests over what is written (R499 to R501).
-/
namespace Sys2Proof.Machine

/-! ### Panels (R70 to R75) -/

/-- Key of a cell's store row. -/
def rowKey (c row : Nat) : Nat := storeKey c (512 * row)

/-- Element i, of w bits, of an area that starts at a key (R72). -/
def elemAt (m : Memory) (base w i : Nat) : Nat :=
  let b := i * w
  memNat m (base + b / 8) ((b % 8 + w + 7) / 8) / 2 ^ (b % 8) % 2 ^ w

/-- The scale byte of a panel at K-step k of a lane (R72). -/
def scaleAt (m : Memory) (c srow k lane : Nat) : Nat := (memGet m (rowKey c srow + k / 32 * 64 + lane)).toNat

/-- The value of a panel's stored element `stored` x 64 + lane, with the scale of K-step k. -/
def panelVal (m : Memory) (c fmt row srow k stored lane : Nat) : FV :=
  let e := elemAt m (rowKey c row) (fmtBits fmt) (stored * 64 + lane)
  if isMx fmt then decMx fmt (scaleAt m c srow k lane) e else decElem fmt e

/-- Where a 2:4 sparse panel keeps K-step k of a lane: the compressed K-step, none for an omitted position (R74, R75). -/
def sparseAt (m : Memory) (c metaRow k lane : Nat) : Option Nat :=
  let g := k / 4
  let n := elemAt m (rowKey c metaRow) 4 (g * 64 + lane)
  if k % 4 = n % 4 then some (2 * g) else if n % 4 < n / 4 ∧ k % 4 = n / 4 then some (2 * g + 1) else none

/-- A at K-step k, lane m (R70 to R75): an omitted position is zero, or NaN under a NaN scale. -/
def matA (m : Memory) (c : Nat) (o : MatOp) (k lane : Nat) : FV :=
  if o.sparse then
    match sparseAt m c o.metaRow k lane with
    | some st => panelVal m c o.fmtA o.aRow o.asRow k st lane
    | none => if scaleAt m c o.asRow k lane = 255 then .nan else .zero false
  else panelVal m c o.fmtA o.aRow o.asRow k k lane

/-- B at K-step k, lane n. -/
def matB (m : Memory) (c : Nat) (o : MatOp) (k lane : Nat) : FV := panelVal m c o.fmtB o.bRow o.bsRow k k lane

/-- The product of K-step k for output element i = m x 64 + n. -/
def matProd (m : Memory) (c : Nat) (o : MatOp) (i k : Nat) : FV := (matA m c o k (i / 64)).mul (matB m c o k (i % 64))

/-- The exact sum of the 32 products of block b (R76). -/
def blockSum (m : Memory) (c : Nat) (o : MatOp) (i b : Nat) : FV :=
  (List.range 31).foldl (fun (a : FV) j => a.add (matProd m c o i (32 * b + j + 1))) (matProd m c o i (32 * b))

/-- FP32 accumulation of one output element (R76): one rounding per block pair, or per product without scales. -/
def accF32 (m : Memory) (c : Nat) (o : MatOp) (i : Nat) (start : Word) : Word :=
  if isMx o.fmtA then
    (List.range (o.k / 32)).foldl (fun (a : Word) b => toF32 ((ofF32 a).add (blockSum m c o i b))) start
  else (List.range o.k).foldl (fun (a : Word) k => toF32 ((ofF32 a).add (matProd m c o i k))) start

/-- Ledger accumulation of one output element, with the LEDGER_RANGE events recorded (R80, R81, R84). -/
def accLedger (m : Memory) (c : Nat) (o : MatOp) (i : Nat) (start : BitVec 128) : BitVec 128 × Nat :=
  (List.range o.k).foldl (fun (a : BitVec 128 × Nat) k =>
    let t := ledgerTerm o.anchor (matProd m c o i k)
    let r := ledgerAdd a.1 t.1
    (r.1, a.2 + b2n t.2 + b2n r.2)) (start, 0)

/-- The bytes a matrix step fetches, by first row (R38, R72, R75). -/
def matBytes (o : MatOp) : List (Nat × Nat) :=
  [(o.aRow, ceilDiv ((if o.sparse then o.k / 2 else o.k) * 64 * fmtBits o.fmtA) 8), (o.bRow, ceilDiv (o.k * 64 * fmtBits o.fmtB) 8)]
  ++ (if isMx o.fmtA then [(o.asRow, ceilDiv o.k 32 * 64), (o.bsRow, ceilDiv o.k 32 * 64)] else [])
  ++ (if o.sparse then [(o.metaRow, ceilDiv o.k 4 * 32)] else [])

/-- The K-step rate per cell cycle in sixteenths (R78). -/
def matRate16 (o : MatOp) : Nat :=
  let base := if o.fmtA = 7 ∧ o.fmtB = 7 then 32 else if isMx o.fmtA then 16 else if o.fmtA = 0 then 1 else 8
  base * (if o.sparse then 2 else 1) / (if o.ledger then 2 else 1)

/-- Schedule cycles in which a matrix step feeds K-steps (R99). -/
def matCycles (o : MatOp) : Nat := ceilDiv (o.k * 16) (matRate16 o)

/-! ### Accumulator slots (R42, R100) -/

/-- The accumulator record of FP32 slot n, or of ledger slot n at 8 + n. -/
def CellSt.accSlot (x : CellSt) (n : Nat) : AccSlot := tget x.acc {} n

/-- Whether ledger slot n is in ledger mode. -/
def CellSt.ledgerMode (x : CellSt) (n : Nat) : Bool := (x.accSlot (8 + n)).ledger

/-- Whether a slot's mode agrees with a LEDGER bit (R100). -/
def CellSt.slotMode (x : CellSt) (ledger : Bool) (acc : Nat) : Bool :=
  if ledger then decide (acc < 2) && x.ledgerMode acc else !x.ledgerMode (acc / 4)

/-- The four FP32 slots of a group. -/
def groupSlots (n : Nat) : List Nat := (List.range 4).map (fun i => 4 * n + i)

/-- The slots a matrix step uses (R94, R100): a ledger step, and the step that returns a ledger slot to FP32, use the group. -/
def CellSt.matSlots (x : CellSt) (o : MatOp) : List Nat :=
  if o.ledger then groupSlots o.acc else if x.ledgerMode (o.acc / 4) then groupSlots (o.acc / 4) else [o.acc]

/-- Mode and anchor agree with the slot (R100). -/
def CellSt.matModeOk (x : CellSt) (o : MatOp) : Bool :=
  if o.ledger then o.init || (x.ledgerMode o.acc && decide ((x.accSlot (8 + o.acc)).anchor = o.anchor))
  else !x.ledgerMode (o.acc / 4) || (o.init && o.acc % 4 == 0)

/-- The values of a slot by index, 0 where none is listed. -/
def accVals (f : Nat → BitVec 128) : Tbl (BitVec 128) :=
  ((List.range 4096).map (fun i => (i, f i))).filter (fun p => p.2 ≠ 0)

/-- The accumulator file after a matrix step, with the LEDGER_RANGE events recorded (R76, R80, R100). -/
def CellSt.matAcc (x : CellSt) (m : Memory) (c : Nat) (o : MatOp) : Tbl AccSlot × Nat :=
  if o.ledger then
    let old := if o.init then [] else (x.accSlot (8 + o.acc)).vals
    let r := (List.range 4096).map (fun i => (i, accLedger m c o i (tget old 0 i)))
    (tset x.acc (8 + o.acc) {
      ledger := true, anchor := o.anchor, vals := (r.map (fun p => (p.1, p.2.1))).filter (fun p => p.2 ≠ 0) },
     (r.map (fun p => p.2.2)).sum)
  else
    let base := if x.ledgerMode (o.acc / 4) then
        tset ((groupSlots (o.acc / 4)).foldl (fun (t : Tbl AccSlot) i => tset t i {}) x.acc) (8 + o.acc / 4) {}
      else x.acc
    let old := if o.init then [] else (x.accSlot o.acc).vals
    (tset base o.acc { vals := accVals (fun i => (accF32 m c o i ((tget old 0 i).setWidth 32)).setWidth 128) }, 0)

/-! ### Drained and stored elements (R85, R101, R105) -/

/-- Encode an exact value to FP32, FP16 or BF16 (Table 3.6). -/
def encOut (fmt rmode rnd : Nat) (v : FV) : Nat :=
  match fmt with
  | 0 => encIeee 8 23 rmode rnd v
  | 1 => encIeee 5 10 rmode rnd v
  | _ => encIeee 8 7 rmode rnd v

/-- Pack elements of w bits in ascending bit position. -/
def packBits (w : Nat) (l : List Nat) : Bytes :=
  natLe (ceilDiv (w * l.length) 8) (l.foldr (fun e acc => e % 2 ^ w + 2 ^ w * acc) 0)

/-- The elements a DRAIN writes, in row-major order (R101). -/
def drainElems (a : AccSlot) (fmt rmode : Nat) (key : DWord) : List Nat :=
  (List.range 4096).map (fun i =>
    let v := tget a.vals 0 i
    if fmt = 9 then v.toNat
    else if a.ledger then encOut fmt rmode (srWord key i) (ofLedger a.anchor v)
    else if fmt = 0 then v.toNat % 2 ^ 32
    else encOut fmt rmode (srWord key i) (ofF32 (v.setWidth 32)))

/-- The 128 FP32 or INT32 lanes a VLOAD reads (R85, R105). -/
def loadLanes (m : Memory) (c : Nat) (o : VecMem) (key : DWord) : List Word :=
  let base := rowKey c o.row + o.byteOff
  (List.range 128).map (fun i =>
    let e := elemAt m base (fmtBits o.fmt) i
    if o.fmt = 0 ∨ o.fmt = 10 then BitVec.ofNat 32 e
    else if o.fmt = 9 then BitVec.ofNat 32 (encIeee 8 23 o.rmode (srWord key i) (ofLedger o.anchor (BitVec.ofNat 128 e)))
    else if isMx o.fmt then toF32 (decMx o.fmt (memGet m (rowKey c o.scaleRow + o.scaleOff + i / 32)).toNat e)
    else toF32 (decElem o.fmt e))

/-- The bytes a vector load or store touches: key and length. -/
def vecSpans (c : Nat) (o : VecMem) : List (Nat × Nat) :=
  (rowKey c o.row + o.byteOff, vecBytes o.fmt) :: (if isMx o.fmt then [(rowKey c o.scaleRow + o.scaleOff, 4)] else [])

/-- Four MX blocks quantised from 128 lanes: scales and element codes (R86). -/
def quantLanes (fmt rmode : Nat) (lanes : List Word) (key : DWord) : List Nat × List Nat :=
  (List.range 4).foldl (fun (acc : List Nat × List Nat) b =>
    let r := quantise fmt rmode ((List.range 32).map (fun i => ofF32 (lanes.getD (32 * b + i) 0)))
      ((List.range 32).map (fun i => srWord key (32 * b + i)))
    (acc.1 ++ [r.1], acc.2 ++ r.2)) ([], [])

/-- What a VSTORE writes: element codes, scales, LEDGER_RANGE events (R80, R85, R86, R105). -/
def storeElems (o : VecMem) (lanes : List Word) (key : DWord) : List Nat × List Nat × Nat :=
  if isMx o.fmt then
    let q := quantLanes o.fmt o.rmode lanes key
    (q.2, q.1, 0)
  else if o.fmt = 9 then
    let ts := lanes.map (fun w => ledgerTerm o.anchor (ofF32 w))
    (ts.map (fun t => wrap 128 t.1), [], (ts.filter (fun t => t.2)).length)
  else if o.fmt = 0 ∨ o.fmt = 10 then (lanes.map (fun w => w.toNat), [], 0)
  else (lanes.zipIdx.map (fun p => encOut o.fmt o.rmode (srWord key p.2) (ofF32 p.1)), [], 0)

/-! ### Digests (R499 to R501) -/

/-- The exact values of written elements, none for INT32, which enters the CRC only. -/
def elemValues (fmt : Nat) (anchor : Int) (codes scales : List Nat) : Option (List FV) :=
  if fmt = 10 then none
  else if fmt = 9 then some (codes.map (fun e => ofLedger anchor (BitVec.ofNat 128 e)))
  else if isMx fmt then some (codes.zipIdx.map (fun p => decMx fmt (scales.getD (p.2 / 32) 127) p.1))
  else some (codes.map (decElem fmt))

/-- The lesser or greater of a running figure and a value, NaN ignored. -/
def digestPick (wantMax : Bool) (acc : Option Word) (w : Word) : Option Word :=
  match acc with
  | none => some w
  | some a => some (f32MinMax wantMax a w)

/-- Enter one element in a digest's statistics (R501). DESIGN CHOICE (log entry 132): a `LEDGER_RANGE` event of SUM shows in DFLAGS [1] alone;
it counts neither as event 0x21 of the cell nor in bit 0 of `RUN_BATCH`'s RESULT. -/
def digestElem (anchor : Int) (d : DigestAcc) (v : FV) : DigestAcc :=
  let d := { d with elements := d.elements + 1 }
  match v with
  | .nan => { d with nans := d.nans + 1 }
  | v =>
    let w := toF32 v
    let t := ledgerTerm anchor v
    let r := ledgerAdd d.sum t.1
    let zero := match v with | .fin _ m _ => m == 0 | _ => false
    let inf := match v with | .inf _ => true | _ => false
    { d with
      min := digestPick false d.min w, max := digestPick true d.max w
      absmax := digestPick true d.absmax (BitVec.ofNat 32 (w.toNat % 2 ^ 31))
      sum := r.1, range := d.range || t.2 || r.2, zeros := d.zeros + b2n zero, infs := d.infs + b2n inf }

/-- Whether a digest's filter covers a step's tag. -/
def DigestSt.covers (d : DigestSt) (layer operator : Half) : Bool :=
  d.operator == operator && (d.layerAny || d.layer == layer)

/-- Enter a step's written elements in every digest of the cell's turf that covers its tag. -/
def State.digestStep (s : State) (c : Nat) (layer operator : Half) (bytes : Bytes) (vals : Option (List FV)) : State :=
  match regionOwner s.turfMap (regionOf c) with
  | none => s
  | some t =>
    let l := (tget s.obs.digests [] t).map (fun (d : DigestSt) =>
      if d.covers layer operator then
        let a := tget d.cur {} c
        let a := { a with crc := BitVec.ofNat 64 (bytes.foldl crc64Byte a.crc.toNat) }
        { d with cur := tset d.cur c ((vals.getD []).foldl (digestElem d.anchor) a) }
      else d)
    if l.isEmpty then s else { s with obs := { s.obs with digests := tset s.obs.digests t l } }

end Sys2Proof.Machine
end

