-- ==== Sys2Proof/Machine/Collier.lean ====
section
/-!
DEFINITION. The Collier (04): the issue of a step, one meaning per step, the completion of issued steps, HALT, the soft-start
ramp, and the cell's own checkers (R36 to R39, R91 to R123, R552). A command for a step that may not issue now leaves the state
as it is (log entry 16).
-/
namespace Sys2Proof.Machine

/-! ### Holds (R126) -/

/-- A hold is in force: every cell cycle of the module is a hold cycle (R164, R179, R195, R469). -/
def State.held (s : State) : Bool := s.holds.repair.isSome || s.holds.lightOn || !s.holds.tuning.isEmpty || s.holds.swapOn

/-! ### Registers of a cell -/

/-- Write loop register n. -/
def CellSt.setLoop (x : CellSt) (n : Nat) (v : Word) : CellSt := { x with l := tset x.l n v }
/-- The 128 lanes of vector register n. -/
def CellSt.lanes (x : CellSt) (n : Nat) : List Word := tget x.v (List.replicate 128 0) n

/-- Apply a take. -/
def CellSt.take (x : CellSt) (t n : Nat) : CellSt := if n = 0 then x else { x with t := tset x.t t (x.token t - n) }

/-- Post to a token counter (R50, R52): above 255 it is not applied and the cell stops. -/
def State.post (s : State) (c t n : Nat) : State :=
  if n = 0 then s
  else if 255 < (s.cell c).token t + n then s.cellFault c 0 4 true none
  else s.modCell c (fun x => { x with t := tset x.t t (x.token t + n) })

/-! ### Hazards (R94) -/

/-- The registers and slots a step uses. -/
structure StepUse where
  readsV : List Nat := []
  writesV : List Nat := []
  readsL : List Nat := []
  writesL : List Nat := []
  acc : List Nat := []
deriving DecidableEq, Repr

/-- Sources a vector function uses (Table 4.7). -/
def vopSources (func : Nat) : Nat :=
  if func = 0x03 ∨ func = 0x19 then 3
  else if func ≤ 0x07 ∨ (0x10 ≤ func ∧ func ≤ 0x18) ∨ func = 0x1C then 2
  else if func = 0x1D ∨ func = 0x1E then 0 else 1

/-- What a step uses (Tables 4.4 to 4.12). -/
def CellSt.stepUse (x : CellSt) (w : BitVec 256) : StepUse :=
  match stepOp w with
  | some .matmul =>
    { acc := x.matSlots (matOp w x.loop), readsL := if w.toNat.testBit 125 then [sf w 124 121] else [] }
  | some .drain => { acc := if w.toNat.testBit 216 then groupSlots (sf w 215 213) else [sf w 215 213] }
  | some .vop =>
    { readsV := [sf w 212 208, sf w 207 203, sf w 202 198].take (vopSources (sf w 223 218)), writesV := [sf w 217 213],
      writesL := if w.toNat.testBit 194 then [sf w 193 190] else [] }
  | some .vload => { writesV := [sf w 216 212], readsL := if w.toNat.testBit 161 then [sf w 160 157] else [] }
  | some .vstore => { readsV := [sf w 216 212], readsL := if w.toNat.testBit 161 then [sf w 160 157] else [] }
  | some .ctlRead =>
    { writesL := [sf w 211 208],
      readsL := if 0x40 ≤ sf w 223 212 ∧ sf w 223 212 < 0x80 then [(sf w 223 212 - 0x40) / 4] else [] }
  | some .ctlWrite => { readsL := if w.toNat.testBit 207 then [sf w 206 203] else [] }
  | some .rickRead => { writesV := [sf w 216 212] }
  | some .wait => { readsL := if w.toNat.testBit 153 then [sf w 152 149] else [] }
  | some .sread => { writesL := [sf w 211 208] }
  | some .lset => { writesL := [sf w 223 220] }
  | some .ladd => { readsL := [sf w 223 220], writesL := [sf w 223 220] }
  | some .lcopy => { readsL := [sf w 219 216], writesL := [sf w 223 220] }
  | some .djnz => { readsL := [sf w 223 220], writesL := [sf w 223 220] }
  | some .jz => { readsL := [sf w 223 220] }
  | some .jltu => { readsL := [sf w 223 220, sf w 219 216] }
  | _ => {}

/-- Two lists share no number. -/
def apart (a b : List Nat) : Bool := a.all (fun x => !b.contains x)

/-- An uncompleted step does not stand in a step's way (R94). -/
def InFlight.clear (i : InFlight) (u : StepUse) : Bool :=
  apart i.writesL (u.readsL ++ u.writesL) && apart i.writesV (u.readsV ++ u.writesV) && apart i.readsV u.writesV
    && apart i.acc u.acc

/-- Whether a unit takes one more step (Table 4.1). When the MAC unit has fed its last K-step and when the special-function
lanes are free is a matter of cycles, which the arrival of the command decides (log entry 21). -/
def CellSt.unitFree (x : CellSt) (u : StepUnit) : Bool :=
  match u with
  | .drn => !x.inflight.any (fun i => i.unit == .drn)
  | .mov => !x.inflight.any (fun i => i.unit == .mov)
  | _ => true

/-- SIGNAL and HALT issue only after every earlier step, as FENCE makes any step do (R92, R109, R112). -/
def fenced (w : BitVec 256) : Bool := stepFence w || stepOp w == some .signal || stepOp w == some .halt

/-- The hazards of R94 are clear for a step and its FENCE, if set, is met. -/
def CellSt.hazardFree (x : CellSt) (w : BitVec 256) : Bool :=
  x.inflight.all (fun i => i.clear (x.stepUse w)) && (!fenced w || x.inflight.isEmpty)

/-- A step has reached issue (R114): unit, hazards and FENCE allow it. -/
def CellSt.reached (x : CellSt) (op : StepOp) (w : BitVec 256) : Bool := x.unitFree (stepUnit op) && x.hazardFree w

/-- The conditions of Table 4.13. -/
def CellSt.issueOk (x : CellSt) (w : BitVec 256) : Bool :=
  match stepOp w with
  | some .matmul =>
    let o := matOp w x.loop
    (!w.toNat.testBit 125 || matKOk o) && x.matModeOk o
  | some .drain => x.slotMode (w.toNat.testBit 216) (sf w 215 213) && (sf w 223 220 != 9 || w.toNat.testBit 216)
  | some .vload => !w.toNat.testBit 161 || vecRowOk (vecMem w x.loop)
  | some .vstore => !w.toNat.testBit 161 || vecRowOk (vecMem w x.loop)
  | _ => true

/-! ### Issue (R92, R114) -/

/-- A malformed step (R114), or a step pointer past the last step (R112). -/
def State.malformed (s : State) (c : Nat) : State := s.cellFault c 3 3 true none

/-- Whether the Collier issues steps now. -/
def CellSt.issuing (x : CellSt) : Bool := x.running && !x.stopping && !x.waitGated && !x.haltIssued

/-- The step pointer has reached the table's length with nothing left to issue (R112, Table 4.13). -/
def State.endCheck (s : State) (c : Nat) : State :=
  if (s.cell c).issuing && decide ((s.cell c).steps.length ≤ (s.cell c).ptr) then s.malformed c else s

/-- A step issues: its take, the step pointer moved on before its own effect may move it elsewhere, its events (R92, R114). -/
def State.beginIssue (s : State) (c : Nat) (op : StepOp) (w : BitVec 256) : State :=
  let x := s.cell c
  let s := s.modCell c (fun y => { y.take (stepTake w).1 (stepTake w).2 with ptr := y.ptr + 1 })
  let s := s.cellEvent c 0x03 1 x.layer x.operator
  if stepUnit op = .vec then s.cellEvent c 0x0B 1 x.layer x.operator else s

/-- The end of an issue: the step is counted (R88), and a step pointer past the table is a malformed step. -/
def State.endIssue (s : State) (c : Nat) : State :=
  (s.modCell c (fun y => { y with stepCount := (y.stepCount + 1) % 2 ^ 48 })).endCheck c

/-- Issue the step at the step pointer when it is of the given operation: the checks of R114, then the issue with the step's own
effect. -/
def State.issue (s : State) (c : Nat) (op : StepOp) (act : State → BitVec 256 → State) : State :=
  let x := s.cell c
  match x.steps[x.ptr]? with
  | none => s
  | some w =>
    if !x.issuing || s.held || stepOp w != some op || !x.reached op w then s
    else if !x.issueOk w then s.malformed c
    else if !x.canTake (stepTake w).1 (stepTake w).2 then s
    else (act (s.beginIssue c op w) w).endIssue c

/-- Put an issued step in flight, with what it uses, its post, and the effects of its completion. -/
def State.fly (s : State) (c : Nat) (op : StepOp) (w : BitVec 256) (u : StepUse) (fx : List StepEffect) : State :=
  s.modCell c (fun x => { x with inflight := x.inflight ++ [{
    unit := stepUnit op, readsV := u.readsV, writesV := u.writesV, writesL := u.writesL, acc := u.acc,
    postT := (stepPost w).1, postN := (stepPost w).2, effects := fx, layer := x.layer, operator := x.operator }] })

/-- A CTL step completes at issue: its post is applied (R93, Table 4.1). -/
def State.ctlDone (s : State) (c : Nat) (w : BitVec 256) : State := s.post c (stepPost w).1 (stepPost w).2

/-- LEDGER_RANGE events of a step (R84). -/
def State.ledgerEvents (s : State) (c n : Nat) : State :=
  if n = 0 then s
  else (s.modCell c (fun x => { x with ledgerRange := true })).cellEvent c 0x21 n (s.cell c).layer (s.cell c).operator

/-- The seed of a cell's image (R88). -/
def State.cellSeed (s : State) (c : Nat) : DWord :=
  match s.batchOfCell c with
  | none => 0
  | some t => match s.batch t with
    | none => 0
    | some b => match tfind s.images b.handle with
      | none => 0
      | some img => img.seed

/-- The stochastic rounding key of the step a cell issues (R88). -/
def State.stepKey (s : State) (c : Nat) : DWord := srKey (s.cellSeed c) c (s.cell c).stepCount

/-- An uncorrectable store error (R38): the batch ends, and Heartwood retests the row. What the retest finds is open: a free
value decides (log entry 1). Words that carry nothing but poison are no fault of the cell: no spare is mapped and nothing entered in its
wear log (R208). -/
def State.storeUe (s : State) (c : Nat) (spans : List (Nat × Nat)) : State :=
  if spans.any (fun a => (markSpan a.1 a.2).any (fun w => s.marks.contains w && !s.poison.contains w)) then
    s.draw.2.cellFault c 2 1 false (some (!s.draw.1.toNat.testBit 0))
  else s.cellFault c 2 1 false none

/-! ### Compute steps -/

/-- MATMUL (R41, R42, R76 to R82, R99, R100): operands are read and the slot brought up to date at issue; no step can tell
when within the step that happens, since the hazards of R94 hold until it completes (log entry 21). -/
def execMatmul (c : CellIx) (s : State) : Host.Outcome State Fault Refusal :=
  .next (s.issue c .matmul (fun s w =>
    let x := s.cell c
    let o := matOp w x.loop
    let s := s.fly c .matmul w (x.stepUse w) []
    if (matBytes o).any (fun a => s.marked (rowKey c a.1) a.2) then s.storeUe c ((matBytes o).map (fun a => (rowKey c a.1, a.2)))
    else
      let r := x.matAcc s.mem c o
      let s := s.modCell c (fun y => { y with acc := r.1, macBusy := true })
      (s.cellEvent c 0x04 (matCycles o) x.layer x.operator).ledgerEvents c r.2))

/-- DRAIN (R43, R85, R101). -/
def execDrain (c : CellIx) (s : State) : Host.Outcome State Fault Refusal :=
  .next (s.issue c .drain (fun s w =>
    let x := s.cell c
    let f := sf w 223 220
    let a := x.accSlot (if w.toNat.testBit 216 then 8 + sf w 215 213 else sf w 215 213)
    let codes := drainElems a f (sf w 219 217) (s.stepKey c)
    let data := packBits (fmtBits f) codes
    let s := s.digestStep c x.layer x.operator data (elemValues f a.anchor codes [])
    s.fly c .drain w (x.stepUse w) [.store (512 * sf w 212 201) data []]))

/-- VOP (R44, R45, R102 to R104). -/
def execVop (c : CellIx) (s : State) : Host.Outcome State Fault Refusal :=
  .next (s.issue c .vop (fun s w =>
    let x := s.cell c
    let key := s.stepKey c
    let mode := sf w 197 195
    let r := vopResult (sf w 223 218) mode (BitVec.ofNat 32 (sf w 189 158)) ((List.range 128).map (srWord key))
      (x.lanes (sf w 212 208)) (x.lanes (sf w 207 203)) (x.lanes (sf w 202 198))
    s.fly c .vop w (x.stepUse w) (.vreg (sf w 217 213) r
      :: (if w.toNat.testBit 194 then [.lreg (sf w 193 190) (r.headD 0)] else []))))

/-- VLOAD (R38, R85, R105, R106). -/
def execVload (c : CellIx) (s : State) : Host.Outcome State Fault Refusal :=
  .next (s.issue c .vload (fun s w =>
    let x := s.cell c
    let o := vecMem w x.loop
    let s := s.fly c .vload w (x.stepUse w) [.vreg o.vr (loadLanes s.mem c o (s.stepKey c))]
    if (vecSpans c o).any (fun a => s.marked a.1 a.2) then s.storeUe c (vecSpans c o) else s))

/-- VSTORE (R85, R86, R105, R106). -/
def execVstore (c : CellIx) (s : State) : Host.Outcome State Fault Refusal :=
  .next (s.issue c .vstore (fun s w =>
    let x := s.cell c
    let o := vecMem w x.loop
    let e := storeElems o (x.lanes o.vr) (s.stepKey c)
    let data := packBits (fmtBits o.fmt) e.1
    let s := s.digestStep c x.layer x.operator data (elemValues o.fmt o.anchor e.1 e.2.1)
    let s := s.ledgerEvents c e.2.2
    s.fly c .vstore w (x.stepUse w) (.store (512 * o.row + o.byteOff) data []
      :: (if isMx o.fmt then [.store (512 * o.scaleRow + o.scaleOff) (packBits 8 e.2.1) []] else []))))

/-! ### Move steps -/

/-- ROWCOPY (R38, R107): marks travel with their words. -/
def execRowcopy (c : CellIx) (s : State) : Host.Outcome State Fault Refusal :=
  .next (s.issue c .rowcopy (fun s w =>
    let n := 512 * sf w 199 190
    let key := rowKey c (sf w 223 212)
    s.fly c .rowcopy w {} [.store (512 * sf w 211 200) (memRead s.mem key n) (s.wordsMarked key n)]))

/-- RICK_CTRL of a cell (Table 2.10): write-only bits read 0. -/
def State.rickCtrl (s : State) : Nat := 256 * b2n s.rickMode

/-- The 4 bytes at an offset of a cell's control space (Table 2.5); an unmapped offset reads 0. -/
def State.cellCtl (s : State) (c off : Nat) : Nat :=
  let x := s.cell c
  let half := fun (v : Nat) => v / 2 ^ (8 * (off % 8)) % 2 ^ 32
  if off = 0 then c
  else if off = 4 then cellStateWord x (s.region (regionOf c)).sleep
  else if off = 8 then x.err.toNat
  else if off = 0x10 then rickCountWord x.rick
  else if off = 0x14 then s.rickCtrl
  else if 0x40 ≤ off ∧ off < 0x80 then (x.loop ((off - 0x40) / 4)).toNat
  else if 0x80 ≤ off ∧ off < 0x90 then leNat ((List.range 4).map (fun i => BitVec.ofNat 8 (x.token (off - 0x80 + i))))
  else if off = 0xC0 then snapCtrlWord x
  else if 0x100 ≤ off ∧ off < 0x160 then half (tget x.ctrs 0 ((off - 0x100) / 8))
  else if 0x160 ≤ off ∧ off < 0x1A0 then half (tget x.ctrCfg ctrCfgReset ((off - 0x160) / 8)).toNat
  else if 0x400 ≤ off ∧ off < 0x600 then leAt x.first.data (off - 0x400) 4
  else if 0x600 ≤ off ∧ off < 0x800 then leAt x.latest.data (off - 0x600) 4
  else 0

/-- CTL_READ (R107). -/
def execCtlRead (c : CellIx) (s : State) : Host.Outcome State Fault Refusal :=
  .next (s.issue c .ctlRead (fun s w =>
    s.fly c .ctlRead w ((s.cell c).stepUse w) [.lreg (sf w 211 208) (BitVec.ofNat 32 (s.cellCtl c (sf w 223 212)))]))

/-- CTL_WRITE (R60, R107): DROP_ITEM and FLUSH of RICK_CTRL; MODE is ignored. -/
def execCtlWrite (c : CellIx) (s : State) : Host.Outcome State Fault Refusal :=
  .next (s.issue c .ctlWrite (fun s w =>
    let v := if w.toNat.testBit 207 then ((s.cell c).loop (sf w 206 203)).toNat else sf w 191 160
    let s := s.modCell c (fun x =>
      let r := if v.testBit 0 then x.rick.drop else x.rick
      { x with rick := if v.testBit 1 then r.flush else r })
    s.fly c .ctlWrite w {} []))

/-- RICK_READ (R57, R107). -/
def execRickRead (c : CellIx) (s : State) : Host.Outcome State Fault Refusal :=
  .next (s.issue c .rickRead (fun s w =>
    let r := (s.cell c).rick.read
    let lanes := (List.range 128).map (fun i => if i < 4 then BitVec.ofNat 32 (r.1.toNat / 2 ^ (32 * i)) else 0)
    (s.modCell c (fun x => { x with rick := r.2 })).fly c .rickRead w ((s.cell c).stepUse w) [.vreg (sf w 216 212) lanes]))

/-! ### Sync steps -/

/-- The Collier as a party to a counter. -/
def State.collierParty (s : State) (c : Nat) : Party :=
  { who := cellParty 0 c, turf := (regionOwner s.turfMap (regionOf c)).getD 64, layer := (s.cell c).layer,
    operator := (s.cell c).operator }

/-- WAIT (R64, R108, R239): a wait that does not succeed stands, and the Collier issues nothing while it does. -/
def execWait (c : CellIx) (s : State) : Host.Outcome State Fault Refusal :=
  .next (s.issue c .wait (fun s w =>
    let x := s.cell c
    let thresh : Int := if w.toNat.testBit 153 then (x.loop (sf w 152 149)).toInt else signed 32 (sf w 217 186)
    let r := s.waitOn (65536 + c * 64 + sf w 223 218)
      { who := cellParty 0 c, thresh := thresh, dec := sf w 185 154, since := s.now, layer := x.layer, operator := x.operator }
    match r.2 with
    | .standing => (r.1.fly c .wait w {} []).modCell c (fun y => { y with waitGated := true })
    | _ => r.1.ctlDone c w))

/-- The counter of the cell's own die that an address names: a signal to it stays on the die. -/
def State.dieCtr (s : State) (c addr : Nat) : Option Nat :=
  match s.resolve addr with
  | some (.ctr k) => if 65536 ≤ k ∧ (k - 65536) / 64 / 256 = c / 256 ∧ addr % 4 = 0 then some k else none
  | _ => none

/-- Whether a signal must wait for room in its CD's Protected queues (R18). -/
def State.signalStalls (s : State) (c turf addr : Nat) : Bool :=
  (s.dieCtr c addr).isNone && !s.signalBad turf addr && !s.protRoom (c / 256)

/-- A signal of a unit of a cell (R109, R115, R245, R246, R544): within its die it is applied at once; one that cannot be sent is
refused at once; any other becomes a Protected packet of its CD. -/
def State.cellSignal (s : State) (c unit addr n : Nat) (p : Party) : State :=
  let s := s.cellEvent c 0x22 1 p.layer p.operator
  match s.dieCtr c addr with
  | some k =>
    let r := s.signalCtr k (n : Int) p
    if r.2 = stOk then r.1 else r.1.refuseToCell c unit r.2 (BitVec.ofNat 64 addr) (r.1.ctr k).epoch p.layer p.operator
  | none =>
    if s.signalBad p.turf addr then
      (s.logUnsent addr n 0 p.who).refuseToCell c unit stBadArg (BitVec.ofNat 64 addr) 0 p.layer p.operator
    else s.sendSignal (c / 256) p.turf addr n 0 p.who

/-- The address a SIGNAL step names. -/
def State.signalAddr (s : State) (c : Nat) (w : BitVec 256) : Nat :=
  if w.toNat.testBit 223 then sf w 127 64 else (s.ctrAddr (65536 + c * 64 + sf w 222 217)).toNat

/-- SIGNAL (R109): it issues once the CD's Protected queues have room (R18), and completes when it is on its way. -/
def execSignal (c : CellIx) (s : State) : Host.Outcome State Fault Refusal :=
  let stalls := match (s.cell c).steps[(s.cell c).ptr]? with
    | some w => s.signalStalls c (s.collierParty c).turf (s.signalAddr c w)
    | none => false
  if stalls then .next s
  else .next (s.issue c .signal (fun s w =>
    (s.cellSignal c 0 (s.signalAddr c w) (sf w 185 154) (s.collierParty c)).ctlDone c w))

/-- SREAD (R108). -/
def execSread (c : CellIx) (s : State) : Host.Outcome State Fault Refusal :=
  .next (s.issue c .sread (fun s w =>
    (s.modCell c (fun x => x.setLoop (sf w 211 208) (BitVec.ofNat 32 (s.ctr (65536 + c * 64 + sf w 223 218)).value))).ctlDone c w))

/-- TOKEN: the header's take and post. -/
def execToken (c : CellIx) (s : State) : Host.Outcome State Fault Refusal := .next (s.issue c .token (fun s w => s.ctlDone c w))

/-! ### Loop steps (Table 4.12) -/

/-- A loop step's IMM32. -/
def loopImm (w : BitVec 256) : Word := BitVec.ofNat 32 (sf w 191 160)

/-- LSET. -/
def execLset (c : CellIx) (s : State) : Host.Outcome State Fault Refusal :=
  .next (s.issue c .lset (fun s w => (s.modCell c (fun x => x.setLoop (sf w 223 220) (loopImm w))).ctlDone c w))

/-- LADD. -/
def execLadd (c : CellIx) (s : State) : Host.Outcome State Fault Refusal :=
  .next (s.issue c .ladd (fun s w =>
    (s.modCell c (fun x => x.setLoop (sf w 223 220) (x.loop (sf w 223 220) + loopImm w))).ctlDone c w))

/-- LCOPY. -/
def execLcopy (c : CellIx) (s : State) : Host.Outcome State Fault Refusal :=
  .next (s.issue c .lcopy (fun s w => (s.modCell c (fun x => x.setLoop (sf w 223 220) (x.loop (sf w 219 216)))).ctlDone c w))

/-- A taken jump moves the step pointer to TARGET. -/
def CellSt.jump (x : CellSt) (taken : Bool) (w : BitVec 256) : CellSt := if taken then { x with ptr := sf w 215 205 } else x

/-- DJNZ. -/
def execDjnz (c : CellIx) (s : State) : Host.Outcome State Fault Refusal :=
  .next (s.issue c .djnz (fun s w =>
    (s.modCell c (fun x =>
      let v := x.loop (sf w 223 220)
      if v = 0 then x else (x.setLoop (sf w 223 220) (v - 1)).jump (v - 1 != 0) w)).ctlDone c w))

/-- JMP. -/
def execJmp (c : CellIx) (s : State) : Host.Outcome State Fault Refusal :=
  .next (s.issue c .jmp (fun s w => (s.modCell c (fun x => x.jump true w)).ctlDone c w))

/-- JZ. -/
def execJz (c : CellIx) (s : State) : Host.Outcome State Fault Refusal :=
  .next (s.issue c .jz (fun s w => (s.modCell c (fun x => x.jump (x.loop (sf w 223 220) == 0) w)).ctlDone c w))

/-- JLTU. -/
def execJltu (c : CellIx) (s : State) : Host.Outcome State Fault Refusal :=
  .next (s.issue c .jltu (fun s w =>
    (s.modCell c (fun x =>
      x.jump (decide ((x.loop (sf w 223 220)).toNat < (x.loop (sf w 219 216)).toNat)) w)).ctlDone c w))

/-- MARK (R111). -/
def execMark (c : CellIx) (s : State) : Host.Outcome State Fault Refusal :=
  .next (s.issue c .mark (fun s w =>
    (s.modCell c (fun x => { x with
      layer := BitVec.ofNat 16 (sf w 223 208), operator := BitVec.ofNat 16 (sf w 207 192) })).ctlDone c w))

/-! ### HALT and completion -/

/-- HALT (R112): issued after every earlier step; nothing after it issues. -/
def execHalt (c : CellIx) (s : State) : Host.Outcome State Fault Refusal :=
  .next (s.issue c .halt (fun s w =>
    (s.modCell c (fun x => { x with haltIssued := true })).fly c .halt w {} []))

/-- Settle the batch of a cell that is stopping. -/
def State.settleCell (s : State) (c : Nat) : State :=
  match s.batchOfCell c with
  | none => s
  | some t => s.settleStop t

/-- HALT_COMPLETE (R96, R112): the post, HALTED, and the turf's done counter signalled by 1. -/
def execHaltComplete (c : CellIx) (s : State) : Host.Outcome State Fault Refusal :=
  let x := s.cell c
  if !x.haltDue || !s.protRoom (c / 256) then .next s
  else
    let posts := x.inflight.filter (fun i => i.unit == .ctl)
    let s := s.modCell c (fun y => { y with halted := true, running := false, haltIssued := false, inflight := [] })
    let s := posts.foldl (fun s i => s.post c i.postT i.postN) s
    if (s.cell c).stoppedErr then .next s
    else match s.batchOfCell c with
    | none => .next s
    | some t =>
      let s := s.modBatch t (fun b => { b with lastHalt := max b.lastHalt s.now })
      .next ((s.cellSignal c 0 (s.ctrAddr (2 * t + 1)).toNat 1 { s.collierParty c with turf := t }).settleCell c)

/-- Apply one effect of a completing step. -/
def State.stepEffect (s : State) (c : Nat) (e : StepEffect) : State :=
  match e with
  | .vreg n l => s.modCell c (fun x => { x with v := tset x.v n l })
  | .lreg n v => s.modCell c (fun x => x.setLoop n v)
  | .store loc data marks => (s.poke (storeKey c loc) data).markWords (storeKey c loc) marks

/-- STEP_COMPLETE (R46, R93): the k-th step in flight of the cell takes its effects, posts and releases its hazards. -/
def execStepComplete (c : CellIx) (k : Fin 2048) (s : State) : Host.Outcome State Fault Refusal :=
  match (s.cell c).inflight[k.val]? with
  | none => .next s
  | some i =>
    if i.unit == .ctl || s.held then .next s
    else
      let s := s.modCell c (fun x => { x with inflight := x.inflight.eraseIdx k.val })
      let s := i.effects.foldl (fun s e => s.stepEffect c e) s
      .next ((s.post c i.postT i.postN).settleCell c)

/-! ### Ramp, scrub, checkers -/

/-- RAMP_UPDATE (R99, R122): the ramp rises after 1,500 schedule cycles in which a MATMUL occupied the MAC unit, else returns to 0. Whether
the unit still feeds K-steps as the next 1,500 begin, `feeding` says: a MATMUL in flight occupies it until its last K-step is fed (log
entry 21). -/
def execRampUpdate (c : RampCheck) (s : State) : Host.Outcome State Fault Refusal :=
  if !(s.cell c.cell).running || s.held then .next s
  else .next (s.modCell c.cell (fun x => { x with
    ramp := if x.macBusy then min 16 (x.ramp + 1) else 0, macBusy := c.feeding && x.inflight.any (fun i => i.unit == .mac) }))

/-- STORE_SCRUB (R37, R39): a correction is counted; an uncorrectable word of the row stays marked, and raises no error (R38).
Which word of the row it is, is a free value. -/
def execStoreScrub (c : CellIx) (row : Fin 3072) (find : ScrubFind) (s : State) : Host.Outcome State Fault Refusal :=
  if (s.region (regionOf c)).sleep ≠ .s0 then .next s
  else match find with
  | .clean => .next s
  | .corrected =>
    .next ((s.modWear c (fun w => { w with
      corrections := w.corrections.filter (fun t => decide (s.now < t + 86400000000000)) ++ [s.now], hourStore := w.hourStore + 1 })).cellEvent
        c 0x20 1 0 0)
  | .uncorrectable =>
    let d := s.draw
    .next (d.2.spoil (rowKey c row + 8 * (d.1.toNat % 64)) 8)

/-- LOGIC_FAULT (R31, R552): the batch ends; a cell that fails its retest is retired, else a soft error is recorded. -/
def execLogicFault (c : CellIx) (retestPasses : Bool) (s : State) : Host.Outcome State Fault Refusal :=
  if (s.region (regionOf c)).sleep ≠ .s0 then .next s else .next (s.cellFault c 6 1 true (some retestPasses))

end Sys2Proof.Machine
end

