-- ==== Sys2Proof/Machine/Engines.lean ====
section
/-!
DEFINITION. Access engines (R47 to R49, R115 to R121), scheduled transfers over mesh and row ports (R127 to R136), and the waking
of gated units (R243). The command of an entry starts the entry's next repeat; one that may not start leaves the state as it is.
-/
namespace Sys2Proof.Machine

/-- An access engine of a cell. -/
def CellSt.ae (x : CellSt) (e : Nat) : Ae := if e = 0 then x.ae0 else x.ae1

/-- Change an access engine. -/
def State.modAe (s : State) (c e : Nat) (f : Ae → Ae) : State :=
  s.modCell c (fun x => if e = 0 then { x with ae0 := f x.ae0 } else { x with ae1 := f x.ae1 })

/-- An access-engine fault (R119). -/
def State.aeFault (s : State) (c e : Nat) : State := (s.modAe c e (fun a => { a with faulted := true })).cellFault c (4 + e) 5 true none

/-- The turf of a cell's units (R323). -/
def State.cellTurf (s : State) (c : Nat) : Nat := (regionOwner s.turfMap (regionOf c)).getD 64

/-! ### Dynamic operations (R47, R115, R117, R276) -/

/-- Cut a move into operations of 256 B to 4 KiB (R47, R115). A REMOTE off a 256 B boundary gives operations off it as well, which
Table 10.2 has their targets refuse (log entry 39). -/
def aeSplit (addr len : Nat) : List (Nat × Nat) :=
  let d := addr % 256
  let b := addr - d
  (List.range (ceilDiv (b % 4096 + len) 4096)).map (fun i =>
    let a := max b (b / 4096 * 4096 + 4096 * i)
    let e := min (b + len) (b / 4096 * 4096 + 4096 * (i + 1))
    (a + d, e - a))

/-- The module's own pod and the pod of another endpoint (Table 11.6, R298). -/
def State.podOf (s : State) (ep : Nat) : Nat := s.epField (8 * ep + 2) 2 / 1024 % 16

/-- Why an engine's operation is refused before it is sent (R263, R276): none when it is sent. -/
def State.aeReach (s : State) (turf addr len : Nat) (isLoad : Bool) : Option Nat :=
  let ep := addr / 2 ^ 48
  match s.issueRefusal turf addr with
  | some st => some st
  | none =>
    if !s.isRemote addr then none
    else
    let inbox := !isLoad && decide (addr % 2 ^ 48 = 0x1000000) && decide (len = 256)
    if s.podOf ep = s.podOf (s.flatOf 49) || inbox then none else some stDenied

/-- Change the repeat an operation belongs to. -/
def Ae.modRep (a : Ae) (id : Nat) (f : AeRep → AeRep) : Ae := { a with reps := a.reps.map (fun r => if r.id = id then f r else r) }

/-- The repeat of an operation. -/
def Ae.repOf (a : Ae) (id : Nat) : Option AeRep := a.reps.find? (fun r => r.id == id)

/-- An operation is no longer outstanding; its repeat has one less to wait for. -/
def Ae.drop (a : Ae) (op : AeOp) : Ae :=
  { a.modRep op.rep (fun r => { r with opsLeft := r.opsLeft - 1 }) with ops := a.ops.filter (fun o => o.tag != op.tag) }

/-- A refused operation (R49, R117): the OP_NACK item, then retry, skip or stop. -/
def State.aeNacked (s : State) (c e : Nat) (op : AeOp) (status : Nat) : State :=
  match ((s.cell c).ae e).repOf op.rep with
  | none => s
  | some r =>
    let s := s.cellEvent c 0x15 1 r.layer r.operator
    let s := s.cellItem c 4 0x0003 [refusedWord op.addr status (1 + e)]
    if r.nackAct = 0 ∧ op.retries < 3 then
      s.modAe c e (fun a => { a with ops := a.ops.map (fun o => if o.tag = op.tag then { o with refusedAt := some s.now } else o) })
    else if r.nackAct = 1 then s.modAe c e (fun a => a.drop op)
    else (s.modAe c e (fun a => a.drop op)).aeFault c e

/-- Issue one operation of a repeat: a store carries its rows, poisoned where a word of them is marked (R38, R207). -/
def State.aeIssue (s : State) (c e : Nat) (op : AeOp) (layer operator : Half) : State :=
  let unit := (cellParty (1 + e) c).toNat
  let t := s.cellTurf c
  match s.aeReach t op.addr.toNat op.len op.isLoad with
  | some st =>
    let g := s.takeTag unit
    let o := { op with tag := BitVec.ofNat 32 g.1 }
    (g.2.modAe c e (fun a => { a with ops := a.ops ++ [o] })).aeNacked c e o st
  | none =>
    let s := (s.cellEvent c 0x10 1 layer operator).cellEvent c 0x11 (ceilDiv op.len 256) layer operator
    let key := storeKey c op.loc
    let r := if op.isLoad then s.issueOp unit t 0x01 0 0 op.len op.addr 0 none [] false 0 0
      else s.issueOp unit t 0x02 0 0 op.len op.addr 0 none (memRead s.mem key op.len) (s.marked key op.len) 0 0
    r.1.modAe c e (fun a => { a with ops := a.ops ++ [{ op with tag := r.2 }] })

/-- Issue queued operations, oldest repeat first, while fewer than 16 are outstanding (R47, R116). -/
def State.aePump (s : State) (c e : Nat) : Nat → State
  | 0 => s
  | f + 1 =>
    let a := (s.cell c).ae e
    if 16 ≤ a.ops.length ∨ a.faulted ∨ (s.cell c).stopping then s
    else match a.reps.find? (fun r => !r.queued.isEmpty) with
    | none => s
    | some r =>
      match r.queued with
      | [] => s
      | op :: rest =>
        let s := s.modAe c e (fun a => a.modRep r.id (fun r => { r with queued := rest }))
        (s.aeIssue c e op r.layer r.operator).aePump c e f

/-! ### Entries (R115, R116) -/

/-- The entry an engine is at. -/
def Ae.entry (a : Ae) : Option (BitVec 512) := a.table[a.ptr]?

/-- Whether an engine starts repeats now. -/
def CellSt.aeGoing (x : CellSt) (e : Nat) : Bool :=
  x.running && !x.stopping && !(x.ae e).finished && !(x.ae e).faulted && !(x.ae e).gated

/-- A repeat of an entry starts: the take, the move to the next repeat or entry, the repeat with nothing to issue yet. -/
def State.beginEntry (s : State) (c e : Nat) (w : BitVec 512) : State :=
  let a := (s.cell c).ae e
  let s := s.modCell c (fun y => y.take (aeTake w).1 (aeTake w).2)
  let last := decide (aeCount w ≤ a.rep + 1)
  let rep : AeRep := { id := a.nextId, post := BitVec.ofNat 8 (fld w 3 1), opsLeft := 0, layer := aeLayer w,
                       operator := aeOperator w, nackAct := aeNackAct w }
  s.modAe c e (fun a => { a with
    ptr := if last then a.ptr + 1 else a.ptr, rep := if last then 0 else a.rep + 1, nextId := a.nextId + 1, reps := a.reps ++ [rep] })

/-- Start the next repeat of the entry an engine is at, when it is of the given kind and its take succeeds, with the kind's own
effect. -/
def State.aeStart (s : State) (c e kind : Nat) (act : State → BitVec 512 → Nat → Nat → State) : State :=
  let x := s.cell c
  let a := x.ae e
  match a.entry with
  | none => s
  | some w =>
    if !x.aeGoing e || aeKind w != kind || !x.canTake (aeTake w).1 (aeTake w).2 then s
    else act (s.beginEntry c e w) w a.rep a.nextId

/-- Queue the operations of a started repeat and issue what may go. -/
def State.aeQueue (s : State) (c e id : Nat) (ops : List AeOp) : State :=
  (s.modAe c e (fun a => a.modRep id (fun r => { r with opsLeft := r.opsLeft + ops.length, queued := r.queued ++ ops }))).aePump c e 16

/-- The operations that move n bytes between a store location and a global address. -/
def aeOps (isLoad : Bool) (id addr loc n : Nat) : List AeOp :=
  (aeSplit addr n).map (fun p => {
    tag := 0, isLoad := isLoad, addr := BitVec.ofNat 64 p.1, loc := loc + (p.1 - addr), len := p.2, rep := id })

/-- GET and PUT (R115). -/
def State.aeMove (s : State) (c e : Nat) (isLoad : Bool) (w : BitVec 512) (r id : Nat) : State :=
  let addr := (fld w 16 8 + r * fld w 24 8) % 2 ^ 64
  s.aeQueue c e id (aeOps isLoad id addr (512 * aeBufRow w r) (fld w 32 4))

/-- GET. -/
def execGet (c : CellIx) (e : AeIx) (s : State) : Host.Outcome State Fault Refusal :=
  .next (s.aeStart c e 1 (fun s w r id => s.aeMove c e true w r id))

/-- PUT. -/
def execPut (c : CellIx) (e : AeIx) (s : State) : Host.Outcome State Fault Refusal :=
  .next (s.aeStart c e 2 (fun s w r id => s.aeMove c e false w r id))

/-- GET_IND and PUT_IND (R38, R120, R121): the list is read after the take; an index at or above INDEX_LIMIT is not used. -/
def State.aeIndirect (s : State) (c e : Nat) (isLoad : Bool) (w : BitVec 512) (r id : Nat) : State :=
  let list := rowKey c (fld w 36 2 + r % (max 1 (aeNbuf w)) * fld w 38 2)
  let n := memNat s.mem list 4
  let eb := fld w 32 4
  let buf := 512 * aeBufRow w r
  if s.marked list 4 then s.storeUe c [(list, 4)]
  else if fld w 40 4 < n then s.aeFault c e
  else if s.marked list (4 * (n + 1)) then s.storeUe c [(list, 4 * (n + 1))]
  else
    let idx := (List.range n).map (fun j => (j, memNat s.mem (list + 4 * (j + 1)) 4))
    let out := idx.filter (fun p => fld w 44 4 ≤ p.2)
    let s := if out.isEmpty then s else s.cellEvent c 0x16 out.length (aeLayer w) (aeOperator w)
    let s := if isLoad then out.foldl (fun (s : State) (p : Nat × Nat) => s.pokeZero (storeKey c (buf + p.1 * eb)) eb) s else s
    let ops := (idx.filter (fun p => p.2 < fld w 44 4)).flatMap (fun p =>
      aeOps isLoad id ((fld w 16 8 + p.2 * fld w 24 8) % 2 ^ 64) (buf + p.1 * eb) eb)
    s.aeQueue c e id ops

/-- GET_IND. -/
def execGetInd (c : CellIx) (e : AeIx) (s : State) : Host.Outcome State Fault Refusal :=
  .next (s.aeStart c e 3 (fun s w r id => s.aeIndirect c e true w r id))

/-- PUT_IND. -/
def execPutInd (c : CellIx) (e : AeIx) (s : State) : Host.Outcome State Fault Refusal :=
  .next (s.aeStart c e 4 (fun s w r id => s.aeIndirect c e false w r id))

/-- An engine as a party to a counter. -/
def State.aeParty (s : State) (c e : Nat) (w : BitVec 512) : Party :=
  { who := cellParty (1 + e) c, turf := s.cellTurf c, layer := aeLayer w, operator := aeOperator w }

/-- Every operation an engine issued earlier has been acknowledged (R248). -/
def Ae.quiet (a : Ae) : Bool := a.ops.isEmpty && a.reps.all (fun r => r.queued.isEmpty)

/-- SIGNAL entry (R115, R248): it starts once earlier operations are acknowledged and the CD has room (R18). -/
def execAeSignal (c : CellIx) (e : AeIx) (s : State) : Host.Outcome State Fault Refusal :=
  let a := (s.cell c).ae e
  let stalls := match a.entry with
    | some w => s.signalStalls c (s.cellTurf c) (fld w 16 8)
    | none => false
  if !a.quiet || stalls then .next s
  else .next (s.aeStart c e 5 (fun s w _ _ => s.cellSignal c (1 + e) (fld w 16 8) (fld w 24 4) (s.aeParty c e w)))

/-- WAIT entry (R108, R115, R239): a standing wait gates the engine and is what its repeat waits for. -/
def execAeWait (c : CellIx) (e : AeIx) (s : State) : Host.Outcome State Fault Refusal :=
  .next (s.aeStart c e 6 (fun s w _ id =>
    let r := s.waitOn (65536 + c * 64 + fld w 16 1)
      { who := cellParty (1 + e) c, thresh := signed 32 (fld w 20 4), dec := fld w 24 4, since := s.now, layer := aeLayer w,
        operator := aeOperator w }
    match r.2 with
    | .standing => r.1.modAe c e (fun a => { a.modRep id (fun r => { r with opsLeft := 1 }) with gated := true })
    | _ => r.1))

/-- END (R116): the engine is finished. -/
def execAeEnd (c : CellIx) (e : AeIx) (s : State) : Host.Outcome State Fault Refusal :=
  match ((s.cell c).ae e).entry with
  | none => .next s
  | some w =>
    if (s.cell c).aeGoing e && aeKind w == 0 then .next (s.modAe c e (fun a => { a with finished := true })) else .next s

/-! ### Scheduled transfers (R35, R36, R118, R127 to R136) -/

/-- The bank ports repeat r of a scheduled entry claims: cycle, bank, read port (R129, R132, Table 5.4). -/
def schedClaims (w : BitVec 512) (r : Nat) : List (Nat × Nat × Bool) :=
  (List.range (schedRows w)).map (fun i =>
    (schedStart w + r * schedPeriod w + (if routePath w = 0 then 8 * i else i + (if aeKind w = 7 then 2 else 0)),
     (aeBufRow w r + i) / 768, aeKind w == 8))

/-- Whether repeat r of entry k of engine e claims a bank port in a cycle in which another scheduled repeat of the cell does. -/
def CellSt.bankClash (x : CellSt) (e k r : Nat) (w : BitVec 512) : Bool :=
  let mine := schedClaims w r
  [0, 1].any (fun f => (x.ae f).table.zipIdx.any (fun p => isSched p.1 && (List.range (aeCount p.1)).any (fun q =>
    !(f == e && p.2 == k && q == r) && (schedClaims p.1 q).any (fun y => mine.contains y))))

/-- The numbers of the marked words of a store row, and whether a mark is poison (R38, R208). -/
def State.rowMarks (s : State) (key : Nat) : List (Nat × Bool) := (s.wordsMarked key 512).map (fun a => (a.1 / 8, a.2))

/-- Write a row that arrives with its check bits: words that came marked stay marked (R130, R136). -/
def State.writeRow (s : State) (key : Nat) (bs : Bytes) (marks : List (Nat × Bool)) : State :=
  (s.poke key bs).markWords key (marks.map (fun a => (8 * a.1, a.2)))

/-- The tables of every cell as the mesh runs them. -/
def State.meshCells (s : State) : List CellRec :=
  s.cells.map (fun p => {
    cell := p.1, lmask := p.2.lmask, initL := p.2.initL, initT := p.2.initT, steps := [], ae0 := p.2.ae0.table, ae1 := p.2.ae1.table,
    wins := p.2.windows })

/-- Send the rows of a mesh repeat: each goes to the receive that covers its last flit, to be written in that cycle. -/
def State.meshSend (s : State) (c : Nat) (w : BitVec 512) (r : Nat) : State :=
  let cells := s.meshCells
  (List.range (schedRows w)).foldl (fun s i =>
    let key := rowKey c (aeBufRow w r + i)
    let t := schedStart w + r * schedPeriod w + 8 * i + 8
    match traceFlit cells (2 ^ 64 - 1) 1024 c (routeLink w) t with
    | none => s
    | some (n, inp, a) =>
      s.modCd (n / 256) (fun d => { d with
        flits := d.flits ++ [{ cell := n, link := inp, cycle := a, row := memRead s.mem key 512, marks := s.rowMarks key }] })) s

/-- The check of an arriving row: a corrected word is counted against the receiving link, one that cannot be corrected is written marked
(R130). -/
def State.checkRow (s : State) (c link key : Nat) (errs : List (Nat × Bool)) : State :=
  let n := (errs.filter (fun x => !x.2)).length
  let s := s.markWords key ((errs.filter (fun x => x.2)).map (fun x => (8 * x.1, false)))
  if n = 0 then s
  else s.modWear c (fun w => { w with
    hourLinks := w.hourLinks + n
    links := tset w.links link ((tget w.links [] link).filter (fun t => decide (s.now < t + 86400000000000)) ++ List.replicate n s.now) })

/-- Receive the rows of a mesh repeat: a row that was not sent is not written (R134); `errs` are the words in which the check found an
error, by row x 64 + word. -/
def State.meshRecv (s : State) (c : Nat) (w : BitVec 512) (r : Nat) (errs : List (Nat × Bool)) : State :=
  (List.range (schedRows w)).foldl (fun s i =>
    let t := schedStart w + r * schedPeriod w + 8 * i
    let mine := fun (f : Flit) => f.cell == c && f.link == routeLink w && f.cycle == t
    match (s.cd (c / 256)).flits.find? mine with
    | none => s
    | some f =>
      let key := rowKey c (aeBufRow w r + i)
      let s := (s.writeRow key f.row f.marks).checkRow c (routeLink w) key
        ((errs.filter (fun x => x.1 / 64 == i)).map (fun x => (x.1 % 64, x.2)))
      s.modCd (c / 256) (fun d => { d with flits := d.flits.filter (fun g => !mine g) })) s

/-- Key of a staging row of a cell's concentrator (R135): send rows 0 to 63, receive rows from 64 on. -/
def stagingKey (c : Nat) (recv : Bool) (row : Nat) : Nat := concOf c * 128 + (if recv then 64 else 0) + row % 64

/-- The schedule cycle of the module at a cycle of a cell's batch. -/
def State.schedAt (s : State) (c n : Nat) : Nat :=
  72 * (match (s.batchOfCell c).bind s.batch with | some b => b.startSlot | none => 0) + n

/-- Move the rows of a vertical repeat (R136, Table 5.4). A row sent stands in its staging row two cycles after its read. -/
def State.vertical (s : State) (c : Nat) (send : Bool) (w : BitVec 512) (r : Nat) : State :=
  (List.range (schedRows w)).foldl (fun s i =>
    let key := rowKey c (aeBufRow w r + i)
    let sk := stagingKey c (!send) (routeSrow w + i)
    if send then
      s.modCd (c / 256) (fun d => { d with
        staging := tset d.staging sk (memRead s.mem key 512, (s.rowMarks key).map (fun a => a.1))
        rowWrites := d.rowWrites ++
          [(sk, s.schedAt c (schedStart w + r * schedPeriod w + i + 2), tget d.staging (List.replicate 512 0, []) sk)] })
    else
      let row := tget (s.cd (c / 256)).staging (List.replicate 512 0, []) sk
      s.writeRow key row.1 (row.2.map (fun a => (a, true)))) s

/-- A scheduled repeat moves its rows; two transfers that claim one bank port in one cycle end the batch (R36). -/
def State.schedMove (s : State) (c e : Nat) (send : Bool) (w : BitVec 512) (r : Nat) (k : Nat) (errs : List (Nat × Bool)) : State :=
  let clash := (s.cell c).bankClash e k r w
  let s := s.cellEvent c 0x17 (schedRows w) (aeLayer w) (aeOperator w)
  let s := if routePath w = 1 then s.vertical c send w r else if send then s.meshSend c w r else s.meshRecv c w r errs
  if clash then s.cellFault c 1 2 false none else s

/-- SCHED_RECV (R118, R130). -/
def execSchedRecv (c : CellIx) (e : RecvRepeat) (s : State) : Host.Outcome State Fault Refusal :=
  if s.held then .next s
  else .next (s.aeStart c e.engine 7 (fun s' w r _ =>
    s'.schedMove c e.engine false w r ((s.cell c).ae e.engine).ptr (e.errs.map (fun x => (x.1.val, x.2)))))

/-- SCHED_SEND (R118, R129). -/
def execSchedSend (c : CellIx) (e : AeIx) (s : State) : Host.Outcome State Fault Refusal :=
  if s.held then .next s
  else .next (s.aeStart c e 8 (fun s' w r _ => s'.schedMove c e true w r ((s.cell c).ae e).ptr []))

/-- The engine has a scheduled repeat before it whose take has not succeeded: at the entry it stands at, or behind it. -/
def Ae.schedAhead (a : Ae) : Bool := (a.table.drop a.ptr).any isSched

/-- AE_SCHED_DEADLINE (R118): the cycle of a scheduled repeat comes before its take has succeeded, be it that the take fails or that the
engine is still at an earlier entry. -/
def execAeSchedDeadline (c : CellIx) (e : AeIx) (s : State) : Host.Outcome State Fault Refusal :=
  let x := s.cell c
  match (x.ae e).entry with
  | none => .next s
  | some w =>
    if s.held || !x.running || x.stopping || (x.ae e).faulted || !(x.ae e).schedAhead || (isSched w && x.canTake (aeTake w).1 (aeTake w).2)
    then .next s
    else .next (s.aeFault c e)

/-! ### Completion (R48, R115, R117) -/

/-- AE_ACTION_COMPLETE (R52, R115, R116): the oldest repeat of the engine, when its action is complete, posts; a faulted engine has
stopped (R119). -/
def execAeActionComplete (c : CellIx) (e : AeIx) (s : State) : Host.Outcome State Fault Refusal :=
  match ((s.cell c).ae e).reps with
  | [] => .next s
  | r :: rest =>
    if r.opsLeft ≠ 0 || ((s.cell c).ae e).faulted then .next s
    else .next ((s.modAe c e (fun a => { a with reps := rest })).post c (r.post.toNat % 16) (r.post.toNat / 16))

/-- An engine's operation is answered with success (R48, R115): a load's bytes are written, marked where they came poisoned. An answer
that an ABORT no longer waits for is discarded and counted (R32). -/
def State.aeAnswered (s : State) (c e : Nat) (tag : Word) (bs : Bytes) (poison : Bool) : State :=
  match ((s.cell c).ae e).ops.find? (fun o => o.tag == tag) with
  | none => s.tally (.lateAnswer (cellParty (1 + e) c).toNat) 1
  | some op =>
    let key := storeKey c op.loc
    let s := if !op.isLoad then s
      else if poison then s.pokePoison key (padTo op.len bs) else s.poke key (padTo op.len bs)
    ((s.modAe c e (fun a => a.drop op)).aePump c e 16).settleCell c

/-- An engine's operation is refused or ends indeterminate (R49, R117, R272). A stopping engine does not issue it again, and its repeat
stays incomplete (R96). -/
def State.aeRefused (s : State) (c e : Nat) (tag : Word) (status : Nat) : State :=
  match ((s.cell c).ae e).ops.find? (fun o => o.tag == tag) with
  | none => s.tally (.lateAnswer (cellParty (1 + e) c).toNat) 1
  | some op =>
    let s := s.aeNacked c e op status
    let s := if (s.cell c).stopping then s.modAe c e (fun a => { a with ops := a.ops.filter (fun o => o.tag != tag) }) else s
    (s.aePump c e 16).settleCell c

/-- A request is answered: it is no longer outstanding at its unit nor at its window (R270, R301). -/
def State.opDone (s : State) (unit : Half) (tag : Word) : State :=
  match s.ops.find? (fun o => o.unit == unit && o.tag == tag) with
  | none => s
  | some o =>
    let s := { s with ops := s.ops.filter (fun x => !(x.unit == unit && x.tag == tag)) }
    if o.peer.isNone || o.waitingWindow then s
    else (s.freeWindow (hfld o.pkt.hdr 16 8 / 2 ^ 48) (windowBytes o.pkt)).pumpWindows

/-- OP_NACK (R49, R117). -/
def execOpNack (c : CellIx) (e : AeIx) (tag : Word) (status : Byte) (s : State) : Host.Outcome State Fault Refusal :=
  let unit := cellParty (1 + e) c
  if !(s.ops.any (fun o => o.unit == unit && o.tag == tag)) then .next s
  else .next ((s.opDone unit tag).aeRefused c e tag status.toNat)

/-- AE_NACK_RETRY (R117): 1 us after the refusal the operation is issued again. -/
def execAeNackRetry (c : CellIx) (e : AeIx) (tag : Word) (now : Nat) (s : State) : Host.Outcome State Fault Refusal :=
  let s := s.at_ now
  let a := (s.cell c).ae e
  match a.ops.find? (fun o => o.tag == tag) with
  | none => .next s
  | some op =>
    match op.refusedAt, a.repOf op.rep with
    | some t, some r =>
      if s.now < t + 1000 ∨ (s.cell c).stopping then .next s
      else
        let s := s.modAe c e (fun a => { a with ops := a.ops.filter (fun o => o.tag != tag) })
        .next (s.aeIssue c e { op with retries := op.retries + 1, refusedAt := none } r.layer r.operator)
    | _, _ => .next s

/-! ### Waking (R64, R243) -/

/-- A wait of a unit of a cell has succeeded: its gate opens; a Collier WAIT completes, an engine's action does. -/
def State.wake (s : State) (w : Waiter) : State :=
  let c := w.who.toNat % 4096
  let unit := w.who.toNat / 4096
  let x := s.cell c
  if unit = 0 then
    if !x.waitGated then s
    else
      let posts := x.inflight.filter (fun i => i.unit == .ctl)
      let s := s.modCell c (fun y => { y with waitGated := false, inflight := y.inflight.filter (fun i => i.unit != .ctl) })
      (posts.foldl (fun s i => s.post c i.postT i.postN) s).endCheck c
  else if unit = 1 ∨ unit = 2 then
    s.modAe c (unit - 1) (fun a =>
      if a.gated then { a with gated := false, reps := a.reps.mapIdx (fun i r =>
        if i + 1 = a.reps.length then { r with opsLeft := 0 } else r) } else a)
  else s

/-- WAIT_SATISFIED (R243): the standing waits of a counter are evaluated in turn and those that succeed wake their units. -/
def execWaitSatisfied (ctr : CtrIx) (s : State) : Host.Outcome State Fault Refusal :=
  let r := s.evalWaits ctr
  .next (r.2.foldl (fun s w => s.wake w) r.1)

end Sys2Proof.Machine
end

