-- ==== Sys2Proof/Machine/Answers.lean ====
section
/-!
DEFINITION. The answer to a STORE (R252, R283), and the answers of atomics that a target keeps (R271).
-/
namespace Sys2Proof.Machine

/-- Answer a STORE that has been written, an inbox STORE with its mask: one with LAST first signals its arrival counter by 1, as the
endpoint that received it, and is answered once the outcome of that signal is known (R252, R270, R283). -/
def State.storeAnswer (s : State) (turf : Nat) (p : Packet) (operand : BitVec 128 := 0) : State :=
  if !p.last then s.ackReq turf p stOk 0 operand
  else
    let e := (p.ext.getD 0).toNat
    s.sendArrival (s.answerFrom p.addr / 64) (bits e 31 16) (bits e 63 32) turf (some p) operand

/-! ### Answers of the last 256 atomics (R271) -/

/-- The issuing unit of a request as a target's record knows it: target index, SRC_EP and SRC_UNIT. -/
def State.atomUnit (s : State) (p : Packet) : Nat :=
  ((s.localIx (p.addr / 2 ^ 48)).getD 64 * 2 ^ 16 + p.srcEp) * 2 ^ 16 + p.unit

/-- The recorded answer to a copy of an atomic. -/
def State.atomFound (s : State) (p : Packet) : Option Packet :=
  let u := s.atomUnit p
  (s.atoms.find? (fun x => x.1 == u && x.2.1 == BitVec.ofNat 32 p.tag)).map (fun x => x.2.2)

/-- Answer an atomic that was performed, and record the answer. -/
def State.atomDone (s : State) (turf : Nat) (p : Packet) (old : BitVec 128) (range : Bool) : State :=
  let u := s.atomUnit p
  let a : Packet := { hdr := mkHdr 0x80 p.otype (b2n range * 4) stOk 0 p.unit p.tag p.srcEp (BitVec.ofNat 64 p.addr) old }
  let s := { s with atoms := keepLast (fun x => x.1 == u) 256 (s.atoms ++ [(u, BitVec.ofNat 32 p.tag, a)]) }
  s.queueDyn (s.answerFrom p.addr) (s.answerTo turf p) turf (unitVc p.unit + 1) a

/-- Send a recorded answer again. -/
def State.resendAnswer (s : State) (turf : Nat) (p a : Packet) : State :=
  s.queueDyn (s.answerFrom p.addr) (s.answerTo turf p) turf (unitVc p.unit + 1) a

end Sys2Proof.Machine
end

