-- ==== Sys2Proof/Machine/Far.lean ====
section
/-!
DEFINITION. Far-memory units (R216 to R232): the choice of a sublink, commands and their credits, read data and completions,
Tomic operations and billets at a unit, loss, failover and restart.
-/
namespace Sys2Proof.Machine

/-! ### The choice of a sublink (R217) -/

/-- The slot of a Dynamic granule at a unit offset. -/
def State.granSlot (s : State) (off : Nat) : Nat := foldBits 3 (off / 256) ^^^ s.hashSeed % 8
/-- The slot of a billet. -/
def State.billetSlot (s : State) (off : Nat) : Nat := foldBits 3 (off / 8192) ^^^ s.hashSeed % 8

/-- Whether a sublink holds its slot: in service, or lost for less than the 50 us of R226. -/
def LinkSt.holdsSlot (x : LinkSt) : Bool := x.state == .inService || x.lostAt.isSome

/-- The sublink of a slot: a substitute keeps the slot until it has no outstanding command for it (R226); else the slot's own while that
holds it, else the first in service, counting upward. Where no sublink is in service the slot's own keeps the commands. -/
def State.slotLink (s : State) (u slot : Nat) : Nat :=
  let ls := (List.range 8).map (fun i => 8 * u + (slot + i) % 8)
  let own := 8 * u + slot % 8
  match ls.find? (fun l => l != own && (s.link l).holdsSlot && (s.link l).cmds.any (fun c => c.slot == slot)) with
  | some l => l
  | none => if (s.link own).holdsSlot then own else (ls.find? (fun l => (s.link l).state == .inService)).getD own

/-! ### Commands (Tables 8.5 to 8.7) -/

/-- Build a command record (Table 8.6). -/
def mkRecord (opcode otype len tag addr operand : Nat) : BitVec 256 :=
  BitVec.ofNat 256 (opcode + otype * 2 ^ 8 + len * 2 ^ 16 + tag % 2 ^ 32 * 2 ^ 32 + addr * 2 ^ 64 + operand * 2 ^ 128)

/-- OPCODE of a command. -/
def FarCmd.opcode (c : FarCmd) : Nat := bits c.record.toNat 7 0
/-- LEN of a command. -/
def FarCmd.len (c : FarCmd) : Nat := bits c.record.toNat 31 16
/-- ADDR of a command. -/
def FarCmd.addr (c : FarCmd) : Nat := bits c.record.toNat 127 64
/-- The virtual channel of a command (Table 8.7). -/
def FarCmd.vc (c : FarCmd) : Nat := if c.opcode = 1 then 0 else if c.opcode < 0x10 then 1 else 2
/-- Whether a command carries granules. -/
def FarCmd.carries (c : FarCmd) : Bool := c.vc == 1

/-- A granule descriptor (Table 8.4). -/
def granDesc (tag vc status index : Nat) (poison : Bool) : Bytes :=
  natLe 4 tag ++ natLe 1 (128 + vc) ++ natLe 1 status ++ natLe 1 index ++ natLe 1 (b2n poison)

/-- The DATA frames that carry a write's granules, two to a frame: descriptors and body. -/
def dataFrames (c : FarCmd) : List (Bytes × Bytes) :=
  (List.range ((c.data.length + 1) / 2)).map (fun i =>
    let one := fun (j : Nat) => match c.data[j]? with
      | none => (natLe 8 0, List.replicate 256 (0 : Byte))
      | some g => (granDesc c.tag 1 0 g.1 (c.poison.contains g.1), padTo 256 g.2)
    ((one (2 * i)).1 ++ (one (2 * i + 1)).1, (one (2 * i)).2 ++ (one (2 * i + 1)).2))

/-- Granules that the READs sent on a sublink have still to return. -/
def LinkSt.readsDue (x : LinkSt) : Nat := ((x.cmds.filter (fun c => c.sent && c.opcode == 1)).map (fun c => c.len - c.data.length)).sum
/-- Completions that the commands sent on a sublink have still to return. -/
def LinkSt.completionsDue (x : LinkSt) : Nat := (x.cmds.filter (fun c => c.sent && c.opcode != 1)).length

/-- Whether a command may be sent: its credits are there (R220), and the module holds buffer space for every granule a READ returns, or for
the completion (R221), of the 256 granules and 128 completions of Table 8.5. -/
def LinkSt.credits (x : LinkSt) (c : FarCmd) : Bool :=
  decide (1 ≤ tget x.recCredits 0 c.vc) && (!c.carries || decide (c.data.length ≤ tget x.granCredits 0 1))
    && (if c.opcode = 1 then decide (x.readsDue + c.len ≤ 256) else decide (x.completionsDue < 128))

/-- Send a command and its granules. -/
def State.sendCmd (s : State) (l : Nat) (c : FarCmd) : State :=
  let s := s.modLink l (fun x => { x with
    recCredits := tset x.recCredits c.vc (tget x.recCredits 0 c.vc - 1)
    granCredits := if c.carries then tset x.granCredits 1 (tget x.granCredits 0 1 - c.data.length) else x.granCredits
    cmds := x.cmds.map (fun y => if y.tag = c.tag then { y with sent := true } else y) })
  let s := s.sendFrame l 1 [] (padTo 512 (natLe 32 c.record.toNat))
  if c.carries then (dataFrames c).foldl (fun s f => s.sendFrame l 2 f.1 f.2) s else s

/-- Send a sublink's waiting commands in queue order as far as credits and the replay store allow (R217, R219). -/
def State.pumpFar (s : State) (l : Nat) : Nat → State
  | 0 => s
  | f + 1 =>
    let x := s.link l
    match x.cmds.find? (fun c => !c.sent) with
    | none => s
    | some c =>
      if x.room l (1 + (if c.carries then (c.data.length + 1) / 2 else 0)) && x.credits c then (s.sendCmd l c).pumpFar l f else s

/-- Queue a command on a sublink; its tag is the sublink's next. -/
def State.queueCmd (s : State) (l : Nat) (mk : Nat → FarCmd) : State :=
  let t := (s.link l).nextTag
  let s := s.modLink l (fun x => { x with nextTag := (t + 1) % 2 ^ 32, cmds := x.cmds ++ [mk t] })
  s.pumpFar l ((s.link l).cmds.length)

/-! ### Operations of a unit (R217, Table 8.8, R224) -/

/-- The granules an operation touches: granule number in order, unit offset and length. -/
def farPieces (off len : Nat) : List (Nat × Nat × Nat) := (pieces off len).zipIdx.map (fun p => (p.2, p.1.1, p.1.2))

/-- Whether the unit's capabilities include an atomic's type (R224). -/
def farAtomOk (u : FmuSt) (p : Packet) : Bool :=
  let c := u.caps.toNat
  if p.op = 0x13 then c.testBit 3 else match p.otype with
    | 3 => c.testBit 1
    | 2 => c.testBit 2
    | _ => c.testBit 3

/-- The commands of an operation: granule number, offset and the record and granule of each. -/
def farCmds (p : Packet) (off : Nat) : List (Nat × Nat × (Nat → FarCmd)) :=
  if 0x10 ≤ p.op then
    let len := if p.otype = 3 then bits (p.ext.getD 0).toNat 15 8 + bits (p.ext.getD 0).toNat 23 16 * 2 ^ 8 else 0
    [(0, off, fun t => { tag := t, record := mkRecord p.op p.otype len t off p.operand.toNat })]
  else
    (farPieces off p.len).map (fun x =>
      let a := x.2.1
      let n := x.2.2
      if p.op = 1 then (x.1, a, fun t => { tag := t, record := mkRecord 1 0 1 t (a / 256 * 256) 0 })
      else
        let d := slice p.data (a - off) n
        let po := if p.poisoned then [0] else []
        if n = 256 then (x.1, a, fun t => { tag := t, record := mkRecord 2 0 1 t a 0, data := [(0, d)], poison := po })
        else (x.1, a, fun t => {
          tag := t, record := mkRecord 3 0 0 t (a / 256 * 256) (a % 256 + n * 2 ^ 16)
          data := [(0, splice (List.replicate 256 0) (a % 256) d)], poison := po }))

/-- Perform an operation at a far unit: its commands go out, and its answer waits for theirs. -/
def State.farRequest (s : State) (turf : Nat) (p : Packet) (u off : Nat) : State :=
  if 0x10 ≤ p.op && !farAtomOk (s.fmu u) p then s.nackReq turf p stBadArg
  else
    let id := s.nextSeq
    let cs := farCmds p off
    let op : FarOp := { id := id, unit := u, turf := turf, pkt := p, left := cs.length }
    let s := { s with nextSeq := id + 1, farOps := s.farOps ++ [op] }
    cs.foldl (fun s c =>
      let slot := s.granSlot c.2.1
      s.queueCmd (s.slotLink u slot) (fun t => { c.2.2 t with slot := slot, op := some (id, c.1) })) s

/-- The status the issuer sees for a far-link status (Table 8.8). -/
def farStatus (st : Nat) : Nat := match st with | 0 => stOk | 1 => stBadArg | 2 => stBadArg | 4 => stBadArg | _ => stInternal

/-- Answer an operation whose granules have all come or failed. -/
def State.farAnswer (s : State) (o : FarOp) : State :=
  let s := { s with farOps := s.farOps.filter (fun x => x.id != o.id) }
  if o.status ≠ 0 then s.nackReq o.turf o.pkt o.status
  else if o.pkt.op = 1 then
    let off := o.pkt.addr
    let d := (farPieces off o.pkt.len).flatMap (fun x => slice (tget o.data [] x.1) (x.2.1 % 256) x.2.2)
    s.dataReq o.turf o.pkt (padTo o.pkt.len d) o.poison
  else if o.pkt.op = 2 then s.storeAnswer o.turf o.pkt
  else s.atomDone o.turf o.pkt o.old o.ledger

/-- One granule of an operation is done: its data, poison, status, old value and LEDGER_RANGE. -/
def State.farPart (s : State) (id gran : Nat) (data : Bytes) (poison : Bool) (status : Nat) (old : BitVec 128) (range : Bool) : State :=
  match s.farOps.find? (fun o => o.id == id) with
  | none => s
  | some o =>
    let o' := { o with
      left := o.left - 1, data := tset o.data gran data, poison := o.poison || poison, old := old, ledger := o.ledger || range
      status := if o.status ≠ 0 then o.status else status }
    if o'.left = 0 then s.farAnswer o'
    else { s with farOps := s.farOps.map (fun x => if x.id = id then o' else x) }

/-! ### Far billets (R229 to R231) -/

/-- Change a far billet of a unit. -/
def State.modFarBillet (s : State) (u port slot : Nat) (write : Bool) (f : FarBillet → FarBillet) : State :=
  s.modFmu u (fun x => { x with billets := x.billets.map (fun b => if b.port = port ∧ b.slot = slot ∧ b.isWrite = write then f b else b) })

/-- Remove a far-destined billet of a unit. -/
def State.dropFarBillet (s : State) (u port slot : Nat) : State :=
  s.modFmu u (fun x => { x with billets := x.billets.filter (fun b => !(b.port == port && b.slot == slot && b.isWrite)) })

/-- A far billet's command has ended: a read's data stands ready to be sent when its STATUS is OK or POISON (R231); a write leaves the
engine, and one that the unit has performed signals its arrival counter (R252). -/
def State.farBilletDone (s : State) (u : Nat) (c : FarCmd) (b : Nat × Nat) : State :=
  if c.opcode = 1 then
    s.modFarBillet u b.1 b.2 false (fun x => { x with
      data := c.data, poison := c.poison, done := true, good := decide (c.status = 0 ∨ c.status = 3) })
  else
    let arrive := match (s.fmu u).billets.find? (fun x => x.port == b.1 && x.slot == b.2 && x.isWrite) with
      | some x => if c.status = 0 then x.arrive.map (fun k => (k, x.turf)) else none
      | none => none
    let s := s.dropFarBillet u b.1 b.2
    match arrive with
    | some (k, t) => s.sendArrival (40 + u / 2) k 0 t none 0
    | none => s

/-! ### What comes back (R218 to R221) -/

/-- A command has ended: it leaves its sublink, and what it served goes on. -/
def State.cmdDone (s : State) (l : Nat) (c : FarCmd) (old : BitVec 128) (range : Bool) : State :=
  let s := s.modLink l (fun x => { x with cmds := x.cmds.filter (fun y => y.tag != c.tag) })
  match c.op, c.billet with
  | some (id, g), _ =>
    let st := c.status.toNat
    if c.opcode = 1 ∧ (st = 0 ∨ st = 3) then s.farPart id g (tget c.data [] 0) (st == 3 || !c.poison.isEmpty) 0 0 false
    else s.farPart id g [] false (farStatus st) old range
  | none, some b => s.farBilletDone (l / 8) c b
  | none, none => s

/-- One granule of read data arrives on VC3; it is written and its credit returned. -/
def State.readGranule (s : State) (l : Nat) (desc data : Bytes) : State :=
  let vcv := leAt desc 4 1
  let tag := leAt desc 0 4
  let idx := leAt desc 6 1
  if !vcv.testBit 7 || vcv % 8 != 3 then s
  else
    let s := s.returnCredits l 3 0 1
    match (s.link l).cmds.find? (fun c => c.tag == tag && c.opcode == 1) with
    | none => s
    | some c =>
      let st := leAt desc 5 1
      let po := (leAt desc 7 1).testBit 0 || st == 3
      let c' := { c with
        data := tset c.data idx data, poison := if po then setIns c.poison idx else c.poison
        status := if c.status = 0 ∨ c.status = 3 then (if st ≠ 0 then BitVec.ofNat 8 st else c.status) else c.status }
      let s := s.modLink l (fun x => { x with cmds := x.cmds.map (fun y => if y.tag = tag then c' else y) })
      if c'.data.length = c.len then s.cmdDone l c' 0 false else s

/-- A completion record arrives on VC4. -/
def State.completionRecord (s : State) (l : Nat) (rec : Bytes) : State :=
  if leAt rec 0 1 ≠ 0x80 then s
  else
    let s := s.returnCredits l 4 1 0
    match (s.link l).cmds.find? (fun c => c.tag == leAt rec 4 4) with
    | none => s
    | some c => s.cmdDone l { c with status := BitVec.ofNat 8 (leAt rec 1 1) } (BitVec.ofNat 128 (leAt rec 16 16)) ((leAt rec 2 1).testBit 0)

/-- Receive a far-link frame (R218, R219): a bad CRC discards it whole; the header is acted on; `body` is performed when the frame
is the one expected; then what waits is sent. -/
def State.farReceive (s : State) (l : Nat) (f : Bytes) (sequenced : Bool) (body : State → State) : State :=
  if !linkCrcOk f then s.fibreCount l 3
  else if (s.link l).state ≠ .inService then s
  else
    let s := s.linkHeader l f
    let s := match retryOf l f with | some e => s.resendLink l e | none => s
    let s :=
      if !sequenced then s
      else
        let r := s.acceptSeq l (leAt f 0 2)
        if r.2 then body r.1 else r.1
    (s.pumpFar l ((s.link l).cmds.length)).pumpAll l

/-- FAR_DATA_GRANULE (R218, R221). -/
def execFarDataGranule (l : LinkIx) (frame : Bytes) (s : State) : Host.Outcome State Fault Refusal :=
  if !isFar l || leAt frame 4 1 != 2 then .next s
  else if !linkShapeOk l frame then .fault .illFormed
  else .next ((s.farReceive l frame true (fun s =>
    (s.readGranule l (slice frame 24 8) (slice frame 48 256)).readGranule l (slice frame 32 8) (slice frame 304 256))).drainProgress)

/-- COMPLETION (R221). -/
def execCompletion (l : LinkIx) (frame : Bytes) (s : State) : Host.Outcome State Fault Refusal :=
  if !isFar l || leAt frame 4 1 != 1 then .next s
  else if !linkShapeOk l frame then .fault .illFormed
  else .next ((s.farReceive l frame true (fun s =>
    (List.range 16).foldl (fun s i => s.completionRecord l (slice frame (48 + 32 * i) 32)) s)).drainProgress)

/-- FAR_IDLE_FRAME (R218, R219). -/
def execFarIdleFrame (l : LinkIx) (frame : Bytes) (s : State) : Host.Outcome State Fault Refusal :=
  if !isFar l || leAt frame 4 1 != 0 then .next s
  else if !linkShapeOk l frame then .fault .illFormed
  else .next (s.farReceive l frame false (fun s => s))

/-! ### Failure of a unit (R226 to R228) -/

/-- Complete every operation outstanding at a unit with a status; its commands leave the sublinks. -/
def State.failUnitOps (s : State) (u status : Nat) : State :=
  let os := s.farOps.filter (fun o => o.unit == u)
  let s := { s with
    farOps := s.farOps.filter (fun o => o.unit != u)
    links := tmap s.links (fun k x => if k / 8 = u then { x with cmds := x.cmds.filter (fun c => c.op.isNone) } else x) }
  os.foldl (fun s o => s.nackReq o.turf o.pkt status) s

/-- Issue a sublink's outstanding commands again on the sublinks that have their slots now (R226). -/
def State.moveCmds (s : State) (l : Nat) : State :=
  let cs := (s.link l).cmds
  let s := s.modLink l (fun x => { x with cmds := [] })
  cs.foldl (fun s c => s.queueCmd (s.slotLink (l / 8) c.slot) (fun t => { c with
    tag := t, sent := false, status := 0, poison := if c.opcode = 1 then [] else c.poison, data := if c.opcode = 1 then [] else c.data,
    record := BitVec.ofNat 256 (c.record.toNat - bits c.record.toNat 63 32 * 2 ^ 32 + t * 2 ^ 32) })) s

/-- Commands that wait on sublinks of a unit which no longer hold their slots, since none was in service, take the one that now is. -/
def State.adoptCmds (s : State) (u : Nat) : State :=
  (((List.range 8).map (fun i => 8 * u + i)).filter (fun l => !(s.link l).holdsSlot && !(s.link l).cmds.isEmpty)).foldl (fun s l => s.moveCmds l) s

/-- A sublink comes into service: SEQ starts at 1, totals at 0, and frames that were not acknowledged go out again (log entry 23).
The unit's identity is compared with the one held (R228). -/
def State.farService (s : State) (l : Nat) (msg : Bytes) : State :=
  let u := l / 8
  let x := s.link l
  let first := (s.farUp u).isEmpty
  let old := s.fmu u
  let changed := old.known && (old.uid.toNat != leAt msg 8 8 || old.bootEpoch.toNat != leAt msg 16 4)
  let held := if changed then [] else x.heldFrames
  let s := s.modLink l (fun y => { y with
    state := .inService, peerIdent := some msg, newIdent := none, lostAt := none, retrained := false, cause := 0, retry := false
    rxExp := 1, rxAny := false, rxHcr := [], rxGcr := [], txHcr := [], txGcr := [], lastGood := s.now, ackAt := s.now
    recCredits := identCredits msg 28, granCredits := identCredits msg 44, txSeq := 1, heldFrames := [] })
  let s := held.foldl (fun s f => s.sendFrame l (leAt f.2.1 4 1) (slice f.2.1 24 16) (f.2.1.drop 48)) s
  let s := if !first then s else s.modFmu u (fun y => { y with
    capGib := min 1024 (leAt msg 20 4), caps := BitVec.ofNat 8 (leAt msg 24 1), maxLen := leAt msg 25 1 })
  let s := s.modFmu u (fun y => { y with
    known := true, uid := BitVec.ofNat 64 (leAt msg 8 8), bootEpoch := BitVec.ofNat 32 (leAt msg 16 4), down := false
    registered := true, noSublinkSince := none })
  let s :=
    if !changed then s
    else
      let s := s.failUnitOps u stPeerRestarted
      let s := { s with links := tmap s.links (fun k x => if k / 8 = u then
        { x with cmds := x.cmds.map (fun (c : FarCmd) => { c with sent := false, data := if c.opcode = 1 then [] else c.data }) } else x) }
      if (leAt msg 24 1).testBit 0 then s else s.notice0 6 0x1007 [BitVec.ofNat 128 u]
  (s.pumpFar l ((s.link l).cmds.length)).adoptCmds u

/-- An atomic whose sublink was lost ends with INTERNAL and is counted as indeterminate (R226). -/
def State.atomLost (s : State) (c : FarCmd) : State :=
  match c.op with
  | none => s
  | some (id, g) =>
    let unit := ((s.farOps.find? (fun o => o.id == id)).map (fun o => o.pkt.unit)).getD 0
    (s.tally (.indeterminate unit) 1).farPart id g [] false stInternal 0 false

/-- Move a lost sublink's slot: READ, WRITE and WRITE_PART are issued on the next sublink, atomics that had been sent end indeterminate
(R226). -/
def State.failOver (s : State) (l : Nat) : State :=
  let gone := (s.link l).cmds.filter (fun c => c.sent && decide (0x10 ≤ c.opcode))
  let s := s.modLink l (fun x => { x with cmds := x.cmds.filter (fun c => !gone.contains c), lostAt := none, heldFrames := [] })
  (gone.foldl (fun s c => s.atomLost c) s).moveCmds l

/-- SUBLINK_FAILOVER (R226): 50 us after the loss. -/
def execSublinkFailover (l : LinkIx) (now : Nat) (s : State) : Host.Outcome State Fault Refusal :=
  let s := s.at_ now
  let x := s.link l
  match x.lostAt with
  | none => .next s
  | some t => if !isFar l || x.state == .inService || decide (s.now < t + 50000) || (s.farUp (l / 8)).isEmpty then .next s else .next (s.failOver l)

/-- Stop the running batches whose active calendar names a port that a predicate picks (R184, R227). -/
def State.stopUsers (s : State) (p : Nat → Bool) (result : DWord) : State :=
  s.batches.foldl (fun s b =>
    if b.2.started && (s.calPorts b.1).any p then (s.stopBatch b.1 stNoResource result false).settleStop b.1 else s) s

/-- Forget the billets pending on ports a predicate picks; a repair hold that waits for none other ends (R184, R227). -/
def State.releasePending (s : State) (p : Nat → Bool) : State :=
  let gone := fun (q : Nat) (x : PendingBillet) => p q || p x.src
  let s := { s with ports := tmap s.ports (fun q x => { x with pending := x.pending.filter (fun b => !gone q b) }) }
  let s := { s with holds := { s.holds with
    repairDue := s.holds.repairDue.filter (fun d => (s.port d.1).pending.any (fun b => b.slot == d.2.1)) } }
  match s.holds.repair with
  | none => s
  | some l =>
    let left := l.filter (fun x => (s.port x.1).pending.any (fun b => b.slot == x.2))
    if left.isEmpty then { s with holds := { s.holds with repair := none } } else { s with holds := { s.holds with repair := some left } }

/-- FAR_UNIT_DOWN (R227, R262). -/
def execFarUnitDown (u : FmuIx) (now : Nat) (s : State) : Host.Outcome State Fault Refusal :=
  let s := s.at_ now
  match (s.fmu u).noSublinkSince with
  | none => .next s
  | some t =>
    if s.now < t + 50000 then .next s
    else
      let s := s.modFmu u (fun x => { x with down := true, registered := false, billets := [], noSublinkSince := none })
      let s := s.failUnitOps u stInternal
      let s := { s with links := tmap s.links (fun k x => if k / 8 = u.val then { x with cmds := [], heldFrames := [], lostAt := none } else x) }
      let mine := fun (p : Nat) => portFmu p == some u.val
      .next ((s.stopUsers mine 0).releasePending mine).drainProgress

/-! ### The commands of far billets (R230) -/

/-- Queue a command of 32 granules for a far billet on the sublink of its hash. -/
def State.queueFarBillet (s : State) (u : Nat) (b : FarBillet) : State :=
  let slot := s.billetSlot b.off
  let s := s.modFarBillet u b.port b.slot b.isWrite (fun x => { x with queued := true })
  s.queueCmd (s.slotLink u slot) (fun t => {
    tag := t, record := mkRecord (if b.isWrite then 2 else 1) 0 32 t b.off 0, data := if b.isWrite then b.data else []
    poison := if b.isWrite then b.poison else [], slot := slot, billet := some (b.port, b.slot) })

/-- The far-destined billets of a unit whose WRITE is due and not queued (R230). -/
def State.farWritesDue (s : State) (u : Nat) : List FarBillet :=
  (s.fmu u).billets.filter (fun b => b.isWrite && !b.queued && decide (b.slot + 2 ≤ s.pw.schedCycles / 72))

/-- FAR_BILLET_WRITE_QUEUE (R230): the oldest far-destined billet of the port whose slot n + 2 has come. -/
def execFarBilletWriteQueue (u : FmuIx) (p : PortIx) (s : State) : Host.Outcome State Fault Refusal :=
  match (s.farWritesDue u).find? (fun b => b.port == p.val) with
  | none => .next s
  | some b => .next (s.queueFarBillet u b)

/-- The entries that send from a port in a module slot: turf, entry and period, of every running batch (R156).
With PERIODS nonzero, none sends in batch period PERIODS or later (R521). -/
def State.entriesAt (s : State) (n : Nat) : List (Nat × Nat × BitVec 256 × Nat) :=
  s.batches.flatMap (fun x =>
    let b := x.2
    let c := (s.cal x.1).active
    if !b.started || b.stopping || decide (n < b.startSlot) || c.period == 0 then []
    else
      let p := (n - b.startSlot) / c.period
      let i := (n - b.startSlot) % c.period
      let most := (s.bucketOf x.1).1
      if most ≠ 0 && decide (most ≤ p) then []
      else (c.entries.filter (fun e => ceSlot e.2 == i && decide (ceFirst e.2 ≤ p) && (ceLast e.2 == 0xFFFFFFFF || decide (p ≤ ceLast e.2)))).map
        (fun e => (x.1, e.1, e.2, p)))

/-- The unit offset a far locator names (R229). -/
def State.farOffset (s : State) (t edge loc : Nat) : Nat :=
  match bdFind (s.cal t).active.farBd edge (loc / 2 ^ 24) with
  | none => 0
  | some d => bits d.toNat 63 0 + loc % 2 ^ 24 * 8192

/-- A unit's engine holds 256 billets that await completion (R230). -/
def State.farFull (s : State) (u : Nat) : Bool := decide (256 ≤ ((s.fmu u).billets.filter (fun b => !b.done)).length)

/-- FAR_BILLET_READ_QUEUE (R230): the READ of the billet that the port sends 48 slots later. In one cycle writes are queued before reads:
what is due of the unit's WRITEs goes first. -/
def execFarBilletReadQueue (u : FmuIx) (p : PortIx) (s : State) : Host.Outcome State Fault Refusal :=
  let m := s.pw.schedCycles / 72 + 48
  if portFmu p != some u.val then .next s
  else match (s.entriesAt m).find? (fun e => e.2.1 == p.val) with
  | none => .next s
  | some (t, _, e, k) =>
    if (s.fmu u).billets.any (fun b => b.port == p.val && b.slot == m && !b.isWrite) || s.farFull u then .next s
    else
      let off := s.farOffset t (p.val / 64 - 40) (locAt e true k).toNat
      let b : FarBillet := { port := p.val, slot := m, isWrite := false, off := off, turf := t }
      let s := (s.farWritesDue u).foldl (fun s w => s.queueFarBillet u w) s
      .next ((s.modFmu u (fun x => { x with billets := x.billets ++ [b] })).queueFarBillet u b)

end Sys2Proof.Machine
end

