-- ==== Sys2Proof/Machine/Tomic.lean ====
section
/-!
DEFINITION. Tomic operations at their target (R261 to R274, R241, R252), and their answers at the issuer.
-/
namespace Sys2Proof.Machine

/-! ### Refusal of a request (R22, R25, R241, R261, R262, R265 to R267, R296, R324) -/

/-- Why a piece of a memory operation is refused; none when it is performed. -/
def State.memRefusal (s : State) (turf addr : Nat) : Option Nat :=
  match s.resolve addr with
  | none => some stBadArg
  | some (.store c l) =>
    if !mayReach turf (s.locOwner (.store c l)) then some stDenied else if s.cellAwake c then none else some stBusy
  | some (.site m o) => if mayReach turf (s.locOwner (.site m o)) && !s.retainedAt m o then none else some stDenied
  | some (.far n o) =>
    match s.farAbsent n with
    | some st => some st
    | none => if mayReach turf (s.locOwner (.far n o)) then none else some stDenied
  | some _ => some stBadArg

/-- The pieces of an operation's range: an atomic is one. -/
def opPieces (p : Packet) : List (Nat × Nat) := if 0x10 ≤ p.op then [(p.addr, otypeBytes p.otype)] else pieces p.addr p.len

/-- The first refusal over the pieces of an operation. -/
def State.opRefusal (s : State) (turf : Nat) (p : Packet) : Option Nat :=
  (opPieces p).foldl (fun r x => match r with | some st => some st | none => s.memRefusal turf x.1) none

/-- Refuse a request: a crossing is counted at its target (R325), and the issuer gets a NACK. -/
def State.refuseReq (s : State) (turf : Nat) (p : Packet) (status : Nat) : State :=
  let s := if status = stDenied then s.countRefusal ((s.resolve p.addr).getD .unmapped) turf
    else if status = stBadArg then s.countUnmapped p.addr else s
  s.nackReq turf p status

/-- Whether an operation waits for a compute reset to be released (R214). -/
def State.siteHeld (s : State) (p : Packet) : Bool :=
  (opPieces p).any (fun x => match s.resolve x.1 with | some (.site m _) => (s.site m).heldRefresh | _ => false)

/-- Count an operation at a site (Table 20.1): its granules at index 0 read or 1 written, and the time it waited there in ns, a free value
within the 10 ms after which its issuer gives it up (R272, R550, log entry 140). -/
def State.countSite (s : State) (p : Packet) (index : Nat) : State :=
  match s.resolve p.addr with
  | some (.site m _) =>
    let d := s.draw
    ((d.2.bump 3 m index (opPieces p).length).bump 3 m 3 1).bump 3 m 7 (d.1.toNat % 10000000)
  | _ => s

/-! ### Loads and stores -/

/-- CE_STATE (Table 10.8). -/
def ceStateWord (c : CeSt) : Nat := c.epoch * 2 ^ 32 + c.inflight * 2 ^ 16 + c.free

/-- A read of a counter (R235, R241, R256): never checked against an epoch; a free counter reads 0 to turf 0 and is denied to
every other turf. -/
def State.ctrReadRefusal (s : State) (k turf : Nat) : Option Nat :=
  match s.ctrOwner k with
  | .cell =>
    let r := regionOf ((k - 65536) / 64)
    if !mayReach turf (regionOwner s.turfMap r) then some stDenied else if (s.region r).sleep.num ≤ 1 then none else some stBusy
  | _ => if mayReach turf (s.ctrTurf k) then none else some stDenied

/-- Perform a LOAD in the module's own memory. -/
def State.loadMem (s : State) (turf : Nat) (p : Packet) : State :=
  let s := s.meetRange p.addr p.len
  let r := (s.readRange p.addr p.len).getD (List.replicate p.len 0, false)
  let s := s.countSite p 0
  let s := match s.resolve p.addr with | some (.site m _) => if r.2 then s.bump 3 m 6 1 else s | _ => s
  s.dataReq turf p r.1 r.2

/-- A LOAD at its target. -/
def State.loadReq (s : State) (turf : Nat) (p : Packet) : State :=
  if !p.requestOk then s.refuseReq turf p stBadArg
  else match s.resolve p.addr with
  | some (.ctr k) =>
    if p.len ≠ 4 then s.refuseReq turf p stBadArg
    else match s.ctrReadRefusal k turf with
    | some st => s.refuseReq turf p st
    | none => s.dataReq turf p (natLe 4 (s.ctr k).value) false
  | some (.ceState n) => if p.len = 8 then s.dataReq turf p (natLe 8 (ceStateWord (s.ce n))) false else s.refuseReq turf p stBadArg
  | l =>
    match s.opRefusal turf p with
    | some st => s.refuseReq turf p st
    | none => match l with
      | some (.far n o) => s.farRequest turf p n o
      | _ => s.loadMem turf p

/-- LOAD (R274): an access to a site that a compute reset holds in self-refresh waits (R214). -/
def execLoad (a : Arrival) (p : Packet) (s : State) : Host.Outcome State Fault Refusal :=
  if p.reservedOp then .next (s.refuseReq a.turf p stBadArg)
  else if p.op ≠ 1 ∨ s.siteHeld p then .next s
  else .next (s.loadReq a.turf p)

/-- A STORE at its target in memory (R269). -/
def State.storeReq (s : State) (turf : Nat) (p : Packet) : State :=
  if !p.requestOk then s.refuseReq turf p stBadArg
  else match s.opRefusal turf p with
  | some st => s.refuseReq turf p st
  | none => match s.resolve p.addr with
    | some (.far n o) => s.farRequest turf p n o
    | _ =>
      let s := (pieces p.addr p.len).foldl (fun (s : State) (x : Nat × Nat) =>
        (s.writePiece x.1 (slice p.data (x.1 - p.addr) x.2) p.poisoned).1) s
      (s.countSite p 1).storeAnswer turf p

/-- STORE (R269, R283). -/
def execStore (a : Arrival) (p : Packet) (s : State) : Host.Outcome State Fault Refusal :=
  if p.op ≠ 2 ∨ s.siteHeld p then .next s
  else match s.resolve p.addr with
  | some (.ceSubmit _) => .next s
  | some .inbox => .next s
  | _ => .next (s.storeReq a.turf p)

/-! ### Atomics (R268) -/

/-- The new value of an atomic and the LEDGER_RANGE events it records: one when the operand's alignment loses bits (R82), one when the sum
saturates (R81). The aligned operand is added whole: R80's window of 2^112 is that of a value which becomes a ledger word, and R268 names
R81 and R82 alone (log entry 121, DEDUCED). -/
def atomValue (p : Packet) (old : Nat) : Nat × Nat :=
  let x := p.operand.toNat
  let w := 8 * otypeBytes p.otype
  let o := old % 2 ^ w
  let v := x % 2 ^ w
  match p.op, p.otype with
  | 0x10, 2 => ((toF32 ((ofF32 (BitVec.ofNat 32 o)).add (ofF32 (BitVec.ofNat 32 v)))).toNat, 0)
  | 0x10, 3 =>
    let e := (p.ext.getD 0).toNat
    let j := ledgerAlign (BitVec.ofNat 128 v) (signed 8 (bits e 23 16)) (signed 8 (bits e 15 8))
    let r := ledgerAdd (BitVec.ofNat 128 o) j.1
    (r.1.toNat, b2n j.2 + b2n r.2)
  | 0x10, _ => ((o + v) % 2 ^ w, 0)
  | 0x11, 2 => ((f32MinMax false (BitVec.ofNat 32 o) (BitVec.ofNat 32 v)).toNat, 0)
  | 0x12, 2 => ((f32MinMax true (BitVec.ofNat 32 o) (BitVec.ofNat 32 v)).toNat, 0)
  | 0x11, _ => (if signed w v < signed w o then v else o, 0)
  | 0x12, _ => (if signed w o < signed w v then v else o, 0)
  | _, _ => (if o = bits x 63 0 then bits x 127 64 else o, 0)

/-- LEDGER_RANGE events of an atomic are counted at the cell or site where they occur (R84): as cell events of layer 0 and operator 0,
for no step of the cell makes them (R493); Table 20.1 has no counter of them for a site (log entry 113). -/
def State.countRange (s : State) (l : Option Loc) (n : Nat) : State :=
  if n = 0 then s
  else match l with
  | some (.store c _) => (s.modCell c (fun x => { x with ledgerRange := true })).cellEvent c 0x21 n 0 0
  | some (.site m _) => s.tally (.ledgerRange m) n
  | _ => s

/-- An atomic on bytes of the module's own memory: poisoned bytes refuse it (R269). -/
def State.atomMem (s : State) (turf : Nat) (p : Packet) : State :=
  let n := otypeBytes p.otype
  let l := s.resolve p.addr
  let s := s.meetRange p.addr n
  match s.readPiece p.addr n with
  | none => s.refuseReq turf p stBusy
  | some (bs, poison) =>
    if poison then s.nackReq turf p stInternal
    else
      let r := atomValue p (leNat bs)
      let s := ((s.writePiece p.addr (natLe n r.1) false).1).countSite p 1
      (s.countRange l r.2).atomDone turf p (BitVec.ofNat 128 (leNat bs)) (decide (0 < r.2))

/-- An INT32 add on a counter is a signal or a decrement, and with operand 0 a read (R241). -/
def State.atomCtr (s : State) (turf : Nat) (remote : Bool) (p : Packet) (k : Nat) : State :=
  let old := BitVec.ofNat 128 (s.ctr k).value
  let d := signed 32 p.operand.toNat
  if p.op ≠ 0x10 ∨ p.otype ≠ 0 then s.refuseReq turf p stBadArg
  else if d = 0 then
    match s.ctrReadRefusal k turf with
    | some st => s.refuseReq turf p st
    | none => s.atomDone turf p old false
  else
    let r := s.signalCtr k d { who := BitVec.ofNat 16 (if remote then p.srcEp else p.unit), turf := turf, remote := remote }
    if r.2 = stOk then r.1.atomDone turf p old false else r.1.nackReq turf p r.2

/-- Whether a copy of an atomic finds the first still at its far unit, whose answer is that of both (R271). -/
def State.farPending (s : State) (p : Packet) : Bool :=
  s.farOps.any (fun o => decide (0x10 ≤ o.pkt.op) && s.atomUnit o.pkt == s.atomUnit p && o.pkt.tag == p.tag)

/-- An atomic at its target; a copy of one performed before gets the recorded answer (R271). -/
def State.atomReq (s : State) (turf : Nat) (remote : Bool) (p : Packet) : State :=
  if !p.requestOk then s.refuseReq turf p stBadArg
  else match s.atomFound p with
  | some a => s.resendAnswer turf p a
  | none =>
    if s.farPending p then s
    else match s.resolve p.addr with
    | some (.ctr k) => s.atomCtr turf remote p k
    | l =>
      match s.opRefusal turf p with
      | some st => s.refuseReq turf p st
      | none => match l with
        | some (.far n o) => s.farRequest turf p n o
        | _ => s.atomMem turf p

/-- ATOM_ADD (R268, R241). -/
def execAtomAdd (a : Arrival) (p : Packet) (s : State) : Host.Outcome State Fault Refusal :=
  if p.op ≠ 0x10 ∨ s.siteHeld p then .next s else .next (s.atomReq a.turf a.remote p)

/-- ATOM_MIN (R268). -/
def execAtomMin (a : Arrival) (p : Packet) (s : State) : Host.Outcome State Fault Refusal :=
  if p.op ≠ 0x11 ∨ s.siteHeld p then .next s else .next (s.atomReq a.turf a.remote p)

/-- ATOM_MAX (R268). -/
def execAtomMax (a : Arrival) (p : Packet) (s : State) : Host.Outcome State Fault Refusal :=
  if p.op ≠ 0x12 ∨ s.siteHeld p then .next s else .next (s.atomReq a.turf a.remote p)

/-- ATOM_CAS (R268). -/
def execAtomCas (a : Arrival) (p : Packet) (s : State) : Host.Outcome State Fault Refusal :=
  if p.op ≠ 0x13 ∨ s.siteHeld p then .next s else .next (s.atomReq a.turf a.remote p)

end Sys2Proof.Machine
end

