-- ==== Sys2Proof/Machine/CopyEngines.lean ====
section
/-!
DEFINITION. Copy engines (R277 to R283), answers at their issuer (R270, R272), and the message inbox (R284, R285).
-/
namespace Sys2Proof.Machine

/-! ### Descriptors (Table 10.9) -/

/-- OP of a descriptor. -/
def CeDesc.op (d : CeDesc) : Nat := fld d.raw 0 1
/-- OTYPE. -/
def CeDesc.otype (d : CeDesc) : Nat := fld d.raw 1 1
/-- FENCE. -/
def CeDesc.fence (d : CeDesc) : Bool := (fld d.raw 2 1).testBit 0
/-- ARRIVE_EN. -/
def CeDesc.arriveEn (d : CeDesc) : Bool := (fld d.raw 2 1).testBit 1
/-- LEN. -/
def CeDesc.len (d : CeDesc) : Nat := fld d.raw 4 4
/-- DST. -/
def CeDesc.dst (d : CeDesc) : Nat := fld d.raw 8 8
/-- SRC. -/
def CeDesc.src (d : CeDesc) : Nat := fld d.raw 16 8
/-- DONE. -/
def CeDesc.doneAddr (d : CeDesc) : Nat := fld d.raw 40 8
/-- EPOCH. -/
def CeDesc.epoch (d : CeDesc) : Nat := fld d.raw 52 4
/-- STATUS_ADDR. -/
def CeDesc.statusAddr (d : CeDesc) : Nat := fld d.raw 56 8

/-- SRC_UNIT of a copy engine (Table 9.4). -/
def ceUnit (n : Nat) : Half := coreParty 2 n

/-- Change a descriptor of an engine by its number. -/
def State.modDesc (s : State) (n id : Nat) (f : CeDesc → CeDesc) : State :=
  s.modCe n (fun c => { c with queue := c.queue.map (fun d => if d.id = id then f d else d) })

/-- A descriptor of an engine by its number. -/
def State.desc (s : State) (n id : Nat) : Option CeDesc := (s.ce n).queue.find? (fun d => d.id == id)

/-- A descriptor's fields satisfy Table 10.9: from a cell EPOCH is 0. -/
def CeDesc.fieldsOk (d : CeDesc) : Bool :=
  let op := d.op
  decide (fld d.raw 2 1 < 4) && fld d.raw 3 1 == 0 && (!d.byCell || d.epoch == 0)
  && (if op = 0x20 then d.otype == 0 && decide (1 ≤ d.len) && decide (d.len ≤ 2 ^ 30) && (!d.arriveEn || decide (128 ≤ fld d.raw 48 2))
      else if op = 0x21 then d.otype == 0 && !d.arriveEn && decide (1 ≤ d.len) && decide (d.len ≤ 2 ^ 30) && d.src == 0
        && d.len % 16 == 0 && d.dst % 16 == 0
      else if op = 0x10 ∨ op = 0x11 ∨ op = 0x12 ∨ op = 0x13 then
        !d.arriveEn && d.len == 0 && (if op = 0x13 then d.otype == 1 else if op = 0x10 then decide (d.otype < 4) else decide (d.otype < 3))
          && d.dst % otypeBytes d.otype == 0
      else false)

/-- Whether an engine reaches an address for a descriptor's turf (R282). -/
def State.ceReaches (s : State) (turf addr : Nat) : Bool := (s.issueRefusal turf addr).isNone

/-- Whether a descriptor may be performed (R279, R282): its layout, no overlap of source and destination, and DONE, STATUS_ADDR
and destination within reach. -/
def State.descOk (s : State) (d : CeDesc) : Bool :=
  d.fieldsOk
  && !(d.op == 0x20 && !d.srcHost && !d.dstHost && decide (d.src < d.dst + d.len) && decide (d.dst < d.src + d.len))
  && (d.dstHost || s.ceReaches d.turf d.dst)
  && (d.doneAddr == 0 || !s.signalBad d.turf d.doneAddr)
  && (d.statusAddr == 0 || s.ceReaches d.turf d.statusAddr)

/-! ### Completion (R281) -/

/-- The status record (Table 10.10). -/
def CeDesc.record (d : CeDesc) : Nat := ceilDiv d.bytes 256 * 2 ^ 32 + d.flags % 8 * 2 ^ 8 + d.status.toNat

/-- Whether a DONE must wait: an earlier descriptor of its engine has a write or an atomic that is not answered (R248). Of the operations of
later descriptors it waits for none (log entry 124, DEDUCED). -/
def State.doneWaits (s : State) (n : Nat) (d : CeDesc) : Bool :=
  let before := ((s.ce n).queue.takeWhile (fun x => x.id != d.id)).map (fun x => x.id)
  s.ops.any (fun o => o.unit == ceUnit n && hfld o.pkt.hdr 0 1 != 1 && before.contains o.extra)

/-- A descriptor whose status record is stored ends (R281): DONE is signalled where it names a counter (R544), and a counter of this module
gives the outcome before the descriptor's place is free (R282). -/
def State.finishDesc (s : State) (n : Nat) (d : CeDesc) : State :=
  if d.doneAddr = 0 ∨ s.signalBad d.turf d.doneAddr then s.descDone n d
  else if s.doneWaits n d then s.modDesc n d.id (fun x => { x with stored := true, status := d.status })
  else
    let t := s.sendSignal (40 + n / 16) d.turf d.doneAddr 1 d.epoch (ceUnit n)
    if s.isRemote d.doneAddr then t.descDone n d else t.modDesc n d.id (fun x => { x with stored := true, doneSent := true, status := d.status })

/-- A descriptor that has ended completes: its status record is stored first where it names one, then the rest follows the answer. -/
def State.completeDesc (s : State) (n : Nat) (d : CeDesc) : State :=
  if d.statusAddr = 0 ∨ d.stored then s.finishDesc n d
  else
    match s.issueRefusal d.turf d.statusAddr with
    | some st => (s.tally (.notSent (ceUnit n).toNat) 1).finishDesc n { d with status := if d.status = 0 then BitVec.ofNat 8 st else d.status }
    | none =>
      let s := s.modDesc n d.id (fun x => { x with statusSent := true })
      (s.issueOp (ceUnit n).toNat d.turf 0x02 0 0 8 (BitVec.ofNat 64 d.statusAddr) 0 none (natLe 8 d.record) false 4 d.id).1

/-- Operations an engine has outstanding. -/
def State.ceOutstanding (s : State) (n : Nat) : Nat := (s.ops.filter (fun o => o.unit == ceUnit n)).length

/-- The engine's oldest descriptor that has ended and can go on: to its status record, for which the engine has an operation free (R280), or to
its DONE. -/
def State.endedDesc (s : State) (n : Nat) : Option CeDesc :=
  (s.ce n).queue.find? (fun d => d.ended && !d.doneSent
    && (if d.stored || d.statusAddr == 0 then d.doneAddr == 0 || s.signalBad d.turf d.doneAddr || !s.doneWaits n d
        else !d.statusSent && decide (s.ceOutstanding n < 64)))

/-- CE_DESCRIPTOR_COMPLETE (R281): the engine's oldest descriptor that has ended and can go on. -/
def execCeDescriptorComplete (ce : CeIx) (s : State) : Host.Outcome State Fault Refusal :=
  match s.endedDesc ce with
  | none => .next s
  | some d => .next (s.completeDesc ce d)

/-- A descriptor ends with a status, the first failing one (R281). -/
def State.endDesc (s : State) (n id status : Nat) : State :=
  s.modDesc n id (fun d => if d.ended then d else { d with ended := true, status := BitVec.ofNat 8 status, moving := [], gather := [] })

/-! ### The moves of a descriptor (R280, R283) -/

/-- Length of the operation at an address with n bytes left: to the end of a granule, whole granules to a 4 KiB boundary, or the
last part of a granule (R265, R280). -/
def opLen (addr n : Nat) : Nat :=
  if addr % 256 ≠ 0 then min n (256 - addr % 256)
  else if 256 ≤ n then min (n / 256 * 256) (4096 - addr % 4096) else n

/-- Cut a range into operations. -/
def cutOps : Nat → Nat → Nat → List (Nat × Nat)
  | 0, _, _ => []
  | f + 1, addr, n => if n = 0 then [] else (addr, opLen addr n) :: cutOps f (addr + opLen addr n) (n - opLen addr n)

/-- The loads of n bytes at an address, at most 18 operations for 4 KiB. -/
def loadsOf (addr n : Nat) : List (Nat × Nat) := cutOps 40 addr n

/-- An operation that its engine does not send ends its descriptor with the refusal, and is counted (R263). -/
def State.ceRefused (s : State) (n id status : Nat) : State := (s.tally (.notSent (ceUnit n).toNat) 1).endDesc n id status

/-- Send n bytes of a descriptor's destination, from an offset: to host memory at once, else as a STORE; the final one of an
asynchronous copy carries LAST and the arrival extension. -/
def State.ceStore (s : State) (n : Nat) (d : CeDesc) (off : Nat) (bs : Bytes) (poison : Bool) : State :=
  let addr := d.dst + off
  let s := if poison then s.modDesc n d.id (fun x => { x with flags := x.flags ||| 2 }) else s
  if d.dstHost then
    let p := (s.queue (match d.cmd with | some c => c.1 | none => 0)).port
    if (s.pcie p).linkUp then
      ({ s with hostMem := memWrite s.hostMem (hostKey p addr) bs }).modDesc n d.id (fun x => { x with bytes := x.bytes + bs.length })
    else s.endDesc n d.id stInternal
  else
    match s.issueRefusal d.turf addr with
    | some st => s.ceRefused n d.id st
    | none =>
      let last := d.arriveEn && off + bs.length == d.len
      let ext : Option (BitVec 128) := if last then some (BitVec.ofNat 128 (2 + fld d.raw 48 2 * 2 ^ 16 + d.epoch * 2 ^ 32)) else none
      (s.issueOp (ceUnit n).toNat d.turf 0x02 0 (b2n last) bs.length (BitVec.ofNat 64 addr) 0 ext bs poison 2 d.id).1

/-- The bytes of a store that waits for its loads, when all have come and, for the final store of an asynchronous copy, every
other store has been answered (R283). -/
def CeDesc.ready (d : CeDesc) (m : Nat × Nat) : Option (Bytes × Bool) :=
  if d.arriveEn && m.1 + m.2 == d.len && d.bytes != m.1 then none
  else if d.srcHost then some (slice (tget d.gather ([], false) 0).1 m.1 m.2, false)
  else
    let parts := (loadsOf (d.src + m.1) m.2).map (fun l => tfind d.gather (l.1 - d.src))
    if parts.all (fun p => p.isSome) then
      some (parts.flatMap (fun p => (p.getD ([], false)).1), parts.any (fun p => (p.getD ([], false)).2))
    else none

/-- Send every store of a descriptor that is ready. -/
def State.flushDesc (s : State) (n : Nat) (d : CeDesc) : State :=
  d.moving.foldl (fun s m =>
    match s.desc n d.id with
    | none => s
    | some x =>
      if x.ended then s
      else match x.ready m with
      | none => s
      | some (bs, po) =>
        let keys := (loadsOf (d.src + m.1) m.2).map (fun l => l.1 - d.src)
        let s := s.modDesc n d.id (fun y => { y with
          moving := y.moving.filter (fun z => z != m), gather := if y.srcHost then y.gather else keys.foldl tdel y.gather })
        s.ceStore n x m.1 bs po) s

/-- Issue the loads of n bytes of a copy's source. -/
def State.ceLoads (s : State) (n : Nat) (d : CeDesc) (off len : Nat) : State :=
  (loadsOf (d.src + off) len).foldl (fun s l =>
    match s.issueRefusal d.turf l.1 with
    | some st => s.ceRefused n d.id st
    | none => (s.issueOp (ceUnit n).toNat d.turf 0x01 0 0 l.2 (BitVec.ofNat 64 l.1) 0 none [] false 1 d.id).1) s

/-- The pattern of a FILL repeated over n bytes from an offset. -/
def patternBytes (d : CeDesc) (off n : Nat) : Bytes :=
  let p := natLe 16 (fld d.raw 24 16)
  (List.range n).map (fun i => p.getD ((off + i) % 16) 0)

/-- Issue the next operations of a started descriptor, while the engine has fewer than 64 outstanding (R280). -/
def State.advance (s : State) (n : Nat) (id : Nat) : Nat → State
  | 0 => s
  | f + 1 =>
    match s.desc n id with
    | none => s
    | some d =>
      if d.ended || decide (d.op < 0x20) || decide (d.len ≤ d.next) then s
      else
        let k := opLen (d.dst + d.next) (d.len - d.next)
        let loads := if d.op = 0x21 ∨ d.srcHost then 1 else (loadsOf (d.src + d.next) k).length
        if 64 < s.ceOutstanding n + loads then s
        else
          let s := s.modDesc n id (fun x => { x with next := x.next + k })
          let s :=
            if d.op = 0x21 then s.ceStore n d d.next (patternBytes d d.next k) false
            else
              let s := s.modDesc n id (fun x => { x with moving := x.moving ++ [(d.next, k)] })
              if d.srcHost then (match s.desc n id with | some x => s.flushDesc n x | none => s) else s.ceLoads n d d.next k
          s.advance n id f

/-- A descriptor whose every byte is known to be written has ended with OK. -/
def State.checkEnd (s : State) (n id : Nat) : State :=
  match s.desc n id with
  | none => s
  | some d => if !d.ended && decide (0x20 ≤ d.op) && d.bytes == d.len then s.endDesc n id stOk else s

/-- Let an engine go on: each started descriptor in queue order. A HOST side may take all of it at once. -/
def State.advanceCe (s : State) (n : Nat) : State :=
  ((s.ce n).queue.filter (fun d => d.started)).foldl (fun s d =>
    ((s.advance n d.id (if d.dstHost then d.len else 64)).checkEnd n d.id)) s

/-- Start a descriptor that may be performed. `data` is what the reads of a HOST source returned. -/
def State.startDesc (s : State) (n : Nat) (d : CeDesc) (data : Option Bytes) : State :=
  let s := s.modDesc n d.id (fun x => { x with started := true, gather := match data with
    | some b => if x.srcHost then [(0, (b, false))] else [] | none => [] })
  if !s.descOk d then s.endDesc n d.id stBadArg
  else if d.srcHost && data.isNone then s.endDesc n d.id stInternal
  else if d.op < 0x20 then
    let ext : Option (BitVec 128) := if d.op = 0x10 ∧ d.otype = 3
      then some (BitVec.ofNat 128 (1 + fld d.raw 50 1 * 2 ^ 8 + fld d.raw 51 1 * 2 ^ 16)) else none
    (s.issueOp (ceUnit n).toNat d.turf d.op d.otype 0 0 (BitVec.ofNat 64 d.dst) (BitVec.ofNat 128 (fld d.raw 24 16)) ext [] false 2 d.id).1
  else s.advanceCe n

/-- The next descriptor an engine may start (R281): in queue order, at most 16 started, a FENCE only as the first of the queue; an atomic
needs one of the 64 operations (R280). -/
def CeSt.nextDesc (c : CeSt) (outstanding : Nat) : Option CeDesc :=
  match c.queue.find? (fun d => !d.started) with
  | none => none
  | some d =>
    if 16 ≤ c.inflight ∨ c.retired ∨ (d.fence ∧ c.inflight ≠ 0) ∨ (d.op < 0x20 ∧ 64 ≤ outstanding) then none else some d

/-- CE_DESCRIPTOR_START (R279, R280). -/
def execCeDescriptorStart (ce : CeIx) (data : Option Bytes) (s : State) : Host.Outcome State Fault Refusal :=
  match (s.ce ce).nextDesc (s.ceOutstanding ce) with
  | none => .next s
  | some d =>
    match data with
    | some b => if d.srcHost ∧ b.length ≠ d.len then .fault .illFormed else .next (s.startDesc ce d data)
    | none => .next (s.startDesc ce d none)

/-! ### Answers at a copy engine -/

/-- An operation of a descriptor is answered: `data` of a load, the old value of an atomic, a status, what is known of the bytes. -/
def State.ceAnswered (s : State) (n : Nat) (o : TomicOp) (p : Packet) (status : Nat) (written indet : Bool) : State :=
  match s.desc n o.extra with
  | none => s.advanceCe n
  | some d =>
    let toSrc := decide (d.op < 0x20) && o.pkt.op == 2
    let s := if written then s.modDesc n d.id (fun x => { x with
        bytes := if toSrc then x.bytes else if d.op < 0x20 then otypeBytes d.otype else x.bytes + o.pkt.len }) else s
    let s := if indet then s.modDesc n d.id (fun x => { x with flags := x.flags ||| 4 }) else s
    let s :=
      if status ≠ 0 then s.endDesc n d.id status
      else if d.ended then s
      else if o.purpose = 1 then
        let s := s.modDesc n d.id (fun x => { x with gather := tset x.gather (o.pkt.addr - d.src) (p.data, p.poisoned) })
        match s.desc n d.id with | some x => s.flushDesc n x | none => s
      else if d.op < 0x20 then
        let s := if p.flags.testBit 2 then s.modDesc n d.id (fun x => { x with flags := x.flags ||| 1 }) else s
        if toSrc || d.src == 0 then s.endDesc n d.id stOk
        else match s.issueRefusal d.turf d.src with
          | some st => s.ceRefused n d.id st
          | none => (s.issueOp (ceUnit n).toNat d.turf 0x02 0 0 16 (BitVec.ofNat 64 d.src) 0 none (natLe 16 p.operand.toNat) false 2 d.id).1
      else match s.desc n d.id with | some x => s.flushDesc n x | none => s
    s.advanceCe n

/-- The status store of a descriptor has been answered (R281, R282). -/
def State.statusStored (s : State) (n : Nat) (o : TomicOp) (status : Nat) : State :=
  match s.desc n o.extra with
  | none => s
  | some d => s.finishDesc n { d with status := if d.status = 0 then BitVec.ofNat 8 status else d.status }

/-! ### Answers (R270) -/

/-- What an answer does at the unit that issued the operation: a status of 0 is success. -/
def State.opAnswered (s : State) (o : TomicOp) (p : Packet) (status : Nat) (written indet : Bool) : State :=
  let u := o.unit.toNat
  match o.purpose with
  | 0 =>
    let c := u % 4096
    let e := u / 4096 - 1
    if status = 0 then s.aeAnswered c e o.tag p.data p.poisoned else s.aeRefused c e o.tag status
  | 1 => s.ceAnswered (u % 64) o p status written indet
  | 2 => s.ceAnswered (u % 64) o p status written indet
  | 3 =>
    let w := u % 4096 - 64 - 64 * o.extra
    s.windowAnswer o.extra w o.tag (o.pkt.op == 1) p.data (status != 0) p.poisoned
  | 4 => s.statusStored (u % 64) o status
  | 5 => if o.extra = 0 then s else s.sendSignal (s.signallerOep o.unit) o.turf o.extra 1 0 o.unit
  | _ => s.cmdStored o.extra (status != 0)

/-- The operation an answer answers: sent, and of the answer's tag at its unit. -/
def State.opOf (s : State) (unit : Half) (tag : Nat) : Option TomicOp :=
  s.ops.find? (fun o => o.unit == unit && o.tag == BitVec.ofNat 32 tag && !o.waitingWindow)

/-- Take an answer at its issuer; one to an operation that is no longer outstanding is discarded and counted (R32, R315). -/
def State.takeAnswer (s : State) (unit : Half) (p : Packet) (opcode : Nat) (ok : TomicOp → Bool) : State :=
  match s.opOf unit p.tag with
  | none => s.tally (.lateAnswer unit.toNat) 1
  | some o =>
    if p.op ≠ opcode || !ok o then s
    else (((s.opDone unit o.tag).opAnswered o p p.status (decide (opcode = 0x80 ∧ o.pkt.op ≠ 1)) false)).drainProgress

/-- ACK (R270): a STORE with ARRIVAL_REFUSED was written and has failed all the same. -/
def execAck (unit : Half) (p : Packet) (s : State) : Host.Outcome State Fault Refusal :=
  .next (s.takeAnswer unit p 0x80 (fun o => o.pkt.op != 1))

/-- DATA (R270). -/
def execData (unit : Half) (p : Packet) (s : State) : Host.Outcome State Fault Refusal :=
  .next (s.takeAnswer unit p 0x81 (fun o => o.pkt.op == 1 && decide (p.data.length = o.pkt.len)))

/-- NACK (R270). -/
def execNack (unit : Half) (p : Packet) (s : State) : Host.Outcome State Fault Refusal :=
  .next (s.takeAnswer unit p 0x82 (fun _ => p.status != 0))

/-- An operation ends at its issuer without an answer (R272, R315): where it may have been performed it is counted as indeterminate. -/
def State.opEnds (s : State) (o : TomicOp) (status : Nat) (indet : Bool) : State :=
  let s := if indet then s.tally (.indeterminate o.unit.toNat) 1 else s
  (s.opDone o.unit o.tag).opAnswered o {hdr := 0} status false indet

/-- TOMIC_OP_TIMEOUT (R272): 10 ms after it was sent an operation completes with INTERNAL. -/
def execTomicOpTimeout (unit : Half) (tag : Word) (now : Nat) (s : State) : Host.Outcome State Fault Refusal :=
  let s := s.at_ now
  match s.opOf unit tag.toNat with
  | none => .next s
  | some o => if s.now < o.sentAt + 10000000 then .next s else .next (s.opEnds o stInternal true).drainProgress

/-! ### SUBMIT (R278) -/

/-- The four places of a SUBMIT store; OP 0 is an empty one. -/
def submitted (p : Packet) : List (BitVec 512) :=
  ((List.range 4).map (fun i => BitVec.ofNat 512 (leAt p.data (64 * i) 64))).filter (fun w => fld w 0 1 != 0)

/-- Why a SUBMIT store is refused (R278, R484): a retired engine has no free place. -/
def State.submitRefusal (s : State) (n turf : Nat) (remote : Bool) (p : Packet) : Option Nat :=
  if !p.requestOk || p.len != 256 then some stBadArg
  else if (s.ce n).free < (submitted p).length ∨ (s.ce n).retired then some stBusy
  else if remote then some stDenied
  else if p.unit / 2 ^ 14 = 0 ∧ turf ≠ 0 ∧ !(ceMask s.turfMap turf).testBit n then some stDenied
  else none

/-- CE_SUBMIT (R278). -/
def execCeSubmit (ce : CeIx) (a : Arrival) (p : Packet) (s : State) : Host.Outcome State Fault Refusal :=
  if p.op ≠ 2 || s.resolve p.addr != some (.ceSubmit ce) then .next s
  else match s.submitRefusal ce a.turf a.remote p with
  | some st => .next (s.refuseReq a.turf p st)
  | none => .next (((submitted p).foldl (fun s w =>
      s.pushDesc ce { raw := w, turf := a.turf, byCell := p.unit / 2 ^ 14 == 0 }) s).storeAnswer a.turf p)

/-- A copy engine is retired and its descriptors complete with INTERNAL (R478, R484). -/
def State.retireEngine (s : State) (n origin : Nat) : State :=
  if (s.ce n).retired then s
  else
    let s := (s.modCe n (fun c => { c with retired := true })).faultActed 0x0E origin 2 n 0 0
    (s.ce n).queue.foldl (fun s d =>
      if d.statusSent || d.doneSent then s
      else
        let s := s.endDesc n d.id stInternal
        match s.desc n d.id with | some x => s.completeDesc n x | none => s) s

/-- COPY_ENGINE_FAULT (R484). -/
def execCopyEngineFault (ce : CeIx) (s : State) : Host.Outcome State Fault Refusal := .next (s.retireEngine ce 2)

/-! ### Messages (R284, R285) -/

/-- The records of an inbox store. -/
def inboxRecords (p : Packet) : List Bytes := (List.range 4).map (fun i => slice p.data (64 * i) 64)

/-- Reserved bits of a record are 0 and its PRIO is at most 3 (R284). -/
def msgOk (r : Bytes) : Bool :=
  bits (leAt r 0 2) 14 12 == 0 && bits (leAt r 3 1) 7 5 == 0 && decide (bits (leAt r 3 1) 4 2 ≤ 3) && leAt r 4 12 == 0

/-- Deliver one valid record to its cell: true when it is undelivered. -/
def State.deliver (s : State) (turf : Nat) (p : Packet) (r : Bytes) : State × Bool :=
  let c := leAt r 0 2 % 4096
  let n := leAt r 3 1 % 4
  let item := itemHead (bits (leAt r 3 1) 4 2) n (0x100 + leAt r 2 1) (p.srcEp * 2 ^ 16 + p.unit) s.now
    :: (List.range n).map (fun w => BitVec.ofNat 128 (leAt r (16 + 16 * w) 16))
  let rk := (s.cell c).rick
  if !mayReach turf (regionOwner s.turfMap (regionOf c)) then (s.countRefusal (.store c 0) turf, true)
  else if !s.cellAwake c then (s, true)
  else
    let ignored := s.rickMode && decide (16 < rk.words + item.length)
    (s.modCell c (fun x => { x with rick := x.rick.put s.rickMode item }), ignored)

/-- MESSAGE_INBOX_STORE (R284, R285). -/
def execMessageInboxStore (a : Arrival) (p : Packet) (s : State) : Host.Outcome State Fault Refusal :=
  if p.op ≠ 2 || s.resolve p.addr != some .inbox then .next s
  else if !p.requestOk || p.len != 256 || !(inboxRecords p).all msgOk then .next (s.refuseReq a.turf p stBadArg)
  else
    let r := (inboxRecords p).zipIdx.foldl (fun (acc : State × Nat) x =>
      if !(leAt x.1 0 2).testBit 15 then acc
      else
        let d := acc.1.deliver a.turf p x.1
        (d.1, if d.2 then acc.2 + 2 ^ x.2 else acc.2)) (s, 0)
    .next (r.1.storeAnswer a.turf p (BitVec.ofNat 128 r.2))

end Sys2Proof.Machine
end

