-- ==== Sys2Proof/Machine/Routes.lean ====
section
/-!
DEFINITION. Routed packets on fabric channels (R291, R294, R297, R298): route headers, the choice of a fibre and channel, the
escape channel (R302), and the resending of requests (R314).
-/
namespace Sys2Proof.Machine

/-- A route header (Table 11.5). -/
def mkRoute (rkind next dst src turf path rest epoch rflags dstFibre peerIndex : Nat) : Bytes :=
  natLe 1 rkind ++ natLe 1 next ++ natLe 2 dst ++ natLe 2 src ++ natLe 1 turf ++ natLe 1 path ++ natLe 2 rest ++ natLe 2 epoch
    ++ natLe 1 rflags ++ natLe 1 dstFibre ++ natLe 1 peerIndex ++ [0]

/-- Bytes of a Dynamic packet: operation header, extension, payload. -/
def packetBytes (p : Packet) : Bytes :=
  natLe 48 p.hdr.toNat ++ (match p.ext with | some e => natLe 16 e.toNat | none => []) ++ p.data

/-- The fibres of the route of a turf to an endpoint (R298). -/
def State.routeFibres (s : State) (turf ep : Nat) : List Nat :=
  match s.routeOf turf ep with
  | none => []
  | some r => (List.range (min 8 (memNat s.fab.routes (r + 1) 1))).map (fun i => memNat s.fab.routes (r + 2 + i) 1)

/-- PATH of a route. -/
def State.routePath (s : State) (turf ep : Nat) : Nat :=
  match s.routeOf turf ep with | none => 0 | some r => memNat s.fab.routes (r + 10) 1

/-- A fibre counts as failed (R314). -/
def State.fibreLost (s : State) (f : Nat) : Bool := (s.link (fabLink f 0)).failed || (s.link (fabLink f 1)).failed

/-- The fibre a packet leaves on: that of its hash, or while it counts as failed an in-service one of its route (R288, R314). -/
def State.egressFibre (s : State) (turf ep addr : Nat) : Nat :=
  let f := s.fibreOf turf (ep * 2 ^ 48 + addr % 2 ^ 48)
  if s.fibreLost f then ((s.routeFibres turf ep).find? s.fibreUp).getD f else f

/-- The channel of a granule on its fibre (log entry 24). -/
def egressChannel (addr : Nat) : Nat := addr / 256 % 2

/-- The operation header that stands in a routed packet. -/
def bodyPacket (body : Bytes) : Packet := { hdr := BitVec.ofNat 384 (leAt body 16 48) }

/-- Whether a body is a routed request. -/
def isRoutedRequest (body : Bytes) : Bool :=
  leAt body 0 1 == 1 && decide (64 ≤ body.length) && (bodyPacket body).isRequest

/-- A request goes on the escape channel: its operation is marked until it is answered. -/
def State.markEscaped (s : State) (body : Bytes) : State :=
  if isRoutedRequest body then
    let p := bodyPacket body
    { s with ops := s.ops.map (fun o =>
      if o.unit.toNat = p.unit ∧ o.tag.toNat = p.tag ∧ o.pkt.srcEp = p.srcEp then { o with escaped := true } else o) }
  else s

/-- Send a body on the escape channel, from the queue of a link (R302). -/
def State.escapeBody (s : State) (origin vc : Nat) (body : Bytes) : State :=
  let b := splice body 12 [BitVec.ofNat 8 (leAt body 12 1 ||| 1)]
  (s.markEscaped body).queueLink s.escapeLink vc origin b

/-- Whether a request follows an escaped one of its unit to its endpoint and granule that is not answered (R302). -/
def State.follows (s : State) (p : Packet) : Bool :=
  p.isRequest && s.ops.any (fun o => o.escaped && o.unit.toNat == p.unit && o.pkt.addr / 256 == p.addr / 256 && o.tag.toNat != p.tag)

/-- Whether a queue has moved to the escape channel and is not empty there (R302). -/
def State.escaping (s : State) (l vc : Nat) : Bool :=
  (s.link s.escapeLink).waiting.any (fun w => w.2.2.1 == l && w.1 == vc && l != s.escapeLink)

/-- Queue a routed body for a channel of a fibre, or for the escape channel where R302 sends it. -/
def State.egressBody (s : State) (l vc : Nat) (body : Bytes) (follows : Bool) : State :=
  if follows || s.escaping l vc then s.escapeBody l vc body else s.queueLink l vc l body

/-- A Dynamic packet leaves the module (R288, R298); none leaves a halted one (R310), and none goes to a peer of a management-only pair
(R312). -/
def State.egress (s : State) (turf : Nat) (p : Packet) : State :=
  let dst := if p.isRequest then p.addr / 2 ^ 48 else p.srcEp
  if s.fab.phase = .halted ∨ s.pairWith dst = 1 then s
  else
  let vc := if p.isRequest then unitVc p.unit else unitVc p.unit + 1
  let pay := packetBytes p
  let next := match p.ext with | some _ => 2 | none => 1
  let body := mkRoute 1 next dst (s.flatOf 48) turf (s.routePath turf dst) pay.length 0 0 0 0 ++ pay
  s.egressBody (fabLink (s.egressFibre turf dst p.addr) (egressChannel p.addr)) vc body (s.follows p)

/-- A routed request that a lost channel held goes out again on another in-service fibre of its route; with none it waits where
it was (R314). -/
def State.rehome (s : State) (l vc : Nat) (body : Bytes) : State :=
  let turf := leAt body 6 1 % 64
  let f := (l - 64) / 3
  match ((s.routeFibres turf (leAt body 2 2)).filter (fun g => g != f)).find? s.fibreUp with
  | some g => s.egressBody (fabLink g ((l - 64) % 3 % 2)) vc body false
  | none => s.modLink l (fun x => { x with waiting := x.waiting ++ [(vc, s.now, l, body)] })

/-- The requests a channel holds unacknowledged: virtual channel and body. -/
def LinkSt.heldRequests (x : LinkSt) : List (Nat × Bytes) :=
  (x.heldFrames.filter (fun f => leAt f.2.1 20 1 == 1 && isRoutedRequest (f.2.1.drop 48))).map (fun f => (leAt f.2.1 34 1 % 8, f.2.1.drop 48))

/-- Resend the requests of a channel's replay store elsewhere; the store is discarded. -/
def State.discardStore (s : State) (l : Nat) : State :=
  let rs := (s.link l).heldRequests
  let s := s.modLink l (fun x => { x with heldFrames := [] })
  rs.foldl (fun s r => s.rehome l r.1 r.2) s

/-- The requests that wait at failed channels go out again where a fibre of their route has come back (R314). -/
def State.rehomeWaiting (s : State) : State :=
  let ls := ((s.links.filter (fun x => x.2.failed && x.2.waiting.any (fun w => isRoutedRequest w.2.2.2)))).map (fun x => x.1)
  ls.foldl (fun s l =>
    let ws := (s.link l).waiting.filter (fun w => isRoutedRequest w.2.2.2)
    let s := s.modLink l (fun x => { x with waiting := x.waiting.filter (fun w => !isRoutedRequest w.2.2.2) })
    ws.foldl (fun s w => s.rehome l w.1 w.2.2.2) s) s

/-! ### Time roles (R313) -/

/-- Change the role record of a fibre. -/
def State.modRole (s : State) (f : Nat) (g : RoleSt → RoleSt) : State := { s with fab := { s.fab with roles := tset s.fab.roles f (g (s.role f)) } }

/-- A role as Table 11.13 codes it. -/
def roleCode (leader : Bool) : Nat := if leader then 0 else 1

/-- A role command ends: OK when the module ends in the role it asked for (R313). -/
def State.endRole (s : State) (f : Nat) (held : Bool) (at_ : Option (Bool × Nat)) : State :=
  let x := s.role f
  let s := s.modRole f (fun x => { x with
    pending := none, collided := 0, cmd := none, at_ := at_, leader := if at_.isNone then held else s.leads f })
  match x.cmd with
  | none => s
  | some c => s.completeAt c (if held = x.want then stOk else stSwapCollided) (roleCode held)

/-- ESCAPE_MOVE (R302): a queue of channel 0 or 1 whose head has held no credit for 2 us moves to the escape channel. -/
def execEscapeMove (l : LinkIx) (vc : Fin 4) (now : Nat) (s : State) : Host.Outcome State Fault Refusal :=
  let s := s.at_ now
  let x := s.link l
  match x.waiting.find? (fun w => w.1 == vc.val) with
  | none => .next s
  | some h =>
    if isFar l || linkChannel l == 2 || x.state != .inService || tget x.recCredits 0 vc != 0 || decide (s.now < h.2.1 + 2000) then .next s
    else
      let ws := x.waiting.filter (fun w => w.1 == vc.val)
      let s := s.modLink l (fun y => { y with waiting := y.waiting.filter (fun w => w.1 != vc.val) })
      let s := ws.foldl (fun s w => s.escapeBody l vc w.2.2.2) (s.fibreCount l 6)
      if (s.link s.escapeLink).state = .inService then .next s.drainProgress else .next (s.notice0 5 0x1008 [])

end Sys2Proof.Machine
end

