-- ==== Sys2Proof/Machine/LinkRows.lean ====
section
/-!
DEFINITION. Bring-up, lane maps, replay and loss of far sublinks and fabric channels (R219, R223 to R226, R290, R314).
-/
namespace Sys2Proof.Machine

/-! ### Service (R223, R314) -/

/-- A channel that has not returned: its fibre counts as failed, its requests go elsewhere, and a later return starts afresh (R314). -/
def State.failChannel (s : State) (l : Nat) : State :=
  let x := s.link l
  let waiting := x.waiting.filter (fun w => isRoutedRequest w.2.2.2)
  let s := s.modLink l (fun y => { y with
    failed := true, lostAt := none, peerIdent := none, waiting := y.waiting.filter (fun w => !isRoutedRequest w.2.2.2) })
  waiting.foldl (fun s w => s.rehome l w.1 w.2.2.2) (s.discardStore l)

/-- Whether a channel's loss is 5 ms past (R314). -/
def State.lostLong (s : State) (l : Nat) : Bool := match (s.link l).lostAt with | some t => decide (t + 5000000 ≤ s.now) | none => false

/-- A fabric channel comes into service. Back within 5 ms of its loss with the peer unchanged, it goes on with its sequence; with
the peer changed its store is discarded and its requests are resent; else it starts afresh (R314). A fibre brought up afresh is led by the
switch end (R313). -/
def State.fabService (s : State) (l : Nat) (msg : Bytes) : State :=
  let s := if s.lostLong l then s.failChannel l else s
  let x := s.link l
  let same := match x.lostAt, x.peerIdent with
    | some _, some old => slice old 8 12 == slice msg 8 12
    | _, _ => false
  if same then
    s.modLink l (fun y => { y with
      state := .inService, peerIdent := some msg, newIdent := none, lostAt := none, retrained := false, failed := false
      cause := 0, lastGood := s.now, ackAt := s.now })
  else
    let s := s.modLink l (fun y => { y with
      state := .inService, peerIdent := some msg, newIdent := none, lostAt := none, retrained := false, failed := false, cause := 0
      retry := false, rxExp := 1, rxAny := false, rxHcr := [], txHcr := [], txGcr := [], txSeq := 1, lastGood := s.now
      ackAt := s.now, recCredits := identCredits msg 28 })
    (if linkChannel l = 0 then s.endRole (linkFibre l) false none else s).discardStore l

/-- A link has the peer's identity and its IDENT_ACK: it is in service, and what waits goes out. The identity gives the peer's lane map;
where the module still needs another one it asks again (R225). -/
def State.enterService (s : State) (l : Nat) (msg : Bytes) : State :=
  let s := if isFar l then s.farService l msg else s.fabService l msg
  let s := (s.modLink l (fun x => { x with rxMap := slice msg 64 18, rxMapAt := none })).pumpAll l
  let s := match (s.link l).rxWant with
    | none => s
    | some m => if m = (s.link l).rxMap then s.modLink l (fun x => { x with rxWant := none }) else s.wantMap l m
  if isFar l then s else s.moveEscape.rehomeWaiting

/-- IDENT (R224, R290): a peer that is accepted gets IDENT_ACK; a refused link stays out of service. -/
def execIdent (l : LinkIx) (msg : Bytes) (s : State) : Host.Outcome State Fault Refusal :=
  if msg.length ≠ 512 then .fault .illFormed
  else if (s.link l).state ≠ .identify then .next s
  else match s.identRefusal l msg with
  | some c => .next (s.modLink l (fun x => { x with state := .refused, cause := c }))
  | none =>
    let s := (s.modLink l (fun x => { x with newIdent := some msg })).sendMgmt l (natLe 2 2)
    .next (if (s.link l).ackSeen then s.enterService l msg else s)

/-- IDENT_ACK (R223, R228). -/
def execIdentAck (l : LinkIx) (s : State) : Host.Outcome State Fault Refusal :=
  let x := s.link l
  if x.state ≠ .identify then .next s
  else
    let s := s.modLink l (fun y => { y with ackSeen := true })
    match x.newIdent with
    | none => .next s
    | some msg => .next (s.enterService l msg).drainProgress

/-- FEC_LOCK (R223): the receiver holds FEC lock, and the side begins to send IDENT. -/
def execFecLock (l : LinkIx) (s : State) : Host.Outcome State Fault Refusal :=
  if (s.link l).state ≠ .training then .next s
  else .next ((s.modLink l (fun x => { x with state := .identify, ackSeen := false, newIdent := none })).sendMgmt l (s.identMsg l))

/-- IDENT_REPEAT (R223). -/
def execIdentRepeat (l : LinkIx) (s : State) : Host.Outcome State Fault Refusal :=
  if (s.link l).state = .identify ∧ (s.link l).newIdent.isNone then .next (s.sendMgmt l (s.identMsg l)) else .next s

/-- SUBLINK_RETRAIN (R223, R226, R314): a link that is down trains; one that is not in service 2 ms after its first training frame,
or 5 ms after a retrain, retrains. A refused link stays out of service. -/
def execSublinkRetrain (l : LinkIx) (now : Nat) (s : State) : Host.Outcome State Fault Refusal :=
  let s := s.at_ now
  let x := s.link l
  if !s.bu.photonicsOn || s.pw.shutdown then .next s
  else match x.state with
  | .inService => .next s
  | .refused => .next s
  | .down => .next (s.trainLink l)
  | _ => if s.now < x.trainedAt + (if x.retrained then 5000000 else 2000000) then .next s else .next (s.trainLink l)

/-! ### Lane maps (R225) -/

/-- The sender of a direction decides its map (R225): a map of its own that is on its way stands; else it takes the map that its peer asks
for, which its port then has, or announces the one in force where it cannot send by the other. -/
def State.mapAsked (s : State) (l : Nat) (map : Bytes) : State :=
  let x := s.link l
  if x.mapOut.isSome || x.txMapAt.isSome then s
  else match linkPort l with
  | none => s.changeMap l map
  | some p =>
    if (s.port p).canTake map then
      (s.modPort p (fun y => { y with lanes := (List.range 18).map (fun i => (i, leAt map i 1)) })).changeMap l map
    else s.changeMap l (s.port p).mapBytes

/-- LANE_MAP_REQ (R225): the sender answers with LANE_MAP, as soon as the frame has its credit and its place. -/
def execLaneMapReq (l : LinkIx) (m : MapMsg) (s : State) : Host.Outcome State Fault Refusal :=
  if m.map.length ≠ 18 then .fault .illFormed else .next (s.onMessage l 5 m.seq (fun s => s.mapAsked l m.map))

/-- The peer announces a map: the receiver applies it from the frame with SEQ SWITCH_SEQ on; where it still needs another one it asks
again (R225). -/
def State.mapAnnounced (s : State) (l switchSeq : Nat) (map : Bytes) : State :=
  let want := (s.link l).rxWant
  let s := s.modLink l (fun x => { x with rxMapAt := some (switchSeq, map), rxWant := if want = some map then none else want })
  match want with
  | none => s
  | some m => if m = map then s else s.sendMgmt l (mapMsg 3 0 m)

/-- LANE_MAP (R225). -/
def execLaneMap (l : LinkIx) (m : MapMsg) (switchSeq : Half) (s : State) : Host.Outcome State Fault Refusal :=
  if m.map.length ≠ 18 then .fault .illFormed else .next (s.onMessage l 5 m.seq (fun s => s.mapAnnounced l switchSeq.toNat m.map))

/-! ### Replay and loss (R219, R226, R314) -/

/-- LINK_DOWN (R226). -/
def execLinkDown (l : LinkIx) (m : SeqTime) (s : State) : Host.Outcome State Fault Refusal :=
  .next ((s.at_ m.now).onMessage l 5 m.seq (fun s => s.loseLink l))

/-- FAR_FRAME_RESEND (R219, R289): on RETRY from EXP_SEQ; when ACK has not advanced for 1 us, from the oldest frame held. -/
def execFarFrameResend (l : LinkIx) (retry : Bool) (expSeq : Half) (now : Nat) (s : State) : Host.Outcome State Fault Refusal :=
  let s := s.at_ now
  let x := s.link l
  if x.state ≠ .inService then .next s
  else if retry then .next (s.resendLink l expSeq.toNat)
  else match x.heldFrames with
  | [] => .next s
  | f :: _ => if s.now < x.ackAt + 1000 then .next s else .next (s.resendLink l f.1)

/-- SUBLINK_LOSS (R226). -/
def execSublinkLoss (l : LinkIx) (now : Nat) (s : State) : Host.Outcome State Fault Refusal :=
  let s := s.at_ now
  if !isFar l || decide (s.now < (s.link l).lastGood + 10000) then .next s else .next (s.loseLink l)

/-- CHANNEL_LOSS (R314). -/
def execChannelLoss (l : LinkIx) (now : Nat) (s : State) : Host.Outcome State Fault Refusal :=
  let s := s.at_ now
  if isFar l || decide (s.now < (s.link l).lastGood + 10000) then .next s else .next (s.loseLink l)

/-- FIBRE_FAILED (R314): 5 ms after the loss. -/
def execFibreFailed (f : FabFibreIx) (now : Nat) (s : State) : Host.Outcome State Fault Refusal :=
  let s := s.at_ now
  .next ((((List.range 3).map (fabLink f)).filter s.lostLong).foldl (fun s l => s.failChannel l) s).drainProgress

end Sys2Proof.Machine
end

