-- ==== Sys2Proof/Machine/Paths.lean ====
section
/-!
DEFINITION. The parts a path is made of and their spares (07, 19): laser banks and feed groups (R176 to R186), lane maps and positions
(R175), rings (R199), and what becomes of a path that fails (R165, R184).
-/
namespace Sys2Proof.Machine

/-! ### Banks and feed groups (R176, R177) -/

/-- The home bank of a feed group (quadrant x 16 + f). -/
def homeBank (feed : Nat) : Nat := feed / 16 * 20 + feed % 16

/-- The bank a feed group's selector takes. -/
def State.feedBank (s : State) (feed : Nat) : Nat := tget s.selectors (homeBank feed) feed

/-- The feed group that a bank serves. -/
def State.bankFeed (s : State) (b : Nat) : Option Nat := ((List.range 16).map (b / 20 * 16 + ·)).find? (fun f => s.feedBank f == b)

/-- The 26 ports of a feed group (R176). -/
def feedPorts (feed : Nat) : List Nat :=
  let q := feed / 16
  let f := feed % 16
  (List.range 4).flatMap (fun c => (List.range 4).map (fun i => (4 * q + c) * 64 + f + 16 * i))
    ++ (List.range 6).map (fun m => (16 + 6 * q + m) * 64 + f) ++ (List.range 4).map (fun i => (40 + q) * 64 + f + 16 * i)

/-- A serviceable spare bank of a quadrant, the lowest (R177). -/
def State.spareBank (s : State) (q : Nat) : Option Nat :=
  ((List.range 4).map (fun i => 20 * q + 16 + i)).find? (fun b =>
    !(s.bank b).faulted && !(s.bank b).removed && (s.bankFeed b).isNone)

/-- The group whose line window a bank stands at: a home bank that of its feed group, a spare bank the one it was set to (R176, R177). -/
def State.bankWindow (s : State) (b : Nat) : Option Nat := if b % 20 < 16 then some (b % 20 % 2) else (s.bank b).window

/-- Operating bias of a bank in thousandths: full while it serves a feed group, a tenth while it stands by as a spare, none out of use
(R177). -/
def State.bankBias (s : State) (b : Nat) : Nat :=
  if (s.bank b).faulted || (s.bank b).removed then 0 else if (s.bankFeed b).isSome then 1000 else 100

/-- A port is in scheduled service: a running batch's calendar names it (R190). -/
def State.scheduled (s : State) (p : Nat) : Bool := s.batches.any (fun b => b.2.started && (s.calPorts b.1).contains p)

/-- Whether a number of slots, of 72 cell cycles each, lasts 20 us. -/
def slotLong (s : State) (slots : Nat) : Bool := decide (20000 * pFreq s.pw.pstate ≤ slots * 72000)

/-- What is left of the calendar gap a turf's batch stands in, as slots; 0 outside a gap. -/
def State.gapLeft (s : State) (t : Nat) (b : BatchSt) : Nat :=
  let c := (s.cal t).active
  let i := (s.slot - b.startSlot) % max 1 c.period
  match c.gaps.find? (fun g => decide (g.1 ≤ i) && decide (i < g.1 + g.2)) with
  | none => 0
  | some g => g.1 + g.2 - i

/-! ### Lanes (R175) -/

/-- A spare idle position. -/
def PortSt.spareIdle (x : PortSt) : Option Nat := (List.range 18).find? (fun i => x.lane i == 16)

/-- Set LANE of a position. -/
def PortSt.setLane (x : PortSt) (pos v : Nat) : PortSt := { x with lanes := tset x.lanes pos v }

/-- The sublink or channel whose lanes an edge port carries (R146). -/
def edgeLink (p : Nat) : Option Nat :=
  let c := p % 64 / 2
  if p / 64 < 40 then none
  else if c < 24 then some (fabLink (24 * (p / 64 - 40) + c) (p % 2))
  else some ((2 * (p / 64 - 40) + (c - 24) / 4) * 8 + c % 4 * 2 + p % 2)

/-- A port's lane map has changed: inside the package both ends have it at once, an edge port announces it to its peer (R175, R225). -/
def State.announceMap (s : State) (p : Nat) : State :=
  match edgeLink p with
  | none => s
  | some l => s.changeMap l (s.port p).mapBytes

/-- Whether both ends of a port's connections send by its lane map already. -/
def State.mapInForce (s : State) (p : Nat) : Bool :=
  match edgeLink p with
  | none => true
  | some l => (s.link l).mapOut.isNone && (s.link l).txMapAt.isNone

/-! ### Bank faults (R178 to R186) -/

/-- A sweep of a port, under way or prepared, stops; its stand-in is spare idle again (R185). -/
def State.stopSweep (s : State) (p : Nat) : State :=
  let x := s.port p
  match x.sweeping, x.standIn with
  | some (_, some i, _), _ | none, some (_, i) =>
    (s.modPort p (fun x => { x.setLane i 16 with sweeping := none, standIn := none })).announceMap p
  | some (_, none, _), _ => s.modPort p (fun x => { x with sweeping := none, standIn := none })
  | none, none => s

/-- A feed group goes over to a bank of its quadrant, a spare one set to the group's line window (R177, R179). -/
def State.takeBank (s : State) (feed bank : Nat) : State :=
  ({ s with selectors := tset s.selectors feed bank } : State).modBank bank (fun x => { x with
    driftPermille := 0, lowSamples := 0, wornAt := none, window := if bank % 20 < 16 then x.window else some (feed % 2) })

/-- A feed group is under swap from now on: the sweeps of its ports stop (R180, R185). -/
def State.underSwap (s : State) (feed : Nat) : State :=
  let s := (feedPorts feed).foldl (fun s p => s.stopSweep p) s
  { s with holds := { s.holds with swapping := setIns s.holds.swapping feed } }

/-- A swap that takes a light hold: it is announced for 2 us later, unless the swap shares one that is announced or in force (R179,
R182, R185). -/
def State.startSwap (s : State) (feed faulted : Nat) : State :=
  let s := s.underSwap feed
  let s := { s with holds := { s.holds with lightEnd := none } }
  if s.holds.lightOn || s.holds.lightAt.isSome then s
  else
    let c := s.now + 2000
    ({ s with holds := { s.holds with lightAt := some c, lightBank := faulted } } : State).announceAll 5 (6 + 2 ^ 8 + faulted * 2 ^ 16)
      (BitVec.ofNat 64 c)

/-- The 26 ports of a feed group go dark (R183, R184). -/
def State.darken (s : State) (feed : Nat) : State :=
  let ps := feedPorts feed
  let s := ps.foldl (fun s p => (s.stopSweep p).modPort p (fun x => { x with dark := true })) s
  let s := ps.foldl (fun s p => s.stopUsers (fun q => q == p) (BitVec.ofNat 64 p)) s
  (s.releasePending (fun q => ps.contains q)).drainProgress

/-- Heartwood declares a fault of a bank that serves a feed group (R179, R183, R484). -/
def State.bankFault (s : State) (b feed : Nat) : State :=
  let s := s.modBank b (fun x => { x with faulted := true })
  match s.spareBank (b / 20) with
  | some n => (((s.takeSpare 0x06 (b / 20) b 2).takeBank feed n).faultActed 0x06 2 1 b 0 0).startSwap feed b
  | none => (s.faultActed 0x06 2 2 b 0 0).darken feed

/-- A fault of a bank that serves no feed group: no selector is switched to it any more (R177, R178, R479). -/
def State.idleBankFault (s : State) (b : Nat) : State :=
  let k := poolKey 0x06 (b / 20)
  let s := s.modBank b (fun x => { x with faulted := true })
  ({ s with firm := { s.firm with sparesFailed := tset s.firm.sparesFailed k (tget s.firm.sparesFailed 0 k + 1) } } : State).faultActed
    0x06 2 0 b 0 0

/-! ### Rings and positions (R175, R199, R484) -/

/-- DETAIL of a ring (Table 15.13): position and the candidate in use. -/
def State.ringDetail (s : State) (p pos : Nat) : Word :=
  let cand := if tfind (s.port p).fieldRing (pos / 8) = some pos then Config.fieldRing p (pos / 8) else Config.trimRing p pos
  BitVec.ofNat 32 (pos + cand.toNat * 2 ^ 5)

/-- What a substitution places: as a fault acted on, or by wear (R482, R485). -/
def State.replaced (s : State) (kind origin action unit : Nat) (detail : Word) (cls : Nat) : State :=
  if origin = 3 then (s.addDefect kind 3 unit detail action).notice0 4 0x1102 [faultWord kind action unit detail 0]
  else s.faultActed kind origin action unit detail cls

/-- A path is out of service with no spare left to restore it (R184): its port is failed, the batches that use it stop with NO_RESOURCE and
their billets on it are given up. -/
def State.portFails (s : State) (p : Nat) : State :=
  if (s.port p).failed then s
  else
    let s := s.modPort p (fun x => { x with failed := true })
    ((s.stopUsers (fun q => q == p) (BitVec.ofNat 64 p)).releasePending (fun q => q == p)).drainProgress

/-- A position with no ring left is retired for good: its lane moves to a spare idle position (R175, R199); with none idle the port
lacks a lane and has failed (R184). -/
def State.retirePosition (s : State) (p pos origin : Nat) : State :=
  let x := s.port p
  let d : Word := BitVec.ofNat 32 pos
  let out := fun (s : State) => s.modPort p (fun x => { x.setLane pos 31 with toSweep := x.toSweep.filter (fun w => w.1 != pos) })
  if 16 ≤ x.lane pos then
    let k := poolKey 0x08 p
    (({ (out s) with firm := { s.firm with sparesFailed := tset s.firm.sparesFailed k (tget s.firm.sparesFailed 0 k + 1) } } : State).replaced
      0x08 origin 0 p d 0).announceMap p
  else match x.spareIdle with
  | some i => (((out (s.modPort p (fun x => x.setLane i (x.lane pos)))).takeSpare 0x08 p p origin).replaced 0x08 origin 1 p d 0).announceMap p
  | none => (((out s).replaced 0x08 origin 2 p d 0).announceMap p).portFails p

/-- A selected ring fails or wears out (R199, Table 19.4): its group's in-field spare ring is switched in and waits for its sweep. On a port
in scheduled service the position is retired until then, and a lane it carries runs on a spare idle position meanwhile. -/
def State.ringFails (s : State) (p pos origin : Nat) : State :=
  let x := s.port p
  let g := pos / 8
  if x.lane pos = 31 then s
  else if (tfind x.fieldRing g).isSome || decide (s.sparesLeft 0x07 (3 * p + g) = 0) then s.retirePosition p pos origin
  else
    let d := s.ringDetail p pos
    let s := (s.modPort p (fun x => { x with fieldRing := tset x.fieldRing g pos })).takeSpare 0x07 (3 * p + g) p origin
    let s := s.replaced 0x07 origin 1 p d 0
    let wait := fun (x : PortSt) (i : Option Nat) => { x with toSweep := x.toSweep ++ [(pos, i)] }
    if !s.scheduled p then s.modPort p (fun x => wait x none)
    else if 16 ≤ x.lane pos then (s.modPort p (fun x => wait (x.setLane pos 31) none)).announceMap p
    else match x.spareIdle with
    | none => s.modPort p (fun x => wait x none)
    | some i => (s.modPort p (fun x => wait ((x.setLane i (x.lane pos)).setLane pos 31) (some i))).announceMap p

/-! ### A path that fails (R165, R184) -/

/-- The number of a transmit port among the 1,664. -/
def txNumber (p : Nat) : Nat :=
  if p < 1024 then p else if p < 2560 then 1024 + (p / 64 - 16) * 16 + p % 64 else 1408 + (p - 2560)

/-- The waveguide pools of a path: the bus waveguide of its transmit port, then the bridge directions it crosses (Table 19.1). -/
def pathPools (p q : Nat) : List Nat := txNumber p / 8 :: (bridgesOf p q).map (208 + ·)

/-- A path counts as failed (R165): the channel concerned goes out of service and a spare is brought in, of the first kind that has one left:
a waveguide, a position, a ring, a bank. Which part of the path is at fault R165 leaves to Heartwood (log entry 54); which position, is a
free value. With none left the port has failed (R184, R478). -/
def State.pathFails (s : State) (p q : Nat) : State :=
  if (s.port p).failed then s
  else match (pathPools p q).find? (fun w => decide (0 < s.sparesLeft 0x09 w)) with
  | some w => (s.takeSpare 0x09 w p 2).faultActed 0x09 2 1 p 0 0
  | none =>
    let d := s.draw
    let s := d.2
    let x := s.port p
    let carriers := (List.range 18).filter (fun i => decide (x.lane i < 16))
    let pos := carriers.getD (d.1.toNat % max 1 carriers.length) 0
    if x.spareIdle.isSome then s.retirePosition p pos 2
    else if (tfind x.fieldRing (pos / 8)).isNone && decide (0 < s.sparesLeft 0x07 (3 * p + pos / 8)) then s.ringFails p pos 2
    else if (s.spareBank (oepQuad (p / 64))).isSome then s.bankFault (s.feedBank (feedOf p)) (feedOf p)
    else (s.faultActed 0x09 2 2 p 0 0).portFails p

end Sys2Proof.Machine
end

