-- ==== Sys2Proof/Machine/Base.lean ====
section
/-!
DEFINITION. The photonic base (06): frames and their headers, billets, their repair and the repair hold (R148, R149, R157 to
R165), and what becomes of a path that fails. schedCycles stands in the slot whose frames were launched last.
-/
namespace Sys2Proof.Machine

/-! ### Frame headers (Table 6.5) -/

/-- A field of a frame header. -/
abbrev hdrField (h : BitVec 512) (off n : Nat) : Nat := fld h off n

/-- Set HDR_CRC over bytes 0 to 59. -/
def sealHdr (b : Bytes) : BitVec 512 := BitVec.ofNat 512 (leNat (padTo 60 b ++ natLe 4 (crc32c (padTo 60 b))))

/-- Whether HDR_CRC holds. -/
def hdrCrcOk (h : BitVec 512) : Bool := fld h 60 4 == crc32c (natLe 60 (h.toNat % 2 ^ 480))

/-- A frame header: carriage, kind, transmit and receive port, turf, the fields of a billet, those of a Dynamic frame, payload. -/
def mkFrame (field : BitVec 128) (kind src dst turf epoch slot loc arrive flags : Nat) (units : List Nat) (consume : Nat) (payload : Bytes) :
    BitVec 512 :=
  sealHdr (natLe 16 field.toNat ++ natLe 1 kind ++ natLe 1 (src / 64) ++ natLe 1 (src % 64) ++ natLe 1 (dst / 64) ++ natLe 1 (dst % 64)
    ++ natLe 1 turf ++ natLe 2 epoch ++ natLe 4 slot ++ natLe 4 loc ++ natLe 2 arrive ++ natLe 1 flags ++ natLe 1 units.length
    ++ padTo 8 (units.flatMap (natLe 1)) ++ natLe 2 consume ++ natLe 10 0 ++ natLe 4 (crc32c payload))

/-- A kept header with another carriage field and kind. -/
def rehead (h : BitVec 512) (field : BitVec 128) (kind : Nat) : BitVec 512 :=
  sealHdr (natLe 16 field.toNat ++ natLe 1 kind ++ (natLe 60 (h.toNat % 2 ^ 480)).drop 17)

/-- The low 16 bits of the active calendar's epoch (CAL_EPOCH, Table 18.2). -/
def State.calEpoch (s : State) : Nat := (s.cset 8).generation % 65536

/-- Count at a transmit port (SET 1), of frames that are no idle frame. -/
def State.countTx (s : State) (p index : Nat) : State := (s.bump 1 p index 1).bump 1 p 4 1

/-- The front of a port's Protected queue, which the frame it launches carries (R149, R170). -/
def State.takeField (s : State) (p : Nat) : BitVec 128 × State :=
  match (s.port p).protectedQ with
  | [] => (0, s)
  | f :: _ => (f, (s.modPort p (fun x => { x with protectedQ := x.protectedQ.drop 1 })).bump 1 p 5 1)

/-! ### Where a billet comes from and goes to (R156 to R159, R229, R305) -/

/-- Lay a write of bytes and marks at a key over a window of bytes and marks at another. -/
def overlay (key : Nat) (acc : Bytes × List Nat) (wkey : Nat) (w : Bytes × List Nat) : Bytes × List Nat :=
  let e := key + acc.1.length
  let f := wkey + w.1.length
  let lo := max key wkey
  let hi := min e f
  if hi ≤ lo then acc
  else
    (acc.1.take (lo - key) ++ slice w.1 (lo - wkey) (hi - lo) ++ acc.1.drop (hi - key),
     (w.2.filter (fun a => decide (key < a + 64) && decide (a < e))).foldl setIns
       (acc.2.filter (fun a => !(decide (wkey < a + 64) && decide (a < f)))))

/-- Whether the billet of slot m that a site sends has a write of the site in it: of the billet writes those of slot m - 5 or earlier
(R159), of others those that fell no later than slot m - 2, in which the site reads (R157). -/
def SiteWrite.seenIn (w : SiteWrite) (m : Nat) : Bool := decide (w.slot + (if w.billet then 5 else 2) ≤ m)

/-- What a window of a site shows to the billet of slot m: the site's recent writes are undone, newest first, and those that the
billet sees are made again. -/
def siteView (site m off : Nat) (recent : List SiteWrite) (cur : Bytes × List Nat) : Bytes × List Nat :=
  let key := siteKey site off
  let base := recent.foldr (fun w acc => overlay key acc (siteKey site w.off) w.was) cur
  (recent.filter (fun w => w.seenIn m)).foldl (fun acc w => overlay key acc (siteKey site w.off) w.now) base

/-- A staging row as it stood at a schedule cycle: the writes after it are undone, newest first (R157). -/
def CdSt.rowAt (d : CdSt) (key cycle : Nat) : Bytes × List Nat :=
  d.rowWrites.foldr (fun w acc => if w.1 = key ∧ cycle < w.2.1 then w.2.2 else acc) (tget d.staging (List.replicate 512 0, []) key)

/-- The payload of a billet and its poisoned half-granules; none when its source has no data for it (R231, R307). -/
def State.billetData (s : State) (p : Nat) (e : BitVec 256) (period m : Nat) : Option (Bytes × List Nat) :=
  let o := p / 64
  let loc := (locAt e true period).toNat
  if o < 16 then
    let rows := (List.range 16).map (fun (i : Nat) =>
      (s.cd o).rowAt (p % 64 * 128 + ((locAt e true period + i) % 64).toNat) (72 * m - 16))
    some (rows.flatMap (fun r => r.1), rows.zipIdx.flatMap (fun r => (r.1.2.map (fun w => r.2 * 8 + w / 8)).eraseDups))
  else if o < 40 then
    let key := siteKey (o - 16) (loc * 8192)
    let v := siteView (o - 16) m (loc * 8192) (s.site (o - 16)).recent (memRead s.mem key 8192, s.marksIn key 8192)
    some (v.1, (List.range 128).filter (fun i => v.2.contains (key + 64 * i) || decide (2 ≤ tget s.flaws 0 (key + 64 * i))))
  else match portFmu p with
  | some u =>
    match (s.fmu u).billets.find? (fun b => b.port == p && b.slot == m && !b.isWrite && b.done && b.good) with
    | none => none
    | some b => some ((List.range 32).flatMap (fun i => padTo 256 (tget b.data [] i)), b.poison.flatMap (fun g => (List.range 4).map (4 * g + ·)))
  | none =>
    match tget s.fab.inbound none ((o - 40) * 256 + loc) with
    | none => none
    | some d => some (d, [])

/-- What a billet's source does when its port has taken the data: a site counts the read and what its check symbols found (R207), the
far engine gives up the read, an edge port its inbound buffer. -/
def State.sourceUsed (s : State) (p : Nat) (e : BitVec 256) (period m : Nat) (poison : List Nat) : State :=
  if p / 64 < 16 then s
  else if p / 64 < 40 then
    let site := p / 64 - 16
    let s := ((s.touch site).eccRead site ((locAt e true period).toNat * 8192) 8192).bump 3 site 2 1
    (s.bump 3 site 0 32).bump 3 site 6 (b2n (!poison.isEmpty))
  else match portFmu p with
  | some u => s.modFmu u (fun x => { x with billets := x.billets.filter (fun b => !(b.port == p && b.slot == m && !b.isWrite)) })
  | none => { s with fab := { s.fab with inbound := tdel s.fab.inbound ((p / 64 - 40) * 256 + (locAt e true period).toNat) } }

/-- The frame header of a billet. -/
def State.billetHdr (s : State) (t p : Nat) (e : BitVec 256) (period m : Nat) (payload : Bytes) (field : BitVec 128) (kind : Nat) :
    BitVec 512 :=
  mkFrame field kind p (ceDst e) t s.calEpoch (m % 2 ^ 32) (wrap 32 (locAt e false period)) (ceArrive e) (ceFlags e) [] (ceConsume e) payload

/-- Send the billet of a calendar entry in slot m, and expect it at its receive port; with no data for it the port sends an idle
frame (R231, R307). -/
def State.sendBillet (s : State) (m : Nat) (x : Nat × Nat × BitVec 256 × Nat) : State :=
  let t := x.1
  let p := x.2.1
  let e := x.2.2.1
  let want : PendingBillet := { slot := m, consume := ceConsume e, src := p, turf := t, frame := s.obs.launches }
  let expect := fun (s : State) (late : Bool) => s.modPort (ceDst e) (fun y => { y with pending := y.pending ++ [{ want with late := late }] })
  if s.unlit p || (s.port p).failed then expect s false
  else match s.billetData p e x.2.2.2 m with
  | none => expect s true
  | some (d, po) =>
    let r := s.takeField p
    let h := r.2.billetHdr t p e x.2.2.2 m d r.1 1
    let s := (r.2.sourceUsed p e x.2.2.2 m po).modPort p (fun y => { y with
      held := y.held ++ [{ port := ceDst e, slot := m, hdr := h, payload := d, poison := po }] })
    (expect s false).countTx p 0 |>.emit (.frame p h d)

/-! ### Dynamic frames (R166 to R168) -/

/-- The connections that a slot owns by an active calendar, transmit and receive port: with a running batch those of the slot index,
otherwise those of the slot's column (log entry 28). -/
def State.ownedPairs (s : State) (m : Nat) : List (Nat × Nat) :=
  s.cals.flatMap (fun c =>
    let cal := c.2.active
    let idx := match s.batch c.1 with
      | some b => if b.started && decide (b.startSlot ≤ m) then some ((m - b.startSlot) % max 1 cal.period) else none
      | none => none
    (cal.entries.filter (fun e => match idx with | some i => ceSlot e.2 == i | none => ceSlot e.2 % 32 == m % 32)).map
      (fun e => (e.1, ceDst e.2)))

/-- PKT_UNITS of a packet (R168). -/
def pktUnits (p : Packet) : Nat := if p.op = 0x02 ∨ p.op = 0x81 then ceilDiv p.len 256 else 0

/-- The header area and the payload area of a packet. -/
def headArea (p : Packet) : Bytes := padTo 64 (natLe 48 p.hdr.toNat ++ (match p.ext with | some e => natLe 16 e.toNat | none => []))
/-- The payload area of a packet. -/
def payArea (p : Packet) : Bytes := padTo (256 * pktUnits p) p.data

/-- The bytes after the header of a Dynamic frame. -/
def dynBody (ps : List Packet) : Bytes := ps.flatMap headArea ++ ps.flatMap payArea

/-- Send the Dynamic frame of a grant. -/
def State.sendDyn (s : State) (p : Nat) (g : DynGrant) : State :=
  let ks := (s.port p).dynQ.filter (fun k => g.ids.contains k.id)
  let s := s.modPort p (fun x => { x with grants := x.grants.erase g })
  if ks.isEmpty then s
  else
    let body := dynBody (ks.map (fun k => k.pkt))
    let r := s.takeField p
    let h := mkFrame r.1 3 p g.rx g.turf 0 0 0 0 0 (ks.map (fun k => pktUnits k.pkt)) 0 body
    let n := r.2.nextSeq
    let s := { r.2 with nextSeq := n + 1 }
    let s := s.modPort p (fun x => { x with
      dynQ := x.dynQ.filter (fun k => !g.ids.contains k.id)
      awaiting := x.awaiting ++ ks.map (fun k => { k with frame := some n, sentAt := s.now, sends := k.sends + 1 }) })
    ((s.countTx p 2).bump 1 p 3 ks.length).emit (.frame p h body)

/-- A port gives up grants that it does not use: their packets are requested again (R166). -/
def State.releaseGrants (s : State) (p : Nat) (gs : List DynGrant) : State :=
  let ids := gs.flatMap (fun g => g.ids)
  s.modPort p (fun x => { x with
    grants := x.grants.filter (fun g => !gs.contains g)
    dynQ := x.dynQ.map (fun k => if ids.contains k.id then { k with requested := false } else k) })

/-- The grants of a port for the frame that launches next; of two the older request's comes first (R166). -/
def State.grantsNow (s : State) (p : Nat) : List DynGrant :=
  ((s.port p).grants.filter (fun g => decide (g.frame ≤ s.obs.launches))).mergeSort (fun a b => decide (a.stamp ≤ b.stamp))

/-- Send the Dynamic frames of one frame time: a port uses the oldest of its grants for it, when neither port of the connection is
taken and its bridge channels are free, and releases the others (R147, R150, R166). -/
def State.sendGrants (s : State) (tx rx used : List Nat) : State :=
  let ps := (s.ports.filter (fun x => !(s.grantsNow x.1).isEmpty)).map (fun x => x.1)
  (ps.foldl (fun (acc : State × List Nat × List Nat) p =>
    match acc.1.grantsNow p with
    | [] => acc
    | g :: gs =>
      if tx.contains p || acc.2.1.contains g.rx || acc.1.portOut p || acc.1.portOut g.rx
          || !(bridgesOf p g.rx).all (fun b => decide (acc.2.2.count b < 256))
      then (acc.1.releaseGrants p (g :: gs), acc.2)
      else ((acc.1.sendDyn p g).releaseGrants p gs, g.rx :: acc.2.1, bridgesOf p g.rx ++ acc.2.2)) (s, rx, used)).1

/-- Every transmit port of the module, by identifier (R145). -/
def allPorts : List Nat := (List.range 44).flatMap (fun o => (List.range (oepPorts o)).map (fun i => o * 64 + i))

/-- The header of an idle frame, which goes to the port's monitor tap: the fields it does not use are 0 (R152). -/
def idleHdr (p : Nat) (field : BitVec 128) : BitVec 512 := mkFrame field 0 p 0 0 0 0 0 0 0 [] 0 []

/-- Every port in service that launches no other frame launches an idle one with its Protected packet (R148, R149, R152); the waiting
requests are counted, and stalled sources take the places that have freed (R18). -/
def State.sendIdle (s : State) (busy : List Nat) : State :=
  let ps := allPorts.filter (fun p => !busy.contains p && !s.unlit p && !(s.port p).failed)
  let full := ps.filter (fun p => !(s.port p).protectedQ.isEmpty)
  let s := full.foldl (fun s p => let r := s.takeField p; r.2.emit (.frame p (idleHdr p r.1) [])) s
  let s := { s with out := s.out ++ (ps.filter (fun p => !full.contains p)).map (fun p => Out.frame p (idleHdr p 0) []) }
  let ws := (s.ports.filter (fun x => x.2.grants.isEmpty && x.2.dynQ.any (fun k => k.requested))).map (fun x => x.1)
  let s := ws.foldl (fun s p => s.bump 1 p 6 1) s
  ({ s with obs := { s.obs with launches := s.obs.launches + 1 } } : State).pumpProtected

/-- The ports that emitted a frame since a mark in the log. -/
def emittedSince (n : Nat) (l : List Out) : List Nat := (l.drop n).filterMap (fun o => match o with | .frame p _ _ => some p | _ => none)

/-! ### Failures and repairs (R162 to R165) -/

/-- Change the pending billet of a receive port and slot. -/
def State.modPending (s : State) (p slot : Nat) (f : PendingBillet → PendingBillet) : State :=
  s.modPort p (fun x => { x with pending := x.pending.map (fun b => if b.slot = slot then f b else b) })

/-- The billet that a frame at a receive port brings when its header cannot be read: the oldest on its way. -/
def PortSt.onItsWay (x : PortSt) : Option PendingBillet := x.pending.find? (fun b => !b.noticed)

/-- Failures that R181, R231 and R307 keep from counting: the billet was late, or a port of it is under swap. -/
def State.excused (s : State) (p : Nat) (b : PendingBillet) : Bool :=
  b.late || s.holds.swapping.contains (feedOf p) || s.holds.swapping.contains (feedOf b.src)

/-- A billet fails at its receive port: counted, its repair requested, and at the fourth failure that counts its path fails (R162,
R165). -/
def State.billetFails (s : State) (p : Nat) (b : PendingBillet) (index : Nat) : State :=
  let s := (s.bump 2 p index 1).emit (.repairRequest (p / 64) (p % 64) b.slot)
  if s.excused p b then s.modPending p b.slot (fun x => { x with noticed := true })
  else
    let n := b.failures + 1
    let s := s.modPending p b.slot (fun x => { x with noticed := true, failures := if n = 4 then 1 else n })
    if n = 4 then s.pathFails b.src p else s

/-- The billets of a receive port that no header has brought by the frame after the one of their sending: a slot without a valid header
is a header failure (R181). -/
def State.silent (s : State) (x : PortSt) : List PendingBillet :=
  x.pending.filter (fun b => !b.noticed && decide (b.frame + 2 ≤ s.obs.launches))

/-- The receive ports notice the slots that passed without a valid header (R181). -/
def State.noticeSilent (s : State) : State :=
  (s.ports.flatMap (fun x => (s.silent x.2).map (fun b => (x.1, b)))).foldl (fun s y => s.billetFails y.1 y.2 1) s

/-- The billet a receive port grants a repair: the oldest pending on it, at least 4 slots after its sending or under a repair hold
(R163, R164). -/
def State.repairAt (s : State) (p : Nat) : Option PendingBillet :=
  (s.port p).pending.find? (fun b => b.noticed && (s.holds.repair.isSome || decide (b.slot + 4 ≤ s.slot)))

/-- The repairs granted to a transmit port: receive port and billet. -/
def State.repairsOf (s : State) (p : Nat) : List (Nat × PendingBillet) :=
  s.ports.filterMap (fun x => match s.repairAt x.1 with | some b => if b.src = p then some (x.1, b) else none | none => none)

/-- The older of the repairs granted to a port. -/
def oldestRepair (l : List (Nat × PendingBillet)) : Option (Nat × PendingBillet) :=
  l.foldl (fun r x => match r with | none => some x | some y => if x.2.slot < y.2.slot then some x else r) none

/-- The frame a port repairs a billet from: the one it keeps, or for a late billet the data that has come since (R231, R307). -/
def State.keptBillet (s : State) (p q : Nat) (b : PendingBillet) : Option BilletSt :=
  match (s.port p).held.find? (fun y => y.port == q && y.slot == b.slot) with
  | some y => some y
  | none =>
    match (s.entriesAt b.slot).find? (fun e => e.2.1 == p) with
    | none => none
    | some (t, _, e, k) =>
      match s.billetData p e k b.slot with
      | none => none
      | some (d, po) => some { port := q, slot := b.slot, hdr := s.billetHdr t p e k b.slot d 0 2, payload := d, poison := po }

/-- The repairs that one frame carries (R163): each receive port grants its oldest billet, a transmit port sends the oldest of those
granted to it, and no bridge takes more than 256 connections in a direction (R147, R150). A port that takes no traffic, or has nothing
to repair from, sends none. -/
def State.planRepairs (s : State) : List RepairPlan :=
  let ps := (s.ports.filterMap (fun x => (s.repairAt x.1).map (fun b => b.src))).eraseDups
  (ps.foldl (fun (acc : List RepairPlan × List Nat) p =>
    match oldestRepair (s.repairsOf p) with
    | none => acc
    | some (q, b) =>
      if s.portOut p || s.portOut q || (s.keptBillet p q b).isNone
          || !(bridgesOf p q).all (fun x => decide (acc.2.count x < 256)) then acc
      else (acc.1 ++ [{ tx := p, rx := q, slot := b.slot }], bridgesOf p q ++ acc.2)) ([], [])).1

/-- The frame that launches now carries repairs: those are set aside for REPAIR_SEND, and keep other frames off their ports and bridge
channels (R147, R149, R150, R163). -/
def State.setRepairs (s : State) (on : Bool) : State :=
  { s with holds := { s.holds with repairs := if on then s.planRepairs else [] } }

/-! ### FRAME_LAUNCH, INTERSTITIAL_FRAME (R148, R149) -/

/-- A billet's use would come before it is in place, or a check has found one pending: the schedule may not advance to slot m (R164). -/
def State.mustHold (s : State) (m : Nat) : Bool :=
  s.holds.repairDue.any (fun d => decide (d.2.2 ≤ m)) || s.ports.any (fun p => p.2.pending.any (fun b => decide (b.slot + b.consume ≤ m)))

/-- The repair hold begins at the first cycle of slot m: it waits for the billets pending whose use has come (R164). -/
def State.startRepairHold (s : State) (m : Nat) : State :=
  let due := s.ports.flatMap (fun x => (x.2.pending.filter (fun b => decide (b.slot + b.consume ≤ m))).map (fun b => (x.1, b.slot)))
  let s := { s with holds := { s.holds with repair := some due, repairDue := s.holds.repairDue.filter (fun d => decide (m < d.2.2)) } }
  { s with batches := tmap s.batches (fun _ b => { b with sawRepair := b.sawRepair || b.started }) }

/-- The turfs for which a counting gap of their calendar ends in a slot (R160, R193, R194). -/
def State.gapEnds (s : State) (m : Nat) : List Nat :=
  (s.batches.filter (fun b =>
    let c := (s.cal b.1).active
    b.2.started && decide (b.2.startSlot < m) && decide (0 < c.period)
      && c.gaps.any (fun g => (g.1 + g.2) % c.period == (m - b.2.startSlot) % c.period && slotLong s g.2))).map (fun b => b.1)

/-- A counting gap of a turf ends, with those of other turfs: it has covered the ports that no running calendar used meanwhile. Their
starvation timers restart, and the downgrade is no longer in force when it has covered them all (R194, R195). -/
def State.gapCovers (s : State) (t : Nat) (also : List Nat) : State :=
  let idle := fun (p : Nat) => s.batches.all (fun b =>
    b.1 == t || also.contains b.1 || !b.2.started || !(s.calPorts b.1).contains p || decide (0 < s.gapLeft b.1 b.2))
  let ps := s.calPorts t
  ({ s with tuneAccepted := if ps.all idle then setDel s.tuneAccepted t else s.tuneAccepted } : State).startTimers (ps.filter idle) true s.now

/-- A sweep that a port in scheduled service has not finished when Scheduled traffic comes stops, and its position is swept in the next gap
(R190, R193). -/
def State.endSweeps (s : State) : State :=
  let late := s.ports.filter (fun x => (x.2.sweeping.isSome || x.2.standIn.isSome)
    && s.batches.any (fun b => b.2.started && decide (b.2.startSlot ≤ s.slot) && (s.calPorts b.1).contains x.1 && s.gapLeft b.1 b.2 == 0))
  late.foldl (fun s x => (s.stopSweep x.1).modPort x.1 (fun y => { y with
    nextSweep := match x.2.sweeping with | some (pos, _, _) => if y.toSweep.isEmpty then pos else y.nextSweep | none => y.nextSweep })) s

/-! ### The cycle counts (R91, R124, R416) and the cycle events of Table 20.3 (R493) -/

/-- The cell cycles that 72 schedule cycles take from module cycle count n at throttle ratio h (R124). -/
def slotLength (n h : Nat) : Nat :=
  if h = 0 then 72 else ((List.range 300).find? (fun k => k - ((n + k) * h / 256 - n * h / 256) == 72)).getD 72

/-- The events that the wait of a running cell's Collier counts (Table 20.3): WAIT, a unit, a hazard or FENCE, a take. -/
def CellSt.stalls (x : CellSt) : List Nat :=
  if x.waitGated then (if x.inflight.all (fun i => i.unit == .ctl) then [0x07] else [])
  else if !x.issuing then []
  else match x.steps[x.ptr]? with
  | none => []
  | some w => match stepOp w with
    | none => []
    | some op => (if x.unitFree (stepUnit op) then [] else [0x09]) ++ (if x.hazardFree w then [] else [0x08])
        ++ (if x.reached op w && !x.canTake (stepTake w).1 (stepTake w).2 then [0x06] else [])

/-- The MATMUL that the ramp withholds, with the number of the slot's cycles from schedule cycle n in which it does (R122). -/
def CellSt.rampIdle (x : CellSt) (n : Nat) : Option (InFlight × Nat) :=
  match x.inflight.find? (fun i => i.unit == .mac) with
  | none => none
  | some i => if x.running && x.macBusy && decide (x.ramp < 16)
      then some (i, ((List.range 72).filter (fun k => decide (x.ramp ≤ (n + k) % 16))).length) else none

/-- The events an access engine's wait counts, with the tag of the entry that waits (Table 20.3): a take, the limit of 16, a window. -/
def State.aeStalls (s : State) (c : Nat) (x : CellSt) (e : Nat) : List (Nat × Half × Half) :=
  let a := x.ae e
  let take := match a.entry with
    | some w => if x.aeGoing e && !x.canTake (aeTake w).1 (aeTake w).2 then [(0x12, aeLayer w, aeOperator w)] else []
    | none => []
  let full := match a.reps.find? (fun r => !r.queued.isEmpty) with
    | some r => if 16 ≤ a.ops.length then [(0x13, r.layer, r.operator)] else []
    | none => []
  let window := match s.ops.find? (fun o => o.waitingWindow && o.unit == cellParty (1 + e) c) with
    | some o => match a.ops.find? (fun p => p.tag == o.tag) with
      | some p => match a.reps.find? (fun r => r.id == p.rep) with
        | some r => [(0x14, r.layer, r.operator)]
        | none => []
      | none => []
    | none => []
  take ++ full ++ window

/-- A running cell counts the cycles of a stretch: `sched` schedule cycles from count n, `hold` hold cycles. How often a request lost one of
the eight bank ports to another of the seven requesters (R35) is a free value (log entry 140). -/
def State.cellCycles (s : State) (n sched hold c : Nat) (x : CellSt) : CellSt :=
  if !x.running then x
  else
    let y := cellCount (cellCount x 0x01 sched 0 0) 0x02 hold 0 0
    let y := if sched = 0 then y
      else
        let y := x.stalls.foldl (fun y k => cellCount y k sched x.layer x.operator) y
        let y := cellCount y 0x0A ((Config.freeValue (s.drawn + c)).toNat % (48 * sched + 1)) 0 0
        match x.rampIdle n with
        | some r => cellCount y 0x05 r.2 r.1.layer r.1.operator
        | none => y
    (s.aeStalls c x 0 ++ s.aeStalls c x 1).foldl (fun y k => cellCount y k.1 (sched + hold) k.2.1 k.2.2) y

/-- The cycles of a stretch pass: both counts of R416 and the cycle events of every running cell, by the state in which the stretch begins
(log entry 140). -/
def State.passCycles (s : State) (sched hold : Nat) : State :=
  let n := s.pw.schedCycles + sched
  { s with
    cells := tmap s.cells (fun c x => s.cellCycles n sched hold c x)
    drawn := s.drawn + 4096
    pw := { s.pw with schedCycles := n, modCycles := s.pw.modCycles + sched + hold } }

/-- Slot m begins, and every port launches its frame: the billet of an entry, a repair, a granted Dynamic frame, or an idle frame
(R148, R163). -/
def State.launchSlot (s : State) (m : Nat) : State :=
  let n := s.out.length
  let s := s.passCycles 72 (slotLength s.pw.modCycles s.pw.h - 72)
  let ends := s.gapEnds m
  let s := (ends.foldl (fun s t => s.gapCovers t ends) s).endSweeps
  let s := { s with
    ports := tmap s.ports (fun _ x => { x with held := x.held.filter (fun b => decide (m ≤ b.slot + 64)) })
    sites := tmap s.sites (fun _ x => { x with recent := x.recent.filter (fun r => decide (m < r.slot + 5)) })
    cds := tmap s.cds (fun _ x => { x with rowWrites := x.rowWrites.filter (fun w => decide (72 * m < w.2.1 + 16)) }) }
  let s := s.noticeSilent.setRepairs (m % 32 == 31 && !s.holds.lightOn)
  let es := s.entriesAt m
  let s := es.foldl (fun s e => s.sendBillet m e) s
  let own := s.ownedPairs m
  let rs := s.holds.repairs
  let s := s.sendGrants (rs.map (fun r => r.tx) ++ own.map (fun x => x.1)) (rs.map (fun r => r.rx) ++ own.map (fun x => x.2))
    (rs.flatMap (fun r => bridgesOf r.tx r.rx) ++ es.flatMap (fun e => bridgesOf e.2.1 (ceDst e.2.2.1)))
  s.sendIdle (rs.map (fun r => r.tx) ++ emittedSince n s.out)

/-- FRAME_LAUNCH (R148): the next slot begins. In a hold the schedule stands (R126); where a billet of use in that slot is not in place,
the repair hold begins instead (R164). -/
def execFrameLaunch (s : State) : Host.Outcome State Fault Refusal :=
  if !s.bu.photonicsOn || s.held then .next s
  else if s.mustHold (s.slot + 1) then .next (s.startRepairHold (s.slot + 1))
  else .next (s.launchSlot (s.slot + 1))

/-- The interstitial frames of one frame time (R149): under a repair hold they carry repairs (R164). -/
def State.launchBetween (s : State) : State :=
  let n := s.out.length
  let s := if s.held then s.passCycles 0 72 else s
  let s := s.noticeSilent.setRepairs (s.holds.repair.isSome && !s.holds.lightOn)
  let rs := s.holds.repairs
  let s := s.sendGrants (rs.map (fun r => r.tx)) (rs.map (fun r => r.rx)) (rs.flatMap (fun r => bridgesOf r.tx r.rx))
  s.sendIdle (rs.map (fun r => r.tx) ++ emittedSince n s.out)

/-- INTERSTITIAL_FRAME (R149): in a stretched slot every port launches a frame that belongs to no slot. -/
def execInterstitialFrame (s : State) : Host.Outcome State Fault Refusal :=
  if !s.bu.photonicsOn || !(s.held || decide (s.pw.h ≠ 0)) then .next s else .next s.launchBetween

/-! ### Arrival of billets (R158, R162 to R165) -/

/-- Remove a billet that is in place from its receive and transmit ports; a repair hold that waited for it waits no longer. -/
def State.billetPlaced (s : State) (p : Nat) (b : PendingBillet) : State :=
  let s := s.modPort p (fun x => { x with pending := x.pending.filter (fun y => y.slot != b.slot) })
  let s := s.modPort b.src (fun x => { x with held := x.held.filter (fun y => !(y.port == p && y.slot == b.slot)) })
  { s with holds := { s.holds with
    repair := s.holds.repair.map (fun l => l.filter (fun y => y != (p, b.slot)))
    repairs := s.holds.repairs.filter (fun r => !(r.rx == p && r.slot == b.slot)) } }

/-- Whether a far unit's engine has no place for the billet (R230). -/
def State.noPlace (s : State) (p : Nat) : Bool := match portFmu p with | some u => s.farFull u | none => false

/-- Write a billet's payload where its locator says (R158, R207, R229, R306). -/
def State.placeBillet (s : State) (p : Nat) (b : PendingBillet) (h : BitVec 512) (payload : Bytes) (poison : List Nat) (arrive : Option Nat) :
    State :=
  let o := p / 64
  let loc := fld h 28 4
  if o < 16 then
    (List.range 16).foldl (fun s i =>
      let ws := (poison.filter (fun g => g / 8 == i)).flatMap (fun g => (List.range 8).map (fun j => g % 8 * 8 + j))
      s.modCd o (fun d => { d with staging := tset d.staging (p % 64 * 128 + 64 + (loc + i) % 64) (slice payload (512 * i) 512, ws) })) s
  else if o < 40 then
    let m := o - 16
    let s := (s.touch m).putSite m (loc * 8192) payload (poison.map (fun i => siteKey m (loc * 8192) + 64 * i)) true b.slot
    (s.bump 3 m 2 1).bump 3 m 1 32
  else match portFmu p with
  | some u =>
    let fb : FarBillet := {
      port := p, slot := b.slot, isWrite := true, off := s.farOffset b.turf (o - 40) loc
      data := (List.range 32).map (fun i => (i, slice payload (256 * i) 256)), poison := (poison.map (· / 4)).eraseDups
      turf := b.turf, arrive := arrive }
    s.modFmu u (fun x => { x with billets := x.billets ++ [fb] })
  | none =>
    match bdFind (s.cal b.turf).active.fabBd (o - 40) loc with
    | none => s
    | some d =>
      let v := d.toNat
      let body := mkRoute 2 0 (bits v 15 0) (s.flatOf 48) b.turf (s.routePath b.turf (bits v 15 0)) 8192 s.calEpoch 0 (bits v 39 32) (bits v 47 40)
        ++ payload
      let l := fabLink ((o - 40) * 24 + p % 64 / 2) (p % 2)
      let peer := s.pairWith (bits v 15 0)
      if s.fab.phase = .halted ∨ peer = 1 ∨ peer = 2 then s else s.queueLink l 4 l body

/-- A good billet is written where it belongs, counted, and its arrival counter is signalled when it carries ARRIVE: at once, and for a
far unit when that has performed the write (R158, R252, R306). The poison a billet carries is that of the frame its transmit port keeps
(R207). -/
def State.billetArrives (s : State) (p : Nat) (b : PendingBillet) (hdr : BitVec 512) (payload : Bytes) : State :=
  let po := match (s.port b.src).held.find? (fun y => y.port == p && y.slot == b.slot) with | some y => y.poison | none => []
  let arrive := if (fld hdr 34 1).testBit 0 then some (fld hdr 32 2) else none
  let s := (s.placeBillet p b hdr payload po arrive).billetPlaced p b
  let s := (s.bump 2 p 0 1).bump 2 p 3 (b2n (fld hdr 16 1 == 2))
  let s := match arrive with
    | some k => if (portFmu p).isSome then s else s.sendArrival (p / 64) k 0 b.turf none 0
    | none => s
  s.drainProgress

/-- BILLET_RECEIVE (R158, R162, R165). -/
def execBilletReceive (p : PortIx) (hdr : BitVec 512) (payload : Bytes) (s : State) : Host.Outcome State Fault Refusal :=
  let x := s.port p
  if !hdrCrcOk hdr then
    match x.onItsWay with
    | none => .next s
    | some b => .next (s.billetFails p b 1)
  else if !(fld hdr 16 1 == 1 || fld hdr 16 1 == 2) then .next s
  else if fld hdr 22 2 ≠ s.calEpoch then .next (s.bump 2 p 4 1)
  else match x.pending.find? (fun b => b.slot % 2 ^ 32 == fld hdr 24 4) with
  | none => .next s
  | some b =>
    if payload.length ≠ 8192 ∨ fld hdr 56 4 ≠ crc32c payload then .next (s.billetFails p b 2)
    else if s.noPlace p then .next (s.billetFails p b 1)
    else .next (s.billetArrives p b hdr payload)

/-! ### Repair (R163, R164) -/

/-- A billet that is sent for the first time as a repair takes its data from its source (R231, R307). -/
def State.lateSource (s : State) (p q : Nat) (b : PendingBillet) (y : BilletSt) : State :=
  if (s.port p).held.any (fun z => z.port == q && z.slot == b.slot) then s
  else match (s.entriesAt b.slot).find? (fun e => e.2.1 == p) with
  | none => s
  | some (_, _, e, k) => s.sourceUsed p e k b.slot y.poison

/-- A port sends a repair from the frame it keeps (R163). -/
def State.sendRepair (s : State) (p q : Nat) (b : PendingBillet) (y : BilletSt) : State :=
  let r := (s.lateSource p q b y).takeField p
  let h := rehead y.hdr r.1 2
  let s := r.2.modPort p (fun x => { x with held := x.held.filter (fun z => !(z.port == q && z.slot == b.slot)) ++ [{ y with hdr := h }] })
  let s := s.modPending q b.slot (fun x => { x with noticed := false, late := false, frame := s.obs.launches - 1 })
  let s := { s with holds := { s.holds with repairs := s.holds.repairs.filter (fun x => x.tx != p) } }
  ((s.countTx p 1).emit (.frame p h y.payload)).pumpProtected

/-- REPAIR_SEND (R163, R164): the repair that the frame launched last leaves to this port. -/
def execRepairSend (p : PortIx) (s : State) : Host.Outcome State Fault Refusal :=
  match s.holds.repairs.find? (fun r => r.tx == p.val) with
  | none => .next s
  | some r =>
    match (s.port r.rx).pending.find? (fun b => b.slot == r.slot) with
    | none => .next s
    | some b =>
      match s.keptBillet p r.rx b with
      | none => .next s
      | some y => .next (s.sendRepair p r.rx b y)

/-- The billets of a receive port that should be in place by now and are not (R164). -/
def State.dueBillets (s : State) (p : Nat) : List PendingBillet :=
  (s.port p).pending.filter (fun b => decide (b.slot + b.consume ≤ s.slot + 1))

/-- REPAIR_HOLD_CHECK (R164): at slot n + CONSUME - 1 a billet that is not in place calls for the repair hold, which begins with the
slot of its use. -/
def execRepairHoldCheck (p : PortIx) (s : State) : Host.Outcome State Fault Refusal :=
  let due := (s.dueBillets p).map (fun b => (p.val, b.slot, b.slot + b.consume))
  .next { s with holds := { s.holds with repairDue := due.foldl (fun l d => if l.contains d then l else l ++ [d]) s.holds.repairDue } }

/-- REPAIR_HOLD_END (R164): every billet the hold waited for is in place. -/
def execRepairHoldEnd (s : State) : Host.Outcome State Fault Refusal :=
  if s.holds.repair = some [] then .next { s with holds := { s.holds with repair := none } } else .next s

end Sys2Proof.Machine
end

