-- ==== Sys2Proof/Machine/Dynamic.lean ====
section
/-!
DEFINITION. The Dynamic class between ports (R166 to R169) and the Protected class (R170 to R172, R293).
-/
namespace Sys2Proof.Machine

/-! ### Requests and grants (R166, R167) -/

/-- The packets of one request: the first unrequested packet and those of its receive port, turf and virtual channel that follow it, in
their order, at most 8 with 8,192 B of payload areas; none passes an older one that does not fit (R16, R167). -/
def frameOf (q : List DynPkt) : List DynPkt :=
  match q.find? (fun k => !k.requested) with
  | none => []
  | some h =>
    let same := q.filter (fun k => !k.requested && k.dst == h.dst && k.turf == h.turf && k.vc == h.vc)
    (same.foldl (fun (acc : List DynPkt × Nat × Bool) k =>
      if acc.2.2 && decide (acc.1.length < 8) && decide (acc.2.1 + pktUnits k.pkt ≤ 32)
      then (acc.1 ++ [k], acc.2.1 + pktUnits k.pkt, true) else (acc.1, acc.2.1, false)) ([], 0, true)).1

/-- DYNAMIC_FRAME_REQUEST (R166). -/
def execDynamicFrameRequest (p : PortIx) (s : State) : Host.Outcome State Fault Refusal :=
  match frameOf (s.port p).dynQ with
  | [] => .next s
  | h :: t =>
    let ids := (h :: t).map (fun k => k.id)
    let r : DynReq := { tx := p, turf := h.turf, vc := h.vc, ids := ids, stamp := s.nextSeq }
    let s := s.modPort p (fun x => { x with dynQ := x.dynQ.map (fun k => if ids.contains k.id then { k with requested := true } else k) })
    .next (({ s with nextSeq := s.nextSeq + 1 } : State).modPort h.dst (fun x => { x with requests := x.requests ++ [r] }))

/-- The requests waiting at an endpoint's arbiter, each with its receive port (R167). -/
def State.requestsAt (s : State) (oep : Nat) : List (Nat × DynReq) :=
  (s.ports.filter (fun x => x.1 / 64 == oep)).flatMap (fun x => x.2.requests.map (fun r => (x.1, r)))

/-- The turfs with a request waiting at an endpoint. -/
def State.requesting (s : State) (oep : Nat) : List Nat := (s.requestsAt oep).foldl (fun l x => setIns l x.2.turf) []

/-- The turf an arbiter grants among candidates by DYN_SHARE (R167). -/
def State.grantTurf (s : State) (deficits : Tbl Int) (cand : List Nat) : Option Nat := pickTurf (dynShare s.turfMap) deficits cand

/-- The request an arbiter serves for a turf: of the next virtual channel in turn the oldest (R167). -/
def nextRequest (rs : List (Nat × DynReq)) (turf last : Nat) : Option (Nat × DynReq) :=
  let old := rs.mergeSort (fun a b => decide (a.2.stamp ≤ b.2.stamp))
  ((List.range 8).map (fun i => (last + 1 + i) % 8)).foldl (fun r v => match r with
    | some x => some x
    | none => old.find? (fun x => x.2.turf == turf && x.2.vc == v)) none

/-- The deficits of an endpoint's arbiter once every asking turf has its share (R167). -/
def State.raisedDeficits (s : State) (p : Nat) : Tbl Int :=
  raiseTurfs (dynShare s.turfMap) (s.requesting (p / 64)) (s.port (p / 64 * 64)).deficits

/-- The connections that grants have been given for a frame. -/
def State.grantedIn (s : State) (k : Nat) : List (Nat × Nat) :=
  s.ports.flatMap (fun x => (x.2.grants.filter (fun g => g.frame == k)).map (fun g => (x.1, g.rx)))

/-- Whether an arbiter may grant the frame that is i + 2 launches ahead on a connection (R166): in the slot that falls to it when no hold
comes between, no calendar entry owns the receive port, no repair can take it, no other grant names it, and the path's bridge channels are
free. In a hold the frames are interstitial ones, which no calendar owns. -/
def State.frameFree (s : State) (tx rx i : Nat) : Bool :=
  let own := if s.held then [] else s.ownedPairs (s.slot + 2 + i)
  let gs := s.grantedIn (s.obs.launches + 1 + i)
  let used := (own ++ gs).flatMap (fun c => bridgesOf c.1 c.2)
  let repair := if s.held then s.holds.repair.isSome && (s.repairAt rx).isSome
    else decide ((s.slot + 2 + i) % 32 = 31) && !(s.port rx).pending.isEmpty
  !own.any (fun c => c.2 == rx) && !gs.any (fun c => c.2 == rx) && !repair
    && (bridgesOf tx rx).all (fun b => decide (used.count b < 256))

/-- The frame a grant names: the first that the arbiter may grant, at least two frames ahead (R166); it looks two periods of the
columns ahead (log entry 49). -/
def State.frameFor (s : State) (tx rx : Nat) : Option Nat :=
  ((List.range 64).find? (s.frameFree tx rx)).map (fun i => s.obs.launches + 1 + i)

/-- The requests at an endpoint that its arbiter can grant a frame: both ports take traffic (R180, R183), and a frame is free. -/
def State.grantable (s : State) (oep : Nat) : List (Nat × DynReq) :=
  (s.requestsAt oep).filter (fun x => !s.portOut x.1 && !s.portOut x.2.tx && (s.frameFor x.2.tx x.1).isSome)

/-- The request that the arbiter of an endpoint grants next (R167): of the asking turfs the one the shares pick, of its requests the oldest
of the next virtual channel in turn. -/
def State.nextGrant (s : State) (oep : Nat) : Option (Nat × DynReq) :=
  match s.grantTurf (s.raisedDeficits (oep * 64)) ((s.grantable oep).foldl (fun l x => setIns l x.2.turf) []) with
  | none => none
  | some u => nextRequest (s.grantable oep) u (tget (s.port (oep * 64)).vcLast 7 u)

/-- The arbiter grants a request at a receive port a frame (R166, R167). -/
def State.grantFrame (s : State) (p : Nat) (r : DynReq) (frame : Nat) : State :=
  let ds := s.raisedDeficits p
  let s := s.modPort (p / 64 * 64) (fun x => { x with deficits := tset ds r.turf (tget ds 0 r.turf - 256), vcLast := tset x.vcLast r.turf r.vc })
  let s := s.modPort p (fun x => { x with requests := x.requests.erase r })
  s.modPort r.tx (fun x => { x with grants := x.grants ++ [{ rx := p, turf := r.turf, ids := r.ids, stamp := r.stamp, frame := frame }] })

/-- DYNAMIC_GRANT (R167): the endpoint's arbiter makes its next grant, when that is one of this receive port. -/
def execDynamicGrant (p : PortIx) (s : State) : Host.Outcome State Fault Refusal :=
  match s.nextGrant (p / 64) with
  | none => .next s
  | some (q, r) =>
    if q ≠ p.val then .next s
    else match s.frameFor r.tx q with
    | none => .next s
    | some k => .next (s.grantFrame q r k)

/-! ### Reception (R168, R169) -/

/-- The packet in area i of a Dynamic frame. -/
def areaPacket (hdr : BitVec 512) (body : Bytes) (i : Nat) : Packet :=
  let a := slice body (64 * i) 64
  let off := 64 * fld hdr 35 1 + 256 * ((List.range i).map (fun j => fld hdr (36 + j) 1)).sum
  let h : BitVec 384 := BitVec.ofNat 384 (leAt a 0 48)
  let carries := hfld h 0 1 == 0x02 || hfld h 0 1 == 0x81
  { hdr := h, ext := if leAt a 48 16 = 0 then none else some (BitVec.ofNat 128 (leAt a 48 16))
    data := if carries then slice body off (hfld h 4 2) else [], poison := (hfld h 2 1).testBit 1 }

/-- Whether an area is well formed: R266, R267, and the least count of units. -/
def areaOk (p : Packet) (units : Nat) : Bool :=
  pktUnits p == units
  && (if p.isRequest then p.headerOk && p.extOk
      else decide (p.otype < 4) && decide (p.flags < 16) && hfld p.hdr 14 2 == 0 && hfld p.hdr 40 8 == 0 && p.ext.isNone)

/-- A packet of a Dynamic frame is delivered: at an edge port on its way to another module it goes out on the fabric; others are
performed by the command of their operation. A malformed one is discarded and counted against the receive port (R168). -/
def State.deliverPacket (s : State) (port turf : Nat) (p : Packet) (units : Nat) : State :=
  if !areaOk p units then
    let s := s.tally (.badPacket port) 1
    if p.isRequest then s.nackReq turf p stParseError else s
  else
    let ep := if p.isRequest then p.addr / 2 ^ 48 else p.srcEp
    if 40 ≤ port / 64 ∧ (s.localIx ep).isNone then s.egress turf p else s

/-- DYNAMIC_FRAME_RECEIVE (R168, R169). -/
def execDynamicFrameReceive (p : PortIx) (hdr : BitVec 512) (body : Bytes) (s : State) : Host.Outcome State Fault Refusal :=
  if !hdrCrcOk hdr then .next (s.bump 2 p 1 1)
  else if fld hdr 16 1 ≠ 3 then .next s
  else if fld hdr 56 4 ≠ crc32c body then .next (s.bump 2 p 2 1)
  else
    let s := (s.bump 2 p 5 1).emit (.frameAck p)
    .next ((List.range (min 8 (fld hdr 35 1))).foldl (fun s i =>
      s.deliverPacket p (fld hdr 21 1 % 64) (areaPacket hdr body i) (fld hdr (36 + i) 1)) s)

/-- DYNAMIC_FRAME_ACK (R169). -/
def execDynamicFrameAck (p : PortIx) (seq : Nat) (s : State) : Host.Outcome State Fault Refusal :=
  .next (s.modPort p (fun x => { x with awaiting := x.awaiting.filter (fun k => k.frame != some seq) }))

/-- The packets of a port that have waited 2 us for their acknowledgement. -/
def State.unacked (s : State) (p : Nat) : List DynPkt := (s.port p).awaiting.filter (fun k => decide (k.sentAt + 2000 ≤ s.now))

/-- Unacknowledged packets are requested again; after four sendings that count (R181) the path has failed (R169). -/
def State.resendFrames (s : State) (p : Nat) (old : List DynPkt) : State :=
  let swap := fun (k : DynPkt) => s.holds.swapping.contains (feedOf p) || s.holds.swapping.contains (feedOf k.dst)
  let again := old.map (fun k => { k with
    requested := false, frame := none, sends := if swap k then k.sends - 1 else if 4 ≤ k.sends then 0 else k.sends })
  let fails := old.find? (fun k => !swap k && decide (4 ≤ k.sends))
  let s := s.modPort p (fun x => { x with
    awaiting := x.awaiting.filter (fun k => !decide (k.sentAt + 2000 ≤ s.now)), dynQ := again ++ x.dynQ })
  match fails with | some k => s.pathFails p k.dst | none => s

/-- DYNAMIC_RESEND (R169): 2 us after their sending. -/
def execDynamicResend (p : PortIx) (now : Nat) (s : State) : Host.Outcome State Fault Refusal :=
  let s := s.at_ now
  if (s.unacked p).isEmpty then .next s else .next (s.resendFrames p (s.unacked p))

/-! ### Protected packets (R171, R172, Table 6.6) -/

/-- Key of a receiver's record: source and destination endpoint of this module. -/
def seqKey (src dst : Nat) : Nat := src * 64 + dst
/-- Key of the record of a source in another module: its module number and the endpoint it signals (log entry 27). -/
def farSeqKey (module ep : Nat) : Nat := 2 ^ 28 + module * 65536 + ep

/-- What R171 does with a copy. -/
inductive CopyFate where
  | deliver
  | duplicate
  | stale
deriving DecidableEq, Repr

/-- Judge a copy against a record. R171 does not say what a record without a newest number does: the first copy from a source is
delivered whatever its number, which becomes N (log entry 114, DESIGN CHOICE). -/
def SeqRec.judge (r : SeqRec) (seq : Nat) : CopyFate :=
  match r.newest with
  | none => .deliver
  | some n =>
    let ahead := seqAhead n seq
    if 1 ≤ ahead ∧ ahead ≤ 32767 then .deliver
    else
      let behind := seqAhead seq n
      if 1024 < behind then .stale else if behind ≤ 1023 ∧ r.marked.contains seq then .duplicate else .deliver

/-- Mark a delivered copy. -/
def SeqRec.mark (r : SeqRec) (seq copy now : Nat) : SeqRec :=
  let n := match r.newest with
    | none => seq
    | some n => if 1 ≤ seqAhead n seq ∧ seqAhead n seq ≤ 32767 then seq else n
  { r with
    newest := some n, marked := (setIns r.marked seq).filter (fun k => decide (seqAhead k n ≤ 1023))
    single := r.single ++ [(seq, copy, now)] }

/-- Both copies of a signal to another module have left: the SYNC_SIGNAL it belongs to, the oldest of its counter, epoch and amount,
completes (R258). -/
def State.signalLeft (s : State) (arg : Word) (addr : DWord) : State :=
  if addr.toNat % 2 ^ 16 ≠ s.flatOf 48 then s
  else match (s.signalCmds addr).find? (fun a => sqArg a.entry 1 == arg.toNat % 2 ^ 31) with
  | none => s
  | some a => s.complete a stOk 0 0

/-- Send a sync packet for another module's counter on both channels of R293, numbered for its endpoint; a halted module sends
none (R310). -/
def State.forwardSignal (s : State) (arg : Word) (addr : DWord) : State :=
  let ep := addr.toNat / 2 ^ 48
  if s.fab.phase = .halted then s
  else match ((List.range 64).filterMap (fun t => s.signalFibres t ep)).head? with
  | none => s
  | some (a, b) =>
    let key := 2 ^ 24 + ep
    let seq := tget s.seqNext 0 key
    let s := { s with seqNext := tset s.seqNext key ((seq + 1) % 65536) }
    let send := fun (s : State) (l copy : Nat) =>
      let x := s.link l
      if x.state ≠ .inService then s
      else s.emit (.linkFrame l (linkFrame l x.txSeq 0 x (natLe 16 (carriage seq 1 0 copy arg.toNat addr).toNat) (natLe 3 0) []))
    (send (send s (fabLink (a % 96) 0) 0) (fabLink (b % 96) 1) 1).signalLeft arg addr

/-- A fault notice reaches a CD or edge group (Table 19.5): the light hold it announces starts or ends at its count. -/
def State.faultHeard (s : State) (arg : Word) (count : DWord) : State :=
  if s.holds.swapping.isEmpty then s
  else match bits arg.toNat 9 8 with
  | 1 => if s.holds.lightOn then s else { s with holds := { s.holds with lightAt := some count.toNat } }
  | 2 => { s with holds := { s.holds with lightEnd := some count.toNat } }
  | _ => s

/-- FAULT_NOTICE (R485). -/
def execFaultNotice (arg : Word) (count : DWord) (s : State) : Host.Outcome State Fault Refusal := .next (s.faultHeard arg count)

/-- What a Protected packet does at its destination. -/
def State.protectedEffect (s : State) (dest ptype : Nat) (arg : Word) (addr : DWord) : State :=
  match ptype with
  | 1 =>
    if (s.localIx (addr.toNat / 2 ^ 48)).isNone then s.forwardSignal arg addr
    else if bits addr.toNat 19 18 = 0 then s.syncApply arg addr
    else if bits addr.toNat 19 18 = 1 then s.refusalArrives arg addr else s
  | 2 => if dest < 16 then s.armNotice dest arg addr else s
  | 3 => if dest < 16 then s.cancelNotice dest arg addr else s
  | 4 => s.swapAnnounced arg addr
  | 5 => s.faultHeard arg addr
  | _ => s

/-- A copy of a Protected packet arrives: by its record it is delivered or discarded (R171). -/
def State.copyArrives (s : State) (key port seq copy : Nat) (effect : State → State) : State :=
  let r := tget s.seqRecs {} key
  match r.judge seq with
  | .stale => s.bump 2 port 7 1
  | .duplicate =>
    let r' : SeqRec := { r with single := r.single.filter (fun x => !(x.1 == seq && x.2.1 != copy)) }
    ({ s with seqRecs := tset s.seqRecs key r' } : State).bump 2 port 6 1
  | .deliver => effect { s with seqRecs := tset s.seqRecs key (r.mark seq copy s.now) }

/-- CARRIAGE_RECEIVE (R170, R171). R171 does not name the receive port that a stale or duplicate copy counts at: the model takes the
destination's receive port 0 for copy A and 1 for copy B (log entry 114, DESIGN CHOICE). -/
def execCarriageReceive (src : OepIx) (field : BitVec 128) (now : Nat) (s : State) : Host.Outcome State Fault Refusal :=
  let s := s.at_ now
  let v := field.toNat
  let dest := bits v 29 24
  let ptype := bits v 23 16
  if ptype = 0 ∨ 44 ≤ dest then .next s
  else .next (s.copyArrives (seqKey src dest) (dest * 64 + bits v 31 31) (bits v 15 0) (bits v 31 31)
    (fun s => s.protectedEffect dest ptype (BitVec.ofNat 32 (bits v 63 32)) (BitVec.ofNat 64 (bits v 127 64))))

/-- A copy that did not come is counted (R172), at the destination's receive port of its parity, which R172 does not name (log entry 114,
DESIGN CHOICE); sixteen from one source in 1 ms raise a fault notice and are diagnosed, which finds no failing part that the part's own
rule has not met, so a wear record and a PROTECTED_PATH notice follow (R486). -/
def State.copyMissing (s : State) (key src dst n copy : Nat) : State :=
  let r := tget s.seqRecs {} key
  let parity := 1 - copy
  let s := s.bump 2 (dst * 64 + parity) 8 1
  let ms := (r.missing ++ [(parity, s.now)]).filter (fun m => decide (s.now < m.2 + 1000000))
  let r' : SeqRec := { r with single := r.single.filter (fun x => x.1 != n) }
  if ms.length < 16 then { s with seqRecs := tset s.seqRecs key { r' with missing := ms } }
  else
    let s := { s with seqRecs := tset s.seqRecs key { r' with missing := [] } }
    let s := s.announceAll 5 (9 + (src * 64 + parity) * 2 ^ 16) 0
    (s.addWear 0x10 src 16 0).notice0 4 0x1107 [BitVec.ofNat 128 (src + parity * 2 ^ 8)]

/-- The key of the record that holds a single copy of a number from a source; for an edge group also the records of the sources in other
modules whose packets it receives (log entry 27). -/
def State.singleKey (s : State) (src dst seq : Nat) : Option (Nat × (Nat × Nat × Nat)) :=
  let own := ((tget s.seqRecs {} (seqKey src dst)).single.find? (fun x => x.1 == seq)).map (fun x => (seqKey src dst, x))
  match own with
  | some x => some x
  | none =>
    if src < 40 then none
    else (s.seqRecs.filter (fun p => decide (2 ^ 28 ≤ p.1))).findSome? (fun p =>
      (p.2.single.find? (fun x => x.1 == seq && decide (x.2.2 + 2000 ≤ s.now))).map (fun x => (p.1, x)))

/-- MISSING_DUPLICATE (R172, R486): 2 us after the first copy. -/
def execMissingDuplicate (src : OepIx) (dst : OepIx) (seq : Half) (now : Nat) (s : State) : Host.Outcome State Fault Refusal :=
  let s := s.at_ now
  match s.singleKey src dst seq.toNat with
  | none => .next s
  | some (key, n, copy, t) => if s.now < t + 2000 then .next s else .next (s.copyMissing key src dst n copy)

end Sys2Proof.Machine
end

