-- ==== Sys2Proof/Machine/Light.lean ====
section
/-!
DEFINITION. The commands of light sources, ring locking, recalibration and link quality (07): bank faults and swaps, channel sweeps,
tuning gaps and holds, starvation, and the fibre lanes that quality windows replace (R484).
-/
namespace Sys2Proof.Machine

/-! ### Bank faults (R178 to R186) -/

/-- BANK_MONITOR_SAMPLE (R178): `output` and `lineMin` in thousandths of the bank's and of a line's set point. -/
def execBankMonitorSample (b : BankIx) (output lineMin : Nat) (biasAtLimit : Bool) (now : Nat) (s : State) :
    Host.Outcome State Fault Refusal :=
  let s := s.at_ now
  if !s.bu.photonicsOn || (s.bank b).faulted then .next s
  else
    let low := if output < 700 then (s.bank b).lowSamples + 1 else 0
    let s := s.modBank b (fun x => { x with output := output, lowSamples := low })
    if !(decide (2 ≤ low) || decide (lineMin < 500) || biasAtLimit) then .next s
    else match s.bankFeed b with
    | some feed => .next (s.bankFault b feed)
    | none => .next (if (s.bank b).removed then s else s.idleBankFault b)

/-- LIGHT_HOLD_START (R179): at the announced count. -/
def execLightHoldStart (now : Nat) (s : State) : Host.Outcome State Fault Refusal :=
  let s := s.at_ now
  match s.holds.lightAt with
  | none => .next s
  | some c =>
    if s.now < c then .next s
    else .next { s with
      holds := { s.holds with lightAt := none, lightOn := true }
      batches := tmap s.batches (fun _ b => { b with sawLight := b.sawLight || b.started }) }

/-- LIGHT_HOLD_END (R179, R182): when the swaps are complete the end is announced for 2 us later; at the announced count every
region leaves the hold. -/
def execLightHoldEnd (now : Nat) (s : State) : Host.Outcome State Fault Refusal :=
  let s := s.at_ now
  if !s.holds.lightOn then .next s
  else match s.holds.lightEnd with
  | none =>
    let c := s.now + 2000
    .next (({ s with holds := { s.holds with lightEnd := some c } } : State).announceAll 5 (6 + 2 * 2 ^ 8 + s.holds.lightBank * 2 ^ 16)
      (BitVec.ofNat 64 c))
  | some c =>
    if s.now < c then .next s
    else .next { s with holds := { s.holds with
      lightOn := false, lightEnd := none, swapping := s.holds.swapping.filter (fun f => s.holds.retuning.any (fun r => r.2 == f)) } }

/-- A worn bank is swapped (R186): without a hold when no running calendar names a port of its feed group, else as for a fault. The ports
are under swap until they are re-tuned. -/
def State.wearSwap (s : State) (b feed n : Nat) : State :=
  let used := (feedPorts feed).any s.scheduled
  let s := ((s.modBank b (fun x => { x with wornAt := none, removed := true })).takeSpare 0x06 (b / 20) b 3).takeBank feed n
  let s := (s.addDefect 0x06 3 b 0 1).notice0 4 0x1102 [faultWord 0x06 1 b 0 0]
  if used then s.startSwap feed b
  else
    let s := s.underSwap feed
    { s with holds := { s.holds with retuning := s.holds.retuning ++ [(b, feed)] } }

/-- The ports of a feed group swapped without a hold are re-tuned. -/
def State.retuned (s : State) (b feed : Nat) : State :=
  { s with holds := { s.holds with
    retuning := s.holds.retuning.filter (fun r => r.1 != b), swapping := s.holds.swapping.filter (fun f => f != feed) } }

/-- BANK_WEAR_SWAP (R186, R482): a worn bank is swapped once no running calendar names a port of its feed group, without a hold;
after 10 s as for a fault. With no spare bank the substitution is dropped (R480). The command given again for a bank swapped without a hold
says that the re-tune is complete (log entry 128). -/
def execBankWearSwap (b : BankIx) (now : Nat) (s : State) : Host.Outcome State Fault Refusal :=
  let s := s.at_ now
  match s.holds.retuning.find? (fun r => r.1 == b.val) with
  | some r => .next (s.retuned b r.2)
  | none =>
  match (s.bank b).wornAt, s.bankFeed b with
  | some t, some feed =>
    let used := (feedPorts feed).any s.scheduled
    if used ∧ s.now < t + 10000000000 then .next s
    else match s.spareBank (b / 20) with
    | none => .next (s.modBank b (fun x => { x with wornAt := none }))
    | some n => .next (s.wearSwap b feed n)
  | _, _ => .next s

/-! ### Ring locking and ring failures (R187, R199, R484) -/

/-- RING_LOCK (R187): the loop of one ring runs; after ten lock periods above 25 pm, or at the end of its heater's range, the ring
has failed (Table 19.4). The loop does not run on a dark port and under a CD whose regions are all in S4. -/
def execRingLock (p : PortIx) (pos : PosIx) (detunePm : Nat) (atEnd : Bool) (s : State) : Host.Outcome State Fault Refusal :=
  let x := s.port p
  let asleep := decide (p.val / 64 < 16) && (List.range 4).all (fun i => (s.region (p / 64 * 4 + i)).sleep == .s4)
  if !s.bu.photonicsOn || s.unlit p || asleep || decide (x.lane pos = 31) then .next s
  else
    let runs := if 25 < detunePm then tget x.detuneRuns 0 pos + 1 else 0
    let fails := decide (10 ≤ runs) || atEnd
    let s := s.modPort p (fun x => { x with
      detune := tset x.detune pos detunePm, detuneRuns := tset x.detuneRuns pos (if fails then 0 else runs) })
    .next (if fails then s.ringFails p pos 2 else s)

/-! ### Channel sweeps (R189 to R193, R199) -/

/-- A sweep of a port fits before a batch that is arming starts on it, and before the end of a mode 0 gap of its turf (R190, R193, R195). -/
def State.sweepFits (s : State) (p : Nat) : Bool :=
  s.batches.all (fun b => b.2.started || b.2.waiting || !(s.calPorts b.1).contains p || decide (s.now + 20000 ≤ b.2.startCount))
  && s.tuneGaps.all (fun g => g.2.1 == 0 || !(s.calPorts g.1).contains p || decide (s.now + 20000 ≤ g.2.1 + g.2.2.1 * 1000))

/-- A port may be swept. In scheduled service a tuning hold has 20 us left, or every running calendar that names the port stands in a gap
with 20 us left (R190, R193); otherwise the sweep fits before its next scheduled service. -/
def State.sweepTime (s : State) (p : Nat) : Bool :=
  s.holds.tuning.any (fun h => decide (s.now + 20000 ≤ h.1 + h.2.1 * 1000))
  || (s.batches.all (fun b => !b.2.started || !(s.calPorts b.1).contains p || slotLong s (s.gapLeft b.1 b.2)) && s.sweepFits p)

/-- The position swept next: one that waits for its sweep, else the next of the rotation that the port's state lets sweep. -/
def PortSt.nextPosition (x : PortSt) (sched : Bool) : Option Nat :=
  match x.toSweep with
  | w :: _ => some w.1
  | [] => ((List.range 18).map (fun i => (x.nextSweep + i) % 18)).find? (fun i =>
      decide (x.lane i < 16) || (decide (x.lane i = 16) && !sched))

/-- A sweep begins. -/
def State.beginSweep (s : State) (p pos : Nat) (spare : Option Nat) : State :=
  s.modPort p (fun x => { x with
    standIn := none, sweeping := some (pos, spare, s.now), nextSweep := if x.toSweep.isEmpty then (pos + 1) % 18 else x.nextSweep })

/-- The lane of a position moves to its stand-in, and once both ends send by the new map the sweep begins (R191). -/
def State.moveToStandIn (s : State) (p pos i : Nat) : State :=
  let s := (s.modPort p (fun x => { x.setLane i 17 with standIn := some (pos, i) })).announceMap p
  if s.mapInForce p then s.beginSweep p pos (some i) else s

/-- CHANNEL_SWEEP (R189 to R193): outside scheduled service the lane moves to a spare idle position when there is one; on a fibre the sweep
itself begins with the first command after both ends have switched. -/
def execChannelSweep (p : PortIx) (now : Nat) (s : State) : Host.Outcome State Fault Refusal :=
  let s := s.at_ now
  let x := s.port p
  let sched := s.scheduled p
  if !s.bu.photonicsOn || x.sweeping.isSome || s.unlit p || x.failed || s.holds.swapping.contains (feedOf p) || !s.sweepTime p then .next s
  else match x.standIn with
  | some (pos, i) => .next (if s.mapInForce p then s.beginSweep p pos (some i) else s)
  | none => match x.nextPosition sched with
    | none => .next s
    | some pos =>
      match (if sched || decide (16 ≤ x.lane pos) then none else (x.spareIdle).filter (fun i => i != pos)) with
      | some i => .next (s.moveToStandIn p pos i)
      | none => .next (s.beginSweep p pos none)

/-- A position whose in-field spare ring has been swept is back in service: with the lane that ran elsewhere, or as a spare idle one. -/
def PortSt.swept (x : PortSt) (pos : Nat) : PortSt :=
  let y := match x.toSweep.find? (fun w => w.1 == pos) with
    | some (_, some i) => (x.setLane pos (x.lane i)).setLane i 16
    | some (_, none) => if x.lane pos = 31 then x.setLane pos 16 else x
    | none => x
  { y with toSweep := x.toSweep.filter (fun w => w.1 != pos) }

/-- CHANNEL_SWEEP_END (R189, R191, R481): 20 us after the start the lane returns; a ring over its heater threshold is replaced. -/
def execChannelSweepEnd (p : PortIx) (heaterOver : Bool) (now : Nat) (s : State) : Host.Outcome State Fault Refusal :=
  let s := s.at_ now
  match (s.port p).sweeping with
  | none => .next s
  | some (pos, st, t) =>
    if s.now < t + 20000 then .next s
    else
      let moved := st.isSome || (s.port p).toSweep.any (fun w => w.1 == pos)
      let s := s.modPort p (fun x =>
        let y := (match st with | some i => x.setLane i 16 | none => x).swept pos
        { y with sweeping := none, lastSwept := tset y.lastSwept pos s.now })
      let s := if moved then s.announceMap p else s
      .next (if heaterOver then s.ringFails p pos 3 else s)

/-! ### Tuning starvation, gaps and holds (R193 to R197) -/

/-- The turfs whose running calendar names a port. -/
def State.portTurfs (s : State) (p : Nat) : List Nat :=
  (s.batches.filter (fun b => b.2.started && (s.calPorts b.1).contains p)).map (fun b => b.1)

/-- TUNING_STARVED (R194): every 50 ms without a counting gap, until turf 0 and each turf concerned have accepted the downgrade. -/
def execTuningStarved (p : PortIx) (now : Nat) (s : State) : Host.Outcome State Fault Refusal :=
  let s := s.at_ now
  match (s.port p).starveSince, s.portTurfs p with
  | some t0, t :: ts =>
    let told := (setIns (t :: ts) 0).filter (fun u => !s.tuneAccepted.contains u)
    if s.now < t0 + 50000000 ∨ told.isEmpty then .next s
    else
      let s := told.foldl (fun s u =>
        s.noticeTurf u 4 0x1001 [BitVec.ofNat 128 (p.val + (if (t :: ts).contains u then u else t) * 2 ^ 16)]) s
      .next (s.modPort p (fun x => { x with starved := min 0xFFFF (x.starved + 1), starveSince := some (t0 + 50000000) }))
  | _, _ => .next s

/-- LENGTH of SET_TUNING_GAP in range. -/
def gapLenOk (w : BitVec 512) : Bool := decide (20 ≤ sqArg w 1) && decide (sqArg w 1 ≤ 10000)

/-- SET_TUNING_GAP mode 0 (R195): the gap starts at once, or when the turf's running batch ends; a batch that is arming starts after it. -/
def execSetTuningGapGap (q : QueueIx) (slot : SlotIx) (s : State) : Host.Outcome State Fault Refusal :=
  .next (s.withCmd q slot 0x0104 (fun w => sqArg w 0 == 0) (fun s a =>
    if !gapLenOk a.entry then s.fail a stBadArg
    else
      let t := sqTurf a.entry
      let start := match s.batch t with | some b => if b.started then 0 else max 1 s.now | none => max 1 s.now
      { s with tuneGaps := s.tuneGaps ++ [(t, start, sqArg a.entry 1, a.q, a.slot)] }))

/-- SET_TUNING_GAP mode 1 (R195). -/
def execSetTuningGapAccept (q : QueueIx) (slot : SlotIx) (s : State) : Host.Outcome State Fault Refusal :=
  .next (s.withCmd q slot 0x0104 (fun w => sqArg w 0 == 1) (fun s a =>
    if !gapLenOk a.entry then s.fail a stBadArg
    else ({ s with tuneAccepted := setIns s.tuneAccepted (sqTurf a.entry) } : State).done a 0))

/-- SET_TUNING_GAP mode 2 (R195, R196). -/
def execSetTuningGapHold (q : QueueIx) (slot : SlotIx) (s : State) : Host.Outcome State Fault Refusal :=
  .next (s.withCmd q slot 0x0104 (fun w => sqArg w 0 == 2) (fun s a =>
    if !gapLenOk a.entry then s.fail a stBadArg
    else if (s.queue a.q).turf ≠ 0 then s.fail a stDenied
    else if sqArg a.entry 2 < s.now + 20000 then s.fail a stBadArg
    else { s with holds := { s.holds with tunes := s.holds.tunes ++ [(sqArg a.entry 2, sqArg a.entry 1, a.q, a.slot)] } }))

/-- TUNING_GAP_END (R195): the turf's gap has lasted LENGTH. -/
def execTuningGapEnd (t : TurfIx) (now : Nat) (s : State) : Host.Outcome State Fault Refusal :=
  let s := s.at_ now
  match s.tuneGaps.find? (fun g => g.1 == t.val && g.2.1 != 0) with
  | none => .next s
  | some g =>
    if s.now < g.2.1 + g.2.2.1 * 1000 then .next s
    else .next ((({ s with tuneGaps := s.tuneGaps.erase g } : State).gapCovers t []).completeAt (g.2.2.2.1, g.2.2.2.2) stOk 0)

/-- TUNING_HOLD_START (R195): at COUNT every cell cycle of the module is a hold cycle. -/
def execTuningHoldStart (now : Nat) (s : State) : Host.Outcome State Fault Refusal :=
  let s := s.at_ now
  let due := s.holds.tunes.filter (fun h => decide (h.1 ≤ s.now))
  .next { s with holds := { s.holds with tunes := s.holds.tunes.filter (fun h => !due.contains h), tuning := s.holds.tuning ++ due } }

/-- TUNING_HOLD_END (R193 to R195): LENGTH after COUNT; the hold has covered every port. -/
def execTuningHoldEnd (now : Nat) (s : State) : Host.Outcome State Fault Refusal :=
  let s := s.at_ now
  let due := s.holds.tuning.filter (fun h => decide (h.1 + h.2.1 * 1000 ≤ s.now))
  if due.isEmpty then .next s
  else
    let s := { s with holds := { s.holds with tuning := s.holds.tuning.filter (fun h => !due.contains h) }, tuneAccepted := [] }
    let s := s.batches.foldl (fun s b => if b.2.started then s.startTimers (s.calPorts b.1) true s.now else s) s
    .next (due.foldl (fun s h => s.completeAt (h.2.2.1, h.2.2.2) stOk 0) s)

/-! ### Fibre lanes (R484) -/

/-- The link whose lanes a wavelength group of a fibre carries. -/
def fibreLaneLink (f g : Nat) : Nat := (edgeLink (fibreGroupPort f g)).getD 0

/-- A received lane of a fibre is out of use, its lane on a spare idle one when one takes it: the peer is asked for the map that follows
(R175, R225). -/
def State.laneOut (s : State) (f g pos : Nat) (substituted : Bool) : State :=
  let l := fibreLaneLink f g
  let m := (s.link l).rxWanted
  s.wantMap l (moveLane m pos (if substituted then m.findIdx? (fun b => b == 16) else none))

/-- A received fibre lane has failed or worn out: a spare lane takes it over, by the map that the peer is asked for (R225, R482, R484). -/
def State.replaceLane (s : State) (f g pos origin : Nat) : State :=
  let m := (s.link (fibreLaneLink f g)).rxWanted
  if 16 ≤ leAt m pos 1 ∨ !m.contains 16 ∨ s.sparesLeft 0x10 (2 * f + g) = 0 then s
  else ((s.takeSpare 0x10 (2 * f + g) f origin).replaced 0x10 origin 1 f (BitVec.ofNat 32 (pos + g * 2 ^ 5)) 3).laneOut f g pos true

/-- QUALITY_WINDOW (R484): the positions with uncorrectable codewords in the window; three windows in a row replace the lane. -/
def execQualityWindow (f : FibreIx) (group : Fin 2) (bad : List PosIx) (s : State) : Host.Outcome State Fault Refusal :=
  if !s.bu.photonicsOn then .next s
  else
    let p := fibreGroupPort f group
    let runs := (List.range 18).map (fun i => if bad.any (fun b => b.val == i) then tget (s.port p).codeRuns 0 i + 1 else 0)
    let s := s.modPort p (fun x => { x with codeRuns := runs.zipIdx.map (fun r => (r.2, if 3 ≤ r.1 then 0 else r.1)) })
    .next (((List.range 18).filter (fun i => decide (3 ≤ runs.getD i 0))).foldl (fun s i => s.replaceLane f group i 2) s)

end Sys2Proof.Machine
end

