-- ==== Sys2Proof/Machine/Sites.lean ====
section
/-!
DEFINITION. Upkeep of the near-tier sites (08): patrol scrub, spare rows, spare pseudo-channels, self-refresh (R202, R209 to R214).
-/
namespace Sys2Proof.Machine

/-- The half-granules of a granule of a site. -/
def halvesOf (m off : Nat) : List Nat := markSpan (siteKey m off) 256

/-- The scrubber writes back what it corrected, and those half-granules with their poison code that it could not read: their content is
open (R207, R209). -/
def State.writeBack (s : State) (halves : List Nat) : State :=
  let bad := halves.filter (fun a => decide (2 ≤ tget s.flaws 0 a))
  let s := bad.foldl (fun s a => s.spoil a 64) s
  { s with flaws := s.flaws.filter (fun p => !halves.contains p.1) }

/-- The symbol errors that a scrub read meets: those the granule holds, and those that `find` says have come about (log entry 115). A
correction is of one symbol of one half-granule; which half-granules hold an error that cannot be corrected is open, at least one. -/
def State.upset (s : State) (halves : List Nat) (find : ScrubFind) : State :=
  match find with
  | .clean => s
  | .corrected =>
    let d := s.draw
    let a := halves.getD (d.1.toNat % 4) 0
    { d.2 with flaws := tset d.2.flaws a (max 1 (tget d.2.flaws 0 a)) }
  | .uncorrectable =>
    let d := s.draw
    let mask := d.1.toNat % 15 + 1
    { d.2 with flaws := (halves.zipIdx.filter (fun x => mask.testBit x.2)).foldl (fun t x => tset t x.1 2) d.2.flaws }

/-- PATROL_SCRUB (R206, R207, R209): a read of a granule; a corrected half-granule is written back and counted; one that cannot be
read is written back with its poison code and logged. The scrubber stands in self-refresh (R214). -/
def execPatrolScrub (m : SiteIx) (granule : Fin 268435456) (find : ScrubFind) (now : Nat) (s : State) : Host.Outcome State Fault Refusal :=
  let s := s.at_ now
  let off := granule.val * 256
  let hs := halvesOf m off
  if !s.bu.memoryOn || (s.site m).selfRefresh then .next s
  else .next (((s.upset hs find).eccGranule m hs).writeBack hs)

/-- PC_MIGRATION (R211). -/
def execPcMigration (m : SiteIx) (pc : Fin 64) (s : State) : Host.Outcome State Fault Refusal := .next (s.migrate m pc)

/-- PC_MIGRATION_END (R211): granules that the old pseudo-channel could not return are poison; a replacement that waits begins. -/
def execPcMigrationEnd (m : SiteIx) (lost : List (Fin 268435456)) (s : State) : Host.Outcome State Fault Refusal :=
  let x := s.site m
  match x.migrating with
  | none => .next s
  | some (pc, sp) =>
    let d : Word := BitVec.ofNat 32 (x.phys pc)
    let s := (lost.filter (fun g => s.pcOf (g.val * 256) == pc)).foldl (fun s g => s.spoil (siteKey m (g.val * 256)) 256) s
    let s := s.modSite m (fun y => { y with pcMap := tset y.pcMap pc sp, migrating := none, corrected := tdel y.corrected pc })
    let s := (s.addWear 0x03 m 1 d).replaced 0x0B (if x.errors.any (fun e => e.1 == pc) then 2 else 3) 1 m d 0
    match x.waitingPc with
    | [] => .next s
    | p :: ps => .next ((s.modSite m (fun y => { y with waitingPc := ps })).migrate m p)

/-- ROW_REPLACE (R210, R211). -/
def execRowReplace (m : SiteIx) (pc : Fin 66) (bank : Byte) (row : Half) (s : State) : Host.Outcome State Fault Refusal :=
  .next (s.replaceRow m pc bank.toNat row.toNat)

/-- ROW_REPLACE_END (R210): a row that waits for the copy begins its own. -/
def execRowReplaceEnd (m : SiteIx) (s : State) : Host.Outcome State Fault Refusal :=
  match (s.site m).rowCopy with
  | none => .next s
  | some r =>
    let s := s.modSite m (fun y => { y with rowCopy := none, rowsReplaced := y.rowsReplaced ++ [r] })
    let s := (s.addWear 0x02 m 1 (rowDetail r)).replaced 0x0A (s.rowOrigin m r.1) 1 m (rowDetail r) 0
    let ws := (s.site m).rowWaits
    .next (ws.foldl (fun s w => s.replaceRow m w.1 w.2.1 w.2.2) (s.modSite m (fun y => { y with rowWaits := [] })))

/-! ### Self-refresh (R26, R214) -/

/-- SELF_REFRESH_ENTER (R214): no access for 10 ms and no running calendar that names a port of the site. -/
def execSelfRefreshEnter (m : SiteIx) (now : Nat) (s : State) : Host.Outcome State Fault Refusal :=
  let s := s.at_ now
  let named := s.batches.any (fun b => b.2.started && (s.calPorts b.1).any (fun p => p / 64 == 16 + m.val))
  if !s.bu.memoryOn || named || decide (s.now < (s.site m).lastAccess + 10000000) then .next s
  else .next (s.modSite m (fun x => { x with selfRefresh := true }))

/-- SELF_REFRESH_EXIT (R26, R214): an access takes an idle site out; one that a reset or a shutdown holds stays. -/
def execSelfRefreshExit (m : SiteIx) (now : Nat) (s : State) : Host.Outcome State Fault Refusal :=
  let s := s.at_ now
  .next (s.modSite m (fun x => { x with selfRefresh := x.heldRefresh, lastAccess := if x.selfRefresh then s.now else x.lastAccess }))

end Sys2Proof.Machine
end

