-- ==== Sys2Proof/Machine/Fabric.lean ====
section
/-!
DEFINITION. The module in the fabric (11, 16): joining and leaving, time roles and time, pair descriptors, billets between modules,
the parser at the fabric ingress, and the fabric commands (R294 to R317, R432 to R434, R504).
-/
namespace Sys2Proof.Machine

/-! ### Time roles (R309, R313) -/

/-- A join or role message: code, FABRIC_EPOCH or the byte at 4, UID, and the bytes from 16 on (Table 11.13). -/
def joinMsg (code at4 : Nat) (uid : DWord) (rest : Bytes) : Bytes := padTo 512 (natLe 2 code ++ natLe 2 0 ++ natLe 4 at4 ++ natLe 8 uid.toNat ++ rest)

/-- Send a message on one fibre (R309). -/
def State.sendFibre (s : State) (f : Nat) (msg : Bytes) : State := s.sendMgmt (fabLink f 0) msg

/-- Ask a fibre's peer for a role from a count 40 us ahead (R313). -/
def State.askRole (s : State) (f : Nat) (want : Bool) : State :=
  let d := s.draw
  let id : Word := BitVec.ofNat 32 d.1.toNat
  let c := d.2.now + 40000
  (d.2.modRole f (fun x => { x with pending := some (c, id), want := want })).sendFibre f
    (joinMsg 0x28 (roleCode want) Config.uid (natLe 8 c ++ natLe 4 id.toNat))

/-- Two role requests have crossed: both are cancelled, and the module makes its own once more after a delay of 8 to 64 us, a free value;
at the second collision the higher UID leads (R313). -/
def State.roleCollision (s : State) (f : Nat) (uid : DWord) : State :=
  if (s.role f).collided = 0 then
    let d := s.draw
    d.2.modRole f (fun x => { x with pending := none, collided := 1, retryAt := d.2.now + 1000 * (8 + d.1.toNat % 57) })
  else s.endRole f (decide (uid.toNat < Config.uid.toNat)) none

/-- LINK_ROLE_SWAP (Table 11.12). -/
def execLinkRoleSwap (q : QueueIx) (slot : SlotIx) (s : State) : Host.Outcome State Fault Refusal :=
  .next (s.withCmd q slot 0x0603 (fun _ => true) (fun s a =>
    let f := sqArg a.entry 0
    let want := decide (sqArg a.entry 1 = 0)
    if 96 ≤ f then s.fail a stBadArg
    else if !s.fibreUp f || (s.role f).cmd.isSome then s.fail a stBusy
    else if s.leads f = want then s.done a (roleCode want)
    else (s.modRole f (fun x => { x with cmd := some (a.q, a.slot), collided := 0 })).askRole f want))

/-- A peer's role request is answered (R309): an end whose own request is outstanding answers 2, one that finds the count too near 1. -/
def State.roleAsked (s : State) (f : Nat) (msg : Bytes) : State :=
  let x := s.role f
  let uid : DWord := BitVec.ofNat 64 (leAt msg 8 8)
  let c := leAt msg 16 8
  let ans := if x.pending.isSome then 2 else if c < s.now + 20000 then 1 else 0
  let s := s.sendFibre f (joinMsg 0x29 ans Config.uid (List.replicate 8 0 ++ slice msg 24 4))
  if x.pending.isSome then s.roleCollision f uid
  else if ans = 0 then s.modRole f (fun y => { y with at_ := some (decide (leAt msg 4 1 ≠ 0), c), leader := s.leads f })
  else s

/-- ROLE_SWAP_REQ (R309, R313). -/
def execRoleSwapReq (f : FabFibreIx) (msg : FabMsg) (s : State) : Host.Outcome State Fault Refusal :=
  .next (s.onMessage (fabLink f msg.frame.channel) 5 msg.frame.seq (fun s => s.roleAsked f msg.bytes))

/-- What an answer to the module's role request does (R313). -/
def State.roleAnswered (s : State) (f : Nat) (msg : Bytes) : State :=
  let x := s.role f
  match x.pending with
  | none => s
  | some (c, id) =>
    if id.toNat ≠ leAt msg 24 4 then s
    else match leAt msg 4 1 with
    | 0 => s.endRole f x.want (some (x.want, c))
    | 1 => s.endRole f (s.leads f) none
    | _ => s.roleCollision f (BitVec.ofNat 64 (leAt msg 8 8))

/-- ROLE_SWAP_ANS (R313). -/
def execRoleSwapAns (f : FabFibreIx) (msg : FabMsg) (s : State) : Host.Outcome State Fault Refusal :=
  .next (s.onMessage (fabLink f msg.frame.channel) 5 msg.frame.seq (fun s => s.roleAnswered f msg.bytes))

/-- ROLE_SWAP_RETRY (R313): after its delay each end asks once more. -/
def execRoleSwapRetry (f : FibreTime) (s : State) : Host.Outcome State Fault Refusal :=
  let s := s.at_ f.now
  let x := s.role f.fibre
  if x.collided = 1 ∧ x.pending.isNone ∧ x.cmd.isSome ∧ x.retryAt ≤ s.now then .next (s.askRole f.fibre x.want) else .next s

/-! ### Time (R432 to R434) -/

/-- Correct the GTC by an offset, leader minus follower, in ns (R434). -/
def State.correctTime (s : State) (offset : Int) : State :=
  if 1000 < offset then
    ({ s with pw := { s.pw with gtc := s.pw.gtc + offset.toNat, slew := 0, halfRate := 0 } } : State).notice0 4 0x1206
      [BitVec.ofNat 128 offset.toNat]
  else if offset < -1000 then { s with pw := { s.pw with halfRate := 2 * offset.natAbs, slew := 0 } }
  else { s with pw := { s.pw with slew := offset, halfRate := 0 } }

/-- A TIME body (Table 16.7). -/
def timeMsg (kind hops req : Nat) (root : DWord) (t1 t2 t3 : Nat) : Bytes :=
  padTo 512 (natLe 2 0x30 ++ natLe 1 kind ++ natLe 1 hops ++ natLe 4 req ++ natLe 8 root.toNat ++ natLe 8 t1 ++ natLe 8 t2 ++ natLe 8 t3)

/-- Send a TIME message on VC6 of a fibre; a halted module sends none (R310). -/
def State.sendTime (s : State) (f : Nat) (msg : Bytes) : State :=
  if s.fab.phase = .halted then s else s.queueLink (fabLink f 0) 6 (fabLink f 0) msg

/-- HOPS and ROOT_UID of the module's answers: those of its source, one further, or without one its own (R433). -/
def State.timeStanding (s : State) : Nat × DWord :=
  match s.sourceNow with | some g => ((s.role g).hops.getD 0 + 1, (s.role g).root) | none => (0, Config.uid)

/-- TIME_REQUEST (R432, R433): the follower of a fibre asks; the leader answers a request at once with its distance and root. -/
def execTimeRequest (f : FabFibreIx) (incoming : Option (MsgFrame × Word × Nat)) (now : Nat) (s : State) :
    Host.Outcome State Fault Refusal :=
  let s := s.at_ now
  match incoming with
  | none =>
    if !s.fibreUp f || s.leads f then .next s
    else
      let d := s.draw
      .next (d.2.sendTime f (timeMsg 0 0 (d.1.toNat % 2 ^ 32) 0 d.2.now 0 0))
  | some (frame, id, t1) => .next (s.onMessage (fabLink f frame.channel) 6 frame.seq (fun s =>
      if !s.fibreUp f || !s.leads f then s
      else s.sendTime f (timeMsg 1 s.timeStanding.1 id.toNat s.timeStanding.2 t1 s.now s.now)))

/-- The time source after an answer on a fibre (R433). -/
def State.nextSource (s : State) (f : Nat) : Option Nat :=
  match s.sourceNow with
  | some g => if (s.role f).better < 10 then some g else s.bestSource
  | none => s.bestSource

/-- What an answer on a fibre says of it is kept, and the time source is chosen again: a source is left for a better one after ten
answers in a row (R433). -/
def State.hearAnswer (s : State) (f : Nat) (hops : Nat) (root : DWord) : State :=
  let lower := match s.sourceNow with
    | some g => g != f && decide (hops + 1 ≤ (s.role g).hops.getD 0)
    | none => false
  let s := s.modRole f (fun x => { x with hops := some hops, root := root, better := if lower then x.better + 1 else 0 })
  let src := s.nextSource f
  let s := if src = s.pw.timeSource then s else s.modRole f (fun x => { x with better := 0 })
  { s with pw := { s.pw with timeSource := src } }

/-- What a leader's answer does: the source is chosen again, and an answer of the source corrects the GTC (R433, R434). -/
def State.timeAnswered (s : State) (f : Nat) (a : TimeAns) : State :=
  if !s.fibreUp f || s.leads f then s
  else
    let s := s.hearAnswer f a.hops.toNat a.rootUid
    if s.sourceNow = some f then s.correctTime ((((a.t2 : Int) - a.t1) - ((a.t4 : Int) - a.t3)) / 2) else s

/-- TIME_ANSWER (R433, R434). -/
def execTimeAnswer (f : FabFibreIx) (a : TimeMsg) (s : State) : Host.Outcome State Fault Refusal :=
  .next ((s.at_ a.ans.t4).onMessage (fabLink f a.frame.channel) 6 a.frame.seq (fun s => s.timeAnswered f a.ans))

/-! ### Joining (R308 to R311) -/

/-- The claim of the module (Table 11.13). -/
def State.claimMsg (s : State) : Bytes := joinMsg 0x20 s.fab.epoch Config.uid (natLe 4 s.bu.bootEpoch ++ natLe 4 s.fab.nonce.toNat)

/-- FOUNDER of a founder or member: MEMBERS is what the founder has admitted, or what a member heard last (R309). -/
def State.founderMsg (s : State) : Bytes :=
  joinMsg 0x21 s.fab.epoch Config.uid (natLe 4 s.bu.bootEpoch ++ natLe 4 0 ++ natLe 8 s.fab.founderUid.toNat
    ++ natLe 2 (if s.fab.joinPhase = .founder then s.fab.members.length else s.fab.admitted))

/-- JOIN_REQ to a founder. -/
def State.joinReqMsg (s : State) (founder : DWord) : Bytes :=
  joinMsg 0x22 s.fab.epoch Config.uid (natLe 4 s.bu.bootEpoch ++ natLe 4 s.fab.nonce.toNat ++ natLe 8 founder.toNat)

/-- The flat endpoint numbers of a module: from the numbering plan, else module number x 64 + local index (R311). -/
def State.planOf (s : State) (module : Nat) : List Nat :=
  if s.fab.planAddr = 0 then (List.range 64).map (fun i => 64 * module + i)
  else match s.readRange (s.fab.planAddr.toNat + 128 * module) 128 with
  | some (b, _) => (List.range 64).map (fun i => leAt b (2 * i) 2)
  | none => (List.range 64).map (fun i => bits (Config.planWord module i).toNat 15 0)

/-- The numbering plan is read from memory. -/
def State.meetPlan (s : State) (module : Nat) : State :=
  if s.fab.planAddr = 0 then s else s.meetRange (s.fab.planAddr.toNat + 128 * module) 128

/-- Complete the module's FAB_JOIN. -/
def State.endJoin (s : State) (status cause result : Nat) : State :=
  match s.fab.joinCmd with
  | none => s
  | some c =>
    let s := { s with fab := { s.fab with joinCmd := none } }
    match s.acceptedAt c.1 c.2 with
    | none => s
    | some a => s.complete a status cause (BitVec.ofNat 64 result)

/-- RESULT of FAB_JOIN. -/
def State.joinResult (s : State) : Nat := s.fab.moduleNo + s.fab.epoch % 2 ^ 32 * 2 ^ 32

/-- Begin to claim with a fresh NONCE (R308). -/
def State.beginClaim (s : State) : State :=
  let d := s.draw
  { d.2 with fab := { d.2.fab with
    phase := .claiming, nonce := BitVec.ofNat 32 d.1.toNat, claimStart := d.2.now, claimDue := d.2.now, claims := [] } }

/-- A duplicated identity halts the module's fabric activity but for the join messages it exchanges as founder or member (R310). -/
def State.haltFabric (s : State) : State :=
  let was := match s.fab.joinPhase with | .founder => JoinPhase.founder | .member => .member | _ => .none
  ({ s with fab := { s.fab with phase := .halted, haltedAs := was } } : State).endJoin stDenied 5 0

/-- FAB_JOIN (R308, Table 11.12). -/
def execFabJoin (q : QueueIx) (slot : SlotIx) (s : State) : Host.Outcome State Fault Refusal :=
  .next (s.withCmd q slot 0x0600 (fun _ => true) (fun s a =>
    let plan := sqArg a.entry 1
    match s.fab.phase with
    | .halted => s.complete a stDenied 5 0
    | .claiming | .requested | .member | .founder => s.fail a stBusy
    | _ =>
      match (if plan = 0 then none else s.rangeCheck (s.queue a.q).turf plan 131072) with
      | some st => s.fail a st
      | none =>
        let f := { s.fab with mode := sqArg a.entry 0, planAddr := BitVec.ofNat 64 plan, joinCmd := some (a.q, a.slot) }
        ({ s with fab := f } : State).beginClaim))

/-- FAB_LEAVE (Table 11.12): the module drains as R304 does and leaves. -/
def execFabLeave (q : QueueIx) (slot : SlotIx) (s : State) : Host.Outcome State Fault Refusal :=
  .next (s.withCmd q slot 0x0601 (fun _ => true) (fun s a =>
    if s.drain.isSome then s.fail a stBusy
    else
      let d : Drain := { routing := true, turf := 0, cmd := (a.q, a.slot), epoch := 0, since := s.now, fabLeave := true }
      ({ s.endJoin stBusy 0 0 with drain := some d } : State).drainProgress))

/-- The module's claim goes out on every in-service fibre, every 100 us during the 2 ms of its join (R308). -/
def State.claim (s : State) : State :=
  let on := match s.fab.phase with | .claiming | .requested | .member | .founder => true | _ => false
  if on && decide (s.fab.claimDue ≤ s.now) && decide (s.now < s.fab.claimStart + 2000000) then
    ({ s with fab := { s.fab with claimDue := s.fab.claimDue + 100000 } } : State).sendFabric s.claimMsg
  else s

/-- A claim is heard (R308, R310): a founder or member answers it, a claimant keeps it, and one with the module's UID and another NONCE is
a duplicated identity. -/
def State.claimHeard (s : State) (f : Nat) (m : Bytes) : State :=
  let uid : DWord := BitVec.ofNat 64 (leAt m 8 8)
  let nonce : Word := BitVec.ofNat 32 (leAt m 20 4)
  let twin := decide (uid = Config.uid ∧ nonce ≠ s.fab.nonce)
  match s.fab.joinPhase with
  | .none | .left | .halted => s
  | .founder | .member => if twin then s.haltFabric else s.sendFibre f s.founderMsg
  | .claiming | .requested =>
    if twin then s.haltFabric
    else if uid = Config.uid then s
    else
      let c := (leAt m 4 4, uid, nonce)
      { s with fab := { s.fab with claims := s.fab.claims.filter (fun x => x.2.1 != uid) ++ [c] } }

/-- JOIN_CLAIM (R308, R310): the module's own, or one received. -/
def execJoinClaim (f : FabFibreIx) (msg : Option FabMsg) (now : Nat) (s : State) : Host.Outcome State Fault Refusal :=
  let s := s.at_ now
  match msg with
  | none => .next s.claim
  | some m => .next (s.onMessage (fabLink f m.frame.channel) 5 m.frame.seq (fun s => s.claimHeard f m.bytes))

/-- FOUNDER is heard (R309, R310): the first one gets a claimant's JOIN_REQ; a member keeps the count of its founder. -/
def State.founderHeard (s : State) (f : Nat) (msg : Bytes) : State :=
  let u : DWord := BitVec.ofNat 64 (leAt msg 24 8)
  let n := leAt msg 32 2
  if s.fab.phase = .claiming then
    ({ s with fab := { s.fab with phase := .requested, founderUid := u, admitted := n } } : State).sendFibre f (s.joinReqMsg u)
  else if (s.fab.joinPhase = .member ∨ s.fab.joinPhase = .requested) ∧ u = s.fab.founderUid then
    { s with fab := { s.fab with admitted := max s.fab.admitted n } }
  else s

/-- FOUNDER (R310). -/
def execFounder (f : FabFibreIx) (msg : FabMsg) (s : State) : Host.Outcome State Fault Refusal :=
  .next (s.onMessage (fabLink f msg.frame.channel) 5 msg.frame.seq (fun s => s.founderHeard f msg.bytes))

/-- The order of claims: the higher fabric epoch, then the lower UID (R310). -/
def claimBefore (a b : Nat × DWord × Word) : Bool := decide (b.1 < a.1) || (a.1 == b.1 && decide (a.2.1.toNat < b.2.1.toNat))

/-- The module becomes founder with its number kept, and raises the fabric epoch (R310, R311). -/
def State.becomeFounder (s : State) (module next : Nat) (members : List Member) : State :=
  let f := { s.fab with
    phase := .founder, epoch := s.fab.epoch + 1, founderUid := Config.uid, moduleNo := module, nextModule := next, members := members }
  let s := { s with fab := f }
  s.sendFabric s.founderMsg

/-- FOUNDER_ELECTION (R310): without FOUNDER in 2 ms the first-ranked claimant founds; a join-only command gives up. -/
def execFounderElection (now : Nat) (s : State) : Host.Outcome State Fault Refusal :=
  let s := s.at_ now
  if s.fab.phase ≠ .claiming ∨ s.now < s.fab.claimStart + 2000000 then .next s
  else if s.fab.mode = 1 then .next (({ s with fab := { s.fab with phase := .none } } : State).endJoin stBusy 0 0)
  else
    let own := (s.fab.epoch, Config.uid, s.fab.nonce)
    if s.fab.claims.any (fun c => claimBefore c own) then .next s
    else
      let s := { (s.meetPlan 0) with fab := { s.fab with flat := s.planOf 0 } }
      let s := s.becomeFounder 0 1 [⟨Config.uid, 0, some s.fab.nonce⟩]
      .next (s.reflat.endJoin stOk 0 s.joinResult)

/-- JOIN_ACCEPT of a founder. -/
def State.acceptMsg (s : State) (target : DWord) (result module : Nat) (flat : List Nat) : Bytes :=
  joinMsg 0x23 s.fab.epoch Config.uid (List.replicate 8 0 ++ natLe 8 target.toNat ++ natLe 1 result ++ [0] ++ natLe 2 module
    ++ List.replicate 28 0 ++ flat.flatMap (natLe 2))

/-- The founder admits a module under a number (R311). -/
def State.takeMember (s : State) (f : Nat) (m : Member) : State :=
  let s := (s.meetPlan m.number).sendFibre f (s.acceptMsg m.uid 0 m.number (s.planOf m.number))
  { s with fab := { s.fab with
    nextModule := max s.fab.nextModule (m.number + 1), members := s.fab.members.filter (fun x => x.uid != m.uid) ++ [m] } }

/-- The founder hears a JOIN_REQ (R309 to R311): it admits in order; a member that a new founder has taken over keeps its number. The NONCE
tells the same request, which the switches relay to several fibres, from one of another module with the UID of a live member, which is a
duplicated identity (log entry 126). -/
def State.joinHeard (s : State) (f : Nat) (msg : Bytes) : State :=
  let uid : DWord := BitVec.ofNat 64 (leAt msg 8 8)
  let nonce : Word := BitVec.ofNat 32 (leAt msg 20 4)
  if s.fab.joinPhase ≠ .founder ∨ BitVec.ofNat 64 (leAt msg 24 8) ≠ Config.uid then s
  else match s.fab.members.find? (fun m => m.uid == uid) with
  | some m =>
    match m.nonce with
    | none => s.takeMember f { m with nonce := some nonce }
    | some n =>
      if n = nonce then s
      else
        let s := s.sendFabric (joinMsg 0x25 s.fab.epoch Config.uid (List.replicate 8 0 ++ natLe 8 uid.toNat ++ slice msg 20 4))
        if uid = Config.uid then s.haltFabric else s
  | none =>
    if 1023 < s.fab.nextModule then s.sendFibre f (s.acceptMsg uid 1 0 [])
    else s.takeMember f { uid := uid, number := s.fab.nextModule, nonce := some nonce }

/-- JOIN_REQ (R309 to R311). -/
def execJoinReq (f : FabFibreIx) (msg : FabMsg) (s : State) : Host.Outcome State Fault Refusal :=
  .next (s.onMessage (fabLink f msg.frame.channel) 5 msg.frame.seq (fun s => s.joinHeard f msg.bytes))

/-- The founder's answer reaches the module that asked (R309, R311). -/
def State.joinAnswered (s : State) (msg : Bytes) : State :=
  if s.fab.phase ≠ .requested ∨ BitVec.ofNat 64 (leAt msg 24 8) ≠ Config.uid then s
  else if leAt msg 32 1 ≠ 0 then ({ s with fab := { s.fab with phase := .none } } : State).endJoin stNoResource 0 0
  else
    let g := { s.fab with
      phase := .member, epoch := leAt msg 4 4, founderUid := BitVec.ofNat 64 (leAt msg 8 8), moduleNo := leAt msg 34 2 % 1024
      admitted := s.fab.admitted + 1, flat := (List.range 64).map (fun i => leAt msg (64 + 2 * i) 2) }
    let s := { s with fab := g }
    s.reflat.endJoin stOk 0 s.joinResult

/-- JOIN_ACCEPT (R309, R311). -/
def execJoinAccept (f : FabFibreIx) (msg : FabMsg) (s : State) : Host.Outcome State Fault Refusal :=
  .next (s.onMessage (fabLink f msg.frame.channel) 5 msg.frame.seq (fun s => s.joinAnswered msg.bytes))

/-- The founder is gone: the member with the lowest UID becomes founder and raises the fabric epoch (R311). The members a module
knows are those of its pair descriptors. -/
def State.founderGone (s : State) : State :=
  if s.fab.phase ≠ .member then s
  else
    let known := s.fab.pairs.filter (fun p => p.2.bootEpoch.isSome && p.2.uid != s.fab.founderUid)
    if known.any (fun p => decide (p.2.uid.toNat < Config.uid.toNat)) then s
    else s.becomeFounder s.fab.moduleNo (known.foldl (fun n p => max n (p.1 + 1)) (s.fab.moduleNo + 1))
      (known.map (fun p => ({ uid := p.2.uid, number := p.1 } : Member)) ++ [⟨Config.uid, s.fab.moduleNo, some s.fab.nonce⟩])

/-- FOUNDER_LOST (R311): the founder's pair has been lost for 10 ms. -/
def execFounderLost (now : Nat) (s : State) : Host.Outcome State Fault Refusal := .next (s.at_ now).founderGone

/-- Close the queues bound to a module with CAUSE 7 (R315, R344). -/
def State.closePeerQueues (s : State) (m : Nat) : State :=
  let qs := (s.queues.filter (fun p => 4096 ≤ p.1 && decide (p.2.state ≠ .closed) && s.peerOf p.2.partner == m)).map (fun p => p.1)
  qs.foldl (fun s q => (s.revokeQueueCtrs q).startClose q 7 1) s

/-- A module has left (R311, R344). -/
def State.leaveHeard (s : State) (msg : Bytes) : State :=
  let uid : DWord := BitVec.ofNat 64 (leAt msg 8 8)
  let m := leAt msg 32 2 % 1024
  if s.fab.phase = .none ∨ s.fab.phase = .left then s
  else
    let s := { s with fab := { s.fab with members := s.fab.members.filter (fun x => x.uid != uid), pairs := tdel s.fab.pairs m } }
    let s := s.closePeerQueues m
    if uid = s.fab.founderUid then s.founderGone else s

/-- LEAVE (R311, R344). -/
def execLeave (f : FabFibreIx) (msg : FabMsg) (s : State) : Host.Outcome State Fault Refusal :=
  .next (s.onMessage (fabLink f msg.frame.channel) 5 msg.frame.seq (fun s => s.leaveHeard msg.bytes))

/-- The founder reports a duplicated identity, which is the module's own (R309, R310). -/
def State.duplicate (s : State) (msg : Bytes) : State :=
  if BitVec.ofNat 64 (leAt msg 24 8) ≠ Config.uid ∨ s.fab.phase = .none ∨ s.fab.phase = .left then s else s.haltFabric

/-- DUP_ID (R309, R310). -/
def execDupId (f : FabFibreIx) (msg : FabMsg) (s : State) : Host.Outcome State Fault Refusal :=
  .next (s.onMessage (fabLink f msg.frame.channel) 5 msg.frame.seq (fun s => s.duplicate msg.bytes))

/-! ### Pair descriptors (R312, R315) -/

/-- An endpoint of a module in the active endpoint table, the lowest. -/
def State.moduleEp (s : State) (m : Nat) : Option Nat :=
  (s.fab.epTable.find? (fun c => c.1 % 8 == 0 && c.2.toNat.testBit 0 && !c.2.toNat.testBit 1
    && memNat s.fab.epTable (c.1 + 2) 2 % 1024 == m)).map (fun c => c.1 / 8)

/-- CFG_HASH (Table 11.10). -/
def State.cfgHash (s : State) : Nat := (natLe 4 s.hashSeed ++ memRead (s.cset 1).active 0 (setSize 1)).foldl crc64Byte 0

/-- The module's descriptor (Table 11.10). -/
def State.pairMsg (s : State) : Bytes :=
  padTo 512 (natLe 2 0x11 ++ natLe 2 (fwRelease s.firm.runningCw) ++ natLe 2 s.calEpoch ++ natLe 2 0 ++ natLe 8 Config.uid.toNat
    ++ natLe 4 s.bu.bootEpoch ++ natLe 4 s.fab.epoch ++ natLe 8 s.cfgHash ++ natLe 8 s.now)

/-- Send a routed management message to a module on VC5, by turf 0's route (R312, R504); a halted module sends none (R310). -/
def State.sendMessage (s : State) (m : Nat) (msg : Bytes) : State :=
  if s.fab.phase = .halted then s
  else match s.moduleEp m with
  | none => s
  | some ep =>
    match (s.routeFibres 0 ep).head? with
    | none => s
    | some f => s.queueLink (fabLink f 0) 5 (fabLink f 0) (mkRoute 3 0 ep (s.flatOf 48) 0 (s.routePath 0 ep) 512 0 0 0 0 ++ padTo 512 msg)

/-- PAIR_DESC_SEND (R312). -/
def execPairDescSend (module : Fin 1024) (s : State) : Host.Outcome State Fault Refusal :=
  let x := tget s.fab.pairs {} module
  .next (({ s with fab := { s.fab with pairs := tset s.fab.pairs module { x with lastSent := s.now } } } : State).sendMessage module s.pairMsg)

/-- A peer module has restarted (R315); it is no live member until it has joined again (R310). -/
def State.peerRestarted (s : State) (m : Nat) : State :=
  let ops := s.ops.filter (fun o => o.peer == some m)
  let s := ops.foldl (fun s o => s.opEnds o stPeerRestarted false) s
  let s := { s with
    fab := { s.fab with
      windows := s.fab.windows.filter (fun w => s.peerOf w.1 != m), members := s.fab.members.filter (fun x => x.number != m) }
    seqRecs := s.seqRecs.filter (fun r => !(decide (2 ^ 28 + m * 65536 ≤ r.1) && decide (r.1 < 2 ^ 28 + (m + 1) * 65536))) }
  (s.closePeerQueues m).pumpWindows

/-- State of a pair by its descriptor (Table 11.11). -/
def State.pairState (s : State) (msg : Bytes) : Nat :=
  let r := fwRelease s.firm.runningCw
  let p := leAt msg 2 2
  if r + 1 < p ∨ p + 1 < r then 1 else if leAt msg 24 8 ≠ s.cfgHash then 2 else 3

/-- What a pair descriptor does (R312, R315, Table 11.11). -/
def State.pairArrives (s : State) (m : Nat) (msg : Bytes) : State :=
  if (s.moduleEp m).isNone ∨ s.fab.phase = .halted then s
  else
    let x := tget s.fab.pairs {} m
    let boot : Word := BitVec.ofNat 32 (leAt msg 16 4)
    let s : State := match x.bootEpoch with
      | some b => if b = boot then s else s.peerRestarted m
      | none => s
    let y : PairSt := { tget s.fab.pairs {} m with
      state := s.pairState msg, bootEpoch := some boot, uid := BitVec.ofNat 64 (leAt msg 8 8), calEpoch := BitVec.ofNat 16 (leAt msg 4 2) }
    let s : State := { s with fab := { s.fab with pairs := tset s.fab.pairs m y } }
    let s : State := if s.sourceNow.isSome then s.correctTime ((leAt msg 32 8 : Int) - s.now) else s
    if s.fab.epoch < leAt msg 20 4 ∧ (s.fab.phase = .member ∨ s.fab.phase = .founder) then s.beginClaim else s

/-- PAIR_DESC (R312). -/
def execPairDesc (module : Fin 1024) (msg : Bytes) (now : Nat) (s : State) : Host.Outcome State Fault Refusal :=
  .next ((s.at_ now).pairArrives module msg)

/-! ### Billets between modules (R306, R307) -/

/-- An inbound billet reaches the edge group of a fibre (R306); none passes between a pair that is not full (R312). -/
def State.inboundBillet (s : State) (fibre : Nat) (route : Bytes) (payload : Bytes) : State :=
  if s.fab.phase = .halted then s
  else if s.pairWith (leAt route 4 2) = 1 ∨ s.pairWith (leAt route 4 2) = 2 then s.tally (.fabricDrop fibre) 1
  else if leAt route 10 2 ≠ s.calEpoch then s.bump 2 (fibrePort fibre) 4 1
  else { s with fab := { s.fab with inbound := tset s.fab.inbound (fibre / 24 * 256 + leAt route 14 1) (some payload) } }

/-- FABRIC_BILLET_RECEIVE (R306). -/
def execFabricBilletReceive (l : LinkIx) (route : BitVec 128) (payload : Bytes) (s : State) : Host.Outcome State Fault Refusal :=
  if payload.length ≠ 8192 then .fault .illFormed
  else
    let r := natLe 16 route.toNat
    if isFar l || leAt r 0 1 != 2 then .next s else .next (s.inboundBillet (linkFibre l) r payload)

/-- INBOUND_BILLET_MISSING (R307): the billet a receive port waits for has not come; in a repair hold, which stops the slots, the
command says that 64 slots' time has passed. -/
def execInboundBilletMissing (p : PortIx) (s : State) : Host.Outcome State Fault Refusal :=
  match (s.port p).pending.find? (fun b => decide (40 ≤ b.src / 64) && (portFmu b.src).isNone && b.late
      && (s.holds.repair.isSome || decide (b.slot + 64 ≤ s.slot))) with
  | none => .next s
  | some b =>
    let s := (s.stopBatch b.turf stInternal (BitVec.ofNat 64 (7 * 2 ^ 16)) false).settleStop b.turf
    .next (s.releasePending (fun q => q == p.val)).drainProgress

/-! ### Fabric Clamp (R503, R504) -/

/-- A fabric Clamp message arrives (R504): a count already past Clamps 1,024 ns after the arrival and is counted as late. -/
def State.clampArrives (s : State) (count : Nat) : State :=
  if !s.obs.clampMask.testBit 3 ∨ s.fab.phase = .halted then s
  else if count ≤ s.now then
    ({ s with obs := { s.obs with lateClamps := s.obs.lateClamps + 1 } } : State).announceClamp (s.now + 1024)
  else s.announceClamp count

/-- FABRIC_CLAMP_MESSAGE (R504). -/
def execFabricClampMessage (count : DWord) (_uid : DWord) (now : Nat) (s : State) : Host.Outcome State Fault Refusal :=
  .next ((s.at_ now).clampArrives count.toNat)

/-! ### The parser (R294 to R296) -/

/-- What the parser says of a routed packet. -/
inductive Parse where
  | good
  | reserved
  | depth
  | length
  | header
deriving DecidableEq, Repr

/-- The packet of a Dynamic body: header, extension, payload. -/
def routedPacket (body : Bytes) : Packet :=
  let n := leAt body 1 1
  let h : BitVec 384 := BitVec.ofNat 384 (leAt body 16 48)
  { hdr := h, ext := if n = 2 then some (BitVec.ofNat 128 (leAt body 64 16)) else none
    data := body.drop (64 + 16 * (n - 1)), poison := (hfld h 2 1).testBit 1 }

/-- The checks of R294 on FRAME_LEN and the bytes after the link header. -/
def parseRouted (frameLen : Nat) (body : Bytes) : Parse :=
  let kind := leAt body 0 1
  let next := leAt body 1 1
  let rest := leAt body 8 2
  let p := routedPacket body
  let pay := if p.op = 0x02 ∨ p.op = 0x81 then p.len else 0
  if !(decide (1 ≤ kind) && decide (kind ≤ 3)) || decide (4 ≤ leAt body 12 1) then .reserved
  else if 4 < 1 + next then .depth
  else if (kind = 1 ∧ (next = 0 ∨ rest ≠ 48 + 16 * (next - 1) + pay)) ∨ (kind = 2 ∧ rest ≠ 8192) ∨ (kind = 3 ∧ rest ≠ 512) then .length
  else if frameLen ≠ 16 + rest ∨ body.length ≠ 16 + rest then .length
  else if kind = 1 ∧ (2 < next ∨ (if p.isRequest then !(p.headerOk && p.extOk)
      else !(decide (p.otype < 4) && decide (p.flags < 16) && hfld p.hdr 14 2 == 0 && hfld p.hdr 40 8 == 0 && p.ext.isNone))) then .header
  else .good

/-- NACK a dropped request whose operation header lies within the frame, when its SRC_EP is in the endpoint table (R295). -/
def State.dropRequest (s : State) (body : Bytes) (status : Nat) : State :=
  let p := routedPacket body
  if leAt body 0 1 = 1 ∧ 64 ≤ body.length ∧ p.isRequest ∧ s.epPresent p.srcEp then
    s.nackReq (leAt body 6 1 % 64) p status
  else s

/-- A routed packet that passed the parser goes to its unit (R296): Dynamic packets to the port of their target or issuer, billets
to their buffer, messages to the module; after FAB_LEAVE requests get BUSY, a halted module acts on none, and of a pair that is
management-only the module takes messages alone (R312). -/
def State.deliverRouted (s : State) (l : Nat) (vc : Nat) (body : Bytes) : State :=
  let dst := leAt body 2 2
  let turf := leAt body 6 1 % 64
  let fibre := linkFibre l
  match leAt body 0 1 with
  | 1 =>
    let p := routedPacket body
    if (s.localIx dst).isNone ∨ (p.isRequest ∧ (s.localIx (p.addr / 2 ^ 48)).isNone) then
      (s.fibreCount l 9).dropRequest body stBadArg
    else if s.pairWith (leAt body 4 2) = 1 then s.tally (.fabricDrop fibre) 1
    else if s.fab.phase = .left ∧ p.isRequest then s.dropRequest body stBusy
    else
      let port := if p.isRequest then s.targetPort ((s.localIx (p.addr / 2 ^ 48)).getD 0) p.addr else unitPort p.unit p.addr
      s.queueDyn (fibrePort fibre + linkChannel l % 2) port turf vc p
  | k =>
    if (s.localIx dst).isNone then s.fibreCount l 9
    else if k = 2 then s.inboundBillet fibre body (body.drop 16)
    else match leAt body 16 2 with
    | 0x11 => s.pairArrives (s.peerOf (leAt body 4 2)) (body.drop 16)
    | 0x40 => s.clampArrives (leAt body 24 8)
    | _ => s

/-- A sync packet in the carriage field of a fabric frame (R293): the receiving edge group sets DEST from ENDPOINT and relays it. -/
def State.fabricCarriage (s : State) (l : Nat) (c : Nat) : State :=
  let addr : DWord := BitVec.ofNat 64 (bits c 127 64)
  match s.localIx (addr.toNat / 2 ^ 48) with
  | none => s
  | some ix =>
    if bits c 23 16 ≠ 1 ∨ !(decide (ix < 16) || ix == 48) then s
    else
      let k := farSeqKey (s.peerOf (bits addr.toNat 15 0)) (addr.toNat / 2 ^ 48)
      let dest := if ix < 16 then ix else 40 + bits addr.toNat 47 46
      s.copyArrives k (fibrePort (linkFibre l) + bits c 31 31) (bits c 15 0) (bits c 31 31)
        (fun s => s.protectedEffect dest 1 (BitVec.ofNat 32 (bits c 63 32)) addr)

/-- The sequenced part of a fabric frame (R291 to R296): a frame in order returns its credit and, unless the fabric activity is
halted, its packet is parsed. -/
def State.acceptFabric (s : State) (l : Nat) (frame : Bytes) : State :=
  if leAt frame 20 1 ≠ 1 then s
  else
    let r := s.acceptSeq l (leAt frame 16 2)
    if !r.2 then r.1
    else
      let vc := leAt frame 34 1 % 8
      let body := frame.drop 48
      let s := r.1.returnCredits l vc 1 0
      if s.fab.phase = .halted then s
      else match parseRouted (leAt frame 32 2) body with
      | .good => s.deliverRouted l vc body
      | .depth => (s.fibreCount l 4).dropRequest body stParseError
      | .length => (s.fibreCount l 5).dropRequest body stParseError
      | _ => (s.tally (.fabricDrop (linkFibre l)) 1).dropRequest body stParseError

/-- LINK_FRAME_RECEIVE (R219, R289, R291 to R296): a frame with a bad CRC is discarded whole. A management frame counts by the row of
its message (log entry 25). -/
def execLinkFrameReceive (l : LinkIx) (frame : Bytes) (s : State) : Host.Outcome State Fault Refusal :=
  if isFar l then .next s
  else if !linkShapeOk l frame then .fault .illFormed
  else if !linkCrcOk frame then .next (s.fibreCount l 3)
  else if (s.link l).state ≠ .inService then .next s
  else
    let s := s.linkHeader l frame
    let s := match retryOf l frame with | some e => s.resendLink l e | none => s
    let s := if s.fab.phase = .halted then s else s.fabricCarriage l (leAt frame 0 16)
    .next ((s.acceptFabric l frame).pumpAll l).drainProgress

/-! ### Fabric commands (R316, R317) -/

/-- Entries and entry size of the table ROUTE_LOAD_SHADOW names (R297). -/
def routeTable (t : Nat) : Nat × Nat := if t = 0 then (65536, 8) else if t = 1 then (16384, 16) else (1, 256)

/-- What a command reads from a source that no operand of its row carries: the module's own memory, or bytes that the read outside
it returned, which are open. -/
def State.readOpen (s : State) (addr n : Nat) : Option Bytes × State :=
  if s.rangeOwn addr n then
    (match s.readRange addr n with
     | some (b, false) => (some b, s.meetRange addr n)
     | _ => (none, s.meetRange addr n))
  else
    let r := s.drawBytes n
    (some r.1, r.2)

/-- ROUTE_LOAD_SHADOW (Table 11.12). -/
def execRouteLoadShadow (q : QueueIx) (slot : SlotIx) (s : State) : Host.Outcome State Fault Refusal :=
  .next (s.withCmd q slot 0x0602 (fun _ => true) (fun s a =>
    let t := sqArg a.entry 0
    let z := routeTable t
    let first := sqArg a.entry 2
    let n := sqArg a.entry 3 * z.2
    if z.1 < first + sqArg a.entry 3 then s.fail a stBadArg
    else match s.rangeCheck (s.queue a.q).turf (sqArg a.entry 1) n with
    | some st => s.fail a st
    | none =>
      let r := s.readOpen (sqArg a.entry 1) n
      match r.1 with
      | none => r.2.fail a stInternal
      | some b =>
        let f := r.2.fab
        let off := first * z.2
        let g := if t = 0 then { f with epShadow := memWrite f.epShadow off b }
          else if t = 1 then { f with routesShadow := memWrite f.routesShadow off b }
          else { f with headerShadow := memWrite f.headerShadow off b }
        ({ r.2 with fab := g } : State).done a 0))

/-- A channel's STATE (R317). -/
def linkStateCode : LinkState → Nat
  | .down => 0
  | .training => 1
  | .identify => 1
  | .inService => 2
  | .refused => 3

/-- A fibre record of FAB_STATUS (R317). -/
def State.fibreRecord (s : State) (f : Nat) : Bytes :=
  let a := s.link (fabLink f 0)
  let b := s.link (fabLink f 1)
  let st := if s.fibreUp f then 2 else if a.state = .refused ∨ b.state = .refused then 3
    else max (if a.state = .inService then 0 else linkStateCode a.state) (if b.state = .inService then 0 else linkStateCode b.state)
  natLe 1 st ++ natLe 1 (if s.fab.phase = .halted then 5 else if a.cause ≠ 0 then a.cause else if b.cause ≠ 0 then b.cause
      else (s.link (fabLink f 2)).cause)
    ++ natLe 1 (linkStateCode (s.link (fabLink f 2)).state) ++ natLe 1 (roleCode (s.leads f)) ++ natLe 4 (a.losses + b.losses)

/-- FAB_STATUS (R317). -/
def execFabStatus (q : QueueIx) (slot : SlotIx) (s : State) : Host.Outcome State Fault Refusal :=
  .next (s.withCmd q slot 0x0604 (fun _ => true) (fun s a =>
    if sqArg a.entry 1 < 4864 then s.fail a stBadArg
    else
      let bs := (List.range 96).flatMap s.fibreRecord ++ (List.range 1024).flatMap (fun m => natLe 4 (tget s.fab.pairs {} m).state)
      s.output a false (sqArg a.entry 0) bs 4864))

end Sys2Proof.Machine
end

