-- ==== Sys2Proof/Machine/Observe.lean ====
section
/-!
DEFINITION. Observability (20, R491 to R508): counter reads, sync traces, digests, Clamps and snapshot banks (R62), Ash reads; and
the accesses of the control path to ricks (R57 to R61).
-/
namespace Sys2Proof.Machine

/-! ### Counter reads (R495, R496) -/

/-- Every in-package port identifier (R145, Table 6.3). -/
def portIds : List Nat := (List.range 2816).filter (fun p => decide (p / 64 < 16) || decide (40 ≤ p / 64) || decide (p % 64 < 16))

/-- The units of a counter set (Table 20.1). -/
def setUnits (set : Nat) : List Nat :=
  match set with
  | 0 => List.range 4096
  | 1 => portIds
  | 2 => portIds
  | 3 => List.range 24
  | 4 => List.range 128
  | _ => List.range 4

/-- Counters per unit. -/
def setCounters (set : Nat) : Nat :=
  match set with | 0 => 12 | 1 => 7 | 2 => 10 | 3 => 9 | 4 => 11 | _ => 7

/-- The value of a counter of sets 1 to 5 in a table, with the frames every transmit port has launched. -/
def ctrIn (t : Tbl Nat) (launches set unit i : Nat) : Nat :=
  if set = 4 ∧ 96 ≤ unit ∧ 4 ≤ i then 0
  else if set = 1 ∧ i = 4 then launches - tget t 0 (ctrKey set unit i)
  else tget t 0 (ctrKey set unit i)

/-- The counters of a unit: running, or as the last Clamp latched them (R496). -/
def State.ctrValues (s : State) (clamped : Bool) (set unit : Nat) : Bytes :=
  if set = 0 then
    (if clamped then padTo 96 (slice (s.cell unit).latest.data 0x80 96)
     else (List.range 12).flatMap (fun i => natLe 8 (tget (s.cell unit).ctrs 0 i)))
  else
    let t := if clamped then s.obs.clampCtrs else s.obs.ctrs
    (List.range (setCounters set)).flatMap (fun i => natLe 8 (ctrIn t (if clamped then s.obs.clampLaunches else s.obs.launches) set unit i))

/-- The record of a unit (R496). -/
def State.ctrRec (s : State) (clamped : Bool) (set unit : Nat) : Bytes :=
  let turf := if set = 0 then (regionOwner s.turfMap (regionOf unit)).getD 0 else 0
  natLe 2 unit ++ natLe 1 turf ++ natLe 1 (if set = 0 then 0 else tget s.obs.lastXturf 0 (ctrKey set unit 0)) ++ natLe 4 0
    ++ natLe 8 s.now ++ s.ctrValues clamped set unit

/-- Clear a unit's counters (R494, R496). -/
def State.ctrClear (s : State) (set unit : Nat) : State :=
  if set = 0 then s.modCell unit (fun x => { x with ctrs := [] })
  else
    let t := (List.range (setCounters set)).foldl (fun (t : Tbl Nat) i =>
      tset t (ctrKey set unit i) (if set = 1 ∧ i = 4 then s.obs.launches else 0)) s.obs.ctrs
    { s with obs := { s.obs with ctrs := t } }

/-- The units a CTR_READ names, none when its range leaves the set (R496). -/
def ctrUnits (w : BitVec 512) : Option (List Nat) :=
  let set := sqArg w 1
  if 5 < set then none
  else
    let us := (setUnits set).dropWhile (fun u => decide (u < sqArg w 2))
    if us.head? = some (sqArg w 2) ∧ sqArg w 3 ≤ us.length then some (us.take (sqArg w 3)) else none

/-- A queue bound to a turf other than 0 may name only cells of its own regions (R328, R495). -/
def State.ctrDenied (s : State) (a : Accepted) (us : List Nat) : Bool :=
  let t := (s.queue a.q).turf
  t != 0 && (sqArg a.entry 1 != 0 || us.any (fun u => regionOwner s.turfMap (regionOf u) != some t))

/-- Modes 0, 1 and 3 of CTR_READ. -/
def State.ctrRead (s : State) (a : Accepted) (clamped clear : Bool) : State :=
  match ctrUnits a.entry with
  | none => s.fail a stBadArg
  | some us =>
    if s.ctrDenied a us then s.fail a stDenied
    else
      let bs := us.flatMap (s.ctrRec clamped (sqArg a.entry 1))
      match s.addrCheck a.q (s.queue a.q).turf ((sqArg a.entry 5).testBit 0) (sqArg a.entry 4) bs.length with
      | some st => s.fail a st
      | none =>
        let s := if clear then us.foldl (fun s u => s.ctrClear (sqArg a.entry 1) u) s else s
        State.finishOut a bs.length (s.writeOut a ((sqArg a.entry 5).testBit 0) (sqArg a.entry 4) bs)

/-- CTR_READ mode 0 (R496). -/
def execCtrReadRead (q : QueueIx) (slot : SlotIx) (s : State) : Host.Outcome State Fault Refusal :=
  .next (s.withCmd q slot 0x0700 (fun w => sqArg w 0 == 0) (fun s a => s.ctrRead a false false))

/-- CTR_READ mode 1 (R496). -/
def execCtrReadClear (q : QueueIx) (slot : SlotIx) (s : State) : Host.Outcome State Fault Refusal :=
  .next (s.withCmd q slot 0x0700 (fun w => sqArg w 0 == 1) (fun s a => s.ctrRead a false true))

/-- CTR_READ mode 3 (R496). -/
def execCtrReadClampCopy (q : QueueIx) (slot : SlotIx) (s : State) : Host.Outcome State Fault Refusal :=
  .next (s.withCmd q slot 0x0700 (fun w => sqArg w 0 == 3) (fun s a => s.ctrRead a true false))

/-- Write the CTR_CFGn of a cell and clear its PCTRs (R496, Table 20.2). -/
def programCell (b : Bytes) (x : CellSt) : CellSt :=
  { x with
    ctrCfg := (List.range 8).map (fun i => (i, BitVec.ofNat 64 (leAt b (8 * i) 8) &&& 0xFFFFFFFF00C0FF01))
    ctrs := x.ctrs.filter (fun c => decide (8 ≤ c.1)) }

/-- CTR_READ mode 2 (R496). -/
def execCtrReadProgram (q : QueueIx) (slot : SlotIx) (data : Option Bytes) (s : State) : Host.Outcome State Fault Refusal :=
  match s.acceptedAt q.val slot.val with
  | none => .next s
  | some a =>
    let host := (sqArg a.entry 5).testBit 0
    let len := 64 * sqArg a.entry 3
    if !s.readFits host (sqArg a.entry 4) len data then .fault .illFormed
    else .next (s.withCmd q slot 0x0700 (fun w => sqArg w 0 == 2) (fun s a =>
      match ctrUnits a.entry with
      | none => s.fail a stBadArg
      | some us =>
        if sqArg a.entry 1 ≠ 0 then s.fail a stBadArg
        else if s.ctrDenied a us then s.fail a stDenied
        else match s.addrCheck a.q (s.queue a.q).turf host (sqArg a.entry 4) len with
        | some st => s.fail a st
        | none =>
          let s := s.meetIn host (sqArg a.entry 4) len
          match s.readIn host (sqArg a.entry 4) len data with
          | none => s.fail a stInternal
          | some b =>
            let s := us.zipIdx.foldl (fun s u => s.modCell u.1 (programCell (slice b (64 * u.2) 64))) s
            s.done a us.length))

/-! ### Sync trace (R497, R498) -/

/-- The site and offset of a trace buffer, none when the buffer leaves its site (Table 20.4). -/
def State.traceSite (s : State) (addr len : Nat) : Option (Nat × Nat) :=
  match s.localIx (addr / 2 ^ 48) with
  | none => none
  | some ix => if 16 ≤ ix ∧ ix < 40 ∧ addr % 2 ^ 48 + len ≤ 2 ^ 36 then some (ix - 16, addr % 2 ^ 48) else none

/-- TRACE_START (R495, R497, Table 20.4). -/
def execTraceStart (q : QueueIx) (slot : SlotIx) (s : State) : Host.Outcome State Fault Refusal :=
  .next (s.withCmd q slot 0x0701 (fun _ => true) (fun s a =>
    let t := sqTurf a.entry
    let addr := sqArg a.entry 0
    let len := sqArg a.entry 1
    if addr % 4096 ≠ 0 ∨ len % 4096 ≠ 0 ∨ len < 65536 ∨ 2 ^ 32 < len then s.fail a stBadArg
    else match s.traceSite addr len with
    | none => s.fail a stBadArg
    | some (m, off) =>
      if (List.range (ceilDiv (off % 2 ^ 30 + len) (2 ^ 30))).any (fun j =>
          !mayReach (s.queue a.q).turf (siteOwner s.turfMap m (off / 2 ^ 30 + j)) || s.retainedAt m ((off / 2 ^ 30 + j) * 2 ^ 30)) then s.fail a stDenied
      else if (tfind s.obs.traces t).isSome then s.fail a stBusy
      else
        let x : TraceSt := {
          buffer := BitVec.ofNat 64 addr, length := len, select := sqArg a.entry 2, wrap := (sqArg a.entry 3).testBit 0, startGtc := s.now }
        ({ s with obs := { s.obs with traces := tset s.obs.traces t x } } : State).done a 0))

/-- The header of a trace buffer (R498). -/
def traceHeader (x : TraceSt) (stop : Nat) : Bytes :=
  padTo 64 (natLe 4 0x5254534B ++ natLe 2 1 ++ natLe 1 (b2n x.wrapped) ++ [0] ++ natLe 8 x.startGtc ++ natLe 8 stop ++ natLe 8 x.written
    ++ natLe 8 x.dropped ++ natLe 8 x.next)

/-- TRACE_STOP (R498, Table 20.4). -/
def execTraceStop (q : QueueIx) (slot : SlotIx) (s : State) : Host.Outcome State Fault Refusal :=
  .next (s.withCmd q slot 0x0702 (fun _ => true) (fun s a =>
    let t := sqTurf a.entry
    match tfind s.obs.traces t with
    | none => s.fail a stBadArg
    | some x =>
      let s := { s with obs := { s.obs with traces := tdel s.obs.traces t } }
      let s := match s.resolve x.buffer.toNat with | some (.site m off) => s.storeSite m off (traceHeader x s.now) false | _ => s
      s.done a (x.written % 2 ^ 32 + x.dropped % 2 ^ 32 * 2 ^ 32)))

/-! ### Digests (R499 to R501) -/

/-- DIGEST_ARM mode 0 (R499). -/
def execDigestArmArm (q : QueueIx) (slot : SlotIx) (s : State) : Host.Outcome State Fault Refusal :=
  .next (s.withCmd q slot 0x0703 (fun w => sqArg w 0 == 0) (fun s a =>
    let t := sqTurf a.entry
    let l := tget s.obs.digests [] t
    let v := sqArg a.entry 1
    if (s.batch t).isSome then s.fail a stBusy
    else if 16 ≤ l.length then s.fail a stNoResource
    else
      let d : DigestSt := {
        operator := BitVec.ofNat 16 v, layer := BitVec.ofNat 16 (v / 2 ^ 16), layerAny := v.testBit 32, anchor := signed 8 (sqArg a.entry 2) }
      ({ s with obs := { s.obs with digests := tset s.obs.digests t (l ++ [d]) } } : State).done a l.length))

/-- DIGEST_ARM mode 1 (R499). -/
def execDigestArmDisarm (q : QueueIx) (slot : SlotIx) (s : State) : Host.Outcome State Fault Refusal :=
  .next (s.withCmd q slot 0x0703 (fun w => sqArg w 0 == 1) (fun s a =>
    let t := sqTurf a.entry
    if (s.batch t).isSome then s.fail a stBusy
    else ({ s with obs := { s.obs with digests := tdel s.obs.digests t } } : State).done a 0))

/-- Join two running figures. -/
def pickBoth (wantMax : Bool) (a b : Option Word) : Option Word :=
  match b with | none => a | some w => digestPick wantMax a w

/-- The figures of a digest over all its cells, in ascending index (R500, R501). -/
def DigestSt.joined (d : DigestSt) : DigestAcc :=
  d.done.foldl (fun (x : DigestAcc) c =>
    let r := ledgerAdd x.sum c.2.sum.toInt
    { x with
      elements := x.elements + c.2.elements, min := pickBoth false x.min c.2.min, max := pickBoth true x.max c.2.max
      absmax := pickBoth true x.absmax c.2.absmax, sum := r.1, range := x.range || c.2.range || r.2, zeros := x.zeros + c.2.zeros
      nans := x.nans + c.2.nans, infs := x.infs + c.2.infs }) {}

/-- A digest record over the cells of a turf (Table 20.6). -/
def DigestSt.record (d : DigestSt) (cells : List Nat) : Bytes :=
  let j := d.joined
  let crc := (cells.flatMap (fun c => natLe 2 c ++ natLe 8 (tget d.done {} c).crc.toNat)).foldl crc64Byte 0
  let w := fun (o : Option Word) => natLe 4 (o.getD 0x7FC00000).toNat
  natLe 2 d.operator.toNat ++ natLe 2 d.layer.toNat ++ natLe 1 (b2n d.layerAny + b2n j.range * 2 + b2n (decide (j.elements = 0)) * 4)
    ++ natLe 1 (wrap 8 d.anchor) ++ natLe 2 0 ++ natLe 8 crc ++ natLe 8 j.elements ++ w j.min ++ w j.max ++ w j.absmax ++ natLe 4 0
    ++ natLe 16 j.sum.toNat ++ natLe 8 j.zeros ++ natLe 8 j.nans ++ natLe 8 j.infs

/-- DIGEST_ARM mode 2 (Table 20.6). -/
def execDigestArmRead (q : QueueIx) (slot : SlotIx) (s : State) : Host.Outcome State Fault Refusal :=
  .next (s.withCmd q slot 0x0703 (fun w => sqArg w 0 == 2) (fun s a =>
    let t := sqTurf a.entry
    let l := tget s.obs.digests [] t
    let cells := (s.turfRegions t).flatMap regionCells
    let sorted := cells.foldl setIns []
    s.output a ((sqArg a.entry 4).testBit 0) (sqArg a.entry 3) (l.flatMap (fun d => d.record sorted)) l.length))

/-! ### Clamp and snapshot banks (R62, R502 to R506) -/

/-- SNAP_CTRL.ARM (Table 2.14). -/
def armBank (x : CellSt) : CellSt :=
  { x with first := { x.first with valid := false }, latest := { x.latest with valid := false }, clamps := 0, missed := 0 }

/-- The armed GTC comparator announces its count (Table 20.7); it then disarms. -/
def State.compareDue (s : State) : State :=
  match s.obs.clampCompare with
  | some c => if s.obs.clampMask.testBit 1 ∧ c ≤ s.now then
      ({ s with obs := { s.obs with clampCompare := none } } : State).announceClamp c else s
  | none => s

/-- CLAMP (R502, R503): at the earliest announced count every cell that is not in S4 and every counter set latches. -/
def execClamp (now : Nat) (s : State) : Host.Outcome State Fault Refusal :=
  let s := (s.at_ now).compareDue
  match s.obs.clampAt.find? (fun c => decide (c ≤ s.now)) with
  | none => .next s
  | some c => .next (s.latchClamp c)

/-- CLAMP_IN_EDGE (Table 20.7). -/
def execClampInEdge (now : Nat) (s : State) : Host.Outcome State Fault Refusal :=
  let s := s.at_ now
  if s.obs.clampMask.testBit 0 then .next (s.announceClamp (s.now + 1024)) else .next s

/-- SNAP_ARM (R62). -/
def execSnapArm (c : CellIx) (s : State) : Host.Outcome State Fault Refusal :=
  if s.cellAwake c then .next (s.modCell c armBank) else .next s

/-- CLAMP_ARM comes from turf 0 only (R495). -/
def State.clampDenied (s : State) (a : Accepted) : Bool := decide ((s.queue a.q).turf ≠ 0)

/-- The count in force for a Clamp that is announced for a count: the earlier one it merges into, or its own (R503). -/
def State.clampUsed (s : State) (count : Nat) : Nat :=
  let near := fun (a : Nat) => decide (a ≤ count) && decide (count ≤ a + 2000)
  match s.obs.clampAt.find? near with
  | some a => a
  | none => match s.obs.lastClampAt with | some a => if near a then a else count | none => count

/-- CLAMP_ARM mode 0 (R506). -/
def execClampArmSet (q : QueueIx) (slot : SlotIx) (s : State) : Host.Outcome State Fault Refusal :=
  .next (s.withCmd q slot 0x0704 (fun w => sqArg w 0 == 0) (fun s a =>
    let mask := sqArg a.entry 1
    if s.clampDenied a then s.fail a stDenied
    else if 16 ≤ mask ∨ (mask.testBit 1 ∧ sqArg a.entry 2 ≤ s.now) then s.fail a stBadArg
    else
      let s := { s with
        cells := tmap s.cells (fun _ x => armBank x)
        obs := { s.obs with
          clampMask := mask, clampCompare := if mask.testBit 1 then some (sqArg a.entry 2) else none, clampCtrs := [], clampLaunches := 0 } }
      s.done a 0))

/-- CLAMP_ARM mode 1 (R506). -/
def execClampArmClamp (q : QueueIx) (slot : SlotIx) (s : State) : Host.Outcome State Fault Refusal :=
  .next (s.withCmd q slot 0x0704 (fun w => sqArg w 0 == 1) (fun s a =>
    let c := if sqArg a.entry 2 = 0 then s.now + 1024 else sqArg a.entry 2
    if s.clampDenied a then s.fail a stDenied
    else if c < s.now + 1024 then s.fail a stBadArg
    else (s.announceClamp c).done a (s.clampUsed c)))

/-- CLAMP_ARM mode 2 (R504, R506). -/
def execClampArmFabric (q : QueueIx) (slot : SlotIx) (s : State) : Host.Outcome State Fault Refusal :=
  .next (s.withCmd q slot 0x0704 (fun w => sqArg w 0 == 2) (fun s a =>
    let c := sqArg a.entry 2
    if s.clampDenied a then s.fail a stDenied
    else if c < s.now + 20000 then s.fail a stBadArg
    else
      let n := s.clampUsed c
      let peers := (s.fab.pairs.filter (fun p => p.2.state != 0)).map (fun p => p.1)
      let msg := padTo 512 (natLe 2 0x40 ++ natLe 6 0 ++ natLe 8 c ++ natLe 8 Config.uid.toNat)
      (peers.foldl (fun s m => s.sendMessage m msg) (s.announceClamp c)).done a n))

/-! ### Ash records (R495, R507, R508) -/

/-- ASH_READ (Table 20.4). -/
def execAshRead (q : QueueIx) (slot : SlotIx) (s : State) : Host.Outcome State Fault Refusal :=
  .next (s.withCmd q slot 0x0705 (fun _ => true) (fun s a =>
    let t := (s.queue a.q).turf
    let mine := fun (r : AshRec) => t == 0 || (r.turf == t && r.trigger != 1)
    let id := sqArg a.entry 0
    match (if id = 0 then (s.obs.ash.filter mine).getLast? else s.obs.ash.find? (fun r => r.id == id)) with
    | none => s.fail a stBadArg
    | some r =>
      let off := sqArg a.entry 2
      let len := sqArg a.entry 3
      if !mine r then s.fail a stDenied
      else if r.data.length < off + len then s.fail a stBadArg
      else match s.addrCheck a.q (s.queue a.q).turf ((sqArg a.entry 4).testBit 0) (sqArg a.entry 1) len with
      | some st => s.fail a st
      | none =>
        let o := s.writeOut a ((sqArg a.entry 4).testBit 0) (sqArg a.entry 1) (slice r.data off len)
        let s := if (sqArg a.entry 4).testBit 1 && o.2 then
            { o.1 with obs := { o.1.obs with ash := o.1.obs.ash.map (fun (x : AshRec) => if x.id = r.id then { x with pinned := false } else x) } }
          else o.1
        State.finishOut a (len + r.id * 2 ^ 32) (s, o.2)))

/-! ### Ricks from the control path (R57, R60, R61) -/

/-- The rick a control access names, when the access reaches it: a cell's while its Collier does not run and its region is awake. -/
def State.rickAt (s : State) (r : RickRef) : Option Rick :=
  match r with
  | .cell c => if s.cellAwake c && !(s.cell c).running then some (s.cell c).rick else none
  | .core c => some (s.sc c).rick
  | .queue q => if (s.queue q).state = .closed then none else some (s.queue q).notices

/-- Put a rick back. -/
def State.setRick (s : State) (r : RickRef) (k : Rick) : State :=
  match r with
  | .cell c => s.modCell c (fun x => { x with rick := k })
  | .core c => { s with firm := { s.firm with scs := tset s.firm.scs c { s.sc c with rick := k } } }
  | .queue q => s.modQueue q (fun x => { x with notices := k })

/-- RICK_DATA_READ (R57). -/
def execRickDataRead (r : RickRef) (s : State) : Host.Outcome State Fault Refusal :=
  match s.rickAt r with
  | none => .next s
  | some k => .next ((s.setRick r k.read.2).emit (.rickWord k.read.1))

/-- DROP_ITEM (R57). -/
def execDropItem (r : RickRef) (s : State) : Host.Outcome State Fault Refusal :=
  match s.rickAt r with
  | none => .next s
  | some k => .next (s.setRick r k.drop)

/-- FLUSH (R60). -/
def execFlush (r : RickRef) (s : State) : Host.Outcome State Fault Refusal :=
  match s.rickAt r with
  | none => .next s
  | some k => .next (s.setRick r k.flush)

end Sys2Proof.Machine
end

