-- ==== Sys2Proof/Machine/Firmware.lean ====
section
/-!
DEFINITION. Firmware trust and the management complex (14): images and their checks, staging, activation and attestation, the
firmware reset, the call gate, and the voting management cores.
-/
namespace Sys2Proof.Machine

/-! ### Signed images (R379 to R383) -/

/-- The header of an image (Table 14.5). -/
def fwHeader (b : Bytes) : FwImage :=
  { kind := leAt b 4 1, key := leAt b 5 1, revokeLower := (leAt b 6 1).testBit 0, release := leAt b 8 2, svn := leAt b 10 2
    peerMin := leAt b 12 2, length := leAt b 16 4, bodyHash := slice b 32 48 }

/-- No reserved value and no nonzero reserved byte in a header of the wanted KIND (R379). -/
def fwHeaderOk (b : Bytes) (kind : Nat) : Bool :=
  leAt b 0 4 == 0x4857434B && leAt b 4 1 == kind && decide (leAt b 5 1 < 4) && decide (leAt b 6 1 < (if kind = 1 then 2 else 1))
  && zeroAt b 7 1 && zeroAt b 14 2 && decide (leAt b 16 4 ≤ (if kind = 1 then 229376 else 33554432)) && zeroAt b 20 12
  && zeroAt b 272 240

/-- The body head of a Cordwood image is valid (R380, Table 14.8). -/
def bodyHeadOk (body : Bytes) : Bool :=
  let off := leAt body 8 4
  leAt body 0 4 == 0x4442434B && zeroAt body 24 40 && decide (leAt body 4 4 < body.length) && off % 64 == 0 && decide (64 ≤ off)
  && leAt body 12 4 == 16384 && decide (off + 16384 ≤ body.length)
  && leAt body 16 8 == (slice body off 16384).foldl crc64Byte 0

/-- The steward section of a Cordwood body. -/
def stewardOf (body : Bytes) : Bytes := slice body (leAt body 8 4) 16384

/-- The digest of a byte string as 48 bytes. -/
def sha384Bytes (b : Bytes) : Bytes := natLe 48 (Config.sha384 b).toNat

/-- The anti-rollback floor of a KIND (R382). -/
def State.floorOf (s : State) (kind : Nat) : Nat := if kind = 1 then bits s.firm.floors.toNat 31 16 else bits s.firm.floors.toNat 15 0

/-- Whether PEER_MIN is met: no release of the other firmware is in force before it starts (R381, log entry 31). -/
def peerMet (peerMin : Nat) (other : Option FwImage) : Bool := match other with | none => true | some o => decide (peerMin ≤ o.release)

/-- Why the bytes of an image are not valid (R381), as CAUSE of Table 14.7; 0 for a header that R379 does not allow, which the table
gives no cause. -/
def State.fwFault (s : State) (kind : Nat) (b : Bytes) (other : Option FwImage) : Option Nat :=
  let h := fwHeader b
  let body := slice b 512 h.length
  if b.length < 512 then some 6
  else if !fwHeaderOk b kind then some 0
  else if b.length < 512 + h.length then some 6
  else if kind = 2 ∧ !bodyHeadOk body then some 7
  else if Config.sha384 (slice b 176 96) ≠ Config.keyHash h.key ∨ s.firm.revoked.contains h.key then some 1
  else if !Config.ecdsaOk (slice b 176 96) (Config.sha384 (slice b 0 80)) (slice b 80 96) then some 2
  else if sha384Bytes body ≠ h.bodyHash then some 3
  else if h.svn < s.floorOf kind then some 4
  else if !peerMet h.peerMin other then some 5
  else none

/-- The image that valid bytes hold. -/
def fwImageOf (b : Bytes) : FwImage :=
  let h := fwHeader b
  if h.kind = 2 then { h with steward := stewardOf (slice b 512 h.length) } else h

/-- The cause reported for a fault: where Table 14.7 has none its value is free (log entry 1). -/
def State.fwCause (s : State) (c : Nat) : Nat × State :=
  if c = 0 then
    let d := s.draw
    (d.1.toNat % 256, d.2)
  else (c, s)

/-- Raise a floor; both of its copies follow (R382, R384, R385). -/
def State.raiseFloor (s : State) (kind svn : Nat) : State :=
  let v := max (s.floorOf kind) svn
  let f := BitVec.ofNat 32 (if kind = 1 then s.floorOf 2 + v % 65536 * 2 ^ 16 else v % 65536 + s.floorOf 1 * 2 ^ 16)
  let g := if s.firm.setInForceB then { s.firm with setB := { s.firm.setB with floors := f } }
    else { s.firm with setA := { s.firm.setA with floors := f } }
  { s with firm := { g with floors := f }, bu := { s.bu with monotonic := f } }

/-! ### Service cores and the firmware reset (R373 to R376, R351) -/

/-- Spare cores that pass and stand for no other. -/
def State.scSpares (s : State) : List Nat :=
  [4, 9, 14, 19].filter (fun n => s.scUsable n && !(List.range 16).any (fun i => s.scOf i == n))

/-- Heartwood maps a spare in the place of every logical core whose physical core fails (R373). -/
def State.mapSpares (s : State) : State :=
  (List.range 16).foldl (fun s i =>
    if s.scUsable (s.scOf i) then s
    else match s.scSpares with
      | [] => s
      | n :: _ => { s with firm := { s.firm with scMap := tset s.firm.scMap i n } }) s

/-- Remove a physical service core from use: defect list and spare (R374, R376, R485). -/
def State.failCore (s : State) (n origin : Nat) : State :=
  if (s.sc n).failed then s
  else
    let used := (List.range 16).any (fun i => s.scOf i == n)
    let spare := !s.scSpares.isEmpty
    let x := s.sc n
    let s := { s with firm := { s.firm with scs := tset s.firm.scs n { x with failed := true } } }
    let s := if used && spare then s.takeSpare 0x0D 0 n origin else s
    (s.replaced 0x0D origin (if !used then 0 else if spare then 1 else 2) n 0 2).mapSpares

/-- The place of no command: what a firmware reset leaves of the commands it ends. -/
def noCmd : Nat × Nat := (8192, 0)

/-- Every part that kept a command forgets it, since a firmware reset has ended it (R351, R366). -/
def State.forgetCmds (s : State) : State :=
  let f := s.fab
  let rl := tmap f.roles (fun _ x => { x with cmd := none })
  { s with
    batches := tmap s.batches (fun _ b => { b with q := 8192, slot := 0, abortCmd := none })
    cfg := tmap s.cfg (fun _ c => { c with announced := c.announced.map (fun a => (a.1, a.2.1, none)) })
    ces := tmap s.ces (fun _ c => { c with queue := c.queue.map (fun d => { d with cmd := none }) })
    ops := s.ops.map (fun o => if o.purpose = 6 then { o with purpose := 5, extra := 0 } else o)
    fab := { f with joinCmd := none, roles := rl }
    holds := { s.holds with
      tunes := s.holds.tunes.map (fun h => (h.1, h.2.1, 8192, 0)), tuning := s.holds.tuning.map (fun h => (h.1, h.2.1, 8192, 0))
      swapAt := none, swapEnd := if s.holds.swapOn then some (s.now + 2000) else none }
    tuneGaps := s.tuneGaps.map (fun g => (g.1, g.2.1, g.2.2.1, 8192, 0))
    drain := none
    queues := tmap s.queues (fun _ x => { x with closeCmd := none }) }

/-- Images whose load had not completed are released (R351, R515). -/
def State.dropLoads (s : State) : State :=
  (s.images.filter (fun p => !p.2.ready)).foldl (fun s p => s.releaseImage p.1) s

/-- What the restarted Cordwood does with the commands in its queues (R351): the recorded one NOT_COMMITTED, every other INTERNAL. -/
def State.endCommands (s : State) (except : Option (Nat × Nat)) : State :=
  let l := s.accepted.filter (fun a => some (a.q, a.slot) ≠ except)
  let s := l.foldl (fun (s : State) a =>
    if s.bu.record = some (sqOpcode a.entry, a.q, sqTag a.entry) then s.completeCore a stNotCommitted 0 0
    else s.completeCore a stInternal 0 0) s
  s.queues.foldl (fun s p => s.settleQueue p.1) s

/-- Count the assertion of a reset scope in the backup domain, saturating (R397). -/
def State.countReset (s : State) (scope : Nat) : State :=
  { s with bu := { s.bu with counts := tset s.bu.counts scope (min 0xFFFFFFFF (tget s.bu.counts 0 scope + 1)) } }

/-- A firmware reset (R366, R374 to R376, R351, R476): running batches stop, bank writes are abandoned, Cordwood restarts on the
cores that serve and ends the commands accepted before; with fewer than eight it does not start, and what it knew of them is lost.
`except` names the FW_ACTIVATE that caused it (R389). -/
def State.fwReset (s : State) (except : Option (Nat × Nat)) : State :=
  let s := s.countReset 4
  let s := s.batches.foldl (fun s p => s.stopBatch p.1 stInternal 0 false) s
  let s : State := { s with firm := { s.firm with write := none, activating := none } }
  let up := decide (8 ≤ s.scServing.length) && s.firm.runningCw.isSome
  let s := s.forgetCmds.dropLoads
  let s := { s with bu := { s.bu with cordwoodUp := up } }
  let s := if up then s.endCommands except else { s with accepted := s.accepted.filter (fun a => some (a.q, a.slot) = except) }
  s.settleAll

/-- FIRMWARE_RESET (R374): missed heartbeats or a failed self-check restart Cordwood; a failed core is replaced first. -/
def execFirmwareReset (failed : Option ScIx) (s : State) : Host.Outcome State Fault Refusal :=
  if s.firm.runningCw.isNone || s.ctlHeld then .next s
  else match failed with
  | none => .next (s.fwReset none)
  | some n => .next ((s.failCore (s.scOf n) 2).fwReset none)

/-! ### Staging, attestation, activation (R386 to R390) -/

/-- A firmware command that an activation in progress turns away (R390): it completes with BUSY whether or not the record is free. -/
def State.fwBusy (s : State) (q slot opcode : Nat) (sel : BitVec 512 → Bool) : Option State :=
  match s.acceptedAt q slot with
  | none => none
  | some a =>
    if s.firm.activating.isSome && !a.started && sqOpcode a.entry == opcode && sel a.entry
    then some (s.fail a stBusy) else none

/-- FW_UPDATE_STAGE mode 0 (R387): bytes into the staging half of the code store. -/
def execFwUpdateStageWrite (q : QueueIx) (slot : SlotIx) (data : Option Bytes) (s : State) : Host.Outcome State Fault Refusal :=
  match s.acceptedAt q.val slot.val, s.fwBusy q slot 0x0900 (fun w => sqArg w 0 == 0) with
  | none, _ => .next s
  | _, some t => .next t
  | some a, none =>
    let host := (sqArg a.entry 4).testBit 0
    if !s.readFits host (sqArg a.entry 1) (sqArg a.entry 2) data then .fault .illFormed
    else .next (s.withCmd q slot 0x0900 (fun w => sqArg w 0 == 0) (fun s a =>
      let addr := sqArg a.entry 1
      let len := sqArg a.entry 2
      let off := sqArg a.entry 3
      if len = 0 ∨ 4 * 2 ^ 20 < len ∨ 36 * 2 ^ 20 < len + off then s.fail a stBadArg
      else match s.addrCheck a.q (s.queue a.q).turf host addr len with
      | some st => s.fail a st
      | none =>
        let s := s.meetIn host addr len
        match s.readIn host addr len data with
        | none => s.fail a stInternal
        | some b =>
          let top := max s.firm.stagedTop (off + len)
          let s := { s with firm := { s.firm with staged := memWrite s.firm.staged off b, stagedTop := top } }
          s.done a top))

/-- FW_UPDATE_STAGE mode 1 (R387): the staged image is discarded. -/
def execFwUpdateStageDiscard (q : QueueIx) (slot : SlotIx) (s : State) : Host.Outcome State Fault Refusal :=
  match s.fwBusy q slot 0x0900 (fun w => sqArg w 0 == 1) with
  | some t => .next t
  | none => .next (s.withCmd q slot 0x0900 (fun w => sqArg w 0 == 1) (fun s a =>
      ({ s with firm := { s.firm with staged := [], stagedTop := 0 } } : State).done a 0))

/-- The bytes of a settings bank (Table 18.7). -/
def setBankBytes (b : SetBank) : Bytes :=
  let set := fun k => memRead (tget b.sets [] k) 0 (setSize k)
  let head := natLe 4 0x4254534B ++ natLe 4 b.seq ++ natLe 4 0x1200 ++ List.replicate 52 0
  let body := padTo 0x1200 (padTo 0xC0 (head ++ set 1) ++ padTo 0x80 (set 2) ++ set 3 ++ set 9)
  padTo 0x3FFC0 body ++ natLe 4 0x4D43534B ++ natLe 4 b.seq ++ natLe 8 (body.foldl crc64Byte 0) ++ List.replicate 48 0

/-- Management cores in a role. -/
def State.mcsIn (s : State) (r : McRole) : List Nat := (List.range 4).filter (fun m => (s.mc m).role == r)

/-- Heartwood runs in duplex (R369, R371). -/
def State.duplex (s : State) : Bool := (s.mcsIn .running).length == 2

/-- A test mode (R401). -/
def State.testMode (s : State) : Bool := decide (8 ≤ s.bu.cfgSel) && decide (s.bu.cfgSel ≤ 11)

/-- IDCODE of the JTAG port (R527): version 0x0, part number 0x0A09, the manufacturer, and a 1. -/
def jtagIdcode : Word := BitVec.ofNat 32 (0x0A09 * 2 ^ 12 + Config.jedecMaker.toNat * 2 + 1)

/-- Whether JTAG instructions other than BYPASS, IDCODE, SAMPLE/PRELOAD and EXTEST are active (R527). -/
def State.jtagOpen (s : State) : Bool := s.testMode

/-- The measurement report (Table 14.6); with no valid settings bank its digest is a free value (log entry 1). -/
def State.attestation (s : State) (nonce : Bytes) : Bytes × State :=
  let hash := fun (o : Option FwImage) => match o with | some i => padTo 48 i.bodyHash | none => List.replicate 48 0
  let st := b2n s.jtagOpen + b2n s.testMode * 2 + b2n s.firm.runningBankB * 4 + b2n s.duplex * 8
  let dg : Bytes × State := match s.bankInForce with
    | some b => (sha384Bytes (setBankBytes b), s)
    | none => s.drawBytes 48
  let b := natLe 4 0x5241574B ++ natLe 2 1 ++ natLe 2 0 ++ natLe 8 Config.uid.toNat ++ natLe 4 s.bu.bootEpoch ++ natLe 4 s.firm.floors.toNat
    ++ natLe 4 (fwRelease s.firm.runningCw + fwRelease s.firm.runningHw * 2 ^ 16) ++ natLe 1 s.bu.cfgSel ++ natLe 1 st ++ natLe 2 0
    ++ natLe 8 s.now ++ padTo 48 nonce ++ natLe 48 Config.romHash.toNat ++ hash s.firm.runningHw ++ hash s.firm.runningCw ++ dg.1
    ++ sha384Bytes (memRead s.turfMap 0 (setSize 3)) ++ List.replicate 88 0
  (b ++ (List.range 96).map (Config.deviceSig b), dg.2)

/-- FW_UPDATE_STAGE mode 2 (R386): the signed measurement report; `data` is the nonce where it is not in the module's own memory. -/
def execFwUpdateStageAttest (q : QueueIx) (slot : SlotIx) (data : Option Bytes) (s : State) : Host.Outcome State Fault Refusal :=
  match s.acceptedAt q.val slot.val with
  | none => .next s
  | some a =>
    let host := (sqArg a.entry 4).testBit 0
    if !s.readFits host (sqArg a.entry 3) 48 data then .fault .illFormed
    else .next (s.withCmd q slot 0x0900 (fun w => sqArg w 0 == 2) (fun s a =>
      match s.addrCheck a.q (s.queue a.q).turf host (sqArg a.entry 3) 48 with
      | some st => s.fail a st
      | none =>
        let s := s.meetIn host (sqArg a.entry 3) 48
        match s.readIn host (sqArg a.entry 3) 48 data with
        | none => s.fail a stInternal
        | some n =>
          let r := s.attestation n
          r.2.output a host (sqArg a.entry 1) r.1 0))

/-- FW_UPDATE_STAGE mode 3 (R386): the device certificate. -/
def execFwUpdateStageCertificate (q : QueueIx) (slot : SlotIx) (s : State) : Host.Outcome State Fault Refusal :=
  .next (s.withCmd q slot 0x0900 (fun w => sqArg w 0 == 3) (fun s a =>
    if sqArg a.entry 2 < 4096 then s.fail a stBadArg
    else s.output a ((sqArg a.entry 4).testBit 0) (sqArg a.entry 1) ((List.range Config.certLen.toNat).map Config.certByte)
      Config.certLen.toNat))

/-- The staged bytes. -/
def State.stagedBytes (s : State) : Bytes := memRead s.firm.staged 0 s.firm.stagedTop

/-- Complete an activation whose image is not valid (Table 14.7). -/
def State.refuseImage (s : State) (a : Accepted) (c : Nat) : State :=
  let r := s.fwCause c
  r.2.complete a (if c = 4 ∨ c = 5 then stVersionMismatch else stDenied) r.1 0

/-- FW_ACTIVATE KIND 1 (R387, R388): a valid staged patch is written to the bank that does not run, whose commit record is
invalidated first (R473). -/
def execFwActivateHeartwood (q : QueueIx) (slot : SlotIx) (s : State) : Host.Outcome State Fault Refusal :=
  match s.fwBusy q slot 0x0901 (fun w => sqArg w 0 == 1) with
  | some t => .next t
  | none => .next (s.withCmd q slot 0x0901 (fun w => sqArg w 0 == 1) (fun s a =>
      if !confirms a.entry (sqArg a.entry 1) then s.fail a stBadArg
      else if s.firm.write.isSome then s.fail a stBusy
      else match s.fwFault 1 s.stagedBytes s.firm.runningCw with
      | some c => s.refuseImage a c
      | none =>
        let toB := !s.firm.runningBankB
        let w : BankWrite := { heartwood := true, bankB := toB, image := some (fwImageOf s.stagedBytes), cmd := some (a.q, a.slot) }
        let f := if toB then { s.firm with bankB := { s.firm.bankB with valid := false } }
          else { s.firm with bankA := { s.firm.bankA with valid := false } }
        { s with firm := { f with write := some w, activating := some (a.q, a.slot) } }))

/-- A valid Cordwood image in the staging half becomes the running half (R385, R389). -/
def State.runStaged (s : State) : State :=
  let img := fwImageOf s.stagedBytes
  let f := { s.firm with runningCw := some img, staged := s.firm.runHalf, runHalf := s.firm.staged, stagedTop := 0 }
  ({ s with firm := f } : State).raiseFloor 2 img.svn

/-- The staged Cordwood image takes over: a valid one becomes the running half, and a firmware reset starts it; the new Cordwood completes
the command (R389). -/
def State.activateStaged (s : State) (a : Accepted) : State :=
  match s.fwFault 2 s.stagedBytes s.firm.runningHw with
  | some c => ({ s with firm := { s.firm with activating := none } } : State).refuseImage a c
  | none =>
    let s := s.runStaged.fwReset (some (a.q, a.slot))
    if s.bu.cordwoodUp then s.done a (fwRelease s.firm.runningCw) else s

/-- Whether an activation of Cordwood still waits: for other commands that are accepted, for at most 10 ms (R389). -/
def State.activationWaits (s : State) (a : Accepted) (since : Nat) : Bool :=
  s.accepted.any (fun b => !(b.q == a.q && b.slot == a.slot)) && decide (s.now < since + 10000000)

/-- FW_ACTIVATE KIND 2 (R387, R389): with no batch running Cordwood stops fetching and waits for the commands it has accepted; the command
performed again goes on with the wait. -/
def execFwActivateCordwood (q : QueueIx) (slot : SlotIx) (s : State) : Host.Outcome State Fault Refusal :=
  match s.fwBusy q slot 0x0901 (fun w => sqArg w 0 == 2) with
  | some t => .next t
  | none =>
    if s.fetchStopped then
      match s.acceptedAt q.val slot.val with
      | none => .next s
      | some a =>
        if s.firm.activating ≠ some (a.q, a.slot) ∨ s.activationWaits a a.aux then .next s else .next (s.activateStaged a)
    else .next (s.withCmd q slot 0x0901 (fun w => sqArg w 0 == 2) (fun s a =>
      if !confirms a.entry (sqArg a.entry 1) then s.fail a stBadArg
      else if !s.batches.isEmpty then s.fail a stBusy
      else if s.activationWaits a s.now then
        let s := s.modAccepted a.q a.slot (fun b => { b with aux := s.now })
        { s with firm := { s.firm with activating := some (a.q, a.slot) } }
      else s.activateStaged a))

/-! ### Call gate (R377, R378, Tables 14.3, 14.4) -/

/-- Bytes of a gate request. -/
def gateField (r : BitVec 512) (off n : Nat) : Nat := fld r off n

/-- A request with a reserved value or nonzero reserved bytes (R377); SLOT is an index of the queue's ring, and EPOCH is 0 for the services
that involve no lease. -/
def State.gateBad (s : State) (r : BitVec 512) : Bool :=
  decide (gateField r 0 2 = 0 ∨ 9 < gateField r 0 2) || decide (63 < gateField r 2 1) || gateField r 3 1 != 0
  || decide (8191 < gateField r 4 2) || decide ((s.queue (gateField r 4 2)).sqSize ≤ gateField r 6 2)
  || (gateField r 12 4 != 0 && gateField r 0 2 != 3 && gateField r 0 2 != 8)

/-- The opcodes of the commands that cause the requests of a re-read service (Table 14.4). -/
def gateOps (service : Nat) : List Nat :=
  match service with
  | 1 => [0x0401, 0x0402] | 2 => [0x0403] | 6 => [0x0801] | 7 => [0x0900, 0x0901] | 8 => [0x0001, 0x0002, 0x0003] | _ => []

/-- The entry of the submission ring matches the request: opcode, TAG, TURF and arguments (R378). -/
def gateMatches (service : Nat) (r w : BitVec 512) : Bool :=
  (gateOps service).contains (sqOpcode w) && (sqTag w).toNat == gateField r 8 4 && sqTurf w == gateField r 2 1
    && (List.range 6).all (fun i => sqArg w i == gateField r (16 + 8 * i) 8)

/-- A resource that a request names belongs to a turf: a region, a counter, a queue (R378). -/
def State.gateOwns (s : State) (t : Nat) (x : Nat × Nat) : Bool :=
  match x.1 with
  | 0 => regionOwner s.turfMap x.2 == some t
  | 1 => s.ctrTurf x.2 == some t
  | _ => (s.queue x.2).turf == t

/-- What a re-read command names beyond its queue: for a queue to be closed or bound, that queue (Table 14.4). -/
def gateResources (service : Nat) (r : BitVec 512) : List (Nat × Nat) :=
  if (gateOps service).isEmpty then Config.gateNames service (BitVec.ofNat 384 (r.toNat / 2 ^ 128)) else []

/-- The status of a gate request: BAD_ARG, DENIED or OK (R377, R378). -/
def State.gateStatus (s : State) (service : Nat) (r : BitVec 512) (entry : Option Bytes) : Nat :=
  let x := s.queue (gateField r 4 2)
  let t := gateField r 2 1
  if s.gateBad r then stBadArg
  else if x.state = .closed ∨ (x.turf ≠ t ∧ x.turf ≠ 0) then stDenied
  else if t ≠ 0 ∧ !((gateResources service r).all (s.gateOwns t)) then stDenied
  else if (gateOps service).isEmpty then stOk
  else match entry with
  | none => stDenied
  | some e => if gateMatches service r (BitVec.ofNat 512 (leNat e)) then stOk else stDenied

/-- What Heartwood reads at SLOT of the request's ring: from the module's own memory, or what the read of host memory returned. -/
def State.gateEntry (s : State) (r : BitVec 512) (entry : Bytes) : Option Bytes :=
  let x := s.queue (gateField r 4 2)
  if x.sqMod then s.readIn false (x.sqAddr.toNat + 64 * gateField r 6 2) 64 none else some entry

/-- Heartwood serves a request of a service core's mailbox (R377, R378). It answers; what a granted request then does is the meaning
of the command that caused it (log entry 30). The result bytes of a granted request are free. No answer is given while control
actions are held (R369, R371). `entry` is what Heartwood read at SLOT of the ring where that is in host memory. -/
def State.gate (s : State) (service : Nat) (core : ScIx) (r : BitVec 512) (entry : Bytes) : Host.Outcome State Fault Refusal :=
  if entry.length ≠ 64 then .fault .illFormed
  else if s.ctlHeld || (gateField r 0 2 != service && !s.gateBad r) then .next s
  else
    let x := s.queue (gateField r 4 2)
    let addr := x.sqAddr.toNat + 64 * gateField r 6 2
    if x.sqMod && s.heldAt addr then .next s
    else
    let st := s.gateStatus service r (s.gateEntry r entry)
    let s := if x.sqMod then s.meetIn false addr 64 else s
    let d := if st = stOk then s.draw else (0, s)
    .next { d.2 with firm := { d.2.firm with gateAnswers := d.2.firm.gateAnswers ++ [(core.val, BitVec.ofNat 8 st, 0, d.1)] } }

/-- GATE_TABLE_SWAP, service 0x01. -/
def execGateTableSwap (core : ScIx) (req : BitVec 512) (entry : Bytes) (s : State) : Host.Outcome State Fault Refusal := s.gate 1 core req entry
/-- GATE_SETTINGS_COMMIT, service 0x02. -/
def execGateSettingsCommit (core : ScIx) (req : BitVec 512) (entry : Bytes) (s : State) : Host.Outcome State Fault Refusal := s.gate 2 core req entry
/-- GATE_LEASE, service 0x03. -/
def execGateLease (core : ScIx) (req : BitVec 512) (entry : Bytes) (s : State) : Host.Outcome State Fault Refusal := s.gate 3 core req entry
/-- GATE_REGION_PSTATE, service 0x04. -/
def execGateRegionPstate (core : ScIx) (req : BitVec 512) (entry : Bytes) (s : State) : Host.Outcome State Fault Refusal := s.gate 4 core req entry
/-- GATE_CELL_TABLE_WRITE, service 0x05. -/
def execGateCellTableWrite (core : ScIx) (req : BitVec 512) (entry : Bytes) (s : State) : Host.Outcome State Fault Refusal := s.gate 5 core req entry
/-- GATE_SPARE_SUBST, service 0x06. -/
def execGateSpareSubst (core : ScIx) (req : BitVec 512) (entry : Bytes) (s : State) : Host.Outcome State Fault Refusal := s.gate 6 core req entry
/-- GATE_FIRMWARE, service 0x07. -/
def execGateFirmware (core : ScIx) (req : BitVec 512) (entry : Bytes) (s : State) : Host.Outcome State Fault Refusal := s.gate 7 core req entry
/-- GATE_QUEUE, service 0x08. -/
def execGateQueue (core : ScIx) (req : BitVec 512) (entry : Bytes) (s : State) : Host.Outcome State Fault Refusal := s.gate 8 core req entry
/-- GATE_HEALTH, service 0x09. -/
def execGateHealth (core : ScIx) (req : BitVec 512) (entry : Bytes) (s : State) : Host.Outcome State Fault Refusal := s.gate 9 core req entry

/-! ### Management cores (R367 to R372) -/

/-- Enter a management core in the defect list; it is not used again (R370). -/
def State.failMc (s : State) (m origin action : Nat) : State :=
  let s := s.modMc m (fun x => { x with role := .failed })
  (if action = 1 then s.takeSpare 0x0C 0 m origin else s).replaced 0x0C origin action m 0 0

/-- The standby begins to load state (R369). -/
def State.callStandby (s : State) : State :=
  match s.mcsIn .standby with
  | [] => s
  | m :: _ => s.modMc m (fun x => { x with role := .joining })

/-- MGMT_DEVIATION (R367 to R370): the deviant of three running cores is retired; the standby starts to join. A core retired
three times within 24 h is not used again. Of the four cores that run the boot ROM the deviant is retired. -/
def execMgmtDeviation (m : McIx) (now : Nat) (s : State) : Host.Outcome State Fault Refusal :=
  let s := s.at_ now
  if s.bu.baseOn && s.firm.runningHw.isNone && s.mcsIn .off == [0, 1, 2, 3] then
    .next ((s.modMc m (fun x => { x with role := .retired, retiredAt := s.now, retirements := [s.now] })).addWear 0x0E m 1 0)
  else if (s.mcsIn .running).length ≠ 3 ∨ (s.mc m).role ≠ .running then .next s
  else
    let ts := ((s.mc m).retirements.filter (fun t => decide (s.now < t + 86400000000000))) ++ [s.now]
    let spare := !(s.mcsIn .standby).isEmpty
    let s := s.modMc m (fun x => { x with role := .retired, retiredAt := s.now, retirements := ts })
    let s := (s.addWear 0x0E m 1 0).faultNotice 0x0C (if spare then 1 else 0) m 0 0
    let s := if 3 ≤ ts.length then s.failMc m 2 (if spare then 1 else 2) else s
    .next s.callStandby

/-- STANDBY_JOIN (R369): the standby joins the lockstep, and held outputs are voted afresh. -/
def execStandbyJoin (m : McIx) (now : Nat) (s : State) : Host.Outcome State Fault Refusal :=
  let s := s.at_ now
  if (s.mc m).role ≠ .joining ∨ s.firm.fatal then .next s
  else
    let s := s.modMc m (fun x => { x with role := .running })
    .next { s with firm := { s.firm with duplexHeld := false } }

/-- The fatal management fault (R371): every running batch stops, an Ash record is captured, FAULT_N is asserted, and no further
control action is taken. -/
def State.mgmtFatal (s : State) : State :=
  let s := { s with firm := { s.firm with fatal := true, duplexHeld := false }, bu := { s.bu with faultN := true } }
  let s := (s.ashCapture 1 0).faultClamp
  (s.batches.foldl (fun s p => s.stopBatch p.1 stInternal 0 false) s).settleAll

/-- DUPLEX_DISAGREE (R369, R371): two cores disagree; control actions are held until the standby has joined, and with none the
fault is fatal. -/
def execDuplexDisagree (now : Nat) (s : State) : Host.Outcome State Fault Refusal :=
  let s := s.at_ now
  if !s.duplex || s.firm.fatal then .next s
  else if !(s.mcsIn .joining).isEmpty then .next { s with firm := { s.firm with duplexHeld := true } }
  else if !(s.mcsIn .standby).isEmpty then
    let s := s.callStandby
    .next { s with firm := { s.firm with duplexHeld := true } }
  else .next s.mgmtFatal

/-- STANDBY_PROMOTE (R370): a retired core ends its self-test: after a full second it stands by; one that fails is not used again. -/
def execStandbyPromote (m : McIx) (passed : Bool) (now : Nat) (s : State) : Host.Outcome State Fault Refusal :=
  let s := s.at_ now
  let st := fun (s : State) (v : Nat) => { s with firm := { s.firm with selfTest := tset s.firm.selfTest (4 * 256 + m.val) v } }
  if (s.mc m).role ≠ .retired ∨ s.ctlHeld then .next s
  else if !passed then .next ((st s 2).failMc m 2 2)
  else if s.now < (s.mc m).retiredAt + 1000000000 then .next s
  else .next ((st s 1).modMc m (fun x => { x with role := .standby }))

end Sys2Proof.Machine
end

