-- ==== Sys2Proof/Machine/Health.lean ====
section
/-!
DEFINITION. Spares, wear and the health report (19): HEALTH_READ, SPARE_SUBST, DEFECT_LIST_READ, standby tests, wear substitutions
and the wear log, and the shed of a regulator phase (R442).
-/
namespace Sys2Proof.Machine

/-! ### Quality records (R200, R201, Tables 7.6 to 7.8) -/

/-- The figures of a quality record. -/
structure Quality where
  unit : Nat
  kind : Nat
  state : Nat
  eyeMin : Nat := 0
  eyeMed : Nat := 0
  detune : Nat := 0
  bias : Int := 0
  bank : Nat := 0
  age : Nat := 0
  window : Nat := 0
  corr : Nat := 0
  uncorr : Nat := 0
  starved : Nat := 0
  pos : Bytes := []
deriving DecidableEq, Repr

/-- The bytes of a quality record (Table 7.6). -/
def Quality.bytes (q : Quality) : Bytes :=
  natLe 2 q.unit ++ natLe 1 q.kind ++ natLe 1 q.state ++ natLe 1 q.eyeMin ++ natLe 1 q.eyeMed ++ natLe 1 q.detune ++ natLe 1 0
    ++ natLe 2 (wrap 16 q.bias) ++ natLe 1 q.bank ++ natLe 1 0 ++ natLe 4 q.age ++ natLe 8 q.window ++ natLe 8 q.corr ++ natLe 4 q.uncorr
    ++ natLe 2 q.starved ++ natLe 2 0 ++ padTo 18 q.pos ++ natLe 6 0

/-- The class of a figure: 0 when it is at most `good`, 1 when at most `marginal`, else 2. -/
def classOf (v good marginal : Nat) : Nat := if v ≤ good then 0 else if v ≤ marginal then 1 else 2

/-- The class of the figures (Table 7.8), by the rows of a port inside the package or of a fibre (log entry 32). -/
def Quality.cls (q : Quality) (fibre : Bool) : Nat :=
  let eye := if fibre then (if 115 ≤ q.eyeMin then 0 else if 90 ≤ q.eyeMin then 1 else 2)
    else (if 141 ≤ q.eyeMin then 0 else if 115 ≤ q.eyeMin then 1 else 2)
  let ratio := if fibre then (if q.corr * 10 ^ 6 ≤ q.window then 0 else if q.corr * 10 ^ 5 ≤ 2 * q.window then 1 else 2)
    else (if q.corr * 10 ^ 9 ≤ q.window then 0 else if q.corr * 10 ^ 7 ≤ q.window then 1 else 2)
  let rx := if q.kind ≠ 0 then max (max eye ratio) (if q.uncorr = 0 then 0 else 2) else 0
  let bias := if q.kind ≠ 1 then classOf q.bias.toNat 100 200 else 0
  max (max rx bias) (max (classOf q.detune 10 25) (classOf q.age 250000 2000000))

/-- States 3 to 5 of a port (R165, R183, Table 7.6). -/
def State.portState (s : State) (p : Nat) : Option Nat :=
  let x := s.port p
  if x.failed then some 3 else if s.unlit p then some 4
  else if s.holds.swapping.contains (feedOf p) || (match x.sweeping with | some (_, none, _) => true | _ => false) then some 5 else none

/-- µs since the oldest position in use was last swept. -/
def State.calAge (s : State) (p : Nat) : Nat :=
  let x := s.port p
  let l := ((List.range 18).filter (fun i => decide (x.lane i < 16))).map (fun i => tget x.lastSwept 0 i)
  min 0xFFFFFFFF ((s.now - l.foldl min s.now) / 1000)

/-- The POS byte of a position (Table 7.7). An edge port receives by the map of its peer (R175). -/
def State.posByte (s : State) (kind p i : Nat) : Byte :=
  let x := s.port p
  let lane := match edgeLink p with
    | some l => if kind = 1 then leAt (s.link l).rxInForce i 1 else x.lane i
    | none => x.lane i
  BitVec.ofNat 8 (lane + bits (s.ringDetail p i).toNat 6 5 * 2 ^ 5 + b2n (decide (tfind x.fieldRing (i / 8) = some i)) * 2 ^ 7)

/-- The quality record of a port, as transmitter (KIND 0) or receiver (KIND 1). Eye widths and error counts of the 1 s before the
read are measurements and so free values within their ranges (log entry 1). -/
def State.portQuality (s : State) (kind p : Nat) : Quality × State :=
  let x := s.port p
  let base : Quality := {
    unit := p, kind := kind, state := 0, detune := min 255 (x.detune.foldl (fun m d => max m d.2) 0)
    age := s.calAge p, starved := x.starved, pos := (List.range 18).map (s.posByte kind p) }
  let bk := s.feedBank (feedOf p)
  let e := s.draw
  let m := e.2.draw
  let w := m.2.draw
  let c := w.2.draw
  let u := c.2.draw
  let r : Quality × State := if kind = 0 then ({ base with bias := (s.bank bk).driftPermille, bank := if s.unlit p then 0xFF else bk }, s)
    else ({ base with
      eyeMed := e.1.toNat % 256, eyeMin := m.1.toNat % (e.1.toNat % 256 + 1), window := w.1.toNat, corr := c.1.toNat % (w.1.toNat + 1)
      uncorr := u.1.toNat % 2 ^ 32 }, u.2)
  ({ r.1 with state := (s.portState p).getD (r.1.cls false) }, r.2)

/-- How bad a STATE is: FAILED, DARK, OUT, then the classes. -/
def badness (st : Nat) : Nat := match st with | 3 => 5 | 4 => 4 | 5 => 3 | n => n

/-- The quality record of a fibre (R201): the worst figures of its edge-port records, classed by a fibre's rows, unless one of the records
has a state of 3 to 5. -/
def State.fibreQuality (s : State) (f : Nat) : Quality × State :=
  let p := fibreGroupPort f 0
  let t0 := (s.portQuality 0 p).1
  let t1 := (s.portQuality 0 (p + 1)).1
  let a := s.portQuality 1 p
  let b := a.2.portQuality 1 (p + 1)
  let l := [t0, t1, a.1, b.1]
  let st := l.foldl (fun m q => if badness m < badness q.state then q.state else m) 0
  let worst := if a.1.corr * b.1.window < b.1.corr * a.1.window then b.1 else a.1
  let lit := if t0.bias < t1.bias then t1 else t0
  let q : Quality := {
     unit := f, kind := 2, state := st, eyeMin := min a.1.eyeMin b.1.eyeMin, eyeMed := min a.1.eyeMed b.1.eyeMed
     detune := max t0.detune t1.detune, bias := lit.bias, bank := if t0.bank = 0xFF ∨ t1.bank = 0xFF then 0xFF else lit.bank
     age := max t0.age t1.age, window := worst.window, corr := worst.corr, uncorr := max a.1.uncorr b.1.uncorr
     starved := max t0.starved t1.starved }
  ({ q with state := if badness st < 3 then q.cls true else st }, b.2)

/-- Records of units in turn. -/
def State.qualities (s : State) (f : State → Nat → Quality × State) : List Nat → Bytes × State
  | [] => ([], s)
  | u :: t =>
    let r := f s u
    let rest := r.2.qualities f t
    (r.1.bytes ++ rest.1, rest.2)

/-! ### The health report (R488, R489, Tables 19.7 to 19.10) -/

/-- Whether a region has a regulator group on seven phases (R440). -/
def State.onSeven (s : State) (r : Nat) : Bool := s.groups.any (fun g => g.2.onSeven && groupRegion g.1 == some r)

/-- STATE and CAUSE of a unit (Table 19.10): kinds 1 to 7. -/
def State.unitState (s : State) (kind u : Nat) : Nat × Nat :=
  match kind with
  | 1 => let r := s.region u
         if r.failed then (2, r.failCause) else if r.wakeFail then (3, 0) else if s.onSeven u then (1, 1) else (0, 0)
  | 2 => if (s.site u).degraded then (1, 1) else (0, 0)
  | 3 => let x := s.fmu u
         let causes := (List.range 8).filterMap (fun i =>
           let y := s.link (8 * u + i)
           if y.state = .refused then some y.cause else none)
         match causes with
         | c :: _ => (5, c)
         | [] => if x.down then (4, 0) else (0, 0)
  | 4 => match (s.mc u).role with
         | .failed => (2, 0) | .retired => (7, 0) | .standby => (6, 0) | .joining => (6, 0) | _ => (0, 0)
  | 5 => if (s.sc u).failed then (2, 0) else if (List.range 16).any (fun i => s.scOf i == u) then (0, 0) else (6, 0)
  | 6 => if (s.ce u).retired then (7, 0) else (0, 0)
  | _ => let x := s.bank u
         if x.faulted then (2, 0) else if x.removed then (7, 0) else if 16 ≤ u % 20 && (s.bankFeed u).isNone then (6, 0) else (0, 0)

/-- A unit record. -/
def State.unitRecord (s : State) (kind u : Nat) : Bytes :=
  let x := s.unitState kind u
  natLe 1 kind ++ natLe 1 u ++ natLe 1 x.1 ++ natLe 1 x.2 ++ natLe 1 (tget s.firm.selfTest 0 (kind * 256 + u)) ++ natLe 3 0

/-- Every unit of section 1, in order. -/
def healthUnits : List (Nat × Nat) :=
  [(1, 64), (2, 24), (3, 8), (4, 4), (5, 20), (6, 64), (7, 80)].flatMap (fun k => (List.range k.2).map (fun u => (k.1, u)))

/-- The kinds of section 0. -/
def healthKinds : List Nat := [0x02, 0x04, 0x05, 0x06, 0x07, 0x08, 0x09, 0x0A, 0x0B, 0x0C, 0x0D, 0x0E, 0x10]

/-- Sum over the pools of a kind of a table kept by pool. -/
def poolSum (t : Tbl Nat) (kind : Nat) : Nat := ((t.filter (fun p => p.1 / 2 ^ 24 == kind)).map (fun p => p.2)).sum

/-- An inventory record (Table 19.9). -/
def State.inventory (s : State) (kind : Nat) : Bytes :=
  let built := if kind = 0x09 then 208 + 8 * 16 else poolsOf kind * sparesOf kind
  let failed := poolSum s.firm.sparesFailed kind
  natLe 1 kind ++ natLe 1 (min 255 (s.minLeft kind)) ++ natLe 2 (min 0xFFFF (poolsOf kind))
    ++ natLe 2 (min 0xFFFF ((s.touchedPools kind).filter (fun p => p.2 == 0)).length)
    ++ natLe 2 (if poolsOf kind = 0 then 0xFFFF else s.projMonths kind)
    ++ natLe 4 (built - poolSum s.firm.sparesTaken kind - failed) ++ natLe 2 (min 0xFFFF failed) ++ natLe 2 (s.spareRate kind)

/-- A sensor record (Table 19.8, section 3). -/
def State.sensorRecord (s : State) (n : Nat) : Bytes :=
  let x := s.sensor n
  natLe 4 (wrap 16 x.value + b2n x.isOpen * 2 ^ 16 + b2n x.substituted * 2 ^ 17 + b2n x.warn * 2 ^ 18 + b2n x.throttle * 2 ^ 19)

/-- A section: its header and records. -/
def healthSection (n size : Nat) (recs : Bytes) : Bytes :=
  natLe 1 n ++ natLe 1 0 ++ natLe 2 size ++ natLe 4 (recs.length / size) ++ natLe 8 0 ++ recs

/-- The quality section: every record, or those of the ports that a turf's active calendar names (R328, R488). -/
def State.qualitySection (s : State) (t : Nat) : Bytes × State :=
  let es := (s.cal t).active.entries
  let tx := if t = 0 then portIds else portIds.filter (fun p => es.any (fun e => e.1 == p))
  let rx := if t = 0 then portIds else portIds.filter (fun p => es.any (fun e => ceDst e.2 == p))
  let a := s.qualities (fun s p => s.portQuality 0 p) tx
  let b := a.2.qualities (fun s p => s.portQuality 1 p) rx
  let c := b.2.qualities (fun s f => s.fibreQuality f) (if t = 0 then List.range 128 else [])
  (a.1 ++ b.1 ++ c.1, c.2)

/-- The report header (Table 19.7). -/
def State.healthHeader (s : State) (mask t : Nat) : Bytes :=
  let flags := b2n s.firm.listFull + b2n s.firm.storeFail * 2 + b2n s.duplex * 4
    + b2n ((List.range 64).any s.onSeven || s.sites.any (fun m => m.2.degraded)) * 8 + b2n (s.ports.any (fun p => p.2.dark)) * 16
  let head := natLe 4 0x4C48534B ++ natLe 2 1 ++ natLe 2 mask
  padTo 64 (if t ≠ 0 then head
    else head ++ natLe 8 s.now ++ natLe 4 s.bu.bootEpoch ++ natLe 1 flags ++ natLe 3 0 ++ natLe 2 s.firm.defects.length ++ natLe 2 0
      ++ natLe 4 s.firm.wear.length ++ natLe 4 s.firm.busErrors ++ natLe 4 s.firm.operDays)

/-- The health report for a mask of sections. -/
def State.healthReport (s : State) (mask t : Nat) : Bytes × State :=
  let q := if mask.testBit 2 then s.qualitySection t else ([], s)
  let sec := fun (i : Nat) (b : Bytes) => if mask.testBit i then b else []
  (s.healthHeader mask t ++ sec 0 (healthSection 0 16 (healthKinds.flatMap s.inventory))
    ++ sec 1 (healthSection 1 8 (healthUnits.flatMap (fun k => s.unitRecord k.1 k.2))) ++ sec 2 (healthSection 2 64 q.1)
    ++ sec 3 (healthSection 3 4 ((List.range 320).flatMap s.sensorRecord)), q.2)

/-- HEALTH_READ (R488, R507). -/
def execHealthRead (q : QueueIx) (slot : SlotIx) (s : State) : Host.Outcome State Fault Refusal :=
  .next (s.withCmd q slot 0x0800 (fun _ => true) (fun s a =>
    let t := (s.queue a.q).turf
    let mask := sqArg a.entry 0
    if t ≠ 0 ∧ mask ≠ 4 then s.fail a stDenied
    else
      let r := s.healthReport mask t
      if sqArg a.entry 2 < r.1.length then s.fail a stBadArg
      else r.2.output a ((sqArg a.entry 3).testBit 0) (sqArg a.entry 1) r.1 r.1.length))

/-- A defect list entry's bytes (Table 15.13). -/
def defectBytes (d : Defect) : Bytes :=
  natLe 1 d.kind ++ natLe 1 d.origin ++ natLe 2 d.unit ++ natLe 4 d.detail.toNat ++ natLe 4 d.bootEpoch ++ natLe 1 d.action ++ natLe 3 0

/-- DEFECT_LIST_READ (R490). -/
def execDefectListRead (q : QueueIx) (slot : SlotIx) (s : State) : Host.Outcome State Fault Refusal :=
  .next (s.withCmd q slot 0x0802 (fun _ => true) (fun s a =>
    let n := sqArg a.entry 2
    if n = 0 ∨ 4096 < n then s.fail a stBadArg
    else
      let l := (s.firm.defects.drop (sqArg a.entry 1)).take n
      s.output a ((sqArg a.entry 3).testBit 0) (sqArg a.entry 0) (l.flatMap defectBytes)
        (l.length + s.firm.defects.length * 2 ^ 16 + b2n s.firm.listFull * 2 ^ 32)))

/-! ### Wear substitutions (R480 to R482, R490) -/

/-- A turf that owns a region of a CD has a batch running or arming. -/
def State.cdBusy (s : State) (cd : Nat) : Bool :=
  (List.range 4).any (fun i => match regionOwner s.turfMap (4 * cd + i) with | some t => s.batchHeld t | none => false)

/-- A worn column is shifted away (R139, R482); with no spare column the substitution is dropped. -/
def State.wearColumn (s : State) (c : Nat) : State :=
  let phys := physColumn (s.cd (c / 256)).retired (c % 16)
  match s.shiftColumn (c / 256) phys with
  | none => s
  | some s' => (s'.takeSpare 0x02 (c / 256) c 3).replaced 0x01 3 1 c (BitVec.ofNat 32 phys) 0

/-- A worn phase: the spare comes in before it is shed, so no throttle is requested (R482). -/
def State.wearPhase (s : State) (p : Nat) : State :=
  let g := p / 9
  if (s.group g).spareUsed || s.sparesLeft 0x04 g == 0 || (s.phase p).isOpen then s
  else
    let s := (s.modGroup g (fun y => { y with spareUsed := true })).modPhase p (fun x => { x with isOpen := true })
    (s.takeSpare 0x04 g p 3).replaced 0x04 3 1 p 0 0

/-- A worn management core: the standby joins, and only then the core is retired (R482). -/
def State.wearMc (s : State) (m : Nat) : State :=
  match s.mcsIn .standby with
  | [] => s
  | n :: _ =>
    if (s.mc m).role ≠ .running then s
    else (s.modMc n (fun x => { x with role := .running })).failMc m 3 1

/-- Make a wear substitution of a kind that takes effect at once, or at the moment R482 gives it: column, phase, ring, position, row,
pseudo-channel, management core, service core, fibre lane (DETAIL [5] its wavelength group, log entry 33). -/
def State.wearSubst (s : State) (kind unit : Nat) (detail : Word) : State :=
  let d := detail.toNat
  match kind with
  | 0x01 => s.wearColumn unit
  | 0x04 => s.wearPhase unit
  | 0x07 => s.ringFails unit (d % 32) 3
  | 0x08 => if (s.port unit).lane (d % 32) < 16 ∧ (s.port unit).spareIdle.isSome then s.retirePosition unit (d % 32) 3 else s
  | 0x0A => s.replaceRow unit (bits d 7 0) (bits d 15 8) (bits d 31 16)
  | 0x0B => match (s.site unit).logical (d % 256) with
      | some l => if (s.site unit).sparePcs.isEmpty then s else s.migrate unit l
      | none => s
  | 0x0C => s.wearMc unit
  | 0x0D => if s.scSpares.isEmpty || (s.sc unit).failed then s else (s.failCore unit 3).fwReset none
  | 0x10 => s.replaceLane unit (bits d 5 5) (d % 32) 3
  | _ => s

/-- A substitution of this kind and unit has to wait (R482): for the batches of the CD, or for a moment without any batch. -/
def State.wearWaits (s : State) (kind unit : Nat) : Bool :=
  (kind == 0x01 && s.cdBusy (unit / 256)) || (kind == 0x0D && !s.batches.isEmpty)

/-- The unit numbers that a kind of Table 15.13 has, with the position or pseudo-channel its DETAIL names. -/
def unitOk (kind unit : Nat) (detail : Word) : Bool :=
  let d := detail.toNat
  match kind with
  | 0x01 => decide (unit < 4096)
  | 0x04 => decide (unit < 2304)
  | 0x06 => decide (unit < 80)
  | 0x07 => portIds.contains unit && decide (d % 32 < 18)
  | 0x08 => portIds.contains unit && decide (d % 32 < 18)
  | 0x0A => decide (unit < 24) && decide (d % 256 < 66)
  | 0x0B => decide (unit < 24) && decide (d % 256 < 66)
  | 0x0C => decide (unit < 4)
  | 0x0D => decide (unit < 20)
  | 0x10 => decide (unit < 128) && decide (d % 32 < 18)
  | _ => false

/-- A cell's figures have crossed a threshold (Table 19.2): 16 store corrections in 24 h, 2 soft errors in 30 days, or 1,000 corrections in
24 h on a mesh link it receives on. -/
def State.wornCell (s : State) (c : Nat) : Bool :=
  let w := tget s.firm.cellWear {} c
  decide (16 ≤ (w.corrections.filter (fun t => decide (s.now < t + 86400000000000))).length)
    || decide (2 ≤ (w.softs.filter (fun t => decide (s.now < t + 2592000000000000))).length)
    || w.links.any (fun l => decide (1000 ≤ (l.2.filter (fun t => decide (s.now < t + 86400000000000))).length))

/-- WEAR_SUBSTITUTION (R481, R482): a figure crosses its threshold; that of a cell is what the module has counted. A substitution that must
wait is deferred, and the same row makes it once it need not (log entry 33); a worn bank waits for its own swap (R186). -/
def execWearSubstitution (kind : Byte) (unit : Half) (detail : Word) (now : Nat) (s : State) : Host.Outcome State Fault Refusal :=
  let s := s.at_ now
  let k := kind.toNat
  let u := unit.toNat
  let item := (k, u, detail)
  if !unitOk k u detail || (k == 0x01 && !s.wornCell u && !s.firm.deferred.contains item) then .next s
  else if k = 0x06 then
    (if (s.bank u).wornAt.isSome || (s.bankFeed u).isNone || (s.bank u).faulted then .next s
     else .next (s.modBank u (fun x => { x with wornAt := some s.now })))
  else if s.wearWaits k u then
    (if s.firm.deferred.contains item then .next s
     else .next { s with firm := { s.firm with deferred := s.firm.deferred ++ [item] } })
  else .next (({ s with firm := { s.firm with deferred := s.firm.deferred.filter (fun x => x != item) } } : State).wearSubst k u detail)

/-- The pool of a unit (Table 19.1). -/
def poolOf (kind unit : Nat) (detail : Word) : Nat :=
  let d := detail.toNat
  match kind with
  | 0x01 => (if 0x8000 ≤ unit then (unit - 0x8000) / 256 else unit / 256)
  | 0x04 => unit / 9
  | 0x06 => unit / 20
  | 0x07 => 3 * unit + d % 32 / 8
  | 0x09 => txNumber unit / 8
  | 0x0A => rowPool unit (bits d 7 0) (bits d 15 8)
  | 0x0C => 0
  | 0x0D => 0
  | 0x10 => 2 * unit + bits d 5 5
  | _ => unit

/-- Another substitution is in progress in the pool of a unit (R490). -/
def State.poolBusy (s : State) (kind unit : Nat) (detail : Word) : Bool :=
  s.firm.deferred.any (fun x => x.1 == kind && poolOf x.1 x.2.1 x.2.2 == poolOf kind unit detail)
  || (match kind with
      | 0x04 => (s.group (unit / 9)).spareComing
      | 0x06 => (List.range 20).any (fun i => (s.bank (unit / 20 * 20 + i)).wornAt.isSome)
      | 0x07 => (s.port unit).toSweep.any (fun w => w.1 / 8 == detail.toNat % 32 / 8)
      | 0x0B => (s.site unit).migrating.isSome
      | 0x0C => !(s.mcsIn .joining).isEmpty
      | _ => false)

/-- Whether a unit is in service, so that a spare can take its place. -/
def State.inService (s : State) (kind unit : Nat) (detail : Word) : Bool :=
  let pos := detail.toNat % 32
  match kind with
  | 0x04 => !(s.phase unit).isOpen && !(s.phase unit).senseFailed
  | 0x06 => (s.bankFeed unit).isSome && !(s.bank unit).faulted
  | 0x07 => (s.port unit).lane pos != 31
  | 0x08 => decide ((s.port unit).lane pos < 16)
  | 0x0B => ((s.site unit).logical (detail.toNat % 256)).isSome
  | 0x0C => (s.mc unit).role == .running
  | 0x0D => (List.range 16).any (fun i => s.scOf i == unit) && s.scUsable unit
  | _ => true

/-- No spare of the pool can be brought in now. -/
def State.noSpareNow (s : State) (kind unit : Nat) (detail : Word) : Bool :=
  decide (s.sparesLeft kind (poolOf kind unit detail) = 0)
  || (match kind with
      | 0x06 => (s.spareBank (unit / 20)).isNone
      | 0x08 => (s.port unit).spareIdle.isNone
      | 0x0C => (s.mcsIn .standby).isEmpty
      | 0x0D => s.scSpares.isEmpty
      | _ => false)

/-- SPARE_SUBST (R490). A service core's substitution is a firmware reset, before which the command completes; a ring of a port in scheduled
service would wait for a gap (R199), so its command completes with BUSY (log entry 33). -/
def execSpareSubst (q : QueueIx) (slot : SlotIx) (s : State) : Host.Outcome State Fault Refusal :=
  .next (s.withCmd q slot 0x0801 (fun _ => true) (fun s a =>
    let k := sqArg a.entry 0
    let u := sqArg a.entry 1
    let d : Word := BitVec.ofNat 32 (sqArg a.entry 2)
    if !(decide (k ∈ [0x01, 0x04, 0x06, 0x07, 0x08, 0x0B, 0x0C, 0x0D])) || !unitOk k u d || decide (2 ^ 32 ≤ sqArg a.entry 2)
        || !s.inService k u d
    then s.fail a stBadArg
    else if s.noSpareNow k u d then s.fail a stNoResource
    else if s.wearWaits k u || s.poolBusy k u d || (k == 0x07 && s.scheduled u) then s.fail a stBusy
    else if k = 0x06 then
      match s.bankFeed u, s.spareBank (u / 20) with
      | none, _ => s.fail a stBadArg
      | _, none => s.fail a stNoResource
      | some feed, some n => if (feedPorts feed).any s.scheduled then s.fail a stBusy else (s.wearSwap u feed n).done a 1
    else if k = 0x0D then (s.done a 1).wearSubst k u d
    else (s.wearSubst k u d).done a 1))

/-! ### Standby tests (R479) and the wear log (R483) -/

/-- UNIT_KIND and unit under which SELFTEST of a tested spare is shown (Table 19.10). -/
def selfTestKey (kind unit : Nat) : Option Nat :=
  match kind with
  | 0x05 => some (256 + unit) | 0x06 => some (7 * 256 + unit) | 0x0B => some (2 * 256 + unit) | 0x0C => some (4 * 256 + unit)
  | 0x0D => some (5 * 256 + unit) | 0x0E => some (6 * 256 + unit) | _ => none

/-- A failed spare of a kind is taken out of use, so that no substitution selects it. -/
def State.dropSpare (s : State) (kind unit : Nat) (detail : Word) : State :=
  let d := detail.toNat
  match kind with
  | 0x01 => match s.shiftColumn (poolOf 1 unit detail) (d % 256) with | some s' => s' | none => s
  | 0x02 => match s.shiftColumn unit (d % 256) with | some s' => s' | none => s
  | 0x06 => s.modBank unit (fun x => { x with removed := true })
  | 0x08 => (s.modPort unit (fun x => x.setLane (d % 32) 31)).announceMap unit
  | 0x0B => s.modSite unit (fun x => { x with sparePcs := x.sparePcs.filter (fun p => p != d % 256) })
  | 0x0C => s.modMc unit (fun x => { x with role := .failed })
  | 0x0D => { s with firm := { s.firm with scs := tset s.firm.scs unit { s.sc unit with failed := true } } }
  | 0x10 => s.laneOut unit (bits d 5 5) (d % 32) false
  | _ => s

/-- SPARE_STANDBY_TEST (R478, R479): a spare that fails is removed from its pool and entered with ACTION 0; a copy engine is retired. -/
def execSpareStandbyTest (kind : Byte) (unit : Half) (detail : Word) (passed : Bool) (s : State) : Host.Outcome State Fault Refusal :=
  let k := kind.toNat
  let u := unit.toNat
  let s := match selfTestKey k u with
    | none => s
    | some key => { s with firm := { s.firm with selfTest := tset s.firm.selfTest key (if passed then 1 else 2) } }
  if passed then .next s
  else if k = 0x0E then .next (if u < 64 then s.retireEngine u 2 else s)
  else
    let pool := poolOf k u detail
    if s.sparesLeft k pool = 0 then .next s
    else
      let key := poolKey k pool
      let s := { s with firm := { s.firm with sparesFailed := tset s.firm.sparesFailed key (tget s.firm.sparesFailed 0 key + 1) } }
      .next (((s.dropSpare k u detail).faultActed k 2 0 u detail 0).checkProj (poolKind k))

/-- The corrections of a unit since its last hourly record, which begins to count anew (R37, R130, R207, R483): of a site's physical
pseudo-channel, of a cell's store, of the mesh links a cell receives on (log entry 120). -/
def State.takeHour (s : State) (k unit detail : Nat) : Nat × State :=
  match k with
  | 0x01 =>
    match (s.site unit).logical (detail % 256) with
    | none => (0, s)
    | some l => (tget (s.site unit).wearCount 0 l, s.modSite unit (fun x => { x with wearCount := tdel x.wearCount l }))
  | 0x04 => ((tget s.firm.cellWear {} unit).hourStore, s.modWear unit (fun w => { w with hourStore := 0 }))
  | _ => ((tget s.firm.cellWear {} unit).hourLinks, s.modWear unit (fun w => { w with hourLinks := 0 }))

/-- WEAR_LOG_WRITE (R483): a periodic record of Table 19.3. A correction count is what the module has counted in the hour, and one of 0 is
not written; bias, heater, phase-loss and lane-eye figures are measurements, which the row carries. Operating days are counted, and a
bank's bias figure is what its quality records show. Records of events are written as those occur. -/
def execWearLogWrite (rkind : Byte) (unit : Half) (value : Word) (detail : Word) (s : State) : Host.Outcome State Fault Refusal :=
  let k := rkind.toNat
  if k ∈ [0x01, 0x04, 0x06] then
    let r := s.takeHour k unit.toNat detail.toNat
    if r.1 = 0 then .next s else .next (r.2.addWear k unit.toNat (BitVec.ofNat 32 r.1) detail)
  else if k ∈ [0x07, 0x08, 0x09, 0x0C, 0x0F] then
    let s := s.addWear k unit.toNat value detail
    if k = 0x0F then .next { s with firm := { s.firm with operDays := s.firm.operDays + 1 } }
    else if k = 0x07 then .next (s.modBank unit.toNat (fun x => { x with driftPermille := signed 16 value.toNat }))
    else .next s
  else .next s

/-! ### Phase rotation (R442, Table 19.2) -/

/-- PHASE_SHED (R442): the next active phase is shed while the spare carries its share, unless the spare is in use and the current is
not below 45 A; a switching loss more than 15 % above the phase's first value wears the phase out. -/
def execPhaseShed (g : GroupIx) (lossPermille now : Nat) (s : State) : Host.Outcome State Fault Refusal :=
  let s := s.at_ now
  let x := s.group g
  let active := fun (i : Nat) => !(s.phase (9 * g + i)).isOpen && !(s.phase (9 * g + i)).senseFailed && (decide (i < 8) || x.spareUsed)
  if (x.spareUsed || x.onSeven) && decide (45000 ≤ x.currentMa) then .next s
  else match ((List.range 9).map (fun i => (x.shedNext + i) % 9)).find? active with
  | none => .next s
  | some i =>
    let p := 9 * g.val + i
    let s := s.modGroup g (fun y => { y with shedNext := (i + 1) % 9 })
    match (s.phase p).firstLoss with
    | none => .next (s.modPhase p (fun y => { y with firstLoss := some lossPermille }))
    | some l => .next (if l * 115 < lossPermille * 100 then s.wearPhase p else s)

end Sys2Proof.Machine
end

