-- ==== Sys2Proof/Machine/Resets.lean ====
section
/-!
DEFINITION. The reset scopes (R391 to R400), supplies, the reference clock and the pins that reset or wake the module.
-/
namespace Sys2Proof.Machine

/-! ### The strap (R400, Table 15.2) -/

/-- The code of a pin voltage, and whether the strap is short or open. -/
def strapCode (mv : Nat) : Nat × Bool :=
  if mv < 25 ∨ 1600 < mv then (0xF, true) else if 1200 ≤ mv then (0xF, false) else (mv / 100, false)

/-! ### Cold and module reset (R391, R396 to R400) -/

/-- The settings store and the key fuses, which every reset keeps (R383, R391); a bank write in progress is abandoned (R473). -/
def FirmSt.stored (f : FirmSt) : FirmSt :=
  { bankA := f.bankA, bankB := f.bankB, setA := f.setA, setB := f.setB, defects := f.defects, wear := f.wear, operDays := f.operDays
    revoked := f.revoked, trim := f.trim }

/-- The window and the backup domain after a cold or module reset: the scope is counted, the boot epoch rises, the last-operation
record is shown (R397 to R400). -/
def BringupSt.afterReset (b : BringupSt) (cold : Bool) (cause prior : Nat) (strap : Nat × Bool) (lost : Bool) : BringupSt :=
  let scope := if cold then 0 else 1
  let counts := if lost then [] else b.counts
  let rec_ := if lost then none else b.record
  { cfgSel := strap.1, strapFault := strap.2, cause := cause, prior := prior, backupLost := if cold then lost else b.backupLost
    counts := tset counts scope (min 0xFFFFFFFF (tget counts 0 scope + 1)), bootEpoch := (b.bootEpoch + 1) % 2 ^ 32
    record := rec_, lastopShown := rec_, lastopScope := if rec_.isSome then scope + 1 else 0
    monotonic := if lost then 0 else b.monotonic
    xtalFailed := if cold then false else b.xtalFailed, crstLow := b.crstLow, throtN := b.throtN
    faultN := if cold then false else b.faultN, thermtripN := if cold then false else b.thermtripN
    latched := if cold then none else b.latched
    thermRst := if cold then false else b.thermRst || cause == 2 }

/-- The module after a cold or module reset: every domain but Peat and backup is as after power-on; the settings store, what stands in
host memory and what has left the module stay. Readings are kept while shutdown is latched, since the release waits for them (R396). -/
def State.resetModule (s : State) (cold : Bool) (cause : Nat) (strapMv : Option Nat) (lost : Bool) : State :=
  let strap := match strapMv with | some v => strapCode v | none => (s.bu.cfgSel, s.bu.strapFault)
  let shut := s.pw.shutdown && !cold
  let prior := if shut then 1 else if s.firm.fatal && !cold then 2 else if strap.2 then 3 else 0
  { pending := s.pending, drawn := s.drawn, hostMem := s.hostMem, out := s.out
    bu := s.bu.afterReset cold cause prior strap lost
    pw := { refclk := s.pw.refclk, shutdown := shut }
    sensors := if shut then tmap s.sensors (fun _ x => { value := x.value, isOpen := x.isOpen }) else []
    phases := tmap s.phases (fun _ x => { firstLoss := x.firstLoss })
    firm := s.firm.stored }

/-- COLD_RESET (R391, R398): `backupOk` says whether the check code of the backup domain holds. -/
def execColdReset (backupOk : Bool) (strapMv : Nat) (s : State) : Host.Outcome State Fault Refusal :=
  .next (s.resetModule true 1 (some strapMv) (!backupOk))

/-- CAUSE of a module reset (Table 15.11). -/
def ModuleResetCause.code : ModuleResetCause → Nat
  | .rstN => 2
  | .vinLow => 3
  | .refclkLost => 5

/-- MODULE_RESET (R391); the loss of REFCLK resets only with LOR_COMPAT in force (R438). -/
def execModuleReset (cause : ModuleResetCause) (strapMv : Nat) (s : State) : Host.Outcome State Fault Refusal :=
  if !s.bu.vaux || (cause == .refclkLost && !(s.lorCompat && s.pw.gtcRunning)) then .next s
  else .next (s.resetModule false (ModuleResetCause.code cause) (some strapMv) false)

/-- PEAT_XTAL_FAIL (R415, R408): Peat runs on its ring oscillator and holds the module in reset. -/
def execPeatXtalFail (s : State) : Host.Outcome State Fault Refusal :=
  if !s.bu.vaux || s.bu.xtalFailed then .next s
  else
    let t := s.resetModule false 6 none false
    .next { t with bu := { t.bu with xtalFailed := true } }

/-- VAUX_LOSS (R533): Peat stops, and every domain with it; the backup domain keeps its records. -/
def execVauxLoss (s : State) : Host.Outcome State Fault Refusal :=
  let b : BringupSt := {
    vaux := false, counts := s.bu.counts, bootEpoch := s.bu.bootEpoch, record := s.bu.record, monotonic := s.bu.monotonic, smbAlert := false
    cfgSel := s.bu.cfgSel, strapFault := s.bu.strapFault, cause := s.bu.cause, prior := s.bu.prior }
  .next { pending := s.pending, drawn := s.drawn, hostMem := s.hostMem, out := s.out, bu := b, pw := { refclk := s.pw.refclk }
          phases := tmap s.phases (fun _ x => { firstLoss := x.firstLoss }), firm := s.firm.stored }

/-- Every junction sensor that reads lies below 85 °C (R396, R459). -/
def State.junctionsCool (s : State) : Bool :=
  (s.sensors.filter (fun p => decide (p.1 < 288) && !p.2.isOpen)).all (fun p => decide (p.2.value < 680))

/-- BRINGUP_ISLAND_RELEASE (R414, R396, R459): the bring-up island is released; a shutdown whose reset was RST_N is no longer latched,
and its pins are released with the reset. -/
def execBringupIslandRelease (s : State) : Host.Outcome State Fault Refusal :=
  if !s.bu.vaux || s.bu.xtalFailed || s.bu.islandUp || (s.pw.shutdown && !s.junctionsCool) then .next s
  else
    let ends := !s.pw.shutdown || s.bu.thermRst
    .next { s with
      bu := { s.bu with islandUp := true, thermRst := false, thermtripN := s.bu.thermtripN && !ends, faultN := s.bu.faultN && !ends }
      pw := { s.pw with shutdown := s.pw.shutdown && !ends } }

/-! ### Compute and die resets (R391, R393 to R395) -/

/-- Clear the regions of CDs: their turfs' batches end, cells and access engines lose everything, their regions are in S4 (R391, R394). -/
def State.clearDies (s : State) (cds : List Nat) : State :=
  let rs := cds.flatMap (fun c => (List.range 4).map (fun i => 4 * c + i))
  let s := s.endBatchesOn rs stInternal 0
  let s := { s with
    ops := s.ops.filter (fun o => !(decide (o.unit.toNat / 2 ^ 14 = 0) && cds.contains (o.unit.toNat % 4096 / 256)))
    arms := s.arms.filter (fun p => !cds.contains (p.1 / 64)) }
  let s := cds.foldl (fun (s : State) c => s.modCd c (fun x => { retired := x.retired })) s
  let s := (s.clearCells (fun c => cds.contains (c / 256)))
  let s := rs.foldl (fun (s : State) r => s.modRegion r (fun x => { x with
    sleep := .s4, asked := .s4, going := none, waking := none, pending := none, needsTables := true, lowMargin := 0 })) s
  (rs.foldl (fun (s : State) r => s.regionEnded r) s).settleWakes

/-- A compute reset is asserted: counted; before CELLS_POWER has completed it does nothing else (R395). The near tier is held in
self-refresh (R214), and until QUEUES_ENABLE has completed the window goes back to the state after LOAD_CORDWOOD. -/
def State.assertCompute (s : State) : State :=
  let s := s.countReset 2
  if s.bu.lastDone < 7 ∨ !s.bu.computeOn then s
  else
    let s := { s with bu := { s.bu with diesHeld := [] } }
    let s := (List.range 24).foldl (fun (s : State) m => s.modSite m (fun x => { x with selfRefresh := true, heldRefresh := true })) s
    let s := s.clearDies (List.range 16)
    if s.bu.lastDone < 9 then
      { s with bu := { s.bu with step := 6, state := 2, lastDone := 6, resultCause := 0, resultData := s.bu.cwData, awaits := false } }
    else s

/-- COMPUTE_RESET (R394, R395): CRST_N has gone low. -/
def execComputeReset (s : State) : Host.Outcome State Fault Refusal :=
  if !s.bu.vaux || s.bu.crstLow then .next s
  else
    let t := s.assertCompute
    .next { t with bu := { t.bu with crstLow := true } }

/-- COMPUTE_RESET_RELEASE (R395): CRST_N has risen, or the 10 µs of BU_RESET are over; with no compute reset left the near tier is free. -/
def execComputeResetRelease (s : State) : Host.Outcome State Fault Refusal :=
  let b := if s.bu.crstLow then { s.bu with crstLow := false } else { s.bu with computeHeld := false, diesHeld := [] }
  let s := { s with bu := b }
  if b.crstLow || b.computeHeld then .next s
  else .next s.releaseSites

/-! ### BU_RESET (R407, Table 15.9) -/

/-- A write that is ignored is flagged. -/
def State.cmdIgnored (s : State) : State := { s with bu := { s.bu with cmdIgnored := true } }

/-- A write of BU_RESET (R393, R395, R405, R407, R535). -/
def State.buReset (s : State) (key scope die : Nat) : State :=
  if !s.bu.islandUp || key != 0xA5C3 || decide (4 < scope) then s.cmdIgnored
  else match scope with
  | 1 => s.resetModule false 4 none false
  | 2 =>
    if s.bu.computeHeld || s.bu.crstLow then s.cmdIgnored
    else
      let t := s.assertCompute
      { t with bu := { t.bu with computeHeld := true } }
  | 3 =>
    if s.bu.diesHeld.contains die then s.cmdIgnored
    else
      let t := s.countReset 3
      if t.bu.lastDone < 7 ∨ !t.bu.computeOn ∨ t.bu.computeHeld ∨ t.bu.crstLow then t
      else
        let u := t.clearDies [die]
        { u with bu := { u.bu with diesHeld := setIns u.bu.diesHeld die } }
  | 4 => if s.firm.runningCw.isNone then s.cmdIgnored else if s.ctlHeld then s else s.fwReset none
  | _ => s

/-- BU_RESET_MODULE. -/
def execBuResetModule (key : Half) (s : State) : Host.Outcome State Fault Refusal := .next (s.buReset key.toNat 1 0)
/-- BU_RESET_COMPUTE. -/
def execBuResetCompute (key : Half) (s : State) : Host.Outcome State Fault Refusal := .next (s.buReset key.toNat 2 0)
/-- BU_RESET_DIE. -/
def execBuResetDie (key : Half) (cd : CdIx) (s : State) : Host.Outcome State Fault Refusal := .next (s.buReset key.toNat 3 cd)
/-- BU_RESET_FIRMWARE. -/
def execBuResetFirmware (key : Half) (s : State) : Host.Outcome State Fault Refusal := .next (s.buReset key.toNat 4 0)

/-! ### The reference clock (R438) -/

/-- REFCLK_LOST (R438): with LOR_COMPAT a module reset, else holdover; before CLOCKS_START the loss shows at that step. -/
def execRefclkLost (now strapMv : Nat) (s : State) : Host.Outcome State Fault Refusal :=
  let s := s.at_ now
  if !s.pw.refclk then .next s
  else
    let t : State := { s with pw := { s.pw with refclk := false } }
    if !s.pw.gtcRunning then .next t
    else if s.lorCompat then .next (t.resetModule false 5 (some strapMv) false)
    else .next (({ t with pw := { t.pw with holdover := some s.now } } : State).notice0 6 0x1204 [])

/-- REFCLK_BACK (R438): holdover ends, and with it the safe stop. -/
def execRefclkBack (now : Nat) (s : State) : Host.Outcome State Fault Refusal :=
  let s := s.at_ now
  let t : State := { s with pw := { s.pw with refclk := true } }
  match s.pw.holdover with
  | none => .next t
  | some c =>
    let w := BitVec.ofNat 128 ((s.now - c) / 1000 % 2 ^ 32 + b2n s.pw.safeStopped * 2 ^ 32)
    .next (({ t with pw := { t.pw with holdover := none, safeStopped := false } } : State).notice0 5 0x1205 [w])

/-- REFCLK_SAFE_STOP (R438): 1 ms after the loss every running batch stops and every region in S0 to S2 is sent to S3. -/
def execRefclkSafeStop (now : Nat) (s : State) : Host.Outcome State Fault Refusal :=
  let s := s.at_ now
  match s.pw.holdover with
  | none => .next s
  | some c =>
    if s.now < c + 1000000 ∨ s.pw.safeStopped then .next s
    else
      let s : State := { s with pw := { s.pw with safeStopped := true } }
      let s := (s.batches.foldl (fun s p => s.stopBatch p.1 stInternal 0 false) s).settleAll
      let rs := (List.range 64).filter (fun r => decide ((s.region r).sleep.num ≤ 2) || (s.region r).busy)
      .next (rs.foldl (fun (s : State) r => s.request r .s3) s).settleWakes

end Sys2Proof.Machine
end

