-- ==== Sys2Proof/Machine/Defects.lean ====
section
/-!
DEFINITION. The defect list at bring-up: what BASE_POWER applies of it (R198, R411, R480) and how SOD_TEST acts on what it finds
(R409, R410, Tables 15.12 and 15.13).
-/
namespace Sys2Proof.Machine

/-! ### Applying the list at BASE_POWER (R411) -/

/-- The CD of a cell entry's UNIT (Table 15.13). -/
def cellUnitCd (unit : Nat) : Nat := if 0x8000 ≤ unit then (unit - 0x8000) / 256 else unit / 256

/-- A physical column is out of use. -/
def State.columnOut (s : State) (cd phys : Nat) : State := s.modCd cd (fun x => { x with retired := setIns x.retired phys })

/-- A wavelength position is out of use, its lane on a spare idle position when one took it. -/
def PortSt.positionOut (x : PortSt) (pos : Nat) (substituted : Bool) : PortSt :=
  match x.spareIdle with
  | some i => if substituted && decide (x.lane pos < 16) then (x.setLane i (x.lane pos)).setLane pos 31 else x.setLane pos 31
  | none => x.setLane pos 31

/-- A position of a port is out of use: an edge port identifies itself with the map that follows (R175, R225). -/
def State.positionOut (s : State) (p pos : Nat) (substituted : Bool) : State :=
  (s.modPort p (fun x => x.positionOut pos substituted)).announceMap p

/-- The lanes of a port as trim chose them: the service positions carry lanes 0 to 15 in their order, the other two stand spare idle. -/
def trimLanes (a b : Nat) : Tbl Nat :=
  let service := (List.range 18).filter (fun i => i != a && i != b)
  service.zipIdx ++ [(a, 16), (b, 16)]

/-- Every port, bank and selector stands as factory trim left it (R198). -/
def State.applyTrim (s : State) : State :=
  let ports := s.firm.trim.spares.map (fun e => (e.1, ({ lanes := trimLanes e.2.1 e.2.2 } : PortSt)))
  let s : State := { s with ports := ports, banks := [], selectors := [] }
  ports.foldl (fun (s : State) e => s.announceMap e.1) s

/-- A bank that the list holds: the feed group of one that served goes over to a spare bank, or is dark (R183). -/
def State.bankOut (s : State) (b action : Nat) : State :=
  let feed := s.bankFeed b
  let s := s.modBank b (fun x => { x with removed := true })
  match feed, action with
  | some f, 1 => match s.spareBank (b / 20) with
    | some n => { s with selectors := tset s.selectors f n }
    | none => s
  | some f, 2 => (feedPorts f).foldl (fun (s : State) p => s.modPort p (fun x => { x with dark := true })) s
  | _, _ => s

/-- A pseudo-channel that the list holds: its spare carries it, or it was a spare, or its site is degraded (R211, R212). -/
def State.pcOut (s : State) (m phys action : Nat) : State :=
  let x := s.site m
  if x.sparePcs.contains phys then s.modSite m (fun y => { y with sparePcs := setDel y.sparePcs phys })
  else match x.logical phys, x.sparePcs, action with
  | some l, sp :: rest, 1 => s.modSite m (fun y => { y with pcMap := tset y.pcMap l sp, sparePcs := rest })
  | _, _, _ => s.modSite m (fun y => { y with degraded := true })

/-- A regulator phase that the list holds: replaced by its group's spare, or its group runs on seven (R440). -/
def State.phaseOut (s : State) (p action : Nat) : State :=
  match action with
  | 1 => (s.modPhase p (fun x => { x with isOpen := true })).modGroup (p / 9) (fun y => { y with spareUsed := true })
  | 2 => (s.modPhase p (fun x => { x with isOpen := true })).modGroup (p / 9) (fun y => { y with spareUsed := true, onSeven := true })
  | _ => s

/-- Whether an entry with ACTION 0 records a spare removed from its pool (R479); a region entry and a phase that did not wake do not. -/
def isSpareEntry (d : Defect) : Bool := d.action == 0 && d.kind != 3 && (d.kind != 4 || d.unit % 9 == 8)

/-- Count an entry at its spare pool (R480): a spare taken, or one removed. -/
def State.countPool (s : State) (d : Defect) : State :=
  let k := poolKey d.kind (poolOf d.kind d.unit d.detail)
  let f := s.firm
  if d.action = 1 then { s with firm := { f with sparesTaken := tset f.sparesTaken k (tget f.sparesTaken 0 k + 1) } }
  else if isSpareEntry d then { s with firm := { f with sparesFailed := tset f.sparesFailed k (tget f.sparesFailed 0 k + 1) } }
  else s

/-- Apply one entry of the defect list. -/
def State.applyDefect (s : State) (d : Defect) : State :=
  let s := s.countPool d
  let v := d.detail.toNat
  let u := d.unit
  match d.kind with
  | 0x01 => if d.action = 2 then s else s.columnOut (cellUnitCd u) (v % 256)
  | 0x02 =>
    if d.action = 2 then (List.range 4).foldl (fun (s : State) i => s.modRegion (4 * u + i) (fun x => { x with failed := true, failCause := 2 })) s
    else s.columnOut u (v % 256)
  | 0x03 => if d.action = 2 then s.modRegion u (fun x => { x with failed := true, failCause := 2 }) else s
  | 0x04 => s.phaseOut u d.action
  | 0x05 => if d.action = 1 then s.modRegion u (fun x => { x with altPll := true }) else s
  | 0x06 => s.bankOut u d.action
  | 0x07 => if d.action = 1 then s.modPort u (fun x => { x with fieldRing := tset x.fieldRing (v % 32 / 8) (v % 32) }) else s
  | 0x08 => s.positionOut u (v % 32) (d.action == 1)
  | 0x09 => if d.action = 2 then s.modPort u (fun x => { x with failed := true }) else s
  | 0x0A => if d.action = 1 then s.modSite u (fun x => { x with rowsReplaced := x.rowsReplaced ++ [(bits v 7 0, bits v 15 8, bits v 31 16)] })
      else s
  | 0x0B => s.pcOut u (v % 256) d.action
  | 0x0C => s.modMc u (fun x => { x with role := .failed })
  | 0x0D => { s with firm := { s.firm with scs := tset s.firm.scs u { s.sc u with failed := true } } }
  | 0x0E => s.modCe u (fun c => { c with retired := true })
  | 0x0F => s.modSensor u (fun x => { x with isOpen := true })
  | 0x10 => s.laneOut u (bits v 5 5) (v % 32) (d.action == 1)
  | _ => s

/-- BASE_POWER applies the list to units that stand as factory trim leaves them, and maps the service cores (R373, R411). -/
def State.applyList (s : State) : State :=
  let f := { s.firm with sparesTaken := [], sparesFailed := [], mcs := [], scs := [], scMap := [] }
  let clean : State := { s with
    firm := f, cds := [], regions := [], groups := [], sites := [], ces := []
    phases := tmap s.phases (fun _ x => { firstLoss := x.firstLoss }) }
  (s.firm.defects.foldl (fun (s : State) d => s.applyDefect d) clean.applyTrim).mapSpares

/-! ### What SOD_TEST does with a new defect (R409) -/

/-- Enter a defect found by SOD_TEST. -/
def State.found (s : State) (d : DefectFound) (action : Nat) : State :=
  s.addDefect d.kind.toNat 1 d.unit.toNat d.detail action

/-- A spare that fails its start-of-day test leaves its pool. -/
def State.spareFails (s : State) (d : DefectFound) : State :=
  let k := poolKey d.kind.toNat (poolOf d.kind.toNat d.unit.toNat d.detail)
  let s : State := { s with firm := { s.firm with sparesFailed := tset s.firm.sparesFailed k (tget s.firm.sparesFailed 0 k + 1) } }
  (s.dropSpare d.kind.toNat d.unit.toNat d.detail).found d 0

/-- A region fails (R140), if it has not failed before. -/
def State.sodRegion (s : State) (r : Nat) : State :=
  if (s.region r).failed then s else (s.failRegion r 2).addDefect 0x03 1 r 2 2

/-- A failing cell or column (R137 to R140, R410): its physical column is retired, or with two retired already its region fails; for a
column every region of the CD, and the column's entry is the only one. -/
def State.sodColumn (s : State) (d : DefectFound) (cd phys : Nat) : State :=
  if (s.cd cd).retired.contains phys then s.found d 1
  else match s.shiftColumn cd phys with
  | some t => (t.takeSpare 0x02 cd d.unit.toNat 1).found d 1
  | none =>
    let s := s.found d 2
    if d.kind.toNat = 1 then s.sodRegion (regionOf d.unit.toNat)
    else ((List.range 4).map (4 * cd + ·)).foldl (fun (s : State) r => if (s.region r).failed then s else s.failRegion r 2) s

/-- An open or misread phase (R440). -/
def State.sodPhase (s : State) (d : DefectFound) : State :=
  let p := d.unit.toNat
  let g := p / 9
  let s := s.modPhase p (fun x => { x with isOpen := true })
  if p % 9 = 8 ∧ !(s.group g).spareUsed then s.spareFails d
  else if !(s.group g).spareUsed && s.sparesLeft 0x04 g != 0 then
    ((s.modGroup g (fun y => { y with spareUsed := true })).takeSpare 0x04 g p 1).found d 1
  else
    let seven := (s.group g).onSeven
    let s := (s.modGroup g (fun y => { y with onSeven := true })).found d 2
    match groupRegion g with
    | some r => if seven then s.sodRegion r else s
    | none => s

/-- A bank below its set point (R183). -/
def State.sodBank (s : State) (d : DefectFound) : State :=
  let b := d.unit.toNat
  match s.bankFeed b with
  | none => s.spareFails d
  | some feed =>
    let s := s.modBank b (fun x => { x with faulted := true })
    match s.spareBank (b / 20) with
    | some n => (((s.takeSpare 0x06 (b / 20) b 1).takeBank feed n)).found d 1
    | none => (s.found d 2).darken feed

/-- A pseudo-channel that fails (R211, R212). -/
def State.sodPc (s : State) (d : DefectFound) (phys : Nat) : State :=
  let m := d.unit.toNat
  let x := s.site m
  if x.sparePcs.contains phys then s.spareFails d
  else match x.logical phys, x.sparePcs with
  | some l, sp :: rest =>
    ((s.modSite m (fun y => { y with pcMap := tset y.pcMap l sp, sparePcs := rest })).takeSpare 0x0B m m 1).found d 1
  | _, _ => (s.modSite m (fun y => { y with degraded := true })).found d 2

/-- A failing row (R210, R211). -/
def State.sodRow (s : State) (d : DefectFound) : State :=
  let m := d.unit.toNat
  let v := d.detail.toNat
  let pool := rowPool m (bits v 7 0) (bits v 15 8)
  if 0 < s.sparesLeft 0x0A pool then
    ((s.modSite m (fun y => { y with rowsReplaced := y.rowsReplaced ++ [(bits v 7 0, bits v 15 8, bits v 31 16)] })).takeSpare 0x0A pool m 1).found d 1
  else (s.found d 2).sodPc { kind := 0x0B, unit := d.unit, detail := BitVec.ofNat 32 (bits v 7 0) } (bits v 7 0)

/-- A management core that fails its self-test is not one of R367's. -/
def State.sodMc (s : State) (d : DefectFound) : State :=
  let m := d.unit.toNat
  let spare := s.sparesLeft 0x0C 0 != 0
  let s := s.modMc m (fun x => { x with role := .failed })
  (if spare then s.takeSpare 0x0C 0 m 1 else s).found d (if spare then 1 else 2)

/-- Act on a defect that the list does not hold yet. -/
def State.sodDefect (s : State) (d : DefectFound) : State :=
  let u := d.unit.toNat
  let v := d.detail.toNat
  match d.kind.toNat with
  | 0x01 =>
    if 0x8000 ≤ u then (s.spareFails d) else s.sodColumn d (u / 256) (v % 256)
  | 0x02 => s.sodColumn d u (v % 256)
  | 0x04 => s.sodPhase d
  | 0x06 => s.sodBank d
  | 0x07 => s.ringFails u (v % 32) 1
  | 0x08 => s.retirePosition u (v % 32) 1
  | 0x0A => s.sodRow d
  | 0x0B => s.sodPc d (v % 256)
  | 0x0C => s.sodMc d
  | 0x0D => s.failCore u 1
  | 0x0E => s.retireEngine u 1
  | 0x0F => (s.modSensor u (fun x => { x with isOpen := true })).found d 0
  | _ => s.found d 0

/-- A unit that Table 15.13 gives a kind, for the kinds that SOD_TEST finds. -/
def sodUnitOk (d : DefectFound) : Bool :=
  let u := d.unit.toNat
  match d.kind.toNat with
  | 0x01 => decide (u < 4096) || (decide (0x8000 ≤ u) && decide (u < 0x9000))
  | 0x02 => decide (u < 16)
  | 0x0E => decide (u < 64)
  | 0x0F => decide (u < 320)
  | k => k != 0x10 && unitOk k u d.detail

/-- Take one finding of SOD_TEST: a listed defect is passed over, and safe mode has no cell tests (R401, R409). -/
def State.takeFinding (s : State) (d : DefectFound) : State :=
  let cellTest := decide (d.kind.toNat ≤ 2)
  if !sodUnitOk d || s.hasDefect d.kind.toNat d.unit.toNat d.detail || (cellTest && decide (s.bu.cfgSel = 0xF)) then s
  else s.sodDefect d

/-- A region does not wake for its cell tests (R409). -/
def State.sodWakeFail (s : State) (r : Nat) : State :=
  if (s.region r).failed || decide (s.bu.cfgSel = 0xF) then s
  else
    let s := s.modRegion r (fun x => { x with wakeFail := true })
    if s.hasDefect 0x03 r 1 then s else s.addDefect 0x03 1 r 1 0

end Sys2Proof.Machine
end

