-- ==== Sys2Proof/Machine/Bringup.lean ====
section
/-!
DEFINITION. The bring-up steps (R401 to R409, R549), the recovery of a Heartwood bank (R404), and the SMBus mirror of the window
(R408, R414, R535). A step's row is its BU_CMD write: the step is accepted and acts; BRINGUP_STEP_END reports its outcome and
BRINGUP_STEP_TIMEOUT replaces it (log entry 34). A step written through SMBus is accepted by the write and acts at its own row.
-/
namespace Sys2Proof.Machine

/-! ### Accepting a step (R401, R402, R404, R408, R535) -/

/-- Code of HW_RECOVER (Table 15.4). -/
abbrev recoverCode : Nat := 0x10

/-- Safe mode (R401). -/
def State.safeMode (s : State) : Bool := s.bu.cfgSel == 0xF

/-- Whether a code is the step that follows the last DONE step, with the omissions of safe mode (R401, R402), or QUEUES_ENABLE for a
queue 0 that is closed (R405). -/
def State.inOrder (s : State) (code : Nat) : Bool :=
  if s.bu.lastDone = 9 then code == 9 && (s.queue 0).state == .closed
  else if s.safeMode && s.bu.lastDone == 6 then code == 9
  else code == s.bu.lastDone + 1

/-- FAILED's DATA: UNIT and SUB (Table 15.6). -/
def failData (unit sub : Nat) : DWord := BitVec.ofNat 64 (unit % 65536 * 2 ^ 16 + sub % 256 * 2 ^ 8)

/-- Why a step fails at once, with its DATA (R401, R402, R404, Table 15.8); none when it is accepted. -/
def State.stepFault (s : State) (code : Nat) (smbus : Bool) : Option (Byte × DWord) :=
  if s.bu.xtalFailed then some (if code = 1 then 7 else 1, 0)
  else if code = 1 ∧ s.bu.latched.isSome then s.bu.latched
  else if s.safeMode ∧ (code = 7 ∨ code = 8) then some (2, 0)
  else if !(if code = recoverCode then s.bu.noBank && s.bu.lastDone == 4 else s.inOrder code) then some (1, 0)
  else if smbus ∧ (code = 6 ∨ code = 9 ∨ code = recoverCode) then some (3, 0)
  else none

/-- A step ends: STATE DONE or FAILED with its result, and the alert pin goes low (R402, R414). -/
def State.endStep (s : State) (cause : Byte) (data : DWord) : State :=
  { s with bu := { s.bu with
      state := if cause = 0 then 2 else 3, resultCause := cause, resultData := data, awaits := false, smbAlert := true } }

/-- A step has been accepted: STATE is BUSY and its action begins (R402). -/
def State.stepBegun (s : State) (code : Nat) : State :=
  { s with bu := { s.bu with
      step := code % 256, state := 1, resultCause := 0, resultData := 0, outcome := (0, 0), awaits := false } }

/-- A write of BU_CMD (R402): ignored while BUSY, failed at once, or accepted, when the step begins its action by `act`. -/
def State.writeCmd (s : State) (code : Nat) (smbus : Bool) (act : State → State) : State :=
  if s.bu.state = 1 then s.cmdIgnored
  else
    let s := { s with bu := { s.bu with step := code % 256 } }
    match s.stepFault code smbus with
    | some f => s.endStep f.1 f.2
    | none => act (s.stepBegun code)

/-- Whether a write of a port or of SMBus reaches the window: while the island is held in reset, only that of BASE_POWER after a
failure of the Peat crystal is answered (R408, R535). -/
def State.windowOpenTo (s : State) (v : Via) : Bool :=
  s.bu.vaux && s.bu.islandUp && (match v with | .port p => (s.pcie p).linkUp | .smbus => true)

/-- A step's row: the accepted step that waits to begin begins, else the row is the write of BU_CMD. -/
def State.runStep (s : State) (code : Nat) (v : Via) (act : State → State) : State :=
  if s.bu.state = 1 ∧ s.bu.awaits ∧ s.bu.step = code then act { s with bu := { s.bu with awaits := false } }
  else if s.windowOpenTo v || (s.bu.vaux && s.bu.xtalFailed) then s.writeCmd code (v == .smbus) act
  else if s.bu.vaux && v == .smbus then s.cmdIgnored
  else s

/-- The running step will end FAILED. -/
def State.fails (s : State) (cause : Byte) (unit sub : Nat) : State :=
  { s with bu := { s.bu with outcome := (cause, failData unit sub) } }

/-- The running step will end DONE. -/
def State.succeeds (s : State) (data : Nat) : State := { s with bu := { s.bu with outcome := (0, BitVec.ofNat 64 data) } }

/-- The running step ends FAILED with MGMT_CORES when fewer than three boot cores agree (R368). -/
def State.voted (s : State) (cores : Nat) (act : State → State) : State := if cores < 3 then s.fails 0x0D 0 cores else act s

/-! ### BASE_POWER (R141 to R144, R368, R382, R411, R474) -/

/-- The first quadrant whose bumps do not decode, or decode to the number of an earlier one (R141, R142). -/
def badQuadrant : List (BitVec 4) → Nat → List Nat → Option (Nat × Nat)
  | [], _, _ => none
  | b :: t, i, seen =>
    match setBits b.toNat 4 with
    | [n] => if seen.contains n then some (i, b.toNat) else badQuadrant t (i + 1) (n :: seen)
    | _ => some (i, b.toNat)

/-- The place in the forty fuses of a die: of the silicon quadrant that the bumps give its quadrant's number, its site (R141, R143,
Table 6.2). -/
def fusePlace (orient : List Nat) (cd : Bool) (n : Nat) : Nat :=
  if cd then orient.idxOf (n / 4) * 10 + n % 4 else orient.idxOf (n / 6) * 10 + 4 + n % 6

/-- The first fuse that fails, with the expected logical number and SUB (R143, R144, Table 15.8). -/
def badFuse (orient : List Nat) (l : List Fuse) : Option (Nat × Nat) :=
  ((List.range 16).map (fun n => (true, n)) ++ (List.range 24).map (fun n => (false, n))).findSome? (fun x =>
    let f := l.getD (fusePlace orient x.1 x.2) ⟨0, false⟩
    let w := f.word.toNat
    if !f.checkOk then some (x.2, 1)
    else if bits w 15 12 ≠ (if x.1 then 1 else 2) then some (x.2, 2)
    else if bits w 5 0 ≠ x.2 then some (x.2, 3) else none)

/-- The floors in force after a boot: of each the larger copy (R382). -/
def joinFloors (a b : Word) : Word :=
  BitVec.ofNat 32 (max (bits a.toNat 31 16) (bits b.toNat 31 16) * 2 ^ 16 + max (bits a.toNat 15 0) (bits b.toNat 15 0))

/-- BASE_POWER takes the settings bank with the higher SEQ, or the defaults (R474), and rewrites the smaller copy of a floor (R382). -/
def State.loadSettings (s : State) : State :=
  let f := s.firm
  let useB := f.setB.valid && (!f.setA.valid || decide (f.setA.seq < f.setB.seq))
  let bank := if useB then f.setB else f.setA
  let floors := if bank.valid then joinFloors bank.floors s.bu.monotonic else s.bu.monotonic
  let g := if !bank.valid then f
    else if useB then { f with setB := { f.setB with floors := floors } } else { f with setA := { f.setA with floors := floors } }
  let set := fun (k : Nat) (d : Bytes) => if bank.valid then tget bank.sets [] k else bytesMem d
  let put := fun (s : State) (k : Nat) (m : Memory) => s.modCset k (fun _ => { active := m, shadow := m })
  let s : State := { s with
    firm := { g with setInForceB := useB, seqInForce := if bank.valid then bank.seq else 0, floors := floors }
    bu := { s.bu with monotonic := floors } }
  let s := put s 1 (set 1 defaultPstates)
  let s := put s 2 (set 2 defaultLimits)
  let s := put s 3 (memWrite (set 3 defaultTurfMap) 0 (natLe 4 0))
  put s 9 (memWrite (set 9 (defaultReset floors)) 4 (natLe 4 floors.toNat))

/-- The action of BASE_POWER: rails, orientation, fuses, then the stored settings and the defect list; base control is released. -/
def State.basePowerAct (s : State) (o : BaseObs) : State :=
  match o.badGroup with
  | some g => s.fails 0x06 g.val 0
  | none =>
    match badQuadrant o.bumps 0 [] with
    | some x => s.fails 0x04 x.1 x.2
    | none =>
      let n := o.bumps.map (fun b => (setBits b.toNat 4).headD 0)
      match badFuse n o.fuses with
      | some x => s.fails 0x05 x.1 x.2
      | none => s.voted o.votingCores (fun s =>
          let s := s.loadSettings.applyList
          ({ s with bu := { s.bu with baseOn := true, orient := n } } : State).succeeds 0)

/-- BASE_POWER, step 0x01. -/
def execBasePower (v : Via) (o : BaseObs) (s : State) : Host.Outcome State Fault Refusal :=
  if o.bumps.length ≠ 4 ∨ o.fuses.length ≠ 40 then .fault .illFormed
  else .next (s.runStep 1 v (fun s => s.basePowerAct o))

/-! ### CLOCKS_START (R416, R431, R438) -/

/-- CLOCKS_START, step 0x02: the GTC starts at 0. -/
def execClocksStart (o : ClockStart) (s : State) : Host.Outcome State Fault Refusal :=
  .next (s.runStep 2 o.via (fun s =>
    if !s.pw.refclk then s.fails 0x08 0 0
    else s.voted o.votingCores (fun s => ({ s with bu := { s.bu with clocksOn := true }, pw := { s.pw with gtcRunning := true, gtc := 0, schedCycles := 0, modCycles := 0, pstate := s.pWanted } } : State).succeeds 0)))

/-! ### TRAIN (R213, R223, R314) -/

/-- Every site holds zeros without a mark (R213). -/
def State.zeroSites (s : State) : State :=
  { s with
    mem := s.mem.filter (fun c => decide (c.1 < 16 * 2 ^ 48)), marks := s.marks.filter (fun a => decide (a < 16 * 2 ^ 48)), flaws := [] }

/-- The action of TRAIN: photonics and memory controllers are released, the sites are zeroed, and every link starts. -/
def State.trainAct (s : State) (o : TrainObs) : State :=
  let s := { s with bu := { s.bu with photonicsOn := true, memoryOn := true } }
  let s := (List.range 352).foldl (fun (s : State) l => s.trainLink l) s.zeroSites
  match o.badGroup, o.badPort, o.badSite with
  | some g, _, _ => s.fails 0x06 g.val 0
  | none, some p, _ => s.fails 0x0B p.val 0
  | none, none, some x => s.fails 0x0A x.1.val (if x.2 = 2 then 2 else 1)
  | none, none, none => s.voted o.votingCores (fun s => s.succeeds 0)

/-- A fibre is in service: its two data channels or sublinks are. -/
def State.fibreServes (s : State) (f : Nat) : Bool :=
  (List.range 2).all (fun g => decide ((s.link (fibreLaneLink f g)).state = .inService))

/-- DATA of a TRAIN that is DONE (Table 15.7): sites trained, fibres in service, in-package ports with a retired position. -/
def State.trainData (s : State) : DWord :=
  let retired := s.ports.filter (fun p => (List.range 18).any (fun i => p.2.lane i == 31))
  BitVec.ofNat 64 (24 * 2 ^ 56 + ((List.range 128).filter s.fibreServes).length * 2 ^ 48 + retired.length % 65536 * 2 ^ 32)

/-- TRAIN, step 0x03. -/
def execTrain (v : Via) (o : TrainObs) (s : State) : Host.Outcome State Fault Refusal := .next (s.runStep 3 v (fun s => s.trainAct o))

/-! ### SOD_TEST (R409 to R412) -/

/-- Regions that failed or did not wake. -/
def State.unavailable (s : State) : Nat := ((List.range 64).filter (fun r => (s.region r).failed || (s.region r).wakeFail)).length

/-- The action of SOD_TEST. -/
def State.sodAct (s : State) (o : SodObs) : State :=
  s.voted o.votingCores (fun s =>
    let before := s.firm.defects.length
    let s := o.defects.foldl (fun (s : State) d => s.takeFinding d) s
    let s := (o.wakeFails.map (fun r => r.val)).foldl (fun (s : State) r => s.sodWakeFail r) s
    let n := s.firm.defects.length
    s.succeeds ((n - before) * 2 ^ 48 + n * 2 ^ 32 + s.unavailable * 2 ^ 8))

/-- SOD_TEST, step 0x04. -/
def execSodTest (v : Via) (o : SodObs) (s : State) : Host.Outcome State Fault Refusal := .next (s.runStep 4 v (fun s => s.sodAct o))

/-! ### LOAD_HEARTWOOD and HW_RECOVER (R367, R381, R384, R404) -/

/-- A Heartwood bank's image is valid (R381, R473): its key slot, its SVN, its PEER_MIN; its bytes were verified when it was written. -/
def State.bankUsable (s : State) (b : HwBank) : Option FwImage :=
  match b.img with
  | none => none
  | some i => if b.valid && !s.firm.revoked.contains i.key && decide (s.floorOf 1 ≤ i.svn) && peerMet i.peerMin s.firm.runningCw then some i else none

/-- The bank the boot ROM runs: the valid one of higher RELEASE, bank A on a tie (R384). -/
def State.chooseBank (s : State) : Option (Bool × FwImage) :=
  match s.bankUsable s.firm.bankA, s.bankUsable s.firm.bankB with
  | some a, some b => if a.release < b.release then some (true, b) else some (false, a)
  | some a, none => some (false, a)
  | none, some b => some (true, b)
  | none, none => none

/-- Management cores that may run Heartwood: none of the retired and failed (R367, R368). -/
def State.goodCores (s : State) : List Nat := (List.range 4).filter (fun m => (s.mc m).role != .failed && (s.mc m).role != .retired)

/-- The action of LOAD_HEARTWOOD: the three lowest cores vote, a fourth stands by. -/
def State.loadHeartwoodAct (s : State) : State :=
  let good := s.goodCores
  let s := { s with bu := { s.bu with noBank := false } }
  if good.length < 3 then s.fails 0x0D 0 good.length
  else match s.chooseBank with
  | none => ({ s with bu := { s.bu with noBank := true } } : State).fails 0x0C 0 0
  | some (b, i) =>
    let s := good.zipIdx.foldl (fun (s : State) m => s.modMc m.1 (fun x => { x with role := if m.2 < 3 then .running else .standby })) s
    ({ s with firm := { s.firm with runningHw := some i, runningBankB := b } } : State).succeeds (i.release * 2 ^ 48 + b2n b * 2 ^ 8)

/-- LOAD_HEARTWOOD, step 0x05. -/
def execLoadHeartwood (v : Via) (s : State) : Host.Outcome State Fault Refusal := .next (s.runStep 5 v (fun s => s.loadHeartwoodAct))

/-- A bank has completed LOAD_HEARTWOOD: the first time it raises the floor and, with REVOKE_LOWER, revokes the slots below its key
(R383, R384). -/
def State.bankBooted (s : State) : State :=
  let b := if s.firm.runningBankB then s.firm.bankB else s.firm.bankA
  match s.firm.runningHw with
  | none => s
  | some i =>
    if b.booted then s
    else
      let c := { b with booted := true }
      let rv := if i.revokeLower then (List.range i.key).foldl setIns s.firm.revoked else s.firm.revoked
      let f := if s.firm.runningBankB then { s.firm with bankB := c } else { s.firm with bankA := c }
      ({ s with firm := { f with revoked := rv } } : State).raiseFloor 1 i.svn

/-- A BU_ARG register. -/
def State.arg (s : State) (n : Nat) : Nat := (tget s.bu.args 0 n).toNat

/-- What a fetch of ARG1 bytes brings, or the SUB of FETCH (Table 15.8): the port is down, the read failed, or the length is above the
code store half (R366). -/
def State.fetched (s : State) (data : Option Bytes) : Except Nat Bytes :=
  if 36 * 2 ^ 20 < s.arg 1 then .error 2
  else match data with
  | none => .error 1
  | some d => .ok d

/-- Whether what a fetch brought is as long as the fetch. -/
def State.fetchFits (s : State) (data : Option Bytes) : Bool :=
  match data with
  | none => true
  | some d => decide (36 * 2 ^ 20 < s.arg 1) || decide (d.length = s.arg 1)

/-- The running step fails with IMAGE (Table 14.7). -/
def State.imageFails (s : State) (c : Nat) : State :=
  let r := s.fwCause c
  r.2.fails 0x0F 0 r.1

/-- The action of HW_RECOVER: a valid patch begins to be written to the named bank, whose commit record is invalidated first (R473). -/
def State.recoverAct (s : State) (data : Option Bytes) : State :=
  match s.fetched data with
  | .error n => s.fails 0x0E 0 n
  | .ok b =>
    match s.fwFault 1 b s.firm.runningCw with
    | some c => s.imageFails c
    | none =>
      let toB := (s.arg 2).testBit 0
      let w : BankWrite := { heartwood := true, bankB := toB, image := some (fwImageOf b), fromWindow := true }
      let f := if toB then { s.firm with bankB := { s.firm.bankB with valid := false } }
        else { s.firm with bankA := { s.firm.bankA with valid := false } }
      { s with firm := { f with write := some w } }

/-- HW_RECOVER (R404). -/
def execHwRecover (v : Via) (data : Option Bytes) (s : State) : Host.Outcome State Fault Refusal :=
  if !s.fetchFits data then .fault .illFormed else .next (s.runStep recoverCode v (fun s => s.recoverAct data))

/-! ### LOAD_CORDWOOD (R366, R376, R381, R385) -/

/-- The action of LOAD_CORDWOOD. -/
def State.loadCordwoodAct (s : State) (data : Option Bytes) : State :=
  match s.fetched data with
  | .error n => s.fails 0x0E 0 n
  | .ok b =>
    let s := { s with firm := { s.firm with staged := memWrite [] 0 b, stagedTop := b.length } }
    let cores := s.scServing.length
    match s.fwFault 2 b s.firm.runningHw with
    | some c => s.imageFails c
    | none =>
      if cores < 8 then s.fails 0x10 0 cores
      else
        let s := s.runStaged
        ({ s with bu := { s.bu with cordwoodUp := true } } : State).succeeds (fwRelease s.firm.runningCw * 2 ^ 48 + cores * 2 ^ 8)

/-- LOAD_CORDWOOD, step 0x06: `data` is what the fetch through the port brought. -/
def execLoadCordwood (v : Via) (data : Option Bytes) (s : State) : Host.Outcome State Fault Refusal :=
  if !s.fetchFits data then .fault .illFormed else .next (s.runStep 6 v (fun s => s.loadCordwoodAct data))

/-! ### CELLS_POWER and STEWARD_BROADCAST (R394, R395, R403, R406) -/

/-- The action of CELLS_POWER: every region not failed is woken; while CRST_N is low the step waits (R395). -/
def State.cellsPowerAct (s : State) (wakeFails : List RegionIx) (badGroup : Option GroupIx) : State :=
  if s.bu.crstLow then { s with bu := { s.bu with awaits := true } }
  else
    let s := { s with bu := { s.bu with computeOn := true } }
    let due := (List.range 64).filter (fun r => !(s.region r).failed && (s.region r).sleep != .s0)
    let s := due.foldl (fun (s : State) r =>
      if wakeFails.any (fun x => x.val == r) then s.wakeFailed r 1 []
      else (s.modRegion r (fun x => { x with wakeFail := false })).wakeDone r true) s
    let up := ((List.range 64).filter (fun r => (s.region r).sleep == .s0)).length
    let wf := ((List.range 64).filter (fun r => (s.region r).wakeFail)).length
    match badGroup with
    | some g => s.fails 0x06 g.val 0
    | none => s.succeeds (up * 2 ^ 8 + wf * 2 ^ 16)

/-- CELLS_POWER, step 0x07. -/
def execCellsPower (v : Via) (wakeFails : List RegionIx) (badGroup : Option GroupIx) (s : State) : Host.Outcome State Fault Refusal :=
  .next (s.runStep 7 v (fun s => s.cellsPowerAct wakeFails badGroup))

/-- A faulted cell of the broadcast is retired with the physical column it stands on, unless that has just been shifted away. -/
def State.badCell (s : State) (x : Nat × Nat) : State :=
  if (s.cd (x.1 / 256)).retired.contains x.2 then s else (s.retireCell x.1 2).2

/-- The action of STEWARD_BROADCAST. -/
def State.broadcastAct (s : State) (resent : Nat) (bad : List CellIx) : State :=
  let sec := match s.firm.runningCw with | some i => i.steward | none => []
  let s := { s with firm := { s.firm with stewardCopy := sec } }
  let awake := (List.range 4096).filter (fun c => (s.region (regionOf c)).sleep == .s0)
  let s := awake.foldl (fun (s : State) c => s.modCell c (fun x => { x with steward := sec })) s
  let cells := (bad.map (fun c => c.val)).eraseDups.filter awake.contains
  let worn := cells.map (fun c => (c, physColumn (s.cd (c / 256)).retired (c % 16)))
  let s := worn.foldl (fun (s : State) x => s.badCell x) s
  s.succeeds (resent % 65536 * 2 ^ 48 + cells.length * 2 ^ 32)

/-- STEWARD_BROADCAST, step 0x08. -/
def execStewardBroadcast (v : Via) (resent : Nat) (bad : List CellIx) (s : State) : Host.Outcome State Fault Refusal :=
  .next (s.runStep 8 v (fun s => s.broadcastAct resent bad))

/-! ### QUEUES_ENABLE (R59, R337, R399, R405) -/

/-- SUB of QUEUE_ARG (Table 15.8): ring size, placement, port, vector (log entry 35). -/
def State.queueArgFault (s : State) : Option Nat :=
  let g := s.arg 2
  let size := fun (n : Nat) => decide (4 ≤ n) && decide (n ≤ 12)
  let place := fun (m : Bool) (addr bytes : Nat) => decide (addr % 4096 = 0) && (!m || (s.ringRefusal 0 addr bytes).isNone)
  if !(size (bits g 3 0) && size (bits g 7 4)) then some 1
  else if !(place (g.testBit 8) (s.arg 0) (64 * 2 ^ bits g 3 0) && place (g.testBit 9) (s.arg 1) (16 * 2 ^ bits g 7 4)) then some 2
  else if bits g 15 11 ≠ 0 ∨ !(s.pcie (bits g 10 10)).linkUp then some 3
  else if bits g 31 28 ≠ 0 then some 4
  else none

/-- Open queue 0 (R337). -/
def State.openQueue0 (s : State) : State :=
  let g := s.arg 2
  let s := s.modQueue 0 (fun x => {
    x with
    state := .opened, cause := 0, turf := 0, port := bits g 10 10, sqAddr := BitVec.ofNat 64 (s.arg 0)
    cqAddr := BitVec.ofNat 64 (s.arg 1), sqLog2 := bits g 3 0, cqLog2 := bits g 7 4, sqMod := g.testBit 8
    cqMod := g.testBit 9, vecEn := g.testBit 27, vector := bits g 26 16, sqHead := 0, sqTail := 0, cqHead := 0, cqTail := 0
    phase := true, reserved := 0, renewed := s.now, noTerm := true, notices := {}, closeMode := 0 })
  s.bindEntry 0

/-- The completion of R399 for a command that a reset interrupted. -/
def State.reportLastOp (s : State) : State :=
  match s.bu.lastopShown with
  | none => s
  | some (op, q, tag) => s.writeCqe 0 tag stNotCommitted 0 false (BitVec.ofNat 64 (op + q * 2 ^ 16))

/-- The action of QUEUES_ENABLE. -/
def State.queuesAct (s : State) : State :=
  match s.queueArgFault with
  | some n => s.fails 0x11 0 n
  | none =>
    let had := s.bu.lastopShown.isSome
    let s := s.openQueue0.reportLastOp
    s.succeeds (b2n had * 2 ^ 8)

/-- QUEUES_ENABLE completes: the last-operation record is empty, and the ricks leave MODE 1 but in a test mode (R59, R399). -/
def State.queuesDone (s : State) : State :=
  { s with ricksHeld := s.testMode, bu := { s.bu with
    queuesUp := true, lastopShown := none, lastopScope := 0, record := if s.bu.lastopShown.isSome then none else s.bu.record } }

/-- QUEUES_ENABLE, step 0x09. -/
def execQueuesEnable (v : Via) (s : State) : Host.Outcome State Fault Refusal := .next (s.runStep 9 v (fun s => s.queuesAct))

/-! ### The end of a step (R402, R414, R549) -/

/-- BRINGUP_STEP_END (R402): the running step's outcome is reported; a bank write of HW_RECOVER is waited for. -/
def execBringupStepEnd (s : State) : Host.Outcome State Fault Refusal :=
  let writing : Bool := match s.firm.write with | some w => w.fromWindow | none => false
  if s.bu.state ≠ 1 ∨ s.bu.awaits ∨ writing then .next s
  else
    let o := if s.bu.step = 3 ∧ s.bu.outcome.1 = 0 then (0, s.trainData) else s.bu.outcome
    let t := s.endStep o.1 o.2
    let code := s.bu.step
    if o.1 ≠ 0 then .next { t with bu := { t.bu with latched := if o.1 = 4 ∨ o.1 = 5 then some o else t.bu.latched } }
    else if code = recoverCode then .next t
    else
      let t := { t with bu := { t.bu with lastDone := code, cwData := if code = 6 then o.2 else t.bu.cwData } }
      .next (if code = 5 then t.bankBooted else if code = 9 then t.queuesDone else t)

/-- The parts of a step that TIMEOUT can name (R549, Table 15.15). -/
def stepParts (code : Nat) : Nat :=
  match code with
  | 1 => 3 | 3 => 4 | 4 => 8 | 5 => 2 | 6 => 3 | 7 => 4 | 8 => 2 | _ => 0

/-- What only a completed step leaves is taken back when it times out; the domains it released stay released (R402). -/
def State.undoStep (s : State) (code : Nat) : State :=
  match code with
  | 2 => { s with pw := { s.pw with gtcRunning := false } }
  | 5 => { s with firm := { s.firm with
      runningHw := none, mcs := tmap s.firm.mcs (fun _ x => if x.role = .running ∨ x.role = .standby then { x with role := .off } else x) } }
  | 6 => { s with firm := { s.firm with runningCw := none }, bu := { s.bu with cordwoodUp := false } }
  | 9 => s.modQueue 0 (fun x => { x with state := .closed })
  | 16 => { s with firm := { s.firm with write := none } }
  | _ => s

/-- BRINGUP_STEP_TIMEOUT (R402, R549): a step still BUSY at its limit; the limit of a CELLS_POWER that waits for CRST_N counts from the
pin's rise (R395). -/
def execBringupStepTimeout (sub : Byte) (s : State) : Host.Outcome State Fault Refusal :=
  let n := stepParts s.bu.step
  let known := if n = 0 then decide (sub = 0) else decide (1 ≤ sub.toNat) && decide (sub.toNat ≤ n)
  if s.bu.state ≠ 1 ∨ !known ∨ (s.bu.awaits ∧ s.bu.crstLow) then .next s
  else .next ((s.undoStep s.bu.step).endStep 9 (failData 0 sub.toNat))

/-! ### The SMBus mirror (R408, R414, R535) -/

/-- MIRROR_STATUS_READ (R414): the alert pin is released. -/
def execMirrorStatusRead (s : State) : Host.Outcome State Fault Refusal :=
  .next (if s.bu.vaux then { s with bu := { s.bu with smbAlert := false } } else s)

/-- The 7-bit address of the mirror (R408). -/
def State.mirrorAddr (s : State) : Nat := if s.bu.cfgSel ≤ 7 then 0x60 + s.bu.cfgSel else 0x6F

/-- A byte of the window written through the mirror; BU_RESET is written as a whole. -/
def State.mirrorByte (s : State) (off : Nat) (b : Byte) : State :=
  if 0x110 ≤ off ∧ off < 0x130 ∧ s.bu.islandUp then
    let i := (off - 0x110) / 8
    let old := natLe 8 (s.arg i)
    { s with bu := { s.bu with args := tset s.bu.args i (BitVec.ofNat 64 (leNat (splice old (off % 8) [b]))) } }
  else if off = 0x107 ∧ b.toNat.testBit 5 then { s with bu := { s.bu with cmdIgnored := false } }
  else if off = 0x100 then
    (if s.bu.islandUp || s.bu.xtalFailed then
      s.writeCmd b.toNat true (fun s => { s with bu := { s.bu with awaits := true } })
     else s.cmdIgnored)
  else s

/-- The value a block write gives BU_RESET, when it touches it; bytes it does not carry are 0. -/
def mirrorReset (off : Nat) (data : Bytes) : Option Nat :=
  let hit := data.zipIdx.filter (fun x => decide (0x140 ≤ off + x.2) && decide (off + x.2 < 0x144))
  if hit.isEmpty then none else some (hit.map (fun x => x.1.toNat * 2 ^ (8 * (off + x.2 - 0x140)))).sum

/-- SMBUS_BLOCK_WRITE (R408, R535). -/
def execSmbusBlockWrite (address : BitVec 7) (offset : Half) (data : Bytes) (s : State) : Host.Outcome State Fault Refusal :=
  if !s.bu.vaux || address.toNat != s.mirrorAddr then .next s
  else
    let t := data.zipIdx.foldl (fun (s : State) x => s.mirrorByte (offset.toNat + x.2) x.1) s
    match mirrorReset offset.toNat data with
    | none => .next t
    | some v => .next (t.buReset (bits v 31 16) (bits v 2 0) (bits v 11 8))

end Sys2Proof.Machine
end

