-- ==== Sys2Proof/Machine/Dispatch.lean ====
section
/-!
DEFINITION. The dispatch: one arm per command, each one call of its meaning.
-/
namespace Sys2Proof.Machine

/-- The effect of a command on everything but the queue of waiting commands. -/
def exec (i : Instr) (s : State) : Host.Outcome State Fault Refusal :=
  match i with
  | .nop q slot => Sys2Proof.Machine.execNop q slot s
  | .openQueue q slot => Sys2Proof.Machine.execOpenQueue q slot s
  | .closeQueue q slot => Sys2Proof.Machine.execCloseQueue q slot s
  | .bindTurf q slot => Sys2Proof.Machine.execBindTurf q slot s
  | .queryIdentity q slot => Sys2Proof.Machine.execQueryIdentity q slot s
  | .queryQueue q slot => Sys2Proof.Machine.execQueryQueue q slot s
  | .queryNotices q slot => Sys2Proof.Machine.execQueryNotices q slot s
  | .loadImage q slot data => Sys2Proof.Machine.execLoadImage q slot data s
  | .unloadImage q slot => Sys2Proof.Machine.execUnloadImage q slot s
  | .runBatch q slot => Sys2Proof.Machine.execRunBatch q slot s
  | .abort q slot => Sys2Proof.Machine.execAbort q slot s
  | .alloc q slot => Sys2Proof.Machine.execAlloc q slot s
  | .free q slot => Sys2Proof.Machine.execFree q slot s
  | .copy q slot => Sys2Proof.Machine.execCopy q slot s
  | .fill q slot => Sys2Proof.Machine.execFill q slot s
  | .mapAperture q slot => Sys2Proof.Machine.execMapAperture q slot s
  | .setTuningGapGap q slot => Sys2Proof.Machine.execSetTuningGapGap q slot s
  | .setTuningGapAccept q slot => Sys2Proof.Machine.execSetTuningGapAccept q slot s
  | .setTuningGapHold q slot => Sys2Proof.Machine.execSetTuningGapHold q slot s
  | .syncCreateCreate q slot => Sys2Proof.Machine.execSyncCreateCreate q slot s
  | .syncCreateRelease q slot => Sys2Proof.Machine.execSyncCreateRelease q slot s
  | .syncCreateTakeOver q slot => Sys2Proof.Machine.execSyncCreateTakeOver q slot s
  | .syncSignal q slot => Sys2Proof.Machine.execSyncSignal q slot s
  | .syncDump q slot => Sys2Proof.Machine.execSyncDump q slot s
  | .cfgWriteShadow q slot data => Sys2Proof.Machine.execCfgWriteShadow q slot data s
  | .cfgSwap q slot => Sys2Proof.Machine.execCfgSwap q slot s
  | .cfgSwapDrainedCalendar q slot => Sys2Proof.Machine.execCfgSwapDrainedCalendar q slot s
  | .cfgSwapDrainedRouting q slot => Sys2Proof.Machine.execCfgSwapDrainedRouting q slot s
  | .cfgStore q slot => Sys2Proof.Machine.execCfgStore q slot s
  | .cfgRead q slot => Sys2Proof.Machine.execCfgRead q slot s
  | .pstateSet q slot => Sys2Proof.Machine.execPstateSet q slot s
  | .limitsRead q slot => Sys2Proof.Machine.execLimitsRead q slot s
  | .regionSleep q slot => Sys2Proof.Machine.execRegionSleep q slot s
  | .regionWake q slot => Sys2Proof.Machine.execRegionWake q slot s
  | .fabJoin q slot => Sys2Proof.Machine.execFabJoin q slot s
  | .fabLeave q slot => Sys2Proof.Machine.execFabLeave q slot s
  | .routeLoadShadow q slot => Sys2Proof.Machine.execRouteLoadShadow q slot s
  | .linkRoleSwap q slot => Sys2Proof.Machine.execLinkRoleSwap q slot s
  | .fabStatus q slot => Sys2Proof.Machine.execFabStatus q slot s
  | .ctrReadRead q slot => Sys2Proof.Machine.execCtrReadRead q slot s
  | .ctrReadClear q slot => Sys2Proof.Machine.execCtrReadClear q slot s
  | .ctrReadProgram q slot data => Sys2Proof.Machine.execCtrReadProgram q slot data s
  | .ctrReadClampCopy q slot => Sys2Proof.Machine.execCtrReadClampCopy q slot s
  | .traceStart q slot => Sys2Proof.Machine.execTraceStart q slot s
  | .traceStop q slot => Sys2Proof.Machine.execTraceStop q slot s
  | .digestArmArm q slot => Sys2Proof.Machine.execDigestArmArm q slot s
  | .digestArmDisarm q slot => Sys2Proof.Machine.execDigestArmDisarm q slot s
  | .digestArmRead q slot => Sys2Proof.Machine.execDigestArmRead q slot s
  | .clampArmSet q slot => Sys2Proof.Machine.execClampArmSet q slot s
  | .clampArmClamp q slot => Sys2Proof.Machine.execClampArmClamp q slot s
  | .clampArmFabric q slot => Sys2Proof.Machine.execClampArmFabric q slot s
  | .ashRead q slot => Sys2Proof.Machine.execAshRead q slot s
  | .healthRead q slot => Sys2Proof.Machine.execHealthRead q slot s
  | .spareSubst q slot => Sys2Proof.Machine.execSpareSubst q slot s
  | .defectListRead q slot => Sys2Proof.Machine.execDefectListRead q slot s
  | .fwUpdateStageWrite q slot data => Sys2Proof.Machine.execFwUpdateStageWrite q slot data s
  | .fwUpdateStageDiscard q slot => Sys2Proof.Machine.execFwUpdateStageDiscard q slot s
  | .fwUpdateStageAttest q slot data => Sys2Proof.Machine.execFwUpdateStageAttest q slot data s
  | .fwUpdateStageCertificate q slot => Sys2Proof.Machine.execFwUpdateStageCertificate q slot s
  | .fwActivateHeartwood q slot => Sys2Proof.Machine.execFwActivateHeartwood q slot s
  | .fwActivateCordwood q slot => Sys2Proof.Machine.execFwActivateCordwood q slot s
  | .cmdFetch q data => Sys2Proof.Machine.execCmdFetch q data s
  | .sqTailWrite q p value => Sys2Proof.Machine.execSqTailWrite q p value s
  | .cqHeadWrite q p value => Sys2Proof.Machine.execCqHeadWrite q p value s
  | .fabricQueueFetch q => Sys2Proof.Machine.execFabricQueueFetch q s
  | .fabricQueueRelease q n => Sys2Proof.Machine.execFabricQueueRelease q n s
  | .apertureWrite p offset data => Sys2Proof.Machine.execApertureWrite p offset data s
  | .apertureRead p offset len => Sys2Proof.Machine.execApertureRead p offset len s
  | .perst p => Sys2Proof.Machine.execPerst p s
  | .registerWrite r value => Sys2Proof.Machine.execRegisterWrite r value s
  | .basePower v o => Sys2Proof.Machine.execBasePower v o s
  | .clocksStart o => Sys2Proof.Machine.execClocksStart o s
  | .train v o => Sys2Proof.Machine.execTrain v o s
  | .sodTest v o => Sys2Proof.Machine.execSodTest v o s
  | .loadHeartwood v => Sys2Proof.Machine.execLoadHeartwood v s
  | .loadCordwood v data => Sys2Proof.Machine.execLoadCordwood v data s
  | .cellsPower v wakeFails badGroup => Sys2Proof.Machine.execCellsPower v wakeFails badGroup s
  | .stewardBroadcast v resent bad => Sys2Proof.Machine.execStewardBroadcast v resent bad s
  | .queuesEnable v => Sys2Proof.Machine.execQueuesEnable v s
  | .hwRecover v data => Sys2Proof.Machine.execHwRecover v data s
  | .buResetModule key => Sys2Proof.Machine.execBuResetModule key s
  | .buResetCompute key => Sys2Proof.Machine.execBuResetCompute key s
  | .buResetDie key cd => Sys2Proof.Machine.execBuResetDie key cd s
  | .buResetFirmware key => Sys2Proof.Machine.execBuResetFirmware key s
  | .bringupStepTimeout sub => Sys2Proof.Machine.execBringupStepTimeout sub s
  | .mirrorStatusRead => Sys2Proof.Machine.execMirrorStatusRead s
  | .smbusBlockWrite address offset data => Sys2Proof.Machine.execSmbusBlockWrite address offset data s
  | .coldReset backupOk strapMv => Sys2Proof.Machine.execColdReset backupOk strapMv s
  | .moduleReset cause strapMv => Sys2Proof.Machine.execModuleReset cause strapMv s
  | .computeReset => Sys2Proof.Machine.execComputeReset s
  | .firmwareReset failed => Sys2Proof.Machine.execFirmwareReset failed s
  | .bringupIslandRelease => Sys2Proof.Machine.execBringupIslandRelease s
  | .peatXtalFail => Sys2Proof.Machine.execPeatXtalFail s
  | .vauxLoss => Sys2Proof.Machine.execVauxLoss s
  | .brownoutWarn minMv now => Sys2Proof.Machine.execBrownoutWarn minMv now s
  | .brownoutClear minMv now => Sys2Proof.Machine.execBrownoutClear minMv now s
  | .refclkLost now strapMv => Sys2Proof.Machine.execRefclkLost now strapMv s
  | .refclkBack now => Sys2Proof.Machine.execRefclkBack now s
  | .refclkSafeStop now => Sys2Proof.Machine.execRefclkSafeStop now s
  | .throtNAssert now => Sys2Proof.Machine.execThrotNAssert now s
  | .throtNRelease now => Sys2Proof.Machine.execThrotNRelease now s
  | .clampInEdge now => Sys2Proof.Machine.execClampInEdge now s
  | .clamp now => Sys2Proof.Machine.execClamp now s
  | .matmul c => Sys2Proof.Machine.execMatmul c s
  | .drain c => Sys2Proof.Machine.execDrain c s
  | .vop c => Sys2Proof.Machine.execVop c s
  | .vload c => Sys2Proof.Machine.execVload c s
  | .vstore c => Sys2Proof.Machine.execVstore c s
  | .rowcopy c => Sys2Proof.Machine.execRowcopy c s
  | .ctlRead c => Sys2Proof.Machine.execCtlRead c s
  | .ctlWrite c => Sys2Proof.Machine.execCtlWrite c s
  | .rickRead c => Sys2Proof.Machine.execRickRead c s
  | .wait c => Sys2Proof.Machine.execWait c s
  | .signal c => Sys2Proof.Machine.execSignal c s
  | .sread c => Sys2Proof.Machine.execSread c s
  | .token c => Sys2Proof.Machine.execToken c s
  | .lset c => Sys2Proof.Machine.execLset c s
  | .ladd c => Sys2Proof.Machine.execLadd c s
  | .lcopy c => Sys2Proof.Machine.execLcopy c s
  | .djnz c => Sys2Proof.Machine.execDjnz c s
  | .jmp c => Sys2Proof.Machine.execJmp c s
  | .jz c => Sys2Proof.Machine.execJz c s
  | .jltu c => Sys2Proof.Machine.execJltu c s
  | .mark c => Sys2Proof.Machine.execMark c s
  | .halt c => Sys2Proof.Machine.execHalt c s
  | .haltComplete c => Sys2Proof.Machine.execHaltComplete c s
  | .stepComplete c k => Sys2Proof.Machine.execStepComplete c k s
  | .waitSatisfied ctr => Sys2Proof.Machine.execWaitSatisfied ctr s
  | .get c e => Sys2Proof.Machine.execGet c e s
  | .put c e => Sys2Proof.Machine.execPut c e s
  | .getInd c e => Sys2Proof.Machine.execGetInd c e s
  | .putInd c e => Sys2Proof.Machine.execPutInd c e s
  | .aeSignal c e => Sys2Proof.Machine.execAeSignal c e s
  | .aeWait c e => Sys2Proof.Machine.execAeWait c e s
  | .schedRecv c e => Sys2Proof.Machine.execSchedRecv c e s
  | .schedSend c e => Sys2Proof.Machine.execSchedSend c e s
  | .aeEnd c e => Sys2Proof.Machine.execAeEnd c e s
  | .aeActionComplete c e => Sys2Proof.Machine.execAeActionComplete c e s
  | .aeSchedDeadline c e => Sys2Proof.Machine.execAeSchedDeadline c e s
  | .opNack c e tag status => Sys2Proof.Machine.execOpNack c e tag status s
  | .aeNackRetry c e tag now => Sys2Proof.Machine.execAeNackRetry c e tag now s
  | .rampUpdate c => Sys2Proof.Machine.execRampUpdate c s
  | .storeScrub c row find => Sys2Proof.Machine.execStoreScrub c row find s
  | .logicFault c retestPasses => Sys2Proof.Machine.execLogicFault c retestPasses s
  | .batchArmNotice cd arg count => Sys2Proof.Machine.execBatchArmNotice cd arg count s
  | .batchCancelNotice cd arg count => Sys2Proof.Machine.execBatchCancelNotice cd arg count s
  | .armDeadline t now => Sys2Proof.Machine.execArmDeadline t now s
  | .batchStart t now => Sys2Proof.Machine.execBatchStart t now s
  | .batchDone t now => Sys2Proof.Machine.execBatchDone t now s
  | .frameLaunch => Sys2Proof.Machine.execFrameLaunch s
  | .interstitialFrame => Sys2Proof.Machine.execInterstitialFrame s
  | .billetReceive p hdr payload => Sys2Proof.Machine.execBilletReceive p hdr payload s
  | .repairSend p => Sys2Proof.Machine.execRepairSend p s
  | .repairHoldCheck p => Sys2Proof.Machine.execRepairHoldCheck p s
  | .repairHoldEnd => Sys2Proof.Machine.execRepairHoldEnd s
  | .dynamicFrameRequest p => Sys2Proof.Machine.execDynamicFrameRequest p s
  | .dynamicGrant p => Sys2Proof.Machine.execDynamicGrant p s
  | .dynamicFrameReceive p hdr body => Sys2Proof.Machine.execDynamicFrameReceive p hdr body s
  | .dynamicResend p now => Sys2Proof.Machine.execDynamicResend p now s
  | .carriageReceive src field now => Sys2Proof.Machine.execCarriageReceive src field now s
  | .missingDuplicate src dst seq now => Sys2Proof.Machine.execMissingDuplicate src dst seq now s
  | .syncPacketApply arg addr => Sys2Proof.Machine.execSyncPacketApply arg addr s
  | .signalRefusalReceive arg addr => Sys2Proof.Machine.execSignalRefusalReceive arg addr s
  | .swapAnnouncement arg count => Sys2Proof.Machine.execSwapAnnouncement arg count s
  | .cfgSwapTakeEffect set now => Sys2Proof.Machine.execCfgSwapTakeEffect set now s
  | .faultNotice arg count => Sys2Proof.Machine.execFaultNotice arg count s
  | .bankMonitorSample b output lineMin biasAtLimit now => Sys2Proof.Machine.execBankMonitorSample b output lineMin biasAtLimit now s
  | .lightHoldStart now => Sys2Proof.Machine.execLightHoldStart now s
  | .lightHoldEnd now => Sys2Proof.Machine.execLightHoldEnd now s
  | .bankWearSwap b now => Sys2Proof.Machine.execBankWearSwap b now s
  | .ringLock p pos detunePm atEnd => Sys2Proof.Machine.execRingLock p pos detunePm atEnd s
  | .channelSweep p now => Sys2Proof.Machine.execChannelSweep p now s
  | .channelSweepEnd p heaterOver now => Sys2Proof.Machine.execChannelSweepEnd p heaterOver now s
  | .tuningStarved p now => Sys2Proof.Machine.execTuningStarved p now s
  | .tuningHoldStart now => Sys2Proof.Machine.execTuningHoldStart now s
  | .tuningHoldEnd now => Sys2Proof.Machine.execTuningHoldEnd now s
  | .patrolScrub m granule find now => Sys2Proof.Machine.execPatrolScrub m granule find now s
  | .rowReplace m pc bank row => Sys2Proof.Machine.execRowReplace m pc bank row s
  | .rowReplaceEnd m => Sys2Proof.Machine.execRowReplaceEnd m s
  | .pcMigration m pc => Sys2Proof.Machine.execPcMigration m pc s
  | .pcMigrationEnd m lost => Sys2Proof.Machine.execPcMigrationEnd m lost s
  | .selfRefreshEnter m now => Sys2Proof.Machine.execSelfRefreshEnter m now s
  | .selfRefreshExit m now => Sys2Proof.Machine.execSelfRefreshExit m now s
  | .farDataGranule l frame => Sys2Proof.Machine.execFarDataGranule l frame s
  | .completion l frame => Sys2Proof.Machine.execCompletion l frame s
  | .ident l msg => Sys2Proof.Machine.execIdent l msg s
  | .identAck l => Sys2Proof.Machine.execIdentAck l s
  | .laneMapReq l m => Sys2Proof.Machine.execLaneMapReq l m s
  | .laneMap l m switchSeq => Sys2Proof.Machine.execLaneMap l m switchSeq s
  | .linkDown l m => Sys2Proof.Machine.execLinkDown l m s
  | .identRepeat l => Sys2Proof.Machine.execIdentRepeat l s
  | .sublinkRetrain l now => Sys2Proof.Machine.execSublinkRetrain l now s
  | .farFrameResend l retry expSeq now => Sys2Proof.Machine.execFarFrameResend l retry expSeq now s
  | .sublinkLoss l now => Sys2Proof.Machine.execSublinkLoss l now s
  | .sublinkFailover l now => Sys2Proof.Machine.execSublinkFailover l now s
  | .farUnitDown u now => Sys2Proof.Machine.execFarUnitDown u now s
  | .farBilletWriteQueue u p => Sys2Proof.Machine.execFarBilletWriteQueue u p s
  | .farBilletReadQueue u p => Sys2Proof.Machine.execFarBilletReadQueue u p s
  | .load a p => Sys2Proof.Machine.execLoad a p s
  | .store a p => Sys2Proof.Machine.execStore a p s
  | .atomAdd a p => Sys2Proof.Machine.execAtomAdd a p s
  | .atomMin a p => Sys2Proof.Machine.execAtomMin a p s
  | .atomMax a p => Sys2Proof.Machine.execAtomMax a p s
  | .atomCas a p => Sys2Proof.Machine.execAtomCas a p s
  | .ack unit p => Sys2Proof.Machine.execAck unit p s
  | .data unit p => Sys2Proof.Machine.execData unit p s
  | .nack unit p => Sys2Proof.Machine.execNack unit p s
  | .tomicOpTimeout unit tag now => Sys2Proof.Machine.execTomicOpTimeout unit tag now s
  | .ceSubmit ce a p => Sys2Proof.Machine.execCeSubmit ce a p s
  | .ceDescriptorStart ce data => Sys2Proof.Machine.execCeDescriptorStart ce data s
  | .ceDescriptorComplete ce => Sys2Proof.Machine.execCeDescriptorComplete ce s
  | .messageInboxStore a p => Sys2Proof.Machine.execMessageInboxStore a p s
  | .linkFrameReceive l frame => Sys2Proof.Machine.execLinkFrameReceive l frame s
  | .escapeMove l vc now => Sys2Proof.Machine.execEscapeMove l vc now s
  | .channelLoss l now => Sys2Proof.Machine.execChannelLoss l now s
  | .fibreFailed f now => Sys2Proof.Machine.execFibreFailed f now s
  | .joinClaim f msg now => Sys2Proof.Machine.execJoinClaim f msg now s
  | .founder f msg => Sys2Proof.Machine.execFounder f msg s
  | .founderElection now => Sys2Proof.Machine.execFounderElection now s
  | .joinReq f msg => Sys2Proof.Machine.execJoinReq f msg s
  | .joinAccept f msg => Sys2Proof.Machine.execJoinAccept f msg s
  | .leave f msg => Sys2Proof.Machine.execLeave f msg s
  | .dupId f msg => Sys2Proof.Machine.execDupId f msg s
  | .founderLost now => Sys2Proof.Machine.execFounderLost now s
  | .roleSwapReq f msg => Sys2Proof.Machine.execRoleSwapReq f msg s
  | .roleSwapAns f msg => Sys2Proof.Machine.execRoleSwapAns f msg s
  | .pairDesc module msg now => Sys2Proof.Machine.execPairDesc module msg now s
  | .pairDescSend module => Sys2Proof.Machine.execPairDescSend module s
  | .fabricBilletReceive l route payload => Sys2Proof.Machine.execFabricBilletReceive l route payload s
  | .inboundBilletMissing p => Sys2Proof.Machine.execInboundBilletMissing p s
  | .timeRequest f incoming now => Sys2Proof.Machine.execTimeRequest f incoming now s
  | .timeAnswer f a => Sys2Proof.Machine.execTimeAnswer f a s
  | .fabricClampMessage count uid now => Sys2Proof.Machine.execFabricClampMessage count uid now s
  | .leaseExpiry now => Sys2Proof.Machine.execLeaseExpiry now s
  | .orphanFree ctr now => Sys2Proof.Machine.execOrphanFree ctr now s
  | .gateTableSwap core req entry => Sys2Proof.Machine.execGateTableSwap core req entry s
  | .gateSettingsCommit core req entry => Sys2Proof.Machine.execGateSettingsCommit core req entry s
  | .gateLease core req entry => Sys2Proof.Machine.execGateLease core req entry s
  | .gateRegionPstate core req entry => Sys2Proof.Machine.execGateRegionPstate core req entry s
  | .gateCellTableWrite core req entry => Sys2Proof.Machine.execGateCellTableWrite core req entry s
  | .gateSpareSubst core req entry => Sys2Proof.Machine.execGateSpareSubst core req entry s
  | .gateFirmware core req entry => Sys2Proof.Machine.execGateFirmware core req entry s
  | .gateQueue core req entry => Sys2Proof.Machine.execGateQueue core req entry s
  | .gateHealth core req entry => Sys2Proof.Machine.execGateHealth core req entry s
  | .mgmtDeviation m now => Sys2Proof.Machine.execMgmtDeviation m now s
  | .standbyJoin m now => Sys2Proof.Machine.execStandbyJoin m now s
  | .duplexDisagree now => Sys2Proof.Machine.execDuplexDisagree now s
  | .standbyPromote m passed now => Sys2Proof.Machine.execStandbyPromote m passed now s
  | .pstateSwitch now => Sys2Proof.Machine.execPstateSwitch now s
  | .throttleChange now => Sys2Proof.Machine.execThrottleChange now s
  | .powerCeilingCheck p1ms p100ms now => Sys2Proof.Machine.execPowerCeilingCheck p1ms p100ms now s
  | .marginSample r low now => Sys2Proof.Machine.execMarginSample r low now s
  | .phaseOpen p now => Sys2Proof.Machine.execPhaseOpen p now s
  | .phaseSenseCheck g miss now => Sys2Proof.Machine.execPhaseSenseCheck g miss now s
  | .phaseShed g lossPermille now => Sys2Proof.Machine.execPhaseShed g lossPermille now s
  | .kindlingStep r ready badPhases now => Sys2Proof.Machine.execKindlingStep r ready badPhases now s
  | .thermalSample readings now => Sys2Proof.Machine.execThermalSample readings now s
  | .thermalFallBoundary now => Sys2Proof.Machine.execThermalFallBoundary now s
  | .thermalCeilingCheck now => Sys2Proof.Machine.execThermalCeilingCheck now s
  | .thermistorSample n reading now => Sys2Proof.Machine.execThermistorSample n reading now s
  | .spareStandbyTest kind unit detail passed => Sys2Proof.Machine.execSpareStandbyTest kind unit detail passed s
  | .wearSubstitution kind unit detail now => Sys2Proof.Machine.execWearSubstitution kind unit detail now s
  | .wearLogWrite rkind unit value detail => Sys2Proof.Machine.execWearLogWrite rkind unit value detail s
  | .rickDataRead r => Sys2Proof.Machine.execRickDataRead r s
  | .dropItem r => Sys2Proof.Machine.execDropItem r s
  | .flush r => Sys2Proof.Machine.execFlush r s
  | .snapArm c => Sys2Proof.Machine.execSnapArm c s
  | .computeResetRelease => Sys2Proof.Machine.execComputeResetRelease s
  | .pcieLinkUp p => Sys2Proof.Machine.execPcieLinkUp p s
  | .bringupStepEnd => Sys2Proof.Machine.execBringupStepEnd s
  | .bankCommit readBackOk => Sys2Proof.Machine.execBankCommit readBackOk s
  | .drainWaitTimeout now => Sys2Proof.Machine.execDrainWaitTimeout now s
  | .swapHoldStart now => Sys2Proof.Machine.execSwapHoldStart now s
  | .swapHoldEnd now => Sys2Proof.Machine.execSwapHoldEnd now s
  | .regionSafeState r => Sys2Proof.Machine.execRegionSafeState r s
  | .farIdleFrame l frame => Sys2Proof.Machine.execFarIdleFrame l frame s
  | .fecLock l => Sys2Proof.Machine.execFecLock l s
  | .dynamicFrameAck p seq => Sys2Proof.Machine.execDynamicFrameAck p seq s
  | .tuningGapEnd t now => Sys2Proof.Machine.execTuningGapEnd t now s
  | .copyEngineFault ce => Sys2Proof.Machine.execCopyEngineFault ce s
  | .roleSwapRetry f => Sys2Proof.Machine.execRoleSwapRetry f s
  | .qualityWindow f group bad => Sys2Proof.Machine.execQualityWindow f group bad s
  | .telemetrySample p milliamps => Sys2Proof.Machine.execTelemetrySample p milliamps s

end Sys2Proof.Machine
end

