-- ==== Sys2Proof/WellFormed.lean ====
section
/-!
DEFINITION. Which commands are well formed: their byte operands have a length that the wire of their row can carry. The numbers of
units are bounded by their types (Word.lean). What a read brings (an operand `data`) is as long as the read, which the state decides:
that check stands in the meaning. Log entry 4.
-/
namespace Sys2Proof

/-- A link frame: 560 bytes on a far sublink, links 0 to 63 (R218); 48 bytes and up to 8,208 of body on a fabric channel (R289). -/
def frameWf (l : LinkIx) (frame : Bytes) : Bool :=
  if l.val < 64 then frame.length == 560 else decide (48 ≤ frame.length) && decide (frame.length ≤ 8256)

/-- Whether a command is well formed. -/
def Instr.wf : Instr → Bool
  | .cmdFetch _ d => match d with | some b => b.length == 64 | none => true
  | .basePower _ o => o.bumps.length == 4 && o.fuses.length == 40
  | .train _ o => match o.badSite with | some x => x.2 == 1 || x.2 == 2 | none => true
  | .farDataGranule l f => frameWf l f
  | .completion l f => frameWf l f
  | .ident _ m => m.length == 512
  | .laneMapReq _ m => m.map.length == 18
  | .laneMap _ m _ => m.map.length == 18
  | .linkFrameReceive l f => frameWf l f
  | .fabricBilletReceive _ _ p => p.length == 8192
  | .gateTableSwap _ _ e => e.length == 64
  | .gateSettingsCommit _ _ e => e.length == 64
  | .gateLease _ _ e => e.length == 64
  | .gateRegionPstate _ _ e => e.length == 64
  | .gateCellTableWrite _ _ e => e.length == 64
  | .gateSpareSubst _ _ e => e.length == 64
  | .gateFirmware _ _ e => e.length == 64
  | .gateQueue _ _ e => e.length == 64
  | .gateHealth _ _ e => e.length == 64
  | .farIdleFrame l f => frameWf l f
  | .nop .. | .openQueue .. | .closeQueue .. | .bindTurf .. | .queryIdentity .. | .queryQueue .. | .queryNotices .. | .loadImage ..
  | .unloadImage .. | .runBatch .. | .abort .. | .alloc .. | .free .. | .copy .. | .fill .. | .mapAperture .. | .setTuningGapGap ..
  | .setTuningGapAccept .. | .setTuningGapHold .. | .syncCreateCreate .. | .syncCreateRelease .. | .syncCreateTakeOver ..
  | .syncSignal .. | .syncDump .. | .cfgWriteShadow .. | .cfgSwap .. | .cfgSwapDrainedCalendar .. | .cfgSwapDrainedRouting ..
  | .cfgStore .. | .cfgRead .. | .pstateSet .. | .limitsRead .. | .regionSleep .. | .regionWake .. | .fabJoin .. | .fabLeave ..
  | .routeLoadShadow .. | .linkRoleSwap .. | .fabStatus .. | .ctrReadRead .. | .ctrReadClear .. | .ctrReadProgram ..
  | .ctrReadClampCopy .. | .traceStart .. | .traceStop .. | .digestArmArm .. | .digestArmDisarm .. | .digestArmRead .. | .clampArmSet ..
  | .clampArmClamp .. | .clampArmFabric .. | .ashRead .. | .healthRead .. | .spareSubst .. | .defectListRead .. | .fwUpdateStageWrite ..
  | .fwUpdateStageDiscard .. | .fwUpdateStageAttest .. | .fwUpdateStageCertificate .. | .fwActivateHeartwood .. | .fwActivateCordwood ..
  | .sqTailWrite .. | .cqHeadWrite .. | .fabricQueueFetch .. | .fabricQueueRelease .. | .apertureWrite .. | .apertureRead .. | .perst ..
  | .registerWrite .. | .clocksStart .. | .sodTest .. | .loadHeartwood .. | .loadCordwood .. | .cellsPower .. | .stewardBroadcast ..
  | .queuesEnable .. | .hwRecover .. | .buResetModule .. | .buResetCompute .. | .buResetDie .. | .buResetFirmware ..
  | .bringupStepTimeout .. | .mirrorStatusRead .. | .smbusBlockWrite .. | .coldReset .. | .moduleReset .. | .computeReset ..
  | .firmwareReset .. | .bringupIslandRelease .. | .peatXtalFail .. | .vauxLoss .. | .brownoutWarn .. | .brownoutClear ..
  | .refclkLost .. | .refclkBack .. | .refclkSafeStop .. | .throtNAssert .. | .throtNRelease .. | .clampInEdge .. | .clamp ..
  | .matmul .. | .drain .. | .vop .. | .vload .. | .vstore .. | .rowcopy .. | .ctlRead .. | .ctlWrite .. | .rickRead .. | .wait ..
  | .signal .. | .sread .. | .token .. | .lset .. | .ladd .. | .lcopy .. | .djnz .. | .jmp .. | .jz .. | .jltu .. | .mark .. | .halt ..
  | .haltComplete .. | .stepComplete .. | .waitSatisfied .. | .get .. | .put .. | .getInd .. | .putInd .. | .aeSignal .. | .aeWait ..
  | .schedRecv .. | .schedSend .. | .aeEnd .. | .aeActionComplete .. | .aeSchedDeadline .. | .opNack .. | .aeNackRetry ..
  | .rampUpdate .. | .storeScrub .. | .logicFault .. | .batchArmNotice .. | .batchCancelNotice .. | .armDeadline .. | .batchStart ..
  | .batchDone .. | .frameLaunch .. | .interstitialFrame .. | .billetReceive .. | .repairSend .. | .repairHoldCheck ..
  | .repairHoldEnd .. | .dynamicFrameRequest .. | .dynamicGrant .. | .dynamicFrameReceive .. | .dynamicResend .. | .carriageReceive ..
  | .missingDuplicate .. | .syncPacketApply .. | .signalRefusalReceive .. | .swapAnnouncement .. | .cfgSwapTakeEffect ..
  | .faultNotice .. | .bankMonitorSample .. | .lightHoldStart .. | .lightHoldEnd .. | .bankWearSwap .. | .ringLock .. | .channelSweep ..
  | .channelSweepEnd .. | .tuningStarved .. | .tuningHoldStart .. | .tuningHoldEnd .. | .patrolScrub .. | .rowReplace ..
  | .rowReplaceEnd .. | .pcMigration .. | .pcMigrationEnd .. | .selfRefreshEnter .. | .selfRefreshExit .. | .identAck .. | .linkDown ..
  | .identRepeat .. | .sublinkRetrain .. | .farFrameResend .. | .sublinkLoss .. | .sublinkFailover .. | .farUnitDown ..
  | .farBilletWriteQueue .. | .farBilletReadQueue .. | .load .. | .store .. | .atomAdd .. | .atomMin .. | .atomMax .. | .atomCas ..
  | .ack .. | .data .. | .nack .. | .tomicOpTimeout .. | .ceSubmit .. | .ceDescriptorStart .. | .ceDescriptorComplete ..
  | .messageInboxStore .. | .escapeMove .. | .channelLoss .. | .fibreFailed .. | .joinClaim .. | .founder .. | .founderElection ..
  | .joinReq .. | .joinAccept .. | .leave .. | .dupId .. | .founderLost .. | .roleSwapReq .. | .roleSwapAns .. | .pairDesc ..
  | .pairDescSend .. | .inboundBilletMissing .. | .timeRequest .. | .timeAnswer .. | .fabricClampMessage .. | .leaseExpiry ..
  | .orphanFree .. | .mgmtDeviation .. | .standbyJoin .. | .duplexDisagree .. | .standbyPromote .. | .pstateSwitch ..
  | .throttleChange .. | .powerCeilingCheck .. | .marginSample .. | .phaseOpen .. | .phaseSenseCheck .. | .phaseShed ..
  | .kindlingStep .. | .thermalSample .. | .thermalFallBoundary .. | .thermalCeilingCheck .. | .thermistorSample ..
  | .spareStandbyTest .. | .wearSubstitution .. | .wearLogWrite .. | .rickDataRead .. | .dropItem .. | .flush .. | .snapArm ..
  | .computeResetRelease .. | .pcieLinkUp .. | .bringupStepEnd .. | .bankCommit .. | .drainWaitTimeout .. | .swapHoldStart ..
  | .swapHoldEnd .. | .regionSafeState .. | .fecLock .. | .dynamicFrameAck .. | .tuningGapEnd .. | .copyEngineFault ..
  | .roleSwapRetry .. | .qualityWindow .. | .telemetrySample .. => true

end Sys2Proof
end

