-- ==== Sys2Proof/Safety.lean ====
section
/-!
DEFINITION. What counts as a safe state and a safe step of the block, in the terms that statements use.
-/
namespace Sys2Proof.Machine

/-- Both memories of a state stand in their canonical form (log entry 2). -/
def State.memOk (s : State) : Prop := Memory.wf s.mem = true ∧ Memory.wf s.hostMem = true

/-- The command `a` stands accepted in a slot of a queue, has the given opcode, and may start (R341, R350). -/
abbrev State.ready (s : State) (q slot opcode : Nat) (a : Accepted) : Prop :=
  s.acceptedAt q slot = some a ∧ sqOpcode a.entry = opcode ∧ s.mayStart a = true

/-- The step `w` at a cell's step pointer is of the given operation and may issue now (R92, R94, R114): the Collier is issuing, no hold
is in force, the unit and the hazards allow it, its fields and modes are well formed, and its take succeeds. -/
abbrev State.stepReady (s : State) (c : Nat) (op : StepOp) (w : BitVec 256) : Prop :=
  (s.cell c).steps[(s.cell c).ptr]? = some w ∧ (s.cell c).issuing = true ∧ s.held = false ∧ stepOp w = some op
    ∧ (s.cell c).reached op w = true ∧ (s.cell c).issueOk w = true ∧ (s.cell c).canTake (stepTake w).1 (stepTake w).2 = true

/-- The entry `w` an engine is at is of the given kind and its next repeat may start (R115, R116). -/
abbrev State.entryReady (s : State) (c e kind : Nat) (w : BitVec 512) : Prop :=
  ((s.cell c).ae e).entry = some w ∧ (s.cell c).aeGoing e = true ∧ aeKind w = kind
    ∧ (s.cell c).canTake (aeTake w).1 (aeTake w).2 = true

/-- A write of the step code at the window through `v` is accepted (R401, R402, R408): the window is open to it, no step is BUSY, and the step
does not fail at once. -/
abbrev State.stepOpen (s : State) (code : Nat) (v : Via) : Prop :=
  s.bu.state ≠ 1 ∧ s.windowOpenTo v = true
    ∧ ({ s with bu := { s.bu with step := code % 256 } } : State).stepFault code (v == .smbus) = none

/-- The message of number `seq` comes in its turn at the channel `l`, which is in service, and its frame is taken: `v` is the state once its
number, a lane map that takes effect at it and its buffer of channel `vc` are accounted for (R219, R225, R289). -/
abbrev State.takesMessage (s : State) (l vc : Nat) (seq : Half) (v : State) : Prop :=
  (s.link l).state = .inService
    ∧ ∃ w : State, (s.modLink l (fun x => { x with lastGood := s.now })).acceptSeq l seq.toNat = (w, true) ∧ v = w.returnCredits l vc 1 0

/-- Where a piece of the module's own memory stands in State.mem; none elsewhere. -/
def State.pieceKey (s : State) (addr : Nat) : Option Nat :=
  match s.resolve addr with
  | some (.store c l) => some (storeKey c l)
  | some (.site m o) => some (siteKey m o)
  | _ => none

/-- A step that neither faults nor is refused. -/
def answersNext (c : Instr) (s : State) : Prop := ∃ t, exec c s = .next t

/-- The bank that runs (R384). -/
def State.runningBank (s : State) : HwBank := if s.firm.runningBankB then s.firm.bankB else s.firm.bankA

/-- The running step is LOAD_HEARTWOOD, and its end now completes it (R402). -/
abbrev State.completesHeartwood (s : State) : Prop :=
  s.bu.state = 1 ∧ s.bu.awaits = false ∧ s.firm.write.any (fun w => w.fromWindow) = false ∧ s.bu.outcome.1 = 0 ∧ s.bu.step = 5

end Sys2Proof.Machine

namespace Sys2Proof

/-- Commands that may fault with illFormed: an operand of bytes of an impossible length, or an event that is not due (log entry 4). -/
def Instr.mayBeIllFormed : Instr → Bool
  | .loadImage .. | .cfgWriteShadow .. | .ctrReadProgram .. | .fwUpdateStageWrite .. | .fwUpdateStageAttest ..
  | .cmdFetch .. | .basePower .. | .loadCordwood .. | .hwRecover .. | .farDataGranule .. | .completion .. | .ident ..
  | .laneMapReq .. | .laneMap .. | .ceDescriptorStart .. | .linkFrameReceive .. | .fabricBilletReceive ..
  | .gateTableSwap .. | .gateSettingsCommit .. | .gateLease .. | .gateRegionPstate .. | .gateCellTableWrite ..
  | .gateSpareSubst .. | .gateFirmware .. | .gateQueue .. | .gateHealth .. | .farIdleFrame .. => true
  | _ => false

/-- Commands that write neither memory: they store nothing and place no completion entry. -/
def Instr.leavesMemory : Instr → Bool
  | .sqTailWrite .. | .cqHeadWrite .. | .apertureWrite .. | .apertureRead .. | .registerWrite .. | .basePower ..
  | .clocksStart .. | .loadHeartwood .. | .loadCordwood .. | .hwRecover .. | .bringupStepTimeout ..
  | .mirrorStatusRead .. | .bringupIslandRelease .. | .brownoutWarn .. | .brownoutClear .. | .refclkBack ..
  | .throtNAssert .. | .throtNRelease .. | .clampInEdge .. | .clamp .. | .aeEnd .. | .rampUpdate ..
  | .batchArmNotice .. | .batchCancelNotice ..
  | .repairSend .. | .repairHoldEnd .. | .dynamicFrameRequest .. | .dynamicGrant .. | .dynamicFrameReceive ..
  | .missingDuplicate .. | .swapAnnouncement .. | .faultNotice .. | .lightHoldStart .. | .lightHoldEnd ..
  | .bankWearSwap .. | .channelSweep .. | .tuningStarved .. | .tuningHoldStart .. | .rowReplace .. | .rowReplaceEnd ..
  | .pcMigration .. | .selfRefreshEnter .. | .selfRefreshExit .. | .laneMapReq .. | .laneMap ..
  | .linkDown .. | .identRepeat .. | .sublinkRetrain .. | .farFrameResend .. | .sublinkLoss ..
  | .farBilletWriteQueue .. | .farBilletReadQueue .. | .load .. | .messageInboxStore .. | .channelLoss .. | .founder ..
  | .founderLost .. | .pairDescSend .. | .fabricBilletReceive .. | .timeRequest .. | .timeAnswer ..
  | .fabricClampMessage .. | .gateTableSwap .. | .gateSettingsCommit .. | .gateLease .. | .gateRegionPstate ..
  | .gateCellTableWrite .. | .gateSpareSubst .. | .gateFirmware .. | .gateQueue .. | .gateHealth .. | .mgmtDeviation ..
  | .standbyJoin .. | .standbyPromote .. | .throttleChange .. | .powerCeilingCheck .. | .marginSample ..
  | .phaseShed .. | .thermalFallBoundary .. | .thermalCeilingCheck .. | .thermistorSample .. | .wearLogWrite ..
  | .rickDataRead .. | .dropItem .. | .flush .. | .snapArm .. | .pcieLinkUp ..
  | .bringupStepEnd .. | .farIdleFrame .. | .fecLock .. | .dynamicFrameAck .. | .roleSwapRetry .. | .qualityWindow ..
  | .telemetrySample .. => true
  | _ => false

end Sys2Proof
end

