-- ==== Sys2Proof/Certificates/Slice0/Obligations.lean ====
section
/-!
DEFINITION. The statements about the model that are asked of the provers (OBLIGATIONS.json lists them with the rules they rest on).
-/
open Sys2Proof Sys2Proof.Machine

/-- NOP, OPEN_QUEUE, CLOSE_QUEUE, BIND_TURF and the three QUERY modes complete as Table 13.11 gives. -/
def Obligations.QueueCommandsComplete : Prop :=
  ∀ (q : QueueIx) (slot : SlotIx) (s u : State) (a : Accepted), u = s.beginCmd a →
    (s.ready q slot 0x0000 a → exec (.nop q slot) s = .next (u.done a 0))
    ∧ (∀ n : Nat, s.ready q slot 0x0001 a → openBad a.entry = false → turfValid u.turfMap (sqTurf a.entry) = true →
        ((sqArg a.entry 3).testBit 8 = true →
          u.ringRefusal (sqTurf a.entry) (sqArg a.entry 1) (64 * 2 ^ bits (sqArg a.entry 3) 3 0) = none) →
        ((sqArg a.entry 3).testBit 9 = true →
          u.ringRefusal (sqTurf a.entry) (sqArg a.entry 2) (16 * 2 ^ bits (sqArg a.entry 3) 7 4) = none) →
        sqArg a.entry 4 = 0 →
        (sqArg a.entry 0 = n ∧ n ≠ 0 ∨ sqArg a.entry 0 = 0 ∧ u.lowestQueue 1 4095 = some n) →
        (u.queue n).state = .closed → u.queuesHeld (sqTurf a.entry) < queueQuota u.turfMap (sqTurf a.entry) →
        exec (.openQueue q slot) s = .next (u.openQueue a n (sqTurf a.entry) 0))
    ∧ (∀ n d : Nat, s.ready q slot 0x0001 a → openBad a.entry = false → turfValid u.turfMap (sqTurf a.entry) = true →
        ((sqArg a.entry 3).testBit 8 = true →
          u.ringRefusal (sqTurf a.entry) (sqArg a.entry 1) (64 * 2 ^ bits (sqArg a.entry 3) 3 0) = none) →
        ((sqArg a.entry 3).testBit 9 = true →
          u.ringRefusal (sqTurf a.entry) (sqArg a.entry 2) (16 * 2 ^ bits (sqArg a.entry 3) 7 4) = none) →
        sqArg a.entry 4 ≠ 0 → u.epPresent (sqArg a.entry 4) = true → u.localIx (sqArg a.entry 4) = none →
        (sqArg a.entry 0 = n ∧ n ≠ 0 ∨ sqArg a.entry 0 = 0 ∧ u.lowestQueue 4096 4096 = some n) →
        (u.queue n).state = .closed → u.queuesHeld (sqTurf a.entry) < queueQuota u.turfMap (sqTurf a.entry) →
        (tget u.fab.pairs {} (u.peerOf (sqArg a.entry 4))).state ≠ 1 → u.lowestPair = some d →
        u.syncHeld (sqTurf a.entry) + 2 ≤ syncQuota u.turfMap (sqTurf a.entry) →
        exec (.openQueue q slot) s = .next (u.openQueue a n (sqTurf a.entry) d))
    ∧ (s.ready q slot 0x0002 a → sqArg a.entry 0 ≠ 0 → (u.queue (sqArg a.entry 0)).state = .closed →
        exec (.closeQueue q slot) s = .next (u.done a 1))
    ∧ (s.ready q slot 0x0002 a → sqArg a.entry 0 ≠ 0 → (u.queue (sqArg a.entry 0)).state = .closing →
        exec (.closeQueue q slot) s = .next (u.modAccepted a.q a.slot (fun b => { b with aux := 1 })))
    ∧ (s.ready q slot 0x0002 a → sqArg a.entry 0 ≠ 0 →
        (u.queue (sqArg a.entry 0)).state = .opened ∨ (u.queue (sqArg a.entry 0)).state = .error →
        exec (.closeQueue q slot) s =
          .next ((u.modAccepted a.q a.slot (fun b => { b with aux := 0 })).startClose (sqArg a.entry 0) 8 (sqArg a.entry 1)))
    ∧ (s.ready q slot 0x0003 a → sqArg a.entry 0 ≠ 0 → (u.queue (sqArg a.entry 0)).state = .opened →
        turfValid u.turfMap (sqArg a.entry 1) = true → (u.accepted.any (fun b => b.q == sqArg a.entry 0)) = false →
        ((u.queue (sqArg a.entry 0)).turf = sqArg a.entry 1
          ∨ u.queuesHeld (sqArg a.entry 1) < queueQuota u.turfMap (sqArg a.entry 1)) →
        exec (.bindTurf q slot) s =
          .next ((((u.revokeQueueCtrs (sqArg a.entry 0)).modQueue (sqArg a.entry 0)
            (fun y => { y with turf := sqArg a.entry 1 })).bindEntry (sqArg a.entry 0)).done a 0))
    ∧ (s.ready q slot 0x0004 a → sqArg a.entry 0 = 0 →
        exec (.queryIdentity q slot) s =
          .next (u.output a ((sqArg a.entry 2).testBit 0) (sqArg a.entry 1) u.identityRecord 64))
    ∧ (s.ready q slot 0x0004 a → sqArg a.entry 0 = 1 → a.q = 0 ∨ sqArg a.entry 1 = a.q →
        exec (.queryQueue q slot) s =
          .next (u.done a ((u.queue (sqArg a.entry 1)).state.num + (u.queue (sqArg a.entry 1)).cause * 2 ^ 8
            + (u.queue (sqArg a.entry 1)).turf * 2 ^ 16
            + (u.accepted.filter (fun b => b.q == sqArg a.entry 1)).length * 2 ^ 32)))
    ∧ (∀ (n : Nat) (r : Rick), s.ready q slot 0x0004 a → sqArg a.entry 0 = 2 →
        ((sqArg a.entry 3).testBit 15 = true ∧ a.q = 0 ∧ n = bits (sqArg a.entry 3) 12 0
          ∨ (sqArg a.entry 3).testBit 15 = false ∧ n = a.q) →
        u.addrCheck a.q (u.queue a.q).turf ((sqArg a.entry 2).testBit 0) (sqArg a.entry 1)
          (64 * bits (sqArg a.entry 2) 12 8) = none →
        r = (u.queue n).notices →
        exec (.queryNotices q slot) s =
          .next (State.finishOut a
            ((moveItems (bits (sqArg a.entry 2) 12 8) r).1.length + r.lost * 2 ^ 16 + b2n r.overrun * 2 ^ 32)
            ((u.modQueue n (fun x => { x with
                notices := { (moveItems (bits (sqArg a.entry 2) 12 8) r).2 with overrun := false } })).writeOut a
              ((sqArg a.entry 2).testBit 0) (sqArg a.entry 1)
              ((moveItems (bits (sqArg a.entry 2) 12 8) r).1.flatMap (fun i =>
                padTo 64 (i.flatMap (fun w => natLe 16 w.toNat)))))))

/-- ALLOC, FREE, COPY, FILL and MAP_APERTURE complete as Table 13.11 gives. -/
def Obligations.MemoryCommandsComplete : Prop :=
  ∀ (q : QueueIx) (slot : SlotIx) (s u : State) (a : Accepted), u = s.beginCmd a →
    (∀ ix n t off : Nat, s.ready q slot 0x0200 a → sqArg a.entry 0 = ix → sqArg a.entry 1 = n → sqTurf a.entry = t →
        16 ≤ ix → ix < 48 → n ≠ 0 → n % 4096 = 0 → ((List.range 64).any (fun j => u.rangeOwner ix j == some t)) = true →
        (ix < 40 ∨ (u.fmu (ix - 40)).registered = true) → u.findFree t ix n = some off →
        exec (.alloc q slot) s =
          .next (if (sqArg a.entry 2).testBit 0 = false then
              ({ u with allocs := u.allocs ++ [(t, ix, off, n)] } : State).done a (u.flatOf ix * 2 ^ 48 + off)
            else if ix < 40 then
              ((({ u with allocs := u.allocs ++ [(t, ix, off, n)] } : State).touch (ix - 16)).pokeZero (siteKey (ix - 16) off) n).done a
                (u.flatOf ix * 2 ^ 48 + off)
            else State.finishOut a (u.flatOf ix * 2 ^ 48 + off)
              (({ u with allocs := u.allocs ++ [(t, ix, off, n)] } : State).writeOut a false (u.flatOf ix * 2 ^ 48 + off)
                (List.replicate n 0))))
    ∧ (∀ p : Nat × Nat × Nat × Nat, s.ready q slot 0x0201 a →
        u.allocs.find? (fun x => u.flatOf x.2.1 * 2 ^ 48 + x.2.2.1 == sqArg a.entry 0) = some p →
        ((u.queue a.q).turf = 0 ∨ p.1 = sqTurf a.entry) →
        exec (.free q slot) s =
          .next (({ u with
            allocs := u.allocs.filter (fun x => !(u.flatOf x.2.1 * 2 ^ 48 + x.2.2.1 == sqArg a.entry 0)) } : State).done a 0))
    ∧ (∀ n : Nat, s.ready q slot 0x0202 a → 1 ≤ sqArg a.entry 2 → sqArg a.entry 2 ≤ 2 ^ 30 →
        (a.q < 4096 ∨ (sqArg a.entry 3).testBit 1 = false ∧ (sqArg a.entry 3).testBit 2 = false) →
        ¬((sqArg a.entry 3).testBit 0 = true ∧ (sqArg a.entry 3).testBit 2 = true) →
        u.leastLoaded (((setBits (ceMask u.turfMap (u.queue a.q).turf) 64).filter (fun i => !(u.ce i).retired)).filter
          (fun i => decide (1 ≤ (u.ce i).free))) = some n →
        exec (.copy q slot) s =
          .next (u.pushDesc n {
            raw := mkDesc 0x20 0 (b2n ((sqArg a.entry 3).testBit 0) * 2) (sqArg a.entry 2) (sqArg a.entry 0) (sqArg a.entry 1) 0
              (sqArg a.entry 4) (bits (sqArg a.entry 3) 31 16) 0
              (u.descEpoch a.q (sqArg a.entry 4) (bits (sqArg a.entry 3) 31 16) ((sqArg a.entry 3).testBit 0)) 0
            turf := (u.queue a.q).turf, cmd := some (a.q, a.slot)
            srcHost := (sqArg a.entry 3).testBit 1, dstHost := (sqArg a.entry 3).testBit 2 }))
    ∧ (∀ n : Nat, s.ready q slot 0x0203 a → 1 ≤ sqArg a.entry 1 → sqArg a.entry 1 ≤ 2 ^ 30 → sqArg a.entry 1 % 16 = 0 →
        sqArg a.entry 0 % 16 = 0 → (a.q < 4096 ∨ (sqArg a.entry 5).testBit 2 = false) →
        u.leastLoaded (((setBits (ceMask u.turfMap (u.queue a.q).turf) 64).filter (fun i => !(u.ce i).retired)).filter
          (fun i => decide (1 ≤ (u.ce i).free))) = some n →
        exec (.fill q slot) s =
          .next (u.pushDesc n {
            raw := mkDesc 0x21 0 0 (sqArg a.entry 1) (sqArg a.entry 0) 0 (sqArg a.entry 2 + sqArg a.entry 3 * 2 ^ 64)
              (sqArg a.entry 4) 0 0 (u.descEpoch a.q (sqArg a.entry 4) 0 false) 0
            turf := (u.queue a.q).turf, cmd := some (a.q, a.slot)
            srcHost := false, dstHost := (sqArg a.entry 5).testBit 2 }))
    ∧ (s.ready q slot 0x0204 a → sqArg a.entry 1 % 2 ^ 30 = 0 →
        (s.ops.any (fun o => o.unit == windowParty (s.queue q).port (sqArg a.entry 0))) = false →
        ((s.pcie (s.queue q).port).reads.any (fun r => r.window == sqArg a.entry 0)) = false →
        ((tfind (u.pcie (s.queue q).port).windows (sqArg a.entry 0)).all (fun x =>
          x.turf == (u.queue a.q).turf || (u.queue a.q).turf == 0)) = true →
        exec (.mapAperture q slot) s =
          .next ((u.modPcie (s.queue q).port (fun x => { x with
            windows := if (sqArg a.entry 2).testBit 0 = true
              then tset x.windows (sqArg a.entry 0) { base := BitVec.ofNat 64 (sqArg a.entry 1), turf := (u.queue a.q).turf }
              else tdel x.windows (sqArg a.entry 0) })).done a 0))

/-- Fetching, doorbells, the aperture windows, the ports and plain register writes complete as 13 gives. -/
def Obligations.DoorbellsFetchAndWindowsComplete : Prop :=
  ∀ s : State,
    (∀ (q : QueueIx) (d : Bytes), q.val < 4096 → s.mayFetch q = true → d.length = 64 → (s.queue q).sqMod = false →
        exec (.cmdFetch q (some d)) s = .next (s.acceptEntry q (BitVec.ofNat 512 (leNat d))))
    ∧ (∀ (q : QueueIx) (addr : Nat) (d : Bytes) (o : Option Bytes), q.val < 4096 → s.mayFetch q = true → d.length = 64 →
        (s.queue q).sqMod = true → addr = (s.queue q).sqAddr.toNat + 64 * (s.queue q).sqHead → s.heldAt addr = false →
        s.rangeCheck (s.queue q).turf addr 64 = none → s.fetchOwn (s.queue q).turf addr = some d →
        exec (.cmdFetch q o) s = .next ((s.meetIn false addr 64).acceptEntry q (BitVec.ofNat 512 (leNat d))))
    ∧ (∀ (q : QueueIx) (addr : Nat) (u : State) (d : Bytes), 4096 ≤ q.val → s.mayFetch q = true →
        addr = (s.queue q).sqAddr.toNat + 64 * (s.queue q).sqHead → s.heldAt addr = false →
        u = s.waitTake (s.queue q).dCtr { who := coreParty 0 (s.batchCore (s.queue q).turf), thresh := 1, dec := 1, since := s.now } →
        u.rangeCheck (s.queue q).turf addr 64 = none → u.fetchOwn (s.queue q).turf addr = some d →
        exec (.fabricQueueFetch q) s = .next ((u.meetIn false addr 64).acceptEntry q (BitVec.ofNat 512 (leNat d))))
    ∧ (∀ (q : QueueIx) (n : Word), 4096 ≤ q.val → (s.queue q).state = .opened → 1 ≤ n.toNat →
        n.toNat ≤ (s.ctr ((s.queue q).dCtr + 1)).value → n.toNat ≤ (s.queue q).unreleased →
        exec (.fabricQueueRelease q n) s =
          .next ((s.waitTake ((s.queue q).dCtr + 1) {
              who := coreParty 0 (s.batchCore (s.queue q).turf), thresh := n.toNat, dec := n.toNat, since := s.now }).modQueue q
            (fun y => { y with cqHead := (y.cqHead + n.toNat) % y.cqSize })))
    ∧ (∀ (q : QueueIx) (p : PcieIx) (value : DWord), s.portWrites p = false → s.doorbellReaches q p = true →
        bits value.toNat 15 0 < ((s.renewQueue q).queue q).sqSize →
        exec (.sqTailWrite q p value) s = .next ((s.renewQueue q).modQueue q (fun y => { y with sqTail := bits value.toNat 15 0 })))
    ∧ (∀ (q : QueueIx) (p : PcieIx) (value : DWord), s.portWrites p = false → s.doorbellReaches q p = true →
        bits value.toNat 15 0 < (s.queue q).cqSize →
        (bits value.toNat 15 0 + (s.queue q).cqSize - (s.queue q).cqHead) % (s.queue q).cqSize ≤ (s.queue q).unreleased →
        exec (.cqHeadWrite q p value) s = .next ((s.renewQueue q).modQueue q (fun y => { y with cqHead := bits value.toNat 15 0 })))
    ∧ (∀ (q : QueueIx) (p : PcieIx) (value : DWord), s.portWrites p = true →
        exec (.sqTailWrite q p value) s = .next s ∧ exec (.cqHeadWrite q p value) s = .next s)
    ∧ (∀ (q : QueueIx) (p : PcieIx) (value : DWord), s.portWrites p = false → s.doorbellReaches q p = false →
        exec (.sqTailWrite q p value) s = .next (s.doorbellIgnored q) ∧ exec (.cqHeadWrite q p value) s = .next (s.doorbellIgnored q))
    ∧ (∀ (p : PcieIx) (offset : Fin 68719476736) (data : Bytes) (win : WindowSt) (base : Nat),
        tfind (s.pcie p).windows (offset.val / 2 ^ 30) = some win → base = win.base.toNat + offset.val % 2 ^ 30 →
        exec (.apertureWrite p offset data) s =
          .next ((pieces base data.length).foldl (fun (v : State) x =>
            if (v.issueRefusal win.turf x.1).isSome then v.apertureError p
            else (v.issueOp (windowParty p (offset.val / 2 ^ 30)).toNat win.turf 0x02 0 0 x.2 (BitVec.ofNat 64 x.1) 0 none
              (slice data (x.1 - base) x.2) false 3 p).1) s))
    ∧ (∀ (p : PcieIx) (offset : Fin 68719476736) (len : Fin 4097) (win : WindowSt) (base : Nat) (i : State × Word),
        tfind (s.pcie p).windows (offset.val / 2 ^ 30) = some win → base = win.base.toNat + offset.val % 2 ^ 30 →
        pieces base len.val = [(base, len.val)] → s.issueRefusal win.turf base = none →
        i = s.issueOp (windowParty p (offset.val / 2 ^ 30)).toNat win.turf 0x01 0 0 len.val (BitVec.ofNat 64 base) 0 none [] false 3 p →
        exec (.apertureRead p offset len) s =
          .next ((i.1.modPcie p (fun x => { x with reads := x.reads ++ [{
            window := offset.val / 2 ^ 30, parts := [(i.2, len.val, none)]
            waits := (s.ops.filter (fun o =>
              o.unit == windowParty p (offset.val / 2 ^ 30) && hfld o.pkt.hdr 0 1 == 2)).map (fun o => o.tag) }] })).answerReads p))
    ∧ (∀ (p : PcieIx) (offset : Fin 68719476736) (len : Fin 4097), tfind (s.pcie p).windows (offset.val / 2 ^ 30) = none →
        exec (.apertureRead p offset len) s = .next ((s.apertureError p).emit (.pcieRead p (List.replicate len.val 0xFF) false)))
    ∧ (∀ p : PcieIx, exec (.perst p) s = .next (s.portReset p))
    ∧ (∀ p : PcieIx, s.bu.vaux = true → s.bu.islandUp = true →
        exec (.pcieLinkUp p) s = .next (s.modPcie p (fun x => { x with linkUp := true, perst := false })))
    ∧ (∀ (p : PcieIx) (off : Fin 65536) (value : DWord), 0x110 ≤ off.val → off.val < 0x130 → off.val % 8 = 0 →
        exec (.registerWrite (.bar0 p off) value) s =
          .next { s with bu := { s.bu with args := tset s.bu.args ((off.val - 0x110) / 8) value } })
    ∧ (∀ (p : PcieIx) (off : Fin 65536) (value : DWord), 0x8000 ≤ off.val → off.val % 4 = 0 →
        exec (.registerWrite (.bar0 p off) value) s = .next (s.msixWrite p (off.val - 0x8000) value))
    ∧ (∀ (c : CellIx) (off : Fin 65536) (value : DWord), s.cellAwake c = true →
        exec (.registerWrite (.cellCtl c off) value) s = .next (s.cellCtlWrite c off.val value))
    ∧ (∀ (reg : Nat) (value : DWord),
        exec (.registerWrite (.heartwood false reg) value) s =
          .next { s with firm := { s.firm with busErrors := s.firm.busErrors + 1 } })

/-- PSTATE_SET, LIMITS_READ, REGION_SLEEP and REGION_WAKE complete as R420, R426 and R430 give. -/
def Obligations.PowerCommandsComplete : Prop :=
  ∀ (q : QueueIx) (slot : SlotIx) (s u : State) (a : Accepted), u = s.beginCmd a →
    (∀ v : State, s.ready q slot 0x0500 a → sqArg a.entry 0 ≤ 12 → sqArg a.entry 1 = 0 ∨ u.earliestSwitch ≤ sqArg a.entry 1 →
        v = { u with pw := { u.pw with target := sqArg a.entry 0 } } →
        u.pw.switchAt.isSome = true → exec (.pstateSet q slot) s = .next v)
    ∧ (∀ v : State, s.ready q slot 0x0500 a → sqArg a.entry 0 ≤ 12 → sqArg a.entry 1 = 0 ∨ u.earliestSwitch ≤ sqArg a.entry 1 →
        v = { u with pw := { u.pw with target := sqArg a.entry 0 } } →
        u.pw.switchAt = none → (v.considerSwitch (sqArg a.entry 1)).pw.switchAt = none →
        exec (.pstateSet q slot) s =
          .next ((v.considerSwitch (sqArg a.entry 1)).done a (v.considerSwitch (sqArg a.entry 1)).pstateResult))
    ∧ (∀ v : State, s.ready q slot 0x0500 a → sqArg a.entry 0 ≤ 12 → sqArg a.entry 1 = 0 ∨ u.earliestSwitch ≤ sqArg a.entry 1 →
        v = { u with pw := { u.pw with target := sqArg a.entry 0 } } →
        u.pw.switchAt = none → (v.considerSwitch (sqArg a.entry 1)).pw.switchAt.isSome = true →
        exec (.pstateSet q slot) s =
          .next ((v.considerSwitch (sqArg a.entry 1)).modAccepted a.q a.slot (fun b => { b with aux := 1 })))
    ∧ (s.ready q slot 0x0501 a →
        exec (.limitsRead q slot) s = .next (u.output a ((sqArg a.entry 1).testBit 0) (sqArg a.entry 0) u.limitsRecord 64))
    ∧ (s.ready q slot 0x0502 a → 1 ≤ sqArg a.entry 1 → sqArg a.entry 1 ≤ 4 →
        u.foreignRegions (u.queue a.q).turf (sqArg a.entry 0) = false → (sqArg a.entry 1 ≠ 1 ∨ (u.queue a.q).turf = 0) →
        ((setBits (sqArg a.entry 0) 64).all (fun r => match regionOwner u.turfMap r with
          | some t => (u.batch t).isNone
          | none => true)) = true →
        exec (.regionSleep q slot) s = .next (u.beginSleeps a (sqArg a.entry 0) (Sleep.ofNum (sqArg a.entry 1))))
    ∧ (s.ready q slot 0x0503 a → u.foreignRegions (u.queue a.q).turf (sqArg a.entry 0) = false → u.pw.safeStopped = false →
        exec (.regionWake q slot) s = .next (u.beginSleeps a (sqArg a.entry 0) .s0))

/-- The P-state switch, the ceilings, the step-skip ratio, THROT_N and the supply monitor act as R124, R426 to R428, R437, R444 and R460 give. -/
def Obligations.PowerEventsComplete : Prop :=
  ∀ (s u : State) (now : Nat), u = s.at_ now →
    (∀ c p : Nat, u.pw.switchAt = some (c, p) → c ≤ u.now → u.ctlHeld = false →
        exec (.pstateSwitch now) s = .next (u.switchTo p).settlePstates)
    ∧ (∀ p1ms p100ms : Nat, 12500 < p1ms → 0 < u.pw.over1ms →
        exec (.powerCeilingCheck p1ms p100ms now) s = .next ((u.takePower p1ms p100ms).raisePower 2))
    ∧ (∀ p1ms p100ms : Nat, p1ms ≤ 12500 → u.powerLimit < p100ms → u.pw.powerNextCheck ≤ u.now →
        exec (.powerCeilingCheck p1ms p100ms now) s = .next ((u.takePower p1ms p100ms).raisePower 1))
    ∧ (∀ p1ms p100ms c : Nat, p1ms ≤ 12500 → p100ms * 100 < u.powerLimit * 95 → 0 < u.pw.powerCeil →
        u.pw.belowSince = some c → c + 100000000 ≤ u.now →
        exec (.powerCeilingCheck p1ms p100ms now) s = .next (u.takePower p1ms p100ms).lowerPower)
    ∧ (∀ r : RegionIx, (u.region r).lowMargin = 7 →
        exec (.marginSample r true now) s = .next ((u.modRegion r (fun x => { x with lowMargin := 0 })).marginStep r))
    ∧ (∀ r : RegionIx, (u.region r).lowMargin < 7 → u.pw.marginCeil = 0 →
        exec (.marginSample r true now) s = .next (u.modRegion r (fun x => { x with lowMargin := (u.region r).lowMargin + 1 })))
    ∧ (∀ (c v : Nat) (rest : List (Nat × Nat)), u.pw.hAt = (c, v) :: rest → c ≤ u.now → u.ctlHeld = false →
        exec (.throttleChange now) s =
          .next { u with
            pw := { u.pw with h := v, hAt := rest }
            batches := if v = 0 then u.batches
              else tmap u.batches (fun _ b => if b.started then { b with sawThrottle := true } else b) })
    ∧ (u.bu.throtN = false →
        exec (.throtNAssert now) s =
          .next ((({ u with bu := { u.bu with throtN := true }, pw := { u.pw with reqThrotN := true } } : State).requestH
            (u.now + 500)).notice0 4 0x1225 [1]))
    ∧ (u.bu.throtN = true →
        exec (.throtNRelease now) s =
          .next ((({ u with bu := { u.bu with throtN := false }, pw := { u.pw with reqThrotN := false } } : State).requestH
            (u.now + 500)).notice0 4 0x1225 [0]))
    ∧ (∀ (minMv : Half) (v : State), u.pw.brownout = false →
        v = { u with pw := { u.pw with
          brownout := true, brownoutCount := (u.pw.brownoutCount + 1) % 2 ^ 32, brownoutMin := minMv.toNat
          vinMv := minMv.toNat, reqSupply := true } } →
        exec (.brownoutWarn minMv now) s =
          .next ((v.requestH (u.now + 500)).notice0 5 0x1202
            [BitVec.ofNat 128 (minMv.toNat + (u.pw.brownoutCount + 1) % 2 ^ 32 * 2 ^ 32)]))
    ∧ (∀ (minMv : Half) (v : State), u.pw.brownout = true →
        v = u.addWear 0x0B 0 (BitVec.ofNat 32 (min u.pw.brownoutMin minMv.toNat)) 0 →
        exec (.brownoutClear minMv now) s =
          .next (({ v with pw := { v.pw with
            brownout := false, brownoutMin := min u.pw.brownoutMin minMv.toNat, reqSupply := false } } : State).requestH (v.now + 500)))

/-- Regulator phases, Kindling and the thermal rows act as R421 to R423, R439 to R443 and R446 to R458 give. -/
def Obligations.PhasesAndThermalComplete : Prop :=
  ∀ (s u : State) (now : Nat), u = s.at_ now →
    (∀ p : PhaseIx, (u.phase p).isOpen = false →
        exec (.phaseOpen p now) s =
          .next ((u.modPhase p (fun x => { x with isOpen := true })).losePhase p false).settleWakes)
    ∧ (∀ g : GroupIx, (u.group g).spareComing = false →
        exec (.phaseSenseCheck g none now) s = .next (u.modGroup g (fun y => { y with misses := [] })).settleWakes)
    ∧ (∀ (g : GroupIx) (loss : Nat), (u.group g).spareUsed = false → (u.group g).onSeven = false → (u.group g).shedNext = 0 →
        (u.phase (9 * g)).isOpen = false → (u.phase (9 * g)).senseFailed = false →
        ((u.modGroup g (fun y => { y with shedNext := 1 })).phase (9 * g)).firstLoss = none →
        exec (.phaseShed g loss now) s =
          .next ((u.modGroup g (fun y => { y with shedNext := 1 })).modPhase (9 * g) (fun y => { y with firstLoss := some loss })))
    ∧ (∀ (p : PhaseIx) (ma : Nat) (v : State), (s.phase p).highRange = false → (s.phase p).rangeChanged = false → 3000 ≤ ma → ma ≤ 3800 →
        v = s.modPhase p (fun y => { y with value := ma, lowSamples := 0, highRange := false, rangeChanged := false }) →
        exec (.telemetrySample p ma) s =
          .next (v.modGroup (p.val / 9) (fun y => { y with
            currentMa := ((List.range 9).map (fun i => (v.phase (9 * (p.val / 9) + i)).value)).sum })))
    ∧ (∀ (r : RegionIx) (bad : List PhaseIx) (w : Waking), (u.region r).waking = some w → u.bu.computeHeld = false →
        u.bu.crstLow = false → u.bu.diesHeld.contains (r.val / 4) = false →
        w.step = 1 → exec (.kindlingStep r true bad now) s =
          .next (u.modRegion r (fun x => { x with waking := some { w with step := 2, attempt := 0 } })))
    ∧ (∀ (r : RegionIx) (bad : List PhaseIx) (w : Waking), (u.region r).waking = some w → u.bu.computeHeld = false →
        u.bu.crstLow = false → u.bu.diesHeld.contains (r.val / 4) = false →
        w.step = 2 → exec (.kindlingStep r true bad now) s =
          .next ((u.modRegion r (fun x => { x with waking := some { w with step := 3, attempt := 0 } })).pllTaken r w))
    ∧ (∀ (r : RegionIx) (bad : List PhaseIx) (w : Waking), (u.region r).waking = some w → u.bu.computeHeld = false →
        u.bu.crstLow = false → u.bu.diesHeld.contains (r.val / 4) = false →
        w.step = 4 → exec (.kindlingStep r true bad now) s = .next (u.wakeDone r w.fromS4).settleWakes)
    ∧ (∀ (r : RegionIx) (bad : List PhaseIx) (w : Waking), (u.region r).waking = some w → u.bu.computeHeld = false →
        u.bu.crstLow = false → u.bu.diesHeld.contains (r.val / 4) = false →
        w.step = 1 ∨ w.step = 2 → w.attempt < 2 → exec (.kindlingStep r false bad now) s = .next (u.retryStep r w bad))
    ∧ (∀ (r : RegionIx) (bad : List PhaseIx) (w : Waking), (u.region r).waking = some w → u.bu.computeHeld = false →
        u.bu.crstLow = false → u.bu.diesHeld.contains (r.val / 4) = false →
        w.step = 1 ∨ w.step = 2 → 2 ≤ w.attempt →
        exec (.kindlingStep r false bad now) s = .next (u.wakeFailed r w.step bad).settleWakes)
    ∧ (∀ l : List SensorReading,
        (sampledIds l).find? (fun n => decide (shutdownLevel n ≤ ((u.thermalTaken l).sensor n).value)) = none →
        exec (.thermalSample l now) s = .next (u.thermalTaken l))
    ∧ (∀ (l : List SensorReading) (n : Nat),
        (sampledIds l).find? (fun n => decide (shutdownLevel n ≤ ((u.thermalTaken l).sensor n).value)) = some n →
        exec (.thermalSample l now) s = .next ((u.thermalTaken l).thermalShutdown n))
    ∧ (u.pw.hMaxThisMs < u.pw.reqThermal →
        exec (.thermalFallBoundary now) s =
          .next (({ u with pw := { u.pw with hMaxThisMs := 0, reqThermal := u.pw.hMaxThisMs } } : State).requestH (u.now + 500)))
    ∧ (50000000 ≤ nonzeroTime u.pw.hHist u.now → u.pw.thermalNextCheck ≤ u.now → u.pw.thermalCeil < 12 →
        exec (.thermalCeilingCheck now) s = .next u.raiseThermal)
    ∧ (nonzeroTime u.pw.hHist u.now < 50000000 → u.thermalCalm = true → 0 < u.pw.thermalCeil →
        exec (.thermalCeilingCheck now) s = .next u.lowerThermal)
    ∧ (∀ (n : Fin 8) (x : SensorReading), (memGet (u.cset 2).active (16 + 8 * n.val)).toNat ≠ 0 → (u.sensor (312 + n.val)).isOpen = false →
        u.hasDefect 0x0F (312 + n.val) 0 = false →
        x.valid = true → x.value ≤ 8 * ((memGet (u.cset 2).active (17 + 8 * n.val)).toNat : Int) →
        exec (.thermistorSample n x now) s =
          .next ((u.modSensor (312 + n.val) (fun y => { y with value := x.value })).modSensor (312 + n.val)
            (fun y => { y with noticedAt := none })))

/-- The configuration commands and UNLOAD_IMAGE complete as R464 to R475 and R518 give. -/
def Obligations.ConfigurationCommandsComplete : Prop :=
  ∀ (q : QueueIx) (slot : SlotIx) (s u : State) (a : Accepted), u = s.beginCmd a →
    (∀ (k addr off len : Nat) (o : Option Bytes) (b : Bytes) (v : State), s.ready q slot 0x0400 a → k = sqArg a.entry 0 → addr = sqArg a.entry 1 →
        off = sqArg a.entry 2 → len = sqArg a.entry 3 → s.readFits ((sqArg a.entry 4).testBit 0) addr len o = true →
        k ≠ 5 → k ≠ 8 → off + len ≤ setSize k → setSize k ≠ 0 → (u.cset k).announced = none →
        u.addrCheck a.q (u.queue a.q).turf ((sqArg a.entry 4).testBit 0) addr len = none →
        v = u.meetIn ((sqArg a.entry 4).testBit 0) addr len → v.readIn ((sqArg a.entry 4).testBit 0) addr len o = some b →
        exec (.cfgWriteShadow q slot o) s =
          .next ((v.modCset k (fun c => { c with
            shadow := if k = 9 then memWrite (memWrite c.shadow off b) 4 (natLe 4 v.firm.floors.toNat)
              else memWrite c.shadow off b })).done a 0))
    ∧ (∀ k n : Nat, s.ready q slot 0x0401 a → u.cfgDenied a = false → k = sqArg a.entry 0 → 1 ≤ k → k ≤ 4 →
        (u.cset k).announced = none → u.swapRefusal k = none → n = sqArg a.entry 1 → n ≠ 0 → u.now + 10000 ≤ n →
        n ≤ u.now + 10000000000 →
        exec (.cfgSwap q slot) s =
          .next ((u.modCset k (fun c => { c with announced := some (n, ((u.cset k).generation + 1) % 2 ^ 32, some (a.q, a.slot)) })).announceAll
            4 (k + ((u.cset k).generation + 1) % 2 ^ 32 % 65536 * 2 ^ 16) (BitVec.ofNat 64 n)))
    ∧ (∀ k : Nat, s.ready q slot 0x0402 a → u.cfgDenied a = false → k = sqArg a.entry 0 → 1 ≤ k → k ≤ 4 →
        (u.cset k).announced = none → u.swapRefusal k = none →
        exec (.cfgSwap q slot) s =
          .next ((u.modCset k (fun c => { c with
              announced := some (u.now + 10000, ((u.cset k).generation + 1) % 2 ^ 32, some (a.q, a.slot)) })).announceAll
            4 (k + ((u.cset k).generation + 1) % 2 ^ 32 % 65536 * 2 ^ 16)
            (BitVec.ofNat 64 ((u.modCset k (fun c => { c with
              announced := some (u.now + 10000, ((u.cset k).generation + 1) % 2 ^ 32, some (a.q, a.slot)) })).now + 10000))))
    ∧ (s.ready q slot 0x0401 a → u.cfgDenied a = false → sqArg a.entry 0 = 5 ∨ sqArg a.entry 0 = 8 →
        exec (.cfgSwap q slot) s = .next (u.fail a stNeedsDrain))
    ∧ (s.ready q slot 0x0402 a → sqArg a.entry 0 = 8 → sqArg a.entry 1 < 2 ^ 32 →
        sqArg a.entry 1 = 0 ∨ sqArg a.entry 1 ≠ (u.cset 8).generation → u.batch (sqTurf a.entry) = none → u.drain = none →
        (u.batches.all (fun p => !p.2.started)) = true →
        exec (.cfgSwapDrainedCalendar q slot) s =
          .next ((u.endCalendar {
            routing := false, turf := sqTurf a.entry, cmd := (a.q, a.slot), epoch := u.nextCal (sqArg a.entry 1)
            since := u.now + 2000 }).done a (u.nextCal (sqArg a.entry 1))))
    ∧ (s.ready q slot 0x0402 a → sqArg a.entry 0 = 5 → u.cfgDenied a = false → u.routesOk = true → u.drain = none →
        u.fabricScheduled = false →
        exec (.cfgSwapDrainedRouting q slot) s =
          .next ({ u with drain := some {
            routing := true, turf := 0, cmd := (a.q, a.slot), epoch := 0, since := u.now } } : State).drainProgress)
    ∧ (∀ img : ImageSt, s.ready q slot 0x0101 a → tfind u.images (sqArg a.entry 0) = some img → img.ready = true →
        (u.queue a.q).turf = 0 ∨ img.turf = (u.queue a.q).turf → u.batch img.turf = none → u.drain = none →
        exec (.unloadImage q slot) s = .next (u.startCalendarSwap a img.turf (u.nextCal 0) (some (sqArg a.entry 0))))
    ∧ (s.ready q slot 0x0403 a → sqArg a.entry 0 + (sqTag a.entry).toNat = 2 ^ 32 - 1 → u.firm.write = none → u.storedSwap = false →
        exec (.cfgStore q slot) s = .next (u.beginStore (u.storeBank ((sqArg a.entry 1).testBit 0)) (some (a.q, a.slot))))
    ∧ (∀ b : Bytes, s.ready q slot 0x0404 a → u.cfgDenied a = false → sqArg a.entry 0 ∈ [1, 2, 3, 4, 5, 8, 9] →
        u.cfgBytes (sqTurf a.entry) (sqArg a.entry 0) (sqArg a.entry 1) (sqArg a.entry 3) (sqArg a.entry 4) = some b →
        exec (.cfgRead q slot) s = .next (u.output a ((sqArg a.entry 5).testBit 0) (sqArg a.entry 2) b (sqArg a.entry 4)))

/-- Swap announcements, the swap at its count, swap holds, the drain bound and the commit of a bank act as R304, R466, R469, R473 and R475 give. -/
def Obligations.SwapEventsComplete : Prop :=
  ∀ (s u : State) (now : Nat), u = s.at_ now →
    (∀ (arg : Word) (count : DWord), bits arg.toNat 10 9 = 0 → arg.toNat.testBit 8 = false → (s.cset (bits arg.toNat 7 0)).announced = none →
        1 ≤ bits arg.toNat 7 0 → bits arg.toNat 7 0 ≤ 4 →
        ((s.cset (bits arg.toNat 7 0)).generation + 1) % 2 ^ 32 % 65536 = bits arg.toNat 31 16 →
        exec (.swapAnnouncement arg count) s =
          .next (s.modCset (bits arg.toNat 7 0) (fun c => { c with
            announced := some (count.toNat, ((s.cset (bits arg.toNat 7 0)).generation + 1) % 2 ^ 32, none) })))
    ∧ (∀ (arg : Word) (count : DWord), bits arg.toNat 10 9 = 0 → arg.toNat.testBit 8 = true →
        exec (.swapAnnouncement arg count) s = .next (s.modCset (bits arg.toNat 7 0) (fun c => { c with announced := none })))
    ∧ (∀ (k : Byte) (n g : Nat) (c : Nat × Nat), (u.cset k.toNat).announced = some (n, g, some c) → n ≤ u.now →
        exec (.cfgSwapTakeEffect k now) s = .next ((u.takeSwap k.toNat).completeAt c stOk g))
    ∧ (∀ n : Nat, u.holds.swapAt = some n → n ≤ u.now →
        exec (.swapHoldStart now) s =
          .next ({ u with
            holds := { u.holds with swapAt := none, swapOn := true, swapEnd := none }
            drain := u.drain.map (fun (d : Drain) => { d with since := u.now }) } : State).drainProgress)
    ∧ (∀ (n : Nat) (d : Drain), u.holds.swapEnd = some n → n ≤ u.now → u.drain = some d → d.leaving = true →
        exec (.swapHoldEnd now) s =
          .next (({ u with holds := { u.holds with swapOn := false, swapEnd := none }, drain := none } : State).completeAt d.cmd 0
            (if d.unload.isSome then 0 else d.epoch)))
    ∧ (∀ (d : Drain) (v : State), u.drain = some d → d.leaving = false → d.since + 50000 ≤ u.now → d.routing = false →
        u.holds.swapOn = true → v = ({ u with drain := none } : State).completeAt d.cmd stDrainTimeout 0 →
        exec (.drainWaitTimeout now) s =
          .next (({ v with holds := { v.holds with swapEnd := some (v.now + 2000) } } : State).announceAll 4
            (8 + 2 * 2 ^ 9 + (({ v with holds := { v.holds with swapEnd := some (v.now + 2000) } } : State).cset 8).generation % 65536 * 2 ^ 16)
            (BitVec.ofNat 64 (v.now + 2000))))
    ∧ (∀ (w : BankWrite) (b : SetBank), s.firm.write = some w → w.settings = some b → w.bankB = true →
        exec (.bankCommit true) s =
          .next (({ s with firm := { s.firm with setB := { b with valid := true }, setInForceB := true, seqInForce := b.seq } } : State).endWrite w
            0 (b.seq + 2 ^ 32)))
    ∧ (∀ w : BankWrite, s.firm.write = some w → w.rewritten = false → w.heartwood = false →
        exec (.bankCommit false) s = .next { s with firm := { s.firm with write := some { w with rewritten := true } } })

/-- SYNC_CREATE (its three modes), SYNC_SIGNAL and SYNC_DUMP complete as R257 to R259, R507 and R546 give. SYNC_SIGNAL sends its packet and
completes when that has left for another module or its outcome has come (R258). -/
def Obligations.SyncCommandsComplete : Prop :=
  ∀ (s : State) (q : QueueIx) (slot : SlotIx) (u : State) (a : Accepted), u = s.beginCmd a →
    (∀ k : Nat, s.ready q slot 0x0300 a → sqArg a.entry 0 = 0 → sqArg a.entry 1 < 2 ^ 31 → termOk (sqArg a.entry 2) = true →
        sqArg a.entry 3 = 0 → u.syncHeld (u.queue a.q).turf < syncQuota u.turfMap (u.queue a.q).turf → u.lowestFree = some k →
        exec (.syncCreateCreate q slot) s =
          .next ((u.modCtr k (fun c => { c with
            value := sqArg a.entry 1, owner := .leased a.q (u.queue a.q).turf, everLeased := true, termUs := termOf (sqArg a.entry 2)
            renewed := u.now, changed := u.now, changedSinceArm := true })).done a (k + (u.ctr k).epoch * 2 ^ 32)))
    ∧ (s.ready q slot 0x0300 a → sqArg a.entry 0 = 1 → u.leaseRefusal a true = none →
        exec (.syncCreateRelease q slot) s = .next (((u.revokeCtr (sqArg a.entry 1)).freeCtr (sqArg a.entry 1)).done a 0))
    ∧ (∀ k : Nat, s.ready q slot 0x0300 a → sqArg a.entry 0 = 2 → sqArg a.entry 1 = k → u.leaseRefusal a false = none →
        u.ctrTurf k = some (u.queue a.q).turf ∨ u.syncHeld (u.queue a.q).turf < syncQuota u.turfMap (u.queue a.q).turf →
        exec (.syncCreateTakeOver q slot) s =
          .next ((u.modCtr k (fun c => { c with
            epoch := nextEpoch (u.ctr k).epoch, owner := .leased a.q (u.queue a.q).turf, termUs := termOf (sqArg a.entry 2)
            renewed := u.now })).done a (k + nextEpoch (u.ctr k).epoch * 2 ^ 32)))
    ∧ (∀ oep : Nat, s.ready q slot 0x0301 a → oep = s.batchOep (s.queue q).turf → s.protRoom oep = true → 1 ≤ sqArg a.entry 1 →
        sqArg a.entry 1 < 2 ^ 31 → sqArg a.entry 2 < 2 ^ 32 → u.signalBad (u.queue a.q).turf (sqArg a.entry 0) = false →
        exec (.syncSignal q slot) s =
          .next (u.sendSignal oep (u.queue a.q).turf (sqArg a.entry 0) (sqArg a.entry 1) (sqArg a.entry 2) (queueParty a.q)))
    ∧ (∀ r : Nat × State, s.ready q slot 0x0302 a → sqTurf a.entry ≠ 0 ∨ (u.queue a.q).turf = 0 → r = u.dumpCapture (sqTurf a.entry) →
        exec (.syncDump q slot) s =
          .next (r.2.done a ((u.syncSection (decide (sqTurf a.entry = 0)) (sqTurf a.entry)).length + r.1 * 2 ^ 32)))

/-- Signals and refusals on arrival, lease terms and orphans act as R246, R247 and R254 to R256 give. -/
def Obligations.SyncArrivalsAndTermsComplete : Prop :=
  ∀ s : State,
    (∀ (arg : Word) (addr : DWord) (k : Nat), bits addr.toNat 19 18 = 0 → s.packetCtr addr = some k → addr.toNat.testBit 17 = false →
        exec (.syncPacketApply arg addr) s =
          .next (s.applySignal k (arg.toNat % 2 ^ 31) {
            who := BitVec.ofNat 16 addr.toNat, epoch := bits addr.toNat 31 20, turf := s.signallerTurf (BitVec.ofNat 16 addr.toNat) addr } addr))
    ∧ (∀ (arg : Word) (addr : DWord) (k : Nat), bits addr.toNat 19 18 = 0 → s.packetCtr addr = some k → addr.toNat.testBit 17 = true →
        ∃ n : Nat, exec (.syncPacketApply arg addr) s =
          .next (s.draw.2.applySignal k (arg.toNat % 2 ^ 31) {
            who := BitVec.ofNat 16 addr.toNat, remote := true, epoch := bits addr.toNat 31 20, turf := n } addr))
    ∧ (∀ (arg : Word) (addr : DWord), bits addr.toNat 19 18 = 0 → s.packetCtr addr = none →
        exec (.syncPacketApply arg addr) s =
          .next (s.signalLost (arg.toNat % 2 ^ 31) (addr.toNat.testBit 17) (BitVec.ofNat 16 addr.toNat) addr))
    ∧ (∀ (arg : Word) (addr : DWord), bits addr.toNat 19 18 = 1 → addr.toNat % 2 ^ 16 / 2 ^ 14 ≠ 0 →
        exec (.signalRefusalReceive arg addr) s =
          .next (s.signalDone (BitVec.ofNat 16 addr.toNat) none (signalOf addr) (arg.toNat % 256)))
    ∧ (∀ (arg : Word) (addr : DWord), bits addr.toNat 19 18 = 1 → addr.toNat % 2 ^ 16 / 2 ^ 14 = 0 →
        exec (.signalRefusalReceive arg addr) s =
          .next (s.refuseToCell (addr.toNat % 2 ^ 16 % 4096) (addr.toNat % 2 ^ 16 / 4096 % 4) (arg.toNat % 256)
            (s.ctrAddr ((s.packetCtr addr).getD 0)) (s.ctr ((s.packetCtr addr).getD 0)).epoch 0 0))
    ∧ (∀ (now : Nat) (v w : State), v = s.at_ now → v.ctlHeld = false →
        w = ((v.ctrs.filter (fun p => match p.2.owner with
            | .leased _ _ => decide (p.2.renewed + p.2.termUs * 1000 ≤ v.now)
            | _ => false)).map (fun p => p.1)).foldl (fun x k => x.revokeCtr k) v →
        exec (.leaseExpiry now) s =
          .next (((v.queues.filter (fun p => p.1 ≠ 0 ∧ p.2.state ≠ .closed ∧ p.2.state ≠ .closing ∧ !p.2.noTerm
              ∧ p.2.renewed + p.2.termMs * 1000000 ≤ v.now)).map (fun p => p.1)).foldl (fun (x : State) n => x.startClose n 5 0) w))
    ∧ (∀ (k : Fin 65536) (now t : Nat), ((s.at_ now).ctr k).owner = .orphan t → ((s.at_ now).ctr k).orphanAt + 1000000000 ≤ (s.at_ now).now →
        exec (.orphanFree k now) s = .next ((s.at_ now).freeCtr k))
    ∧ (∀ (k : Fin 65536) (now t : Nat), ((s.at_ now).ctr k).owner = .orphan t → (s.at_ now).now < ((s.at_ now).ctr k).orphanAt + 1000000000 →
        exec (.orphanFree k now) s = .next (s.at_ now))

/-- RUN_BATCH, ABORT, the arm and cancel notices, the arm deadline, the start and the end of a batch act as R27 to R33, R360, R361 and R551 give. -/
def Obligations.BatchCommandsComplete : Prop :=
  ∀ (s : State) (q : QueueIx) (slot : SlotIx) (u : State) (a : Accepted) (now : Nat), u = s.beginCmd a →
    (∀ (t : Nat) (v : State) (img : ImageSt), s.ready q slot 0x0102 a → s.runWaits a = false → u.runTurf a = some t →
        v = u.clearErrors t → v.runRefusal a = none → tfind v.images (sqArg a.entry 0) = some img →
        exec (.runBatch q slot) s = .next (v.enterBatch a img))
    ∧ (∀ c : State × Nat, s.ready q slot 0x0103 a → c = u.cancelRuns (sqTurf a.entry) → c.1.batch (sqTurf a.entry) = none →
        exec (.abort q slot) s = .next (c.1.done a (c.2 * 2 ^ 16)))
    ∧ (∀ (c : State × Nat) (b : BatchSt), s.ready q slot 0x0103 a → c = u.cancelRuns (sqTurf a.entry) →
        c.1.batch (sqTurf a.entry) = some b → b.started = false → b.waiting = true →
        exec (.abort q slot) s = .next ((c.1.finishBatch (sqTurf a.entry) b stDenied 0).done a ((c.2 + 1) * 2 ^ 16)))
    ∧ (∀ (c : State × Nat) (b : BatchSt), s.ready q slot 0x0103 a → c = u.cancelRuns (sqTurf a.entry) →
        c.1.batch (sqTurf a.entry) = some b → b.started = true →
        exec (.abort q slot) s =
          .next (((((c.1.modAccepted a.q a.slot (fun x => { x with aux := c.2 })).modBatch (sqTurf a.entry) (fun b => { b with
            abortCmd := some (a.q, a.slot) })).stopBatch (sqTurf a.entry) stDenied 0 true).settleStop (sqTurf a.entry))))
    ∧ (∀ (cd : CdIx) (arg : Word) (count : DWord) (v w : State), tfind s.arms (cd * 64 + bits arg.toNat 5 0) = none →
        v = { s with arms := tset s.arms (cd * 64 + bits arg.toNat 5 0) {
          regions := bits arg.toNat 19 16, attempt := bits arg.toNat 9 8, count := count.toNat } } →
        w = v.modCd cd (fun d => { d with
          flits := d.flits.filter (fun f => !((setBits (bits arg.toNat 19 16) 4).map (fun i => 4 * cd.val + i)).contains (regionOf f.cell)) }) →
        exec (.batchArmNotice cd arg count) s =
          .next (((setBits (bits arg.toNat 19 16) 4).map (fun i => 4 * cd.val + i)).foldl (fun (x : State) r =>
            let x := (regionCells r).foldl (fun (y : State) c => y.modCell c (armCell (v.bucketOf (bits arg.toNat 5 0)).2)) x
            x.sendSignal cd (bits arg.toNat 5 0) (x.ctrAddr (2 * bits arg.toNat 5 0)).toNat 1 0 (cellParty 0 (64 * r))) w))
    ∧ (∀ (cd : CdIx) (arg : Word) (count : DWord) (h : HeldArm), tfind s.arms (cd * 64 + bits arg.toNat 5 0) = some h →
        h.attempt = bits arg.toNat 9 8 → h.count = count.toNat →
        exec (.batchCancelNotice cd arg count) s = .next { s with arms := tdel s.arms (cd * 64 + bits arg.toNat 5 0) })
    ∧ (∀ (cd : CdIx) (arg : Word) (count : DWord), tfind s.arms (cd * 64 + bits arg.toNat 5 0) = none →
        exec (.batchCancelNotice cd arg count) s = .next (s.bump 2 (cd * 64) 7 1))
    ∧ (∀ (t : TurfIx) (b : BatchSt) (v : State), (s.at_ now).batch t = some b → b.waiting = false → b.started = false →
        b.startCount ≤ (s.at_ now).now + 1000 → (s.at_ now).armed t b = false → (s.at_ now).batchLacks t = false → b.attempt = 1 →
        b.hostCount = false → v = (s.at_ now).sendNotices 3 t b.attempt b.regions b.startCount →
        exec (.armDeadline t now) s = .next (v.armBatch t b 2 (s.at_ now).startAfter))
    ∧ (∀ (t : TurfIx) (b : BatchSt) (v : State), (s.at_ now).batch t = some b → b.started = true →
        64 * popCount b.regions 64 ≤ ((s.at_ now).ctr (2 * t + 1)).value → b.abortCmd = none →
        v = ((s.at_ now).evalWaits (2 * t + 1)).1 →
        exec (.batchDone t now) s = .next (v.finishBatch t b stOk (v.okResult b)))
    ∧ (∀ (t : TurfIx) (b : BatchSt), (s.at_ now).batch t = some b → b.waiting = false → b.started = false → b.stopping = false →
        b.startCount ≤ (s.at_ now).now → (s.at_ now).armed t b = true → ((s.at_ now).slot + 1) % 32 = 0 →
        (s.at_ now).tuneGaps.any (fun g => g.1 == t.val && g.2.1 != 0) = false → (s.at_ now).batchLacks t = false →
        exec (.batchStart t now) s = .next ((s.at_ now).beginBatch t b))
    ∧ (∀ (t : TurfIx) (b : BatchSt), (s.at_ now).batch t = some b → b.waiting = false → b.started = false → b.stopping = false →
        b.startCount ≤ (s.at_ now).now → (s.at_ now).armed t b = true → ((s.at_ now).slot + 1) % 32 = 0 →
        (s.at_ now).tuneGaps.any (fun g => g.1 == t.val && g.2.1 != 0) = false → (s.at_ now).batchLacks t = true →
        exec (.batchStart t now) s = .next ((s.at_ now).withdrawBatch t b stNoResource 0))
    ∧ (∀ (r : RegionIx) (x : Sleep), (s.region r).going = some x →
        exec (.regionSafeState r) s =
          .next (((if x = .s4 then (s.modRegion r (fun y => { y with
              sleep := .s4, going := none, needsTables := true })).clearRegion r
            else s.modRegion r (fun y => { y with sleep := x, going := none })).regionEnded r).settleWakes))

/-- MATMUL, DRAIN, VOP, VLOAD, VSTORE, ROWCOPY, CTL_READ, CTL_WRITE and RICK_READ issue as R100 to R107 give. -/
def Obligations.ComputeAndMoveStepsComplete : Prop :=
  ∀ (s u : State) (c : CellIx) (w : BitVec 256) (x : CellSt), x = u.cell c →
    (∀ o : MatOp, s.stepReady c .matmul w → u = s.beginIssue c .matmul w → o = matOp w x.loop →
        ((matBytes o).any (fun a => (u.fly c .matmul w (x.stepUse w) []).marked (rowKey c a.1) a.2)) = false →
        exec (.matmul c) s =
          .next ((((((u.fly c .matmul w (x.stepUse w) []).modCell c (fun y => { y with
            acc := (x.matAcc (u.fly c .matmul w (x.stepUse w) []).mem c o).1, macBusy := true })).cellEvent c 0x04 (matCycles o) x.layer
            x.operator).ledgerEvents c (x.matAcc (u.fly c .matmul w (x.stepUse w) []).mem c o).2)).endIssue c))
    ∧ (∀ (a : AccSlot) (l : List Nat), s.stepReady c .drain w → u = s.beginIssue c .drain w →
        a = x.accSlot (if w.toNat.testBit 216 then 8 + sf w 215 213 else sf w 215 213) →
        l = drainElems a (sf w 223 220) (sf w 219 217) (u.stepKey c) →
        exec (.drain c) s =
          .next (((u.digestStep c x.layer x.operator (packBits (fmtBits (sf w 223 220)) l) (elemValues (sf w 223 220) a.anchor l [])).fly c
            .drain w (x.stepUse w) [.store (512 * sf w 212 201) (packBits (fmtBits (sf w 223 220)) l) []]).endIssue c))
    ∧ (∀ r : List Word, s.stepReady c .vop w → u = s.beginIssue c .vop w →
        r = vopResult (sf w 223 218) (sf w 197 195) (BitVec.ofNat 32 (sf w 189 158)) ((List.range 128).map (srWord (u.stepKey c)))
          (x.lanes (sf w 212 208)) (x.lanes (sf w 207 203)) (x.lanes (sf w 202 198)) →
        exec (.vop c) s =
          .next ((u.fly c .vop w (x.stepUse w) (.vreg (sf w 217 213) r
            :: (if w.toNat.testBit 194 then [.lreg (sf w 193 190) (r.headD 0)] else []))).endIssue c))
    ∧ (∀ (o : VecMem) (v : State), s.stepReady c .vload w → u = s.beginIssue c .vload w → o = vecMem w x.loop →
        v = u.fly c .vload w (x.stepUse w) [.vreg o.vr (loadLanes u.mem c o (u.stepKey c))] →
        exec (.vload c) s =
          .next ((if (vecSpans c o).any (fun a => v.marked a.1 a.2) then v.storeUe c (vecSpans c o) else v).endIssue c))
    ∧ (∀ (o : VecMem) (e : List Nat × List Nat × Nat), s.stepReady c .vstore w → u = s.beginIssue c .vstore w → o = vecMem w x.loop →
        e = storeElems o (x.lanes o.vr) (u.stepKey c) →
        exec (.vstore c) s =
          .next ((((u.digestStep c x.layer x.operator (packBits (fmtBits o.fmt) e.1) (elemValues o.fmt o.anchor e.1 e.2.1)).ledgerEvents c
            e.2.2).fly c .vstore w (x.stepUse w) (.store (512 * o.row + o.byteOff) (packBits (fmtBits o.fmt) e.1) []
              :: (if isMx o.fmt then [.store (512 * o.scaleRow + o.scaleOff) (packBits 8 e.2.1) []] else []))).endIssue c))
    ∧ (s.stepReady c .rowcopy w → u = s.beginIssue c .rowcopy w →
        exec (.rowcopy c) s =
          .next ((u.fly c .rowcopy w {} [.store (512 * sf w 211 200) (memRead u.mem (rowKey c (sf w 223 212)) (512 * sf w 199 190))
            (u.wordsMarked (rowKey c (sf w 223 212)) (512 * sf w 199 190))]).endIssue c))
    ∧ (s.stepReady c .ctlRead w → u = s.beginIssue c .ctlRead w →
        exec (.ctlRead c) s =
          .next ((u.fly c .ctlRead w (x.stepUse w) [.lreg (sf w 211 208) (BitVec.ofNat 32 (u.cellCtl c (sf w 223 212)))]).endIssue c))
    ∧ (∀ v : Nat, s.stepReady c .ctlWrite w → u = s.beginIssue c .ctlWrite w →
        v = (if w.toNat.testBit 207 then (x.loop (sf w 206 203)).toNat else sf w 191 160) →
        exec (.ctlWrite c) s =
          .next (((u.modCell c (fun y => { y with
            rick := if v.testBit 1 then (if v.testBit 0 then y.rick.drop else y.rick).flush
              else if v.testBit 0 then y.rick.drop else y.rick })).fly c .ctlWrite w {} []).endIssue c))
    ∧ (s.stepReady c .rickRead w → u = s.beginIssue c .rickRead w →
        exec (.rickRead c) s =
          .next (((u.modCell c (fun y => { y with rick := x.rick.read.2 })).fly c .rickRead w (x.stepUse w) [.vreg (sf w 216 212)
            ((List.range 128).map (fun i => if i < 4 then BitVec.ofNat 32 (x.rick.read.1.toNat / 2 ^ (32 * i)) else 0))]).endIssue c))

/-- WAIT, SIGNAL, SREAD, TOKEN, the loop steps, MARK and HALT issue as R108 to R112 and Table 4.12 give. -/
def Obligations.SyncAndLoopStepsComplete : Prop :=
  ∀ (s u : State) (c : CellIx) (w : BitVec 256) (x : CellSt), x = u.cell c →
    (∀ r : State × WaitResult, s.stepReady c .wait w → u = s.beginIssue c .wait w →
        r = u.waitOn (65536 + c * 64 + sf w 223 218) {
          who := cellParty 0 c
          thresh := if w.toNat.testBit 153 then (x.loop (sf w 152 149)).toInt else signed 32 (sf w 217 186)
          dec := sf w 185 154, since := u.now, layer := x.layer, operator := x.operator } →
        r.2 = .standing →
        exec (.wait c) s = .next (((r.1.fly c .wait w {} []).modCell c (fun y => { y with waitGated := true })).endIssue c))
    ∧ (∀ r : State × WaitResult, s.stepReady c .wait w → u = s.beginIssue c .wait w →
        r = u.waitOn (65536 + c * 64 + sf w 223 218) {
          who := cellParty 0 c
          thresh := if w.toNat.testBit 153 then (x.loop (sf w 152 149)).toInt else signed 32 (sf w 217 186)
          dec := sf w 185 154, since := u.now, layer := x.layer, operator := x.operator } →
        r.2 ≠ .standing → exec (.wait c) s = .next ((r.1.ctlDone c w).endIssue c))
    ∧ (s.stepReady c .signal w → u = s.beginIssue c .signal w →
        s.signalStalls c (s.collierParty c).turf (s.signalAddr c w) = false →
        exec (.signal c) s =
          .next (((u.cellSignal c 0 (u.signalAddr c w) (sf w 185 154) (u.collierParty c)).ctlDone c w).endIssue c))
    ∧ (s.stepReady c .sread w → u = s.beginIssue c .sread w →
        exec (.sread c) s =
          .next (((u.modCell c (fun y =>
            y.setLoop (sf w 211 208) (BitVec.ofNat 32 (u.ctr (65536 + c * 64 + sf w 223 218)).value))).ctlDone c w).endIssue c))
    ∧ (s.stepReady c .token w → u = s.beginIssue c .token w → exec (.token c) s = .next ((u.ctlDone c w).endIssue c))
    ∧ (s.stepReady c .lset w → u = s.beginIssue c .lset w →
        exec (.lset c) s =
          .next (((u.modCell c (fun y => y.setLoop (sf w 223 220) (BitVec.ofNat 32 (sf w 191 160)))).ctlDone c w).endIssue c))
    ∧ (s.stepReady c .ladd w → u = s.beginIssue c .ladd w →
        exec (.ladd c) s =
          .next (((u.modCell c (fun y =>
            y.setLoop (sf w 223 220) (y.loop (sf w 223 220) + BitVec.ofNat 32 (sf w 191 160)))).ctlDone c w).endIssue c))
    ∧ (s.stepReady c .lcopy w → u = s.beginIssue c .lcopy w →
        exec (.lcopy c) s =
          .next (((u.modCell c (fun y => y.setLoop (sf w 223 220) (y.loop (sf w 219 216)))).ctlDone c w).endIssue c))
    ∧ (s.stepReady c .djnz w → u = s.beginIssue c .djnz w →
        exec (.djnz c) s =
          .next (((u.modCell c (fun y =>
            if y.loop (sf w 223 220) = 0 then y
            else if y.loop (sf w 223 220) - 1 = 0 then y.setLoop (sf w 223 220) 0
            else { y.setLoop (sf w 223 220) (y.loop (sf w 223 220) - 1) with ptr := sf w 215 205 })).ctlDone c w).endIssue c))
    ∧ (s.stepReady c .jmp w → u = s.beginIssue c .jmp w →
        exec (.jmp c) s = .next (((u.modCell c (fun y => { y with ptr := sf w 215 205 })).ctlDone c w).endIssue c))
    ∧ (s.stepReady c .jz w → u = s.beginIssue c .jz w →
        exec (.jz c) s =
          .next (((u.modCell c (fun y =>
            if y.loop (sf w 223 220) = 0 then { y with ptr := sf w 215 205 } else y)).ctlDone c w).endIssue c))
    ∧ (s.stepReady c .jltu w → u = s.beginIssue c .jltu w →
        exec (.jltu c) s =
          .next (((u.modCell c (fun y =>
            if y.loop (sf w 223 220) < y.loop (sf w 219 216) then { y with ptr := sf w 215 205 } else y)).ctlDone c w).endIssue c))
    ∧ (s.stepReady c .mark w → u = s.beginIssue c .mark w →
        exec (.mark c) s =
          .next (((u.modCell c (fun y => { y with
            layer := BitVec.ofNat 16 (sf w 223 208), operator := BitVec.ofNat 16 (sf w 207 192) })).ctlDone c w).endIssue c))
    ∧ (s.stepReady c .halt w → u = s.beginIssue c .halt w →
        exec (.halt c) s = .next (((u.modCell c (fun y => { y with haltIssued := true })).fly c .halt w {} []).endIssue c))

/-- Step completion, HALT completion, the ramp, the scrub, logic faults and waking act as R37 to R39, R46, R93, R112, R122, R243 and R552 give. -/
def Obligations.CellEventsComplete : Prop :=
  ∀ (s : State) (c : CellIx),
    (∀ (k : Fin 2048) (i : InFlight), (s.cell c).inflight[k.val]? = some i → i.unit ≠ .ctl → s.held = false →
        exec (.stepComplete c k) s =
          .next (((i.effects.foldl (fun v e => v.stepEffect c e) (s.modCell c (fun x => { x with
            inflight := x.inflight.eraseIdx k.val }))).post c i.postT i.postN).settleCell c))
    ∧ (∀ (t : Nat) (u v : State), (s.cell c).haltDue = true → s.protRoom (c / 256) = true →
        u = ((s.cell c).inflight.filter (fun i => i.unit == .ctl)).foldl (fun v i => v.post c i.postT i.postN)
          (s.modCell c (fun y => { y with halted := true, running := false, haltIssued := false, inflight := [] })) →
        (u.cell c).stoppedErr = false → u.batchOfCell c = some t →
        v = u.modBatch t (fun b => { b with lastHalt := max b.lastHalt u.now }) →
        exec (.haltComplete c) s =
          .next ((v.cellSignal c 0 (v.ctrAddr (2 * t + 1)).toNat 1 { v.collierParty c with turf := t }).settleCell c))
    ∧ (∀ feeding : Bool, (s.cell c).running = true → s.held = false →
        exec (.rampUpdate ⟨c, feeding⟩) s =
          .next (s.modCell c (fun x => { x with
            ramp := if x.macBusy then min 16 (x.ramp + 1) else 0, macBusy := feeding && x.inflight.any (fun i => i.unit == .mac) })))
    ∧ (∀ row : Fin 3072, exec (.storeScrub c row .clean) s = .next s)
    ∧ (∀ row : Fin 3072, (s.region (regionOf c)).sleep = .s0 →
        exec (.storeScrub c row .corrected) s =
          .next ((s.modWear c (fun w => { w with
            corrections := w.corrections.filter (fun t => decide (s.now < t + 86400000000000)) ++ [s.now]
            hourStore := w.hourStore + 1 })).cellEvent c 0x20 1 0 0))
    ∧ (∀ row : Fin 3072, (s.region (regionOf c)).sleep = .s0 →
        exec (.storeScrub c row .uncorrectable) s = .next (s.draw.2.spoil (rowKey c row + 8 * (s.draw.1.toNat % 64)) 8))
    ∧ (∀ passes : Bool, (s.region (regionOf c)).sleep = .s0 →
        exec (.logicFault c passes) s = .next (s.cellFault c 6 1 true (some passes)))
    ∧ (∀ k : CtrIx, exec (.waitSatisfied k) s = .next ((s.evalWaits k).2.foldl (fun v w => v.wake w) (s.evalWaits k).1))

/-- GET, PUT, GET_IND, PUT_IND, SIGNAL, WAIT, END, SCHED_RECV and SCHED_SEND entries start their repeats as R115 to R136 give. -/
def Obligations.EngineEntriesComplete : Prop :=
  ∀ (s u : State) (c : CellIx) (e : AeIx) (w : BitVec 512) (r id : Nat), r = ((s.cell c).ae e).rep → id = ((s.cell c).ae e).nextId →
    (s.entryReady c e 1 w → u = s.beginEntry c e w →
        exec (.get c e) s =
          .next (u.aeQueue c e id (aeOps true id ((fld w 16 8 + r * fld w 24 8) % 2 ^ 64) (512 * aeBufRow w r) (fld w 32 4))))
    ∧ (s.entryReady c e 2 w → u = s.beginEntry c e w →
        exec (.put c e) s =
          .next (u.aeQueue c e id (aeOps false id ((fld w 16 8 + r * fld w 24 8) % 2 ^ 64) (512 * aeBufRow w r) (fld w 32 4))))
    ∧ (s.entryReady c e 3 w → u = s.beginEntry c e w → exec (.getInd c e) s = .next (u.aeIndirect c e true w r id))
    ∧ (s.entryReady c e 4 w → u = s.beginEntry c e w → exec (.putInd c e) s = .next (u.aeIndirect c e false w r id))
    ∧ (s.entryReady c e 5 w → u = s.beginEntry c e w → ((s.cell c).ae e).quiet = true →
        s.signalStalls c (s.cellTurf c) (fld w 16 8) = false →
        exec (.aeSignal c e) s = .next (u.cellSignal c (1 + e) (fld w 16 8) (fld w 24 4) (u.aeParty c e w)))
    ∧ (∀ v : State × WaitResult, s.entryReady c e 6 w → u = s.beginEntry c e w →
        v = u.waitOn (65536 + c * 64 + fld w 16 1) {
          who := cellParty (1 + e) c, thresh := signed 32 (fld w 20 4), dec := fld w 24 4, since := u.now, layer := aeLayer w
          operator := aeOperator w } →
        v.2 = .standing →
        exec (.aeWait c e) s =
          .next (v.1.modAe c e (fun a => { a.modRep id (fun r => { r with opsLeft := 1 }) with gated := true })))
    ∧ (∀ v : State × WaitResult, s.entryReady c e 6 w → u = s.beginEntry c e w →
        v = u.waitOn (65536 + c * 64 + fld w 16 1) {
          who := cellParty (1 + e) c, thresh := signed 32 (fld w 20 4), dec := fld w 24 4, since := u.now, layer := aeLayer w
          operator := aeOperator w } →
        v.2 ≠ .standing → exec (.aeWait c e) s = .next v.1)
    ∧ (((s.cell c).ae e).entry = some w → (s.cell c).aeGoing e = true → aeKind w = 0 →
        exec (.aeEnd c e) s = .next (s.modAe c e (fun a => { a with finished := true })))
    ∧ (∀ errs : List (Fin 49152 × Bool), s.entryReady c e 7 w → u = s.beginEntry c e w → s.held = false →
        exec (.schedRecv c ⟨e, errs⟩) s =
          .next (u.schedMove c e false w r ((s.cell c).ae e).ptr (errs.map (fun x => (x.1.val, x.2)))))
    ∧ (s.entryReady c e 8 w → u = s.beginEntry c e w → s.held = false →
        exec (.schedSend c e) s = .next (u.schedMove c e true w r ((s.cell c).ae e).ptr []))

/-- The schedule deadline, the completion of an action, OP_NACK and its retry act as R48, R49 and R115 to R118 give. -/
def Obligations.EngineEventsComplete : Prop :=
  ∀ (s u : State) (c : CellIx) (e : AeIx) (now : Nat), u = s.at_ now →
    (∀ w : BitVec 512, ((s.cell c).ae e).entry = some w → s.held = false → (s.cell c).running = true → (s.cell c).stopping = false →
        ((s.cell c).ae e).faulted = false → ((s.cell c).ae e).schedAhead = true →
        isSched w = false ∨ (s.cell c).canTake (aeTake w).1 (aeTake w).2 = false →
        exec (.aeSchedDeadline c e) s = .next (s.aeFault c e))
    ∧ (∀ (r : AeRep) (l : List AeRep), ((s.cell c).ae e).reps = r :: l → r.opsLeft = 0 → ((s.cell c).ae e).faulted = false →
        exec (.aeActionComplete c e) s =
          .next ((s.modAe c e (fun a => { a with reps := l })).post c (r.post.toNat % 16) (r.post.toNat / 16)))
    ∧ (∀ (tag : Word) (st : Byte), (s.ops.any (fun o => o.unit == cellParty (1 + e) c && o.tag == tag)) = true →
        exec (.opNack c e tag st) s = .next ((s.opDone (cellParty (1 + e) c) tag).aeRefused c e tag st.toNat))
    ∧ (∀ (tag : Word) (o : AeOp) (t : Nat) (r : AeRep), ((u.cell c).ae e).ops.find? (fun o => o.tag == tag) = some o →
        o.refusedAt = some t → ((u.cell c).ae e).repOf o.rep = some r → t + 1000 ≤ u.now → (u.cell c).stopping = false →
        exec (.aeNackRetry c e tag now) s =
          .next ((u.modAe c e (fun a => { a with ops := a.ops.filter (fun o => o.tag != tag) })).aeIssue c e
            { o with retries := o.retries + 1, refusedAt := none } r.layer r.operator))

/-- LOAD, STORE and the four atomics are performed at their target as R268 to R271 give. -/
def Obligations.MemoryOperationsComplete : Prop :=
  ∀ (s : State) (a : Arrival) (p : Packet) (m o n : Nat),
    (p.op = 1 → s.siteHeld p = false → p.requestOk = true → s.resolve p.addr = some (.site m o) → s.opRefusal a.turf p = none →
        exec (.load a p) s = .next (s.loadMem a.turf p))
    ∧ (p.op = 2 → s.siteHeld p = false → p.requestOk = true → s.resolve p.addr = some (.site m o) → s.opRefusal a.turf p = none →
        exec (.store a p) s =
          .next ((((pieces p.addr p.len).foldl (fun (v : State) (x : Nat × Nat) =>
            (v.writePiece x.1 (slice p.data (x.1 - p.addr) x.2) p.poisoned).1) s).countSite p 1).storeAnswer a.turf p))
    ∧ (∀ k : Nat, p.op = 1 → s.siteHeld p = false → p.requestOk = true → s.resolve p.addr = some (.ctr k) → p.len = 4 →
        s.ctrReadRefusal k a.turf = none → exec (.load a p) s = .next (s.dataReq a.turf p (natLe 4 (s.ctr k).value) false))
    ∧ (∀ (bs : Bytes) (r : Nat × Nat), p.op = 0x10 → s.siteHeld p = false → p.requestOk = true → s.atomFound p = none →
        s.farPending p = false → s.resolve p.addr = some (.site m o) → s.opRefusal a.turf p = none → n = otypeBytes p.otype →
        (s.meetRange p.addr n).readPiece p.addr n = some (bs, false) → r = atomValue p (leNat bs) →
        exec (.atomAdd a p) s =
          .next (((((s.meetRange p.addr n).writePiece p.addr (natLe n r.1) false).1.countSite p 1).countRange (s.resolve p.addr)
            r.2).atomDone a.turf p (BitVec.ofNat 128 (leNat bs)) (decide (0 < r.2))))
    ∧ (∀ (bs : Bytes) (r : Nat × Nat), p.op = 0x11 → s.siteHeld p = false → p.requestOk = true → s.atomFound p = none →
        s.farPending p = false → s.resolve p.addr = some (.site m o) → s.opRefusal a.turf p = none → n = otypeBytes p.otype →
        (s.meetRange p.addr n).readPiece p.addr n = some (bs, false) → r = atomValue p (leNat bs) →
        exec (.atomMin a p) s =
          .next (((((s.meetRange p.addr n).writePiece p.addr (natLe n r.1) false).1.countSite p 1).countRange (s.resolve p.addr)
            r.2).atomDone a.turf p (BitVec.ofNat 128 (leNat bs)) (decide (0 < r.2))))
    ∧ (∀ (bs : Bytes) (r : Nat × Nat), p.op = 0x12 → s.siteHeld p = false → p.requestOk = true → s.atomFound p = none →
        s.farPending p = false → s.resolve p.addr = some (.site m o) → s.opRefusal a.turf p = none → n = otypeBytes p.otype →
        (s.meetRange p.addr n).readPiece p.addr n = some (bs, false) → r = atomValue p (leNat bs) →
        exec (.atomMax a p) s =
          .next (((((s.meetRange p.addr n).writePiece p.addr (natLe n r.1) false).1.countSite p 1).countRange (s.resolve p.addr)
            r.2).atomDone a.turf p (BitVec.ofNat 128 (leNat bs)) (decide (0 < r.2))))
    ∧ (∀ (bs : Bytes) (r : Nat × Nat), p.op = 0x13 → s.siteHeld p = false → p.requestOk = true → s.atomFound p = none →
        s.farPending p = false → s.resolve p.addr = some (.site m o) → s.opRefusal a.turf p = none → n = otypeBytes p.otype →
        (s.meetRange p.addr n).readPiece p.addr n = some (bs, false) → r = atomValue p (leNat bs) →
        exec (.atomCas a p) s =
          .next (((((s.meetRange p.addr n).writePiece p.addr (natLe n r.1) false).1.countSite p 1).countRange (s.resolve p.addr)
            r.2).atomDone a.turf p (BitVec.ofNat 128 (leNat bs)) (decide (0 < r.2))))
    ∧ (∀ (k : Nat) (r : State × Nat), p.op = 0x10 → s.siteHeld p = false → p.requestOk = true → s.atomFound p = none →
        s.farPending p = false → s.resolve p.addr = some (.ctr k) → p.otype = 0 → signed 32 p.operand.toNat ≠ 0 →
        r = s.signalCtr k (signed 32 p.operand.toNat) {
          who := BitVec.ofNat 16 (if a.remote then p.srcEp else p.unit), turf := a.turf, remote := a.remote } →
        r.2 = stOk → exec (.atomAdd a p) s = .next (r.1.atomDone a.turf p (BitVec.ofNat 128 (s.ctr k).value) false))

/-- ACK, DATA and NACK end the operation they answer, and an answer to no outstanding operation is discarded and counted, as R270 and R315 give. -/
def Obligations.AnswersComplete : Prop :=
  ∀ (s : State) (unit : Half) (p : Packet) (o : TomicOp),
    (s.opOf unit p.tag = some o → p.op = 0x80 → o.pkt.op ≠ 1 →
        exec (.ack unit p) s = .next (((s.opDone unit o.tag).opAnswered o p p.status true false).drainProgress))
    ∧ (s.opOf unit p.tag = some o → p.op = 0x81 → o.pkt.op = 1 → p.data.length = o.pkt.len →
        exec (.data unit p) s = .next (((s.opDone unit o.tag).opAnswered o p p.status false false).drainProgress))
    ∧ (s.opOf unit p.tag = some o → p.op = 0x82 → p.status ≠ 0 →
        exec (.nack unit p) s = .next (((s.opDone unit o.tag).opAnswered o p p.status false false).drainProgress))
    ∧ (s.opOf unit p.tag = none → exec (.ack unit p) s = .next (s.tally (.lateAnswer unit.toNat) 1))
    ∧ (s.opOf unit p.tag = none → exec (.data unit p) s = .next (s.tally (.lateAnswer unit.toNat) 1))
    ∧ (s.opOf unit p.tag = none → exec (.nack unit p) s = .next (s.tally (.lateAnswer unit.toNat) 1))

/-- An operation with no answer in 10 ms ends as R272 gives, and a queue that found no credit moves to the escape channel as R302 gives. -/
def Obligations.TimeoutsAndEscapeComplete : Prop :=
  ∀ (s u : State) (now : Nat), u = s.at_ now →
    (∀ (unit : Half) (tag : Word) (o : TomicOp), u.opOf unit tag.toNat = some o → o.sentAt + 10000000 ≤ u.now →
        exec (.tomicOpTimeout unit tag now) s = .next (u.opEnds o stInternal true).drainProgress)
    ∧ (∀ (unit : Half) (tag : Word) (o : TomicOp), u.opOf unit tag.toNat = some o → u.now < o.sentAt + 10000000 →
        exec (.tomicOpTimeout unit tag now) s = .next u)
    ∧ (∀ (l : LinkIx) (vc : Fin 4) (h : Nat × Nat × Nat × Bytes) (v : State), (u.link l).waiting.find? (fun w => w.1 == vc.val) = some h →
        isFar l = false → linkChannel l ≠ 2 → (u.link l).state = .inService → tget (u.link l).recCredits 0 vc = 0 →
        h.2.1 + 2000 ≤ u.now →
        v = ((u.link l).waiting.filter (fun w => w.1 == vc.val)).foldl (fun v w => v.escapeBody l vc w.2.2.2)
          ((u.modLink l (fun y => { y with waiting := y.waiting.filter (fun w => w.1 != vc.val) })).fibreCount l 6) →
        exec (.escapeMove l vc now) s =
          .next (if (v.link v.escapeLink).state = .inService then v.drainProgress else v.notice0 5 0x1008 []))
    ∧ (∀ (l : LinkIx) (vc : Fin 4), (u.link l).waiting.find? (fun w => w.1 == vc.val) = none →
        exec (.escapeMove l vc now) s = .next u)

/-- Copy-engine descriptors, SUBMIT stores, a failed engine and message stores act as R278 to R285 and R484 give. -/
def Obligations.CopyEnginesAndMessagesComplete : Prop :=
  ∀ (s : State) (ce : CeIx) (a : Arrival) (p : Packet),
    (∀ (d : CeDesc) (o : Option Bytes), (s.ce ce).nextDesc (s.ceOutstanding ce) = some d →
        d.srcHost = false ∨ o.all (fun b => b.length == d.len) = true →
        exec (.ceDescriptorStart ce o) s = .next (s.startDesc ce d o))
    ∧ (∀ (d : CeDesc) (v : State), (s.ce ce).nextDesc (s.ceOutstanding ce) = some d → d.srcHost = false →
        v = s.modDesc ce d.id (fun x => { x with started := true, gather := [] }) → v.descOk d = false →
        exec (.ceDescriptorStart ce none) s = .next (v.endDesc ce d.id stBadArg))
    ∧ (∀ (d : CeDesc) (v : State), (s.ce ce).nextDesc (s.ceOutstanding ce) = some d → d.srcHost = false → d.op < 0x20 → d.otype ≠ 3 →
        v = s.modDesc ce d.id (fun x => { x with started := true, gather := [] }) → v.descOk d = true →
        exec (.ceDescriptorStart ce none) s =
          .next (v.issueOp (ceUnit ce).toNat d.turf d.op d.otype 0 0 (BitVec.ofNat 64 d.dst) (BitVec.ofNat 128 (fld d.raw 24 16)) none []
            false 2 d.id).1)
    ∧ (∀ d : CeDesc, s.endedDesc ce = some d → d.statusAddr = 0 ∨ d.stored = true →
        exec (.ceDescriptorComplete ce) s = .next (s.finishDesc ce d))
    ∧ (∀ (d : CeDesc) (v : State), s.endedDesc ce = some d → d.statusAddr ≠ 0 → d.stored = false →
        s.issueRefusal d.turf d.statusAddr = none → v = s.modDesc ce d.id (fun x => { x with statusSent := true }) →
        exec (.ceDescriptorComplete ce) s =
          .next (v.issueOp (ceUnit ce).toNat d.turf 0x02 0 0 8 (BitVec.ofNat 64 d.statusAddr) 0 none (natLe 8 d.record) false 4 d.id).1)
    ∧ (p.op = 2 → s.resolve p.addr = some (.ceSubmit ce) → s.submitRefusal ce a.turf a.remote p = none →
        exec (.ceSubmit ce a p) s =
          .next (((submitted p).foldl (fun v w =>
            v.pushDesc ce { raw := w, turf := a.turf, byCell := p.unit / 2 ^ 14 == 0 }) s).storeAnswer a.turf p))
    ∧ (exec (.copyEngineFault ce) s = .next (s.retireEngine ce 2))
    ∧ (∀ r : State × Nat, p.op = 2 → s.resolve p.addr = some .inbox → p.requestOk = true → p.len = 256 → (inboxRecords p).all msgOk = true →
        r = (inboxRecords p).zipIdx.foldl (fun (acc : State × Nat) x =>
          if !(leAt x.1 0 2).testBit 15 then acc
          else ((acc.1.deliver a.turf p x.1).1, if (acc.1.deliver a.turf p x.1).2 then acc.2 + 2 ^ x.2 else acc.2)) (s, 0) →
        exec (.messageInboxStore a p) s = .next (r.1.storeAnswer a.turf p (BitVec.ofNat 128 r.2)))

/-- Far-link frames, failover, a unit down and the commands of far billets act as R217 to R230 give. -/
def Obligations.FarUnitsComplete : Prop :=
  ∀ (s : State) (l : LinkIx) (u : FmuIx) (now : Nat),
    (∀ f : Bytes, isFar l = true → leAt f 4 1 = 2 → linkShapeOk l f = true →
        exec (.farDataGranule l f) s =
          .next ((s.farReceive l f true (fun v =>
            (v.readGranule l (slice f 24 8) (slice f 48 256)).readGranule l (slice f 32 8) (slice f 304 256))).drainProgress))
    ∧ (∀ f : Bytes, isFar l = true → leAt f 4 1 = 1 → linkShapeOk l f = true →
        exec (.completion l f) s =
          .next ((s.farReceive l f true (fun v =>
            (List.range 16).foldl (fun v i => v.completionRecord l (slice f (48 + 32 * i) 32)) v)).drainProgress))
    ∧ (∀ f : Bytes, isFar l = true → leAt f 4 1 = 0 → linkShapeOk l f = true →
        exec (.farIdleFrame l f) s = .next (s.farReceive l f false (fun v => v)))
    ∧ (∀ f : Bytes, isFar l = true → leAt f 4 1 = 0 → linkShapeOk l f = true → linkCrcOk f = false →
        exec (.farIdleFrame l f) s = .next (s.fibreCount l 3))
    ∧ (∀ t : Nat, isFar l = true → ((s.at_ now).link l).lostAt = some t → ((s.at_ now).link l).state ≠ .inService →
        t + 50000 ≤ (s.at_ now).now → ((s.at_ now).farUp (l / 8)).isEmpty = false →
        exec (.sublinkFailover l now) s = .next ((s.at_ now).failOver l))
    ∧ (∀ (t : Nat) (v w : State), ((s.at_ now).fmu u).noSublinkSince = some t → t + 50000 ≤ (s.at_ now).now →
        v = ((s.at_ now).modFmu u (fun x => { x with
          down := true, registered := false, billets := [], noSublinkSince := none })).failUnitOps u stInternal →
        w = { v with links := tmap v.links (fun k x => if k / 8 = u.val then { x with cmds := [], heldFrames := [], lostAt := none } else x) } →
        exec (.farUnitDown u now) s =
          .next (((w.stopUsers (fun q => portFmu q == some u.val) 0).releasePending (fun q => portFmu q == some u.val)).drainProgress))
    ∧ (∀ (p : PortIx) (b : FarBillet), (s.farWritesDue u).find? (fun b => b.port == p.val) = some b →
        exec (.farBilletWriteQueue u p) s = .next (s.queueFarBillet u b))
    ∧ (∀ (p : PortIx) (m t k : Nat) (e : BitVec 256) (b : FarBillet), portFmu p = some u.val → m = s.pw.schedCycles / 72 + 48 →
        (s.entriesAt m).find? (fun e => e.2.1 == p.val) = some (t, p.val, e, k) →
        ((s.fmu u).billets.any (fun b => b.port == p.val && b.slot == m && !b.isWrite)) = false → s.farFull u = false →
        b = { port := p.val, slot := m, isWrite := false, off := s.farOffset t (p.val / 64 - 40) (locAt e true k).toNat, turf := t } →
        exec (.farBilletReadQueue u p) s =
          .next ((((s.farWritesDue u).foldl (fun v w => v.queueFarBillet u w) s).modFmu u (fun x => { x with
            billets := x.billets ++ [b] })).queueFarBillet u b))

/-- Identity, lane maps, retraining, loss and failure of far sublinks and fabric channels act as R219 to R226, R290 and R314 give. -/
def Obligations.LinkRowsComplete : Prop :=
  ∀ (s u : State) (l : LinkIx) (now : Nat), u = s.at_ now →
    (∀ (m : Bytes) (c : Nat), m.length = 512 → (s.link l).state = .identify → s.identRefusal l m = some c →
        exec (.ident l m) s =
          .next (s.modLink l (fun x => { x with state := .refused, cause := c })))
    ∧ (∀ (m : Bytes) (v : State), m.length = 512 → (s.link l).state = .identify → s.identRefusal l m = none →
        v = (s.modLink l (fun x => { x with newIdent := some m })).sendMgmt l (natLe 2 2) →
        exec (.ident l m) s = .next (if (v.link l).ackSeen then v.enterService l m else v))
    ∧ ((s.link l).state = .identify → (s.link l).newIdent = none →
        exec (.identAck l) s = .next (s.modLink l (fun y => { y with ackSeen := true })))
    ∧ (∀ m : Bytes, (s.link l).state = .identify → (s.link l).newIdent = some m →
        exec (.identAck l) s = .next ((s.modLink l (fun y => { y with ackSeen := true })).enterService l m).drainProgress)
    ∧ ((s.link l).state = .training →
        exec (.fecLock l) s =
          .next ((s.modLink l (fun x => { x with state := .identify, ackSeen := false, newIdent := none })).sendMgmt l (s.identMsg l)))
    ∧ ((s.link l).state = .identify → (s.link l).newIdent = none → exec (.identRepeat l) s = .next (s.sendMgmt l (s.identMsg l)))
    ∧ (u.bu.photonicsOn = true → u.pw.shutdown = false → (u.link l).state = .down → exec (.sublinkRetrain l now) s = .next (u.trainLink l))
    ∧ (∀ (m : Bytes) (n : Half) (v : State), m.length = 18 → s.takesMessage l 5 n v →
        exec (.laneMapReq l ⟨m, n⟩) s = .next (v.mapAsked l m))
    ∧ (∀ (m : Bytes) (k n : Half) (v : State), m.length = 18 → s.takesMessage l 5 n v →
        exec (.laneMap l ⟨m, n⟩ k) s = .next (v.mapAnnounced l k.toNat m))
    ∧ (∀ (n : Half) (v : State), u.takesMessage l 5 n v →
        exec (.linkDown l ⟨n, now⟩) s = .next (v.loseLink l))
    ∧ (∀ n : Half, (u.link l).state = .inService → exec (.farFrameResend l true n now) s = .next (u.resendLink l n.toNat))
    ∧ (∀ (n : Half) (f : Nat × Bytes × Nat) (fs : List (Nat × Bytes × Nat)), (u.link l).state = .inService → (u.link l).heldFrames = f :: fs →
        (u.link l).ackAt + 1000 ≤ u.now → exec (.farFrameResend l false n now) s = .next (u.resendLink l f.1))
    ∧ (isFar l = true → (u.link l).lastGood + 10000 ≤ u.now → exec (.sublinkLoss l now) s = .next (u.loseLink l))
    ∧ (isFar l = false → (u.link l).lastGood + 10000 ≤ u.now → exec (.channelLoss l now) s = .next (u.loseLink l))
    ∧ (∀ f : FabFibreIx, exec (.fibreFailed f now) s =
        .next ((((List.range 3).map (fabLink f)).filter u.lostLong).foldl (fun v l => v.failChannel l) u).drainProgress)

/-- Frames, billets, repair, Dynamic frames and Protected packets act as R148, R158 to R172, R485 and R486 give. -/
def Obligations.BaseFramesComplete : Prop :=
  ∀ (s u : State) (p : PortIx) (now : Nat), u = s.at_ now →
    (s.bu.photonicsOn = true → s.held = false → s.mustHold (s.slot + 1) = false →
        exec .frameLaunch s = .next (s.launchSlot (s.slot + 1)))
    ∧ (s.bu.photonicsOn = true → s.held = false → s.mustHold (s.slot + 1) = true →
        exec .frameLaunch s = .next (s.startRepairHold (s.slot + 1)))
    ∧ (s.bu.photonicsOn = true → s.held = true ∨ s.pw.h ≠ 0 →
        exec .interstitialFrame s = .next s.launchBetween)
    ∧ (∀ (h : BitVec 512) (d : Bytes) (b : PendingBillet), hdrCrcOk h = true → fld h 16 1 = 1 ∨ fld h 16 1 = 2 → fld h 22 2 = s.calEpoch →
        (s.port p).pending.find? (fun b => b.slot % 2 ^ 32 == fld h 24 4) = some b → d.length = 8192 → fld h 56 4 = crc32c d →
        s.noPlace p = false → exec (.billetReceive p h d) s = .next (s.billetArrives p b h d))
    ∧ (∀ (h : BitVec 512) (d : Bytes) (b : PendingBillet), hdrCrcOk h = true → fld h 16 1 = 1 ∨ fld h 16 1 = 2 → fld h 22 2 = s.calEpoch →
        (s.port p).pending.find? (fun b => b.slot % 2 ^ 32 == fld h 24 4) = some b → fld h 56 4 ≠ crc32c d →
        exec (.billetReceive p h d) s = .next (s.billetFails p b 2))
    ∧ (∀ (h : BitVec 512) (d : Bytes), hdrCrcOk h = true → fld h 16 1 = 1 ∨ fld h 16 1 = 2 → fld h 22 2 ≠ s.calEpoch →
        exec (.billetReceive p h d) s = .next (s.bump 2 p 4 1))
    ∧ (∀ (r : RepairPlan) (b : PendingBillet) (y : BilletSt), s.holds.repairs.find? (fun r => r.tx == p.val) = some r →
        (s.port r.rx).pending.find? (fun b => b.slot == r.slot) = some b → s.keptBillet p r.rx b = some y →
        exec (.repairSend p) s = .next (s.sendRepair p r.rx b y))
    ∧ (exec (.repairHoldCheck p) s =
        .next { s with holds := { s.holds with
          repairDue := ((s.dueBillets p).map (fun b => (p.val, b.slot, b.slot + b.consume))).foldl (fun l d =>
            if l.contains d then l else l ++ [d]) s.holds.repairDue } })
    ∧ (s.holds.repair = some [] → exec .repairHoldEnd s = .next { s with holds := { s.holds with repair := none } })
    ∧ (∀ (k : DynPkt) (ks : List DynPkt) (v : State), frameOf (s.port p).dynQ = k :: ks →
        v = s.modPort p (fun x => { x with
          dynQ := x.dynQ.map (fun y => if ((k :: ks).map (fun z => z.id)).contains y.id then { y with requested := true } else y) }) →
        exec (.dynamicFrameRequest p) s =
          .next (({ v with nextSeq := s.nextSeq + 1 } : State).modPort k.dst (fun x => { x with requests := x.requests ++ [{
            tx := p, turf := k.turf, vc := k.vc, ids := (k :: ks).map (fun z => z.id), stamp := s.nextSeq }] })))
    ∧ (∀ (r : DynReq) (k : Nat), s.nextGrant (p / 64) = some (p.val, r) → s.frameFor r.tx p = some k →
        exec (.dynamicGrant p) s = .next (s.grantFrame p r k))
    ∧ (∀ (h : BitVec 512) (d : Bytes), hdrCrcOk h = true → fld h 16 1 = 3 → fld h 56 4 = crc32c d →
        exec (.dynamicFrameReceive p h d) s =
          .next ((List.range (min 8 (fld h 35 1))).foldl (fun v i =>
            v.deliverPacket p (fld h 21 1 % 64) (areaPacket h d i) (fld h (36 + i) 1)) ((s.bump 2 p 5 1).emit (.frameAck p))))
    ∧ (∀ n : Nat, exec (.dynamicFrameAck p n) s = .next (s.modPort p (fun x => { x with
        awaiting := x.awaiting.filter (fun k => k.frame != some n) })))
    ∧ ((u.unacked p).isEmpty = false → exec (.dynamicResend p now) s = .next (u.resendFrames p (u.unacked p)))
    ∧ (∀ (o : OepIx) (f : BitVec 128), bits f.toNat 23 16 ≠ 0 → bits f.toNat 29 24 < 44 →
        exec (.carriageReceive o f now) s =
          .next (u.copyArrives (seqKey o (bits f.toNat 29 24)) (bits f.toNat 29 24 * 64 + bits f.toNat 31 31) (bits f.toNat 15 0)
            (bits f.toNat 31 31) (fun v => v.protectedEffect (bits f.toNat 29 24) (bits f.toNat 23 16)
              (BitVec.ofNat 32 (bits f.toNat 63 32)) (BitVec.ofNat 64 (bits f.toNat 127 64)))))
    ∧ (∀ (a b : OepIx) (n : Half) (key m c t : Nat), u.singleKey a b n.toNat = some (key, m, c, t) → t + 2000 ≤ u.now →
        exec (.missingDuplicate a b n now) s = .next (u.copyMissing key a b m c))
    ∧ (∀ (x : Word) (n : DWord), s.holds.swapping ≠ [] → s.holds.lightOn = false → bits x.toNat 9 8 = 1 →
        exec (.faultNotice x n) s = .next { s with holds := { s.holds with lightAt := some n.toNat } })

/-- LOAD_IMAGE and the upkeep of the near-tier sites act as R209 to R214 and R513 to R515 give. -/
def Obligations.ImageLoadAndSiteUpkeepComplete : Prop :=
  ∀ (m : SiteIx) (s u : State) (now : Nat), u = s.at_ now →
    (∀ (q : QueueIx) (slot : SlotIx) (data : Option Bytes) (a : Accepted) (b : Bytes) (img : ImageSt) (h : Nat) (v w : State),
        s.ready q slot 0x0100 a → v = s.beginCmd a →
        s.readFits ((sqArg a.entry 2).testBit 0) (sqArg a.entry 0) (sqArg a.entry 1) data = true →
        v.holdsImage (sqTurf a.entry) = false → v.pw.safeStopped = false → 256 ≤ sqArg a.entry 1 → sqArg a.entry 1 ≤ 2 ^ 30 →
        v.addrCheck a.q (v.queue a.q).turf ((sqArg a.entry 2).testBit 0) (sqArg a.entry 0) (sqArg a.entry 1) = none →
        w = v.meetIn ((sqArg a.entry 2).testBit 0) (sqArg a.entry 0) (sqArg a.entry 1) →
        w.readIn ((sqArg a.entry 2).testBit 0) (sqArg a.entry 0) (sqArg a.entry 1) data = some b →
        w.checkImage (sqTurf a.entry) (sqArg a.entry 1) b = .inl img → w.freeHandle = some h →
        exec (.loadImage q slot data) s = .next (w.enterImage a h img))
    ∧ (∀ (g : Fin 268435456) (f : ScrubFind), u.bu.memoryOn = true → (u.site m).selfRefresh = false →
        exec (.patrolScrub m g f now) s =
          .next (((u.upset (halvesOf m (g.val * 256)) f).eccGranule m (halvesOf m (g.val * 256))).writeBack (halvesOf m (g.val * 256))))
    ∧ (∀ (g : Fin 268435456) (f : ScrubFind), (u.site m).selfRefresh = true → exec (.patrolScrub m g f now) s = .next u)
    ∧ (∀ (pc : Fin 64) (sp : Nat) (rest : List Nat), (s.site m).migrating = none → (s.site m).sparePcs = sp :: rest →
        exec (.pcMigration m pc) s =
          .next ((s.modSite m (fun y => { y with migrating := some (pc.val, sp), sparePcs := rest })).takeSpare 0x0B m m
            (if (s.site m).errors.any (fun e => e.1 == pc.val) then 2 else 3)))
    ∧ (∀ pc : Fin 64, (s.site m).migrating = none → (s.site m).sparePcs = [] →
        exec (.pcMigration m pc) s = .next (s.siteDegraded m ((s.site m).phys pc)))
    ∧ (∀ (pc : Fin 64) (l sp : Nat), (s.site m).migrating = some (l, sp) → l ≠ pc.val → (s.site m).waitingPc.contains pc.val = false →
        exec (.pcMigration m pc) s = .next (s.modSite m (fun y => { y with waitingPc := y.waitingPc ++ [pc.val] })))
    ∧ (∀ (lost : List (Fin 268435456)) (pc sp : Nat) (v : State), (s.site m).migrating = some (pc, sp) → (s.site m).waitingPc = [] →
        v = (lost.filter (fun g => s.pcOf (g.val * 256) == pc)).foldl (fun x g => x.spoil (siteKey m (g.val * 256)) 256) s →
        exec (.pcMigrationEnd m lost) s =
          .next (((v.modSite m (fun y => { y with
              pcMap := tset y.pcMap pc sp, migrating := none, corrected := tdel y.corrected pc })).addWear 0x03 m 1
                (BitVec.ofNat 32 ((s.site m).phys pc))).replaced 0x0B
            (if (s.site m).errors.any (fun e => e.1 == pc) then 2 else 3) 1 m (BitVec.ofNat 32 ((s.site m).phys pc)) 0))
    ∧ (∀ (pc : Fin 66) (bank : Byte) (row : Half), (s.site m).rowCopy = none → 0 < s.sparesLeft 0x0A (rowPool m pc bank.toNat) →
        exec (.rowReplace m pc bank row) s =
          .next ((s.modSite m (fun y => { y with rowCopy := some (pc.val, bank.toNat, row.toNat) })).takeSpare 0x0A
            (rowPool m pc bank.toNat) m (s.rowOrigin m pc)))
    ∧ (∀ (r : Nat × Nat × Nat) (v w : State), (s.site m).rowCopy = some r →
        v = s.modSite m (fun y => { y with rowCopy := none, rowsReplaced := y.rowsReplaced ++ [r] }) →
        w = (v.addWear 0x02 m 1 (rowDetail r)).replaced 0x0A (v.rowOrigin m r.1) 1 m (rowDetail r) 0 → (w.site m).rowWaits = [] →
        exec (.rowReplaceEnd m) s = .next (w.modSite m (fun y => { y with rowWaits := [] })))
    ∧ (u.bu.memoryOn = true → (u.site m).lastAccess + 10000000 ≤ u.now →
        (u.batches.any (fun b => b.2.started && (u.calPorts b.1).any (fun p => p / 64 == 16 + m.val))) = false →
        exec (.selfRefreshEnter m now) s = .next (u.modSite m (fun x => { x with selfRefresh := true })))
    ∧ (exec (.selfRefreshExit m now) s =
        .next (u.modSite m (fun x => { x with
          selfRefresh := x.heldRefresh, lastAccess := if x.selfRefresh then u.now else x.lastAccess })))

/-- Bank faults, light holds, ring locking, channel sweeps, tuning gaps and holds and fibre lanes act as R178 to R197 and R484 give. -/
def Obligations.LightAndTuningComplete : Prop :=
  ∀ (s u : State) (now : Nat), u = s.at_ now →
    (∀ (b : BankIx) (output lineMin : Nat) (limit : Bool) (feed low : Nat), u.bu.photonicsOn = true → (u.bank b).faulted = false →
        u.bankFeed b = some feed → low = (if output < 700 then (u.bank b).lowSamples + 1 else 0) →
        2 ≤ low ∨ lineMin < 500 ∨ limit = true →
        exec (.bankMonitorSample b output lineMin limit now) s =
          .next ((u.modBank b (fun x => { x with output := output, lowSamples := low })).bankFault b feed))
    ∧ (∀ (b : BankIx) (output lineMin : Nat) (limit : Bool), u.bu.photonicsOn = true → (u.bank b).faulted = false →
        700 ≤ output → 500 ≤ lineMin → limit = false →
        exec (.bankMonitorSample b output lineMin limit now) s =
          .next (u.modBank b (fun x => { x with output := output, lowSamples := 0 })))
    ∧ (∀ c : Nat, u.holds.lightAt = some c → c ≤ u.now →
        exec (.lightHoldStart now) s = .next { u with
          holds := { u.holds with lightAt := none, lightOn := true }
          batches := tmap u.batches (fun _ b => { b with sawLight := b.sawLight || b.started }) })
    ∧ (u.holds.lightOn = true → u.holds.lightEnd = none →
        exec (.lightHoldEnd now) s =
          .next (({ u with holds := { u.holds with lightEnd := some (u.now + 2000) } } : State).announceAll 5
            (6 + 2 * 2 ^ 8 + u.holds.lightBank * 2 ^ 16) (BitVec.ofNat 64 (u.now + 2000))))
    ∧ (∀ c : Nat, u.holds.lightOn = true → u.holds.lightEnd = some c → c ≤ u.now →
        exec (.lightHoldEnd now) s = .next { u with holds := { u.holds with
            lightOn := false, lightEnd := none
            swapping := u.holds.swapping.filter (fun f => u.holds.retuning.any (fun r => r.2 == f)) } })
    ∧ (∀ (b : BankIx) (t feed n : Nat), (u.holds.retuning.find? (fun r => r.1 == b.val)) = none →
        (u.bank b).wornAt = some t → u.bankFeed b = some feed →
        ((feedPorts feed).any u.scheduled = false ∨ t + 10000000000 ≤ u.now) → u.spareBank (b / 20) = some n →
        exec (.bankWearSwap b now) s = .next (u.wearSwap b feed n))
    ∧ (∀ (b : BankIx) (r : Nat × Nat), u.holds.retuning.find? (fun r => r.1 == b.val) = some r →
        exec (.bankWearSwap b now) s = .next (u.retuned b r.2))
    ∧ (∀ (p : PortIx) (pos : PosIx) (pm : Nat) (v : State), s.bu.photonicsOn = true → s.unlit p.val = false →
        16 ≤ p.val / 64 → (s.port p).lane pos ≠ 31 → 25 < pm → tget (s.port p).detuneRuns 0 pos = 9 →
        v = s.modPort p (fun x => { x with detune := tset x.detune pos pm, detuneRuns := tset x.detuneRuns pos 0 }) →
        exec (.ringLock p pos pm false) s = .next (v.ringFails p pos 2))
    ∧ (∀ (p : PortIx) (pos : PosIx) (pm : Nat), s.bu.photonicsOn = true → s.unlit p.val = false →
        16 ≤ p.val / 64 → (s.port p).lane pos ≠ 31 → pm ≤ 25 →
        exec (.ringLock p pos pm false) s =
          .next (s.modPort p (fun x => { x with detune := tset x.detune pos pm, detuneRuns := tset x.detuneRuns pos 0 })))
    ∧ (∀ (p : PortIx) (pos : Nat), u.bu.photonicsOn = true → (u.port p).sweeping = none → u.unlit p.val = false →
        (u.port p).failed = false → u.holds.swapping.contains (feedOf p) = false → u.sweepTime p = true → (u.port p).standIn = none →
        (u.port p).nextPosition (u.scheduled p) = some pos → u.scheduled p = true ∨ 16 ≤ (u.port p).lane pos →
        exec (.channelSweep p now) s = .next (u.beginSweep p pos none))
    ∧ (∀ (p : PortIx) (pos i : Nat), u.bu.photonicsOn = true → (u.port p).sweeping = none → u.unlit p.val = false →
        (u.port p).failed = false → u.holds.swapping.contains (feedOf p) = false → u.sweepTime p = true →
        (u.port p).standIn = some (pos, i) → u.mapInForce p = true →
        exec (.channelSweep p now) s = .next (u.beginSweep p pos (some i)))
    ∧ (∀ (p : PortIx) (pos t : Nat), (u.port p).sweeping = some (pos, none, t) → t + 20000 ≤ u.now → (u.port p).toSweep = [] →
        exec (.channelSweepEnd p false now) s =
          .next (u.modPort p (fun x => { x.swept pos with sweeping := none, lastSwept := tset (x.swept pos).lastSwept pos u.now })))
    ∧ (∀ (p : PortIx) (t0 t : Nat) (ts : List Nat), (u.port p).starveSince = some t0 → u.portTurfs p = t :: ts → t0 + 50000000 ≤ u.now →
        ((setIns (t :: ts) 0).filter (fun x => !u.tuneAccepted.contains x)).isEmpty = false →
        exec (.tuningStarved p now) s =
          .next ((((setIns (t :: ts) 0).filter (fun x => !u.tuneAccepted.contains x)).foldl (fun v x =>
            v.noticeTurf x 4 0x1001 [BitVec.ofNat 128 (p.val + (if (t :: ts).contains x then x else t) * 2 ^ 16)]) u).modPort p
              (fun x => { x with starved := min 0xFFFF (x.starved + 1), starveSince := some (t0 + 50000000) })))
    ∧ (∀ (q : QueueIx) (slot : SlotIx) (a : Accepted) (v : State), s.ready q slot 0x0104 a → v = s.beginCmd a → gapLenOk a.entry = true →
        sqArg a.entry 0 = 0 → exec (.setTuningGapGap q slot) s = .next { v with
          tuneGaps := v.tuneGaps ++ [(sqTurf a.entry,
            if (v.batch (sqTurf a.entry)).any (fun b => b.started) then 0 else max 1 v.now, sqArg a.entry 1, a.q, a.slot)] })
    ∧ (∀ (q : QueueIx) (slot : SlotIx) (a : Accepted) (v : State), s.ready q slot 0x0104 a → v = s.beginCmd a → gapLenOk a.entry = true →
        sqArg a.entry 0 = 1 → exec (.setTuningGapAccept q slot) s =
          .next (({ v with tuneAccepted := setIns v.tuneAccepted (sqTurf a.entry) } : State).done a 0))
    ∧ (∀ (q : QueueIx) (slot : SlotIx) (a : Accepted) (v : State), s.ready q slot 0x0104 a → v = s.beginCmd a → gapLenOk a.entry = true →
        sqArg a.entry 0 = 2 → (v.queue a.q).turf = 0 → v.now + 20000 ≤ sqArg a.entry 2 → exec (.setTuningGapHold q slot) s =
          .next { v with holds := { v.holds with tunes := v.holds.tunes ++ [(sqArg a.entry 2, sqArg a.entry 1, a.q, a.slot)] } })
    ∧ (∀ (t : TurfIx) (g : Nat × Nat × Nat × Nat × Nat), u.tuneGaps.find? (fun g => g.1 == t.val && g.2.1 != 0) = some g →
        g.2.1 + g.2.2.1 * 1000 ≤ u.now →
        exec (.tuningGapEnd t now) s =
          .next ((({ u with tuneGaps := u.tuneGaps.erase g } : State).gapCovers t []).completeAt (g.2.2.2.1, g.2.2.2.2) stOk 0))
    ∧ (exec (.tuningHoldStart now) s = .next { u with
        holds := { u.holds with
          tunes := u.holds.tunes.filter (fun h => !(u.holds.tunes.filter (fun h => decide (h.1 ≤ u.now))).contains h)
          tuning := u.holds.tuning ++ u.holds.tunes.filter (fun h => decide (h.1 ≤ u.now)) } })
    ∧ (∀ (due : List (Nat × Nat × Nat × Nat)) (v : State),
        due = u.holds.tuning.filter (fun h => decide (h.1 + h.2.1 * 1000 ≤ u.now)) → due.isEmpty = false →
        v = { u with holds := { u.holds with tuning := u.holds.tuning.filter (fun h => !due.contains h) }, tuneAccepted := [] } →
        exec (.tuningHoldEnd now) s =
          .next (due.foldl (fun x h => x.completeAt (h.2.2.1, h.2.2.2) stOk 0)
            (v.batches.foldl (fun x b => if b.2.started then x.startTimers (x.calPorts b.1) true x.now else x) v)))
    ∧ (∀ (f : FibreIx) (g : Fin 2) (bad : List PosIx) (runs : List Nat), s.bu.photonicsOn = true →
        runs = (List.range 18).map (fun i =>
          if bad.any (fun b => b.val == i) then tget (s.port (fibreGroupPort f g)).codeRuns 0 i + 1 else 0) →
        exec (.qualityWindow f g bad) s =
          .next (((List.range 18).filter (fun i => decide (3 ≤ runs.getD i 0))).foldl (fun x i => x.replaceLane f g i 2)
            (s.modPort (fibreGroupPort f g) (fun x => { x with
              codeRuns := runs.zipIdx.map (fun r => (r.2, if 3 ≤ r.1 then 0 else r.1)) }))))

/-- Time roles, time and the commands that join and leave the fabric act as R308, R313, R432 to R434 and Table 11.12 give. -/
def Obligations.TimeRolesAndJoiningComplete : Prop :=
  ∀ (f : FabFibreIx) (s : State),
    (∀ (q : QueueIx) (slot : SlotIx) (a : Accepted) (v : State), s.ready q slot 0x0603 a → v = s.beginCmd a → sqArg a.entry 0 = f.val →
        v.fibreUp f = true → (v.role f).cmd = none → v.leads f = decide (sqArg a.entry 1 ≠ 0) →
        exec (.linkRoleSwap q slot) s =
          .next ((v.modRole f (fun x => { x with cmd := some (a.q, a.slot), collided := 0 })).askRole f (decide (sqArg a.entry 1 = 0))))
    ∧ (∀ (q : QueueIx) (slot : SlotIx) (a : Accepted) (v : State), s.ready q slot 0x0603 a → v = s.beginCmd a → sqArg a.entry 0 = f.val →
        v.fibreUp f = true → (v.role f).cmd = none → v.leads f = decide (sqArg a.entry 1 = 0) →
        exec (.linkRoleSwap q slot) s = .next (v.done a (roleCode (decide (sqArg a.entry 1 = 0)))))
    ∧ (∀ (msg : Bytes) (fr : MsgFrame) (v x : State), s.takesMessage (fabLink f fr.channel) 5 fr.seq v →
        (v.role f).pending = none → v.now + 20000 ≤ leAt msg 16 8 →
        x = v.sendFibre f (joinMsg 0x29 0 Config.uid (List.replicate 8 0 ++ slice msg 24 4)) →
        exec (.roleSwapReq f ⟨msg, fr⟩) s =
          .next (x.modRole f (fun y => { y with at_ := some (decide (leAt msg 4 1 ≠ 0), leAt msg 16 8), leader := x.leads f })))
    ∧ (∀ (msg : Bytes) (fr : MsgFrame) (v : State), s.takesMessage (fabLink f fr.channel) 5 fr.seq v →
        (v.role f).pending = none → leAt msg 16 8 < v.now + 20000 →
        exec (.roleSwapReq f ⟨msg, fr⟩) s =
          .next (v.sendFibre f (joinMsg 0x29 1 Config.uid (List.replicate 8 0 ++ slice msg 24 4))))
    ∧ (∀ (msg : Bytes) (fr : MsgFrame) (v : State), s.takesMessage (fabLink f fr.channel) 5 fr.seq v →
        (v.role f).pending.isSome = true →
        exec (.roleSwapReq f ⟨msg, fr⟩) s =
          .next ((v.sendFibre f (joinMsg 0x29 2 Config.uid (List.replicate 8 0 ++ slice msg 24 4))).roleCollision f
            (BitVec.ofNat 64 (leAt msg 8 8))))
    ∧ (∀ (msg : Bytes) (fr : MsgFrame) (v : State) (c : Nat) (id : Word), s.takesMessage (fabLink f fr.channel) 5 fr.seq v →
        (v.role f).pending = some (c, id) →
        id.toNat = leAt msg 24 4 → leAt msg 4 1 = 0 →
        exec (.roleSwapAns f ⟨msg, fr⟩) s = .next (v.endRole f (v.role f).want (some ((v.role f).want, c))))
    ∧ (∀ (msg : Bytes) (fr : MsgFrame) (v : State) (c : Nat) (id : Word), s.takesMessage (fabLink f fr.channel) 5 fr.seq v →
        (v.role f).pending = some (c, id) →
        id.toNat = leAt msg 24 4 → leAt msg 4 1 = 1 →
        exec (.roleSwapAns f ⟨msg, fr⟩) s = .next (v.endRole f (v.leads f) none))
    ∧ (∀ (msg : Bytes) (fr : MsgFrame) (v : State) (c : Nat) (id : Word), s.takesMessage (fabLink f fr.channel) 5 fr.seq v →
        (v.role f).pending = some (c, id) →
        id.toNat = leAt msg 24 4 → leAt msg 4 1 = 2 →
        exec (.roleSwapAns f ⟨msg, fr⟩) s = .next (v.roleCollision f (BitVec.ofNat 64 (leAt msg 8 8))))
    ∧ (∀ (now : Nat) (u : State), u = s.at_ now → (u.role f).collided = 1 → (u.role f).pending = none → (u.role f).cmd.isSome = true →
        (u.role f).retryAt ≤ u.now → exec (.roleSwapRetry ⟨f, now⟩) s = .next (u.askRole f (u.role f).want))
    ∧ (∀ (now : Nat) (u : State), u = s.at_ now → u.fibreUp f = true → u.leads f = false →
        exec (.timeRequest f none now) s =
          .next (u.draw.2.sendTime f (timeMsg 0 0 (u.draw.1.toNat % 2 ^ 32) 0 u.draw.2.now 0 0)))
    ∧ (∀ (now : Nat) (u v : State) (fr : MsgFrame) (id : Word) (t1 : Nat), u = s.at_ now →
        u.takesMessage (fabLink f fr.channel) 6 fr.seq v →
        v.fibreUp f = true → v.leads f = true →
        exec (.timeRequest f (some (fr, id, t1)) now) s =
          .next (v.sendTime f (timeMsg 1 v.timeStanding.1 id.toNat v.timeStanding.2 t1 v.now v.now)))
    ∧ (∀ (a : TimeAns) (u v : State) (fr : MsgFrame), u = s.at_ a.t4 →
        u.takesMessage (fabLink f fr.channel) 6 fr.seq v →
        v.fibreUp f = true → v.leads f = false →
        (v.hearAnswer f a.hops.toNat a.rootUid).sourceNow = some f.val →
        exec (.timeAnswer f ⟨fr, a⟩) s =
          .next ((v.hearAnswer f a.hops.toNat a.rootUid).correctTime ((((a.t2 : Int) - a.t1) - ((a.t4 : Int) - a.t3)) / 2)))
    ∧ (∀ (q : QueueIx) (slot : SlotIx) (a : Accepted) (v : State), s.ready q slot 0x0600 a → v = s.beginCmd a →
        v.fab.phase = .none ∨ v.fab.phase = .left → sqArg a.entry 1 = 0 ∨ v.rangeCheck (v.queue a.q).turf (sqArg a.entry 1) 131072 = none →
        exec (.fabJoin q slot) s =
          .next (({ v with fab := { v.fab with
            mode := sqArg a.entry 0, planAddr := BitVec.ofNat 64 (sqArg a.entry 1), joinCmd := some (a.q, a.slot) } } : State).beginClaim))
    ∧ (∀ (q : QueueIx) (slot : SlotIx) (a : Accepted) (v : State), s.ready q slot 0x0601 a → v = s.beginCmd a → v.drain = none →
        exec (.fabLeave q slot) s =
          .next (({ v.endJoin stBusy 0 0 with drain := some {
            routing := true, turf := 0, cmd := (a.q, a.slot), epoch := 0, since := v.now, fabLeave := true } } : State).drainProgress))

/-- Claims, founders, members, departures and duplicated identities act as R308 to R311 and R344 give: `v` is the state once the message's
frame, in its turn at the fibre's channel, has been taken. -/
def Obligations.FabricMembershipComplete : Prop :=
  ∀ (f : FabFibreIx) (s : State),
    (∀ (now : Nat) (u : State), u = s.at_ now → u.fab.phase = .claiming ∨ u.fab.phase = .requested ∨ u.fab.phase = .member ∨ u.fab.phase = .founder →
        u.fab.claimDue ≤ u.now → u.now < u.fab.claimStart + 2000000 →
        exec (.joinClaim f none now) s =
          .next (({ u with fab := { u.fab with claimDue := u.fab.claimDue + 100000 } } : State).sendFabric u.claimMsg))
    ∧ (∀ (m : Bytes) (now : Nat) (fr : MsgFrame) (u y : State), u = s.at_ now → u.takesMessage (fabLink f fr.channel) 5 fr.seq y →
        y.fab.phase = .founder ∨ y.fab.phase = .member →
        BitVec.ofNat 64 (leAt m 8 8) ≠ Config.uid → exec (.joinClaim f (some ⟨m, fr⟩) now) s = .next (y.sendFibre f y.founderMsg))
    ∧ (∀ (m : Bytes) (now : Nat) (fr : MsgFrame) (u y : State), u = s.at_ now → u.takesMessage (fabLink f fr.channel) 5 fr.seq y →
        y.fab.phase = .claiming ∨ y.fab.phase = .requested →
        BitVec.ofNat 64 (leAt m 8 8) ≠ Config.uid →
        exec (.joinClaim f (some ⟨m, fr⟩) now) s =
          .next { y with fab := { y.fab with
            claims := y.fab.claims.filter (fun x => x.2.1 != BitVec.ofNat 64 (leAt m 8 8))
              ++ [(leAt m 4 4, BitVec.ofNat 64 (leAt m 8 8), BitVec.ofNat 32 (leAt m 20 4))] } })
    ∧ (∀ (m : Bytes) (now : Nat) (fr : MsgFrame) (u y : State), u = s.at_ now → u.takesMessage (fabLink f fr.channel) 5 fr.seq y →
        y.fab.phase = .claiming ∨ y.fab.phase = .requested ∨ y.fab.phase = .founder ∨ y.fab.phase = .member →
        BitVec.ofNat 64 (leAt m 8 8) = Config.uid → BitVec.ofNat 32 (leAt m 20 4) ≠ y.fab.nonce →
        exec (.joinClaim f (some ⟨m, fr⟩) now) s = .next y.haltFabric)
    ∧ (∀ (m : Bytes) (u : State) (fr : MsgFrame) (v : State), s.takesMessage (fabLink f fr.channel) 5 fr.seq v →
        v.fab.phase = .claiming →
        u = { v with fab := { v.fab with
          phase := .requested, founderUid := BitVec.ofNat 64 (leAt m 24 8), admitted := leAt m 32 2 } } →
        exec (.founder f ⟨m, fr⟩) s = .next (u.sendFibre f (v.joinReqMsg (BitVec.ofNat 64 (leAt m 24 8)))))
    ∧ (∀ (now : Nat) (u : State), u = s.at_ now → u.fab.phase = .claiming → u.fab.claimStart + 2000000 ≤ u.now → u.fab.mode = 1 →
        exec (.founderElection now) s = .next (({ u with fab := { u.fab with phase := .none } } : State).endJoin stBusy 0 0))
    ∧ (∀ (now : Nat) (u x y : State), u = s.at_ now → u.fab.phase = .claiming → u.fab.claimStart + 2000000 ≤ u.now → u.fab.mode ≠ 1 →
        u.fab.claims.any (fun c => claimBefore c (u.fab.epoch, Config.uid, u.fab.nonce)) = false →
        x = { (u.meetPlan 0) with fab := { u.fab with flat := u.planOf 0 } } →
        y = x.becomeFounder 0 1 [⟨Config.uid, 0, some u.fab.nonce⟩] →
        exec (.founderElection now) s = .next (y.reflat.endJoin stOk 0 y.joinResult))
    ∧ (∀ (m : Bytes) (fr : MsgFrame) (v : State), s.takesMessage (fabLink f fr.channel) 5 fr.seq v →
        v.fab.phase = .founder → BitVec.ofNat 64 (leAt m 24 8) = Config.uid →
        v.fab.members.find? (fun x => x.uid == BitVec.ofNat 64 (leAt m 8 8)) = none → v.fab.nextModule ≤ 1023 →
        exec (.joinReq f ⟨m, fr⟩) s =
          .next (v.takeMember f {
            uid := BitVec.ofNat 64 (leAt m 8 8), number := v.fab.nextModule, nonce := some (BitVec.ofNat 32 (leAt m 20 4)) }))
    ∧ (∀ (m : Bytes) (x : Member) (fr : MsgFrame) (v : State), s.takesMessage (fabLink f fr.channel) 5 fr.seq v →
        v.fab.phase = .founder → BitVec.ofNat 64 (leAt m 24 8) = Config.uid →
        v.fab.members.find? (fun x => x.uid == BitVec.ofNat 64 (leAt m 8 8)) = some x → x.nonce = none →
        exec (.joinReq f ⟨m, fr⟩) s = .next (v.takeMember f { x with nonce := some (BitVec.ofNat 32 (leAt m 20 4)) }))
    ∧ (∀ (m : Bytes) (x : Member) (n : Word) (fr : MsgFrame) (v : State), s.takesMessage (fabLink f fr.channel) 5 fr.seq v →
        v.fab.phase = .founder → BitVec.ofNat 64 (leAt m 24 8) = Config.uid →
        BitVec.ofNat 64 (leAt m 8 8) ≠ Config.uid → v.fab.members.find? (fun x => x.uid == BitVec.ofNat 64 (leAt m 8 8)) = some x →
        x.nonce = some n → n ≠ BitVec.ofNat 32 (leAt m 20 4) →
        exec (.joinReq f ⟨m, fr⟩) s =
          .next (v.sendFabric (joinMsg 0x25 v.fab.epoch Config.uid
            (List.replicate 8 0 ++ natLe 8 (BitVec.ofNat 64 (leAt m 8 8)).toNat ++ slice m 20 4))))
    ∧ (∀ (m : Bytes) (u : State) (fr : MsgFrame) (v : State), s.takesMessage (fabLink f fr.channel) 5 fr.seq v →
        v.fab.phase = .requested → BitVec.ofNat 64 (leAt m 24 8) = Config.uid → leAt m 32 1 = 0 →
        u = { v with fab := { v.fab with
          phase := .member, epoch := leAt m 4 4, founderUid := BitVec.ofNat 64 (leAt m 8 8), moduleNo := leAt m 34 2 % 1024
          admitted := v.fab.admitted + 1, flat := (List.range 64).map (fun i => leAt m (64 + 2 * i) 2) } } →
        exec (.joinAccept f ⟨m, fr⟩) s = .next (u.reflat.endJoin stOk 0 u.joinResult))
    ∧ (∀ (m : Bytes) (fr : MsgFrame) (v : State), s.takesMessage (fabLink f fr.channel) 5 fr.seq v →
        v.fab.phase = .requested → BitVec.ofNat 64 (leAt m 24 8) = Config.uid → leAt m 32 1 ≠ 0 →
        exec (.joinAccept f ⟨m, fr⟩) s = .next (({ v with fab := { v.fab with phase := .none } } : State).endJoin stNoResource 0 0))
    ∧ (∀ (now : Nat) (u : State) (known : List (Nat × PairSt)), u = s.at_ now → u.fab.phase = .member →
        known = u.fab.pairs.filter (fun p => p.2.bootEpoch.isSome && p.2.uid != u.fab.founderUid) →
        known.any (fun p => decide (p.2.uid.toNat < Config.uid.toNat)) = false →
        exec (.founderLost now) s =
          .next (u.becomeFounder u.fab.moduleNo (known.foldl (fun n p => max n (p.1 + 1)) (u.fab.moduleNo + 1))
            (known.map (fun p => ({ uid := p.2.uid, number := p.1 } : Member)) ++ [⟨Config.uid, u.fab.moduleNo, some u.fab.nonce⟩])))
    ∧ (∀ (m : Bytes) (u : State) (fr : MsgFrame) (v : State), s.takesMessage (fabLink f fr.channel) 5 fr.seq v →
        v.fab.phase ≠ .none → v.fab.phase ≠ .left →
        u = ({ v with fab := { v.fab with
          members := v.fab.members.filter (fun x => x.uid != BitVec.ofNat 64 (leAt m 8 8))
          pairs := tdel v.fab.pairs (leAt m 32 2 % 1024) } } : State).closePeerQueues (leAt m 32 2 % 1024) →
        exec (.leave f ⟨m, fr⟩) s = .next (if BitVec.ofNat 64 (leAt m 8 8) = u.fab.founderUid then u.founderGone else u))
    ∧ (∀ (m : Bytes) (fr : MsgFrame) (v : State), s.takesMessage (fabLink f fr.channel) 5 fr.seq v →
        BitVec.ofNat 64 (leAt m 24 8) = Config.uid → v.fab.phase ≠ .none → v.fab.phase ≠ .left →
        exec (.dupId f ⟨m, fr⟩) s = .next v.haltFabric)

/-- Pair descriptors, inbound billets, routed frames, fabric Clamps and the fabric tables act as R291 to R297, R306, R307, R312, R317 and R504 give. -/
def Obligations.FabricTrafficComplete : Prop :=
  ∀ s : State,
    (∀ m : Fin 1024, exec (.pairDescSend m) s =
        .next (({ s with fab := { s.fab with
          pairs := tset s.fab.pairs m.val { tget s.fab.pairs {} m.val with lastSent := s.now } } } : State).sendMessage m s.pairMsg))
    ∧ (∀ (m : Fin 1024) (msg : Bytes) (now : Nat), ((s.at_ now).moduleEp m).isNone = true → exec (.pairDesc m msg now) s = .next (s.at_ now))
    ∧ (∀ (m : Fin 1024) (msg : Bytes) (now : Nat) (w : State), w = s.at_ now → (w.moduleEp m).isSome = true → w.fab.phase ≠ .halted →
        (tget w.fab.pairs {} m.val).bootEpoch = none ∨ (tget w.fab.pairs {} m.val).bootEpoch = some (BitVec.ofNat 32 (leAt msg 16 4)) →
        w.pw.timeSource = none → leAt msg 20 4 ≤ w.fab.epoch →
        exec (.pairDesc m msg now) s =
          .next { w with fab := { w.fab with pairs := tset w.fab.pairs m.val { tget w.fab.pairs {} m.val with
            state := w.pairState msg, bootEpoch := some (BitVec.ofNat 32 (leAt msg 16 4)), uid := BitVec.ofNat 64 (leAt msg 8 8)
            calEpoch := BitVec.ofNat 16 (leAt msg 4 2) } } })
    ∧ (∀ (m : Fin 1024) (msg : Bytes) (now : Nat) (w : State) (b : Word), w = (s.at_ now).peerRestarted m →
        ((s.at_ now).moduleEp m).isSome = true → (s.at_ now).fab.phase ≠ .halted → (tget (s.at_ now).fab.pairs {} m.val).bootEpoch = some b →
        b ≠ BitVec.ofNat 32 (leAt msg 16 4) → w.pw.timeSource = none → leAt msg 20 4 ≤ w.fab.epoch →
        exec (.pairDesc m msg now) s =
          .next { w with fab := { w.fab with pairs := tset w.fab.pairs m.val { tget w.fab.pairs {} m.val with
            state := w.pairState msg, bootEpoch := some (BitVec.ofNat 32 (leAt msg 16 4)), uid := BitVec.ofNat 64 (leAt msg 8 8)
            calEpoch := BitVec.ofNat 16 (leAt msg 4 2) } } })
    ∧ (∀ (l : LinkIx) (route : BitVec 128) (d r : Bytes), d.length = 8192 → isFar l = false → r = natLe 16 route.toNat → leAt r 0 1 = 2 → s.fab.phase ≠ .halted →
        s.pairWith (leAt r 4 2) ≠ 1 → s.pairWith (leAt r 4 2) ≠ 2 → leAt r 10 2 = s.calEpoch →
        exec (.fabricBilletReceive l route d) s =
          .next { s with fab := { s.fab with inbound := tset s.fab.inbound (linkFibre l / 24 * 256 + leAt r 14 1) (some d) } })
    ∧ (∀ (l : LinkIx) (route : BitVec 128) (d r : Bytes), d.length = 8192 → isFar l = false → r = natLe 16 route.toNat → leAt r 0 1 = 2 → s.fab.phase ≠ .halted →
        s.pairWith (leAt r 4 2) ≠ 1 → s.pairWith (leAt r 4 2) ≠ 2 → leAt r 10 2 ≠ s.calEpoch →
        exec (.fabricBilletReceive l route d) s = .next (s.bump 2 (fibrePort (linkFibre l)) 4 1))
    ∧ (∀ (l : LinkIx) (route : BitVec 128) (d r : Bytes), d.length = 8192 → isFar l = false → r = natLe 16 route.toNat → leAt r 0 1 = 2 → s.fab.phase ≠ .halted →
        s.pairWith (leAt r 4 2) = 1 ∨ s.pairWith (leAt r 4 2) = 2 →
        exec (.fabricBilletReceive l route d) s = .next (s.tally (.fabricDrop (linkFibre l)) 1))
    ∧ (∀ (p : PortIx) (b : PendingBillet), (s.port p).pending.find? (fun b => decide (40 ≤ b.src / 64) && (portFmu b.src).isNone && b.late
          && (s.holds.repair.isSome || decide (b.slot + 64 ≤ s.slot))) = some b →
        exec (.inboundBilletMissing p) s =
          .next ((((s.stopBatch b.turf stInternal (BitVec.ofNat 64 (7 * 2 ^ 16)) false).settleStop b.turf).releasePending
            (fun q => q == p.val)).drainProgress))
    ∧ (∀ (n x : DWord) (now : Nat) (u : State), u = s.at_ now → u.obs.clampMask.testBit 3 = true → u.fab.phase ≠ .halted → u.now < n.toNat →
        exec (.fabricClampMessage n x now) s = .next (u.announceClamp n.toNat))
    ∧ (∀ (n x : DWord) (now : Nat) (u : State), u = s.at_ now → u.obs.clampMask.testBit 3 = true → u.fab.phase ≠ .halted → n.toNat ≤ u.now →
        exec (.fabricClampMessage n x now) s =
          .next (({ u with obs := { u.obs with lateClamps := u.obs.lateClamps + 1 } } : State).announceClamp (u.now + 1024)))
    ∧ (∀ (n x : DWord) (now : Nat) (u : State), u = s.at_ now → u.obs.clampMask.testBit 3 = false →
        exec (.fabricClampMessage n x now) s = .next u)
    ∧ (∀ (l : LinkIx) (fr : Bytes), isFar l = false → linkShapeOk l fr = true → linkCrcOk fr = false →
        exec (.linkFrameReceive l fr) s = .next (s.fibreCount l 3))
    ∧ (∀ (l : LinkIx) (fr : Bytes) (w : State), isFar l = false → linkShapeOk l fr = true → linkCrcOk fr = true →
        (s.link l).state = .inService → retryOf l fr = none → (s.linkHeader l fr).fab.phase ≠ .halted →
        w = ((s.linkHeader l fr).fabricCarriage l (leAt fr 0 16)).acceptFabric l fr →
        exec (.linkFrameReceive l fr) s = .next (w.pumpAll l).drainProgress)
    ∧ (∀ (q : QueueIx) (slot : SlotIx) (a : Accepted) (v w : State) (b : Bytes) (g : FabricSt), s.ready q slot 0x0602 a → v = s.beginCmd a →
        sqArg a.entry 2 + sqArg a.entry 3 ≤ (routeTable (sqArg a.entry 0)).1 →
        v.rangeCheck (v.queue a.q).turf (sqArg a.entry 1) (sqArg a.entry 3 * (routeTable (sqArg a.entry 0)).2) = none →
        (v.readOpen (sqArg a.entry 1) (sqArg a.entry 3 * (routeTable (sqArg a.entry 0)).2)).1 = some b →
        w = (v.readOpen (sqArg a.entry 1) (sqArg a.entry 3 * (routeTable (sqArg a.entry 0)).2)).2 →
        g = (if sqArg a.entry 0 = 0 then { w.fab with epShadow := memWrite w.fab.epShadow (sqArg a.entry 2 * 8) b }
          else if sqArg a.entry 0 = 1 then { w.fab with routesShadow := memWrite w.fab.routesShadow (sqArg a.entry 2 * 16) b }
          else { w.fab with headerShadow := memWrite w.fab.headerShadow (sqArg a.entry 2 * 256) b }) →
        exec (.routeLoadShadow q slot) s = .next (({ w with fab := g } : State).done a 0))
    ∧ (∀ (q : QueueIx) (slot : SlotIx) (a : Accepted) (v : State), s.ready q slot 0x0604 a → v = s.beginCmd a → 4864 ≤ sqArg a.entry 1 →
        exec (.fabStatus q slot) s =
          .next (v.output a false (sqArg a.entry 0)
            ((List.range 96).flatMap v.fibreRecord ++ (List.range 1024).flatMap (fun m => natLe 4 (tget v.fab.pairs {} m).state)) 4864))

/-- CTR_READ, sync traces, digests and Ash reads complete as R494 to R500, R507 and Tables 20.4 to 20.6 give. -/
def Obligations.CounterAndTraceReadsComplete : Prop :=
  ∀ (q : QueueIx) (slot : SlotIx) (s v : State) (a : Accepted), v = s.beginCmd a →
    (∀ us : List Nat, s.ready q slot 0x0700 a → sqArg a.entry 0 = 0 → ctrUnits a.entry = some us → v.ctrDenied a us = false →
        v.addrCheck a.q (v.queue a.q).turf ((sqArg a.entry 5).testBit 0) (sqArg a.entry 4)
          (us.flatMap (v.ctrRec false (sqArg a.entry 1))).length = none →
        exec (.ctrReadRead q slot) s =
          .next (State.finishOut a (us.flatMap (v.ctrRec false (sqArg a.entry 1))).length
            (v.writeOut a ((sqArg a.entry 5).testBit 0) (sqArg a.entry 4) (us.flatMap (v.ctrRec false (sqArg a.entry 1))))))
    ∧ (∀ us : List Nat, s.ready q slot 0x0700 a → sqArg a.entry 0 = 1 → ctrUnits a.entry = some us → v.ctrDenied a us = false →
        v.addrCheck a.q (v.queue a.q).turf ((sqArg a.entry 5).testBit 0) (sqArg a.entry 4)
          (us.flatMap (v.ctrRec false (sqArg a.entry 1))).length = none →
        exec (.ctrReadClear q slot) s =
          .next (State.finishOut a (us.flatMap (v.ctrRec false (sqArg a.entry 1))).length
            ((us.foldl (fun x u => x.ctrClear (sqArg a.entry 1) u) v).writeOut a ((sqArg a.entry 5).testBit 0) (sqArg a.entry 4)
              (us.flatMap (v.ctrRec false (sqArg a.entry 1))))))
    ∧ (∀ us : List Nat, s.ready q slot 0x0700 a → sqArg a.entry 0 = 3 → ctrUnits a.entry = some us → v.ctrDenied a us = false →
        v.addrCheck a.q (v.queue a.q).turf ((sqArg a.entry 5).testBit 0) (sqArg a.entry 4)
          (us.flatMap (v.ctrRec true (sqArg a.entry 1))).length = none →
        exec (.ctrReadClampCopy q slot) s =
          .next (State.finishOut a (us.flatMap (v.ctrRec true (sqArg a.entry 1))).length
            (v.writeOut a ((sqArg a.entry 5).testBit 0) (sqArg a.entry 4) (us.flatMap (v.ctrRec true (sqArg a.entry 1))))))
    ∧ (∀ (us : List Nat) (data : Option Bytes) (b : Bytes) (w : State), s.ready q slot 0x0700 a → sqArg a.entry 0 = 2 → ctrUnits a.entry = some us →
        sqArg a.entry 1 = 0 → v.ctrDenied a us = false →
        s.readFits ((sqArg a.entry 5).testBit 0) (sqArg a.entry 4) (64 * sqArg a.entry 3) data = true →
        v.addrCheck a.q (v.queue a.q).turf ((sqArg a.entry 5).testBit 0) (sqArg a.entry 4) (64 * sqArg a.entry 3) = none →
        w = v.meetIn ((sqArg a.entry 5).testBit 0) (sqArg a.entry 4) (64 * sqArg a.entry 3) →
        w.readIn ((sqArg a.entry 5).testBit 0) (sqArg a.entry 4) (64 * sqArg a.entry 3) data = some b →
        exec (.ctrReadProgram q slot data) s =
          .next ((us.zipIdx.foldl (fun x u => x.modCell u.1 (programCell (slice b (64 * u.2) 64))) w).done a us.length))
    ∧ (∀ m off : Nat, s.ready q slot 0x0701 a → sqArg a.entry 0 % 4096 = 0 → sqArg a.entry 1 % 4096 = 0 → 65536 ≤ sqArg a.entry 1 →
        sqArg a.entry 1 ≤ 2 ^ 32 → v.traceSite (sqArg a.entry 0) (sqArg a.entry 1) = some (m, off) →
        ((List.range (ceilDiv (off % 2 ^ 30 + sqArg a.entry 1) (2 ^ 30))).any (fun j =>
          !mayReach (v.queue a.q).turf (siteOwner v.turfMap m (off / 2 ^ 30 + j)) || v.retainedAt m ((off / 2 ^ 30 + j) * 2 ^ 30))) = false →
        tfind v.obs.traces (sqTurf a.entry) = none →
        exec (.traceStart q slot) s =
          .next (({ v with obs := { v.obs with traces := tset v.obs.traces (sqTurf a.entry) {
            buffer := BitVec.ofNat 64 (sqArg a.entry 0), length := sqArg a.entry 1, select := sqArg a.entry 2
            wrap := (sqArg a.entry 3).testBit 0, startGtc := v.now } } } : State).done a 0))
    ∧ (∀ (x : TraceSt) (m off : Nat) (u : State), s.ready q slot 0x0702 a → tfind v.obs.traces (sqTurf a.entry) = some x →
        u = { v with obs := { v.obs with traces := tdel v.obs.traces (sqTurf a.entry) } } →
        u.resolve x.buffer.toNat = some (.site m off) →
        exec (.traceStop q slot) s =
          .next ((u.storeSite m off (traceHeader x u.now) false).done a (x.written % 2 ^ 32 + x.dropped % 2 ^ 32 * 2 ^ 32)))
    ∧ (∀ l : List DigestSt, s.ready q slot 0x0703 a → sqArg a.entry 0 = 0 → v.batch (sqTurf a.entry) = none →
        l = tget v.obs.digests [] (sqTurf a.entry) → l.length < 16 →
        exec (.digestArmArm q slot) s =
          .next (({ v with obs := { v.obs with digests := tset v.obs.digests (sqTurf a.entry) (l ++ [{
            operator := BitVec.ofNat 16 (sqArg a.entry 1), layer := BitVec.ofNat 16 (sqArg a.entry 1 / 2 ^ 16)
            layerAny := (sqArg a.entry 1).testBit 32, anchor := signed 8 (sqArg a.entry 2) }]) } } : State).done a l.length))
    ∧ (s.ready q slot 0x0703 a → sqArg a.entry 0 = 1 → v.batch (sqTurf a.entry) = none →
        exec (.digestArmDisarm q slot) s =
          .next (({ v with obs := { v.obs with digests := tdel v.obs.digests (sqTurf a.entry) } } : State).done a 0))
    ∧ (∀ l : List DigestSt, s.ready q slot 0x0703 a → sqArg a.entry 0 = 2 → l = tget v.obs.digests [] (sqTurf a.entry) →
        exec (.digestArmRead q slot) s =
          .next (v.output a ((sqArg a.entry 4).testBit 0) (sqArg a.entry 3)
            (l.flatMap (fun d => d.record (((v.turfRegions (sqTurf a.entry)).flatMap regionCells).foldl setIns []))) l.length))
    ∧ (∀ (r : AshRec) (t : Nat), s.ready q slot 0x0705 a → t = (v.queue a.q).turf →
        sqArg a.entry 0 = 0 ∧ (v.obs.ash.filter (fun x => t == 0 || (x.turf == t && x.trigger != 1))).getLast? = some r
          ∨ sqArg a.entry 0 ≠ 0 ∧ v.obs.ash.find? (fun x => x.id == sqArg a.entry 0) = some r →
        t = 0 ∨ r.turf = t ∧ r.trigger ≠ 1 → sqArg a.entry 2 + sqArg a.entry 3 ≤ r.data.length → (sqArg a.entry 4).testBit 1 = false →
        v.addrCheck a.q t ((sqArg a.entry 4).testBit 0) (sqArg a.entry 1) (sqArg a.entry 3) = none →
        exec (.ashRead q slot) s =
          .next (State.finishOut a (sqArg a.entry 3 + r.id * 2 ^ 32)
            (v.writeOut a ((sqArg a.entry 4).testBit 0) (sqArg a.entry 1) (slice r.data (sqArg a.entry 2) (sqArg a.entry 3)))))
    ∧ (∀ (r : AshRec) (o : State), s.ready q slot 0x0705 a → sqArg a.entry 0 ≠ 0 → (v.queue a.q).turf = 0 →
        v.obs.ash.find? (fun x => x.id == sqArg a.entry 0) = some r →
        sqArg a.entry 2 + sqArg a.entry 3 ≤ r.data.length → (sqArg a.entry 4).testBit 1 = true →
        v.addrCheck a.q 0 ((sqArg a.entry 4).testBit 0) (sqArg a.entry 1) (sqArg a.entry 3) = none →
        (v.writeOut a ((sqArg a.entry 4).testBit 0) (sqArg a.entry 1) (slice r.data (sqArg a.entry 2) (sqArg a.entry 3))).2 = true →
        o = (v.writeOut a ((sqArg a.entry 4).testBit 0) (sqArg a.entry 1) (slice r.data (sqArg a.entry 2) (sqArg a.entry 3))).1 →
        exec (.ashRead q slot) s =
          .next (State.finishOut a (sqArg a.entry 3 + r.id * 2 ^ 32)
            ({ o with obs := { o.obs with ash := o.obs.ash.map (fun x => if x.id = r.id then { x with pinned := false } else x) } }, true)))

/-- Clamps, snapshot banks and the accesses of the control path to ricks act as R57, R60, R62, R502 to R506 and Table 20.7 give. -/
def Obligations.ClampsAndRicksComplete : Prop :=
  ∀ (s u : State) (now : Nat), u = s.at_ now →
    (∀ (c : Nat) (v : State), u.compareDue.obs.clampAt.find? (fun c => decide (c ≤ u.compareDue.now)) = some c →
        v = { u.compareDue with
          obs := { u.compareDue.obs with
            clampAt := setDel u.compareDue.obs.clampAt c, lastClampAt := some c, clampCtrs := u.compareDue.obs.ctrs
            clampLaunches := u.compareDue.obs.launches }
          bu := { u.compareDue.bu with clampOutUntil := c + 1000 } } →
        exec (.clamp now) s =
          .next (((((List.range 64).filter (fun r => decide ((v.region r).sleep ≠ .s4))).flatMap regionCells).foldl
            (fun x k => x.clampCell c k) v)))
    ∧ (u.obs.clampMask.testBit 0 = true → exec (.clampInEdge now) s = .next (u.announceClamp (u.now + 1024)))
    ∧ (∀ c : CellIx, s.cellAwake c = true →
        exec (.snapArm c) s = .next (s.modCell c (fun x => { x with
          first := { x.first with valid := false }, latest := { x.latest with valid := false }, clamps := 0, missed := 0 })))
    ∧ (∀ (q : QueueIx) (slot : SlotIx) (a : Accepted) (v : State), s.ready q slot 0x0704 a → v = s.beginCmd a → (v.queue a.q).turf = 0 →
        sqArg a.entry 0 = 0 → sqArg a.entry 1 < 16 → (sqArg a.entry 1).testBit 1 = false ∨ v.now < sqArg a.entry 2 →
        exec (.clampArmSet q slot) s =
          .next (({ v with
            cells := tmap v.cells (fun _ x => armBank x)
            obs := { v.obs with
              clampMask := sqArg a.entry 1
              clampCompare := if (sqArg a.entry 1).testBit 1 then some (sqArg a.entry 2) else none
              clampCtrs := [], clampLaunches := 0 } } : State).done a 0))
    ∧ (∀ (q : QueueIx) (slot : SlotIx) (a : Accepted) (v : State) (c : Nat), s.ready q slot 0x0704 a → v = s.beginCmd a →
        (v.queue a.q).turf = 0 → sqArg a.entry 0 = 1 → c = (if sqArg a.entry 2 = 0 then v.now + 1024 else sqArg a.entry 2) →
        v.now + 1024 ≤ c → exec (.clampArmClamp q slot) s = .next ((v.announceClamp c).done a (v.clampUsed c)))
    ∧ (∀ (q : QueueIx) (slot : SlotIx) (a : Accepted) (v : State), s.ready q slot 0x0704 a → v = s.beginCmd a →
        (v.queue a.q).turf = 0 → sqArg a.entry 0 = 2 → v.now + 20000 ≤ sqArg a.entry 2 →
        exec (.clampArmFabric q slot) s =
          .next ((((v.fab.pairs.filter (fun p => p.2.state != 0)).map (fun p => p.1)).foldl (fun x m => x.sendMessage m
            (padTo 512 (natLe 2 0x40 ++ natLe 6 0 ++ natLe 8 (sqArg a.entry 2) ++ natLe 8 Config.uid.toNat)))
              (v.announceClamp (sqArg a.entry 2))).done a (v.clampUsed (sqArg a.entry 2))))
    ∧ (∀ (r : RickRef) (k : Rick), s.rickAt r = some k →
        exec (.rickDataRead r) s = .next ((s.setRick r k.read.2).emit (.rickWord k.read.1)))
    ∧ (∀ (r : RickRef) (k : Rick), s.rickAt r = some k → exec (.dropItem r) s = .next (s.setRick r k.drop))
    ∧ (∀ (r : RickRef) (k : Rick), s.rickAt r = some k → exec (.flush r) s = .next (s.setRick r k.flush))

/-- The firmware reset, staging, attestation and activation act as R351, R373 to R376 and R385 to R390 give. -/
def Obligations.FirmwareCommandsComplete : Prop :=
  ∀ (q : QueueIx) (slot : SlotIx) (s v : State) (a : Accepted), v = s.beginCmd a →
    (s.firm.runningCw.isSome = true → s.ctlHeld = false → exec (.firmwareReset none) s = .next (s.fwReset none))
    ∧ (∀ n : ScIx, s.firm.runningCw.isSome = true → s.ctlHeld = false →
        exec (.firmwareReset (some n)) s = .next ((s.failCore (s.scOf n) 2).fwReset none))
    ∧ (∀ (data : Option Bytes) (b : Bytes) (w : State), s.ready q slot 0x0900 a → sqArg a.entry 0 = 0 → s.firm.activating = none →
        s.readFits ((sqArg a.entry 4).testBit 0) (sqArg a.entry 1) (sqArg a.entry 2) data = true → 1 ≤ sqArg a.entry 2 →
        sqArg a.entry 2 ≤ 4 * 2 ^ 20 → sqArg a.entry 3 + sqArg a.entry 2 ≤ 36 * 2 ^ 20 →
        v.addrCheck a.q (v.queue a.q).turf ((sqArg a.entry 4).testBit 0) (sqArg a.entry 1) (sqArg a.entry 2) = none →
        w = v.meetIn ((sqArg a.entry 4).testBit 0) (sqArg a.entry 1) (sqArg a.entry 2) →
        w.readIn ((sqArg a.entry 4).testBit 0) (sqArg a.entry 1) (sqArg a.entry 2) data = some b →
        exec (.fwUpdateStageWrite q slot data) s =
          .next (({ w with firm := { w.firm with
            staged := memWrite w.firm.staged (sqArg a.entry 3) b
            stagedTop := max w.firm.stagedTop (sqArg a.entry 3 + sqArg a.entry 2) } } : State).done a
              (max w.firm.stagedTop (sqArg a.entry 3 + sqArg a.entry 2))))
    ∧ (s.ready q slot 0x0900 a → sqArg a.entry 0 = 1 → s.firm.activating = none →
        exec (.fwUpdateStageDiscard q slot) s =
          .next (({ v with firm := { v.firm with staged := [], stagedTop := 0 } } : State).done a 0))
    ∧ (∀ (data : Option Bytes) (n : Bytes) (w : State), s.ready q slot 0x0900 a → sqArg a.entry 0 = 2 →
        s.readFits ((sqArg a.entry 4).testBit 0) (sqArg a.entry 3) 48 data = true →
        v.addrCheck a.q (v.queue a.q).turf ((sqArg a.entry 4).testBit 0) (sqArg a.entry 3) 48 = none →
        w = v.meetIn ((sqArg a.entry 4).testBit 0) (sqArg a.entry 3) 48 →
        w.readIn ((sqArg a.entry 4).testBit 0) (sqArg a.entry 3) 48 data = some n →
        exec (.fwUpdateStageAttest q slot data) s =
          .next ((w.attestation n).2.output a ((sqArg a.entry 4).testBit 0) (sqArg a.entry 1) (w.attestation n).1 0))
    ∧ (s.ready q slot 0x0900 a → sqArg a.entry 0 = 3 → 4096 ≤ sqArg a.entry 2 →
        exec (.fwUpdateStageCertificate q slot) s =
          .next (v.output a ((sqArg a.entry 4).testBit 0) (sqArg a.entry 1) ((List.range Config.certLen.toNat).map Config.certByte)
            Config.certLen.toNat))
    ∧ (∀ w : BankWrite, s.ready q slot 0x0901 a → sqArg a.entry 0 = 1 → s.firm.activating = none → confirms a.entry (sqArg a.entry 1) = true →
        v.firm.write = none → v.firm.runningBankB = false →
        w = { heartwood := true, bankB := true, image := some (fwImageOf v.stagedBytes), cmd := some (a.q, a.slot) } →
        exec (.fwActivateHeartwood q slot) s =
          .next (match v.fwFault 1 v.stagedBytes v.firm.runningCw with
          | some c => v.refuseImage a c
          | none => { v with firm := { v.firm with
              bankB := { v.firm.bankB with valid := false }, write := some w, activating := some (a.q, a.slot) } }))
    ∧ (∀ w : BankWrite, s.ready q slot 0x0901 a → sqArg a.entry 0 = 1 → s.firm.activating = none → confirms a.entry (sqArg a.entry 1) = true →
        v.firm.write = none → v.firm.runningBankB = true →
        w = { heartwood := true, bankB := false, image := some (fwImageOf v.stagedBytes), cmd := some (a.q, a.slot) } →
        exec (.fwActivateHeartwood q slot) s =
          .next (match v.fwFault 1 v.stagedBytes v.firm.runningCw with
          | some c => v.refuseImage a c
          | none => { v with firm := { v.firm with
              bankA := { v.firm.bankA with valid := false }, write := some w, activating := some (a.q, a.slot) } }))
    ∧ (s.ready q slot 0x0901 a → sqArg a.entry 0 = 2 → s.firm.activating = none → s.fetchStopped = false →
        confirms a.entry (sqArg a.entry 1) = true → v.batches = [] → v.activationWaits a v.now = false →
        exec (.fwActivateCordwood q slot) s = .next (v.activateStaged a))
    ∧ (∀ w : State, s.ready q slot 0x0901 a → sqArg a.entry 0 = 2 → s.firm.activating = none → s.fetchStopped = false →
        confirms a.entry (sqArg a.entry 1) = true → v.batches = [] → v.activationWaits a v.now = true →
        w = v.modAccepted a.q a.slot (fun b => { b with aux := v.now }) →
        exec (.fwActivateCordwood q slot) s = .next { w with firm := { w.firm with activating := some (a.q, a.slot) } })

/-- The call gate and the voting management cores act as R367 to R372, R377 and R378 give. -/
def Obligations.GateAndManagementComplete : Prop :=
  ∀ (s u : State) (now : Nat), u = s.at_ now →
    (∀ (core : ScIx) (r : BitVec 512) (e : Bytes), e.length = 64 → s.ctlHeld = false → gateField r 0 2 = 1 →
        s.gateStatus 1 r (s.gateEntry r e) = stOk →
        exec (.gateTableSwap core r e) s =
          .next { s.draw.2 with firm := { s.draw.2.firm with
            gateAnswers := s.draw.2.firm.gateAnswers ++ [(core.val, 0, 0, s.draw.1)] } })
    ∧ (∀ (core : ScIx) (r : BitVec 512) (e : Bytes), e.length = 64 → s.ctlHeld = false → gateField r 0 2 = 2 →
        s.gateStatus 2 r (s.gateEntry r e) = stOk →
        exec (.gateSettingsCommit core r e) s =
          .next { s.draw.2 with firm := { s.draw.2.firm with
            gateAnswers := s.draw.2.firm.gateAnswers ++ [(core.val, 0, 0, s.draw.1)] } })
    ∧ (∀ (core : ScIx) (r : BitVec 512) (e : Bytes), e.length = 64 → s.ctlHeld = false → gateField r 0 2 = 3 →
        s.gateStatus 3 r (s.gateEntry r e) = stOk →
        exec (.gateLease core r e) s =
          .next { s.draw.2 with firm := { s.draw.2.firm with
            gateAnswers := s.draw.2.firm.gateAnswers ++ [(core.val, 0, 0, s.draw.1)] } })
    ∧ (∀ (core : ScIx) (r : BitVec 512) (e : Bytes), e.length = 64 → s.ctlHeld = false → gateField r 0 2 = 4 →
        s.gateStatus 4 r (s.gateEntry r e) = stOk →
        exec (.gateRegionPstate core r e) s =
          .next { s.draw.2 with firm := { s.draw.2.firm with
            gateAnswers := s.draw.2.firm.gateAnswers ++ [(core.val, 0, 0, s.draw.1)] } })
    ∧ (∀ (core : ScIx) (r : BitVec 512) (e : Bytes), e.length = 64 → s.ctlHeld = false → gateField r 0 2 = 5 →
        s.gateStatus 5 r (s.gateEntry r e) = stOk →
        exec (.gateCellTableWrite core r e) s =
          .next { s.draw.2 with firm := { s.draw.2.firm with
            gateAnswers := s.draw.2.firm.gateAnswers ++ [(core.val, 0, 0, s.draw.1)] } })
    ∧ (∀ (core : ScIx) (r : BitVec 512) (e : Bytes), e.length = 64 → s.ctlHeld = false → gateField r 0 2 = 6 →
        s.gateStatus 6 r (s.gateEntry r e) = stOk →
        exec (.gateSpareSubst core r e) s =
          .next { s.draw.2 with firm := { s.draw.2.firm with
            gateAnswers := s.draw.2.firm.gateAnswers ++ [(core.val, 0, 0, s.draw.1)] } })
    ∧ (∀ (core : ScIx) (r : BitVec 512) (e : Bytes), e.length = 64 → s.ctlHeld = false → gateField r 0 2 = 7 →
        s.gateStatus 7 r (s.gateEntry r e) = stOk →
        exec (.gateFirmware core r e) s =
          .next { s.draw.2 with firm := { s.draw.2.firm with
            gateAnswers := s.draw.2.firm.gateAnswers ++ [(core.val, 0, 0, s.draw.1)] } })
    ∧ (∀ (core : ScIx) (r : BitVec 512) (e : Bytes), e.length = 64 → s.ctlHeld = false → gateField r 0 2 = 8 →
        s.gateStatus 8 r (s.gateEntry r e) = stOk →
        exec (.gateQueue core r e) s =
          .next { s.draw.2 with firm := { s.draw.2.firm with
            gateAnswers := s.draw.2.firm.gateAnswers ++ [(core.val, 0, 0, s.draw.1)] } })
    ∧ (∀ (core : ScIx) (r : BitVec 512) (e : Bytes), e.length = 64 → s.ctlHeld = false → gateField r 0 2 = 9 →
        s.gateStatus 9 r (s.gateEntry r e) = stOk →
        exec (.gateHealth core r e) s =
          .next { s.draw.2 with firm := { s.draw.2.firm with
            gateAnswers := s.draw.2.firm.gateAnswers ++ [(core.val, 0, 0, s.draw.1)] } })
    ∧ (∀ (m : McIx) (ts : List Nat) (spare : Bool) (v : State), (u.mcsIn .running).length = 3 → (u.mc m).role = .running →
        u.firm.runningHw.isSome = true →
        ts = ((u.mc m).retirements.filter (fun t => decide (u.now < t + 86400000000000))) ++ [u.now] →
        spare = !(u.mcsIn .standby).isEmpty →
        v = ((u.modMc m (fun x => { x with role := .retired, retiredAt := u.now, retirements := ts })).addWear 0x0E m 1 0).faultNotice 0x0C
          (if spare then 1 else 0) m 0 0 →
        exec (.mgmtDeviation m now) s =
          .next (if 3 ≤ ts.length then v.failMc m 2 (if spare then 1 else 2) else v).callStandby)
    ∧ (∀ (m : McIx) (v : State), (u.mc m).role = .joining → u.firm.fatal = false → v = u.modMc m (fun x => { x with role := .running }) →
        exec (.standbyJoin m now) s = .next { v with firm := { v.firm with duplexHeld := false } })
    ∧ (u.duplex = true → u.firm.fatal = false → (u.mcsIn .joining).isEmpty = false →
        exec (.duplexDisagree now) s = .next { u with firm := { u.firm with duplexHeld := true } })
    ∧ (∀ v : State, u.duplex = true → u.firm.fatal = false → (u.mcsIn .joining).isEmpty = true → (u.mcsIn .standby).isEmpty = false →
        v = u.callStandby →
        exec (.duplexDisagree now) s = .next { v with firm := { v.firm with duplexHeld := true } })
    ∧ (u.duplex = true → u.firm.fatal = false → (u.mcsIn .joining).isEmpty = true → (u.mcsIn .standby).isEmpty = true →
        exec (.duplexDisagree now) s = .next u.mgmtFatal)
    ∧ (∀ m : McIx, (u.mc m).role = .retired → u.ctlHeld = false → (u.mc m).retiredAt + 1000000000 ≤ u.now →
        exec (.standbyPromote m true now) s =
          .next (({ u with firm := { u.firm with selfTest := tset u.firm.selfTest (4 * 256 + m.val) 1 } } : State).modMc m
            (fun x => { x with role := .standby })))
    ∧ (∀ m : McIx, (u.mc m).role = .retired → u.ctlHeld = false →
        exec (.standbyPromote m false now) s =
          .next (({ u with firm := { u.firm with selfTest := tset u.firm.selfTest (4 * 256 + m.val) 2 } } : State).failMc m 2 2))

/-- Health reports, the defect list, wear and standby tests act as R478 to R483 and R490 give. -/
def Obligations.HealthCommandsComplete : Prop :=
  ∀ s : State,
    (∀ (q : QueueIx) (slot : SlotIx) (a : Accepted) (v : State), s.ready q slot 0x0800 a → v = s.beginCmd a →
        (v.queue a.q).turf = 0 ∨ sqArg a.entry 0 = 4 →
        (v.healthReport (sqArg a.entry 0) (v.queue a.q).turf).1.length ≤ sqArg a.entry 2 →
        exec (.healthRead q slot) s =
          .next ((v.healthReport (sqArg a.entry 0) (v.queue a.q).turf).2.output a ((sqArg a.entry 3).testBit 0) (sqArg a.entry 1)
            (v.healthReport (sqArg a.entry 0) (v.queue a.q).turf).1 (v.healthReport (sqArg a.entry 0) (v.queue a.q).turf).1.length))
    ∧ (∀ (q : QueueIx) (slot : SlotIx) (a : Accepted) (v : State) (l : List Defect), s.ready q slot 0x0802 a → v = s.beginCmd a →
        1 ≤ sqArg a.entry 2 → sqArg a.entry 2 ≤ 4096 → l = (v.firm.defects.drop (sqArg a.entry 1)).take (sqArg a.entry 2) →
        exec (.defectListRead q slot) s =
          .next (v.output a ((sqArg a.entry 3).testBit 0) (sqArg a.entry 0) (l.flatMap defectBytes)
            (l.length + v.firm.defects.length * 2 ^ 16 + b2n v.firm.listFull * 2 ^ 32)))
    ∧ (∀ (k : Byte) (n : Half) (d : Word) (now : Nat) (u : State), u = s.at_ now → unitOk k.toNat n.toNat d = true → k ≠ 6 →
        k ≠ 1 ∨ u.wornCell n.toNat = true → u.wearWaits k.toNat n.toNat = false →
        exec (.wearSubstitution k n d now) s =
          .next (({ u with firm := { u.firm with
            deferred := u.firm.deferred.filter (fun x => x != (k.toNat, n.toNat, d)) } } : State).wearSubst k.toNat n.toNat d))
    ∧ (∀ (k : Byte) (n : Half) (d : Word) (now : Nat) (u : State), u = s.at_ now → unitOk k.toNat n.toNat d = true → k ≠ 6 →
        k ≠ 1 ∨ u.wornCell n.toNat = true → u.wearWaits k.toNat n.toNat = true → u.firm.deferred.contains (k.toNat, n.toNat, d) = false →
        exec (.wearSubstitution k n d now) s =
          .next { u with firm := { u.firm with deferred := u.firm.deferred ++ [(k.toNat, n.toNat, d)] } })
    ∧ (∀ (n : Half) (d : Word) (now : Nat) (u : State), u = s.at_ now → unitOk 6 n.toNat d = true → (u.bank n.toNat).wornAt = none →
        (u.bankFeed n.toNat).isSome = true → (u.bank n.toNat).faulted = false →
        exec (.wearSubstitution 6 n d now) s = .next (u.modBank n.toNat (fun x => { x with wornAt := some u.now })))
    ∧ (∀ (q : QueueIx) (slot : SlotIx) (a : Accepted) (v : State) (k n : Nat) (d : Word), s.ready q slot 0x0801 a → v = s.beginCmd a →
        k = sqArg a.entry 0 → n = sqArg a.entry 1 → d = BitVec.ofNat 32 (sqArg a.entry 2) → k ∈ [0x01, 0x04, 0x07, 0x08, 0x0B, 0x0C] →
        unitOk k n d = true → sqArg a.entry 2 < 2 ^ 32 → v.inService k n d = true → v.noSpareNow k n d = false →
        v.wearWaits k n = false → v.poolBusy k n d = false → k ≠ 7 ∨ v.scheduled n = false →
        exec (.spareSubst q slot) s = .next ((v.wearSubst k n d).done a 1))
    ∧ (∀ (q : QueueIx) (slot : SlotIx) (a : Accepted) (v : State) (n : Nat) (d : Word), s.ready q slot 0x0801 a → v = s.beginCmd a →
        sqArg a.entry 0 = 0x0D → n = sqArg a.entry 1 → d = BitVec.ofNat 32 (sqArg a.entry 2) →
        unitOk 0x0D n d = true → sqArg a.entry 2 < 2 ^ 32 → v.inService 0x0D n d = true → v.noSpareNow 0x0D n d = false →
        v.wearWaits 0x0D n = false → v.poolBusy 0x0D n d = false →
        exec (.spareSubst q slot) s = .next ((v.done a 1).wearSubst 0x0D n d))
    ∧ (∀ (q : QueueIx) (slot : SlotIx) (a : Accepted) (v : State) (n feed b : Nat) (d : Word), s.ready q slot 0x0801 a → v = s.beginCmd a →
        sqArg a.entry 0 = 6 → n = sqArg a.entry 1 → d = BitVec.ofNat 32 (sqArg a.entry 2) →
        unitOk 6 n d = true → sqArg a.entry 2 < 2 ^ 32 → v.inService 6 n d = true → v.noSpareNow 6 n d = false →
        v.wearWaits 6 n = false → v.poolBusy 6 n d = false → v.bankFeed n = some feed → v.spareBank (n / 20) = some b →
        (feedPorts feed).any v.scheduled = false →
        exec (.spareSubst q slot) s = .next ((v.wearSwap n feed b).done a 1))
    ∧ (∀ (k : Byte) (n : Half) (d : Word) (key : Nat), selfTestKey k.toNat n.toNat = some key →
        exec (.spareStandbyTest k n d true) s =
          .next { s with firm := { s.firm with selfTest := tset s.firm.selfTest key 1 } })
    ∧ (∀ (k : Byte) (n : Half) (d : Word) (p : Nat), k ≠ 0x0E → selfTestKey k.toNat n.toNat = none → p = poolOf k.toNat n.toNat d →
        s.sparesLeft k.toNat p ≠ 0 →
        exec (.spareStandbyTest k n d false) s =
          .next (((({ s with firm := { s.firm with
            sparesFailed := tset s.firm.sparesFailed (poolKey k.toNat p) (tget s.firm.sparesFailed 0 (poolKey k.toNat p) + 1) } } : State).dropSpare
              k.toNat n.toNat d).faultActed k.toNat 2 0 n.toNat d 0).checkProj (poolKind k.toNat)))
    ∧ (∀ (k : Byte) (n : Half) (x d : Word), k.toNat ∈ [0x08, 0x09, 0x0C] → exec (.wearLogWrite k n x d) s = .next (s.addWear k.toNat n.toNat x d))
    ∧ (∀ (k : Byte) (n : Half) (x d : Word) (r : Nat × State), k.toNat ∈ [0x01, 0x04, 0x06] → r = s.takeHour k.toNat n.toNat d.toNat → r.1 ≠ 0 →
        exec (.wearLogWrite k n x d) s = .next (r.2.addWear k.toNat n.toNat (BitVec.ofNat 32 r.1) d))
    ∧ (∀ (k : Byte) (n : Half) (x d : Word), k.toNat ∈ [0x01, 0x04, 0x06] → (s.takeHour k.toNat n.toNat d.toNat).1 = 0 →
        exec (.wearLogWrite k n x d) s = .next s)
    ∧ (∀ (n : Half) (x d : Word) (v : State), v = s.addWear 0x0F n.toNat x d →
        exec (.wearLogWrite 0x0F n x d) s = .next { v with firm := { v.firm with operDays := v.firm.operDays + 1 } })
    ∧ (∀ (n : Half) (x d : Word), exec (.wearLogWrite 7 n x d) s =
        .next ((s.addWear 7 n.toNat x d).modBank n.toNat (fun y => { y with driftPermille := signed 16 x.toNat })))

/-- The reset scopes, supplies, the reference clock and BU_RESET act as R391 to R400, R407, R414, R415, R438 and R533 give. -/
def Obligations.ResetsComplete : Prop :=
  ∀ s : State,
    (∀ (ok : Bool) (mv : Nat), exec (.coldReset ok mv) s = .next (s.resetModule true 1 (some mv) (!ok)))
    ∧ (∀ (c : ModuleResetCause) (mv : Nat), s.bu.vaux = true → c ≠ .refclkLost ∨ s.lorCompat = true ∧ s.pw.gtcRunning = true →
        exec (.moduleReset c mv) s = .next (s.resetModule false (ModuleResetCause.code c) (some mv) false))
    ∧ (∀ t : State, s.bu.vaux = true → s.bu.xtalFailed = false → t = s.resetModule false 6 none false →
        exec .peatXtalFail s = .next { t with bu := { t.bu with xtalFailed := true } })
    ∧ (∀ b : BringupSt, b = {
          vaux := false, counts := s.bu.counts, bootEpoch := s.bu.bootEpoch, record := s.bu.record, monotonic := s.bu.monotonic
          smbAlert := false, cfgSel := s.bu.cfgSel, strapFault := s.bu.strapFault, cause := s.bu.cause, prior := s.bu.prior } →
        exec .vauxLoss s = .next {
          pending := s.pending, drawn := s.drawn, hostMem := s.hostMem, out := s.out, bu := b, pw := { refclk := s.pw.refclk }
          phases := tmap s.phases (fun _ x => { firstLoss := x.firstLoss }), firm := s.firm.stored })
    ∧ (s.bu.vaux = true → s.bu.xtalFailed = false → s.bu.islandUp = false → s.pw.shutdown = false →
        exec .bringupIslandRelease s = .next { s with
          bu := { s.bu with islandUp := true, thermRst := false, thermtripN := false, faultN := false }
          pw := { s.pw with shutdown := false } })
    ∧ (s.bu.vaux = true → s.bu.xtalFailed = false → s.bu.islandUp = false → s.pw.shutdown = true → s.junctionsCool = true →
        s.bu.thermRst = false →
        exec .bringupIslandRelease s = .next { s with bu := { s.bu with islandUp := true } })
    ∧ (∀ t : State, s.bu.vaux = true → s.bu.crstLow = false → t = s.assertCompute →
        exec .computeReset s = .next { t with bu := { t.bu with crstLow := true } })
    ∧ (s.bu.crstLow = true → s.bu.computeHeld = true →
        exec .computeResetRelease s = .next { s with bu := { s.bu with crstLow := false } })
    ∧ (s.bu.crstLow = true → s.bu.computeHeld = false →
        exec .computeResetRelease s = .next ({ s with bu := { s.bu with crstLow := false } } : State).releaseSites)
    ∧ (s.bu.crstLow = false →
        exec .computeResetRelease s = .next ({ s with bu := { s.bu with computeHeld := false, diesHeld := [] } } : State).releaseSites)
    ∧ (s.bu.islandUp = true → exec (.buResetModule 0xA5C3) s = .next (s.resetModule false 4 none false))
    ∧ (∀ t : State, s.bu.islandUp = true → s.bu.computeHeld = false → t = s.assertCompute →
        exec (.buResetCompute 0xA5C3) s = .next { t with bu := { t.bu with computeHeld := true } })
    ∧ (∀ (c : CdIx) (t u : State), s.bu.islandUp = true → s.bu.diesHeld.contains c.val = false → t = s.countReset 3 → 7 ≤ t.bu.lastDone →
        t.bu.computeOn = true → t.bu.computeHeld = false → t.bu.crstLow = false → u = t.clearDies [c.val] →
        exec (.buResetDie 0xA5C3 c) s = .next { u with bu := { u.bu with diesHeld := setIns u.bu.diesHeld c } })
    ∧ (s.bu.islandUp = true → s.firm.runningCw.isSome = true → s.ctlHeld = false →
        exec (.buResetFirmware 0xA5C3) s = .next (s.fwReset none))
    ∧ (∀ key : Half, s.bu.islandUp = false ∨ key ≠ 0xA5C3 → exec (.buResetModule key) s = .next s.cmdIgnored)
    ∧ (∀ (now mv : Nat) (u : State), u = s.at_ now → u.pw.refclk = true → u.pw.gtcRunning = false →
        exec (.refclkLost now mv) s = .next { u with pw := { u.pw with refclk := false } })
    ∧ (∀ (now mv : Nat) (u : State), u = s.at_ now → u.pw.refclk = true → u.pw.gtcRunning = true → u.lorCompat = true →
        exec (.refclkLost now mv) s =
          .next (({ u with pw := { u.pw with refclk := false } } : State).resetModule false 5 (some mv) false))
    ∧ (∀ (now mv : Nat) (u : State), u = s.at_ now → u.pw.refclk = true → u.pw.gtcRunning = true → u.lorCompat = false →
        exec (.refclkLost now mv) s =
          .next (({ u with pw := { u.pw with refclk := false, holdover := some u.now } } : State).notice0 6 0x1204 []))
    ∧ (∀ (now c : Nat) (u : State), u = s.at_ now → u.pw.holdover = some c →
        exec (.refclkBack now) s =
          .next (({ u with pw := { u.pw with refclk := true, holdover := none, safeStopped := false } } : State).notice0 5 0x1205
            [BitVec.ofNat 128 ((u.now - c) / 1000 % 2 ^ 32 + b2n u.pw.safeStopped * 2 ^ 32)]))
    ∧ (∀ (now : Nat) (u : State), u = s.at_ now → u.pw.holdover = none →
        exec (.refclkBack now) s = .next { u with pw := { u.pw with refclk := true } })
    ∧ (∀ (now c : Nat) (u v : State), u = s.at_ now → u.pw.holdover = some c → c + 1000000 ≤ u.now → u.pw.safeStopped = false →
        v = (u.batches.foldl (fun x p => x.stopBatch p.1 stInternal 0 false)
          ({ u with pw := { u.pw with safeStopped := true } } : State)).settleAll →
        exec (.refclkSafeStop now) s =
          .next (((List.range 64).filter (fun r => decide ((v.region r).sleep.num ≤ 2) || (v.region r).busy)).foldl
            (fun x r => x.request r .s3) v).settleWakes)

/-- The bring-up steps act as R366 to R368, R381, R384 and R401 to R416 give. -/
def Obligations.BringupStepsComplete : Prop :=
  ∀ (v : Via) (s u : State),
    (∀ (o : BaseObs) (n : List Nat), s.stepOpen 1 v → u = s.stepBegun 1 → o.bumps.length = 4 → o.fuses.length = 40 → o.badGroup = none →
        badQuadrant o.bumps 0 [] = none → n = o.bumps.map (fun b => (setBits b.toNat 4).headD 0) → badFuse n o.fuses = none → 3 ≤ o.votingCores →
        exec (.basePower v o) s =
          .next (({ u.loadSettings.applyList with bu := { u.loadSettings.applyList.bu with baseOn := true, orient := n } } : State).succeeds 0))
    ∧ (∀ (o : BaseObs) (g : GroupIx), s.stepOpen 1 v → u = s.stepBegun 1 → o.bumps.length = 4 → o.fuses.length = 40 → o.badGroup = some g →
        exec (.basePower v o) s = .next (u.fails 0x06 g.val 0))
    ∧ (∀ cores : Nat, s.stepOpen 2 v → u = s.stepBegun 2 → u.pw.refclk = true → 3 ≤ cores →
        exec (.clocksStart { via := v, votingCores := cores }) s =
          .next (({ u with
            bu := { u.bu with clocksOn := true }
            pw := { u.pw with gtcRunning := true, gtc := 0, schedCycles := 0, modCycles := 0, pstate := u.pWanted } } : State).succeeds 0))
    ∧ (s.stepOpen 2 v → u = s.stepBegun 2 → u.pw.refclk = false → (∀ cores : Nat, exec (.clocksStart { via := v, votingCores := cores }) s = .next (u.fails 0x08 0 0)))
    ∧ (∀ cores : Nat, s.stepOpen 2 v → u = s.stepBegun 2 → u.pw.refclk = true → cores < 3 →
        exec (.clocksStart { via := v, votingCores := cores }) s = .next (u.fails 0x0D 0 cores))
    ∧ (∀ (o : TrainObs) (t : State), s.stepOpen 3 v → u = s.stepBegun 3 → o.badGroup = none → o.badPort = none → o.badSite = none →
        3 ≤ o.votingCores →
        t = (List.range 352).foldl (fun x l => x.trainLink l)
          ({ u with bu := { u.bu with photonicsOn := true, memoryOn := true } } : State).zeroSites →
        exec (.train v o) s = .next (t.succeeds 0))
    ∧ (∀ (o : SodObs) (t : State), s.stepOpen 4 v → u = s.stepBegun 4 → 3 ≤ o.votingCores →
        t = (o.wakeFails.map (fun r => r.val)).foldl (fun x r => x.sodWakeFail r) (o.defects.foldl (fun x d => x.takeFinding d) u) →
        exec (.sodTest v o) s =
          .next (t.succeeds ((t.firm.defects.length - u.firm.defects.length) * 2 ^ 48 + t.firm.defects.length * 2 ^ 32
            + t.unavailable * 2 ^ 8)))
    ∧ (∀ (b : Bool) (i : FwImage) (t : State), s.stepOpen 5 v → u = s.stepBegun 5 → 3 ≤ u.goodCores.length → u.chooseBank = some (b, i) →
        t = u.goodCores.zipIdx.foldl (fun x m => x.modMc m.1 (fun y => { y with role := if m.2 < 3 then .running else .standby }))
          ({ u with bu := { u.bu with noBank := false } } : State) →
        exec (.loadHeartwood v) s =
          .next (({ t with firm := { t.firm with runningHw := some i, runningBankB := b } } : State).succeeds
            (i.release * 2 ^ 48 + b2n b * 2 ^ 8)))
    ∧ (s.stepOpen 5 v → u = s.stepBegun 5 → 3 ≤ u.goodCores.length → u.chooseBank = none →
        exec (.loadHeartwood v) s = .next (({ u with bu := { u.bu with noBank := true } } : State).fails 0x0C 0 0))
    ∧ (∀ (d : Bytes) (w : BankWrite), s.stepOpen 0x10 v → u = s.stepBegun 0x10 → s.arg 1 ≤ 36 * 2 ^ 20 → d.length = s.arg 1 →
        (u.arg 2).testBit 0 = true → w = { heartwood := true, bankB := true, image := some (fwImageOf d), fromWindow := true } →
        exec (.hwRecover v (some d)) s =
          .next (match u.fwFault 1 d u.firm.runningCw with
          | some c => u.imageFails c
          | none => { u with firm := { u.firm with bankB := { u.firm.bankB with valid := false }, write := some w } }))
    ∧ (∀ (d : Bytes) (t : State), s.stepOpen 6 v → u = s.stepBegun 6 → s.arg 1 ≤ 36 * 2 ^ 20 → d.length = s.arg 1 →
        8 ≤ t.scServing.length → t = { u with firm := { u.firm with staged := memWrite [] 0 d, stagedTop := d.length } } →
        exec (.loadCordwood v (some d)) s =
          .next (match t.fwFault 2 d t.firm.runningHw with
          | some c => t.imageFails c
          | none => ({ t.runStaged with bu := { t.runStaged.bu with cordwoodUp := true } } : State).succeeds
              (fwRelease t.runStaged.firm.runningCw * 2 ^ 48 + t.scServing.length * 2 ^ 8)))
    ∧ (∀ (l : List RegionIx) (t : State), s.stepOpen 7 v → u = s.stepBegun 7 → s.bu.crstLow = false →
        t = ((List.range 64).filter (fun r => !(u.region r).failed && (u.region r).sleep != .s0)).foldl (fun x r =>
          if l.any (fun y => y.val == r) then x.wakeFailed r 1 []
          else (x.modRegion r (fun y => { y with wakeFail := false })).wakeDone r true)
            ({ u with bu := { u.bu with computeOn := true } } : State) →
        exec (.cellsPower v l none) s =
          .next (t.succeeds (((List.range 64).filter (fun r => (t.region r).sleep == .s0)).length * 2 ^ 8
            + ((List.range 64).filter (fun r => (t.region r).wakeFail)).length * 2 ^ 16)))
    ∧ (∀ l : List RegionIx, s.stepOpen 7 v → u = s.stepBegun 7 → s.bu.crstLow = true →
        exec (.cellsPower v l none) s = .next { u with bu := { u.bu with awaits := true } })
    ∧ (∀ (n : Nat) (sec : Bytes) (t : State), s.stepOpen 8 v → u = s.stepBegun 8 →
        sec = (match u.firm.runningCw with | some i => i.steward | none => []) →
        t = { u with firm := { u.firm with stewardCopy := sec } } →
        exec (.stewardBroadcast v n []) s =
          .next ((((List.range 4096).filter (fun c => (t.region (regionOf c)).sleep == .s0)).foldl
            (fun x c => x.modCell c (fun y => { y with steward := sec })) t).succeeds (n % 65536 * 2 ^ 48)))
    ∧ (s.stepOpen 9 v → u = s.stepBegun 9 → u.queueArgFault = none →
        exec (.queuesEnable v) s = .next (u.openQueue0.reportLastOp.succeeds (b2n u.bu.lastopShown.isSome * 2 ^ 8)))
    ∧ (∀ n : Nat, s.stepOpen 9 v → u = s.stepBegun 9 → u.queueArgFault = some n → exec (.queuesEnable v) s = .next (u.fails 0x11 0 n))

/-- The end and the limit of a step and the SMBus mirror act as R402, R408, R414, R535 and R549 give. -/
def Obligations.StepEndsAndMirrorComplete : Prop :=
  ∀ (s t : State),
    (s.bu.state = 1 → s.bu.awaits = false → s.firm.write = none → s.bu.outcome.1 = 0 → s.bu.step ≠ 0x10 →
        t = s.endStep 0 s.bu.outcome.2 → s.bu.step ∉ [3, 5, 6, 9] →
        exec .bringupStepEnd s = .next { t with bu := { t.bu with lastDone := s.bu.step } })
    ∧ (s.bu.state = 1 → s.bu.awaits = false → s.firm.write = none → s.bu.outcome.1 = 0 → s.bu.step = 3 → t = s.endStep 0 s.trainData →
        exec .bringupStepEnd s = .next { t with bu := { t.bu with lastDone := 3 } })
    ∧ (s.bu.state = 1 → s.bu.awaits = false → s.firm.write = none → s.bu.outcome.1 = 0 → s.bu.step = 9 → t = s.endStep 0 s.bu.outcome.2 →
        exec .bringupStepEnd s = .next ({ t with bu := { t.bu with lastDone := 9 } } : State).queuesDone)
    ∧ (s.bu.state = 1 → s.bu.awaits = false → s.firm.write = none → s.bu.outcome.1 = 0 → s.bu.step = 5 → t = s.endStep 0 s.bu.outcome.2 →
        exec .bringupStepEnd s = .next ({ t with bu := { t.bu with lastDone := 5 } } : State).bankBooted)
    ∧ (s.bu.state = 1 → s.bu.awaits = false → s.firm.write = none → s.bu.outcome.1 = 0 → s.bu.step = 6 → t = s.endStep 0 s.bu.outcome.2 →
        exec .bringupStepEnd s = .next { t with bu := { t.bu with lastDone := 6, cwData := s.bu.outcome.2 } })
    ∧ (s.bu.state = 1 → s.bu.awaits = false → s.firm.write = none → s.bu.outcome.1 ≠ 0 → t = s.endStep s.bu.outcome.1 s.bu.outcome.2 →
        exec .bringupStepEnd s =
          .next { t with bu := { t.bu with
            latched := if s.bu.outcome.1 = 4 ∨ s.bu.outcome.1 = 5 then some s.bu.outcome else t.bu.latched } })
    ∧ (∀ sub : Byte, s.bu.state = 1 → s.bu.awaits = false → stepParts s.bu.step ≠ 0 → 1 ≤ sub.toNat → sub.toNat ≤ stepParts s.bu.step →
        exec (.bringupStepTimeout sub) s = .next ((s.undoStep s.bu.step).endStep 9 (failData 0 sub.toNat)))
    ∧ (s.bu.state = 1 → s.bu.awaits = false → stepParts s.bu.step = 0 →
        exec (.bringupStepTimeout 0) s = .next ((s.undoStep s.bu.step).endStep 9 (failData 0 0)))
    ∧ (s.bu.vaux = true → exec .mirrorStatusRead s = .next { s with bu := { s.bu with smbAlert := false } })
    ∧ (∀ (x : BitVec 7) (off : Half) (d : Bytes), s.bu.vaux = true → x.toNat = s.mirrorAddr → mirrorReset off.toNat d = none →
        t = d.zipIdx.foldl (fun w y => w.mirrorByte (off.toNat + y.2) y.1) s →
        exec (.smbusBlockWrite x off d) s = .next t)
    ∧ (∀ (x : BitVec 7) (off : Half) (d : Bytes) (n : Nat), s.bu.vaux = true → x.toNat = s.mirrorAddr → mirrorReset off.toNat d = some n →
        t = d.zipIdx.foldl (fun w y => w.mirrorByte (off.toNat + y.2) y.1) s →
        exec (.smbusBlockWrite x off d) s = .next (t.buReset (bits n 31 16) (bits n 2 0) (bits n 11 8)))

/-- A step performs the command at the front of the queue on the state with the rest of the queue. -/
def Obligations.StepRunsTheFront : Prop :=
  ∀ (c : Instr) (rest : List Instr) (s : State),
    (s.pending = c :: rest → step s = exec c { s with pending := rest })

/-- On an empty queue the block idles for a nanosecond: its GTC never falls (the model's choice, log entry 14). -/
def Obligations.EmptyQueueIdles : Prop :=
  ∀ (s : State),
    (s.pending = [] → ∃ p : PowerSt, step s = .next { s with pw := p } ∧ s.pw.gtc ≤ p.gtc ∧ (s.pw.gtcRunning = false → p = s.pw)
      ∧ (s.pw.gtcRunning = true → s.pw.halfRate = 0 → s.pw.slew = 0 → p = { s.pw with gtc := s.pw.gtc + 1 }))

/-- No command adds to the queue of waiting commands or takes from it. -/
def Obligations.QueueIsOnlyConsumed : Prop :=
  ∀ (c : Instr) (s t : State),
    (exec c s = .next t → t.pending = s.pending)

/-- Every command answers a next state or the fault illFormed; none is refused. -/
def Obligations.CommandsStopOnlyWhenIllFormed : Prop :=
  ∀ (c : Instr) (s : State),
    (exec c s = .fault .illFormed ∨ answersNext c s)
    ∧ (c.mayBeIllFormed = false → answersNext c s)

/-- Every step keeps both memories in canonical form and every sync counter in its range (R236). -/
def Obligations.EveryStepKeepsMemoryFormAndCounterRange : Prop :=
  ∀ (s t : State),
    (s.memOk → s.ctrsInRange → step s = .next t → (t.memOk ∧ t.ctrsInRange))

/-- The state after reset has canonical memories, counters in range and no command waiting. -/
def Obligations.ResetMeetsTheInvariant : Prop :=
  State.reset.memOk ∧ State.reset.ctrsInRange ∧ State.reset.pending = [] ∧ State.reset.accepted = []
    ∧ State.reset.images = [] ∧ State.reset.batches = []

/-- No command changes or removes an entry of the defect list (R411). -/
def Obligations.DefectListOnlyGrows : Prop :=
  ∀ (c : Instr) (s t : State),
    (exec c s = .next t → s.firm.defects <+: t.firm.defects)

/-- Key slots are revoked once, by the first LOAD_HEARTWOOD of a REVOKE_LOWER patch, and by nothing else (R383). -/
def Obligations.KeySlotsAreRevokedOnlyByAFirstBoot : Prop :=
  ∀ (c : Instr) (s t : State), exec c s = .next t →
    (∀ k : Nat, k ∈ s.firm.revoked → k ∈ t.firm.revoked)
    ∧ (c ≠ .bringupStepEnd → t.firm.revoked = s.firm.revoked)
    ∧ (c = .bringupStepEnd → ¬ s.completesHeartwood → t.firm.revoked = s.firm.revoked)
    ∧ (∀ i : FwImage, c = .bringupStepEnd → s.firm.runningHw = some i → s.runningBank.booted = true ∨ i.revokeLower = false →
        t.firm.revoked = s.firm.revoked)
    ∧ (∀ i : FwImage, c = .bringupStepEnd → s.completesHeartwood → s.firm.runningHw = some i → s.runningBank.booted = false →
        i.revokeLower = true → ∀ k : Nat, k ∈ t.firm.revoked ↔ k ∈ s.firm.revoked ∨ k < i.key)

/-- The commands that neither store nor complete leave every byte of both memories. -/
def Obligations.MemoryStaysUnderCommandsThatStoreNothing : Prop :=
  ∀ (c : Instr) (s t : State) (a : Nat),
    (c.leavesMemory = true → exec c s = .next t → memGet t.mem a = memGet s.mem a ∧ memGet t.hostMem a = memGet s.hostMem a)

/-- A signal that would carry a sync counter above 2^31 - 1 is refused with BAD_ARG and the counter keeps its value (R237). -/
def Obligations.SignalBeyondTheRangeIsRefused : Prop :=
  ∀ (s : State) (k n : Nat) (p : Party),
    (s.ctrRefusal k n p = none → 2 ^ 31 - 1 < (s.ctr k).value + n →
        (s.addCtr k n p).2 = stBadArg ∧ (s.addCtr k n p).1.ctr k = s.ctr k)

/-- A signal in range adds its amount; a decrement below 0 leaves the value and is entered in the event log. -/
def Obligations.CounterChangesAreExact : Prop :=
  ∀ (s : State) (k n : Nat) (p : Party),
    (s.ctrRefusal k n p = none → (s.ctr k).value + n < 2 ^ 31 →
        (s.addCtr k n p).2 = stOk ∧ ((s.addCtr k n p).1.ctr k).value = (s.ctr k).value + n)
    ∧ (s.ctrRefusal k (-(n : Int)) p = none → n ≤ (s.ctr k).value → (s.ctr k).value < 2 ^ 31 →
        (s.addCtr k (-(n : Int)) p).2 = stOk ∧ ((s.addCtr k (-(n : Int)) p).1.ctr k).value = (s.ctr k).value - n)
    ∧ (s.ctrRefusal k (-(n : Int)) p = none → (s.ctr k).value < n →
        (s.addCtr k (-(n : Int)) p).2 = stBadArg ∧ ((s.addCtr k (-(n : Int)) p).1.ctr k).value = (s.ctr k).value
          ∧ ∃ e : SyncEvent, (s.addCtr k (-(n : Int)) p).1.syncLog.getLast? = some e ∧ e.event = 1 ∧ e.addr = s.ctrAddr k)

/-- A ledger addition is exact in its 128 bits and saturates to the nearer limit outside them (R81). -/
def Obligations.LedgerAdditionSaturates : Prop :=
  ∀ (w : BitVec 128) (j : Int),
    (-(2 ^ 127) ≤ w.toInt + j → w.toInt + j ≤ 2 ^ 127 - 1 → (ledgerAdd w j).1.toInt = w.toInt + j ∧ (ledgerAdd w j).2 = false)
    ∧ (2 ^ 127 - 1 < w.toInt + j → (ledgerAdd w j).1.toInt = 2 ^ 127 - 1 ∧ (ledgerAdd w j).2 = true)
    ∧ (w.toInt + j < -(2 ^ 127) → (ledgerAdd w j).1.toInt = -(2 ^ 127) ∧ (ledgerAdd w j).2 = true)

/-- INT32 atomics wrap, compare as signed and swap on equality (R268). -/
def Obligations.IntegerAtomicsAreExact : Prop :=
  ∀ (p : Packet) (x : BitVec 32),
    (p.op = 0x10 → p.otype = 0 → atomValue p x.toNat = ((x + BitVec.ofNat 32 p.operand.toNat).toNat, 0))
    ∧ (p.op = 0x11 → p.otype = 0 →
        atomValue p x.toNat = ((if (BitVec.ofNat 32 p.operand.toNat).slt x then BitVec.ofNat 32 p.operand.toNat else x).toNat, 0))
    ∧ (p.op = 0x12 → p.otype = 0 →
        atomValue p x.toNat = ((if x.slt (BitVec.ofNat 32 p.operand.toNat) then BitVec.ofNat 32 p.operand.toNat else x).toNat, 0))
    ∧ (∀ y : BitVec 64, p.op = 0x13 → p.otype = 1 →
        atomValue p y.toNat = ((if y = p.operand.extractLsb' 0 64 then p.operand.extractLsb' 64 64 else y).toNat, 0))

/-- A write to the module's own memory reads back, and every byte outside it stays; a write to a site that a reset holds in self-refresh
waits, and changes no byte (R214). -/
def Obligations.WrittenBytesReadBack : Prop :=
  ∀ (s t : State) (a : Nat) (bs : Bytes),
    (Memory.wf s.mem = true → s.writePiece a bs false = (t, true) →
        (∀ m o : Nat, s.resolve a = some (.site m o) → (s.site m).heldRefresh = false) →
        (t.readPiece a bs.length).map (fun r => r.1) = some bs)
    ∧ (∀ m o : Nat, s.resolve a = some (.site m o) → (s.site m).heldRefresh = true →
        s.writePiece a bs false = ({ s with siteWaits := s.siteWaits ++ [(siteKey m o, bs, false)] }, true))
    ∧ (∀ k x : Nat, Memory.wf s.mem = true → s.writePiece a bs false = (t, true) → s.pieceKey a = some k →
        x < k ∨ k + bs.length ≤ x → memGet t.mem x = memGet s.mem x ∧ t.hostMem = s.hostMem)

/-- A STORE or LOAD of a turf on a site range it may not reach is answered DENIED and changes no byte (R324, R325). -/
def Obligations.ForeignStoresChangeNothing : Prop :=
  ∀ (a : Arrival) (p : Packet) (s : State) (m o : Nat), s.resolve p.addr = some (.site m o) →
      mayReach a.turf (siteOwner s.turfMap m (o / 2 ^ 30)) = false → p.requestOk = true → s.siteHeld p = false → p.len ≠ 0 →
    (p.op = 2 → exec (.store a p) s = .next (s.refuseReq a.turf p stDenied))
    ∧ (p.op = 1 → exec (.load a p) s = .next (s.refuseReq a.turf p stDenied))
    ∧ ((s.refuseReq a.turf p stDenied).mem = s.mem ∧ (s.refuseReq a.turf p stDenied).hostMem = s.hostMem
        ∧ tget (s.refuseReq a.turf p stDenied).obs.ctrs 0 (ctrKey 3 m 8) = tget s.obs.ctrs 0 (ctrKey 3 m 8) + 1)

/-- A fetched entry with a reserved opcode or field is BAD_ARG; a fabric command of another turf's queue is DENIED (R8, R316). -/
def Obligations.FetchedEntriesAreChecked : Prop :=
  ∀ (q : QueueIx) (d : Bytes) (s u : State) (w : BitVec 512), q.val < 4096 → s.mayFetch q.val = true →
      (s.queue q.val).sqMod = false → d.length = 64 → w = BitVec.ofNat 512 (leNat d) → u = s.takeEntry q.val w →
    (argMasks (sqOpcode w) = none → exec (.cmdFetch q (some d)) s = .next (u.complete (s.entryCmd q.val w) stBadArg 0 0))
    ∧ (fld w 14 2 ≠ 0 → exec (.cmdFetch q (some d)) s = .next (u.complete (s.entryCmd q.val w) stBadArg 0 0))
    ∧ (0x0600 ≤ sqOpcode w → sqOpcode w ≤ 0x0604 → (s.queue q.val).turf ≠ 0 → entryOk w = true →
        exec (.cmdFetch q (some d)) s = .next (u.complete (s.entryCmd q.val w) stDenied 0 0))
    ∧ (0x0600 ≤ sqOpcode w → sqOpcode w ≤ 0x0604 → entryOk w = false →
        exec (.cmdFetch q (some d)) s = .next (u.complete (s.entryCmd q.val w) stBadArg 0 0))
    ∧ (u.entryRefusal q.val w = none → exec (.cmdFetch q (some d)) s = .next u)

/-- A completion entry stands at its place of the ring in host memory, and no other byte changes (R339, Table 13.8). -/
def Obligations.CompletionEntriesStandInTheRing : Prop :=
  ∀ (q : QueueIx) (slot : SlotIx) (s : State) (a : Accepted) (x : QueueSt), s.ready q slot 0x0000 a → x = s.queue q.val →
      q.val < 4096 → x.state = .opened → x.cqMod = false → (s.queue 0).state ≠ .closing → Memory.wf s.hostMem = true →
    (∃ t : State, exec (.nop q slot) s = .next t
        ∧ memRead t.hostMem (hostKey x.port (x.cqAddr.toNat + 16 * x.cqTail)) 16 = cqeBytes (sqTag a.entry) stOk 0 x.phase 0
        ∧ (∀ k : Nat, k < hostKey x.port (x.cqAddr.toNat + 16 * x.cqTail) ∨ hostKey x.port (x.cqAddr.toNat + 16 * x.cqTail) + 16 ≤ k →
            memGet t.hostMem k = memGet s.hostMem k)
        ∧ t.mem = s.mem
        ∧ (x.cqTail + 1 ≠ x.cqSize → (t.queue q.val).cqTail = x.cqTail + 1 ∧ (t.queue q.val).phase = x.phase)
        ∧ (x.cqTail + 1 = x.cqSize → (t.queue q.val).cqTail = 0 ∧ (t.queue q.val).phase = !x.phase))

/-- RICK_DATA gives the highest-priority visible item, oldest first, word by word (R57). -/
def Obligations.RicksGiveTheirBestItem : Prop :=
  ∀ (r : RickRef) (s : State) (k : Rick), s.rickAt r = some k →
    (∀ (pre post : List (List (BitVec 128))) (i : List (BitVec 128)), k.cur = none → k.items = pre ++ i :: post →
        (∀ j ∈ pre, itemPrio j < itemPrio i) → (∀ j ∈ post, itemPrio j ≤ itemPrio i) →
        exec (.rickDataRead r) s = .next ((s.setRick r { k with items := pre ++ post, cur := if 1 < i.length then some (i, 1) else none }).emit
          (.rickWord (i.headD 0))))
    ∧ (∀ (i : List (BitVec 128)) (n : Nat), k.cur = some (i, n) →
        exec (.rickDataRead r) s = .next ((s.setRick r { k with cur := if n + 1 < i.length then some (i, n + 1) else none }).emit
          (.rickWord (i.getD n 0))))
    ∧ (k.cur = none → k.items = [] → exec (.rickDataRead r) s = .next ((s.setRick r k).emit (.rickWord 0)))
    ∧ (k.cur ≠ none → exec (.dropItem r) s = .next (s.setRick r { k with cur := none }))
    ∧ (∀ (held : Bool) (item : List (BitVec 128)), k.cur ≠ none → (k.put held item).cur = k.cur)

/-- An item that does not fit discards whole items, oldest first, never the current one; in MODE 1 it is ignored (R58). -/
def Obligations.FullRicksDiscardTheirOldest : Prop :=
  ∀ (k : Rick) (item : List (BitVec 128)),
    (∀ held : Bool, k.words + item.length ≤ 16 → k.put held item = { k with items := k.items ++ [item] })
    ∧ (∀ (pre post : List (List (BitVec 128))) (x : List (BitVec 128)), k.items = pre ++ x :: post → pre.length ≤ 16 →
        16 < ({ k with items := x :: post } : Rick).words + item.length →
        ({ k with items := post } : Rick).words + item.length ≤ 16 →
        k.put false item = { k with items := post ++ [item], lost := min 0xFFFF (k.lost + (pre.length + 1)) })
    ∧ (16 < k.words + item.length → k.put true item = { k with overrun := true })

/-- RUN_BATCH with a BUCKET that the image does not hold completes with BAD_ARG (R519). -/
def Obligations.RunBatchNamesAPresentBucket : Prop :=
  ∀ (q : QueueIx) (slot : SlotIx) (s u v : State) (a : Accepted) (img : ImageSt), u = s.beginCmd a →
    (s.ready q slot 0x0102 a → s.runWaits a = false → tfind u.images (sqArg a.entry 0) = some img → v = u.clearErrors img.turf →
        tfind v.images (sqArg a.entry 0) = some img → img.ready = true →
        (v.queue a.q).turf = 0 ∨ (v.queue a.q).turf = img.turf → img.buckets.any (fun b => b.1 == sqArg a.entry 1) = false →
        exec (.runBatch q slot) s = .next (v.fail a stBadArg))

/-- A second FW_ACTIVATE and a staging write during an activation complete with BUSY (R390). -/
def Obligations.OneActivationAtATime : Prop :=
  ∀ (q : QueueIx) (slot : SlotIx) (s : State) (a : Accepted), s.acceptedAt q.val slot.val = some a →
      s.firm.activating ≠ none → a.started = false →
    (sqOpcode a.entry = 0x0901 → sqArg a.entry 0 = 1 → exec (.fwActivateHeartwood q slot) s = .next (s.fail a stBusy))
    ∧ (sqOpcode a.entry = 0x0901 → sqArg a.entry 0 = 2 → exec (.fwActivateCordwood q slot) s = .next (s.fail a stBusy))
    ∧ (∀ data : Option Bytes, sqOpcode a.entry = 0x0900 → sqArg a.entry 0 = 0 →
        exec (.fwUpdateStageWrite q slot data) s = .next (s.fail a stBusy))

/-- CFG_SWAP_DRAINED naming an atomically swapped set acts as CFG_SWAP with ARG1 0; a second drained swap is BUSY (R471). -/
def Obligations.DrainedSwapsOfAtomicSets : Prop :=
  ∀ (q : QueueIx) (slot : SlotIx) (s u : State) (a : Accepted), u = s.beginCmd a →
    (s.ready q slot 0x0402 a → 1 ≤ sqArg a.entry 0 → sqArg a.entry 0 ≤ 4 → u.cfgDenied a = false →
        exec (.cfgSwap q slot) s = .next (u.announceSwap a (sqArg a.entry 0) 0))
    ∧ (s.ready q slot 0x0401 a → 1 ≤ sqArg a.entry 0 → sqArg a.entry 0 ≤ 4 → u.cfgDenied a = false →
        exec (.cfgSwap q slot) s = .next (u.announceSwap a (sqArg a.entry 0) (sqArg a.entry 1)))
    ∧ (s.ready q slot 0x0402 a → sqArg a.entry 0 = 5 → u.cfgDenied a = false → u.routesOk = true → u.drain ≠ none →
        exec (.cfgSwapDrainedRouting q slot) s = .next (u.fail a stBusy))
    ∧ (s.ready q slot 0x0402 a → sqArg a.entry 0 = 8 → sqArg a.entry 1 = 0 → u.drain ≠ none →
        exec (.cfgSwapDrainedCalendar q slot) s = .next (u.fail a stBusy))

/-- After a reset scope that clears it, the Clamp source mask holds bit 2 only (R505). -/
def Obligations.ResetsLeaveTheSourceMask : Prop :=
  ∀ (s t : State) (mv : Nat),
    (∀ ok : Bool, exec (.coldReset ok mv) s = .next t → t.obs.clampMask = 4)
    ∧ (s.bu.vaux = true → exec (.moduleReset .rstN mv) s = .next t → t.obs.clampMask = 4)
    ∧ (s.bu.vaux = true → exec (.moduleReset .vinLow mv) s = .next t → t.obs.clampMask = 4)
    ∧ (s.bu.vaux = true → s.lorCompat = true → s.pw.gtcRunning = true →
        exec (.moduleReset .refclkLost mv) s = .next t → t.obs.clampMask = 4)

/-- A token post adds its amount; one that would pass 255 is not applied and stops the cell (R50, R52). -/
def Obligations.TokenPostsStopAt255 : Prop :=
  ∀ (s : State) (c k n : Nat),
    ((s.cell c).token k + n ≤ 255 → n ≠ 0 → ((s.post c k n).cell c).token k = (s.cell c).token k + n)
    ∧ (∀ j : Nat, (s.cell c).token k + n ≤ 255 → j ≠ k → ((s.post c k n).cell c).token j = (s.cell c).token j)
    ∧ (255 < (s.cell c).token k + n → n ≠ 0 → s.post c k n = s.cellFault c 0 4 true none)
    ∧ (255 < (s.cell c).token k + n → n ≠ 0 → s.faultBatch c = none → ((s.post c k n).cell c).token k = (s.cell c).token k
        ∧ ((s.post c k n).cell c).err.getLsbD 0 = true ∧ ((s.post c k n).cell c).issuing = false)
end

