-- ==== Sys2Proof/Laws/Bytes.lean ====
section
/-!
SUPPORT. Little-endian byte strings: a number written and read again, and the lengths of strings.
-/
namespace Sys2Proof.Machine

@[simp] theorem natLe_length (n v : Nat) : (natLe n v).length = n := by
  induction n generalizing v with
  | zero => rfl
  | succ n ih => simp [natLe, ih]

/-- Reading the n low bytes of a number gives the number modulo 256^n. -/
theorem leNat_natLe (n v : Nat) : leNat (natLe n v) = v % 256 ^ n := by
  induction n generalizing v with
  | zero => simp [natLe, leNat, Nat.mod_one]
  | succ n ih =>
    have h : v % (256 * 256 ^ n) = v % 256 + 256 * (v / 256 % 256 ^ n) := Nat.mod_mul
    rw [natLe, leNat, ih, BitVec.toNat_ofNat, show (256 : Nat) ^ (n + 1) = 256 * 256 ^ n from Nat.pow_succ', h]

/-- A field stands where it was written. -/
theorem leAt_field (pre post : Bytes) (n v : Nat) : leAt (pre ++ natLe n v ++ post) pre.length n = v % 256 ^ n := by
  have h : ((natLe n v) ++ post).take n = natLe n v := by
    rw [List.take_append_of_le_length (by simp), List.take_of_length_le (by simp)]
  rw [leAt, slice, List.append_assoc, List.drop_left, h, leNat_natLe]

@[simp] theorem padTo_length (n : Nat) (b : Bytes) : (padTo n b).length = n := by
  simp [padTo]

end Sys2Proof.Machine
end

