-- ==== Sys2Proof/Laws/Commands.lean ====
section
/-!
SUPPORT. The shared operations by which a command that may proceed is performed: an accepted command (R341), a Collier step (R114), an
entry of an access engine (R115).
-/
namespace Sys2Proof.Machine

/-- A ready command of the selected form is performed. -/
theorem State.withCmd_ready {s : State} {q slot opcode : Nat} {sel : BitVec 512 → Bool} {f : State → Accepted → State}
    {a : Accepted} (h : s.ready q slot opcode a) (hs : sel a.entry = true) :
    s.withCmd q slot opcode sel f = f (s.beginCmd a) a := by
  obtain ⟨h1, h2, h3⟩ := h
  simp [State.withCmd, h1, h2, h3, hs]

/-- A slot that holds no accepted command, or a command of another opcode or form, or one that may not start, leaves the state. -/
theorem State.withCmd_idle {s : State} {q slot opcode : Nat} {sel : BitVec 512 → Bool} {f : State → Accepted → State}
    (h : ∀ a, s.acceptedAt q slot = some a → (sqOpcode a.entry == opcode && sel a.entry && s.mayStart a) = false) :
    s.withCmd q slot opcode sel f = s := by
  unfold State.withCmd
  split
  · rfl
  · rename_i a ha
    rw [h a ha]
    rfl

/-- A step that may issue is issued. -/
theorem State.issue_ready {s : State} {c : Nat} {op : StepOp} {w : BitVec 256} {act : State → BitVec 256 → State}
    (h : s.stepReady c op w) : s.issue c op act = (act (s.beginIssue c op w) w).endIssue c := by
  obtain ⟨h1, h2, h3, h4, h5, h6, h7⟩ := h
  simp [State.issue, h1, h2, h3, h4, h5, h6, h7]

/-- An entry of which the next repeat may start is started. -/
theorem State.aeStart_ready {s : State} {c e kind : Nat} {w : BitVec 512} {act : State → BitVec 512 → Nat → Nat → State}
    (h : s.entryReady c e kind w) :
    s.aeStart c e kind act = act (s.beginEntry c e w) w ((s.cell c).ae e).rep ((s.cell c).ae e).nextId := by
  obtain ⟨h1, h2, h3, h4⟩ := h
  simp [State.aeStart, h1, h2, h3, h4]

/-- A step that the window accepts begins its action. -/
theorem State.runStep_open {s : State} {code : Nat} {v : Via} {act : State → State} (h : s.stepOpen code v) :
    s.runStep code v act = act (s.stepBegun code) := by
  obtain ⟨h1, h2, h3⟩ := h
  simp only [State.runStep, State.writeCmd, h1, h2, h3, false_and, if_false, Bool.true_or, if_true]
  rfl

/-- A message in its turn acts on the state that has taken its frame. -/
theorem State.onMessage_taken {s v : State} {l vc : Nat} {seq : Half} {act : State → State} (h : s.takesMessage l vc seq v) :
    s.onMessage l vc seq act = act v := by
  obtain ⟨hs, w, hw, rfl⟩ := h
  simp [State.onMessage, hs, hw]

end Sys2Proof.Machine
end

