-- ==== Sys2Proof/Laws/Frames.lean ====
section
/-!
SUPPORT. Commands that leave both memories as they are: none of them stores, and none places a completion or a notice.
-/
namespace Sys2Proof.Machine

set_option Elab.async false
set_option linter.all false

/-- Both memories stay. -/
structure MemKept (s t : State) : Prop where
  mem : t.mem = s.mem
  host : t.hostMem = s.hostMem

/-- Every next state an outcome answers has the memories. -/
structure MemKeptO (s : State) (o : Host.Outcome State Fault Refusal) : Prop where
  kept : ∀ t, o = .next t → MemKept s t

/-- Every state an operation that may fail answers has the memories. -/
structure MemKeptOpt (s : State) (o : Option State) : Prop where
  kept : ∀ t, o = some t → MemKept s t

theorem MemKept.refl (s : State) : MemKept s s := ⟨rfl, rfl⟩

theorem MemKept.mkU {s u : State}
    {bu : BringupSt} {pw : PowerSt} {regions : Tbl RegionSt} {groups : Tbl GroupSt} {phases : Tbl PhaseSt} {sensors
    : Tbl SensorSt} {cells : Tbl CellSt} {cds : Tbl CdSt} {ricksHeld : Bool} {arms : Tbl HeldArm} {syncLog : List
    SyncEvent} {marks : List Nat} {poison : List Nat} {siteWaits : List (Nat × Bytes × Bool)} {flaws : Tbl Nat}
    {ports : Tbl PortSt} {protHeld : List ProtWait} {seqNext : Tbl Nat} {seqRecs : Tbl SeqRec} {banks : Tbl BankSt}
    {selectors : Tbl Nat} {holds : HoldSt} {cals : Tbl CalSets} {sites : Tbl SiteSt} {siteGroups : Tbl (List Nat)}
    {allocs : List (Nat × Nat × Nat × Nat)} {fmus : Tbl FmuSt} {farOps : List FarOp} {links : Tbl LinkSt} {ops :
    List TomicOp} {arrivals : List Arriving} {tags : Tbl Nat} {atoms : List (Nat × Word × Packet)} {ces : Tbl CeSt}
    {fab : FabricSt} {pcie0 : PcieSt} {pcie1 : PcieSt} {queues : Tbl QueueSt} {accepted : List Accepted} {nextSeq :
    Nat} {lastServed : Option Nat} {batches : Tbl BatchSt} {batchEnds : Tbl Nat} {tuneAccepted : List Nat} {tuneGaps
    : List (Nat × Nat × Nat × Nat × Nat)} {cfg : Tbl CfgSet} {drain : Option Drain} {obs : ObsSt} {out : List Out}
    {pending : List Instr} {drawn : Nat} {ctrs : Tbl Ctr} {images : Tbl ImageSt} {firm : FirmSt}
    (h : MemKept s u) :
    MemKept s { u with
      pending := pending, drawn := drawn, ctrs := ctrs, images := images, firm := firm, bu := bu, pw := pw, regions
      := regions, groups := groups, phases := phases, sensors := sensors, cells := cells, cds := cds, ricksHeld :=
      ricksHeld, arms := arms, syncLog := syncLog, marks := marks, poison := poison, siteWaits := siteWaits, flaws
      := flaws, ports := ports, protHeld := protHeld, seqNext := seqNext, seqRecs := seqRecs, banks := banks,
      selectors := selectors, holds := holds, cals := cals, sites := sites, siteGroups := siteGroups, allocs :=
      allocs, fmus := fmus, farOps := farOps, links := links, ops := ops, arrivals := arrivals, tags := tags, atoms
      := atoms, ces := ces, fab := fab, pcie0 := pcie0, pcie1 := pcie1, queues := queues, accepted := accepted,
      nextSeq := nextSeq, lastServed := lastServed, batches := batches, batchEnds := batchEnds, tuneAccepted :=
      tuneAccepted, tuneGaps := tuneGaps, cfg := cfg, drain := drain, obs := obs, out := out } :=
  ⟨h.mem, h.host⟩

theorem MemKept.ite {s t u : State} {c : Prop} [Decidable c] (h : MemKept s t) (h' : MemKept s u) : MemKept s (if c then t else u) := by
  split <;> assumption

theorem MemKept.foldl {α : Type} {s u : State} {f : State → α → State} {l : List α} (h : MemKept s u)
    (hf : ∀ v a, MemKept s v → MemKept s (f v a)) : MemKept s (l.foldl f u) := by
  induction l generalizing u with
  | nil => exact h
  | cons a t ih => exact ih (hf _ _ h)

theorem MemKept.foldl_fst {α β : Type} {s : State} {u : State × β} {f : State × β → α → State × β} {l : List α} (h : MemKept s u.1)
    (hf : ∀ v a, MemKept s v.1 → MemKept s (f v a).1) : MemKept s (l.foldl f u).1 := by
  induction l generalizing u with
  | nil => exact h
  | cons a t ih => exact ih (hf _ _ h)

theorem MemKept.foldl_snd {α β : Type} {s : State} {u : β × State} {f : β × State → α → β × State} {l : List α} (h : MemKept s u.2)
    (hf : ∀ v a, MemKept s v.2 → MemKept s (f v a).2) : MemKept s (l.foldl f u).2 := by
  induction l generalizing u with
  | nil => exact h
  | cons a t ih => exact ih (hf _ _ h)

theorem MemKeptO.next {s t : State} (h : MemKept s t) : MemKeptO s (.next t) := by
  constructor; intro v e; injection e with e; exact e ▸ h

theorem MemKeptO.fault {s : State} (r : Fault) : MemKeptO s (.fault r) := by
  constructor; intro v e; cases e

theorem MemKeptO.ite {s : State} {c : Prop} [Decidable c] {a b : Host.Outcome State Fault Refusal} (h : MemKeptO s a) (h' : MemKeptO s b) :
    MemKeptO s (if c then a else b) := by split <;> assumption

theorem MemKeptOpt.some {s t : State} (h : MemKept s t) : MemKeptOpt s (Option.some t) := by
  constructor; intro v e; injection e with e; exact e ▸ h

theorem MemKeptOpt.none {s : State} : MemKeptOpt s Option.none := by
  constructor; intro v e; cases e

theorem MemKeptOpt.ite {s : State} {c : Prop} [Decidable c] {a b : Option State} (h : MemKeptOpt s a) (h' : MemKeptOpt s b) :
    MemKeptOpt s (if c then a else b) := by split <;> assumption

theorem State.modCell_memKept {s₀ s : State} (h : MemKept s₀ s) (c : Nat) (f : CellSt → CellSt) :
    MemKept s₀ (State.modCell s c f) := by
  unfold State.modCell
  repeat'
    first
      | with_reducible assumption
      | intro _
      | with_reducible apply MemKept.ite
      | extract_lets
      | split
      | (dsimp +zetaDelta only; split)
      | with_reducible apply MemKept.mkU

theorem State.modRegion_memKept {s₀ s : State} (h : MemKept s₀ s) (r : Nat) (f : RegionSt → RegionSt) :
    MemKept s₀ (State.modRegion s r f) := by
  unfold State.modRegion
  repeat'
    first
      | with_reducible assumption
      | intro _
      | with_reducible apply MemKept.ite
      | extract_lets
      | split
      | (dsimp +zetaDelta only; split)
      | with_reducible apply MemKept.mkU

theorem State.modGroup_memKept {s₀ s : State} (h : MemKept s₀ s) (g : Nat) (f : GroupSt → GroupSt) :
    MemKept s₀ (State.modGroup s g f) := by
  unfold State.modGroup
  repeat'
    first
      | with_reducible assumption
      | intro _
      | with_reducible apply MemKept.ite
      | extract_lets
      | split
      | (dsimp +zetaDelta only; split)
      | with_reducible apply MemKept.mkU

theorem State.modPhase_memKept {s₀ s : State} (h : MemKept s₀ s) (p : Nat) (f : PhaseSt → PhaseSt) :
    MemKept s₀ (State.modPhase s p f) := by
  unfold State.modPhase
  repeat'
    first
      | with_reducible assumption
      | intro _
      | with_reducible apply MemKept.ite
      | extract_lets
      | split
      | (dsimp +zetaDelta only; split)
      | with_reducible apply MemKept.mkU

theorem State.modSensor_memKept {s₀ s : State} (h : MemKept s₀ s) (n : Nat) (f : SensorSt → SensorSt) :
    MemKept s₀ (State.modSensor s n f) := by
  unfold State.modSensor
  repeat'
    first
      | with_reducible assumption
      | intro _
      | with_reducible apply MemKept.ite
      | extract_lets
      | split
      | (dsimp +zetaDelta only; split)
      | with_reducible apply MemKept.mkU

theorem State.modCd_memKept {s₀ s : State} (h : MemKept s₀ s) (n : Nat) (f : CdSt → CdSt) :
    MemKept s₀ (State.modCd s n f) := by
  unfold State.modCd
  repeat'
    first
      | with_reducible assumption
      | intro _
      | with_reducible apply MemKept.ite
      | extract_lets
      | split
      | (dsimp +zetaDelta only; split)
      | with_reducible apply MemKept.mkU

theorem State.modCtr_memKept {s₀ s : State} (h : MemKept s₀ s) (k : Nat) (f : Ctr → Ctr) :
    MemKept s₀ (State.modCtr s k f) := by
  unfold State.modCtr
  repeat'
    first
      | with_reducible assumption
      | intro _
      | with_reducible apply MemKept.ite
      | extract_lets
      | split
      | (dsimp +zetaDelta only; split)
      | with_reducible apply MemKept.mkU

theorem State.modPort_memKept {s₀ s : State} (h : MemKept s₀ s) (p : Nat) (f : PortSt → PortSt) :
    MemKept s₀ (State.modPort s p f) := by
  unfold State.modPort
  repeat'
    first
      | with_reducible assumption
      | intro _
      | with_reducible apply MemKept.ite
      | extract_lets
      | split
      | (dsimp +zetaDelta only; split)
      | with_reducible apply MemKept.mkU

theorem State.modBank_memKept {s₀ s : State} (h : MemKept s₀ s) (b : Nat) (f : BankSt → BankSt) :
    MemKept s₀ (State.modBank s b f) := by
  unfold State.modBank
  repeat'
    first
      | with_reducible assumption
      | intro _
      | with_reducible apply MemKept.ite
      | extract_lets
      | split
      | (dsimp +zetaDelta only; split)
      | with_reducible apply MemKept.mkU

theorem State.modSite_memKept {s₀ s : State} (h : MemKept s₀ s) (m : Nat) (f : SiteSt → SiteSt) :
    MemKept s₀ (State.modSite s m f) := by
  unfold State.modSite
  repeat'
    first
      | with_reducible assumption
      | intro _
      | with_reducible apply MemKept.ite
      | extract_lets
      | split
      | (dsimp +zetaDelta only; split)
      | with_reducible apply MemKept.mkU

theorem State.modFmu_memKept {s₀ s : State} (h : MemKept s₀ s) (n : Nat) (f : FmuSt → FmuSt) :
    MemKept s₀ (State.modFmu s n f) := by
  unfold State.modFmu
  repeat'
    first
      | with_reducible assumption
      | intro _
      | with_reducible apply MemKept.ite
      | extract_lets
      | split
      | (dsimp +zetaDelta only; split)
      | with_reducible apply MemKept.mkU

theorem State.modLink_memKept {s₀ s : State} (h : MemKept s₀ s) (l : Nat) (f : LinkSt → LinkSt) :
    MemKept s₀ (State.modLink s l f) := by
  unfold State.modLink
  repeat'
    first
      | with_reducible assumption
      | intro _
      | with_reducible apply MemKept.ite
      | extract_lets
      | split
      | (dsimp +zetaDelta only; split)
      | with_reducible apply MemKept.mkU

theorem State.modCe_memKept {s₀ s : State} (h : MemKept s₀ s) (n : Nat) (f : CeSt → CeSt) :
    MemKept s₀ (State.modCe s n f) := by
  unfold State.modCe
  repeat'
    first
      | with_reducible assumption
      | intro _
      | with_reducible apply MemKept.ite
      | extract_lets
      | split
      | (dsimp +zetaDelta only; split)
      | with_reducible apply MemKept.mkU

theorem State.modQueue_memKept {s₀ s : State} (h : MemKept s₀ s) (q : Nat) (f : QueueSt → QueueSt) :
    MemKept s₀ (State.modQueue s q f) := by
  unfold State.modQueue
  repeat'
    first
      | with_reducible assumption
      | intro _
      | with_reducible apply MemKept.ite
      | extract_lets
      | split
      | (dsimp +zetaDelta only; split)
      | with_reducible apply MemKept.mkU

theorem State.modPcie_memKept {s₀ s : State} (h : MemKept s₀ s) (p : Nat) (f : PcieSt → PcieSt) :
    MemKept s₀ (State.modPcie s p f) := by
  unfold State.modPcie
  repeat'
    first
      | with_reducible assumption
      | intro _
      | with_reducible apply MemKept.ite
      | extract_lets
      | split
      | (dsimp +zetaDelta only; split)
      | with_reducible apply MemKept.mkU

theorem State.modCset_memKept {s₀ s : State} (h : MemKept s₀ s) (k : Nat) (f : CfgSet → CfgSet) :
    MemKept s₀ (State.modCset s k f) := by
  unfold State.modCset
  repeat'
    first
      | with_reducible assumption
      | intro _
      | with_reducible apply MemKept.ite
      | extract_lets
      | split
      | (dsimp +zetaDelta only; split)
      | with_reducible apply MemKept.mkU

theorem State.modMc_memKept {s₀ s : State} (h : MemKept s₀ s) (n : Nat) (f : McSt → McSt) :
    MemKept s₀ (State.modMc s n f) := by
  unfold State.modMc
  repeat'
    first
      | with_reducible assumption
      | intro _
      | with_reducible apply MemKept.ite
      | extract_lets
      | split
      | (dsimp +zetaDelta only; split)
      | with_reducible apply MemKept.mkU

theorem State.emit_memKept {s₀ s : State} (h : MemKept s₀ s) (o : Out) :
    MemKept s₀ (State.emit s o) := by
  unfold State.emit
  repeat'
    first
      | with_reducible assumption
      | intro _
      | with_reducible apply MemKept.ite
      | extract_lets
      | split
      | (dsimp +zetaDelta only; split)
      | with_reducible apply MemKept.mkU

theorem State.draw_memKept {s₀ s : State} (h : MemKept s₀ s) :
    MemKept s₀ (State.draw s).2 := by
  unfold State.draw
  repeat'
    first
      | with_reducible assumption
      | intro _
      | with_reducible apply MemKept.ite
      | extract_lets
      | split
      | (dsimp +zetaDelta only; split)
      | with_reducible apply MemKept.mkU

theorem State.at__memKept {s₀ s : State} (h : MemKept s₀ s) (t : Nat) :
    MemKept s₀ (State.at_ s t) := by
  unfold State.at_
  repeat'
    first
      | with_reducible assumption
      | intro _
      | with_reducible apply MemKept.ite
      | extract_lets
      | split
      | (dsimp +zetaDelta only; split)
      | with_reducible apply MemKept.mkU

theorem State.bump_memKept {s₀ s : State} (h : MemKept s₀ s) (set : Nat) (unit : Nat) (index : Nat) (n : Nat) :
    MemKept s₀ (State.bump s set unit index n) := by
  unfold State.bump
  repeat'
    first
      | with_reducible assumption
      | intro _
      | with_reducible apply MemKept.ite
      | extract_lets
      | split
      | (dsimp +zetaDelta only; split)
      | with_reducible apply MemKept.mkU

theorem State.tally_memKept {s₀ s : State} (h : MemKept s₀ s) (k : Tally) (n : Nat) :
    MemKept s₀ (State.tally s k n) := by
  unfold State.tally
  repeat'
    first
      | with_reducible assumption
      | intro _
      | with_reducible apply MemKept.ite
      | extract_lets
      | split
      | (dsimp +zetaDelta only; split)
      | with_reducible apply MemKept.mkU

theorem State.crossing_memKept {s₀ s : State} (h : MemKept s₀ s) (set : Nat) (unit : Nat) (index : Nat) (turf : Nat) :
    MemKept s₀ (State.crossing s set unit index turf) := by
  unfold State.crossing
  repeat'
    first
      | with_reducible assumption
      | intro _
      | with_reducible apply MemKept.ite
      | with_reducible apply State.bump_memKept
      | extract_lets
      | split
      | (dsimp +zetaDelta only; split)
      | with_reducible apply MemKept.mkU

theorem State.countUnmapped_memKept {s₀ s : State} (h : MemKept s₀ s) (addr : Nat) :
    MemKept s₀ (State.countUnmapped s addr) := by
  unfold State.countUnmapped
  repeat'
    first
      | with_reducible assumption
      | intro _
      | with_reducible apply MemKept.ite
      | with_reducible apply State.tally_memKept
      | extract_lets
      | split
      | (dsimp +zetaDelta only; split)
      | with_reducible apply MemKept.mkU

theorem State.countRefusal_memKept {s₀ s : State} (h : MemKept s₀ s) (l : Loc) (turf : Nat) :
    MemKept s₀ (State.countRefusal s l turf) := by
  unfold State.countRefusal
  repeat'
    first
      | with_reducible assumption
      | intro _
      | with_reducible apply MemKept.ite
      | with_reducible apply State.crossing_memKept
      | extract_lets
      | split
      | (dsimp +zetaDelta only; split)
      | with_reducible apply MemKept.mkU

theorem State.notice_memKept {s₀ s : State} (h : MemKept s₀ s) (q : Nat) (prio : Nat) (code : Nat) (words : List (BitVec 128)) :
    MemKept s₀ (State.notice s q prio code words) := by
  unfold State.notice
  repeat'
    first
      | with_reducible assumption
      | intro _
      | with_reducible apply MemKept.ite
      | with_reducible apply State.modQueue_memKept
      | extract_lets
      | split
      | (dsimp +zetaDelta only; split)
      | with_reducible apply MemKept.mkU

theorem State.noticeTurf_memKept {s₀ s : State} (h : MemKept s₀ s) (t : Nat) (prio : Nat) (code : Nat) (words : List (BitVec 128)) :
    MemKept s₀ (State.noticeTurf s t prio code words) := by
  unfold State.noticeTurf
  repeat'
    first
      | with_reducible assumption
      | intro _
      | with_reducible apply MemKept.ite
      | with_reducible apply State.notice_memKept
      | with_reducible apply MemKept.foldl
      | with_reducible apply MemKept.foldl_fst
      | with_reducible apply MemKept.foldl_snd
      | extract_lets
      | split
      | (dsimp +zetaDelta only; split)
      | with_reducible apply MemKept.mkU

theorem State.touch_memKept {s₀ s : State} (h : MemKept s₀ s) (m : Nat) :
    MemKept s₀ (State.touch s m) := by
  unfold State.touch
  repeat'
    first
      | with_reducible assumption
      | intro _
      | with_reducible apply MemKept.ite
      | with_reducible apply State.modSite_memKept
      | extract_lets
      | split
      | (dsimp +zetaDelta only; split)
      | with_reducible apply MemKept.mkU

theorem State.queueDyn_memKept {s₀ s : State} (h : MemKept s₀ s) (port : Nat) (dst : Nat) (turf : Nat) (vc : Nat) (p : Packet) :
    MemKept s₀ (State.queueDyn s port dst turf vc p) := by
  unfold State.queueDyn
  repeat'
    first
      | with_reducible assumption
      | intro _
      | with_reducible apply MemKept.ite
      | with_reducible apply State.modPort_memKept
      | extract_lets
      | split
      | (dsimp +zetaDelta only; split)
      | with_reducible apply MemKept.mkU

theorem State.takeTag_memKept {s₀ s : State} (h : MemKept s₀ s) (unit : Nat) :
    MemKept s₀ (State.takeTag s unit).2 := by
  unfold State.takeTag
  repeat'
    first
      | with_reducible assumption
      | intro _
      | with_reducible apply MemKept.ite
      | extract_lets
      | split
      | (dsimp +zetaDelta only; split)
      | with_reducible apply MemKept.mkU

theorem State.takeWindow_memKept {s₀ s : State} (h : MemKept s₀ s) (ep : Nat) (n : Nat) :
    MemKept s₀ (State.takeWindow s ep n) := by
  unfold State.takeWindow
  repeat'
    first
      | with_reducible assumption
      | intro _
      | with_reducible apply MemKept.ite
      | extract_lets
      | split
      | (dsimp +zetaDelta only; split)
      | with_reducible apply MemKept.mkU

theorem State.issueOp_memKept {s₀ s : State} (h : MemKept s₀ s) (unit : Nat) (turf : Nat) (opcode : Nat) (otype : Nat) (flags : Nat) (len : Nat) (addr : DWord) (operand : BitVec 128) (ext : Option (BitVec 128)) (data : Bytes) (poison : Bool) (purpose : Nat) (extra : Nat) :
    MemKept s₀ (State.issueOp s unit turf opcode otype flags len addr operand ext data poison purpose extra).1 := by
  unfold State.issueOp
  repeat'
    first
      | with_reducible assumption
      | intro _
      | with_reducible apply MemKept.ite
      | with_reducible apply State.takeTag_memKept
      | with_reducible apply State.queueDyn_memKept
      | with_reducible apply State.takeWindow_memKept
      | extract_lets
      | split
      | (dsimp +zetaDelta only; split)
      | with_reducible apply MemKept.mkU

theorem State.queueProtected_memKept {s₀ s : State} (h : MemKept s₀ s) (oep : Nat) (ptype : Nat) (dest : Nat) (arg : Nat) (addr : DWord) :
    MemKept s₀ (State.queueProtected s oep ptype dest arg addr) := by
  unfold State.queueProtected
  repeat'
    first
      | with_reducible assumption
      | intro _
      | with_reducible apply MemKept.ite
      | with_reducible apply State.modPort_memKept
      | extract_lets
      | split
      | (dsimp +zetaDelta only; split)
      | with_reducible apply MemKept.mkU

theorem State.sendProtected_memKept {s₀ s : State} (h : MemKept s₀ s) (oep : Nat) (ptype : Nat) (dest : Nat) (arg : Nat) (addr : DWord) :
    MemKept s₀ (State.sendProtected s oep ptype dest arg addr) := by
  unfold State.sendProtected
  repeat'
    first
      | with_reducible assumption
      | intro _
      | with_reducible apply MemKept.ite
      | with_reducible apply State.queueProtected_memKept
      | extract_lets
      | split
      | (dsimp +zetaDelta only; split)
      | with_reducible apply MemKept.mkU

theorem State.pumpProtected_memKept {s₀ s : State} (h : MemKept s₀ s) :
    MemKept s₀ (State.pumpProtected s) := by
  unfold State.pumpProtected
  repeat'
    first
      | with_reducible assumption
      | intro _
      | with_reducible apply MemKept.ite
      | with_reducible apply State.sendProtected_memKept
      | with_reducible apply MemKept.foldl
      | with_reducible apply MemKept.foldl_fst
      | with_reducible apply MemKept.foldl_snd
      | extract_lets
      | split
      | (dsimp +zetaDelta only; split)
      | with_reducible apply MemKept.mkU

theorem State.announceAll_memKept {s₀ s : State} (h : MemKept s₀ s) (ptype : Nat) (arg : Nat) (addr : DWord) :
    MemKept s₀ (State.announceAll s ptype arg addr) := by
  unfold State.announceAll
  repeat'
    first
      | with_reducible assumption
      | intro _
      | with_reducible apply MemKept.ite
      | with_reducible apply State.sendProtected_memKept
      | with_reducible apply MemKept.foldl
      | with_reducible apply MemKept.foldl_fst
      | with_reducible apply MemKept.foldl_snd
      | extract_lets
      | split
      | (dsimp +zetaDelta only; split)
      | with_reducible apply MemKept.mkU

theorem State.msix_memKept {s₀ s : State} (h : MemKept s₀ s) (port : Nat) (vector : Nat) :
    MemKept s₀ (State.msix s port vector) := by
  unfold State.msix
  repeat'
    first
      | with_reducible assumption
      | intro _
      | with_reducible apply MemKept.ite
      | with_reducible apply State.modPcie_memKept
      | with_reducible apply State.emit_memKept
      | extract_lets
      | split
      | (dsimp +zetaDelta only; split)
      | with_reducible apply MemKept.mkU

theorem State.queueError_memKept {s₀ s : State} (h : MemKept s₀ s) (q : Nat) (cause : Nat) :
    MemKept s₀ (State.queueError s q cause) := by
  unfold State.queueError
  repeat'
    first
      | with_reducible assumption
      | intro _
      | with_reducible apply MemKept.ite
      | with_reducible apply State.modQueue_memKept
      | extract_lets
      | split
      | (dsimp +zetaDelta only; split)
      | with_reducible apply MemKept.mkU

theorem State.renewQueue_memKept {s₀ s : State} (h : MemKept s₀ s) (q : Nat) :
    MemKept s₀ (State.renewQueue s q) := by
  unfold State.renewQueue
  repeat'
    first
      | with_reducible assumption
      | intro _
      | with_reducible apply MemKept.ite
      | with_reducible apply State.modQueue_memKept
      | with_reducible apply State.modCtr_memKept
      | with_reducible apply MemKept.foldl
      | with_reducible apply MemKept.foldl_fst
      | with_reducible apply MemKept.foldl_snd
      | extract_lets
      | split
      | (dsimp +zetaDelta only; split)
      | with_reducible apply MemKept.mkU

theorem State.answer_memKept {s₀ s : State} (h : MemKept s₀ s) (turf : Nat) (p : Packet) (opcode : Nat) (status : Nat) (flags : Nat) (len : Nat) (operand : BitVec 128) (data : Bytes) (poison : Bool) :
    MemKept s₀ (State.answer s turf p opcode status flags len operand data poison) := by
  unfold State.answer
  repeat'
    first
      | with_reducible assumption
      | intro _
      | with_reducible apply MemKept.ite
      | with_reducible apply State.queueDyn_memKept
      | extract_lets
      | split
      | (dsimp +zetaDelta only; split)
      | with_reducible apply MemKept.mkU

theorem State.nackReq_memKept {s₀ s : State} (h : MemKept s₀ s) (turf : Nat) (p : Packet) (status : Nat) :
    MemKept s₀ (State.nackReq s turf p status) := by
  unfold State.nackReq
  repeat'
    first
      | with_reducible assumption
      | intro _
      | with_reducible apply MemKept.ite
      | with_reducible apply State.answer_memKept
      | extract_lets
      | split
      | (dsimp +zetaDelta only; split)
      | with_reducible apply MemKept.mkU

theorem State.ackReq_memKept {s₀ s : State} (h : MemKept s₀ s) (turf : Nat) (p : Packet) (status : Nat) (flags : Nat) (operand : BitVec 128) :
    MemKept s₀ (State.ackReq s turf p status flags operand) := by
  unfold State.ackReq
  repeat'
    first
      | with_reducible assumption
      | intro _
      | with_reducible apply MemKept.ite
      | with_reducible apply State.answer_memKept
      | extract_lets
      | split
      | (dsimp +zetaDelta only; split)
      | with_reducible apply MemKept.mkU

theorem State.dataReq_memKept {s₀ s : State} (h : MemKept s₀ s) (turf : Nat) (p : Packet) (data : Bytes) (poison : Bool) :
    MemKept s₀ (State.dataReq s turf p data poison) := by
  unfold State.dataReq
  repeat'
    first
      | with_reducible assumption
      | intro _
      | with_reducible apply MemKept.ite
      | with_reducible apply State.answer_memKept
      | extract_lets
      | split
      | (dsimp +zetaDelta only; split)
      | with_reducible apply MemKept.mkU

theorem State.notice0_memKept {s₀ s : State} (h : MemKept s₀ s) (prio : Nat) (code : Nat) (words : List (BitVec 128)) :
    MemKept s₀ (State.notice0 s prio code words) := by
  unfold State.notice0
  repeat'
    first
      | with_reducible assumption
      | intro _
      | with_reducible apply MemKept.ite
      | with_reducible apply State.noticeTurf_memKept
      | extract_lets
      | split
      | (dsimp +zetaDelta only; split)
      | with_reducible apply MemKept.mkU

theorem State.addDefect_memKept {s₀ s : State} (h : MemKept s₀ s) (kind : Nat) (origin : Nat) (unit : Nat) (detail : Word) (action : Nat) :
    MemKept s₀ (State.addDefect s kind origin unit detail action) := by
  unfold State.addDefect
  repeat'
    first
      | with_reducible assumption
      | intro _
      | with_reducible apply MemKept.ite
      | with_reducible apply State.notice0_memKept
      | extract_lets
      | split
      | (dsimp +zetaDelta only; split)
      | with_reducible apply MemKept.mkU

theorem State.addWear_memKept {s₀ s : State} (h : MemKept s₀ s) (rkind : Nat) (unit : Nat) (value : Word) (detail : Word) :
    MemKept s₀ (State.addWear s rkind unit value detail) := by
  unfold State.addWear
  repeat'
    first
      | with_reducible assumption
      | intro _
      | with_reducible apply MemKept.ite
      | extract_lets
      | split
      | (dsimp +zetaDelta only; split)
      | with_reducible apply MemKept.mkU

theorem State.faultNotice_memKept {s₀ s : State} (h : MemKept s₀ s) (kind : Nat) (action : Nat) (unit : Nat) (detail : Word) (cls : Nat) :
    MemKept s₀ (State.faultNotice s kind action unit detail cls) := by
  unfold State.faultNotice
  repeat'
    first
      | with_reducible assumption
      | intro _
      | with_reducible apply MemKept.ite
      | with_reducible apply State.notice0_memKept
      | extract_lets
      | split
      | (dsimp +zetaDelta only; split)
      | with_reducible apply MemKept.mkU

theorem State.faultActed_memKept {s₀ s : State} (h : MemKept s₀ s) (kind : Nat) (origin : Nat) (action : Nat) (unit : Nat) (detail : Word) (cls : Nat) :
    MemKept s₀ (State.faultActed s kind origin action unit detail cls) := by
  unfold State.faultActed
  repeat'
    first
      | with_reducible assumption
      | intro _
      | with_reducible apply MemKept.ite
      | with_reducible apply State.addDefect_memKept
      | with_reducible apply State.faultNotice_memKept
      | extract_lets
      | split
      | (dsimp +zetaDelta only; split)
      | with_reducible apply MemKept.mkU

theorem State.spareLow_memKept {s₀ s : State} (h : MemKept s₀ s) (kind : Nat) :
    MemKept s₀ (State.spareLow s kind) := by
  unfold State.spareLow
  repeat'
    first
      | with_reducible assumption
      | intro _
      | with_reducible apply MemKept.ite
      | with_reducible apply State.notice0_memKept
      | extract_lets
      | split
      | (dsimp +zetaDelta only; split)
      | with_reducible apply MemKept.mkU

theorem State.markLow_memKept {s₀ s : State} (h : MemKept s₀ s) (kind : Nat) :
    MemKept s₀ (State.markLow s kind) := by
  unfold State.markLow
  repeat'
    first
      | with_reducible assumption
      | intro _
      | with_reducible apply MemKept.ite
      | extract_lets
      | split
      | (dsimp +zetaDelta only; split)
      | with_reducible apply MemKept.mkU

theorem State.checkProj_memKept {s₀ s : State} (h : MemKept s₀ s) (kind : Nat) :
    MemKept s₀ (State.checkProj s kind) := by
  unfold State.checkProj
  repeat'
    first
      | with_reducible assumption
      | intro _
      | with_reducible apply MemKept.ite
      | with_reducible apply State.markLow_memKept
      | with_reducible apply State.spareLow_memKept
      | extract_lets
      | split
      | (dsimp +zetaDelta only; split)
      | with_reducible apply MemKept.mkU

theorem State.takeSpare_memKept {s₀ s : State} (h : MemKept s₀ s) (kind : Nat) (pool : Nat) (unit : Nat) (origin : Nat) :
    MemKept s₀ (State.takeSpare s kind pool unit origin) := by
  unfold State.takeSpare
  repeat'
    first
      | with_reducible assumption
      | intro _
      | with_reducible apply MemKept.ite
      | with_reducible apply State.addWear_memKept
      | with_reducible apply State.markLow_memKept
      | with_reducible apply State.spareLow_memKept
      | with_reducible apply State.checkProj_memKept
      | extract_lets
      | split
      | (dsimp +zetaDelta only; split)
      | with_reducible apply MemKept.mkU

theorem State.announceClamp_memKept {s₀ s : State} (h : MemKept s₀ s) (count : Nat) :
    MemKept s₀ (State.announceClamp s count) := by
  unfold State.announceClamp
  repeat'
    first
      | with_reducible assumption
      | intro _
      | with_reducible apply MemKept.ite
      | extract_lets
      | split
      | (dsimp +zetaDelta only; split)
      | with_reducible apply MemKept.mkU

theorem State.requestH_memKept {s₀ s : State} (h : MemKept s₀ s) (count : Nat) :
    MemKept s₀ (State.requestH s count) := by
  unfold State.requestH
  repeat'
    first
      | with_reducible assumption
      | intro _
      | with_reducible apply MemKept.ite
      | extract_lets
      | split
      | (dsimp +zetaDelta only; split)
      | with_reducible apply MemKept.mkU

theorem State.modWear_memKept {s₀ s : State} (h : MemKept s₀ s) (c : Nat) (f : CellWear → CellWear) :
    MemKept s₀ (State.modWear s c f) := by
  unfold State.modWear
  repeat'
    first
      | with_reducible assumption
      | intro _
      | with_reducible apply MemKept.ite
      | extract_lets
      | split
      | (dsimp +zetaDelta only; split)
      | with_reducible apply MemKept.mkU

theorem State.siteDegraded_memKept {s₀ s : State} (h : MemKept s₀ s) (m : Nat) (phys : Nat) :
    MemKept s₀ (State.siteDegraded s m phys) := by
  unfold State.siteDegraded
  repeat'
    first
      | with_reducible assumption
      | intro _
      | with_reducible apply MemKept.ite
      | with_reducible apply State.modSite_memKept
      | with_reducible apply State.faultNotice_memKept
      | with_reducible apply State.noticeTurf_memKept
      | with_reducible apply State.notice0_memKept
      | with_reducible apply MemKept.foldl
      | with_reducible apply MemKept.foldl_fst
      | with_reducible apply MemKept.foldl_snd
      | extract_lets
      | split
      | (dsimp +zetaDelta only; split)
      | with_reducible apply MemKept.mkU

theorem State.migrate_memKept {s₀ s : State} (h : MemKept s₀ s) (m : Nat) (pc : Nat) :
    MemKept s₀ (State.migrate s m pc) := by
  unfold State.migrate
  repeat'
    first
      | with_reducible assumption
      | intro _
      | with_reducible apply MemKept.ite
      | with_reducible apply State.modSite_memKept
      | with_reducible apply State.siteDegraded_memKept
      | with_reducible apply State.takeSpare_memKept
      | extract_lets
      | split
      | (dsimp +zetaDelta only; split)
      | with_reducible apply MemKept.mkU

theorem State.siteCorrected_memKept {s₀ s : State} (h : MemKept s₀ s) (m : Nat) (off : Nat) :
    MemKept s₀ (State.siteCorrected s m off) := by
  unfold State.siteCorrected
  repeat'
    first
      | with_reducible assumption
      | intro _
      | with_reducible apply MemKept.ite
      | with_reducible apply State.modSite_memKept
      | with_reducible apply State.bump_memKept
      | with_reducible apply State.migrate_memKept
      | extract_lets
      | split
      | (dsimp +zetaDelta only; split)
      | with_reducible apply MemKept.mkU

theorem State.siteUncorrectable_memKept {s₀ s : State} (h : MemKept s₀ s) (m : Nat) (off : Nat) :
    MemKept s₀ (State.siteUncorrectable s m off) := by
  unfold State.siteUncorrectable
  repeat'
    first
      | with_reducible assumption
      | intro _
      | with_reducible apply MemKept.ite
      | with_reducible apply State.modSite_memKept
      | with_reducible apply State.bump_memKept
      | extract_lets
      | split
      | (dsimp +zetaDelta only; split)
      | with_reducible apply MemKept.mkU

theorem State.eccGranule_memKept {s₀ s : State} (h : MemKept s₀ s) (m : Nat) (halves : List Nat) :
    MemKept s₀ (State.eccGranule s m halves) := by
  unfold State.eccGranule
  repeat'
    first
      | with_reducible assumption
      | intro _
      | with_reducible apply MemKept.ite
      | with_reducible apply State.siteCorrected_memKept
      | with_reducible apply State.siteUncorrectable_memKept
      | with_reducible apply MemKept.foldl
      | with_reducible apply MemKept.foldl_fst
      | with_reducible apply MemKept.foldl_snd
      | extract_lets
      | split
      | (dsimp +zetaDelta only; split)
      | with_reducible apply MemKept.mkU

theorem State.eccRead_memKept {s₀ s : State} (h : MemKept s₀ s) (m : Nat) (off : Nat) (n : Nat) :
    MemKept s₀ (State.eccRead s m off n) := by
  unfold State.eccRead
  repeat'
    first
      | with_reducible assumption
      | intro _
      | with_reducible apply MemKept.ite
      | with_reducible apply State.eccGranule_memKept
      | with_reducible apply MemKept.foldl
      | with_reducible apply MemKept.foldl_fst
      | with_reducible apply MemKept.foldl_snd
      | extract_lets
      | split
      | (dsimp +zetaDelta only; split)
      | with_reducible apply MemKept.mkU

theorem State.meetSite_memKept {s₀ s : State} (h : MemKept s₀ s) (m : Nat) (off : Nat) (n : Nat) :
    MemKept s₀ (State.meetSite s m off n) := by
  unfold State.meetSite
  repeat'
    first
      | with_reducible assumption
      | intro _
      | with_reducible apply MemKept.ite
      | with_reducible apply State.touch_memKept
      | with_reducible apply State.eccRead_memKept
      | extract_lets
      | split
      | (dsimp +zetaDelta only; split)
      | with_reducible apply MemKept.mkU

theorem State.replaceRow_memKept {s₀ s : State} (h : MemKept s₀ s) (m : Nat) (pc : Nat) (bank : Nat) (row : Nat) :
    MemKept s₀ (State.replaceRow s m pc bank row) := by
  unfold State.replaceRow
  repeat'
    first
      | with_reducible assumption
      | intro _
      | with_reducible apply MemKept.ite
      | with_reducible apply State.modSite_memKept
      | with_reducible apply State.takeSpare_memKept
      | with_reducible apply State.migrate_memKept
      | extract_lets
      | split
      | (dsimp +zetaDelta only; split)
      | with_reducible apply MemKept.mkU

theorem State.meetRange_memKept {s₀ s : State} (h : MemKept s₀ s) (addr : Nat) (len : Nat) :
    MemKept s₀ (State.meetRange s addr len) := by
  unfold State.meetRange
  repeat'
    first
      | with_reducible assumption
      | intro _
      | with_reducible apply MemKept.ite
      | with_reducible apply State.meetSite_memKept
      | with_reducible apply MemKept.foldl
      | with_reducible apply MemKept.foldl_fst
      | with_reducible apply MemKept.foldl_snd
      | extract_lets
      | split
      | (dsimp +zetaDelta only; split)
      | with_reducible apply MemKept.mkU

theorem State.meetIn_memKept {s₀ s : State} (h : MemKept s₀ s) (host : Bool) (addr : Nat) (len : Nat) :
    MemKept s₀ (State.meetIn s host addr len) := by
  unfold State.meetIn
  repeat'
    first
      | with_reducible assumption
      | intro _
      | with_reducible apply MemKept.ite
      | with_reducible apply State.meetRange_memKept
      | extract_lets
      | split
      | (dsimp +zetaDelta only; split)
      | with_reducible apply MemKept.mkU

theorem State.doorbellIgnored_memKept {s₀ s : State} (h : MemKept s₀ s) (q : Nat) :
    MemKept s₀ (State.doorbellIgnored s q) := by
  unfold State.doorbellIgnored
  repeat'
    first
      | with_reducible assumption
      | intro _
      | with_reducible apply MemKept.ite
      | with_reducible apply State.modQueue_memKept
      | extract_lets
      | split
      | (dsimp +zetaDelta only; split)
      | with_reducible apply MemKept.mkU

theorem execSqTailWrite_memKept {s₀ s : State} (h : MemKept s₀ s) (q : QueueIx) (p : PcieIx) (value : DWord) :
    MemKeptO s₀ (execSqTailWrite q p value s) := by
  unfold execSqTailWrite
  repeat'
    first
      | with_reducible assumption
      | intro _
      | with_reducible apply MemKeptO.next
      | exact MemKeptO.fault _
      | with_reducible apply MemKeptOpt.some
      | exact MemKeptOpt.none
      | with_reducible apply MemKeptO.ite
      | with_reducible apply MemKeptOpt.ite
      | with_reducible apply MemKept.ite
      | with_reducible apply State.doorbellIgnored_memKept
      | with_reducible apply State.renewQueue_memKept
      | with_reducible apply State.queueError_memKept
      | with_reducible apply State.modQueue_memKept
      | extract_lets
      | split
      | (dsimp +zetaDelta only; split)
      | with_reducible apply MemKept.mkU

theorem execCqHeadWrite_memKept {s₀ s : State} (h : MemKept s₀ s) (q : QueueIx) (p : PcieIx) (value : DWord) :
    MemKeptO s₀ (execCqHeadWrite q p value s) := by
  unfold execCqHeadWrite
  repeat'
    first
      | with_reducible assumption
      | intro _
      | with_reducible apply MemKeptO.next
      | exact MemKeptO.fault _
      | with_reducible apply MemKeptOpt.some
      | exact MemKeptOpt.none
      | with_reducible apply MemKeptO.ite
      | with_reducible apply MemKeptOpt.ite
      | with_reducible apply MemKept.ite
      | with_reducible apply State.doorbellIgnored_memKept
      | with_reducible apply State.renewQueue_memKept
      | with_reducible apply State.queueError_memKept
      | with_reducible apply State.modQueue_memKept
      | extract_lets
      | split
      | (dsimp +zetaDelta only; split)
      | with_reducible apply MemKept.mkU

theorem execPcieLinkUp_memKept {s₀ s : State} (h : MemKept s₀ s) (p : PcieIx) :
    MemKeptO s₀ (execPcieLinkUp p s) := by
  unfold execPcieLinkUp
  repeat'
    first
      | with_reducible assumption
      | intro _
      | with_reducible apply MemKeptO.next
      | exact MemKeptO.fault _
      | with_reducible apply MemKeptOpt.some
      | exact MemKeptOpt.none
      | with_reducible apply MemKeptO.ite
      | with_reducible apply MemKeptOpt.ite
      | with_reducible apply MemKept.ite
      | with_reducible apply State.modPcie_memKept
      | extract_lets
      | split
      | (dsimp +zetaDelta only; split)
      | with_reducible apply MemKept.mkU

theorem State.apertureError_memKept {s₀ s : State} (h : MemKept s₀ s) (p : Nat) :
    MemKept s₀ (State.apertureError s p) := by
  unfold State.apertureError
  repeat'
    first
      | with_reducible assumption
      | intro _
      | with_reducible apply MemKept.ite
      | with_reducible apply State.modPcie_memKept
      | extract_lets
      | split
      | (dsimp +zetaDelta only; split)
      | with_reducible apply MemKept.mkU

theorem execApertureWrite_memKept {s₀ s : State} (h : MemKept s₀ s) (p : PcieIx) (offset : Fin 68719476736) (data : Bytes) :
    MemKeptO s₀ (execApertureWrite p offset data s) := by
  unfold execApertureWrite
  repeat'
    first
      | with_reducible assumption
      | intro _
      | with_reducible apply MemKeptO.next
      | exact MemKeptO.fault _
      | with_reducible apply MemKeptOpt.some
      | exact MemKeptOpt.none
      | with_reducible apply MemKeptO.ite
      | with_reducible apply MemKeptOpt.ite
      | with_reducible apply MemKept.ite
      | with_reducible apply State.apertureError_memKept
      | with_reducible apply State.issueOp_memKept
      | with_reducible apply MemKept.foldl
      | with_reducible apply MemKept.foldl_fst
      | with_reducible apply MemKept.foldl_snd
      | extract_lets
      | split
      | (dsimp +zetaDelta only; split)
      | with_reducible apply MemKept.mkU

theorem State.answerReads_memKept {s₀ s : State} (h : MemKept s₀ s) (p : Nat) :
    MemKept s₀ (State.answerReads s p) := by
  unfold State.answerReads
  repeat'
    first
      | with_reducible assumption
      | intro _
      | with_reducible apply MemKept.ite
      | with_reducible apply State.modPcie_memKept
      | with_reducible apply State.emit_memKept
      | with_reducible apply MemKept.foldl
      | with_reducible apply MemKept.foldl_fst
      | with_reducible apply MemKept.foldl_snd
      | extract_lets
      | split
      | (dsimp +zetaDelta only; split)
      | with_reducible apply MemKept.mkU

theorem execApertureRead_memKept {s₀ s : State} (h : MemKept s₀ s) (p : PcieIx) (offset : Fin 68719476736) (len : Fin 4097) :
    MemKeptO s₀ (execApertureRead p offset len s) := by
  unfold execApertureRead
  repeat'
    first
      | with_reducible assumption
      | intro _
      | with_reducible apply MemKeptO.next
      | exact MemKeptO.fault _
      | with_reducible apply MemKeptOpt.some
      | exact MemKeptOpt.none
      | with_reducible apply MemKeptO.ite
      | with_reducible apply MemKeptOpt.ite
      | with_reducible apply MemKept.ite
      | with_reducible apply State.apertureError_memKept
      | with_reducible apply State.emit_memKept
      | with_reducible apply State.issueOp_memKept
      | with_reducible apply State.modPcie_memKept
      | with_reducible apply State.answerReads_memKept
      | with_reducible apply MemKept.foldl
      | with_reducible apply MemKept.foldl_fst
      | with_reducible apply MemKept.foldl_snd
      | extract_lets
      | split
      | (dsimp +zetaDelta only; split)
      | with_reducible apply MemKept.mkU

theorem State.msixWrite_memKept {s₀ s : State} (h : MemKept s₀ s) (p : Nat) (offset : Nat) (value : DWord) :
    MemKept s₀ (State.msixWrite s p offset value) := by
  unfold State.msixWrite
  repeat'
    first
      | with_reducible assumption
      | intro _
      | with_reducible apply MemKept.ite
      | with_reducible apply State.msix_memKept
      | with_reducible apply State.modPcie_memKept
      | with_reducible apply State.emit_memKept
      | extract_lets
      | split
      | (dsimp +zetaDelta only; split)
      | with_reducible apply MemKept.mkU

theorem State.cellCtlWrite_memKept {s₀ s : State} (h : MemKept s₀ s) (c : Nat) (offset : Nat) (value : DWord) :
    MemKept s₀ (State.cellCtlWrite s c offset value) := by
  unfold State.cellCtlWrite
  repeat'
    first
      | with_reducible assumption
      | intro _
      | with_reducible apply MemKept.ite
      | with_reducible apply State.modCell_memKept
      | extract_lets
      | split
      | (dsimp +zetaDelta only; split)
      | with_reducible apply MemKept.mkU

theorem execRegisterWrite_memKept {s₀ s : State} (h : MemKept s₀ s) (r : RegRef) (value : DWord) :
    MemKeptO s₀ (execRegisterWrite r value s) := by
  unfold execRegisterWrite
  repeat'
    first
      | with_reducible assumption
      | intro _
      | with_reducible apply MemKeptO.next
      | exact MemKeptO.fault _
      | with_reducible apply MemKeptOpt.some
      | exact MemKeptOpt.none
      | with_reducible apply MemKeptO.ite
      | with_reducible apply MemKeptOpt.ite
      | with_reducible apply MemKept.ite
      | with_reducible apply State.msixWrite_memKept
      | with_reducible apply State.cellCtlWrite_memKept
      | extract_lets
      | split
      | (dsimp +zetaDelta only; split)
      | with_reducible apply MemKept.mkU

theorem State.considerSwitch_memKept {s₀ s : State} (h : MemKept s₀ s) (notBefore : Nat) :
    MemKept s₀ (State.considerSwitch s notBefore) := by
  unfold State.considerSwitch
  repeat'
    first
      | with_reducible assumption
      | intro _
      | with_reducible apply MemKept.ite
      | extract_lets
      | split
      | (dsimp +zetaDelta only; split)
      | with_reducible apply MemKept.mkU

theorem State.ceilingNotice_memKept {s₀ s : State} (h : MemKept s₀ s) (causeBit : Nat) (region : Nat) :
    MemKept s₀ (State.ceilingNotice s causeBit region) := by
  unfold State.ceilingNotice
  repeat'
    first
      | with_reducible assumption
      | intro _
      | with_reducible apply MemKept.ite
      | with_reducible apply State.notice0_memKept
      | extract_lets
      | split
      | (dsimp +zetaDelta only; split)
      | with_reducible apply MemKept.mkU

theorem State.raisePower_memKept {s₀ s : State} (h : MemKept s₀ s) (n : Nat) :
    MemKept s₀ (State.raisePower s n) := by
  unfold State.raisePower
  repeat'
    first
      | with_reducible assumption
      | intro _
      | with_reducible apply MemKept.ite
      | with_reducible apply State.ceilingNotice_memKept
      | with_reducible apply State.considerSwitch_memKept
      | extract_lets
      | split
      | (dsimp +zetaDelta only; split)
      | with_reducible apply MemKept.mkU

theorem State.lowerPower_memKept {s₀ s : State} (h : MemKept s₀ s) :
    MemKept s₀ (State.lowerPower s) := by
  unfold State.lowerPower
  repeat'
    first
      | with_reducible assumption
      | intro _
      | with_reducible apply MemKept.ite
      | with_reducible apply State.ceilingNotice_memKept
      | with_reducible apply State.considerSwitch_memKept
      | extract_lets
      | split
      | (dsimp +zetaDelta only; split)
      | with_reducible apply MemKept.mkU

theorem State.takePower_memKept {s₀ s : State} (h : MemKept s₀ s) (p1ms : Nat) (p100ms : Nat) :
    MemKept s₀ (State.takePower s p1ms p100ms) := by
  unfold State.takePower
  repeat'
    first
      | with_reducible assumption
      | intro _
      | with_reducible apply MemKept.ite
      | extract_lets
      | split
      | (dsimp +zetaDelta only; split)
      | with_reducible apply MemKept.mkU

theorem execPowerCeilingCheck_memKept {s₀ s : State} (h : MemKept s₀ s) (p1ms : Nat) (p100ms : Nat) (now : Nat) :
    MemKeptO s₀ (execPowerCeilingCheck p1ms p100ms now s) := by
  unfold execPowerCeilingCheck
  repeat'
    first
      | with_reducible assumption
      | intro _
      | with_reducible apply MemKeptO.next
      | exact MemKeptO.fault _
      | with_reducible apply MemKeptOpt.some
      | exact MemKeptOpt.none
      | with_reducible apply MemKeptO.ite
      | with_reducible apply MemKeptOpt.ite
      | with_reducible apply MemKept.ite
      | with_reducible apply State.at__memKept
      | with_reducible apply State.takePower_memKept
      | with_reducible apply State.raisePower_memKept
      | with_reducible apply State.lowerPower_memKept
      | extract_lets
      | split
      | (dsimp +zetaDelta only; split)
      | with_reducible apply MemKept.mkU

theorem State.marginStep_memKept {s₀ s : State} (h : MemKept s₀ s) (r : Nat) :
    MemKept s₀ (State.marginStep s r) := by
  unfold State.marginStep
  repeat'
    first
      | with_reducible assumption
      | intro _
      | with_reducible apply MemKept.ite
      | with_reducible apply State.addWear_memKept
      | with_reducible apply State.ceilingNotice_memKept
      | with_reducible apply State.considerSwitch_memKept
      | extract_lets
      | split
      | (dsimp +zetaDelta only; split)
      | with_reducible apply MemKept.mkU

theorem execMarginSample_memKept {s₀ s : State} (h : MemKept s₀ s) (r : RegionIx) (low : Bool) (now : Nat) :
    MemKeptO s₀ (execMarginSample r low now s) := by
  unfold execMarginSample
  repeat'
    first
      | with_reducible assumption
      | intro _
      | with_reducible apply MemKeptO.next
      | exact MemKeptO.fault _
      | with_reducible apply MemKeptOpt.some
      | exact MemKeptOpt.none
      | with_reducible apply MemKeptO.ite
      | with_reducible apply MemKeptOpt.ite
      | with_reducible apply MemKept.ite
      | with_reducible apply State.at__memKept
      | with_reducible apply State.modRegion_memKept
      | with_reducible apply State.marginStep_memKept
      | with_reducible apply State.considerSwitch_memKept
      | extract_lets
      | split
      | (dsimp +zetaDelta only; split)
      | with_reducible apply MemKept.mkU

theorem execThrottleChange_memKept {s₀ s : State} (h : MemKept s₀ s) (now : Nat) :
    MemKeptO s₀ (execThrottleChange now s) := by
  unfold execThrottleChange
  repeat'
    first
      | with_reducible assumption
      | intro _
      | with_reducible apply MemKeptO.next
      | exact MemKeptO.fault _
      | with_reducible apply MemKeptOpt.some
      | exact MemKeptOpt.none
      | with_reducible apply MemKeptO.ite
      | with_reducible apply MemKeptOpt.ite
      | with_reducible apply MemKept.ite
      | with_reducible apply State.at__memKept
      | extract_lets
      | split
      | (dsimp +zetaDelta only; split)
      | with_reducible apply MemKept.mkU

theorem execThrotNAssert_memKept {s₀ s : State} (h : MemKept s₀ s) (now : Nat) :
    MemKeptO s₀ (execThrotNAssert now s) := by
  unfold execThrotNAssert
  repeat'
    first
      | with_reducible assumption
      | intro _
      | with_reducible apply MemKeptO.next
      | exact MemKeptO.fault _
      | with_reducible apply MemKeptOpt.some
      | exact MemKeptOpt.none
      | with_reducible apply MemKeptO.ite
      | with_reducible apply MemKeptOpt.ite
      | with_reducible apply MemKept.ite
      | with_reducible apply State.at__memKept
      | with_reducible apply State.requestH_memKept
      | with_reducible apply State.notice0_memKept
      | extract_lets
      | split
      | (dsimp +zetaDelta only; split)
      | with_reducible apply MemKept.mkU

theorem execThrotNRelease_memKept {s₀ s : State} (h : MemKept s₀ s) (now : Nat) :
    MemKeptO s₀ (execThrotNRelease now s) := by
  unfold execThrotNRelease
  repeat'
    first
      | with_reducible assumption
      | intro _
      | with_reducible apply MemKeptO.next
      | exact MemKeptO.fault _
      | with_reducible apply MemKeptOpt.some
      | exact MemKeptOpt.none
      | with_reducible apply MemKeptO.ite
      | with_reducible apply MemKeptOpt.ite
      | with_reducible apply MemKept.ite
      | with_reducible apply State.at__memKept
      | with_reducible apply State.requestH_memKept
      | with_reducible apply State.notice0_memKept
      | extract_lets
      | split
      | (dsimp +zetaDelta only; split)
      | with_reducible apply MemKept.mkU

theorem execBrownoutWarn_memKept {s₀ s : State} (h : MemKept s₀ s) (minMv : Half) (now : Nat) :
    MemKeptO s₀ (execBrownoutWarn minMv now s) := by
  unfold execBrownoutWarn
  repeat'
    first
      | with_reducible assumption
      | intro _
      | with_reducible apply MemKeptO.next
      | exact MemKeptO.fault _
      | with_reducible apply MemKeptOpt.some
      | exact MemKeptOpt.none
      | with_reducible apply MemKeptO.ite
      | with_reducible apply MemKeptOpt.ite
      | with_reducible apply MemKept.ite
      | with_reducible apply State.at__memKept
      | with_reducible apply State.requestH_memKept
      | with_reducible apply State.notice0_memKept
      | extract_lets
      | split
      | (dsimp +zetaDelta only; split)
      | with_reducible apply MemKept.mkU

theorem execBrownoutClear_memKept {s₀ s : State} (h : MemKept s₀ s) (minMv : Half) (now : Nat) :
    MemKeptO s₀ (execBrownoutClear minMv now s) := by
  unfold execBrownoutClear
  repeat'
    first
      | with_reducible assumption
      | intro _
      | with_reducible apply MemKeptO.next
      | exact MemKeptO.fault _
      | with_reducible apply MemKeptOpt.some
      | exact MemKeptOpt.none
      | with_reducible apply MemKeptO.ite
      | with_reducible apply MemKeptOpt.ite
      | with_reducible apply MemKept.ite
      | with_reducible apply State.at__memKept
      | with_reducible apply State.addWear_memKept
      | with_reducible apply State.requestH_memKept
      | extract_lets
      | split
      | (dsimp +zetaDelta only; split)
      | with_reducible apply MemKept.mkU

theorem execTelemetrySample_memKept {s₀ s : State} (h : MemKept s₀ s) (p : PhaseIx) (milliamps : Nat) :
    MemKeptO s₀ (execTelemetrySample p milliamps s) := by
  unfold execTelemetrySample
  repeat'
    first
      | with_reducible assumption
      | intro _
      | with_reducible apply MemKeptO.next
      | exact MemKeptO.fault _
      | with_reducible apply MemKeptOpt.some
      | exact MemKeptOpt.none
      | with_reducible apply MemKeptO.ite
      | with_reducible apply MemKeptOpt.ite
      | with_reducible apply MemKept.ite
      | with_reducible apply State.modPhase_memKept
      | with_reducible apply State.modGroup_memKept
      | extract_lets
      | split
      | (dsimp +zetaDelta only; split)
      | with_reducible apply MemKept.mkU

theorem State.openSensor_memKept {s₀ s : State} (h : MemKept s₀ s) (n : Nat) (high : Bool) :
    MemKept s₀ (State.openSensor s n high) := by
  unfold State.openSensor
  repeat'
    first
      | with_reducible assumption
      | intro _
      | with_reducible apply MemKept.ite
      | with_reducible apply State.modSensor_memKept
      | with_reducible apply State.notice0_memKept
      | with_reducible apply State.faultActed_memKept
      | extract_lets
      | split
      | (dsimp +zetaDelta only; split)
      | with_reducible apply MemKept.mkU

theorem execThermalFallBoundary_memKept {s₀ s : State} (h : MemKept s₀ s) (now : Nat) :
    MemKeptO s₀ (execThermalFallBoundary now s) := by
  unfold execThermalFallBoundary
  repeat'
    first
      | with_reducible assumption
      | intro _
      | with_reducible apply MemKeptO.next
      | exact MemKeptO.fault _
      | with_reducible apply MemKeptOpt.some
      | exact MemKeptOpt.none
      | with_reducible apply MemKeptO.ite
      | with_reducible apply MemKeptOpt.ite
      | with_reducible apply MemKept.ite
      | with_reducible apply State.at__memKept
      | with_reducible apply State.requestH_memKept
      | extract_lets
      | split
      | (dsimp +zetaDelta only; split)
      | with_reducible apply MemKept.mkU

theorem State.raiseThermal_memKept {s₀ s : State} (h : MemKept s₀ s) :
    MemKept s₀ (State.raiseThermal s) := by
  unfold State.raiseThermal
  repeat'
    first
      | with_reducible assumption
      | intro _
      | with_reducible apply MemKept.ite
      | with_reducible apply State.ceilingNotice_memKept
      | with_reducible apply State.considerSwitch_memKept
      | extract_lets
      | split
      | (dsimp +zetaDelta only; split)
      | with_reducible apply MemKept.mkU

theorem State.lowerThermal_memKept {s₀ s : State} (h : MemKept s₀ s) :
    MemKept s₀ (State.lowerThermal s) := by
  unfold State.lowerThermal
  repeat'
    first
      | with_reducible assumption
      | intro _
      | with_reducible apply MemKept.ite
      | with_reducible apply State.ceilingNotice_memKept
      | with_reducible apply State.considerSwitch_memKept
      | extract_lets
      | split
      | (dsimp +zetaDelta only; split)
      | with_reducible apply MemKept.mkU

theorem execThermalCeilingCheck_memKept {s₀ s : State} (h : MemKept s₀ s) (now : Nat) :
    MemKeptO s₀ (execThermalCeilingCheck now s) := by
  unfold execThermalCeilingCheck
  repeat'
    first
      | with_reducible assumption
      | intro _
      | with_reducible apply MemKeptO.next
      | exact MemKeptO.fault _
      | with_reducible apply MemKeptOpt.some
      | exact MemKeptOpt.none
      | with_reducible apply MemKeptO.ite
      | with_reducible apply MemKeptOpt.ite
      | with_reducible apply MemKept.ite
      | with_reducible apply State.at__memKept
      | with_reducible apply State.raiseThermal_memKept
      | with_reducible apply State.lowerThermal_memKept
      | extract_lets
      | split
      | (dsimp +zetaDelta only; split)
      | with_reducible apply MemKept.mkU

theorem execThermistorSample_memKept {s₀ s : State} (h : MemKept s₀ s) (n : Fin 8) (reading : SensorReading) (now : Nat) :
    MemKeptO s₀ (execThermistorSample n reading now s) := by
  unfold execThermistorSample
  repeat'
    first
      | with_reducible assumption
      | intro _
      | with_reducible apply MemKeptO.next
      | exact MemKeptO.fault _
      | with_reducible apply MemKeptOpt.some
      | exact MemKeptOpt.none
      | with_reducible apply MemKeptO.ite
      | with_reducible apply MemKeptOpt.ite
      | with_reducible apply MemKept.ite
      | with_reducible apply State.at__memKept
      | with_reducible apply State.openSensor_memKept
      | with_reducible apply State.modSensor_memKept
      | with_reducible apply State.notice0_memKept
      | extract_lets
      | split
      | (dsimp +zetaDelta only; split)
      | with_reducible apply MemKept.mkU

theorem State.fibreCount_memKept {s₀ s : State} (h : MemKept s₀ s) (l : Nat) (index : Nat) :
    MemKept s₀ (State.fibreCount s l index) := by
  unfold State.fibreCount
  repeat'
    first
      | with_reducible assumption
      | intro _
      | with_reducible apply MemKept.ite
      | with_reducible apply State.bump_memKept
      | extract_lets
      | split
      | (dsimp +zetaDelta only; split)
      | with_reducible apply MemKept.mkU

theorem State.sendFrame_memKept {s₀ s : State} (h : MemKept s₀ s) (l : Nat) (type : Nat) (rest : Bytes) (body : Bytes) :
    MemKept s₀ (State.sendFrame s l type rest body) := by
  unfold State.sendFrame
  repeat'
    first
      | with_reducible assumption
      | intro _
      | with_reducible apply MemKept.ite
      | with_reducible apply State.modLink_memKept
      | with_reducible apply State.emit_memKept
      | with_reducible apply State.fibreCount_memKept
      | extract_lets
      | split
      | (dsimp +zetaDelta only; split)
      | with_reducible apply MemKept.mkU

theorem State.chargeBody_memKept {s₀ s : State} (h : MemKept s₀ s) (l : Nat) (w : Waiting) :
    MemKept s₀ (State.chargeBody s l w) := by
  unfold State.chargeBody
  repeat'
    first
      | with_reducible assumption
      | intro _
      | with_reducible apply MemKept.ite
      | with_reducible apply State.modLink_memKept
      | extract_lets
      | split
      | (dsimp +zetaDelta only; split)
      | with_reducible apply MemKept.mkU

theorem State.pumpLink_memKept {s₀ s : State} (h : MemKept s₀ s) (l : Nat) (n : Nat) : MemKept s₀ (s.pumpLink l n) := by
  induction n generalizing s with
  | zero => exact h
  | succ n ih =>
    rw [State.pumpLink]
    repeat'
      first
        | with_reducible assumption
        | intro _
        | with_reducible apply ih
        | with_reducible apply MemKept.ite
        | with_reducible apply State.chargeBody_memKept
        | with_reducible apply State.modLink_memKept
        | with_reducible apply State.bump_memKept
        | with_reducible apply State.sendFrame_memKept
        | extract_lets
        | split
        | (dsimp +zetaDelta only; split)
        | with_reducible apply MemKept.mkU

theorem State.queueLink_memKept {s₀ s : State} (h : MemKept s₀ s) (l : Nat) (vc : Nat) (origin : Nat) (body : Bytes) :
    MemKept s₀ (State.queueLink s l vc origin body) := by
  unfold State.queueLink
  repeat'
    first
      | with_reducible assumption
      | intro _
      | with_reducible apply MemKept.ite
      | with_reducible apply State.modLink_memKept
      | with_reducible apply State.pumpLink_memKept
      | extract_lets
      | split
      | (dsimp +zetaDelta only; split)
      | with_reducible apply MemKept.mkU

theorem State.replayFrom_memKept {s₀ s : State} (h : MemKept s₀ s) (l : Nat) (exp : Nat) :
    MemKept s₀ (State.replayFrom s l exp) := by
  unfold State.replayFrom
  repeat'
    first
      | with_reducible assumption
      | intro _
      | with_reducible apply MemKept.ite
      | with_reducible apply State.modLink_memKept
      | with_reducible apply State.emit_memKept
      | with_reducible apply State.fibreCount_memKept
      | with_reducible apply MemKept.foldl
      | with_reducible apply MemKept.foldl_fst
      | with_reducible apply MemKept.foldl_snd
      | extract_lets
      | split
      | (dsimp +zetaDelta only; split)
      | with_reducible apply MemKept.mkU

theorem State.returnCredits_memKept {s₀ s : State} (h : MemKept s₀ s) (l : Nat) (vc : Nat) (records : Nat) (granules : Nat) :
    MemKept s₀ (State.returnCredits s l vc records granules) := by
  unfold State.returnCredits
  repeat'
    first
      | with_reducible assumption
      | intro _
      | with_reducible apply MemKept.ite
      | with_reducible apply State.modLink_memKept
      | extract_lets
      | split
      | (dsimp +zetaDelta only; split)
      | with_reducible apply MemKept.mkU

theorem State.linkHeader_memKept {s₀ s : State} (h : MemKept s₀ s) (l : Nat) (f : Bytes) :
    MemKept s₀ (State.linkHeader s l f) := by
  unfold State.linkHeader
  repeat'
    first
      | with_reducible assumption
      | intro _
      | with_reducible apply MemKept.ite
      | with_reducible apply State.modLink_memKept
      | with_reducible apply State.fibreCount_memKept
      | extract_lets
      | split
      | (dsimp +zetaDelta only; split)
      | with_reducible apply MemKept.mkU

theorem State.acceptSeq_memKept {s₀ s : State} (h : MemKept s₀ s) (l : Nat) (seq : Nat) :
    MemKept s₀ (State.acceptSeq s l seq).1 := by
  unfold State.acceptSeq
  repeat'
    first
      | with_reducible assumption
      | intro _
      | with_reducible apply MemKept.ite
      | with_reducible apply State.modLink_memKept
      | extract_lets
      | split
      | (dsimp +zetaDelta only; split)
      | with_reducible apply MemKept.mkU

theorem State.sendMgmt_memKept {s₀ s : State} (h : MemKept s₀ s) (l : Nat) (msg : Bytes) :
    MemKept s₀ (State.sendMgmt s l msg) := by
  unfold State.sendMgmt
  repeat'
    first
      | with_reducible assumption
      | intro _
      | with_reducible apply MemKept.ite
      | with_reducible apply State.queueLink_memKept
      | with_reducible apply State.emit_memKept
      | extract_lets
      | split
      | (dsimp +zetaDelta only; split)
      | with_reducible apply MemKept.mkU

theorem State.onMessage_memKept {s₀ s : State} (h : MemKept s₀ s) (l : Nat) (vc : Nat) (seq : Half) (act : State → State) (hact : ∀ v0, MemKept s₀ v0 → MemKept s₀ (act v0)) :
    MemKept s₀ (State.onMessage s l vc seq act) := by
  unfold State.onMessage
  repeat'
    first
      | with_reducible assumption
      | intro _
      | with_reducible apply hact
      | with_reducible apply MemKept.ite
      | with_reducible apply State.modLink_memKept
      | with_reducible apply State.acceptSeq_memKept
      | with_reducible apply State.returnCredits_memKept
      | extract_lets
      | split
      | (dsimp +zetaDelta only; split)
      | with_reducible apply MemKept.mkU

theorem State.pumpMap_memKept {s₀ s : State} (h : MemKept s₀ s) (l : Nat) :
    MemKept s₀ (State.pumpMap s l) := by
  unfold State.pumpMap
  repeat'
    first
      | with_reducible assumption
      | intro _
      | with_reducible apply MemKept.ite
      | with_reducible apply State.modLink_memKept
      | with_reducible apply State.sendMgmt_memKept
      | extract_lets
      | split
      | (dsimp +zetaDelta only; split)
      | with_reducible apply MemKept.mkU

theorem State.pumpAll_memKept {s₀ s : State} (h : MemKept s₀ s) (l : Nat) :
    MemKept s₀ (State.pumpAll s l) := by
  unfold State.pumpAll
  repeat'
    first
      | with_reducible assumption
      | intro _
      | with_reducible apply MemKept.ite
      | with_reducible apply State.pumpLink_memKept
      | with_reducible apply State.pumpMap_memKept
      | extract_lets
      | split
      | (dsimp +zetaDelta only; split)
      | with_reducible apply MemKept.mkU

theorem State.changeMap_memKept {s₀ s : State} (h : MemKept s₀ s) (l : Nat) (map : Bytes) :
    MemKept s₀ (State.changeMap s l map) := by
  unfold State.changeMap
  repeat'
    first
      | with_reducible assumption
      | intro _
      | with_reducible apply MemKept.ite
      | with_reducible apply State.modLink_memKept
      | with_reducible apply State.pumpMap_memKept
      | extract_lets
      | split
      | (dsimp +zetaDelta only; split)
      | with_reducible apply MemKept.mkU

theorem State.wantMap_memKept {s₀ s : State} (h : MemKept s₀ s) (l : Nat) (map : Bytes) :
    MemKept s₀ (State.wantMap s l map) := by
  unfold State.wantMap
  repeat'
    first
      | with_reducible assumption
      | intro _
      | with_reducible apply MemKept.ite
      | with_reducible apply State.modLink_memKept
      | with_reducible apply State.sendMgmt_memKept
      | extract_lets
      | split
      | (dsimp +zetaDelta only; split)
      | with_reducible apply MemKept.mkU

theorem State.moveEscape_memKept {s₀ s : State} (h : MemKept s₀ s) :
    MemKept s₀ (State.moveEscape s) := by
  unfold State.moveEscape
  repeat'
    first
      | with_reducible assumption
      | intro _
      | with_reducible apply MemKept.ite
      | with_reducible apply State.modLink_memKept
      | with_reducible apply State.pumpAll_memKept
      | with_reducible apply MemKept.foldl
      | with_reducible apply MemKept.foldl_fst
      | with_reducible apply MemKept.foldl_snd
      | extract_lets
      | split
      | (dsimp +zetaDelta only; split)
      | with_reducible apply MemKept.mkU

theorem State.loseLink_memKept {s₀ s : State} (h : MemKept s₀ s) (l : Nat) :
    MemKept s₀ (State.loseLink s l) := by
  unfold State.loseLink
  repeat'
    first
      | with_reducible assumption
      | intro _
      | with_reducible apply MemKept.ite
      | with_reducible apply State.modLink_memKept
      | with_reducible apply State.modFmu_memKept
      | with_reducible apply State.moveEscape_memKept
      | with_reducible apply State.notice0_memKept
      | extract_lets
      | split
      | (dsimp +zetaDelta only; split)
      | with_reducible apply MemKept.mkU

theorem State.resendLink_memKept {s₀ s : State} (h : MemKept s₀ s) (l : Nat) (exp : Nat) :
    MemKept s₀ (State.resendLink s l exp) := by
  unfold State.resendLink
  repeat'
    first
      | with_reducible assumption
      | intro _
      | with_reducible apply MemKept.ite
      | with_reducible apply State.loseLink_memKept
      | with_reducible apply State.replayFrom_memKept
      | extract_lets
      | split
      | (dsimp +zetaDelta only; split)
      | with_reducible apply MemKept.mkU

theorem State.trainLink_memKept {s₀ s : State} (h : MemKept s₀ s) (l : Nat) :
    MemKept s₀ (State.trainLink s l) := by
  unfold State.trainLink
  repeat'
    first
      | with_reducible assumption
      | intro _
      | with_reducible apply MemKept.ite
      | with_reducible apply State.modLink_memKept
      | extract_lets
      | split
      | (dsimp +zetaDelta only; split)
      | with_reducible apply MemKept.mkU

theorem State.sendFabric_memKept {s₀ s : State} (h : MemKept s₀ s) (msg : Bytes) :
    MemKept s₀ (State.sendFabric s msg) := by
  unfold State.sendFabric
  repeat'
    first
      | with_reducible assumption
      | intro _
      | with_reducible apply MemKept.ite
      | with_reducible apply State.sendMgmt_memKept
      | with_reducible apply MemKept.foldl
      | with_reducible apply MemKept.foldl_fst
      | with_reducible apply MemKept.foldl_snd
      | extract_lets
      | split
      | (dsimp +zetaDelta only; split)
      | with_reducible apply MemKept.mkU

theorem State.swapAnnounced_memKept {s₀ s : State} (h : MemKept s₀ s) (arg : Word) (count : DWord) :
    MemKept s₀ (State.swapAnnounced s arg count) := by
  unfold State.swapAnnounced
  repeat'
    first
      | with_reducible assumption
      | intro _
      | with_reducible apply MemKept.ite
      | with_reducible apply State.modCset_memKept
      | extract_lets
      | split
      | (dsimp +zetaDelta only; split)
      | with_reducible apply MemKept.mkU

theorem execSwapAnnouncement_memKept {s₀ s : State} (h : MemKept s₀ s) (arg : Word) (count : DWord) :
    MemKeptO s₀ (execSwapAnnouncement arg count s) := by
  unfold execSwapAnnouncement
  repeat'
    first
      | with_reducible assumption
      | intro _
      | with_reducible apply MemKeptO.next
      | exact MemKeptO.fault _
      | with_reducible apply MemKeptOpt.some
      | exact MemKeptOpt.none
      | with_reducible apply MemKeptO.ite
      | with_reducible apply MemKeptOpt.ite
      | with_reducible apply MemKept.ite
      | with_reducible apply State.swapAnnounced_memKept
      | extract_lets
      | split
      | (dsimp +zetaDelta only; split)
      | with_reducible apply MemKept.mkU

theorem State.sendSignal_memKept {s₀ s : State} (h : MemKept s₀ s) (oep : Nat) (turf : Nat) (addr : Nat) (amount : Nat) (epoch : Nat) (who : Half) :
    MemKept s₀ (State.sendSignal s oep turf addr amount epoch who) := by
  unfold State.sendSignal
  repeat'
    first
      | with_reducible assumption
      | intro _
      | with_reducible apply MemKept.ite
      | with_reducible apply State.sendProtected_memKept
      | extract_lets
      | split
      | (dsimp +zetaDelta only; split)
      | with_reducible apply MemKept.mkU

theorem State.sendArrival_memKept {s₀ s : State} (h : MemKept s₀ s) (oep : Nat) (k : Nat) (epoch : Nat) (turf : Nat) (store : Option Packet) (operand : BitVec 128) :
    MemKept s₀ (State.sendArrival s oep k epoch turf store operand) := by
  unfold State.sendArrival
  repeat'
    first
      | with_reducible assumption
      | intro _
      | with_reducible apply MemKept.ite
      | with_reducible apply State.sendProtected_memKept
      | extract_lets
      | split
      | (dsimp +zetaDelta only; split)
      | with_reducible apply MemKept.mkU

theorem State.discardNotice_memKept {s₀ s : State} (h : MemKept s₀ s) (cd : Nat) :
    MemKept s₀ (State.discardNotice s cd) := by
  unfold State.discardNotice
  repeat'
    first
      | with_reducible assumption
      | intro _
      | with_reducible apply MemKept.ite
      | with_reducible apply State.bump_memKept
      | extract_lets
      | split
      | (dsimp +zetaDelta only; split)
      | with_reducible apply MemKept.mkU

theorem State.armNotice_memKept {s₀ s : State} (h : MemKept s₀ s) (cd : Nat) (arg : Word) (count : DWord) :
    MemKept s₀ (State.armNotice s cd arg count) := by
  unfold State.armNotice
  repeat'
    first
      | with_reducible assumption
      | intro _
      | with_reducible apply MemKept.ite
      | with_reducible apply State.discardNotice_memKept
      | with_reducible apply State.modCd_memKept
      | with_reducible apply State.modCell_memKept
      | with_reducible apply State.sendSignal_memKept
      | with_reducible apply MemKept.foldl
      | with_reducible apply MemKept.foldl_fst
      | with_reducible apply MemKept.foldl_snd
      | extract_lets
      | split
      | (dsimp +zetaDelta only; split)
      | with_reducible apply MemKept.mkU

theorem execBatchArmNotice_memKept {s₀ s : State} (h : MemKept s₀ s) (cd : CdIx) (arg : Word) (count : DWord) :
    MemKeptO s₀ (execBatchArmNotice cd arg count s) := by
  unfold execBatchArmNotice
  repeat'
    first
      | with_reducible assumption
      | intro _
      | with_reducible apply MemKeptO.next
      | exact MemKeptO.fault _
      | with_reducible apply MemKeptOpt.some
      | exact MemKeptOpt.none
      | with_reducible apply MemKeptO.ite
      | with_reducible apply MemKeptOpt.ite
      | with_reducible apply MemKept.ite
      | with_reducible apply State.armNotice_memKept
      | extract_lets
      | split
      | (dsimp +zetaDelta only; split)
      | with_reducible apply MemKept.mkU

theorem State.cancelNotice_memKept {s₀ s : State} (h : MemKept s₀ s) (cd : Nat) (arg : Word) (count : DWord) :
    MemKept s₀ (State.cancelNotice s cd arg count) := by
  unfold State.cancelNotice
  repeat'
    first
      | with_reducible assumption
      | intro _
      | with_reducible apply MemKept.ite
      | with_reducible apply State.discardNotice_memKept
      | extract_lets
      | split
      | (dsimp +zetaDelta only; split)
      | with_reducible apply MemKept.mkU

theorem execBatchCancelNotice_memKept {s₀ s : State} (h : MemKept s₀ s) (cd : CdIx) (arg : Word) (count : DWord) :
    MemKeptO s₀ (execBatchCancelNotice cd arg count s) := by
  unfold execBatchCancelNotice
  repeat'
    first
      | with_reducible assumption
      | intro _
      | with_reducible apply MemKeptO.next
      | exact MemKeptO.fault _
      | with_reducible apply MemKeptOpt.some
      | exact MemKeptOpt.none
      | with_reducible apply MemKeptO.ite
      | with_reducible apply MemKeptOpt.ite
      | with_reducible apply MemKept.ite
      | with_reducible apply State.cancelNotice_memKept
      | extract_lets
      | split
      | (dsimp +zetaDelta only; split)
      | with_reducible apply MemKept.mkU

theorem State.clampCell_memKept {s₀ s : State} (h : MemKept s₀ s) (count : Nat) (c : Nat) :
    MemKept s₀ (State.clampCell s count c) := by
  unfold State.clampCell
  repeat'
    first
      | with_reducible assumption
      | intro _
      | with_reducible apply MemKept.ite
      | with_reducible apply State.modCell_memKept
      | extract_lets
      | split
      | (dsimp +zetaDelta only; split)
      | with_reducible apply MemKept.mkU

theorem State.latchClamp_memKept {s₀ s : State} (h : MemKept s₀ s) (c : Nat) :
    MemKept s₀ (State.latchClamp s c) := by
  unfold State.latchClamp
  repeat'
    first
      | with_reducible assumption
      | intro _
      | with_reducible apply MemKept.ite
      | with_reducible apply State.clampCell_memKept
      | with_reducible apply MemKept.foldl
      | with_reducible apply MemKept.foldl_fst
      | with_reducible apply MemKept.foldl_snd
      | extract_lets
      | split
      | (dsimp +zetaDelta only; split)
      | with_reducible apply MemKept.mkU

theorem execRampUpdate_memKept {s₀ s : State} (h : MemKept s₀ s) (c : RampCheck) :
    MemKeptO s₀ (execRampUpdate c s) := by
  unfold execRampUpdate
  repeat'
    first
      | with_reducible assumption
      | intro _
      | with_reducible apply MemKeptO.next
      | exact MemKeptO.fault _
      | with_reducible apply MemKeptOpt.some
      | exact MemKeptOpt.none
      | with_reducible apply MemKeptO.ite
      | with_reducible apply MemKeptOpt.ite
      | with_reducible apply MemKept.ite
      | with_reducible apply State.modCell_memKept
      | extract_lets
      | split
      | (dsimp +zetaDelta only; split)
      | with_reducible apply MemKept.mkU

theorem State.modAe_memKept {s₀ s : State} (h : MemKept s₀ s) (c : Nat) (e : Nat) (f : Ae → Ae) :
    MemKept s₀ (State.modAe s c e f) := by
  unfold State.modAe
  repeat'
    first
      | with_reducible assumption
      | intro _
      | with_reducible apply MemKept.ite
      | with_reducible apply State.modCell_memKept
      | extract_lets
      | split
      | (dsimp +zetaDelta only; split)
      | with_reducible apply MemKept.mkU

theorem execAeEnd_memKept {s₀ s : State} (h : MemKept s₀ s) (c : CellIx) (e : AeIx) :
    MemKeptO s₀ (execAeEnd c e s) := by
  unfold execAeEnd
  repeat'
    first
      | with_reducible assumption
      | intro _
      | with_reducible apply MemKeptO.next
      | exact MemKeptO.fault _
      | with_reducible apply MemKeptOpt.some
      | exact MemKeptOpt.none
      | with_reducible apply MemKeptO.ite
      | with_reducible apply MemKeptOpt.ite
      | with_reducible apply MemKept.ite
      | with_reducible apply State.modAe_memKept
      | extract_lets
      | split
      | (dsimp +zetaDelta only; split)
      | with_reducible apply MemKept.mkU

theorem State.storeAnswer_memKept {s₀ s : State} (h : MemKept s₀ s) (turf : Nat) (p : Packet) (operand : BitVec 128 := 0) :
    MemKept s₀ (State.storeAnswer s turf p operand) := by
  unfold State.storeAnswer
  repeat'
    first
      | with_reducible assumption
      | intro _
      | with_reducible apply MemKept.ite
      | with_reducible apply State.ackReq_memKept
      | with_reducible apply State.sendArrival_memKept
      | extract_lets
      | split
      | (dsimp +zetaDelta only; split)
      | with_reducible apply MemKept.mkU

theorem State.sendCmd_memKept {s₀ s : State} (h : MemKept s₀ s) (l : Nat) (c : FarCmd) :
    MemKept s₀ (State.sendCmd s l c) := by
  unfold State.sendCmd
  repeat'
    first
      | with_reducible assumption
      | intro _
      | with_reducible apply MemKept.ite
      | with_reducible apply State.modLink_memKept
      | with_reducible apply State.sendFrame_memKept
      | with_reducible apply MemKept.foldl
      | with_reducible apply MemKept.foldl_fst
      | with_reducible apply MemKept.foldl_snd
      | extract_lets
      | split
      | (dsimp +zetaDelta only; split)
      | with_reducible apply MemKept.mkU

theorem State.pumpFar_memKept {s₀ s : State} (h : MemKept s₀ s) (l : Nat) (n : Nat) : MemKept s₀ (s.pumpFar l n) := by
  induction n generalizing s with
  | zero => exact h
  | succ n ih =>
    rw [State.pumpFar]
    repeat'
      first
        | with_reducible assumption
        | intro _
        | with_reducible apply ih
        | with_reducible apply MemKept.ite
        | with_reducible apply State.sendCmd_memKept
        | extract_lets
        | split
        | (dsimp +zetaDelta only; split)
        | with_reducible apply MemKept.mkU

theorem State.queueCmd_memKept {s₀ s : State} (h : MemKept s₀ s) (l : Nat) (mk : Nat → FarCmd) :
    MemKept s₀ (State.queueCmd s l mk) := by
  unfold State.queueCmd
  repeat'
    first
      | with_reducible assumption
      | intro _
      | with_reducible apply MemKept.ite
      | with_reducible apply State.modLink_memKept
      | with_reducible apply State.pumpFar_memKept
      | extract_lets
      | split
      | (dsimp +zetaDelta only; split)
      | with_reducible apply MemKept.mkU

theorem State.farRequest_memKept {s₀ s : State} (h : MemKept s₀ s) (turf : Nat) (p : Packet) (u : Nat) (off : Nat) :
    MemKept s₀ (State.farRequest s turf p u off) := by
  unfold State.farRequest
  repeat'
    first
      | with_reducible assumption
      | intro _
      | with_reducible apply MemKept.ite
      | with_reducible apply State.nackReq_memKept
      | with_reducible apply State.queueCmd_memKept
      | with_reducible apply MemKept.foldl
      | with_reducible apply MemKept.foldl_fst
      | with_reducible apply MemKept.foldl_snd
      | extract_lets
      | split
      | (dsimp +zetaDelta only; split)
      | with_reducible apply MemKept.mkU

theorem State.modFarBillet_memKept {s₀ s : State} (h : MemKept s₀ s) (u : Nat) (port : Nat) (slot : Nat) (write : Bool) (f : FarBillet → FarBillet) :
    MemKept s₀ (State.modFarBillet s u port slot write f) := by
  unfold State.modFarBillet
  repeat'
    first
      | with_reducible assumption
      | intro _
      | with_reducible apply MemKept.ite
      | with_reducible apply State.modFmu_memKept
      | extract_lets
      | split
      | (dsimp +zetaDelta only; split)
      | with_reducible apply MemKept.mkU

theorem State.farReceive_memKept {s₀ s : State} (h : MemKept s₀ s) (l : Nat) (f : Bytes) (sequenced : Bool) (body : State → State) (hbody : ∀ v0, MemKept s₀ v0 → MemKept s₀ (body v0)) :
    MemKept s₀ (State.farReceive s l f sequenced body) := by
  unfold State.farReceive
  repeat'
    first
      | with_reducible assumption
      | intro _
      | with_reducible apply hbody
      | with_reducible apply MemKept.ite
      | with_reducible apply State.fibreCount_memKept
      | with_reducible apply State.linkHeader_memKept
      | with_reducible apply State.resendLink_memKept
      | with_reducible apply State.acceptSeq_memKept
      | with_reducible apply State.pumpFar_memKept
      | with_reducible apply State.pumpAll_memKept
      | extract_lets
      | split
      | (dsimp +zetaDelta only; split)
      | with_reducible apply MemKept.mkU

theorem execFarIdleFrame_memKept {s₀ s : State} (h : MemKept s₀ s) (l : LinkIx) (frame : Bytes) :
    MemKeptO s₀ (execFarIdleFrame l frame s) := by
  unfold execFarIdleFrame
  repeat'
    first
      | with_reducible assumption
      | intro _
      | with_reducible apply MemKeptO.next
      | exact MemKeptO.fault _
      | with_reducible apply MemKeptOpt.some
      | exact MemKeptOpt.none
      | with_reducible apply MemKeptO.ite
      | with_reducible apply MemKeptOpt.ite
      | with_reducible apply MemKept.ite
      | with_reducible apply State.farReceive_memKept
      | extract_lets
      | split
      | (dsimp +zetaDelta only; split)
      | with_reducible apply MemKept.mkU

theorem State.queueFarBillet_memKept {s₀ s : State} (h : MemKept s₀ s) (u : Nat) (b : FarBillet) :
    MemKept s₀ (State.queueFarBillet s u b) := by
  unfold State.queueFarBillet
  repeat'
    first
      | with_reducible assumption
      | intro _
      | with_reducible apply MemKept.ite
      | with_reducible apply State.modFarBillet_memKept
      | with_reducible apply State.queueCmd_memKept
      | extract_lets
      | split
      | (dsimp +zetaDelta only; split)
      | with_reducible apply MemKept.mkU

theorem execFarBilletWriteQueue_memKept {s₀ s : State} (h : MemKept s₀ s) (u : FmuIx) (p : PortIx) :
    MemKeptO s₀ (execFarBilletWriteQueue u p s) := by
  unfold execFarBilletWriteQueue
  repeat'
    first
      | with_reducible assumption
      | intro _
      | with_reducible apply MemKeptO.next
      | exact MemKeptO.fault _
      | with_reducible apply MemKeptOpt.some
      | exact MemKeptOpt.none
      | with_reducible apply MemKeptO.ite
      | with_reducible apply MemKeptOpt.ite
      | with_reducible apply MemKept.ite
      | with_reducible apply State.queueFarBillet_memKept
      | extract_lets
      | split
      | (dsimp +zetaDelta only; split)
      | with_reducible apply MemKept.mkU

theorem execFarBilletReadQueue_memKept {s₀ s : State} (h : MemKept s₀ s) (u : FmuIx) (p : PortIx) :
    MemKeptO s₀ (execFarBilletReadQueue u p s) := by
  unfold execFarBilletReadQueue
  repeat'
    first
      | with_reducible assumption
      | intro _
      | with_reducible apply MemKeptO.next
      | exact MemKeptO.fault _
      | with_reducible apply MemKeptOpt.some
      | exact MemKeptOpt.none
      | with_reducible apply MemKeptO.ite
      | with_reducible apply MemKeptOpt.ite
      | with_reducible apply MemKept.ite
      | with_reducible apply State.queueFarBillet_memKept
      | with_reducible apply State.modFmu_memKept
      | with_reducible apply MemKept.foldl
      | with_reducible apply MemKept.foldl_fst
      | with_reducible apply MemKept.foldl_snd
      | extract_lets
      | split
      | (dsimp +zetaDelta only; split)
      | with_reducible apply MemKept.mkU

theorem State.refuseReq_memKept {s₀ s : State} (h : MemKept s₀ s) (turf : Nat) (p : Packet) (status : Nat) :
    MemKept s₀ (State.refuseReq s turf p status) := by
  unfold State.refuseReq
  repeat'
    first
      | with_reducible assumption
      | intro _
      | with_reducible apply MemKept.ite
      | with_reducible apply State.countRefusal_memKept
      | with_reducible apply State.countUnmapped_memKept
      | with_reducible apply State.nackReq_memKept
      | extract_lets
      | split
      | (dsimp +zetaDelta only; split)
      | with_reducible apply MemKept.mkU

theorem State.countSite_memKept {s₀ s : State} (h : MemKept s₀ s) (p : Packet) (index : Nat) :
    MemKept s₀ (State.countSite s p index) := by
  unfold State.countSite
  repeat'
    first
      | with_reducible assumption
      | intro _
      | with_reducible apply MemKept.ite
      | with_reducible apply State.draw_memKept
      | with_reducible apply State.bump_memKept
      | extract_lets
      | split
      | (dsimp +zetaDelta only; split)
      | with_reducible apply MemKept.mkU

theorem State.loadMem_memKept {s₀ s : State} (h : MemKept s₀ s) (turf : Nat) (p : Packet) :
    MemKept s₀ (State.loadMem s turf p) := by
  unfold State.loadMem
  repeat'
    first
      | with_reducible assumption
      | intro _
      | with_reducible apply MemKept.ite
      | with_reducible apply State.meetRange_memKept
      | with_reducible apply State.countSite_memKept
      | with_reducible apply State.bump_memKept
      | with_reducible apply State.dataReq_memKept
      | extract_lets
      | split
      | (dsimp +zetaDelta only; split)
      | with_reducible apply MemKept.mkU
      | with_reducible apply MemKept.foldl
      | with_reducible apply MemKept.foldl_fst
      | with_reducible apply MemKept.foldl_snd

theorem State.loadReq_memKept {s₀ s : State} (h : MemKept s₀ s) (turf : Nat) (p : Packet) :
    MemKept s₀ (State.loadReq s turf p) := by
  unfold State.loadReq
  repeat'
    first
      | with_reducible assumption
      | intro _
      | with_reducible apply MemKept.ite
      | with_reducible apply State.refuseReq_memKept
      | with_reducible apply State.dataReq_memKept
      | with_reducible apply State.farRequest_memKept
      | with_reducible apply State.loadMem_memKept
      | extract_lets
      | split
      | (dsimp +zetaDelta only; split)
      | with_reducible apply MemKept.mkU

theorem execLoad_memKept {s₀ s : State} (h : MemKept s₀ s) (a : Arrival) (p : Packet) :
    MemKeptO s₀ (execLoad a p s) := by
  unfold execLoad
  repeat'
    first
      | with_reducible assumption
      | intro _
      | with_reducible apply MemKeptO.next
      | exact MemKeptO.fault _
      | with_reducible apply MemKeptOpt.some
      | exact MemKeptOpt.none
      | with_reducible apply MemKeptO.ite
      | with_reducible apply MemKeptOpt.ite
      | with_reducible apply MemKept.ite
      | with_reducible apply State.refuseReq_memKept
      | with_reducible apply State.loadReq_memKept
      | extract_lets
      | split
      | (dsimp +zetaDelta only; split)
      | with_reducible apply MemKept.mkU

theorem State.deliver_memKept {s₀ s : State} (h : MemKept s₀ s) (turf : Nat) (p : Packet) (r : Bytes) :
    MemKept s₀ (State.deliver s turf p r).1 := by
  unfold State.deliver
  repeat'
    first
      | with_reducible assumption
      | intro _
      | with_reducible apply MemKept.ite
      | with_reducible apply State.countRefusal_memKept
      | with_reducible apply State.modCell_memKept
      | extract_lets
      | split
      | (dsimp +zetaDelta only; split)
      | with_reducible apply MemKept.mkU

theorem execMessageInboxStore_memKept {s₀ s : State} (h : MemKept s₀ s) (a : Arrival) (p : Packet) :
    MemKeptO s₀ (execMessageInboxStore a p s) := by
  unfold execMessageInboxStore
  repeat'
    first
      | with_reducible assumption
      | intro _
      | with_reducible apply MemKeptO.next
      | exact MemKeptO.fault _
      | with_reducible apply MemKeptOpt.some
      | exact MemKeptOpt.none
      | with_reducible apply MemKeptO.ite
      | with_reducible apply MemKeptOpt.ite
      | with_reducible apply MemKept.ite
      | with_reducible apply State.refuseReq_memKept
      | with_reducible apply State.deliver_memKept
      | with_reducible apply State.storeAnswer_memKept
      | with_reducible apply MemKept.foldl
      | with_reducible apply MemKept.foldl_fst
      | with_reducible apply MemKept.foldl_snd
      | extract_lets
      | split
      | (dsimp +zetaDelta only; split)
      | with_reducible apply MemKept.mkU

theorem State.markEscaped_memKept {s₀ s : State} (h : MemKept s₀ s) (body : Bytes) :
    MemKept s₀ (State.markEscaped s body) := by
  unfold State.markEscaped
  repeat'
    first
      | with_reducible assumption
      | intro _
      | with_reducible apply MemKept.ite
      | extract_lets
      | split
      | (dsimp +zetaDelta only; split)
      | with_reducible apply MemKept.mkU

theorem State.escapeBody_memKept {s₀ s : State} (h : MemKept s₀ s) (origin : Nat) (vc : Nat) (body : Bytes) :
    MemKept s₀ (State.escapeBody s origin vc body) := by
  unfold State.escapeBody
  repeat'
    first
      | with_reducible assumption
      | intro _
      | with_reducible apply MemKept.ite
      | with_reducible apply State.markEscaped_memKept
      | with_reducible apply State.queueLink_memKept
      | extract_lets
      | split
      | (dsimp +zetaDelta only; split)
      | with_reducible apply MemKept.mkU

theorem State.egressBody_memKept {s₀ s : State} (h : MemKept s₀ s) (l : Nat) (vc : Nat) (body : Bytes) (follows : Bool) :
    MemKept s₀ (State.egressBody s l vc body follows) := by
  unfold State.egressBody
  repeat'
    first
      | with_reducible assumption
      | intro _
      | with_reducible apply MemKept.ite
      | with_reducible apply State.escapeBody_memKept
      | with_reducible apply State.queueLink_memKept
      | extract_lets
      | split
      | (dsimp +zetaDelta only; split)
      | with_reducible apply MemKept.mkU

theorem State.egress_memKept {s₀ s : State} (h : MemKept s₀ s) (turf : Nat) (p : Packet) :
    MemKept s₀ (State.egress s turf p) := by
  unfold State.egress
  repeat'
    first
      | with_reducible assumption
      | intro _
      | with_reducible apply MemKept.ite
      | with_reducible apply State.egressBody_memKept
      | extract_lets
      | split
      | (dsimp +zetaDelta only; split)
      | with_reducible apply MemKept.mkU

theorem State.modRole_memKept {s₀ s : State} (h : MemKept s₀ s) (f : Nat) (g : RoleSt → RoleSt) :
    MemKept s₀ (State.modRole s f g) := by
  unfold State.modRole
  repeat'
    first
      | with_reducible assumption
      | intro _
      | with_reducible apply MemKept.ite
      | extract_lets
      | split
      | (dsimp +zetaDelta only; split)
      | with_reducible apply MemKept.mkU

theorem execFecLock_memKept {s₀ s : State} (h : MemKept s₀ s) (l : LinkIx) :
    MemKeptO s₀ (execFecLock l s) := by
  unfold execFecLock
  repeat'
    first
      | with_reducible assumption
      | intro _
      | with_reducible apply MemKeptO.next
      | exact MemKeptO.fault _
      | with_reducible apply MemKeptOpt.some
      | exact MemKeptOpt.none
      | with_reducible apply MemKeptO.ite
      | with_reducible apply MemKeptOpt.ite
      | with_reducible apply MemKept.ite
      | with_reducible apply State.modLink_memKept
      | with_reducible apply State.sendMgmt_memKept
      | extract_lets
      | split
      | (dsimp +zetaDelta only; split)
      | with_reducible apply MemKept.mkU

theorem execIdentRepeat_memKept {s₀ s : State} (h : MemKept s₀ s) (l : LinkIx) :
    MemKeptO s₀ (execIdentRepeat l s) := by
  unfold execIdentRepeat
  repeat'
    first
      | with_reducible assumption
      | intro _
      | with_reducible apply MemKeptO.next
      | exact MemKeptO.fault _
      | with_reducible apply MemKeptOpt.some
      | exact MemKeptOpt.none
      | with_reducible apply MemKeptO.ite
      | with_reducible apply MemKeptOpt.ite
      | with_reducible apply MemKept.ite
      | with_reducible apply State.sendMgmt_memKept
      | extract_lets
      | split
      | (dsimp +zetaDelta only; split)
      | with_reducible apply MemKept.mkU

theorem execSublinkRetrain_memKept {s₀ s : State} (h : MemKept s₀ s) (l : LinkIx) (now : Nat) :
    MemKeptO s₀ (execSublinkRetrain l now s) := by
  unfold execSublinkRetrain
  repeat'
    first
      | with_reducible assumption
      | intro _
      | with_reducible apply MemKeptO.next
      | exact MemKeptO.fault _
      | with_reducible apply MemKeptOpt.some
      | exact MemKeptOpt.none
      | with_reducible apply MemKeptO.ite
      | with_reducible apply MemKeptOpt.ite
      | with_reducible apply MemKept.ite
      | with_reducible apply State.at__memKept
      | with_reducible apply State.trainLink_memKept
      | extract_lets
      | split
      | (dsimp +zetaDelta only; split)
      | with_reducible apply MemKept.mkU

theorem State.mapAsked_memKept {s₀ s : State} (h : MemKept s₀ s) (l : Nat) (map : Bytes) :
    MemKept s₀ (State.mapAsked s l map) := by
  unfold State.mapAsked
  repeat'
    first
      | with_reducible assumption
      | intro _
      | with_reducible apply MemKept.ite
      | with_reducible apply State.changeMap_memKept
      | with_reducible apply State.modPort_memKept
      | extract_lets
      | split
      | (dsimp +zetaDelta only; split)
      | with_reducible apply MemKept.mkU

theorem execLaneMapReq_memKept {s₀ s : State} (h : MemKept s₀ s) (l : LinkIx) (m : MapMsg) :
    MemKeptO s₀ (execLaneMapReq l m s) := by
  unfold execLaneMapReq
  repeat'
    first
      | with_reducible assumption
      | intro _
      | with_reducible apply MemKeptO.next
      | exact MemKeptO.fault _
      | with_reducible apply MemKeptOpt.some
      | exact MemKeptOpt.none
      | with_reducible apply MemKeptO.ite
      | with_reducible apply MemKeptOpt.ite
      | with_reducible apply MemKept.ite
      | with_reducible apply State.onMessage_memKept
      | with_reducible apply State.mapAsked_memKept
      | extract_lets
      | split
      | (dsimp +zetaDelta only; split)
      | with_reducible apply MemKept.mkU

theorem State.mapAnnounced_memKept {s₀ s : State} (h : MemKept s₀ s) (l : Nat) (switchSeq : Nat) (map : Bytes) :
    MemKept s₀ (State.mapAnnounced s l switchSeq map) := by
  unfold State.mapAnnounced
  repeat'
    first
      | with_reducible assumption
      | intro _
      | with_reducible apply MemKept.ite
      | with_reducible apply State.modLink_memKept
      | with_reducible apply State.sendMgmt_memKept
      | extract_lets
      | split
      | (dsimp +zetaDelta only; split)
      | with_reducible apply MemKept.mkU

theorem execLaneMap_memKept {s₀ s : State} (h : MemKept s₀ s) (l : LinkIx) (m : MapMsg) (switchSeq : Half) :
    MemKeptO s₀ (execLaneMap l m switchSeq s) := by
  unfold execLaneMap
  repeat'
    first
      | with_reducible assumption
      | intro _
      | with_reducible apply MemKeptO.next
      | exact MemKeptO.fault _
      | with_reducible apply MemKeptOpt.some
      | exact MemKeptOpt.none
      | with_reducible apply MemKeptO.ite
      | with_reducible apply MemKeptOpt.ite
      | with_reducible apply MemKept.ite
      | with_reducible apply State.onMessage_memKept
      | with_reducible apply State.mapAnnounced_memKept
      | extract_lets
      | split
      | (dsimp +zetaDelta only; split)
      | with_reducible apply MemKept.mkU

theorem execLinkDown_memKept {s₀ s : State} (h : MemKept s₀ s) (l : LinkIx) (m : SeqTime) :
    MemKeptO s₀ (execLinkDown l m s) := by
  unfold execLinkDown
  repeat'
    first
      | with_reducible assumption
      | intro _
      | with_reducible apply MemKeptO.next
      | exact MemKeptO.fault _
      | with_reducible apply MemKeptOpt.some
      | exact MemKeptOpt.none
      | with_reducible apply MemKeptO.ite
      | with_reducible apply MemKeptOpt.ite
      | with_reducible apply MemKept.ite
      | with_reducible apply State.at__memKept
      | with_reducible apply State.onMessage_memKept
      | with_reducible apply State.loseLink_memKept
      | extract_lets
      | split
      | (dsimp +zetaDelta only; split)
      | with_reducible apply MemKept.mkU

theorem execFarFrameResend_memKept {s₀ s : State} (h : MemKept s₀ s) (l : LinkIx) (retry : Bool) (expSeq : Half) (now : Nat) :
    MemKeptO s₀ (execFarFrameResend l retry expSeq now s) := by
  unfold execFarFrameResend
  repeat'
    first
      | with_reducible assumption
      | intro _
      | with_reducible apply MemKeptO.next
      | exact MemKeptO.fault _
      | with_reducible apply MemKeptOpt.some
      | exact MemKeptOpt.none
      | with_reducible apply MemKeptO.ite
      | with_reducible apply MemKeptOpt.ite
      | with_reducible apply MemKept.ite
      | with_reducible apply State.at__memKept
      | with_reducible apply State.resendLink_memKept
      | extract_lets
      | split
      | (dsimp +zetaDelta only; split)
      | with_reducible apply MemKept.mkU

theorem execSublinkLoss_memKept {s₀ s : State} (h : MemKept s₀ s) (l : LinkIx) (now : Nat) :
    MemKeptO s₀ (execSublinkLoss l now s) := by
  unfold execSublinkLoss
  repeat'
    first
      | with_reducible assumption
      | intro _
      | with_reducible apply MemKeptO.next
      | exact MemKeptO.fault _
      | with_reducible apply MemKeptOpt.some
      | exact MemKeptOpt.none
      | with_reducible apply MemKeptO.ite
      | with_reducible apply MemKeptOpt.ite
      | with_reducible apply MemKept.ite
      | with_reducible apply State.at__memKept
      | with_reducible apply State.loseLink_memKept
      | extract_lets
      | split
      | (dsimp +zetaDelta only; split)
      | with_reducible apply MemKept.mkU

theorem execChannelLoss_memKept {s₀ s : State} (h : MemKept s₀ s) (l : LinkIx) (now : Nat) :
    MemKeptO s₀ (execChannelLoss l now s) := by
  unfold execChannelLoss
  repeat'
    first
      | with_reducible assumption
      | intro _
      | with_reducible apply MemKeptO.next
      | exact MemKeptO.fault _
      | with_reducible apply MemKeptOpt.some
      | exact MemKeptOpt.none
      | with_reducible apply MemKeptO.ite
      | with_reducible apply MemKeptOpt.ite
      | with_reducible apply MemKept.ite
      | with_reducible apply State.at__memKept
      | with_reducible apply State.loseLink_memKept
      | extract_lets
      | split
      | (dsimp +zetaDelta only; split)
      | with_reducible apply MemKept.mkU

theorem State.announceMap_memKept {s₀ s : State} (h : MemKept s₀ s) (p : Nat) :
    MemKept s₀ (State.announceMap s p) := by
  unfold State.announceMap
  repeat'
    first
      | with_reducible assumption
      | intro _
      | with_reducible apply MemKept.ite
      | with_reducible apply State.changeMap_memKept
      | extract_lets
      | split
      | (dsimp +zetaDelta only; split)
      | with_reducible apply MemKept.mkU

theorem State.stopSweep_memKept {s₀ s : State} (h : MemKept s₀ s) (p : Nat) :
    MemKept s₀ (State.stopSweep s p) := by
  unfold State.stopSweep
  repeat'
    first
      | with_reducible assumption
      | intro _
      | with_reducible apply MemKept.ite
      | with_reducible apply State.modPort_memKept
      | with_reducible apply State.announceMap_memKept
      | extract_lets
      | split
      | (dsimp +zetaDelta only; split)
      | with_reducible apply MemKept.mkU

theorem State.takeBank_memKept {s₀ s : State} (h : MemKept s₀ s) (feed : Nat) (bank : Nat) :
    MemKept s₀ (State.takeBank s feed bank) := by
  unfold State.takeBank
  repeat'
    first
      | with_reducible assumption
      | intro _
      | with_reducible apply MemKept.ite
      | with_reducible apply State.modBank_memKept
      | extract_lets
      | split
      | (dsimp +zetaDelta only; split)
      | with_reducible apply MemKept.mkU

theorem State.underSwap_memKept {s₀ s : State} (h : MemKept s₀ s) (feed : Nat) :
    MemKept s₀ (State.underSwap s feed) := by
  unfold State.underSwap
  repeat'
    first
      | with_reducible assumption
      | intro _
      | with_reducible apply MemKept.ite
      | with_reducible apply State.stopSweep_memKept
      | with_reducible apply MemKept.foldl
      | with_reducible apply MemKept.foldl_fst
      | with_reducible apply MemKept.foldl_snd
      | extract_lets
      | split
      | (dsimp +zetaDelta only; split)
      | with_reducible apply MemKept.mkU

theorem State.startSwap_memKept {s₀ s : State} (h : MemKept s₀ s) (feed : Nat) (faulted : Nat) :
    MemKept s₀ (State.startSwap s feed faulted) := by
  unfold State.startSwap
  repeat'
    first
      | with_reducible assumption
      | intro _
      | with_reducible apply MemKept.ite
      | with_reducible apply State.underSwap_memKept
      | with_reducible apply State.announceAll_memKept
      | extract_lets
      | split
      | (dsimp +zetaDelta only; split)
      | with_reducible apply MemKept.mkU
      | with_reducible apply MemKept.foldl
      | with_reducible apply MemKept.foldl_fst
      | with_reducible apply MemKept.foldl_snd

theorem State.replaced_memKept {s₀ s : State} (h : MemKept s₀ s) (kind : Nat) (origin : Nat) (action : Nat) (unit : Nat) (detail : Word) (cls : Nat) :
    MemKept s₀ (State.replaced s kind origin action unit detail cls) := by
  unfold State.replaced
  repeat'
    first
      | with_reducible assumption
      | intro _
      | with_reducible apply MemKept.ite
      | with_reducible apply State.addDefect_memKept
      | with_reducible apply State.notice0_memKept
      | with_reducible apply State.faultActed_memKept
      | extract_lets
      | split
      | (dsimp +zetaDelta only; split)
      | with_reducible apply MemKept.mkU

theorem State.countTx_memKept {s₀ s : State} (h : MemKept s₀ s) (p : Nat) (index : Nat) :
    MemKept s₀ (State.countTx s p index) := by
  unfold State.countTx
  repeat'
    first
      | with_reducible assumption
      | intro _
      | with_reducible apply MemKept.ite
      | with_reducible apply State.bump_memKept
      | extract_lets
      | split
      | (dsimp +zetaDelta only; split)
      | with_reducible apply MemKept.mkU

theorem State.takeField_memKept {s₀ s : State} (h : MemKept s₀ s) (p : Nat) :
    MemKept s₀ (State.takeField s p).2 := by
  unfold State.takeField
  repeat'
    first
      | with_reducible assumption
      | intro _
      | with_reducible apply MemKept.ite
      | with_reducible apply State.modPort_memKept
      | with_reducible apply State.bump_memKept
      | extract_lets
      | split
      | (dsimp +zetaDelta only; split)
      | with_reducible apply MemKept.mkU

theorem State.sourceUsed_memKept {s₀ s : State} (h : MemKept s₀ s) (p : Nat) (e : BitVec 256) (period : Nat) (m : Nat) (poison : List Nat) :
    MemKept s₀ (State.sourceUsed s p e period m poison) := by
  unfold State.sourceUsed
  repeat'
    first
      | with_reducible assumption
      | intro _
      | with_reducible apply MemKept.ite
      | with_reducible apply State.touch_memKept
      | with_reducible apply State.eccRead_memKept
      | with_reducible apply State.bump_memKept
      | with_reducible apply State.modFmu_memKept
      | extract_lets
      | split
      | (dsimp +zetaDelta only; split)
      | with_reducible apply MemKept.mkU

theorem State.modPending_memKept {s₀ s : State} (h : MemKept s₀ s) (p : Nat) (slot : Nat) (f : PendingBillet → PendingBillet) :
    MemKept s₀ (State.modPending s p slot f) := by
  unfold State.modPending
  repeat'
    first
      | with_reducible assumption
      | intro _
      | with_reducible apply MemKept.ite
      | with_reducible apply State.modPort_memKept
      | extract_lets
      | split
      | (dsimp +zetaDelta only; split)
      | with_reducible apply MemKept.mkU

theorem State.lateSource_memKept {s₀ s : State} (h : MemKept s₀ s) (p : Nat) (q : Nat) (b : PendingBillet) (y : BilletSt) :
    MemKept s₀ (State.lateSource s p q b y) := by
  unfold State.lateSource
  repeat'
    first
      | with_reducible assumption
      | intro _
      | with_reducible apply MemKept.ite
      | with_reducible apply State.sourceUsed_memKept
      | extract_lets
      | split
      | (dsimp +zetaDelta only; split)
      | with_reducible apply MemKept.mkU

theorem State.sendRepair_memKept {s₀ s : State} (h : MemKept s₀ s) (p : Nat) (q : Nat) (b : PendingBillet) (y : BilletSt) :
    MemKept s₀ (State.sendRepair s p q b y) := by
  unfold State.sendRepair
  repeat'
    first
      | with_reducible assumption
      | intro _
      | with_reducible apply MemKept.ite
      | with_reducible apply State.lateSource_memKept
      | with_reducible apply State.takeField_memKept
      | with_reducible apply State.modPort_memKept
      | with_reducible apply State.modPending_memKept
      | with_reducible apply State.countTx_memKept
      | with_reducible apply State.emit_memKept
      | with_reducible apply State.pumpProtected_memKept
      | extract_lets
      | split
      | (dsimp +zetaDelta only; split)
      | with_reducible apply MemKept.mkU

theorem execRepairSend_memKept {s₀ s : State} (h : MemKept s₀ s) (p : PortIx) :
    MemKeptO s₀ (execRepairSend p s) := by
  unfold execRepairSend
  repeat'
    first
      | with_reducible assumption
      | intro _
      | with_reducible apply MemKeptO.next
      | exact MemKeptO.fault _
      | with_reducible apply MemKeptOpt.some
      | exact MemKeptOpt.none
      | with_reducible apply MemKeptO.ite
      | with_reducible apply MemKeptOpt.ite
      | with_reducible apply MemKept.ite
      | with_reducible apply State.sendRepair_memKept
      | extract_lets
      | split
      | (dsimp +zetaDelta only; split)
      | with_reducible apply MemKept.mkU

theorem execRepairHoldEnd_memKept {s₀ s : State} (h : MemKept s₀ s) :
    MemKeptO s₀ (execRepairHoldEnd s) := by
  unfold execRepairHoldEnd
  repeat'
    first
      | with_reducible assumption
      | intro _
      | with_reducible apply MemKeptO.next
      | exact MemKeptO.fault _
      | with_reducible apply MemKeptOpt.some
      | exact MemKeptOpt.none
      | with_reducible apply MemKeptO.ite
      | with_reducible apply MemKeptOpt.ite
      | with_reducible apply MemKept.ite
      | extract_lets
      | split
      | (dsimp +zetaDelta only; split)
      | with_reducible apply MemKept.mkU

theorem execDynamicFrameRequest_memKept {s₀ s : State} (h : MemKept s₀ s) (p : PortIx) :
    MemKeptO s₀ (execDynamicFrameRequest p s) := by
  unfold execDynamicFrameRequest
  repeat'
    first
      | with_reducible assumption
      | intro _
      | with_reducible apply MemKeptO.next
      | exact MemKeptO.fault _
      | with_reducible apply MemKeptOpt.some
      | exact MemKeptOpt.none
      | with_reducible apply MemKeptO.ite
      | with_reducible apply MemKeptOpt.ite
      | with_reducible apply MemKept.ite
      | with_reducible apply State.modPort_memKept
      | extract_lets
      | split
      | (dsimp +zetaDelta only; split)
      | with_reducible apply MemKept.mkU

theorem State.grantFrame_memKept {s₀ s : State} (h : MemKept s₀ s) (p : Nat) (r : DynReq) (frame : Nat) :
    MemKept s₀ (State.grantFrame s p r frame) := by
  unfold State.grantFrame
  repeat'
    first
      | with_reducible assumption
      | intro _
      | with_reducible apply MemKept.ite
      | with_reducible apply State.modPort_memKept
      | extract_lets
      | split
      | (dsimp +zetaDelta only; split)
      | with_reducible apply MemKept.mkU

theorem execDynamicGrant_memKept {s₀ s : State} (h : MemKept s₀ s) (p : PortIx) :
    MemKeptO s₀ (execDynamicGrant p s) := by
  unfold execDynamicGrant
  repeat'
    first
      | with_reducible assumption
      | intro _
      | with_reducible apply MemKeptO.next
      | exact MemKeptO.fault _
      | with_reducible apply MemKeptOpt.some
      | exact MemKeptOpt.none
      | with_reducible apply MemKeptO.ite
      | with_reducible apply MemKeptOpt.ite
      | with_reducible apply MemKept.ite
      | with_reducible apply State.grantFrame_memKept
      | extract_lets
      | split
      | (dsimp +zetaDelta only; split)
      | with_reducible apply MemKept.mkU
      | with_reducible apply MemKept.foldl
      | with_reducible apply MemKept.foldl_fst
      | with_reducible apply MemKept.foldl_snd

theorem State.deliverPacket_memKept {s₀ s : State} (h : MemKept s₀ s) (port : Nat) (turf : Nat) (p : Packet) (units : Nat) :
    MemKept s₀ (State.deliverPacket s port turf p units) := by
  unfold State.deliverPacket
  repeat'
    first
      | with_reducible assumption
      | intro _
      | with_reducible apply MemKept.ite
      | with_reducible apply State.tally_memKept
      | with_reducible apply State.nackReq_memKept
      | with_reducible apply State.egress_memKept
      | extract_lets
      | split
      | (dsimp +zetaDelta only; split)
      | with_reducible apply MemKept.mkU

theorem execDynamicFrameReceive_memKept {s₀ s : State} (h : MemKept s₀ s) (p : PortIx) (hdr : BitVec 512) (body : Bytes) :
    MemKeptO s₀ (execDynamicFrameReceive p hdr body s) := by
  unfold execDynamicFrameReceive
  repeat'
    first
      | with_reducible assumption
      | intro _
      | with_reducible apply MemKeptO.next
      | exact MemKeptO.fault _
      | with_reducible apply MemKeptOpt.some
      | exact MemKeptOpt.none
      | with_reducible apply MemKeptO.ite
      | with_reducible apply MemKeptOpt.ite
      | with_reducible apply MemKept.ite
      | with_reducible apply State.bump_memKept
      | with_reducible apply State.emit_memKept
      | with_reducible apply State.deliverPacket_memKept
      | with_reducible apply MemKept.foldl
      | with_reducible apply MemKept.foldl_fst
      | with_reducible apply MemKept.foldl_snd
      | extract_lets
      | split
      | (dsimp +zetaDelta only; split)
      | with_reducible apply MemKept.mkU

theorem execDynamicFrameAck_memKept {s₀ s : State} (h : MemKept s₀ s) (p : PortIx) (seq : Nat) :
    MemKeptO s₀ (execDynamicFrameAck p seq s) := by
  unfold execDynamicFrameAck
  repeat'
    first
      | with_reducible assumption
      | intro _
      | with_reducible apply MemKeptO.next
      | exact MemKeptO.fault _
      | with_reducible apply MemKeptOpt.some
      | exact MemKeptOpt.none
      | with_reducible apply MemKeptO.ite
      | with_reducible apply MemKeptOpt.ite
      | with_reducible apply MemKept.ite
      | with_reducible apply State.modPort_memKept
      | extract_lets
      | split
      | (dsimp +zetaDelta only; split)
      | with_reducible apply MemKept.mkU

theorem State.faultHeard_memKept {s₀ s : State} (h : MemKept s₀ s) (arg : Word) (count : DWord) :
    MemKept s₀ (State.faultHeard s arg count) := by
  unfold State.faultHeard
  repeat'
    first
      | with_reducible assumption
      | intro _
      | with_reducible apply MemKept.ite
      | extract_lets
      | split
      | (dsimp +zetaDelta only; split)
      | with_reducible apply MemKept.mkU

theorem execFaultNotice_memKept {s₀ s : State} (h : MemKept s₀ s) (arg : Word) (count : DWord) :
    MemKeptO s₀ (execFaultNotice arg count s) := by
  unfold execFaultNotice
  repeat'
    first
      | with_reducible assumption
      | intro _
      | with_reducible apply MemKeptO.next
      | exact MemKeptO.fault _
      | with_reducible apply MemKeptOpt.some
      | exact MemKeptOpt.none
      | with_reducible apply MemKeptO.ite
      | with_reducible apply MemKeptOpt.ite
      | with_reducible apply MemKept.ite
      | with_reducible apply State.faultHeard_memKept
      | extract_lets
      | split
      | (dsimp +zetaDelta only; split)
      | with_reducible apply MemKept.mkU

theorem State.copyMissing_memKept {s₀ s : State} (h : MemKept s₀ s) (key : Nat) (src : Nat) (dst : Nat) (n : Nat) (copy : Nat) :
    MemKept s₀ (State.copyMissing s key src dst n copy) := by
  unfold State.copyMissing
  repeat'
    first
      | with_reducible assumption
      | intro _
      | with_reducible apply MemKept.ite
      | with_reducible apply State.bump_memKept
      | with_reducible apply State.announceAll_memKept
      | with_reducible apply State.addWear_memKept
      | with_reducible apply State.notice0_memKept
      | extract_lets
      | split
      | (dsimp +zetaDelta only; split)
      | with_reducible apply MemKept.mkU

theorem execMissingDuplicate_memKept {s₀ s : State} (h : MemKept s₀ s) (src : OepIx) (dst : OepIx) (seq : Half) (now : Nat) :
    MemKeptO s₀ (execMissingDuplicate src dst seq now s) := by
  unfold execMissingDuplicate
  repeat'
    first
      | with_reducible assumption
      | intro _
      | with_reducible apply MemKeptO.next
      | exact MemKeptO.fault _
      | with_reducible apply MemKeptOpt.some
      | exact MemKeptOpt.none
      | with_reducible apply MemKeptO.ite
      | with_reducible apply MemKeptOpt.ite
      | with_reducible apply MemKept.ite
      | with_reducible apply State.at__memKept
      | with_reducible apply State.copyMissing_memKept
      | extract_lets
      | split
      | (dsimp +zetaDelta only; split)
      | with_reducible apply MemKept.mkU

theorem execLightHoldStart_memKept {s₀ s : State} (h : MemKept s₀ s) (now : Nat) :
    MemKeptO s₀ (execLightHoldStart now s) := by
  unfold execLightHoldStart
  repeat'
    first
      | with_reducible assumption
      | intro _
      | with_reducible apply MemKeptO.next
      | exact MemKeptO.fault _
      | with_reducible apply MemKeptOpt.some
      | exact MemKeptOpt.none
      | with_reducible apply MemKeptO.ite
      | with_reducible apply MemKeptOpt.ite
      | with_reducible apply MemKept.ite
      | with_reducible apply State.at__memKept
      | extract_lets
      | split
      | (dsimp +zetaDelta only; split)
      | with_reducible apply MemKept.mkU

theorem execLightHoldEnd_memKept {s₀ s : State} (h : MemKept s₀ s) (now : Nat) :
    MemKeptO s₀ (execLightHoldEnd now s) := by
  unfold execLightHoldEnd
  repeat'
    first
      | with_reducible assumption
      | intro _
      | with_reducible apply MemKeptO.next
      | exact MemKeptO.fault _
      | with_reducible apply MemKeptOpt.some
      | exact MemKeptOpt.none
      | with_reducible apply MemKeptO.ite
      | with_reducible apply MemKeptOpt.ite
      | with_reducible apply MemKept.ite
      | with_reducible apply State.at__memKept
      | with_reducible apply State.announceAll_memKept
      | extract_lets
      | split
      | (dsimp +zetaDelta only; split)
      | with_reducible apply MemKept.mkU

theorem State.wearSwap_memKept {s₀ s : State} (h : MemKept s₀ s) (b : Nat) (feed : Nat) (n : Nat) :
    MemKept s₀ (State.wearSwap s b feed n) := by
  unfold State.wearSwap
  repeat'
    first
      | with_reducible assumption
      | intro _
      | with_reducible apply MemKept.ite
      | with_reducible apply State.modBank_memKept
      | with_reducible apply State.takeSpare_memKept
      | with_reducible apply State.takeBank_memKept
      | with_reducible apply State.addDefect_memKept
      | with_reducible apply State.notice0_memKept
      | with_reducible apply State.startSwap_memKept
      | with_reducible apply State.underSwap_memKept
      | extract_lets
      | split
      | (dsimp +zetaDelta only; split)
      | with_reducible apply MemKept.mkU

theorem State.retuned_memKept {s₀ s : State} (h : MemKept s₀ s) (b : Nat) (feed : Nat) :
    MemKept s₀ (State.retuned s b feed) := by
  unfold State.retuned
  repeat'
    first
      | with_reducible assumption
      | intro _
      | with_reducible apply MemKept.ite
      | extract_lets
      | split
      | (dsimp +zetaDelta only; split)
      | with_reducible apply MemKept.mkU

theorem execBankWearSwap_memKept {s₀ s : State} (h : MemKept s₀ s) (b : BankIx) (now : Nat) :
    MemKeptO s₀ (execBankWearSwap b now s) := by
  unfold execBankWearSwap
  repeat'
    first
      | with_reducible assumption
      | intro _
      | with_reducible apply MemKeptO.next
      | exact MemKeptO.fault _
      | with_reducible apply MemKeptOpt.some
      | exact MemKeptOpt.none
      | with_reducible apply MemKeptO.ite
      | with_reducible apply MemKeptOpt.ite
      | with_reducible apply MemKept.ite
      | with_reducible apply State.at__memKept
      | with_reducible apply State.retuned_memKept
      | with_reducible apply State.modBank_memKept
      | with_reducible apply State.wearSwap_memKept
      | extract_lets
      | split
      | (dsimp +zetaDelta only; split)
      | with_reducible apply MemKept.mkU

theorem State.beginSweep_memKept {s₀ s : State} (h : MemKept s₀ s) (p : Nat) (pos : Nat) (spare : Option Nat) :
    MemKept s₀ (State.beginSweep s p pos spare) := by
  unfold State.beginSweep
  repeat'
    first
      | with_reducible assumption
      | intro _
      | with_reducible apply MemKept.ite
      | with_reducible apply State.modPort_memKept
      | extract_lets
      | split
      | (dsimp +zetaDelta only; split)
      | with_reducible apply MemKept.mkU

theorem State.moveToStandIn_memKept {s₀ s : State} (h : MemKept s₀ s) (p : Nat) (pos : Nat) (i : Nat) :
    MemKept s₀ (State.moveToStandIn s p pos i) := by
  unfold State.moveToStandIn
  repeat'
    first
      | with_reducible assumption
      | intro _
      | with_reducible apply MemKept.ite
      | with_reducible apply State.modPort_memKept
      | with_reducible apply State.announceMap_memKept
      | with_reducible apply State.beginSweep_memKept
      | extract_lets
      | split
      | (dsimp +zetaDelta only; split)
      | with_reducible apply MemKept.mkU

theorem execChannelSweep_memKept {s₀ s : State} (h : MemKept s₀ s) (p : PortIx) (now : Nat) :
    MemKeptO s₀ (execChannelSweep p now s) := by
  unfold execChannelSweep
  repeat'
    first
      | with_reducible assumption
      | intro _
      | with_reducible apply MemKeptO.next
      | exact MemKeptO.fault _
      | with_reducible apply MemKeptOpt.some
      | exact MemKeptOpt.none
      | with_reducible apply MemKeptO.ite
      | with_reducible apply MemKeptOpt.ite
      | with_reducible apply MemKept.ite
      | with_reducible apply State.at__memKept
      | with_reducible apply State.beginSweep_memKept
      | with_reducible apply State.moveToStandIn_memKept
      | extract_lets
      | split
      | (dsimp +zetaDelta only; split)
      | with_reducible apply MemKept.mkU

theorem execTuningStarved_memKept {s₀ s : State} (h : MemKept s₀ s) (p : PortIx) (now : Nat) :
    MemKeptO s₀ (execTuningStarved p now s) := by
  unfold execTuningStarved
  repeat'
    first
      | with_reducible assumption
      | intro _
      | with_reducible apply MemKeptO.next
      | exact MemKeptO.fault _
      | with_reducible apply MemKeptOpt.some
      | exact MemKeptOpt.none
      | with_reducible apply MemKeptO.ite
      | with_reducible apply MemKeptOpt.ite
      | with_reducible apply MemKept.ite
      | with_reducible apply State.at__memKept
      | with_reducible apply State.noticeTurf_memKept
      | with_reducible apply State.modPort_memKept
      | with_reducible apply MemKept.foldl
      | with_reducible apply MemKept.foldl_fst
      | with_reducible apply MemKept.foldl_snd
      | extract_lets
      | split
      | (dsimp +zetaDelta only; split)
      | with_reducible apply MemKept.mkU

theorem execTuningHoldStart_memKept {s₀ s : State} (h : MemKept s₀ s) (now : Nat) :
    MemKeptO s₀ (execTuningHoldStart now s) := by
  unfold execTuningHoldStart
  repeat'
    first
      | with_reducible assumption
      | intro _
      | with_reducible apply MemKeptO.next
      | exact MemKeptO.fault _
      | with_reducible apply MemKeptOpt.some
      | exact MemKeptOpt.none
      | with_reducible apply MemKeptO.ite
      | with_reducible apply MemKeptOpt.ite
      | with_reducible apply MemKept.ite
      | with_reducible apply State.at__memKept
      | extract_lets
      | split
      | (dsimp +zetaDelta only; split)
      | with_reducible apply MemKept.mkU

theorem State.laneOut_memKept {s₀ s : State} (h : MemKept s₀ s) (f : Nat) (g : Nat) (pos : Nat) (substituted : Bool) :
    MemKept s₀ (State.laneOut s f g pos substituted) := by
  unfold State.laneOut
  repeat'
    first
      | with_reducible assumption
      | intro _
      | with_reducible apply MemKept.ite
      | with_reducible apply State.wantMap_memKept
      | extract_lets
      | split
      | (dsimp +zetaDelta only; split)
      | with_reducible apply MemKept.mkU

theorem State.replaceLane_memKept {s₀ s : State} (h : MemKept s₀ s) (f : Nat) (g : Nat) (pos : Nat) (origin : Nat) :
    MemKept s₀ (State.replaceLane s f g pos origin) := by
  unfold State.replaceLane
  repeat'
    first
      | with_reducible assumption
      | intro _
      | with_reducible apply MemKept.ite
      | with_reducible apply State.takeSpare_memKept
      | with_reducible apply State.replaced_memKept
      | with_reducible apply State.laneOut_memKept
      | extract_lets
      | split
      | (dsimp +zetaDelta only; split)
      | with_reducible apply MemKept.mkU

theorem execQualityWindow_memKept {s₀ s : State} (h : MemKept s₀ s) (f : FibreIx) (group : Fin 2) (bad : List PosIx) :
    MemKeptO s₀ (execQualityWindow f group bad s) := by
  unfold execQualityWindow
  repeat'
    first
      | with_reducible assumption
      | intro _
      | with_reducible apply MemKeptO.next
      | exact MemKeptO.fault _
      | with_reducible apply MemKeptOpt.some
      | exact MemKeptOpt.none
      | with_reducible apply MemKeptO.ite
      | with_reducible apply MemKeptOpt.ite
      | with_reducible apply MemKept.ite
      | with_reducible apply State.modPort_memKept
      | with_reducible apply State.replaceLane_memKept
      | with_reducible apply MemKept.foldl
      | with_reducible apply MemKept.foldl_fst
      | with_reducible apply MemKept.foldl_snd
      | extract_lets
      | split
      | (dsimp +zetaDelta only; split)
      | with_reducible apply MemKept.mkU

theorem execPcMigration_memKept {s₀ s : State} (h : MemKept s₀ s) (m : SiteIx) (pc : Fin 64) :
    MemKeptO s₀ (execPcMigration m pc s) := by
  unfold execPcMigration
  repeat'
    first
      | with_reducible assumption
      | intro _
      | with_reducible apply MemKeptO.next
      | exact MemKeptO.fault _
      | with_reducible apply MemKeptOpt.some
      | exact MemKeptOpt.none
      | with_reducible apply MemKeptO.ite
      | with_reducible apply MemKeptOpt.ite
      | with_reducible apply MemKept.ite
      | with_reducible apply State.migrate_memKept
      | extract_lets
      | split
      | (dsimp +zetaDelta only; split)
      | with_reducible apply MemKept.mkU

theorem execRowReplace_memKept {s₀ s : State} (h : MemKept s₀ s) (m : SiteIx) (pc : Fin 66) (bank : Byte) (row : Half) :
    MemKeptO s₀ (execRowReplace m pc bank row s) := by
  unfold execRowReplace
  repeat'
    first
      | with_reducible assumption
      | intro _
      | with_reducible apply MemKeptO.next
      | exact MemKeptO.fault _
      | with_reducible apply MemKeptOpt.some
      | exact MemKeptOpt.none
      | with_reducible apply MemKeptO.ite
      | with_reducible apply MemKeptOpt.ite
      | with_reducible apply MemKept.ite
      | with_reducible apply State.replaceRow_memKept
      | extract_lets
      | split
      | (dsimp +zetaDelta only; split)
      | with_reducible apply MemKept.mkU

theorem execRowReplaceEnd_memKept {s₀ s : State} (h : MemKept s₀ s) (m : SiteIx) :
    MemKeptO s₀ (execRowReplaceEnd m s) := by
  unfold execRowReplaceEnd
  repeat'
    first
      | with_reducible assumption
      | intro _
      | with_reducible apply MemKeptO.next
      | exact MemKeptO.fault _
      | with_reducible apply MemKeptOpt.some
      | exact MemKeptOpt.none
      | with_reducible apply MemKeptO.ite
      | with_reducible apply MemKeptOpt.ite
      | with_reducible apply MemKept.ite
      | with_reducible apply State.modSite_memKept
      | with_reducible apply State.addWear_memKept
      | with_reducible apply State.replaced_memKept
      | with_reducible apply State.replaceRow_memKept
      | with_reducible apply MemKept.foldl
      | with_reducible apply MemKept.foldl_fst
      | with_reducible apply MemKept.foldl_snd
      | extract_lets
      | split
      | (dsimp +zetaDelta only; split)
      | with_reducible apply MemKept.mkU

theorem execSelfRefreshEnter_memKept {s₀ s : State} (h : MemKept s₀ s) (m : SiteIx) (now : Nat) :
    MemKeptO s₀ (execSelfRefreshEnter m now s) := by
  unfold execSelfRefreshEnter
  repeat'
    first
      | with_reducible assumption
      | intro _
      | with_reducible apply MemKeptO.next
      | exact MemKeptO.fault _
      | with_reducible apply MemKeptOpt.some
      | exact MemKeptOpt.none
      | with_reducible apply MemKeptO.ite
      | with_reducible apply MemKeptOpt.ite
      | with_reducible apply MemKept.ite
      | with_reducible apply State.at__memKept
      | with_reducible apply State.modSite_memKept
      | extract_lets
      | split
      | (dsimp +zetaDelta only; split)
      | with_reducible apply MemKept.mkU

theorem execSelfRefreshExit_memKept {s₀ s : State} (h : MemKept s₀ s) (m : SiteIx) (now : Nat) :
    MemKeptO s₀ (execSelfRefreshExit m now s) := by
  unfold execSelfRefreshExit
  repeat'
    first
      | with_reducible assumption
      | intro _
      | with_reducible apply MemKeptO.next
      | exact MemKeptO.fault _
      | with_reducible apply MemKeptOpt.some
      | exact MemKeptOpt.none
      | with_reducible apply MemKeptO.ite
      | with_reducible apply MemKeptOpt.ite
      | with_reducible apply MemKept.ite
      | with_reducible apply State.at__memKept
      | with_reducible apply State.modSite_memKept
      | extract_lets
      | split
      | (dsimp +zetaDelta only; split)
      | with_reducible apply MemKept.mkU

theorem State.sendFibre_memKept {s₀ s : State} (h : MemKept s₀ s) (f : Nat) (msg : Bytes) :
    MemKept s₀ (State.sendFibre s f msg) := by
  unfold State.sendFibre
  repeat'
    first
      | with_reducible assumption
      | intro _
      | with_reducible apply MemKept.ite
      | with_reducible apply State.sendMgmt_memKept
      | extract_lets
      | split
      | (dsimp +zetaDelta only; split)
      | with_reducible apply MemKept.mkU

theorem State.askRole_memKept {s₀ s : State} (h : MemKept s₀ s) (f : Nat) (want : Bool) :
    MemKept s₀ (State.askRole s f want) := by
  unfold State.askRole
  repeat'
    first
      | with_reducible assumption
      | intro _
      | with_reducible apply MemKept.ite
      | with_reducible apply State.draw_memKept
      | with_reducible apply State.modRole_memKept
      | with_reducible apply State.sendFibre_memKept
      | extract_lets
      | split
      | (dsimp +zetaDelta only; split)
      | with_reducible apply MemKept.mkU

theorem execRoleSwapRetry_memKept {s₀ s : State} (h : MemKept s₀ s) (f : FibreTime) :
    MemKeptO s₀ (execRoleSwapRetry f s) := by
  unfold execRoleSwapRetry
  repeat'
    first
      | with_reducible assumption
      | intro _
      | with_reducible apply MemKeptO.next
      | exact MemKeptO.fault _
      | with_reducible apply MemKeptOpt.some
      | exact MemKeptOpt.none
      | with_reducible apply MemKeptO.ite
      | with_reducible apply MemKeptOpt.ite
      | with_reducible apply MemKept.ite
      | with_reducible apply State.at__memKept
      | with_reducible apply State.askRole_memKept
      | extract_lets
      | split
      | (dsimp +zetaDelta only; split)
      | with_reducible apply MemKept.mkU

theorem State.correctTime_memKept {s₀ s : State} (h : MemKept s₀ s) (offset : Int) :
    MemKept s₀ (State.correctTime s offset) := by
  unfold State.correctTime
  repeat'
    first
      | with_reducible assumption
      | intro _
      | with_reducible apply MemKept.ite
      | with_reducible apply State.notice0_memKept
      | extract_lets
      | split
      | (dsimp +zetaDelta only; split)
      | with_reducible apply MemKept.mkU

theorem State.sendTime_memKept {s₀ s : State} (h : MemKept s₀ s) (f : Nat) (msg : Bytes) :
    MemKept s₀ (State.sendTime s f msg) := by
  unfold State.sendTime
  repeat'
    first
      | with_reducible assumption
      | intro _
      | with_reducible apply MemKept.ite
      | with_reducible apply State.queueLink_memKept
      | extract_lets
      | split
      | (dsimp +zetaDelta only; split)
      | with_reducible apply MemKept.mkU

theorem execTimeRequest_memKept {s₀ s : State} (h : MemKept s₀ s) (f : FabFibreIx) (incoming : Option (MsgFrame × Word × Nat)) (now : Nat) :
    MemKeptO s₀ (execTimeRequest f incoming now s) := by
  unfold execTimeRequest
  repeat'
    first
      | with_reducible assumption
      | intro _
      | with_reducible apply MemKeptO.next
      | exact MemKeptO.fault _
      | with_reducible apply MemKeptOpt.some
      | exact MemKeptOpt.none
      | with_reducible apply MemKeptO.ite
      | with_reducible apply MemKeptOpt.ite
      | with_reducible apply MemKept.ite
      | with_reducible apply State.at__memKept
      | with_reducible apply State.draw_memKept
      | with_reducible apply State.sendTime_memKept
      | with_reducible apply State.onMessage_memKept
      | extract_lets
      | split
      | (dsimp +zetaDelta only; split)
      | with_reducible apply MemKept.mkU

theorem State.hearAnswer_memKept {s₀ s : State} (h : MemKept s₀ s) (f : Nat) (hops : Nat) (root : DWord) :
    MemKept s₀ (State.hearAnswer s f hops root) := by
  unfold State.hearAnswer
  repeat'
    first
      | with_reducible assumption
      | intro _
      | with_reducible apply MemKept.ite
      | with_reducible apply State.modRole_memKept
      | extract_lets
      | split
      | (dsimp +zetaDelta only; split)
      | with_reducible apply MemKept.mkU

theorem State.timeAnswered_memKept {s₀ s : State} (h : MemKept s₀ s) (f : Nat) (a : TimeAns) :
    MemKept s₀ (State.timeAnswered s f a) := by
  unfold State.timeAnswered
  repeat'
    first
      | with_reducible assumption
      | intro _
      | with_reducible apply MemKept.ite
      | with_reducible apply State.hearAnswer_memKept
      | with_reducible apply State.correctTime_memKept
      | extract_lets
      | split
      | (dsimp +zetaDelta only; split)
      | with_reducible apply MemKept.mkU

theorem execTimeAnswer_memKept {s₀ s : State} (h : MemKept s₀ s) (f : FabFibreIx) (a : TimeMsg) :
    MemKeptO s₀ (execTimeAnswer f a s) := by
  unfold execTimeAnswer
  repeat'
    first
      | with_reducible assumption
      | intro _
      | with_reducible apply MemKeptO.next
      | exact MemKeptO.fault _
      | with_reducible apply MemKeptOpt.some
      | exact MemKeptOpt.none
      | with_reducible apply MemKeptO.ite
      | with_reducible apply MemKeptOpt.ite
      | with_reducible apply MemKept.ite
      | with_reducible apply State.at__memKept
      | with_reducible apply State.onMessage_memKept
      | with_reducible apply State.timeAnswered_memKept
      | extract_lets
      | split
      | (dsimp +zetaDelta only; split)
      | with_reducible apply MemKept.mkU

theorem State.founderHeard_memKept {s₀ s : State} (h : MemKept s₀ s) (f : Nat) (msg : Bytes) :
    MemKept s₀ (State.founderHeard s f msg) := by
  unfold State.founderHeard
  repeat'
    first
      | with_reducible assumption
      | intro _
      | with_reducible apply MemKept.ite
      | with_reducible apply State.sendFibre_memKept
      | extract_lets
      | split
      | (dsimp +zetaDelta only; split)
      | with_reducible apply MemKept.mkU

theorem execFounder_memKept {s₀ s : State} (h : MemKept s₀ s) (f : FabFibreIx) (msg : FabMsg) :
    MemKeptO s₀ (execFounder f msg s) := by
  unfold execFounder
  repeat'
    first
      | with_reducible assumption
      | intro _
      | with_reducible apply MemKeptO.next
      | exact MemKeptO.fault _
      | with_reducible apply MemKeptOpt.some
      | exact MemKeptOpt.none
      | with_reducible apply MemKeptO.ite
      | with_reducible apply MemKeptOpt.ite
      | with_reducible apply MemKept.ite
      | with_reducible apply State.onMessage_memKept
      | with_reducible apply State.founderHeard_memKept
      | extract_lets
      | split
      | (dsimp +zetaDelta only; split)
      | with_reducible apply MemKept.mkU

theorem State.becomeFounder_memKept {s₀ s : State} (h : MemKept s₀ s) (module : Nat) (next : Nat) (members : List Member) :
    MemKept s₀ (State.becomeFounder s module next members) := by
  unfold State.becomeFounder
  repeat'
    first
      | with_reducible assumption
      | intro _
      | with_reducible apply MemKept.ite
      | with_reducible apply State.sendFabric_memKept
      | extract_lets
      | split
      | (dsimp +zetaDelta only; split)
      | with_reducible apply MemKept.mkU

theorem State.founderGone_memKept {s₀ s : State} (h : MemKept s₀ s) :
    MemKept s₀ (State.founderGone s) := by
  unfold State.founderGone
  repeat'
    first
      | with_reducible assumption
      | intro _
      | with_reducible apply MemKept.ite
      | with_reducible apply State.becomeFounder_memKept
      | with_reducible apply MemKept.foldl
      | with_reducible apply MemKept.foldl_fst
      | with_reducible apply MemKept.foldl_snd
      | extract_lets
      | split
      | (dsimp +zetaDelta only; split)
      | with_reducible apply MemKept.mkU

theorem execFounderLost_memKept {s₀ s : State} (h : MemKept s₀ s) (now : Nat) :
    MemKeptO s₀ (execFounderLost now s) := by
  unfold execFounderLost
  repeat'
    first
      | with_reducible assumption
      | intro _
      | with_reducible apply MemKeptO.next
      | exact MemKeptO.fault _
      | with_reducible apply MemKeptOpt.some
      | exact MemKeptOpt.none
      | with_reducible apply MemKeptO.ite
      | with_reducible apply MemKeptOpt.ite
      | with_reducible apply MemKept.ite
      | with_reducible apply State.at__memKept
      | with_reducible apply State.founderGone_memKept
      | extract_lets
      | split
      | (dsimp +zetaDelta only; split)
      | with_reducible apply MemKept.mkU

theorem State.sendMessage_memKept {s₀ s : State} (h : MemKept s₀ s) (m : Nat) (msg : Bytes) :
    MemKept s₀ (State.sendMessage s m msg) := by
  unfold State.sendMessage
  repeat'
    first
      | with_reducible assumption
      | intro _
      | with_reducible apply MemKept.ite
      | with_reducible apply State.queueLink_memKept
      | extract_lets
      | split
      | (dsimp +zetaDelta only; split)
      | with_reducible apply MemKept.mkU

theorem execPairDescSend_memKept {s₀ s : State} (h : MemKept s₀ s) (module : Fin 1024) :
    MemKeptO s₀ (execPairDescSend module s) := by
  unfold execPairDescSend
  repeat'
    first
      | with_reducible assumption
      | intro _
      | with_reducible apply MemKeptO.next
      | exact MemKeptO.fault _
      | with_reducible apply MemKeptOpt.some
      | exact MemKeptOpt.none
      | with_reducible apply MemKeptO.ite
      | with_reducible apply MemKeptOpt.ite
      | with_reducible apply MemKept.ite
      | with_reducible apply State.sendMessage_memKept
      | extract_lets
      | split
      | (dsimp +zetaDelta only; split)
      | with_reducible apply MemKept.mkU

theorem State.inboundBillet_memKept {s₀ s : State} (h : MemKept s₀ s) (fibre : Nat) (route : Bytes) (payload : Bytes) :
    MemKept s₀ (State.inboundBillet s fibre route payload) := by
  unfold State.inboundBillet
  repeat'
    first
      | with_reducible assumption
      | intro _
      | with_reducible apply MemKept.ite
      | with_reducible apply State.tally_memKept
      | with_reducible apply State.bump_memKept
      | extract_lets
      | split
      | (dsimp +zetaDelta only; split)
      | with_reducible apply MemKept.mkU

theorem execFabricBilletReceive_memKept {s₀ s : State} (h : MemKept s₀ s) (l : LinkIx) (route : BitVec 128) (payload : Bytes) :
    MemKeptO s₀ (execFabricBilletReceive l route payload s) := by
  unfold execFabricBilletReceive
  repeat'
    first
      | with_reducible assumption
      | intro _
      | with_reducible apply MemKeptO.next
      | exact MemKeptO.fault _
      | with_reducible apply MemKeptOpt.some
      | exact MemKeptOpt.none
      | with_reducible apply MemKeptO.ite
      | with_reducible apply MemKeptOpt.ite
      | with_reducible apply MemKept.ite
      | with_reducible apply State.inboundBillet_memKept
      | extract_lets
      | split
      | (dsimp +zetaDelta only; split)
      | with_reducible apply MemKept.mkU

theorem State.clampArrives_memKept {s₀ s : State} (h : MemKept s₀ s) (count : Nat) :
    MemKept s₀ (State.clampArrives s count) := by
  unfold State.clampArrives
  repeat'
    first
      | with_reducible assumption
      | intro _
      | with_reducible apply MemKept.ite
      | with_reducible apply State.announceClamp_memKept
      | extract_lets
      | split
      | (dsimp +zetaDelta only; split)
      | with_reducible apply MemKept.mkU

theorem execFabricClampMessage_memKept {s₀ s : State} (h : MemKept s₀ s) (count : DWord) (_uid : DWord) (now : Nat) :
    MemKeptO s₀ (execFabricClampMessage count _uid now s) := by
  unfold execFabricClampMessage
  repeat'
    first
      | with_reducible assumption
      | intro _
      | with_reducible apply MemKeptO.next
      | exact MemKeptO.fault _
      | with_reducible apply MemKeptOpt.some
      | exact MemKeptOpt.none
      | with_reducible apply MemKeptO.ite
      | with_reducible apply MemKeptOpt.ite
      | with_reducible apply MemKept.ite
      | with_reducible apply State.at__memKept
      | with_reducible apply State.clampArrives_memKept
      | extract_lets
      | split
      | (dsimp +zetaDelta only; split)
      | with_reducible apply MemKept.mkU

theorem State.compareDue_memKept {s₀ s : State} (h : MemKept s₀ s) :
    MemKept s₀ (State.compareDue s) := by
  unfold State.compareDue
  repeat'
    first
      | with_reducible assumption
      | intro _
      | with_reducible apply MemKept.ite
      | with_reducible apply State.announceClamp_memKept
      | extract_lets
      | split
      | (dsimp +zetaDelta only; split)
      | with_reducible apply MemKept.mkU

theorem execClamp_memKept {s₀ s : State} (h : MemKept s₀ s) (now : Nat) :
    MemKeptO s₀ (execClamp now s) := by
  unfold execClamp
  repeat'
    first
      | with_reducible assumption
      | intro _
      | with_reducible apply MemKeptO.next
      | exact MemKeptO.fault _
      | with_reducible apply MemKeptOpt.some
      | exact MemKeptOpt.none
      | with_reducible apply MemKeptO.ite
      | with_reducible apply MemKeptOpt.ite
      | with_reducible apply MemKept.ite
      | with_reducible apply State.at__memKept
      | with_reducible apply State.compareDue_memKept
      | with_reducible apply State.latchClamp_memKept
      | extract_lets
      | split
      | (dsimp +zetaDelta only; split)
      | with_reducible apply MemKept.mkU

theorem execClampInEdge_memKept {s₀ s : State} (h : MemKept s₀ s) (now : Nat) :
    MemKeptO s₀ (execClampInEdge now s) := by
  unfold execClampInEdge
  repeat'
    first
      | with_reducible assumption
      | intro _
      | with_reducible apply MemKeptO.next
      | exact MemKeptO.fault _
      | with_reducible apply MemKeptOpt.some
      | exact MemKeptOpt.none
      | with_reducible apply MemKeptO.ite
      | with_reducible apply MemKeptOpt.ite
      | with_reducible apply MemKept.ite
      | with_reducible apply State.at__memKept
      | with_reducible apply State.announceClamp_memKept
      | extract_lets
      | split
      | (dsimp +zetaDelta only; split)
      | with_reducible apply MemKept.mkU

theorem execSnapArm_memKept {s₀ s : State} (h : MemKept s₀ s) (c : CellIx) :
    MemKeptO s₀ (execSnapArm c s) := by
  unfold execSnapArm
  repeat'
    first
      | with_reducible assumption
      | intro _
      | with_reducible apply MemKeptO.next
      | exact MemKeptO.fault _
      | with_reducible apply MemKeptOpt.some
      | exact MemKeptOpt.none
      | with_reducible apply MemKeptO.ite
      | with_reducible apply MemKeptOpt.ite
      | with_reducible apply MemKept.ite
      | with_reducible apply State.modCell_memKept
      | extract_lets
      | split
      | (dsimp +zetaDelta only; split)
      | with_reducible apply MemKept.mkU

theorem State.setRick_memKept {s₀ s : State} (h : MemKept s₀ s) (r : RickRef) (k : Rick) :
    MemKept s₀ (State.setRick s r k) := by
  unfold State.setRick
  repeat'
    first
      | with_reducible assumption
      | intro _
      | with_reducible apply MemKept.ite
      | with_reducible apply State.modCell_memKept
      | with_reducible apply State.modQueue_memKept
      | extract_lets
      | split
      | (dsimp +zetaDelta only; split)
      | with_reducible apply MemKept.mkU

theorem execRickDataRead_memKept {s₀ s : State} (h : MemKept s₀ s) (r : RickRef) :
    MemKeptO s₀ (execRickDataRead r s) := by
  unfold execRickDataRead
  repeat'
    first
      | with_reducible assumption
      | intro _
      | with_reducible apply MemKeptO.next
      | exact MemKeptO.fault _
      | with_reducible apply MemKeptOpt.some
      | exact MemKeptOpt.none
      | with_reducible apply MemKeptO.ite
      | with_reducible apply MemKeptOpt.ite
      | with_reducible apply MemKept.ite
      | with_reducible apply State.setRick_memKept
      | with_reducible apply State.emit_memKept
      | extract_lets
      | split
      | (dsimp +zetaDelta only; split)
      | with_reducible apply MemKept.mkU

theorem execDropItem_memKept {s₀ s : State} (h : MemKept s₀ s) (r : RickRef) :
    MemKeptO s₀ (execDropItem r s) := by
  unfold execDropItem
  repeat'
    first
      | with_reducible assumption
      | intro _
      | with_reducible apply MemKeptO.next
      | exact MemKeptO.fault _
      | with_reducible apply MemKeptOpt.some
      | exact MemKeptOpt.none
      | with_reducible apply MemKeptO.ite
      | with_reducible apply MemKeptOpt.ite
      | with_reducible apply MemKept.ite
      | with_reducible apply State.setRick_memKept
      | extract_lets
      | split
      | (dsimp +zetaDelta only; split)
      | with_reducible apply MemKept.mkU

theorem execFlush_memKept {s₀ s : State} (h : MemKept s₀ s) (r : RickRef) :
    MemKeptO s₀ (execFlush r s) := by
  unfold execFlush
  repeat'
    first
      | with_reducible assumption
      | intro _
      | with_reducible apply MemKeptO.next
      | exact MemKeptO.fault _
      | with_reducible apply MemKeptOpt.some
      | exact MemKeptOpt.none
      | with_reducible apply MemKeptO.ite
      | with_reducible apply MemKeptOpt.ite
      | with_reducible apply MemKept.ite
      | with_reducible apply State.setRick_memKept
      | extract_lets
      | split
      | (dsimp +zetaDelta only; split)
      | with_reducible apply MemKept.mkU

theorem State.fwCause_memKept {s₀ s : State} (h : MemKept s₀ s) (c : Nat) :
    MemKept s₀ (State.fwCause s c).2 := by
  unfold State.fwCause
  repeat'
    first
      | with_reducible assumption
      | intro _
      | with_reducible apply MemKept.ite
      | with_reducible apply State.draw_memKept
      | extract_lets
      | split
      | (dsimp +zetaDelta only; split)
      | with_reducible apply MemKept.mkU

theorem State.raiseFloor_memKept {s₀ s : State} (h : MemKept s₀ s) (kind : Nat) (svn : Nat) :
    MemKept s₀ (State.raiseFloor s kind svn) := by
  unfold State.raiseFloor
  repeat'
    first
      | with_reducible assumption
      | intro _
      | with_reducible apply MemKept.ite
      | extract_lets
      | split
      | (dsimp +zetaDelta only; split)
      | with_reducible apply MemKept.mkU

theorem State.mapSpares_memKept {s₀ s : State} (h : MemKept s₀ s) :
    MemKept s₀ (State.mapSpares s) := by
  unfold State.mapSpares
  repeat'
    first
      | with_reducible assumption
      | intro _
      | with_reducible apply MemKept.ite
      | with_reducible apply MemKept.foldl
      | with_reducible apply MemKept.foldl_fst
      | with_reducible apply MemKept.foldl_snd
      | extract_lets
      | split
      | (dsimp +zetaDelta only; split)
      | with_reducible apply MemKept.mkU

theorem State.runStaged_memKept {s₀ s : State} (h : MemKept s₀ s) :
    MemKept s₀ (State.runStaged s) := by
  unfold State.runStaged
  repeat'
    first
      | with_reducible assumption
      | intro _
      | with_reducible apply MemKept.ite
      | with_reducible apply State.raiseFloor_memKept
      | extract_lets
      | split
      | (dsimp +zetaDelta only; split)
      | with_reducible apply MemKept.mkU

theorem State.gate_memKept {s₀ s : State} (h : MemKept s₀ s) (service : Nat) (core : ScIx) (r : BitVec 512) (entry : Bytes) :
    MemKeptO s₀ (State.gate s service core r entry) := by
  unfold State.gate
  repeat'
    first
      | with_reducible assumption
      | intro _
      | with_reducible apply MemKeptO.next
      | exact MemKeptO.fault _
      | with_reducible apply MemKeptOpt.some
      | exact MemKeptOpt.none
      | with_reducible apply MemKeptO.ite
      | with_reducible apply MemKeptOpt.ite
      | with_reducible apply MemKept.ite
      | with_reducible apply State.meetIn_memKept
      | with_reducible apply State.draw_memKept
      | extract_lets
      | split
      | (dsimp +zetaDelta only; split)
      | with_reducible apply MemKept.mkU

theorem execGateTableSwap_memKept {s₀ s : State} (h : MemKept s₀ s) (core : ScIx) (req : BitVec 512) (entry : Bytes) :
    MemKeptO s₀ (execGateTableSwap core req entry s) := by
  unfold execGateTableSwap
  repeat'
    first
      | with_reducible assumption
      | intro _
      | with_reducible apply MemKeptO.next
      | exact MemKeptO.fault _
      | with_reducible apply MemKeptOpt.some
      | exact MemKeptOpt.none
      | with_reducible apply MemKeptO.ite
      | with_reducible apply MemKeptOpt.ite
      | with_reducible apply MemKept.ite
      | with_reducible apply State.gate_memKept
      | extract_lets
      | split
      | (dsimp +zetaDelta only; split)
      | with_reducible apply MemKept.mkU

theorem execGateSettingsCommit_memKept {s₀ s : State} (h : MemKept s₀ s) (core : ScIx) (req : BitVec 512) (entry : Bytes) :
    MemKeptO s₀ (execGateSettingsCommit core req entry s) := by
  unfold execGateSettingsCommit
  repeat'
    first
      | with_reducible assumption
      | intro _
      | with_reducible apply MemKeptO.next
      | exact MemKeptO.fault _
      | with_reducible apply MemKeptOpt.some
      | exact MemKeptOpt.none
      | with_reducible apply MemKeptO.ite
      | with_reducible apply MemKeptOpt.ite
      | with_reducible apply MemKept.ite
      | with_reducible apply State.gate_memKept
      | extract_lets
      | split
      | (dsimp +zetaDelta only; split)
      | with_reducible apply MemKept.mkU

theorem execGateLease_memKept {s₀ s : State} (h : MemKept s₀ s) (core : ScIx) (req : BitVec 512) (entry : Bytes) :
    MemKeptO s₀ (execGateLease core req entry s) := by
  unfold execGateLease
  repeat'
    first
      | with_reducible assumption
      | intro _
      | with_reducible apply MemKeptO.next
      | exact MemKeptO.fault _
      | with_reducible apply MemKeptOpt.some
      | exact MemKeptOpt.none
      | with_reducible apply MemKeptO.ite
      | with_reducible apply MemKeptOpt.ite
      | with_reducible apply MemKept.ite
      | with_reducible apply State.gate_memKept
      | extract_lets
      | split
      | (dsimp +zetaDelta only; split)
      | with_reducible apply MemKept.mkU

theorem execGateRegionPstate_memKept {s₀ s : State} (h : MemKept s₀ s) (core : ScIx) (req : BitVec 512) (entry : Bytes) :
    MemKeptO s₀ (execGateRegionPstate core req entry s) := by
  unfold execGateRegionPstate
  repeat'
    first
      | with_reducible assumption
      | intro _
      | with_reducible apply MemKeptO.next
      | exact MemKeptO.fault _
      | with_reducible apply MemKeptOpt.some
      | exact MemKeptOpt.none
      | with_reducible apply MemKeptO.ite
      | with_reducible apply MemKeptOpt.ite
      | with_reducible apply MemKept.ite
      | with_reducible apply State.gate_memKept
      | extract_lets
      | split
      | (dsimp +zetaDelta only; split)
      | with_reducible apply MemKept.mkU

theorem execGateCellTableWrite_memKept {s₀ s : State} (h : MemKept s₀ s) (core : ScIx) (req : BitVec 512) (entry : Bytes) :
    MemKeptO s₀ (execGateCellTableWrite core req entry s) := by
  unfold execGateCellTableWrite
  repeat'
    first
      | with_reducible assumption
      | intro _
      | with_reducible apply MemKeptO.next
      | exact MemKeptO.fault _
      | with_reducible apply MemKeptOpt.some
      | exact MemKeptOpt.none
      | with_reducible apply MemKeptO.ite
      | with_reducible apply MemKeptOpt.ite
      | with_reducible apply MemKept.ite
      | with_reducible apply State.gate_memKept
      | extract_lets
      | split
      | (dsimp +zetaDelta only; split)
      | with_reducible apply MemKept.mkU

theorem execGateSpareSubst_memKept {s₀ s : State} (h : MemKept s₀ s) (core : ScIx) (req : BitVec 512) (entry : Bytes) :
    MemKeptO s₀ (execGateSpareSubst core req entry s) := by
  unfold execGateSpareSubst
  repeat'
    first
      | with_reducible assumption
      | intro _
      | with_reducible apply MemKeptO.next
      | exact MemKeptO.fault _
      | with_reducible apply MemKeptOpt.some
      | exact MemKeptOpt.none
      | with_reducible apply MemKeptO.ite
      | with_reducible apply MemKeptOpt.ite
      | with_reducible apply MemKept.ite
      | with_reducible apply State.gate_memKept
      | extract_lets
      | split
      | (dsimp +zetaDelta only; split)
      | with_reducible apply MemKept.mkU

theorem execGateFirmware_memKept {s₀ s : State} (h : MemKept s₀ s) (core : ScIx) (req : BitVec 512) (entry : Bytes) :
    MemKeptO s₀ (execGateFirmware core req entry s) := by
  unfold execGateFirmware
  repeat'
    first
      | with_reducible assumption
      | intro _
      | with_reducible apply MemKeptO.next
      | exact MemKeptO.fault _
      | with_reducible apply MemKeptOpt.some
      | exact MemKeptOpt.none
      | with_reducible apply MemKeptO.ite
      | with_reducible apply MemKeptOpt.ite
      | with_reducible apply MemKept.ite
      | with_reducible apply State.gate_memKept
      | extract_lets
      | split
      | (dsimp +zetaDelta only; split)
      | with_reducible apply MemKept.mkU

theorem execGateQueue_memKept {s₀ s : State} (h : MemKept s₀ s) (core : ScIx) (req : BitVec 512) (entry : Bytes) :
    MemKeptO s₀ (execGateQueue core req entry s) := by
  unfold execGateQueue
  repeat'
    first
      | with_reducible assumption
      | intro _
      | with_reducible apply MemKeptO.next
      | exact MemKeptO.fault _
      | with_reducible apply MemKeptOpt.some
      | exact MemKeptOpt.none
      | with_reducible apply MemKeptO.ite
      | with_reducible apply MemKeptOpt.ite
      | with_reducible apply MemKept.ite
      | with_reducible apply State.gate_memKept
      | extract_lets
      | split
      | (dsimp +zetaDelta only; split)
      | with_reducible apply MemKept.mkU

theorem execGateHealth_memKept {s₀ s : State} (h : MemKept s₀ s) (core : ScIx) (req : BitVec 512) (entry : Bytes) :
    MemKeptO s₀ (execGateHealth core req entry s) := by
  unfold execGateHealth
  repeat'
    first
      | with_reducible assumption
      | intro _
      | with_reducible apply MemKeptO.next
      | exact MemKeptO.fault _
      | with_reducible apply MemKeptOpt.some
      | exact MemKeptOpt.none
      | with_reducible apply MemKeptO.ite
      | with_reducible apply MemKeptOpt.ite
      | with_reducible apply MemKept.ite
      | with_reducible apply State.gate_memKept
      | extract_lets
      | split
      | (dsimp +zetaDelta only; split)
      | with_reducible apply MemKept.mkU

theorem State.failMc_memKept {s₀ s : State} (h : MemKept s₀ s) (m : Nat) (origin : Nat) (action : Nat) :
    MemKept s₀ (State.failMc s m origin action) := by
  unfold State.failMc
  repeat'
    first
      | with_reducible assumption
      | intro _
      | with_reducible apply MemKept.ite
      | with_reducible apply State.modMc_memKept
      | with_reducible apply State.takeSpare_memKept
      | with_reducible apply State.replaced_memKept
      | extract_lets
      | split
      | (dsimp +zetaDelta only; split)
      | with_reducible apply MemKept.mkU

theorem State.callStandby_memKept {s₀ s : State} (h : MemKept s₀ s) :
    MemKept s₀ (State.callStandby s) := by
  unfold State.callStandby
  repeat'
    first
      | with_reducible assumption
      | intro _
      | with_reducible apply MemKept.ite
      | with_reducible apply State.modMc_memKept
      | extract_lets
      | split
      | (dsimp +zetaDelta only; split)
      | with_reducible apply MemKept.mkU

theorem execMgmtDeviation_memKept {s₀ s : State} (h : MemKept s₀ s) (m : McIx) (now : Nat) :
    MemKeptO s₀ (execMgmtDeviation m now s) := by
  unfold execMgmtDeviation
  repeat'
    first
      | with_reducible assumption
      | intro _
      | with_reducible apply MemKeptO.next
      | exact MemKeptO.fault _
      | with_reducible apply MemKeptOpt.some
      | exact MemKeptOpt.none
      | with_reducible apply MemKeptO.ite
      | with_reducible apply MemKeptOpt.ite
      | with_reducible apply MemKept.ite
      | with_reducible apply State.at__memKept
      | with_reducible apply State.modMc_memKept
      | with_reducible apply State.addWear_memKept
      | with_reducible apply State.faultNotice_memKept
      | with_reducible apply State.failMc_memKept
      | with_reducible apply State.callStandby_memKept
      | extract_lets
      | split
      | (dsimp +zetaDelta only; split)
      | with_reducible apply MemKept.mkU

theorem execStandbyJoin_memKept {s₀ s : State} (h : MemKept s₀ s) (m : McIx) (now : Nat) :
    MemKeptO s₀ (execStandbyJoin m now s) := by
  unfold execStandbyJoin
  repeat'
    first
      | with_reducible assumption
      | intro _
      | with_reducible apply MemKeptO.next
      | exact MemKeptO.fault _
      | with_reducible apply MemKeptOpt.some
      | exact MemKeptOpt.none
      | with_reducible apply MemKeptO.ite
      | with_reducible apply MemKeptOpt.ite
      | with_reducible apply MemKept.ite
      | with_reducible apply State.at__memKept
      | with_reducible apply State.modMc_memKept
      | extract_lets
      | split
      | (dsimp +zetaDelta only; split)
      | with_reducible apply MemKept.mkU

theorem execStandbyPromote_memKept {s₀ s : State} (h : MemKept s₀ s) (m : McIx) (passed : Bool) (now : Nat) :
    MemKeptO s₀ (execStandbyPromote m passed now s) := by
  unfold execStandbyPromote
  repeat'
    first
      | with_reducible assumption
      | intro _
      | with_reducible apply MemKeptO.next
      | exact MemKeptO.fault _
      | with_reducible apply MemKeptOpt.some
      | exact MemKeptOpt.none
      | with_reducible apply MemKeptO.ite
      | with_reducible apply MemKeptOpt.ite
      | with_reducible apply MemKept.ite
      | with_reducible apply State.at__memKept
      | with_reducible apply State.failMc_memKept
      | with_reducible apply State.modMc_memKept
      | extract_lets
      | split
      | (dsimp +zetaDelta only; split)
      | with_reducible apply MemKept.mkU

theorem State.wearPhase_memKept {s₀ s : State} (h : MemKept s₀ s) (p : Nat) :
    MemKept s₀ (State.wearPhase s p) := by
  unfold State.wearPhase
  repeat'
    first
      | with_reducible assumption
      | intro _
      | with_reducible apply MemKept.ite
      | with_reducible apply State.modGroup_memKept
      | with_reducible apply State.modPhase_memKept
      | with_reducible apply State.takeSpare_memKept
      | with_reducible apply State.replaced_memKept
      | extract_lets
      | split
      | (dsimp +zetaDelta only; split)
      | with_reducible apply MemKept.mkU

theorem State.takeHour_memKept {s₀ s : State} (h : MemKept s₀ s) (k : Nat) (unit : Nat) (detail : Nat) :
    MemKept s₀ (State.takeHour s k unit detail).2 := by
  unfold State.takeHour
  repeat'
    first
      | with_reducible assumption
      | intro _
      | with_reducible apply MemKept.ite
      | with_reducible apply State.modSite_memKept
      | with_reducible apply State.modWear_memKept
      | extract_lets
      | split
      | (dsimp +zetaDelta only; split)
      | with_reducible apply MemKept.mkU

theorem execWearLogWrite_memKept {s₀ s : State} (h : MemKept s₀ s) (rkind : Byte) (unit : Half) (value : Word) (detail : Word) :
    MemKeptO s₀ (execWearLogWrite rkind unit value detail s) := by
  unfold execWearLogWrite
  repeat'
    first
      | with_reducible assumption
      | intro _
      | with_reducible apply MemKeptO.next
      | exact MemKeptO.fault _
      | with_reducible apply MemKeptOpt.some
      | exact MemKeptOpt.none
      | with_reducible apply MemKeptO.ite
      | with_reducible apply MemKeptOpt.ite
      | with_reducible apply MemKept.ite
      | with_reducible apply State.takeHour_memKept
      | with_reducible apply State.addWear_memKept
      | with_reducible apply State.modBank_memKept
      | extract_lets
      | split
      | (dsimp +zetaDelta only; split)
      | with_reducible apply MemKept.mkU

theorem execPhaseShed_memKept {s₀ s : State} (h : MemKept s₀ s) (g : GroupIx) (lossPermille : Nat) (now : Nat) :
    MemKeptO s₀ (execPhaseShed g lossPermille now s) := by
  unfold execPhaseShed
  repeat'
    first
      | with_reducible assumption
      | intro _
      | with_reducible apply MemKeptO.next
      | exact MemKeptO.fault _
      | with_reducible apply MemKeptOpt.some
      | exact MemKeptOpt.none
      | with_reducible apply MemKeptO.ite
      | with_reducible apply MemKeptOpt.ite
      | with_reducible apply MemKept.ite
      | with_reducible apply State.at__memKept
      | with_reducible apply State.modGroup_memKept
      | with_reducible apply State.modPhase_memKept
      | with_reducible apply State.wearPhase_memKept
      | extract_lets
      | split
      | (dsimp +zetaDelta only; split)
      | with_reducible apply MemKept.mkU

theorem execBringupIslandRelease_memKept {s₀ s : State} (h : MemKept s₀ s) :
    MemKeptO s₀ (execBringupIslandRelease s) := by
  unfold execBringupIslandRelease
  repeat'
    first
      | with_reducible assumption
      | intro _
      | with_reducible apply MemKeptO.next
      | exact MemKeptO.fault _
      | with_reducible apply MemKeptOpt.some
      | exact MemKeptOpt.none
      | with_reducible apply MemKeptO.ite
      | with_reducible apply MemKeptOpt.ite
      | with_reducible apply MemKept.ite
      | extract_lets
      | split
      | (dsimp +zetaDelta only; split)
      | with_reducible apply MemKept.mkU

theorem State.cmdIgnored_memKept {s₀ s : State} (h : MemKept s₀ s) :
    MemKept s₀ (State.cmdIgnored s) := by
  unfold State.cmdIgnored
  repeat'
    first
      | with_reducible assumption
      | intro _
      | with_reducible apply MemKept.ite
      | extract_lets
      | split
      | (dsimp +zetaDelta only; split)
      | with_reducible apply MemKept.mkU

theorem execRefclkBack_memKept {s₀ s : State} (h : MemKept s₀ s) (now : Nat) :
    MemKeptO s₀ (execRefclkBack now s) := by
  unfold execRefclkBack
  repeat'
    first
      | with_reducible assumption
      | intro _
      | with_reducible apply MemKeptO.next
      | exact MemKeptO.fault _
      | with_reducible apply MemKeptOpt.some
      | exact MemKeptOpt.none
      | with_reducible apply MemKeptO.ite
      | with_reducible apply MemKeptOpt.ite
      | with_reducible apply MemKept.ite
      | with_reducible apply State.at__memKept
      | with_reducible apply State.notice0_memKept
      | extract_lets
      | split
      | (dsimp +zetaDelta only; split)
      | with_reducible apply MemKept.mkU

theorem State.columnOut_memKept {s₀ s : State} (h : MemKept s₀ s) (cd : Nat) (phys : Nat) :
    MemKept s₀ (State.columnOut s cd phys) := by
  unfold State.columnOut
  repeat'
    first
      | with_reducible assumption
      | intro _
      | with_reducible apply MemKept.ite
      | with_reducible apply State.modCd_memKept
      | extract_lets
      | split
      | (dsimp +zetaDelta only; split)
      | with_reducible apply MemKept.mkU

theorem State.positionOut_memKept {s₀ s : State} (h : MemKept s₀ s) (p : Nat) (pos : Nat) (substituted : Bool) :
    MemKept s₀ (State.positionOut s p pos substituted) := by
  unfold State.positionOut
  repeat'
    first
      | with_reducible assumption
      | intro _
      | with_reducible apply MemKept.ite
      | with_reducible apply State.modPort_memKept
      | with_reducible apply State.announceMap_memKept
      | extract_lets
      | split
      | (dsimp +zetaDelta only; split)
      | with_reducible apply MemKept.mkU

theorem State.applyTrim_memKept {s₀ s : State} (h : MemKept s₀ s) :
    MemKept s₀ (State.applyTrim s) := by
  unfold State.applyTrim
  repeat'
    first
      | with_reducible assumption
      | intro _
      | with_reducible apply MemKept.ite
      | with_reducible apply State.announceMap_memKept
      | with_reducible apply MemKept.foldl
      | with_reducible apply MemKept.foldl_fst
      | with_reducible apply MemKept.foldl_snd
      | extract_lets
      | split
      | (dsimp +zetaDelta only; split)
      | with_reducible apply MemKept.mkU

theorem State.bankOut_memKept {s₀ s : State} (h : MemKept s₀ s) (b : Nat) (action : Nat) :
    MemKept s₀ (State.bankOut s b action) := by
  unfold State.bankOut
  repeat'
    first
      | with_reducible assumption
      | intro _
      | with_reducible apply MemKept.ite
      | with_reducible apply State.modBank_memKept
      | with_reducible apply State.modPort_memKept
      | with_reducible apply MemKept.foldl
      | with_reducible apply MemKept.foldl_fst
      | with_reducible apply MemKept.foldl_snd
      | extract_lets
      | split
      | (dsimp +zetaDelta only; split)
      | with_reducible apply MemKept.mkU

theorem State.pcOut_memKept {s₀ s : State} (h : MemKept s₀ s) (m : Nat) (phys : Nat) (action : Nat) :
    MemKept s₀ (State.pcOut s m phys action) := by
  unfold State.pcOut
  repeat'
    first
      | with_reducible assumption
      | intro _
      | with_reducible apply MemKept.ite
      | with_reducible apply State.modSite_memKept
      | extract_lets
      | split
      | (dsimp +zetaDelta only; split)
      | with_reducible apply MemKept.mkU

theorem State.phaseOut_memKept {s₀ s : State} (h : MemKept s₀ s) (p : Nat) (action : Nat) :
    MemKept s₀ (State.phaseOut s p action) := by
  unfold State.phaseOut
  repeat'
    first
      | with_reducible assumption
      | intro _
      | with_reducible apply MemKept.ite
      | with_reducible apply State.modPhase_memKept
      | with_reducible apply State.modGroup_memKept
      | extract_lets
      | split
      | (dsimp +zetaDelta only; split)
      | with_reducible apply MemKept.mkU

theorem State.countPool_memKept {s₀ s : State} (h : MemKept s₀ s) (d : Defect) :
    MemKept s₀ (State.countPool s d) := by
  unfold State.countPool
  repeat'
    first
      | with_reducible assumption
      | intro _
      | with_reducible apply MemKept.ite
      | extract_lets
      | split
      | (dsimp +zetaDelta only; split)
      | with_reducible apply MemKept.mkU

theorem State.applyDefect_memKept {s₀ s : State} (h : MemKept s₀ s) (d : Defect) :
    MemKept s₀ (State.applyDefect s d) := by
  unfold State.applyDefect
  repeat'
    first
      | with_reducible assumption
      | intro _
      | with_reducible apply MemKept.ite
      | with_reducible apply State.countPool_memKept
      | with_reducible apply State.columnOut_memKept
      | with_reducible apply State.modRegion_memKept
      | with_reducible apply State.phaseOut_memKept
      | with_reducible apply State.bankOut_memKept
      | with_reducible apply State.modPort_memKept
      | with_reducible apply State.positionOut_memKept
      | with_reducible apply State.modSite_memKept
      | with_reducible apply State.pcOut_memKept
      | with_reducible apply State.modMc_memKept
      | with_reducible apply State.modCe_memKept
      | with_reducible apply State.modSensor_memKept
      | with_reducible apply State.laneOut_memKept
      | with_reducible apply MemKept.foldl
      | with_reducible apply MemKept.foldl_fst
      | with_reducible apply MemKept.foldl_snd
      | extract_lets
      | split
      | (dsimp +zetaDelta only; split)
      | with_reducible apply MemKept.mkU

theorem State.applyList_memKept {s₀ s : State} (h : MemKept s₀ s) :
    MemKept s₀ (State.applyList s) := by
  unfold State.applyList
  repeat'
    first
      | with_reducible assumption
      | intro _
      | with_reducible apply MemKept.ite
      | with_reducible apply State.applyDefect_memKept
      | with_reducible apply State.applyTrim_memKept
      | with_reducible apply State.mapSpares_memKept
      | with_reducible apply MemKept.foldl
      | with_reducible apply MemKept.foldl_fst
      | with_reducible apply MemKept.foldl_snd
      | extract_lets
      | split
      | (dsimp +zetaDelta only; split)
      | with_reducible apply MemKept.mkU

theorem State.endStep_memKept {s₀ s : State} (h : MemKept s₀ s) (cause : Byte) (data : DWord) :
    MemKept s₀ (State.endStep s cause data) := by
  unfold State.endStep
  repeat'
    first
      | with_reducible assumption
      | intro _
      | with_reducible apply MemKept.ite
      | extract_lets
      | split
      | (dsimp +zetaDelta only; split)
      | with_reducible apply MemKept.mkU

theorem State.stepBegun_memKept {s₀ s : State} (h : MemKept s₀ s) (code : Nat) :
    MemKept s₀ (State.stepBegun s code) := by
  unfold State.stepBegun
  repeat'
    first
      | with_reducible assumption
      | intro _
      | with_reducible apply MemKept.ite
      | extract_lets
      | split
      | (dsimp +zetaDelta only; split)
      | with_reducible apply MemKept.mkU

theorem State.writeCmd_memKept {s₀ s : State} (h : MemKept s₀ s) (code : Nat) (smbus : Bool) (act : State → State) (hact : ∀ v0, MemKept s₀ v0 → MemKept s₀ (act v0)) :
    MemKept s₀ (State.writeCmd s code smbus act) := by
  unfold State.writeCmd
  repeat'
    first
      | with_reducible assumption
      | intro _
      | with_reducible apply hact
      | with_reducible apply MemKept.ite
      | with_reducible apply State.cmdIgnored_memKept
      | with_reducible apply State.endStep_memKept
      | with_reducible apply State.stepBegun_memKept
      | extract_lets
      | split
      | (dsimp +zetaDelta only; split)
      | with_reducible apply MemKept.mkU

theorem State.runStep_memKept {s₀ s : State} (h : MemKept s₀ s) (code : Nat) (v : Via) (act : State → State) (hact : ∀ v0, MemKept s₀ v0 → MemKept s₀ (act v0)) :
    MemKept s₀ (State.runStep s code v act) := by
  unfold State.runStep
  repeat'
    first
      | with_reducible assumption
      | intro _
      | with_reducible apply hact
      | with_reducible apply MemKept.ite
      | with_reducible apply State.writeCmd_memKept
      | with_reducible apply State.cmdIgnored_memKept
      | extract_lets
      | split
      | (dsimp +zetaDelta only; split)
      | with_reducible apply MemKept.mkU

theorem State.fails_memKept {s₀ s : State} (h : MemKept s₀ s) (cause : Byte) (unit : Nat) (sub : Nat) :
    MemKept s₀ (State.fails s cause unit sub) := by
  unfold State.fails
  repeat'
    first
      | with_reducible assumption
      | intro _
      | with_reducible apply MemKept.ite
      | extract_lets
      | split
      | (dsimp +zetaDelta only; split)
      | with_reducible apply MemKept.mkU

theorem State.succeeds_memKept {s₀ s : State} (h : MemKept s₀ s) (data : Nat) :
    MemKept s₀ (State.succeeds s data) := by
  unfold State.succeeds
  repeat'
    first
      | with_reducible assumption
      | intro _
      | with_reducible apply MemKept.ite
      | extract_lets
      | split
      | (dsimp +zetaDelta only; split)
      | with_reducible apply MemKept.mkU

theorem State.voted_memKept {s₀ s : State} (h : MemKept s₀ s) (cores : Nat) (act : State → State) (hact : ∀ v0, MemKept s₀ v0 → MemKept s₀ (act v0)) :
    MemKept s₀ (State.voted s cores act) := by
  unfold State.voted
  repeat'
    first
      | with_reducible assumption
      | intro _
      | with_reducible apply hact
      | with_reducible apply MemKept.ite
      | with_reducible apply State.fails_memKept
      | extract_lets
      | split
      | (dsimp +zetaDelta only; split)
      | with_reducible apply MemKept.mkU

theorem State.loadSettings_memKept {s₀ s : State} (h : MemKept s₀ s) :
    MemKept s₀ (State.loadSettings s) := by
  unfold State.loadSettings
  repeat'
    first
      | with_reducible assumption
      | intro _
      | with_reducible apply MemKept.ite
      | with_reducible apply State.modCset_memKept
      | extract_lets
      | split
      | (dsimp +zetaDelta only; split)
      | with_reducible apply MemKept.mkU

theorem State.basePowerAct_memKept {s₀ s : State} (h : MemKept s₀ s) (o : BaseObs) :
    MemKept s₀ (State.basePowerAct s o) := by
  unfold State.basePowerAct
  repeat'
    first
      | with_reducible assumption
      | intro _
      | with_reducible apply MemKept.ite
      | with_reducible apply State.fails_memKept
      | with_reducible apply State.voted_memKept
      | with_reducible apply State.loadSettings_memKept
      | with_reducible apply State.applyList_memKept
      | with_reducible apply State.succeeds_memKept
      | extract_lets
      | split
      | (dsimp +zetaDelta only; split)
      | with_reducible apply MemKept.mkU

theorem execBasePower_memKept {s₀ s : State} (h : MemKept s₀ s) (v : Via) (o : BaseObs) :
    MemKeptO s₀ (execBasePower v o s) := by
  unfold execBasePower
  repeat'
    first
      | with_reducible assumption
      | intro _
      | with_reducible apply MemKeptO.next
      | exact MemKeptO.fault _
      | with_reducible apply MemKeptOpt.some
      | exact MemKeptOpt.none
      | with_reducible apply MemKeptO.ite
      | with_reducible apply MemKeptOpt.ite
      | with_reducible apply MemKept.ite
      | with_reducible apply State.runStep_memKept
      | with_reducible apply State.basePowerAct_memKept
      | extract_lets
      | split
      | (dsimp +zetaDelta only; split)
      | with_reducible apply MemKept.mkU

theorem execClocksStart_memKept {s₀ s : State} (h : MemKept s₀ s) (o : ClockStart) :
    MemKeptO s₀ (execClocksStart o s) := by
  unfold execClocksStart
  repeat'
    first
      | with_reducible assumption
      | intro _
      | with_reducible apply MemKeptO.next
      | exact MemKeptO.fault _
      | with_reducible apply MemKeptOpt.some
      | exact MemKeptOpt.none
      | with_reducible apply MemKeptO.ite
      | with_reducible apply MemKeptOpt.ite
      | with_reducible apply MemKept.ite
      | with_reducible apply State.runStep_memKept
      | with_reducible apply State.fails_memKept
      | with_reducible apply State.voted_memKept
      | with_reducible apply State.succeeds_memKept
      | extract_lets
      | split
      | (dsimp +zetaDelta only; split)
      | with_reducible apply MemKept.mkU

theorem State.loadHeartwoodAct_memKept {s₀ s : State} (h : MemKept s₀ s) :
    MemKept s₀ (State.loadHeartwoodAct s) := by
  unfold State.loadHeartwoodAct
  repeat'
    first
      | with_reducible assumption
      | intro _
      | with_reducible apply MemKept.ite
      | with_reducible apply State.fails_memKept
      | with_reducible apply State.modMc_memKept
      | with_reducible apply State.succeeds_memKept
      | with_reducible apply MemKept.foldl
      | with_reducible apply MemKept.foldl_fst
      | with_reducible apply MemKept.foldl_snd
      | extract_lets
      | split
      | (dsimp +zetaDelta only; split)
      | with_reducible apply MemKept.mkU

theorem execLoadHeartwood_memKept {s₀ s : State} (h : MemKept s₀ s) (v : Via) :
    MemKeptO s₀ (execLoadHeartwood v s) := by
  unfold execLoadHeartwood
  repeat'
    first
      | with_reducible assumption
      | intro _
      | with_reducible apply MemKeptO.next
      | exact MemKeptO.fault _
      | with_reducible apply MemKeptOpt.some
      | exact MemKeptOpt.none
      | with_reducible apply MemKeptO.ite
      | with_reducible apply MemKeptOpt.ite
      | with_reducible apply MemKept.ite
      | with_reducible apply State.runStep_memKept
      | with_reducible apply State.loadHeartwoodAct_memKept
      | extract_lets
      | split
      | (dsimp +zetaDelta only; split)
      | with_reducible apply MemKept.mkU

theorem State.bankBooted_memKept {s₀ s : State} (h : MemKept s₀ s) :
    MemKept s₀ (State.bankBooted s) := by
  unfold State.bankBooted
  repeat'
    first
      | with_reducible assumption
      | intro _
      | with_reducible apply MemKept.ite
      | with_reducible apply State.raiseFloor_memKept
      | with_reducible apply MemKept.foldl
      | with_reducible apply MemKept.foldl_fst
      | with_reducible apply MemKept.foldl_snd
      | extract_lets
      | split
      | (dsimp +zetaDelta only; split)
      | with_reducible apply MemKept.mkU

theorem State.imageFails_memKept {s₀ s : State} (h : MemKept s₀ s) (c : Nat) :
    MemKept s₀ (State.imageFails s c) := by
  unfold State.imageFails
  repeat'
    first
      | with_reducible assumption
      | intro _
      | with_reducible apply MemKept.ite
      | with_reducible apply State.fwCause_memKept
      | with_reducible apply State.fails_memKept
      | extract_lets
      | split
      | (dsimp +zetaDelta only; split)
      | with_reducible apply MemKept.mkU

theorem State.recoverAct_memKept {s₀ s : State} (h : MemKept s₀ s) (data : Option Bytes) :
    MemKept s₀ (State.recoverAct s data) := by
  unfold State.recoverAct
  repeat'
    first
      | with_reducible assumption
      | intro _
      | with_reducible apply MemKept.ite
      | with_reducible apply State.fails_memKept
      | with_reducible apply State.imageFails_memKept
      | extract_lets
      | split
      | (dsimp +zetaDelta only; split)
      | with_reducible apply MemKept.mkU

theorem execHwRecover_memKept {s₀ s : State} (h : MemKept s₀ s) (v : Via) (data : Option Bytes) :
    MemKeptO s₀ (execHwRecover v data s) := by
  unfold execHwRecover
  repeat'
    first
      | with_reducible assumption
      | intro _
      | with_reducible apply MemKeptO.next
      | exact MemKeptO.fault _
      | with_reducible apply MemKeptOpt.some
      | exact MemKeptOpt.none
      | with_reducible apply MemKeptO.ite
      | with_reducible apply MemKeptOpt.ite
      | with_reducible apply MemKept.ite
      | with_reducible apply State.runStep_memKept
      | with_reducible apply State.recoverAct_memKept
      | extract_lets
      | split
      | (dsimp +zetaDelta only; split)
      | with_reducible apply MemKept.mkU

theorem State.loadCordwoodAct_memKept {s₀ s : State} (h : MemKept s₀ s) (data : Option Bytes) :
    MemKept s₀ (State.loadCordwoodAct s data) := by
  unfold State.loadCordwoodAct
  repeat'
    first
      | with_reducible assumption
      | intro _
      | with_reducible apply MemKept.ite
      | with_reducible apply State.fails_memKept
      | with_reducible apply State.imageFails_memKept
      | with_reducible apply State.runStaged_memKept
      | with_reducible apply State.succeeds_memKept
      | extract_lets
      | split
      | (dsimp +zetaDelta only; split)
      | with_reducible apply MemKept.mkU

theorem execLoadCordwood_memKept {s₀ s : State} (h : MemKept s₀ s) (v : Via) (data : Option Bytes) :
    MemKeptO s₀ (execLoadCordwood v data s) := by
  unfold execLoadCordwood
  repeat'
    first
      | with_reducible assumption
      | intro _
      | with_reducible apply MemKeptO.next
      | exact MemKeptO.fault _
      | with_reducible apply MemKeptOpt.some
      | exact MemKeptOpt.none
      | with_reducible apply MemKeptO.ite
      | with_reducible apply MemKeptOpt.ite
      | with_reducible apply MemKept.ite
      | with_reducible apply State.runStep_memKept
      | with_reducible apply State.loadCordwoodAct_memKept
      | extract_lets
      | split
      | (dsimp +zetaDelta only; split)
      | with_reducible apply MemKept.mkU

theorem State.queuesDone_memKept {s₀ s : State} (h : MemKept s₀ s) :
    MemKept s₀ (State.queuesDone s) := by
  unfold State.queuesDone
  repeat'
    first
      | with_reducible assumption
      | intro _
      | with_reducible apply MemKept.ite
      | extract_lets
      | split
      | (dsimp +zetaDelta only; split)
      | with_reducible apply MemKept.mkU

theorem execBringupStepEnd_memKept {s₀ s : State} (h : MemKept s₀ s) :
    MemKeptO s₀ (execBringupStepEnd s) := by
  unfold execBringupStepEnd
  repeat'
    first
      | with_reducible assumption
      | intro _
      | with_reducible apply MemKeptO.next
      | exact MemKeptO.fault _
      | with_reducible apply MemKeptOpt.some
      | exact MemKeptOpt.none
      | with_reducible apply MemKeptO.ite
      | with_reducible apply MemKeptOpt.ite
      | with_reducible apply MemKept.ite
      | with_reducible apply State.endStep_memKept
      | with_reducible apply State.bankBooted_memKept
      | with_reducible apply State.queuesDone_memKept
      | extract_lets
      | split
      | (dsimp +zetaDelta only; split)
      | with_reducible apply MemKept.mkU

theorem State.undoStep_memKept {s₀ s : State} (h : MemKept s₀ s) (code : Nat) :
    MemKept s₀ (State.undoStep s code) := by
  unfold State.undoStep
  repeat'
    first
      | with_reducible assumption
      | intro _
      | with_reducible apply MemKept.ite
      | with_reducible apply State.modQueue_memKept
      | extract_lets
      | split
      | (dsimp +zetaDelta only; split)
      | with_reducible apply MemKept.mkU

theorem execBringupStepTimeout_memKept {s₀ s : State} (h : MemKept s₀ s) (sub : Byte) :
    MemKeptO s₀ (execBringupStepTimeout sub s) := by
  unfold execBringupStepTimeout
  repeat'
    first
      | with_reducible assumption
      | intro _
      | with_reducible apply MemKeptO.next
      | exact MemKeptO.fault _
      | with_reducible apply MemKeptOpt.some
      | exact MemKeptOpt.none
      | with_reducible apply MemKeptO.ite
      | with_reducible apply MemKeptOpt.ite
      | with_reducible apply MemKept.ite
      | with_reducible apply State.undoStep_memKept
      | with_reducible apply State.endStep_memKept
      | extract_lets
      | split
      | (dsimp +zetaDelta only; split)
      | with_reducible apply MemKept.mkU

theorem execMirrorStatusRead_memKept {s₀ s : State} (h : MemKept s₀ s) :
    MemKeptO s₀ (execMirrorStatusRead s) := by
  unfold execMirrorStatusRead
  repeat'
    first
      | with_reducible assumption
      | intro _
      | with_reducible apply MemKeptO.next
      | exact MemKeptO.fault _
      | with_reducible apply MemKeptOpt.some
      | exact MemKeptOpt.none
      | with_reducible apply MemKeptO.ite
      | with_reducible apply MemKeptOpt.ite
      | with_reducible apply MemKept.ite
      | extract_lets
      | split
      | (dsimp +zetaDelta only; split)
      | with_reducible apply MemKept.mkU

end Sys2Proof.Machine
end

