-- ==== Sys2Proof/Laws/Memory.lean ====
section
/-!
SUPPORT. Memory: a byte written reads back, every other byte stays, and every operation keeps the canonical form.
-/
namespace Sys2Proof.Machine

/-- The canonical form in words: addresses strictly rise and no listed byte is 0. -/
theorem Memory.wf_iff (m : Memory) :
    Memory.wf m = true ↔ m.Pairwise (fun c d => c.1 < d.1) ∧ ∀ c ∈ m, c.2 ≠ 0 := by
  induction m with
  | nil => simp [Memory.wf]
  | cons c t ih =>
    cases t with
    | nil => simp [Memory.wf]
    | cons d t =>
      simp only [Memory.wf, Bool.and_eq_true, decide_eq_true_eq, ih, List.pairwise_cons, List.mem_cons]
      constructor
      · rintro ⟨⟨hc, hcd⟩, ⟨hd, hp⟩, hz⟩
        refine ⟨⟨?_, hd, hp⟩, ?_⟩
        · rintro e (rfl | he)
          · exact hcd
          · exact Nat.lt_trans hcd (hd e he)
        · rintro e (rfl | he)
          · exact hc
          · exact hz e he
      · rintro ⟨⟨hc, hd, hp⟩, hz⟩
        exact ⟨⟨hz c (.inl rfl), hc d (.inl rfl)⟩, ⟨hd, hp⟩, fun e he => hz e (.inr he)⟩

theorem Memory.wf_nil : Memory.wf [] = true := rfl

/-- What a write lists: the written byte when it is not 0, and every other cell listed before. -/
theorem mem_memSet {m : Memory} {a : Nat} {b : Byte} (h : Memory.wf m = true) (c : Host.Cell) :
    c ∈ memSet m a b ↔ (c = (a, b) ∧ b ≠ 0) ∨ (c ∈ m ∧ c.1 ≠ a) := by
  rw [Memory.wf_iff] at h
  induction m with
  | nil =>
    rw [memSet]
    split
    · rename_i hb; simp [hb]
    · rename_i hb; simpa using fun _ => hb
  | cons d t ih =>
    obtain ⟨k, e⟩ := d
    obtain ⟨hp, hz⟩ := h
    rw [List.pairwise_cons] at hp
    have ih' := ih ⟨hp.2, fun c hc => hz c (List.mem_cons_of_mem _ hc)⟩
    have habove : ∀ c ∈ t, k < c.1 := fun c hc => hp.1 c hc
    simp only [memSet]
    split
    · rename_i hlt
      have hne : ∀ c ∈ ((k, e) :: t : Memory), c.1 ≠ a := by
        intro c hc
        rcases List.mem_cons.1 hc with rfl | hc
        · simp; omega
        · have := habove c hc; omega
      by_cases hb : b = 0
      · simp only [hb, if_true, ne_eq, not_true, and_false, false_or]
        exact ⟨fun hc => ⟨hc, hne c hc⟩, fun hc => hc.1⟩
      · simp only [hb, if_false, List.mem_cons, ne_eq, not_false_eq_true, and_true]
        constructor
        · rintro (rfl | rfl | hc)
          · exact .inl rfl
          · exact .inr ⟨.inl rfl, hne _ (by simp)⟩
          · exact .inr ⟨.inr hc, hne _ (by simp [hc])⟩
        · rintro (rfl | ⟨hc, -⟩)
          · exact .inl rfl
          · exact .inr hc
    · split
      · rename_i hlt heq
        subst heq
        have hne : ∀ c ∈ t, c.1 ≠ a := fun c hc => by have := habove c hc; omega
        by_cases hb : b = 0
        · simp only [hb, if_true, ne_eq, not_true, and_false, false_or, List.mem_cons]
          constructor
          · exact fun hc => ⟨.inr hc, hne c hc⟩
          · rintro ⟨rfl | hc, h⟩
            · exact absurd rfl h
            · exact hc
        · simp only [hb, if_false, List.mem_cons, ne_eq, not_false_eq_true, and_true]
          constructor
          · rintro (rfl | hc)
            · exact .inl rfl
            · exact .inr ⟨.inr hc, hne c hc⟩
          · rintro (rfl | ⟨rfl | hc, h⟩)
            · exact .inl rfl
            · exact absurd rfl h
            · exact .inr hc
      · rename_i hlt heq
        rw [List.mem_cons, ih', List.mem_cons]
        constructor
        · rintro (rfl | h | ⟨hc, h⟩)
          · exact .inr ⟨.inl rfl, fun hk => heq hk.symm⟩
          · exact .inl h
          · exact .inr ⟨.inr hc, h⟩
        · rintro (h | ⟨rfl | hc, h⟩)
          · exact .inr (.inl h)
          · exact .inl rfl
          · exact .inr (.inr ⟨hc, h⟩)

/-- Writing one byte keeps the canonical form. -/
theorem memSet_wf {m : Memory} {a : Nat} {b : Byte} (h : Memory.wf m = true) : Memory.wf (memSet m a b) = true := by
  have hm := fun c => mem_memSet (a := a) (b := b) h c
  rw [Memory.wf_iff]
  refine ⟨?_, fun c hc => ?_⟩
  · rw [Memory.wf_iff] at h
    clear hm
    induction m with
    | nil => rw [memSet]; split <;> simp
    | cons d t ih =>
      obtain ⟨k, e⟩ := d
      obtain ⟨hp, hz⟩ := h
      have hpc := List.pairwise_cons.1 hp
      have ht : t.Pairwise (fun c d => c.1 < d.1) ∧ ∀ c ∈ t, c.2 ≠ 0 := ⟨hpc.2, fun c hc => hz c (List.mem_cons_of_mem _ hc)⟩
      simp only [memSet]
      split
      · rename_i hlt
        split
        · exact hp
        · refine List.pairwise_cons.2 ⟨?_, hp⟩
          intro c hc
          rcases List.mem_cons.1 hc with rfl | hc
          · exact hlt
          · exact Nat.lt_trans hlt (hpc.1 c hc)
      · split
        · rename_i heq
          subst heq
          split
          · exact hpc.2
          · exact List.pairwise_cons.2 ⟨hpc.1, hpc.2⟩
        · rename_i hlt heq
          refine List.pairwise_cons.2 ⟨?_, ih ht⟩
          intro c hc
          rcases (mem_memSet ((Memory.wf_iff t).2 ht) c).1 hc with ⟨rfl, -⟩ | ⟨hc, -⟩
          · simp; omega
          · exact hpc.1 c hc
  · rcases (hm c).1 hc with ⟨rfl, hb⟩ | ⟨hc, -⟩
    · exact hb
    · exact ((Memory.wf_iff m).1 h).2 c hc

/-- Writing a byte string keeps the canonical form. -/
theorem memWrite_wf {m : Memory} {a : Nat} {bs : Bytes} (h : Memory.wf m = true) : Memory.wf (memWrite m a bs) = true := by
  induction bs generalizing m a with
  | nil => exact h
  | cons b t ih => exact ih (memSet_wf h)

/-- Dropping cells keeps the canonical form. -/
theorem memFilter_wf {m : Memory} {p : Host.Cell → Bool} (h : Memory.wf m = true) : Memory.wf (m.filter p) = true := by
  rw [Memory.wf_iff] at h ⊢
  exact ⟨h.1.filter _, fun c hc => h.2 c (List.mem_filter.1 hc).1⟩

/-- Writing zeros keeps the canonical form. -/
theorem memZero_wf {m : Memory} {a n : Nat} (h : Memory.wf m = true) : Memory.wf (memZero m a n) = true := memFilter_wf h

/-- A byte written reads back, and every other byte reads as before. -/
theorem memGet_memSet {m : Memory} (a b : Nat) (v : Byte) (h : Memory.wf m = true) :
    memGet (memSet m a v) b = if b = a then v else memGet m b := by
  induction m with
  | nil =>
    rw [memSet]
    split
    · rename_i hv; simp [memGet, hv]
    · by_cases hb : a = b
      · subst hb; simp [memGet]
      · simp [memGet, hb, Ne.symm hb]
  | cons d t ih =>
    obtain ⟨k, e⟩ := d
    rw [Memory.wf_iff] at h
    obtain ⟨hp, hz⟩ := h
    have hpc := List.pairwise_cons.1 hp
    have ht : Memory.wf t = true := (Memory.wf_iff t).2 ⟨hpc.2, fun c hc => hz c (List.mem_cons_of_mem _ hc)⟩
    have hlow : ∀ (u : Memory) (x : Nat), (∀ c ∈ u, x < c.1) → memGet u x = 0 := by
      intro u x hu
      induction u with
      | nil => rfl
      | cons c w ihw =>
        have h1 := hu c (by simp)
        have h2 := ihw (fun d hd => hu d (List.mem_cons_of_mem _ hd))
        simp only [memGet]
        rw [if_neg (by omega), h2]
    simp only [memSet]
    split
    · rename_i hlt
      have h0 : ∀ c ∈ ((k, e) :: t : Memory), a < c.1 := by
        intro c hc
        rcases List.mem_cons.1 hc with rfl | hc
        · exact hlt
        · exact Nat.lt_trans hlt (hpc.1 c hc)
      split
      · rename_i hv
        by_cases hb : b = a
        · rw [if_pos hb, hb, hlow _ _ h0, hv]
        · rw [if_neg hb]
      · by_cases hb : b = a
        · subst hb; simp [memGet]
        · rw [memGet, if_neg (fun x => hb x.symm), if_neg hb]
    · split
      · rename_i hlt heq
        subst heq
        split
        · rename_i hv
          by_cases hb : b = a
          · rw [if_pos hb, hb, hlow t a (fun c hc => hpc.1 c hc), hv]
          · rw [if_neg hb, memGet, if_neg (fun x => hb x.symm)]
        · by_cases hb : b = a
          · subst hb; simp [memGet]
          · simp [memGet, hb, Ne.symm hb]
      · rename_i hlt heq
        simp only [memGet]
        by_cases hkb : k = b
        · rw [if_pos hkb, if_pos hkb, if_neg (by omega)]
        · rw [if_neg hkb, if_neg hkb, ih ht]

/-- Outside the bytes written, memory reads as before. -/
theorem memGet_memWrite_of_not_mem {m : Memory} {a : Nat} {bs : Bytes} {x : Nat} (h : Memory.wf m = true)
    (hx : x < a ∨ a + bs.length ≤ x) : memGet (memWrite m a bs) x = memGet m x := by
  induction bs generalizing m a with
  | nil => rfl
  | cons b t ih =>
    rw [memWrite, ih (memSet_wf h) (by simp only [List.length_cons] at hx; omega), memGet_memSet _ _ _ h, if_neg]
    simp only [List.length_cons] at hx
    omega

/-- Bytes written read back. -/
theorem memGet_memWrite {m : Memory} {a : Nat} {bs : Bytes} {i : Nat} (h : Memory.wf m = true) (hi : i < bs.length) :
    memGet (memWrite m a bs) (a + i) = bs[i] := by
  induction bs generalizing m a i with
  | nil => simp at hi
  | cons b t ih =>
    cases i with
    | zero =>
      rw [memWrite, memGet_memWrite_of_not_mem (memSet_wf h) (.inl (by omega)), memGet_memSet _ _ _ h]
      simp
    | succ i =>
      have := ih (m := memSet m a b) (a := a + 1) (i := i) (memSet_wf h) (by simpa using hi)
      simpa [memWrite, Nat.add_assoc, Nat.add_comm 1 i] using this

theorem memRead_memWrite {m : Memory} {a : Nat} {bs : Bytes} (h : Memory.wf m = true) :
    memRead (memWrite m a bs) a bs.length = bs := by
  apply List.ext_getElem
  · simp [memRead]
  · intro i h1 h2
    simp [memRead, memGet_memWrite h h2]

/-- Zeroed bytes read 0, every other byte as before. -/
theorem memGet_filter (m : Memory) (p : Nat → Bool) (x : Nat) :
    memGet (m.filter (fun c => p c.1)) x = if p x then memGet m x else 0 := by
  induction m with
  | nil => simp [memGet]
  | cons d t ih =>
    obtain ⟨k, e⟩ := d
    by_cases hk : p k
    · rw [List.filter_cons_of_pos (by simpa using hk)]
      simp only [memGet, ih]
      by_cases hkx : k = x
      · subst hkx; simp [hk]
      · simp [hkx]
    · rw [List.filter_cons_of_neg (by simpa using hk), ih]
      by_cases hkx : k = x
      · subst hkx; simp [hk]
      · simp [memGet, hkx]

end Sys2Proof.Machine
end

