-- ==== Sys2Proof/Laws/Keeps.lean ====
section
/-!
SUPPORT. What every operation of the block keeps: the waiting commands, the count of free values drawn (it never falls), the
canonical form of both memories, the entries of the defect list (R411), the revoked key slots (R383; the one operation that adds to
them is `Grows`) and the range of the sync counters (R236). One lemma per shared operation stands in the files Laws/Keeps<Family>.lean.
-/
namespace Sys2Proof.Machine

/-- What every operation keeps from one state to the next. -/
structure Keeps (s t : State) : Prop where
  pending : t.pending = s.pending
  drawn : s.drawn ≤ t.drawn
  mem : Memory.wf s.mem = true → Memory.wf t.mem = true
  host : Memory.wf s.hostMem = true → Memory.wf t.hostMem = true
  defects : s.firm.defects <+: t.firm.defects
  revoked : t.firm.revoked = s.firm.revoked
  ctrs : s.ctrsInRange → t.ctrsInRange

/-- Every next state an outcome answers is kept to. -/
structure KeepsO (s : State) (o : Host.Outcome State Fault Refusal) : Prop where
  keeps : ∀ t, o = .next t → Keeps s t

/-- Every state an operation that may fail answers is kept to. -/
structure KeepsOpt (s : State) (o : Option State) : Prop where
  keeps : ∀ t, o = some t → Keeps s t

/-- What the first boot of a bank with REVOKE_LOWER keeps (R383): as `Keeps`, and no revoked slot is taken back. -/
structure Grows (s t : State) : Prop where
  pending : t.pending = s.pending
  drawn : s.drawn ≤ t.drawn
  mem : Memory.wf s.mem = true → Memory.wf t.mem = true
  host : Memory.wf s.hostMem = true → Memory.wf t.hostMem = true
  defects : s.firm.defects <+: t.firm.defects
  revoked : ∀ k ∈ s.firm.revoked, k ∈ t.firm.revoked
  ctrs : s.ctrsInRange → t.ctrsInRange

theorem Keeps.grows {s t : State} (h : Keeps s t) : Grows s t :=
  ⟨h.pending, h.drawn, h.mem, h.host, h.defects, fun _ hk => h.revoked ▸ hk, h.ctrs⟩

theorem Grows.trans {s t u : State} (h : Grows s t) (h' : Grows t u) : Grows s u :=
  ⟨h'.pending.trans h.pending, Nat.le_trans h.drawn h'.drawn, fun w => h'.mem (h.mem w), fun w => h'.host (h.host w),
    h.defects.trans h'.defects, fun k hk => h'.revoked k (h.revoked k hk), fun w => h'.ctrs (h.ctrs w)⟩

theorem Keeps.refl (s : State) : Keeps s s := ⟨rfl, Nat.le_refl _, id, id, List.prefix_refl _, rfl, id⟩

theorem Keeps.mkU {s u : State}
    {bu : BringupSt} {pw : PowerSt} {regions : Tbl RegionSt} {groups : Tbl GroupSt} {phases : Tbl PhaseSt} {sensors
    : Tbl SensorSt} {cells : Tbl CellSt} {cds : Tbl CdSt} {ricksHeld : Bool} {arms : Tbl HeldArm} {syncLog : List
    SyncEvent} {marks : List Nat} {poison : List Nat} {siteWaits : List (Nat × Bytes × Bool)} {flaws : Tbl Nat}
    {ports : Tbl PortSt} {protHeld : List ProtWait} {seqNext : Tbl Nat} {seqRecs : Tbl SeqRec} {banks : Tbl BankSt}
    {selectors : Tbl Nat} {holds : HoldSt} {cals : Tbl CalSets} {sites : Tbl SiteSt} {siteGroups : Tbl (List Nat)}
    {allocs : List (Nat × Nat × Nat × Nat)} {fmus : Tbl FmuSt} {farOps : List FarOp} {links : Tbl LinkSt} {ops :
    List TomicOp} {arrivals : List Arriving} {tags : Tbl Nat} {atoms : List (Nat × Word × Packet)} {ces : Tbl CeSt}
    {fab : FabricSt} {pcie0 : PcieSt} {pcie1 : PcieSt} {queues : Tbl QueueSt} {accepted : List Accepted} {nextSeq :
    Nat} {lastServed : Option Nat} {batches : Tbl BatchSt} {batchEnds : Tbl Nat} {tuneAccepted : List Nat} {tuneGaps
    : List (Nat × Nat × Nat × Nat × Nat)} {cfg : Tbl CfgSet} {drain : Option Drain} {obs : ObsSt} {out : List Out}
    (h : Keeps s u) :
    Keeps s { u with
      bu := bu, pw := pw, regions := regions, groups := groups, phases := phases, sensors := sensors, cells :=
      cells, cds := cds, ricksHeld := ricksHeld, arms := arms, syncLog := syncLog, marks := marks, poison := poison,
      siteWaits := siteWaits, flaws := flaws, ports := ports, protHeld := protHeld, seqNext := seqNext, seqRecs :=
      seqRecs, banks := banks, selectors := selectors, holds := holds, cals := cals, sites := sites, siteGroups :=
      siteGroups, allocs := allocs, fmus := fmus, farOps := farOps, links := links, ops := ops, arrivals :=
      arrivals, tags := tags, atoms := atoms, ces := ces, fab := fab, pcie0 := pcie0, pcie1 := pcie1, queues :=
      queues, accepted := accepted, nextSeq := nextSeq, lastServed := lastServed, batches := batches, batchEnds :=
      batchEnds, tuneAccepted := tuneAccepted, tuneGaps := tuneGaps, cfg := cfg, drain := drain, obs := obs, out :=
      out } :=
  ⟨h.pending, h.drawn, h.mem, h.host, h.defects, h.revoked, h.ctrs⟩

theorem Keeps.mkMem {s u : State}
    {bu : BringupSt} {pw : PowerSt} {regions : Tbl RegionSt} {groups : Tbl GroupSt} {phases : Tbl PhaseSt} {sensors
    : Tbl SensorSt} {cells : Tbl CellSt} {cds : Tbl CdSt} {ricksHeld : Bool} {arms : Tbl HeldArm} {syncLog : List
    SyncEvent} {marks : List Nat} {poison : List Nat} {siteWaits : List (Nat × Bytes × Bool)} {flaws : Tbl Nat}
    {ports : Tbl PortSt} {protHeld : List ProtWait} {seqNext : Tbl Nat} {seqRecs : Tbl SeqRec} {banks : Tbl BankSt}
    {selectors : Tbl Nat} {holds : HoldSt} {cals : Tbl CalSets} {sites : Tbl SiteSt} {siteGroups : Tbl (List Nat)}
    {allocs : List (Nat × Nat × Nat × Nat)} {fmus : Tbl FmuSt} {farOps : List FarOp} {links : Tbl LinkSt} {ops :
    List TomicOp} {arrivals : List Arriving} {tags : Tbl Nat} {atoms : List (Nat × Word × Packet)} {ces : Tbl CeSt}
    {fab : FabricSt} {pcie0 : PcieSt} {pcie1 : PcieSt} {queues : Tbl QueueSt} {accepted : List Accepted} {nextSeq :
    Nat} {lastServed : Option Nat} {batches : Tbl BatchSt} {batchEnds : Tbl Nat} {tuneAccepted : List Nat} {tuneGaps
    : List (Nat × Nat × Nat × Nat × Nat)} {cfg : Tbl CfgSet} {drain : Option Drain} {obs : ObsSt} {out : List Out}
    {m : Memory}
    (h : Keeps s u) (hm : Memory.wf u.mem = true → Memory.wf m = true) :
    Keeps s { u with
      mem := m, bu := bu, pw := pw, regions := regions, groups := groups, phases := phases, sensors := sensors,
      cells := cells, cds := cds, ricksHeld := ricksHeld, arms := arms, syncLog := syncLog, marks := marks, poison
      := poison, siteWaits := siteWaits, flaws := flaws, ports := ports, protHeld := protHeld, seqNext := seqNext,
      seqRecs := seqRecs, banks := banks, selectors := selectors, holds := holds, cals := cals, sites := sites,
      siteGroups := siteGroups, allocs := allocs, fmus := fmus, farOps := farOps, links := links, ops := ops,
      arrivals := arrivals, tags := tags, atoms := atoms, ces := ces, fab := fab, pcie0 := pcie0, pcie1 := pcie1,
      queues := queues, accepted := accepted, nextSeq := nextSeq, lastServed := lastServed, batches := batches,
      batchEnds := batchEnds, tuneAccepted := tuneAccepted, tuneGaps := tuneGaps, cfg := cfg, drain := drain, obs :=
      obs, out := out } :=
  ⟨h.pending, h.drawn, fun w => hm (h.mem w), h.host, h.defects, h.revoked, h.ctrs⟩

theorem Keeps.mkHost {s u : State}
    {bu : BringupSt} {pw : PowerSt} {regions : Tbl RegionSt} {groups : Tbl GroupSt} {phases : Tbl PhaseSt} {sensors
    : Tbl SensorSt} {cells : Tbl CellSt} {cds : Tbl CdSt} {ricksHeld : Bool} {arms : Tbl HeldArm} {syncLog : List
    SyncEvent} {marks : List Nat} {poison : List Nat} {siteWaits : List (Nat × Bytes × Bool)} {flaws : Tbl Nat}
    {ports : Tbl PortSt} {protHeld : List ProtWait} {seqNext : Tbl Nat} {seqRecs : Tbl SeqRec} {banks : Tbl BankSt}
    {selectors : Tbl Nat} {holds : HoldSt} {cals : Tbl CalSets} {sites : Tbl SiteSt} {siteGroups : Tbl (List Nat)}
    {allocs : List (Nat × Nat × Nat × Nat)} {fmus : Tbl FmuSt} {farOps : List FarOp} {links : Tbl LinkSt} {ops :
    List TomicOp} {arrivals : List Arriving} {tags : Tbl Nat} {atoms : List (Nat × Word × Packet)} {ces : Tbl CeSt}
    {fab : FabricSt} {pcie0 : PcieSt} {pcie1 : PcieSt} {queues : Tbl QueueSt} {accepted : List Accepted} {nextSeq :
    Nat} {lastServed : Option Nat} {batches : Tbl BatchSt} {batchEnds : Tbl Nat} {tuneAccepted : List Nat} {tuneGaps
    : List (Nat × Nat × Nat × Nat × Nat)} {cfg : Tbl CfgSet} {drain : Option Drain} {obs : ObsSt} {out : List Out}
    {m : Memory}
    (h : Keeps s u) (hm : Memory.wf u.hostMem = true → Memory.wf m = true) :
    Keeps s { u with
      hostMem := m, bu := bu, pw := pw, regions := regions, groups := groups, phases := phases, sensors := sensors,
      cells := cells, cds := cds, ricksHeld := ricksHeld, arms := arms, syncLog := syncLog, marks := marks, poison
      := poison, siteWaits := siteWaits, flaws := flaws, ports := ports, protHeld := protHeld, seqNext := seqNext,
      seqRecs := seqRecs, banks := banks, selectors := selectors, holds := holds, cals := cals, sites := sites,
      siteGroups := siteGroups, allocs := allocs, fmus := fmus, farOps := farOps, links := links, ops := ops,
      arrivals := arrivals, tags := tags, atoms := atoms, ces := ces, fab := fab, pcie0 := pcie0, pcie1 := pcie1,
      queues := queues, accepted := accepted, nextSeq := nextSeq, lastServed := lastServed, batches := batches,
      batchEnds := batchEnds, tuneAccepted := tuneAccepted, tuneGaps := tuneGaps, cfg := cfg, drain := drain, obs :=
      obs, out := out } :=
  ⟨h.pending, h.drawn, h.mem, fun w => hm (h.host w), h.defects, h.revoked, h.ctrs⟩

theorem Keeps.mkFirm {s u : State}
    {bu : BringupSt} {pw : PowerSt} {regions : Tbl RegionSt} {groups : Tbl GroupSt} {phases : Tbl PhaseSt} {sensors
    : Tbl SensorSt} {cells : Tbl CellSt} {cds : Tbl CdSt} {ricksHeld : Bool} {arms : Tbl HeldArm} {syncLog : List
    SyncEvent} {marks : List Nat} {poison : List Nat} {siteWaits : List (Nat × Bytes × Bool)} {flaws : Tbl Nat}
    {ports : Tbl PortSt} {protHeld : List ProtWait} {seqNext : Tbl Nat} {seqRecs : Tbl SeqRec} {banks : Tbl BankSt}
    {selectors : Tbl Nat} {holds : HoldSt} {cals : Tbl CalSets} {sites : Tbl SiteSt} {siteGroups : Tbl (List Nat)}
    {allocs : List (Nat × Nat × Nat × Nat)} {fmus : Tbl FmuSt} {farOps : List FarOp} {links : Tbl LinkSt} {ops :
    List TomicOp} {arrivals : List Arriving} {tags : Tbl Nat} {atoms : List (Nat × Word × Packet)} {ces : Tbl CeSt}
    {fab : FabricSt} {pcie0 : PcieSt} {pcie1 : PcieSt} {queues : Tbl QueueSt} {accepted : List Accepted} {nextSeq :
    Nat} {lastServed : Option Nat} {batches : Tbl BatchSt} {batchEnds : Tbl Nat} {tuneAccepted : List Nat} {tuneGaps
    : List (Nat × Nat × Nat × Nat × Nat)} {cfg : Tbl CfgSet} {drain : Option Drain} {obs : ObsSt} {out : List Out}
    {f : FirmSt}
    (h : Keeps s u) (hd : u.firm.defects <+: f.defects) (hr : f.revoked = u.firm.revoked) :
    Keeps s { u with
      firm := f, bu := bu, pw := pw, regions := regions, groups := groups, phases := phases, sensors := sensors,
      cells := cells, cds := cds, ricksHeld := ricksHeld, arms := arms, syncLog := syncLog, marks := marks, poison
      := poison, siteWaits := siteWaits, flaws := flaws, ports := ports, protHeld := protHeld, seqNext := seqNext,
      seqRecs := seqRecs, banks := banks, selectors := selectors, holds := holds, cals := cals, sites := sites,
      siteGroups := siteGroups, allocs := allocs, fmus := fmus, farOps := farOps, links := links, ops := ops,
      arrivals := arrivals, tags := tags, atoms := atoms, ces := ces, fab := fab, pcie0 := pcie0, pcie1 := pcie1,
      queues := queues, accepted := accepted, nextSeq := nextSeq, lastServed := lastServed, batches := batches,
      batchEnds := batchEnds, tuneAccepted := tuneAccepted, tuneGaps := tuneGaps, cfg := cfg, drain := drain, obs :=
      obs, out := out } :=
  ⟨h.pending, h.drawn, h.mem, h.host, h.defects.trans hd, hr.trans h.revoked, h.ctrs⟩

theorem Keeps.mkCtrs {s u : State}
    {bu : BringupSt} {pw : PowerSt} {regions : Tbl RegionSt} {groups : Tbl GroupSt} {phases : Tbl PhaseSt} {sensors
    : Tbl SensorSt} {cells : Tbl CellSt} {cds : Tbl CdSt} {ricksHeld : Bool} {arms : Tbl HeldArm} {syncLog : List
    SyncEvent} {marks : List Nat} {poison : List Nat} {siteWaits : List (Nat × Bytes × Bool)} {flaws : Tbl Nat}
    {ports : Tbl PortSt} {protHeld : List ProtWait} {seqNext : Tbl Nat} {seqRecs : Tbl SeqRec} {banks : Tbl BankSt}
    {selectors : Tbl Nat} {holds : HoldSt} {cals : Tbl CalSets} {sites : Tbl SiteSt} {siteGroups : Tbl (List Nat)}
    {allocs : List (Nat × Nat × Nat × Nat)} {fmus : Tbl FmuSt} {farOps : List FarOp} {links : Tbl LinkSt} {ops :
    List TomicOp} {arrivals : List Arriving} {tags : Tbl Nat} {atoms : List (Nat × Word × Packet)} {ces : Tbl CeSt}
    {fab : FabricSt} {pcie0 : PcieSt} {pcie1 : PcieSt} {queues : Tbl QueueSt} {accepted : List Accepted} {nextSeq :
    Nat} {lastServed : Option Nat} {batches : Tbl BatchSt} {batchEnds : Tbl Nat} {tuneAccepted : List Nat} {tuneGaps
    : List (Nat × Nat × Nat × Nat × Nat)} {cfg : Tbl CfgSet} {drain : Option Drain} {obs : ObsSt} {out : List Out}
    {t : Tbl Ctr}
    (h : Keeps s u)
    (hc : (∀ p ∈ u.ctrs, p.2.value < 2 ^ 31) → ∀ p ∈ t, p.2.value < 2 ^ 31) :
    Keeps s { u with
      ctrs := t, bu := bu, pw := pw, regions := regions, groups := groups, phases := phases, sensors := sensors,
      cells := cells, cds := cds, ricksHeld := ricksHeld, arms := arms, syncLog := syncLog, marks := marks, poison
      := poison, siteWaits := siteWaits, flaws := flaws, ports := ports, protHeld := protHeld, seqNext := seqNext,
      seqRecs := seqRecs, banks := banks, selectors := selectors, holds := holds, cals := cals, sites := sites,
      siteGroups := siteGroups, allocs := allocs, fmus := fmus, farOps := farOps, links := links, ops := ops,
      arrivals := arrivals, tags := tags, atoms := atoms, ces := ces, fab := fab, pcie0 := pcie0, pcie1 := pcie1,
      queues := queues, accepted := accepted, nextSeq := nextSeq, lastServed := lastServed, batches := batches,
      batchEnds := batchEnds, tuneAccepted := tuneAccepted, tuneGaps := tuneGaps, cfg := cfg, drain := drain, obs :=
      obs, out := out } :=
  ⟨h.pending, h.drawn, h.mem, h.host, h.defects, h.revoked, fun r => ⟨hc (h.ctrs r).1, (h.ctrs r).2⟩⟩

theorem Keeps.mkImages {s u : State} {t : Tbl ImageSt} (h : Keeps s u)
    (hi : (∀ p ∈ u.images, ∀ v ∈ p.2.ctrInit, v < 2 ^ 31) → ∀ p ∈ t, ∀ v ∈ p.2.ctrInit, v < 2 ^ 31) :
    Keeps s { u with images := t } :=
  ⟨h.pending, h.drawn, h.mem, h.host, h.defects, h.revoked, fun r => ⟨(h.ctrs r).1, hi (h.ctrs r).2⟩⟩

/-- A property of every record of a table stays when one is written that has it. -/
theorem tset_all {α : Type} {P : α → Prop} {t : Tbl α} {k : Nat} {v : α} (h : ∀ p ∈ t, P p.2) (hv : P v) :
    ∀ p ∈ tset t k v, P p.2 := by
  induction t with
  | nil => intro p hp; simp [tset] at hp; exact hp ▸ hv
  | cons a t ih =>
    intro p hp
    have ih := ih (fun p hp => h p (List.mem_cons_of_mem _ hp))
    simp only [tset] at hp
    split at hp
    · rcases List.mem_cons.1 hp with rfl | hp
      · exact hv
      · exact h p hp
    · split at hp
      · rcases List.mem_cons.1 hp with rfl | hp
        · exact hv
        · exact h p (List.mem_cons_of_mem _ hp)
      · rcases List.mem_cons.1 hp with rfl | hp
        · exact h _ List.mem_cons_self
        · exact ih p hp

/-- A record found is one of the table's. -/
theorem tfind_all {α : Type} {P : α → Prop} {t : Tbl α} {k : Nat} {v : α} (h : ∀ p ∈ t, P p.2) (hf : tfind t k = some v) : P v := by
  induction t with
  | nil => simp [tfind] at hf
  | cons a t ih =>
    simp only [tfind] at hf
    split at hf
    · injection hf with hf; exact hf ▸ h a List.mem_cons_self
    · exact ih (fun p hp => h p (List.mem_cons_of_mem _ hp)) hf

/-- A property of every listed record and of the default is one of what a read gives. -/
theorem tget_all {α : Type} {P : α → Prop} {t : Tbl α} {d : α} {k : Nat} (h : ∀ p ∈ t, P p.2) (hd : P d) : P (tget t d k) := by
  unfold tget
  cases hf : tfind t k with
  | none => exact hd
  | some v => exact tfind_all h hf

/-- A change of every record by a function that keeps a property keeps it of the table. -/
theorem tmap_all {α : Type} {P : α → Prop} {t : Tbl α} {f : Nat → α → α} (h : ∀ p ∈ t, P p.2) (hf : ∀ k v, P v → P (f k v)) :
    ∀ p ∈ tmap t f, P p.2 := by
  intro p hp
  obtain ⟨q, hq, rfl⟩ := List.mem_map.1 hp
  exact hf _ _ (h q hq)

theorem Keeps.ite {s t u : State} {c : Prop} [Decidable c] (h : Keeps s t) (h' : Keeps s u) : Keeps s (if c then t else u) := by
  split <;> assumption

theorem Keeps.foldl {α : Type} {s u : State} {f : State → α → State} {l : List α} (h : Keeps s u)
    (hf : ∀ v a, Keeps s v → Keeps s (f v a)) : Keeps s (l.foldl f u) := by
  induction l generalizing u with
  | nil => exact h
  | cons a t ih => exact ih (hf _ _ h)

theorem Keeps.foldl_fst {α β : Type} {s : State} {u : State × β} {f : State × β → α → State × β} {l : List α} (h : Keeps s u.1)
    (hf : ∀ v a, Keeps s v.1 → Keeps s (f v a).1) : Keeps s (l.foldl f u).1 := by
  induction l generalizing u with
  | nil => exact h
  | cons a t ih => exact ih (hf _ _ h)

theorem Keeps.foldl_snd {α β : Type} {s : State} {u : β × State} {f : β × State → α → β × State} {l : List α} (h : Keeps s u.2)
    (hf : ∀ v a, Keeps s v.2 → Keeps s (f v a).2) : Keeps s (l.foldl f u).2 := by
  induction l generalizing u with
  | nil => exact h
  | cons a t ih => exact ih (hf _ _ h)

theorem KeepsO.next {s t : State} (h : Keeps s t) : KeepsO s (.next t) := by
  constructor; intro v e; injection e with e; exact e ▸ h

theorem KeepsO.fault {s : State} (r : Fault) : KeepsO s (.fault r) := by
  constructor; intro v e; cases e

theorem KeepsO.ite {s : State} {c : Prop} [Decidable c] {a b : Host.Outcome State Fault Refusal} (h : KeepsO s a) (h' : KeepsO s b) :
    KeepsO s (if c then a else b) := by split <;> assumption

theorem KeepsOpt.some {s t : State} (h : Keeps s t) : KeepsOpt s (Option.some t) := by
  constructor; intro v e; injection e with e; exact e ▸ h

theorem KeepsOpt.none {s : State} : KeepsOpt s Option.none := by
  constructor; intro v e; cases e

theorem KeepsOpt.ite {s : State} {c : Prop} [Decidable c] {a b : Option State} (h : KeepsOpt s a) (h' : KeepsOpt s b) :
    KeepsOpt s (if c then a else b) := by split <;> assumption

end Sys2Proof.Machine
end

