-- ==== Sys2Proof/Laws/KeepsOps.lean ====
section
/-!
SUPPORT. What every operation of Machine/Ops.lean keeps (Laws/Keeps.lean).
-/
namespace Sys2Proof.Machine

set_option Elab.async false
set_option linter.all false

theorem State.modCell_keeps {s₀ s : State} (h : Keeps s₀ s) (c : Nat) (f : CellSt → CellSt) :
    Keeps s₀ (State.modCell s c f) := by
  unfold State.modCell
  repeat'
    first
      | with_reducible assumption
      | intro _
      | with_reducible apply Keeps.ite
      | extract_lets
      | split
      | (dsimp +zetaDelta only; split)
      | with_reducible apply Keeps.mkU

theorem State.modRegion_keeps {s₀ s : State} (h : Keeps s₀ s) (r : Nat) (f : RegionSt → RegionSt) :
    Keeps s₀ (State.modRegion s r f) := by
  unfold State.modRegion
  repeat'
    first
      | with_reducible assumption
      | intro _
      | with_reducible apply Keeps.ite
      | extract_lets
      | split
      | (dsimp +zetaDelta only; split)
      | with_reducible apply Keeps.mkU

theorem State.modGroup_keeps {s₀ s : State} (h : Keeps s₀ s) (g : Nat) (f : GroupSt → GroupSt) :
    Keeps s₀ (State.modGroup s g f) := by
  unfold State.modGroup
  repeat'
    first
      | with_reducible assumption
      | intro _
      | with_reducible apply Keeps.ite
      | extract_lets
      | split
      | (dsimp +zetaDelta only; split)
      | with_reducible apply Keeps.mkU

theorem State.modPhase_keeps {s₀ s : State} (h : Keeps s₀ s) (p : Nat) (f : PhaseSt → PhaseSt) :
    Keeps s₀ (State.modPhase s p f) := by
  unfold State.modPhase
  repeat'
    first
      | with_reducible assumption
      | intro _
      | with_reducible apply Keeps.ite
      | extract_lets
      | split
      | (dsimp +zetaDelta only; split)
      | with_reducible apply Keeps.mkU

theorem State.modSensor_keeps {s₀ s : State} (h : Keeps s₀ s) (n : Nat) (f : SensorSt → SensorSt) :
    Keeps s₀ (State.modSensor s n f) := by
  unfold State.modSensor
  repeat'
    first
      | with_reducible assumption
      | intro _
      | with_reducible apply Keeps.ite
      | extract_lets
      | split
      | (dsimp +zetaDelta only; split)
      | with_reducible apply Keeps.mkU

theorem State.modCd_keeps {s₀ s : State} (h : Keeps s₀ s) (n : Nat) (f : CdSt → CdSt) :
    Keeps s₀ (State.modCd s n f) := by
  unfold State.modCd
  repeat'
    first
      | with_reducible assumption
      | intro _
      | with_reducible apply Keeps.ite
      | extract_lets
      | split
      | (dsimp +zetaDelta only; split)
      | with_reducible apply Keeps.mkU

theorem State.modCtr_keeps {s₀ s : State} (h : Keeps s₀ s) (k : Nat) (f : Ctr → Ctr)
    (hf : ∀ c, c.value < 2 ^ 31 → (f c).value < 2 ^ 31) : Keeps s₀ (State.modCtr s k f) := by
  unfold State.modCtr
  refine h.mkCtrs fun r => tset_all (P := fun c : Ctr => c.value < 2 ^ 31) r (hf _ ?_)
  exact tget_all (P := fun c : Ctr => c.value < 2 ^ 31) r (by decide)

theorem State.modPort_keeps {s₀ s : State} (h : Keeps s₀ s) (p : Nat) (f : PortSt → PortSt) :
    Keeps s₀ (State.modPort s p f) := by
  unfold State.modPort
  repeat'
    first
      | with_reducible assumption
      | intro _
      | with_reducible apply Keeps.ite
      | extract_lets
      | split
      | (dsimp +zetaDelta only; split)
      | with_reducible apply Keeps.mkU

theorem State.modBank_keeps {s₀ s : State} (h : Keeps s₀ s) (b : Nat) (f : BankSt → BankSt) :
    Keeps s₀ (State.modBank s b f) := by
  unfold State.modBank
  repeat'
    first
      | with_reducible assumption
      | intro _
      | with_reducible apply Keeps.ite
      | extract_lets
      | split
      | (dsimp +zetaDelta only; split)
      | with_reducible apply Keeps.mkU

theorem State.modSite_keeps {s₀ s : State} (h : Keeps s₀ s) (m : Nat) (f : SiteSt → SiteSt) :
    Keeps s₀ (State.modSite s m f) := by
  unfold State.modSite
  repeat'
    first
      | with_reducible assumption
      | intro _
      | with_reducible apply Keeps.ite
      | extract_lets
      | split
      | (dsimp +zetaDelta only; split)
      | with_reducible apply Keeps.mkU

theorem State.modFmu_keeps {s₀ s : State} (h : Keeps s₀ s) (n : Nat) (f : FmuSt → FmuSt) :
    Keeps s₀ (State.modFmu s n f) := by
  unfold State.modFmu
  repeat'
    first
      | with_reducible assumption
      | intro _
      | with_reducible apply Keeps.ite
      | extract_lets
      | split
      | (dsimp +zetaDelta only; split)
      | with_reducible apply Keeps.mkU

theorem State.modLink_keeps {s₀ s : State} (h : Keeps s₀ s) (l : Nat) (f : LinkSt → LinkSt) :
    Keeps s₀ (State.modLink s l f) := by
  unfold State.modLink
  repeat'
    first
      | with_reducible assumption
      | intro _
      | with_reducible apply Keeps.ite
      | extract_lets
      | split
      | (dsimp +zetaDelta only; split)
      | with_reducible apply Keeps.mkU

theorem State.modCe_keeps {s₀ s : State} (h : Keeps s₀ s) (n : Nat) (f : CeSt → CeSt) :
    Keeps s₀ (State.modCe s n f) := by
  unfold State.modCe
  repeat'
    first
      | with_reducible assumption
      | intro _
      | with_reducible apply Keeps.ite
      | extract_lets
      | split
      | (dsimp +zetaDelta only; split)
      | with_reducible apply Keeps.mkU

theorem State.modQueue_keeps {s₀ s : State} (h : Keeps s₀ s) (q : Nat) (f : QueueSt → QueueSt) :
    Keeps s₀ (State.modQueue s q f) := by
  unfold State.modQueue
  repeat'
    first
      | with_reducible assumption
      | intro _
      | with_reducible apply Keeps.ite
      | extract_lets
      | split
      | (dsimp +zetaDelta only; split)
      | with_reducible apply Keeps.mkU

theorem State.modPcie_keeps {s₀ s : State} (h : Keeps s₀ s) (p : Nat) (f : PcieSt → PcieSt) :
    Keeps s₀ (State.modPcie s p f) := by
  unfold State.modPcie
  repeat'
    first
      | with_reducible assumption
      | intro _
      | with_reducible apply Keeps.ite
      | extract_lets
      | split
      | (dsimp +zetaDelta only; split)
      | with_reducible apply Keeps.mkU

theorem State.modCset_keeps {s₀ s : State} (h : Keeps s₀ s) (k : Nat) (f : CfgSet → CfgSet) :
    Keeps s₀ (State.modCset s k f) := by
  unfold State.modCset
  repeat'
    first
      | with_reducible assumption
      | intro _
      | with_reducible apply Keeps.ite
      | extract_lets
      | split
      | (dsimp +zetaDelta only; split)
      | with_reducible apply Keeps.mkU

theorem State.modMc_keeps {s₀ s : State} (h : Keeps s₀ s) (n : Nat) (f : McSt → McSt) :
    Keeps s₀ (State.modMc s n f) := by
  unfold State.modMc
  repeat'
    first
      | with_reducible assumption
      | intro _
      | with_reducible apply Keeps.ite
      | extract_lets
      | split
      | (dsimp +zetaDelta only; split)
      | with_reducible apply Keeps.mkU
      | with_reducible apply Keeps.mkFirm
      | with_reducible exact rfl
      | with_reducible exact List.prefix_refl _
      | (dsimp +zetaDelta only; with_reducible exact rfl)
      | (dsimp +zetaDelta only; with_reducible exact List.prefix_refl _)
      | exact rfl
      | exact List.prefix_refl _
      | exact List.prefix_append _ _

theorem State.emit_keeps {s₀ s : State} (h : Keeps s₀ s) (o : Out) :
    Keeps s₀ (State.emit s o) := by
  unfold State.emit
  repeat'
    first
      | with_reducible assumption
      | intro _
      | with_reducible apply Keeps.ite
      | extract_lets
      | split
      | (dsimp +zetaDelta only; split)
      | with_reducible apply Keeps.mkU

theorem State.draw_keeps {s₀ s : State} (h : Keeps s₀ s) : Keeps s₀ s.draw.2 :=
  ⟨h.pending, Nat.le_succ_of_le h.drawn, h.mem, h.host, h.defects, h.revoked, h.ctrs⟩

theorem State.at__keeps {s₀ s : State} (h : Keeps s₀ s) (t : Nat) :
    Keeps s₀ (State.at_ s t) := by
  unfold State.at_
  repeat'
    first
      | with_reducible assumption
      | intro _
      | with_reducible apply Keeps.ite
      | extract_lets
      | split
      | (dsimp +zetaDelta only; split)
      | with_reducible apply Keeps.mkU

theorem State.idle_keeps {s₀ s : State} (h : Keeps s₀ s) :
    Keeps s₀ (State.idle s) := by
  unfold State.idle
  repeat'
    first
      | with_reducible assumption
      | intro _
      | with_reducible apply Keeps.ite
      | extract_lets
      | split
      | (dsimp +zetaDelta only; split)
      | with_reducible apply Keeps.mkU

theorem State.bump_keeps {s₀ s : State} (h : Keeps s₀ s) (set : Nat) (unit : Nat) (index : Nat) (n : Nat) :
    Keeps s₀ (State.bump s set unit index n) := by
  unfold State.bump
  repeat'
    first
      | with_reducible assumption
      | intro _
      | with_reducible apply Keeps.ite
      | extract_lets
      | split
      | (dsimp +zetaDelta only; split)
      | with_reducible apply Keeps.mkU

theorem State.tally_keeps {s₀ s : State} (h : Keeps s₀ s) (k : Tally) (n : Nat) :
    Keeps s₀ (State.tally s k n) := by
  unfold State.tally
  repeat'
    first
      | with_reducible assumption
      | intro _
      | with_reducible apply Keeps.ite
      | extract_lets
      | split
      | (dsimp +zetaDelta only; split)
      | with_reducible apply Keeps.mkU

theorem State.cellEvent_keeps {s₀ s : State} (h : Keeps s₀ s) (c : Nat) (code : Nat) (n : Nat) (layer : Half) (operator : Half) :
    Keeps s₀ (State.cellEvent s c code n layer operator) := by
  unfold State.cellEvent
  repeat'
    first
      | with_reducible assumption
      | intro _
      | with_reducible apply Keeps.ite
      | with_reducible apply State.modCell_keeps
      | extract_lets
      | split
      | (dsimp +zetaDelta only; split)
      | with_reducible apply Keeps.mkU

theorem State.crossing_keeps {s₀ s : State} (h : Keeps s₀ s) (set : Nat) (unit : Nat) (index : Nat) (turf : Nat) :
    Keeps s₀ (State.crossing s set unit index turf) := by
  unfold State.crossing
  repeat'
    first
      | with_reducible assumption
      | intro _
      | with_reducible apply Keeps.ite
      | with_reducible apply State.bump_keeps
      | extract_lets
      | split
      | (dsimp +zetaDelta only; split)
      | with_reducible apply Keeps.mkU

theorem State.countUnmapped_keeps {s₀ s : State} (h : Keeps s₀ s) (addr : Nat) :
    Keeps s₀ (State.countUnmapped s addr) := by
  unfold State.countUnmapped
  repeat'
    first
      | with_reducible assumption
      | intro _
      | with_reducible apply Keeps.ite
      | with_reducible apply State.tally_keeps
      | extract_lets
      | split
      | (dsimp +zetaDelta only; split)
      | with_reducible apply Keeps.mkU

theorem State.countRefusal_keeps {s₀ s : State} (h : Keeps s₀ s) (l : Loc) (turf : Nat) :
    Keeps s₀ (State.countRefusal s l turf) := by
  unfold State.countRefusal
  repeat'
    first
      | with_reducible assumption
      | intro _
      | with_reducible apply Keeps.ite
      | with_reducible apply State.crossing_keeps
      | extract_lets
      | split
      | (dsimp +zetaDelta only; split)
      | with_reducible apply Keeps.mkU

theorem State.cellItem_keeps {s₀ s : State} (h : Keeps s₀ s) (c : Nat) (prio : Nat) (code : Nat) (words : List (BitVec 128)) :
    Keeps s₀ (State.cellItem s c prio code words) := by
  unfold State.cellItem
  repeat'
    first
      | with_reducible assumption
      | intro _
      | with_reducible apply Keeps.ite
      | with_reducible apply State.modCell_keeps
      | extract_lets
      | split
      | (dsimp +zetaDelta only; split)
      | with_reducible apply Keeps.mkU

theorem State.notice_keeps {s₀ s : State} (h : Keeps s₀ s) (q : Nat) (prio : Nat) (code : Nat) (words : List (BitVec 128)) :
    Keeps s₀ (State.notice s q prio code words) := by
  unfold State.notice
  repeat'
    first
      | with_reducible assumption
      | intro _
      | with_reducible apply Keeps.ite
      | with_reducible apply State.modQueue_keeps
      | extract_lets
      | split
      | (dsimp +zetaDelta only; split)
      | with_reducible apply Keeps.mkU

theorem State.coreItem_keeps {s₀ s : State} (h : Keeps s₀ s) (n : Nat) (prio : Nat) (code : Nat) (words : List (BitVec 128)) :
    Keeps s₀ (State.coreItem s n prio code words) := by
  unfold State.coreItem
  repeat'
    first
      | with_reducible assumption
      | intro _
      | with_reducible apply Keeps.ite
      | extract_lets
      | split
      | (dsimp +zetaDelta only; split)
      | with_reducible apply Keeps.mkU
      | with_reducible apply Keeps.mkFirm
      | with_reducible exact rfl
      | with_reducible exact List.prefix_refl _
      | (dsimp +zetaDelta only; with_reducible exact rfl)
      | (dsimp +zetaDelta only; with_reducible exact List.prefix_refl _)
      | exact rfl
      | exact List.prefix_refl _
      | exact List.prefix_append _ _

theorem State.noticeTurf_keeps {s₀ s : State} (h : Keeps s₀ s) (t : Nat) (prio : Nat) (code : Nat) (words : List (BitVec 128)) :
    Keeps s₀ (State.noticeTurf s t prio code words) := by
  unfold State.noticeTurf
  repeat'
    first
      | with_reducible assumption
      | intro _
      | with_reducible apply Keeps.ite
      | with_reducible apply State.notice_keeps
      | with_reducible apply Keeps.foldl
      | with_reducible apply Keeps.foldl_fst
      | with_reducible apply Keeps.foldl_snd
      | extract_lets
      | split
      | (dsimp +zetaDelta only; split)
      | with_reducible apply Keeps.mkU

theorem State.cellError_keeps {s₀ s : State} (h : Keeps s₀ s) (c : Nat) (bitNo : Nat) (place : Bool) :
    Keeps s₀ (State.cellError s c bitNo place) := by
  unfold State.cellError
  repeat'
    first
      | with_reducible assumption
      | intro _
      | with_reducible apply Keeps.ite
      | with_reducible apply State.modCell_keeps
      | with_reducible apply State.cellItem_keeps
      | extract_lets
      | split
      | (dsimp +zetaDelta only; split)
      | with_reducible apply Keeps.mkU

theorem State.poke_keeps {s₀ s : State} (h : Keeps s₀ s) (key : Nat) (bs : Bytes) :
    Keeps s₀ (State.poke s key bs) := by
  unfold State.poke
  repeat'
    first
      | with_reducible assumption
      | exact fun w => memWrite_wf w
      | exact fun w => memFilter_wf w
      | intro _
      | with_reducible apply Keeps.ite
      | extract_lets
      | split
      | (dsimp +zetaDelta only; split)
      | with_reducible apply Keeps.mkU
      | with_reducible apply Keeps.mkMem

theorem State.pokeZero_keeps {s₀ s : State} (h : Keeps s₀ s) (key : Nat) (n : Nat) :
    Keeps s₀ (State.pokeZero s key n) := by
  unfold State.pokeZero
  repeat'
    first
      | with_reducible assumption
      | exact fun w => memWrite_wf w
      | exact fun w => memFilter_wf w
      | intro _
      | with_reducible apply Keeps.ite
      | extract_lets
      | split
      | (dsimp +zetaDelta only; split)
      | with_reducible apply Keeps.mkU
      | with_reducible apply Keeps.mkMem

theorem State.setMarks_keeps {s₀ s : State} (h : Keeps s₀ s) (key : Nat) (n : Nat) :
    Keeps s₀ (State.setMarks s key n) := by
  unfold State.setMarks
  repeat'
    first
      | with_reducible assumption
      | intro _
      | with_reducible apply Keeps.ite
      | with_reducible apply Keeps.foldl
      | with_reducible apply Keeps.foldl_fst
      | with_reducible apply Keeps.foldl_snd
      | extract_lets
      | split
      | (dsimp +zetaDelta only; split)
      | with_reducible apply Keeps.mkU

theorem State.pokePoison_keeps {s₀ s : State} (h : Keeps s₀ s) (key : Nat) (bs : Bytes) :
    Keeps s₀ (State.pokePoison s key bs) := by
  unfold State.pokePoison
  repeat'
    first
      | with_reducible assumption
      | intro _
      | with_reducible apply Keeps.ite
      | with_reducible apply State.poke_keeps
      | with_reducible apply State.setMarks_keeps
      | with_reducible apply Keeps.foldl
      | with_reducible apply Keeps.foldl_fst
      | with_reducible apply Keeps.foldl_snd
      | extract_lets
      | split
      | (dsimp +zetaDelta only; split)
      | with_reducible apply Keeps.mkU

theorem State.markWords_keeps {s₀ s : State} (h : Keeps s₀ s) (key : Nat) (marks : List (Nat × Bool)) :
    Keeps s₀ (State.markWords s key marks) := by
  unfold State.markWords
  repeat'
    first
      | with_reducible assumption
      | intro _
      | with_reducible apply Keeps.ite
      | with_reducible apply Keeps.foldl
      | with_reducible apply Keeps.foldl_fst
      | with_reducible apply Keeps.foldl_snd
      | extract_lets
      | split
      | (dsimp +zetaDelta only; split)
      | with_reducible apply Keeps.mkU

theorem State.drawBytes_keeps {s₀ s : State} (h : Keeps s₀ s) (n : Nat) : Keeps s₀ (s.drawBytes n).2 := by
  induction n with
  | zero => exact h
  | succ n ih => exact State.draw_keeps ih

theorem State.spoil_keeps {s₀ s : State} (h : Keeps s₀ s) (key : Nat) (n : Nat) :
    Keeps s₀ (State.spoil s key n) := by
  unfold State.spoil
  repeat'
    first
      | with_reducible assumption
      | intro _
      | with_reducible apply Keeps.ite
      | with_reducible apply State.drawBytes_keeps
      | with_reducible apply State.poke_keeps
      | with_reducible apply State.setMarks_keeps
      | extract_lets
      | split
      | (dsimp +zetaDelta only; split)
      | with_reducible apply Keeps.mkU

theorem State.touch_keeps {s₀ s : State} (h : Keeps s₀ s) (m : Nat) :
    Keeps s₀ (State.touch s m) := by
  unfold State.touch
  repeat'
    first
      | with_reducible assumption
      | intro _
      | with_reducible apply Keeps.ite
      | with_reducible apply State.modSite_keeps
      | extract_lets
      | split
      | (dsimp +zetaDelta only; split)
      | with_reducible apply Keeps.mkU

theorem State.putSite_keeps {s₀ s : State} (h : Keeps s₀ s) (m : Nat) (off : Nat) (bs : Bytes) (poison : List Nat) (billet : Bool) (slot : Nat) :
    Keeps s₀ (State.putSite s m off bs poison billet slot) := by
  unfold State.putSite
  repeat'
    first
      | with_reducible assumption
      | intro _
      | with_reducible apply Keeps.ite
      | with_reducible apply State.poke_keeps
      | with_reducible apply State.modSite_keeps
      | with_reducible apply Keeps.foldl
      | with_reducible apply Keeps.foldl_fst
      | with_reducible apply Keeps.foldl_snd
      | extract_lets
      | split
      | (dsimp +zetaDelta only; split)
      | with_reducible apply Keeps.mkU

theorem State.storeSite_keeps {s₀ s : State} (h : Keeps s₀ s) (m : Nat) (off : Nat) (bs : Bytes) (poison : Bool) :
    Keeps s₀ (State.storeSite s m off bs poison) := by
  unfold State.storeSite
  repeat'
    first
      | with_reducible assumption
      | intro _
      | with_reducible apply Keeps.ite
      | with_reducible apply State.touch_keeps
      | with_reducible apply State.putSite_keeps
      | extract_lets
      | split
      | (dsimp +zetaDelta only; split)
      | with_reducible apply Keeps.mkU

theorem State.releaseSites_keeps {s₀ s : State} (h : Keeps s₀ s) :
    Keeps s₀ (State.releaseSites s) := by
  unfold State.releaseSites
  repeat'
    first
      | with_reducible assumption
      | intro _
      | with_reducible apply Keeps.ite
      | with_reducible apply State.storeSite_keeps
      | with_reducible apply Keeps.foldl
      | with_reducible apply Keeps.foldl_fst
      | with_reducible apply Keeps.foldl_snd
      | extract_lets
      | split
      | (dsimp +zetaDelta only; split)
      | with_reducible apply Keeps.mkU

theorem State.traceInto_keeps {s₀ s : State} (h : Keeps s₀ s) (t : Nat) (x : TraceSt) (r : TraceRec) :
    Keeps s₀ (State.traceInto s t x r) := by
  unfold State.traceInto
  repeat'
    first
      | with_reducible assumption
      | intro _
      | with_reducible apply Keeps.ite
      | with_reducible apply State.storeSite_keeps
      | extract_lets
      | split
      | (dsimp +zetaDelta only; split)
      | with_reducible apply Keeps.mkU

theorem State.trace_keeps {s₀ s : State} (h : Keeps s₀ s) (r : TraceRec) :
    Keeps s₀ (State.trace s r) := by
  unfold State.trace
  repeat'
    first
      | with_reducible assumption
      | intro _
      | with_reducible apply Keeps.ite
      | with_reducible apply State.traceInto_keeps
      | with_reducible apply Keeps.foldl
      | with_reducible apply Keeps.foldl_fst
      | with_reducible apply Keeps.foldl_snd
      | extract_lets
      | split
      | (dsimp +zetaDelta only; split)
      | with_reducible apply Keeps.mkU

theorem State.logSync_keeps {s₀ s : State} (h : Keeps s₀ s) (e : SyncEvent) :
    Keeps s₀ (State.logSync s e) := by
  unfold State.logSync
  repeat'
    first
      | with_reducible assumption
      | intro _
      | with_reducible apply Keeps.ite
      | extract_lets
      | split
      | (dsimp +zetaDelta only; split)
      | with_reducible apply Keeps.mkU

theorem State.ownerNotice_keeps {s₀ s : State} (h : Keeps s₀ s) (k : Nat) (prio : Nat) (cellCode : Nat) (queueCode : Nat) (word : BitVec 128) :
    Keeps s₀ (State.ownerNotice s k prio cellCode queueCode word) := by
  unfold State.ownerNotice
  repeat'
    first
      | with_reducible assumption
      | intro _
      | with_reducible apply Keeps.ite
      | with_reducible apply State.cellItem_keeps
      | with_reducible apply State.noticeTurf_keeps
      | with_reducible apply State.notice_keeps
      | with_reducible apply State.coreItem_keeps
      | extract_lets
      | split
      | (dsimp +zetaDelta only; split)
      | with_reducible apply Keeps.mkU

theorem State.underflow_keeps {s₀ s : State} (h : Keeps s₀ s) (k : Nat) (amount : Nat) (p : Party) (status : Nat) :
    Keeps s₀ (State.underflow s k amount p status) := by
  unfold State.underflow
  repeat'
    first
      | with_reducible assumption
      | exact fun _ hc => hc
      | exact fun _ hc => Nat.lt_of_le_of_lt (Nat.sub_le _ _) hc
      | exact fun _ _ => (by decide : (0 : Nat) < 2 ^ 31)
      | exact fun _ _ => by decide
      | (intro _ _; dsimp only; omega)
      | (intro _ _; dsimp +zetaDelta only; omega)
      | intro _
      | with_reducible apply Keeps.ite
      | with_reducible apply State.logSync_keeps
      | with_reducible apply State.modCtr_keeps
      | with_reducible apply State.bump_keeps
      | with_reducible apply State.ownerNotice_keeps
      | extract_lets
      | split
      | (dsimp +zetaDelta only; split)
      | with_reducible apply Keeps.mkU

theorem State.refuseChange_keeps {s₀ s : State} (h : Keeps s₀ s) (k : Nat) (amount : Nat) (status : Nat) (overflow : Bool) (p : Party) :
    Keeps s₀ (State.refuseChange s k amount status overflow p) := by
  unfold State.refuseChange
  repeat'
    first
      | with_reducible assumption
      | intro _
      | with_reducible apply Keeps.ite
      | with_reducible apply State.countRefusal_keeps
      | with_reducible apply State.bump_keeps
      | with_reducible apply State.tally_keeps
      | with_reducible apply State.logSync_keeps
      | with_reducible apply State.trace_keeps
      | extract_lets
      | split
      | (dsimp +zetaDelta only; split)
      | with_reducible apply Keeps.mkU

theorem State.addCtr_keeps {s₀ s : State} (h : Keeps s₀ s) (k : Nat) (delta : Int) (p : Party) :
    Keeps s₀ (State.addCtr s k delta p).1 := by
  unfold State.addCtr
  repeat'
    first
      | with_reducible assumption
      | exact fun _ hc => hc
      | exact fun _ hc => Nat.lt_of_le_of_lt (Nat.sub_le _ _) hc
      | exact fun _ _ => (by decide : (0 : Nat) < 2 ^ 31)
      | exact fun _ _ => by decide
      | (intro _ _; dsimp only; omega)
      | (intro _ _; dsimp +zetaDelta only; omega)
      | intro _
      | with_reducible apply Keeps.ite
      | with_reducible apply State.refuseChange_keeps
      | with_reducible apply State.bump_keeps
      | with_reducible apply State.underflow_keeps
      | with_reducible apply State.trace_keeps
      | with_reducible apply State.modCtr_keeps
      | extract_lets
      | split
      | (dsimp +zetaDelta only; split)
      | with_reducible apply Keeps.mkU

theorem State.waitUnderflow_keeps {s₀ s : State} (h : Keeps s₀ s) (k : Nat) (w : Waiter) :
    Keeps s₀ (State.waitUnderflow s k w).1 := by
  unfold State.waitUnderflow
  repeat'
    first
      | with_reducible assumption
      | intro _
      | with_reducible apply Keeps.ite
      | with_reducible apply State.underflow_keeps
      | extract_lets
      | split
      | (dsimp +zetaDelta only; split)
      | with_reducible apply Keeps.mkU

theorem State.waitTake_keeps {s₀ s : State} (h : Keeps s₀ s) (k : Nat) (w : Waiter) :
    Keeps s₀ (State.waitTake s k w) := by
  unfold State.waitTake
  repeat'
    first
      | with_reducible assumption
      | exact fun _ hc => hc
      | exact fun _ hc => Nat.lt_of_le_of_lt (Nat.sub_le _ _) hc
      | exact fun _ _ => (by decide : (0 : Nat) < 2 ^ 31)
      | exact fun _ _ => by decide
      | (intro _ _; dsimp only; omega)
      | (intro _ _; dsimp +zetaDelta only; omega)
      | intro _
      | with_reducible apply Keeps.ite
      | with_reducible apply State.modCtr_keeps
      | with_reducible apply State.bump_keeps
      | with_reducible apply State.trace_keeps
      | extract_lets
      | split
      | (dsimp +zetaDelta only; split)
      | with_reducible apply Keeps.mkU

theorem State.waitOn_keeps {s₀ s : State} (h : Keeps s₀ s) (k : Nat) (w : Waiter) (epoch : Nat := 0) :
    Keeps s₀ (State.waitOn s k w epoch).1 := by
  unfold State.waitOn
  repeat'
    first
      | with_reducible assumption
      | exact fun _ hc => hc
      | exact fun _ hc => Nat.lt_of_le_of_lt (Nat.sub_le _ _) hc
      | exact fun _ _ => (by decide : (0 : Nat) < 2 ^ 31)
      | exact fun _ _ => by decide
      | (intro _ _; dsimp only; omega)
      | (intro _ _; dsimp +zetaDelta only; omega)
      | intro _
      | with_reducible apply Keeps.ite
      | with_reducible apply State.bump_keeps
      | with_reducible apply State.trace_keeps
      | with_reducible apply State.waitTake_keeps
      | with_reducible apply State.waitUnderflow_keeps
      | with_reducible apply State.modCtr_keeps
      | extract_lets
      | split
      | (dsimp +zetaDelta only; split)
      | with_reducible apply Keeps.mkU

theorem State.evalWaits_keeps {s₀ s : State} (h : Keeps s₀ s) (k : Nat) :
    Keeps s₀ (State.evalWaits s k).1 := by
  unfold State.evalWaits
  repeat'
    first
      | with_reducible assumption
      | exact fun _ hc => hc
      | exact fun _ hc => Nat.lt_of_le_of_lt (Nat.sub_le _ _) hc
      | exact fun _ _ => (by decide : (0 : Nat) < 2 ^ 31)
      | exact fun _ _ => by decide
      | (intro _ _; dsimp only; omega)
      | (intro _ _; dsimp +zetaDelta only; omega)
      | intro _
      | with_reducible apply Keeps.ite
      | with_reducible apply State.modCtr_keeps
      | with_reducible apply State.waitTake_keeps
      | with_reducible apply State.waitUnderflow_keeps
      | with_reducible apply Keeps.foldl
      | with_reducible apply Keeps.foldl_fst
      | with_reducible apply Keeps.foldl_snd
      | extract_lets
      | split
      | (dsimp +zetaDelta only; split)
      | with_reducible apply Keeps.mkU

theorem State.releaseWaits_keeps {s₀ s : State} (h : Keeps s₀ s) (k : Nat) :
    Keeps s₀ (State.releaseWaits s k) := by
  unfold State.releaseWaits
  repeat'
    first
      | with_reducible assumption
      | exact fun _ hc => hc
      | exact fun _ hc => Nat.lt_of_le_of_lt (Nat.sub_le _ _) hc
      | exact fun _ _ => (by decide : (0 : Nat) < 2 ^ 31)
      | exact fun _ _ => by decide
      | (intro _ _; dsimp only; omega)
      | (intro _ _; dsimp +zetaDelta only; omega)
      | intro _
      | with_reducible apply Keeps.ite
      | with_reducible apply State.modCtr_keeps
      | with_reducible apply State.trace_keeps
      | with_reducible apply Keeps.foldl
      | with_reducible apply Keeps.foldl_fst
      | with_reducible apply Keeps.foldl_snd
      | extract_lets
      | split
      | (dsimp +zetaDelta only; split)
      | with_reducible apply Keeps.mkU

theorem State.freeCtr_keeps {s₀ s : State} (h : Keeps s₀ s) (k : Nat) :
    Keeps s₀ (State.freeCtr s k) := by
  unfold State.freeCtr
  repeat'
    first
      | with_reducible assumption
      | exact fun _ hc => hc
      | exact fun _ hc => Nat.lt_of_le_of_lt (Nat.sub_le _ _) hc
      | exact fun _ _ => (by decide : (0 : Nat) < 2 ^ 31)
      | exact fun _ _ => by decide
      | (intro _ _; dsimp only; omega)
      | (intro _ _; dsimp +zetaDelta only; omega)
      | intro _
      | with_reducible apply Keeps.ite
      | with_reducible apply State.releaseWaits_keeps
      | with_reducible apply State.modCtr_keeps
      | with_reducible apply State.logSync_keeps
      | extract_lets
      | split
      | (dsimp +zetaDelta only; split)
      | with_reducible apply Keeps.mkU

theorem State.dropCtr_keeps {s₀ s : State} (h : Keeps s₀ s) (k : Nat) :
    Keeps s₀ (State.dropCtr s k) := by
  unfold State.dropCtr
  repeat'
    first
      | with_reducible assumption
      | exact fun _ hc => hc
      | exact fun _ hc => Nat.lt_of_le_of_lt (Nat.sub_le _ _) hc
      | exact fun _ _ => (by decide : (0 : Nat) < 2 ^ 31)
      | exact fun _ _ => by decide
      | (intro _ _; dsimp only; omega)
      | (intro _ _; dsimp +zetaDelta only; omega)
      | intro _
      | with_reducible apply Keeps.ite
      | with_reducible apply State.releaseWaits_keeps
      | with_reducible apply State.modCtr_keeps
      | extract_lets
      | split
      | (dsimp +zetaDelta only; split)
      | with_reducible apply Keeps.mkU

theorem State.revokeCtr_keeps {s₀ s : State} (h : Keeps s₀ s) (k : Nat) :
    Keeps s₀ (State.revokeCtr s k) := by
  unfold State.revokeCtr
  repeat'
    first
      | with_reducible assumption
      | exact fun _ hc => hc
      | exact fun _ hc => Nat.lt_of_le_of_lt (Nat.sub_le _ _) hc
      | exact fun _ _ => (by decide : (0 : Nat) < 2 ^ 31)
      | exact fun _ _ => by decide
      | (intro _ _; dsimp only; omega)
      | (intro _ _; dsimp +zetaDelta only; omega)
      | intro _
      | with_reducible apply Keeps.ite
      | with_reducible apply State.releaseWaits_keeps
      | with_reducible apply State.modCtr_keeps
      | with_reducible apply State.logSync_keeps
      | with_reducible apply State.notice_keeps
      | extract_lets
      | split
      | (dsimp +zetaDelta only; split)
      | with_reducible apply Keeps.mkU

theorem State.revokeQueueCtrs_keeps {s₀ s : State} (h : Keeps s₀ s) (q : Nat) :
    Keeps s₀ (State.revokeQueueCtrs s q) := by
  unfold State.revokeQueueCtrs
  repeat'
    first
      | with_reducible assumption
      | intro _
      | with_reducible apply Keeps.ite
      | with_reducible apply State.revokeCtr_keeps
      | with_reducible apply Keeps.foldl
      | with_reducible apply Keeps.foldl_fst
      | with_reducible apply Keeps.foldl_snd
      | extract_lets
      | split
      | (dsimp +zetaDelta only; split)
      | with_reducible apply Keeps.mkU

theorem State.refuseToCell_keeps {s₀ s : State} (h : Keeps s₀ s) (c : Nat) (unit : Nat) (status : Nat) (addr : DWord) (newEpoch : Nat) (layer : Half) (operator : Half) :
    Keeps s₀ (State.refuseToCell s c unit status addr newEpoch layer operator) := by
  unfold State.refuseToCell
  repeat'
    first
      | with_reducible assumption
      | intro _
      | with_reducible apply Keeps.ite
      | with_reducible apply State.cellEvent_keeps
      | with_reducible apply State.cellItem_keeps
      | extract_lets
      | split
      | (dsimp +zetaDelta only; split)
      | with_reducible apply Keeps.mkU

theorem State.queueDyn_keeps {s₀ s : State} (h : Keeps s₀ s) (port : Nat) (dst : Nat) (turf : Nat) (vc : Nat) (p : Packet) :
    Keeps s₀ (State.queueDyn s port dst turf vc p) := by
  unfold State.queueDyn
  repeat'
    first
      | with_reducible assumption
      | intro _
      | with_reducible apply Keeps.ite
      | with_reducible apply State.modPort_keeps
      | extract_lets
      | split
      | (dsimp +zetaDelta only; split)
      | with_reducible apply Keeps.mkU

theorem State.takeTag_keeps {s₀ s : State} (h : Keeps s₀ s) (unit : Nat) :
    Keeps s₀ (State.takeTag s unit).2 := by
  unfold State.takeTag
  repeat'
    first
      | with_reducible assumption
      | intro _
      | with_reducible apply Keeps.ite
      | extract_lets
      | split
      | (dsimp +zetaDelta only; split)
      | with_reducible apply Keeps.mkU

theorem State.takeWindow_keeps {s₀ s : State} (h : Keeps s₀ s) (ep : Nat) (n : Nat) :
    Keeps s₀ (State.takeWindow s ep n) := by
  unfold State.takeWindow
  repeat'
    first
      | with_reducible assumption
      | intro _
      | with_reducible apply Keeps.ite
      | extract_lets
      | split
      | (dsimp +zetaDelta only; split)
      | with_reducible apply Keeps.mkU

theorem State.issueOp_keeps {s₀ s : State} (h : Keeps s₀ s) (unit : Nat) (turf : Nat) (opcode : Nat) (otype : Nat) (flags : Nat) (len : Nat) (addr : DWord) (operand : BitVec 128) (ext : Option (BitVec 128)) (data : Bytes) (poison : Bool) (purpose : Nat) (extra : Nat) :
    Keeps s₀ (State.issueOp s unit turf opcode otype flags len addr operand ext data poison purpose extra).1 := by
  unfold State.issueOp
  repeat'
    first
      | with_reducible assumption
      | intro _
      | with_reducible apply Keeps.ite
      | with_reducible apply State.takeTag_keeps
      | with_reducible apply State.queueDyn_keeps
      | with_reducible apply State.takeWindow_keeps
      | extract_lets
      | split
      | (dsimp +zetaDelta only; split)
      | with_reducible apply Keeps.mkU

theorem State.freeWindow_keeps {s₀ s : State} (h : Keeps s₀ s) (ep : Nat) (n : Nat) :
    Keeps s₀ (State.freeWindow s ep n) := by
  unfold State.freeWindow
  repeat'
    first
      | with_reducible assumption
      | intro _
      | with_reducible apply Keeps.ite
      | extract_lets
      | split
      | (dsimp +zetaDelta only; split)
      | with_reducible apply Keeps.mkU

theorem State.admitOp_keeps {s₀ s : State} (h : Keeps s₀ s) (o : TomicOp) :
    Keeps s₀ (State.admitOp s o) := by
  unfold State.admitOp
  repeat'
    first
      | with_reducible assumption
      | intro _
      | with_reducible apply Keeps.ite
      | with_reducible apply State.takeWindow_keeps
      | with_reducible apply State.bump_keeps
      | with_reducible apply State.queueDyn_keeps
      | with_reducible apply State.tally_keeps
      | extract_lets
      | split
      | (dsimp +zetaDelta only; split)
      | with_reducible apply Keeps.mkU

theorem State.pumpWindows_keeps {s₀ s : State} (h : Keeps s₀ s) :
    Keeps s₀ (State.pumpWindows s) := by
  unfold State.pumpWindows
  repeat'
    first
      | with_reducible assumption
      | intro _
      | with_reducible apply Keeps.ite
      | with_reducible apply State.admitOp_keeps
      | with_reducible apply Keeps.foldl
      | with_reducible apply Keeps.foldl_fst
      | with_reducible apply Keeps.foldl_snd
      | extract_lets
      | split
      | (dsimp +zetaDelta only; split)
      | with_reducible apply Keeps.mkU

theorem State.queueProtected_keeps {s₀ s : State} (h : Keeps s₀ s) (oep : Nat) (ptype : Nat) (dest : Nat) (arg : Nat) (addr : DWord) :
    Keeps s₀ (State.queueProtected s oep ptype dest arg addr) := by
  unfold State.queueProtected
  repeat'
    first
      | with_reducible assumption
      | intro _
      | with_reducible apply Keeps.ite
      | with_reducible apply State.modPort_keeps
      | extract_lets
      | split
      | (dsimp +zetaDelta only; split)
      | with_reducible apply Keeps.mkU

theorem State.sendProtected_keeps {s₀ s : State} (h : Keeps s₀ s) (oep : Nat) (ptype : Nat) (dest : Nat) (arg : Nat) (addr : DWord) :
    Keeps s₀ (State.sendProtected s oep ptype dest arg addr) := by
  unfold State.sendProtected
  repeat'
    first
      | with_reducible assumption
      | intro _
      | with_reducible apply Keeps.ite
      | with_reducible apply State.queueProtected_keeps
      | extract_lets
      | split
      | (dsimp +zetaDelta only; split)
      | with_reducible apply Keeps.mkU

theorem State.pumpProtected_keeps {s₀ s : State} (h : Keeps s₀ s) :
    Keeps s₀ (State.pumpProtected s) := by
  unfold State.pumpProtected
  repeat'
    first
      | with_reducible assumption
      | intro _
      | with_reducible apply Keeps.ite
      | with_reducible apply State.sendProtected_keeps
      | with_reducible apply Keeps.foldl
      | with_reducible apply Keeps.foldl_fst
      | with_reducible apply Keeps.foldl_snd
      | extract_lets
      | split
      | (dsimp +zetaDelta only; split)
      | with_reducible apply Keeps.mkU

theorem State.announceAll_keeps {s₀ s : State} (h : Keeps s₀ s) (ptype : Nat) (arg : Nat) (addr : DWord) :
    Keeps s₀ (State.announceAll s ptype arg addr) := by
  unfold State.announceAll
  repeat'
    first
      | with_reducible assumption
      | intro _
      | with_reducible apply Keeps.ite
      | with_reducible apply State.sendProtected_keeps
      | with_reducible apply Keeps.foldl
      | with_reducible apply Keeps.foldl_fst
      | with_reducible apply Keeps.foldl_snd
      | extract_lets
      | split
      | (dsimp +zetaDelta only; split)
      | with_reducible apply Keeps.mkU

theorem State.msix_keeps {s₀ s : State} (h : Keeps s₀ s) (port : Nat) (vector : Nat) :
    Keeps s₀ (State.msix s port vector) := by
  unfold State.msix
  repeat'
    first
      | with_reducible assumption
      | intro _
      | with_reducible apply Keeps.ite
      | with_reducible apply State.modPcie_keeps
      | with_reducible apply State.emit_keeps
      | extract_lets
      | split
      | (dsimp +zetaDelta only; split)
      | with_reducible apply Keeps.mkU

theorem State.writeCqe_keeps {s₀ s : State} (h : Keeps s₀ s) (q : Nat) (tag : Word) (status : Nat) (cause : Nat) (notify : Bool) (result : DWord) :
    Keeps s₀ (State.writeCqe s q tag status cause notify result) := by
  unfold State.writeCqe
  repeat'
    first
      | with_reducible assumption
      | exact fun w => memWrite_wf w
      | exact fun w => memFilter_wf w
      | intro _
      | with_reducible apply Keeps.ite
      | with_reducible apply State.modQueue_keeps
      | with_reducible apply State.issueOp_keeps
      | with_reducible apply State.storeSite_keeps
      | with_reducible apply State.msix_keeps
      | extract_lets
      | split
      | (dsimp +zetaDelta only; split)
      | with_reducible apply Keeps.mkU
      | with_reducible apply Keeps.mkHost

theorem State.modAccepted_keeps {s₀ s : State} (h : Keeps s₀ s) (q : Nat) (slot : Nat) (f : Accepted → Accepted) :
    Keeps s₀ (State.modAccepted s q slot f) := by
  unfold State.modAccepted
  repeat'
    first
      | with_reducible assumption
      | intro _
      | with_reducible apply Keeps.ite
      | extract_lets
      | split
      | (dsimp +zetaDelta only; split)
      | with_reducible apply Keeps.mkU

theorem State.completeCore_keeps {s₀ s : State} (h : Keeps s₀ s) (a : Accepted) (status : Nat) (cause : Nat) (result : DWord) :
    Keeps s₀ (State.completeCore s a status cause result) := by
  unfold State.completeCore
  repeat'
    first
      | with_reducible assumption
      | intro _
      | with_reducible apply Keeps.ite
      | with_reducible apply State.writeCqe_keeps
      | with_reducible apply State.modQueue_keeps
      | extract_lets
      | split
      | (dsimp +zetaDelta only; split)
      | with_reducible apply Keeps.mkU

theorem State.bindEntry_keeps {s₀ s : State} (h : Keeps s₀ s) (q : Nat) :
    Keeps s₀ (State.bindEntry s q) := by
  unfold State.bindEntry
  repeat'
    first
      | with_reducible assumption
      | intro _
      | with_reducible apply Keeps.ite
      | with_reducible apply State.modCset_keeps
      | extract_lets
      | split
      | (dsimp +zetaDelta only; split)
      | with_reducible apply Keeps.mkU

theorem State.revokeSelf_keeps {s₀ s : State} (h : Keeps s₀ s) (q : Nat) :
    Keeps s₀ (State.revokeSelf s q) := by
  unfold State.revokeSelf
  repeat'
    first
      | with_reducible assumption
      | intro _
      | with_reducible apply Keeps.ite
      | with_reducible apply State.logSync_keeps
      | with_reducible apply State.modQueue_keeps
      | with_reducible apply State.notice_keeps
      | extract_lets
      | split
      | (dsimp +zetaDelta only; split)
      | with_reducible apply Keeps.mkU

theorem State.finishClose_keeps {s₀ s : State} (h : Keeps s₀ s) (q : Nat) :
    Keeps s₀ (State.finishClose s q) := by
  unfold State.finishClose
  repeat'
    first
      | with_reducible assumption
      | intro _
      | with_reducible apply Keeps.ite
      | with_reducible apply State.revokeQueueCtrs_keeps
      | with_reducible apply State.revokeSelf_keeps
      | with_reducible apply State.modQueue_keeps
      | with_reducible apply State.bindEntry_keeps
      | with_reducible apply State.notice_keeps
      | with_reducible apply State.completeCore_keeps
      | with_reducible apply Keeps.foldl
      | with_reducible apply Keeps.foldl_fst
      | with_reducible apply Keeps.foldl_snd
      | extract_lets
      | split
      | (dsimp +zetaDelta only; split)
      | with_reducible apply Keeps.mkU

theorem State.settleQueue_keeps {s₀ s : State} (h : Keeps s₀ s) (q : Nat) :
    Keeps s₀ (State.settleQueue s q) := by
  unfold State.settleQueue
  repeat'
    first
      | with_reducible assumption
      | intro _
      | with_reducible apply Keeps.ite
      | with_reducible apply State.finishClose_keeps
      | extract_lets
      | split
      | (dsimp +zetaDelta only; split)
      | with_reducible apply Keeps.mkU

theorem State.complete_keeps {s₀ s : State} (h : Keeps s₀ s) (a : Accepted) (status : Nat) (cause : Nat) (result : DWord) :
    Keeps s₀ (State.complete s a status cause result) := by
  unfold State.complete
  repeat'
    first
      | with_reducible assumption
      | intro _
      | with_reducible apply Keeps.ite
      | with_reducible apply State.completeCore_keeps
      | with_reducible apply State.settleQueue_keeps
      | extract_lets
      | split
      | (dsimp +zetaDelta only; split)
      | with_reducible apply Keeps.mkU

theorem State.startClose_keeps {s₀ s : State} (h : Keeps s₀ s) (q : Nat) (cause : Nat) (mode : Nat) :
    Keeps s₀ (State.startClose s q cause mode) := by
  unfold State.startClose
  repeat'
    first
      | with_reducible assumption
      | intro _
      | with_reducible apply Keeps.ite
      | with_reducible apply State.revokeSelf_keeps
      | with_reducible apply State.modQueue_keeps
      | with_reducible apply State.settleQueue_keeps
      | extract_lets
      | split
      | (dsimp +zetaDelta only; split)
      | with_reducible apply Keeps.mkU

theorem State.queueError_keeps {s₀ s : State} (h : Keeps s₀ s) (q : Nat) (cause : Nat) :
    Keeps s₀ (State.queueError s q cause) := by
  unfold State.queueError
  repeat'
    first
      | with_reducible assumption
      | intro _
      | with_reducible apply Keeps.ite
      | with_reducible apply State.modQueue_keeps
      | extract_lets
      | split
      | (dsimp +zetaDelta only; split)
      | with_reducible apply Keeps.mkU

theorem State.renewQueue_keeps {s₀ s : State} (h : Keeps s₀ s) (q : Nat) :
    Keeps s₀ (State.renewQueue s q) := by
  unfold State.renewQueue
  repeat'
    first
      | with_reducible assumption
      | exact fun _ hc => hc
      | exact fun _ hc => Nat.lt_of_le_of_lt (Nat.sub_le _ _) hc
      | exact fun _ _ => (by decide : (0 : Nat) < 2 ^ 31)
      | exact fun _ _ => by decide
      | (intro _ _; dsimp only; omega)
      | (intro _ _; dsimp +zetaDelta only; omega)
      | intro _
      | with_reducible apply Keeps.ite
      | with_reducible apply State.modQueue_keeps
      | with_reducible apply State.modCtr_keeps
      | with_reducible apply Keeps.foldl
      | with_reducible apply Keeps.foldl_fst
      | with_reducible apply Keeps.foldl_snd
      | extract_lets
      | split
      | (dsimp +zetaDelta only; split)
      | with_reducible apply Keeps.mkU

end Sys2Proof.Machine
end

