-- ==== Sys2Proof/Laws/KeepsRecords.lean ====
section
/-!
SUPPORT. What every operation of Machine/Records.lean keeps (Laws/Keeps.lean).
-/
namespace Sys2Proof.Machine

set_option Elab.async false
set_option linter.all false

theorem State.notice0_keeps {s₀ s : State} (h : Keeps s₀ s) (prio : Nat) (code : Nat) (words : List (BitVec 128)) :
    Keeps s₀ (State.notice0 s prio code words) := by
  unfold State.notice0
  repeat'
    first
      | with_reducible assumption
      | intro _
      | with_reducible apply Keeps.ite
      | with_reducible apply State.noticeTurf_keeps
      | extract_lets
      | split
      | (dsimp +zetaDelta only; split)
      | with_reducible apply Keeps.mkU

theorem State.addDefect_keeps {s₀ s : State} (h : Keeps s₀ s) (kind : Nat) (origin : Nat) (unit : Nat) (detail : Word) (action : Nat) :
    Keeps s₀ (State.addDefect s kind origin unit detail action) := by
  unfold State.addDefect
  repeat'
    first
      | with_reducible assumption
      | intro _
      | with_reducible apply Keeps.ite
      | with_reducible apply State.notice0_keeps
      | extract_lets
      | split
      | (dsimp +zetaDelta only; split)
      | with_reducible apply Keeps.mkU
      | with_reducible apply Keeps.mkFirm
      | with_reducible exact rfl
      | with_reducible exact List.prefix_refl _
      | (dsimp +zetaDelta only; with_reducible exact rfl)
      | (dsimp +zetaDelta only; with_reducible exact List.prefix_refl _)
      | exact rfl
      | exact List.prefix_refl _
      | exact List.prefix_append _ _

theorem State.addWear_keeps {s₀ s : State} (h : Keeps s₀ s) (rkind : Nat) (unit : Nat) (value : Word) (detail : Word) :
    Keeps s₀ (State.addWear s rkind unit value detail) := by
  unfold State.addWear
  repeat'
    first
      | with_reducible assumption
      | intro _
      | with_reducible apply Keeps.ite
      | extract_lets
      | split
      | (dsimp +zetaDelta only; split)
      | with_reducible apply Keeps.mkU
      | with_reducible apply Keeps.mkFirm
      | with_reducible exact rfl
      | with_reducible exact List.prefix_refl _
      | (dsimp +zetaDelta only; with_reducible exact rfl)
      | (dsimp +zetaDelta only; with_reducible exact List.prefix_refl _)
      | exact rfl
      | exact List.prefix_refl _
      | exact List.prefix_append _ _

theorem State.faultNotice_keeps {s₀ s : State} (h : Keeps s₀ s) (kind : Nat) (action : Nat) (unit : Nat) (detail : Word) (cls : Nat) :
    Keeps s₀ (State.faultNotice s kind action unit detail cls) := by
  unfold State.faultNotice
  repeat'
    first
      | with_reducible assumption
      | intro _
      | with_reducible apply Keeps.ite
      | with_reducible apply State.notice0_keeps
      | extract_lets
      | split
      | (dsimp +zetaDelta only; split)
      | with_reducible apply Keeps.mkU

theorem State.faultActed_keeps {s₀ s : State} (h : Keeps s₀ s) (kind : Nat) (origin : Nat) (action : Nat) (unit : Nat) (detail : Word) (cls : Nat) :
    Keeps s₀ (State.faultActed s kind origin action unit detail cls) := by
  unfold State.faultActed
  repeat'
    first
      | with_reducible assumption
      | intro _
      | with_reducible apply Keeps.ite
      | with_reducible apply State.addDefect_keeps
      | with_reducible apply State.faultNotice_keeps
      | extract_lets
      | split
      | (dsimp +zetaDelta only; split)
      | with_reducible apply Keeps.mkU

theorem State.spareLow_keeps {s₀ s : State} (h : Keeps s₀ s) (kind : Nat) :
    Keeps s₀ (State.spareLow s kind) := by
  unfold State.spareLow
  repeat'
    first
      | with_reducible assumption
      | intro _
      | with_reducible apply Keeps.ite
      | with_reducible apply State.notice0_keeps
      | extract_lets
      | split
      | (dsimp +zetaDelta only; split)
      | with_reducible apply Keeps.mkU

theorem State.markLow_keeps {s₀ s : State} (h : Keeps s₀ s) (kind : Nat) :
    Keeps s₀ (State.markLow s kind) := by
  unfold State.markLow
  repeat'
    first
      | with_reducible assumption
      | intro _
      | with_reducible apply Keeps.ite
      | extract_lets
      | split
      | (dsimp +zetaDelta only; split)
      | with_reducible apply Keeps.mkU
      | with_reducible apply Keeps.mkFirm
      | with_reducible exact rfl
      | with_reducible exact List.prefix_refl _
      | (dsimp +zetaDelta only; with_reducible exact rfl)
      | (dsimp +zetaDelta only; with_reducible exact List.prefix_refl _)
      | exact rfl
      | exact List.prefix_refl _
      | exact List.prefix_append _ _

theorem State.checkProj_keeps {s₀ s : State} (h : Keeps s₀ s) (kind : Nat) :
    Keeps s₀ (State.checkProj s kind) := by
  unfold State.checkProj
  repeat'
    first
      | with_reducible assumption
      | intro _
      | with_reducible apply Keeps.ite
      | with_reducible apply State.markLow_keeps
      | with_reducible apply State.spareLow_keeps
      | extract_lets
      | split
      | (dsimp +zetaDelta only; split)
      | with_reducible apply Keeps.mkU

theorem State.takeSpare_keeps {s₀ s : State} (h : Keeps s₀ s) (kind : Nat) (pool : Nat) (unit : Nat) (origin : Nat) :
    Keeps s₀ (State.takeSpare s kind pool unit origin) := by
  unfold State.takeSpare
  repeat'
    first
      | with_reducible assumption
      | intro _
      | with_reducible apply Keeps.ite
      | with_reducible apply State.addWear_keeps
      | with_reducible apply State.markLow_keeps
      | with_reducible apply State.spareLow_keeps
      | with_reducible apply State.checkProj_keeps
      | extract_lets
      | split
      | (dsimp +zetaDelta only; split)
      | with_reducible apply Keeps.mkU
      | with_reducible apply Keeps.mkFirm
      | with_reducible exact rfl
      | with_reducible exact List.prefix_refl _
      | (dsimp +zetaDelta only; with_reducible exact rfl)
      | (dsimp +zetaDelta only; with_reducible exact List.prefix_refl _)
      | exact rfl
      | exact List.prefix_refl _
      | exact List.prefix_append _ _

theorem State.announceClamp_keeps {s₀ s : State} (h : Keeps s₀ s) (count : Nat) :
    Keeps s₀ (State.announceClamp s count) := by
  unfold State.announceClamp
  repeat'
    first
      | with_reducible assumption
      | intro _
      | with_reducible apply Keeps.ite
      | extract_lets
      | split
      | (dsimp +zetaDelta only; split)
      | with_reducible apply Keeps.mkU

theorem State.faultClamp_keeps {s₀ s : State} (h : Keeps s₀ s) :
    Keeps s₀ (State.faultClamp s) := by
  unfold State.faultClamp
  repeat'
    first
      | with_reducible assumption
      | intro _
      | with_reducible apply Keeps.ite
      | with_reducible apply State.announceClamp_keeps
      | extract_lets
      | split
      | (dsimp +zetaDelta only; split)
      | with_reducible apply Keeps.mkU

theorem State.ashCapture_keeps {s₀ s : State} (h : Keeps s₀ s) (trigger : Nat) (t : Nat) :
    Keeps s₀ (State.ashCapture s trigger t) := by
  unfold State.ashCapture
  repeat'
    first
      | with_reducible assumption
      | intro _
      | with_reducible apply Keeps.ite
      | with_reducible apply State.notice0_keeps
      | extract_lets
      | split
      | (dsimp +zetaDelta only; split)
      | with_reducible apply Keeps.mkU

end Sys2Proof.Machine
end

