-- ==== Sys2Proof/Laws/KeepsBatchOps.lean ====
section
/-!
SUPPORT. What every operation of Machine/BatchOps.lean keeps (Laws/Keeps.lean).
-/
namespace Sys2Proof.Machine

set_option Elab.async false
set_option linter.all false

theorem State.clearCells_keeps {s₀ s : State} (h : Keeps s₀ s) (p : Nat → Bool) : Keeps s₀ (State.clearCells s p) := by
  have h1 : Keeps s₀ { s with ctrs := s.ctrs.filter (fun c => !(decide (65536 ≤ c.1) && p ((c.1 - 65536) / 64))) } :=
    h.mkCtrs fun r q hq => r q (List.mem_filter.1 hq).1
  unfold State.clearCells
  exact h1.mkMem fun w => memFilter_wf w

theorem State.clearRegion_keeps {s₀ s : State} (h : Keeps s₀ s) (r : Nat) :
    Keeps s₀ (State.clearRegion s r) := by
  unfold State.clearRegion
  repeat'
    first
      | with_reducible assumption
      | intro _
      | with_reducible apply Keeps.ite
      | with_reducible apply State.clearCells_keeps
      | extract_lets
      | split
      | (dsimp +zetaDelta only; split)
      | with_reducible apply Keeps.mkU

theorem State.loadRegion_keeps {s₀ s : State} (h : Keeps s₀ s) (r : Nat) :
    Keeps s₀ (State.loadRegion s r) := by
  unfold State.loadRegion
  repeat'
    first
      | with_reducible assumption
      | intro _
      | with_reducible apply Keeps.ite
      | with_reducible apply State.modCell_keeps
      | with_reducible apply Keeps.foldl
      | with_reducible apply Keeps.foldl_fst
      | with_reducible apply Keeps.foldl_snd
      | extract_lets
      | split
      | (dsimp +zetaDelta only; split)
      | with_reducible apply Keeps.mkU

theorem State.reloadCell_keeps {s₀ s : State} (h : Keeps s₀ s) (c : Nat) :
    Keeps s₀ (State.reloadCell s c) := by
  unfold State.reloadCell
  repeat'
    first
      | with_reducible assumption
      | exact fun w => memWrite_wf w
      | exact fun w => memFilter_wf w
      | intro _
      | with_reducible apply Keeps.ite
      | with_reducible apply State.pokeZero_keeps
      | with_reducible apply State.modCell_keeps
      | extract_lets
      | split
      | (dsimp +zetaDelta only; split)
      | with_reducible apply Keeps.mkU
      | with_reducible apply Keeps.mkMem

theorem State.requestH_keeps {s₀ s : State} (h : Keeps s₀ s) (count : Nat) :
    Keeps s₀ (State.requestH s count) := by
  unfold State.requestH
  repeat'
    first
      | with_reducible assumption
      | intro _
      | with_reducible apply Keeps.ite
      | extract_lets
      | split
      | (dsimp +zetaDelta only; split)
      | with_reducible apply Keeps.mkU

theorem State.failRegion_keeps {s₀ s : State} (h : Keeps s₀ s) (r : Nat) (cause : Nat) :
    Keeps s₀ (State.failRegion s r cause) := by
  unfold State.failRegion
  repeat'
    first
      | with_reducible assumption
      | intro _
      | with_reducible apply Keeps.ite
      | with_reducible apply State.clearRegion_keeps
      | with_reducible apply State.modRegion_keeps
      | with_reducible apply State.requestH_keeps
      | extract_lets
      | split
      | (dsimp +zetaDelta only; split)
      | with_reducible apply Keeps.mkU

theorem State.shiftColumn_keeps {s₀ s : State} (h : Keeps s₀ s) (cd : Nat) (phys : Nat) :
    KeepsOpt s₀ (State.shiftColumn s cd phys) := by
  unfold State.shiftColumn
  repeat'
    first
      | with_reducible assumption
      | intro _
      | with_reducible apply KeepsO.next
      | exact KeepsO.fault _
      | with_reducible apply KeepsOpt.some
      | exact KeepsOpt.none
      | with_reducible apply KeepsO.ite
      | with_reducible apply KeepsOpt.ite
      | with_reducible apply Keeps.ite
      | with_reducible apply State.modCd_keeps
      | with_reducible apply State.reloadCell_keeps
      | with_reducible apply Keeps.foldl
      | with_reducible apply Keeps.foldl_fst
      | with_reducible apply Keeps.foldl_snd
      | extract_lets
      | split
      | (dsimp +zetaDelta only; split)
      | with_reducible apply Keeps.mkU
      | with_reducible apply Keeps.mkFirm
      | with_reducible exact rfl
      | with_reducible exact List.prefix_refl _
      | (dsimp +zetaDelta only; with_reducible exact rfl)
      | (dsimp +zetaDelta only; with_reducible exact List.prefix_refl _)
      | exact rfl
      | exact List.prefix_refl _
      | exact List.prefix_append _ _

theorem State.modBatch_keeps {s₀ s : State} (h : Keeps s₀ s) (t : Nat) (f : BatchSt → BatchSt) :
    Keeps s₀ (State.modBatch s t f) := by
  unfold State.modBatch
  repeat'
    first
      | with_reducible assumption
      | intro _
      | with_reducible apply Keeps.ite
      | extract_lets
      | split
      | (dsimp +zetaDelta only; split)
      | with_reducible apply Keeps.mkU

theorem State.stopBatch_keeps {s₀ s : State} (h : Keeps s₀ s) (t : Nat) (status : Nat) (result : DWord) (aborted : Bool) :
    Keeps s₀ (State.stopBatch s t status result aborted) := by
  unfold State.stopBatch
  repeat'
    first
      | with_reducible assumption
      | exact fun r => tmap_all (P := fun c : Ctr => c.value < 2 ^ 31) r (fun _ _ hc => by split <;> exact hc)
      | exact fun r q hq => r q (List.mem_filter.1 hq).1
      | intro _
      | with_reducible apply Keeps.ite
      | with_reducible apply State.modBatch_keeps
      | extract_lets
      | split
      | (dsimp +zetaDelta only; split)
      | with_reducible apply Keeps.mkU
      | with_reducible apply Keeps.mkCtrs

theorem State.retireCell_keeps {s₀ s : State} (h : Keeps s₀ s) (c : Nat) (origin : Nat) :
    Keeps s₀ (State.retireCell s c origin).2 := by
  unfold State.retireCell
  repeat'
    first
      | with_reducible assumption
      | intro _
      | with_reducible apply Keeps.ite
      | with_reducible apply State.shiftColumn_keeps
      | with_reducible apply State.addDefect_keeps
      | with_reducible apply State.takeSpare_keeps
      | with_reducible apply State.faultNotice_keeps
      | with_reducible apply State.stopBatch_keeps
      | with_reducible apply State.failRegion_keeps
      | with_reducible refine (State.shiftColumn_keeps ?_ _ _).keeps _ ‹_›
      | extract_lets
      | split
      | (dsimp +zetaDelta only; split)
      | with_reducible apply Keeps.mkU

theorem State.modWear_keeps {s₀ s : State} (h : Keeps s₀ s) (c : Nat) (f : CellWear → CellWear) :
    Keeps s₀ (State.modWear s c f) := by
  unfold State.modWear
  repeat'
    first
      | with_reducible assumption
      | intro _
      | with_reducible apply Keeps.ite
      | extract_lets
      | split
      | (dsimp +zetaDelta only; split)
      | with_reducible apply Keeps.mkU
      | with_reducible apply Keeps.mkFirm
      | with_reducible exact rfl
      | with_reducible exact List.prefix_refl _
      | (dsimp +zetaDelta only; with_reducible exact rfl)
      | (dsimp +zetaDelta only; with_reducible exact List.prefix_refl _)
      | exact rfl
      | exact List.prefix_refl _
      | exact List.prefix_append _ _

theorem State.softError_keeps {s₀ s : State} (h : Keeps s₀ s) (c : Nat) :
    Keeps s₀ (State.softError s c) := by
  unfold State.softError
  repeat'
    first
      | with_reducible assumption
      | intro _
      | with_reducible apply Keeps.ite
      | with_reducible apply State.modWear_keeps
      | with_reducible apply State.addWear_keeps
      | extract_lets
      | split
      | (dsimp +zetaDelta only; split)
      | with_reducible apply Keeps.mkU

theorem State.retest_keeps {s₀ s : State} (h : Keeps s₀ s) (x : Nat × Bool) :
    Keeps s₀ (State.retest s x) := by
  unfold State.retest
  repeat'
    first
      | with_reducible assumption
      | intro _
      | with_reducible apply Keeps.ite
      | with_reducible apply State.softError_keeps
      | with_reducible apply State.retireCell_keeps
      | extract_lets
      | split
      | (dsimp +zetaDelta only; split)
      | with_reducible apply Keeps.mkU

theorem State.runRetests_keeps {s₀ s : State} (h : Keeps s₀ s) (t : Nat) :
    Keeps s₀ (State.runRetests s t) := by
  unfold State.runRetests
  repeat'
    first
      | with_reducible assumption
      | intro _
      | with_reducible apply Keeps.ite
      | with_reducible apply State.retest_keeps
      | with_reducible apply Keeps.foldl
      | with_reducible apply Keeps.foldl_fst
      | with_reducible apply Keeps.foldl_snd
      | extract_lets
      | split
      | (dsimp +zetaDelta only; split)
      | with_reducible apply Keeps.mkU
      | with_reducible apply Keeps.mkFirm
      | with_reducible exact rfl
      | with_reducible exact List.prefix_refl _
      | (dsimp +zetaDelta only; with_reducible exact rfl)
      | (dsimp +zetaDelta only; with_reducible exact List.prefix_refl _)
      | exact rfl
      | exact List.prefix_refl _
      | exact List.prefix_append _ _

theorem State.finishBatch_keeps {s₀ s : State} (h : Keeps s₀ s) (t : Nat) (b : BatchSt) (status : Nat) (result : DWord) :
    Keeps s₀ (State.finishBatch s t b status result) := by
  unfold State.finishBatch
  repeat'
    first
      | with_reducible assumption
      | exact fun r => tmap_all (P := fun c : Ctr => c.value < 2 ^ 31) r (fun _ _ hc => by split <;> exact hc)
      | exact fun r q hq => r q (List.mem_filter.1 hq).1
      | intro _
      | with_reducible apply Keeps.ite
      | with_reducible apply State.ashCapture_keeps
      | with_reducible apply State.runRetests_keeps
      | with_reducible apply State.complete_keeps
      | extract_lets
      | split
      | (dsimp +zetaDelta only; split)
      | with_reducible apply Keeps.mkU
      | with_reducible apply Keeps.mkCtrs

theorem State.settleStop_keeps {s₀ s : State} (h : Keeps s₀ s) (t : Nat) :
    Keeps s₀ (State.settleStop s t) := by
  unfold State.settleStop
  repeat'
    first
      | with_reducible assumption
      | intro _
      | with_reducible apply Keeps.ite
      | with_reducible apply State.finishBatch_keeps
      | with_reducible apply State.complete_keeps
      | extract_lets
      | split
      | (dsimp +zetaDelta only; split)
      | with_reducible apply Keeps.mkU

theorem State.settleAll_keeps {s₀ s : State} (h : Keeps s₀ s) :
    Keeps s₀ (State.settleAll s) := by
  unfold State.settleAll
  repeat'
    first
      | with_reducible assumption
      | intro _
      | with_reducible apply Keeps.ite
      | with_reducible apply State.settleStop_keeps
      | with_reducible apply Keeps.foldl
      | with_reducible apply Keeps.foldl_fst
      | with_reducible apply Keeps.foldl_snd
      | extract_lets
      | split
      | (dsimp +zetaDelta only; split)
      | with_reducible apply Keeps.mkU

theorem State.cellFault_keeps {s₀ s : State} (h : Keeps s₀ s) (c : Nat) (bitNo : Nat) (cause : Nat) (item : Bool) (retest : Option Bool) :
    Keeps s₀ (State.cellFault s c bitNo cause item retest) := by
  unfold State.cellFault
  repeat'
    first
      | with_reducible assumption
      | intro _
      | with_reducible apply Keeps.ite
      | with_reducible apply State.cellError_keeps
      | with_reducible apply State.modCell_keeps
      | with_reducible apply State.faultClamp_keeps
      | with_reducible apply State.retest_keeps
      | with_reducible apply State.stopBatch_keeps
      | with_reducible apply State.settleStop_keeps
      | extract_lets
      | split
      | (dsimp +zetaDelta only; split)
      | with_reducible apply Keeps.mkU
      | with_reducible apply Keeps.mkFirm
      | with_reducible exact rfl
      | with_reducible exact List.prefix_refl _
      | (dsimp +zetaDelta only; with_reducible exact rfl)
      | (dsimp +zetaDelta only; with_reducible exact List.prefix_refl _)
      | exact rfl
      | exact List.prefix_refl _
      | exact List.prefix_append _ _

theorem State.clearErrors_keeps {s₀ s : State} (h : Keeps s₀ s) (t : Nat) :
    Keeps s₀ (State.clearErrors s t) := by
  unfold State.clearErrors
  repeat'
    first
      | with_reducible assumption
      | intro _
      | with_reducible apply Keeps.ite
      | with_reducible apply State.ashCapture_keeps
      | extract_lets
      | split
      | (dsimp +zetaDelta only; split)
      | with_reducible apply Keeps.mkU

theorem State.endBatchesOn_keeps {s₀ s : State} (h : Keeps s₀ s) (rs : List Nat) (status : Nat) (result : DWord) :
    Keeps s₀ (State.endBatchesOn s rs status result) := by
  unfold State.endBatchesOn
  repeat'
    first
      | with_reducible assumption
      | intro _
      | with_reducible apply Keeps.ite
      | with_reducible apply State.finishBatch_keeps
      | with_reducible apply Keeps.foldl
      | with_reducible apply Keeps.foldl_fst
      | with_reducible apply Keeps.foldl_snd
      | extract_lets
      | split
      | (dsimp +zetaDelta only; split)
      | with_reducible apply Keeps.mkU

end Sys2Proof.Machine
end

