-- ==== Sys2Proof/Laws/KeepsSiteOps.lean ====
section
/-!
SUPPORT. What every operation of Machine/SiteOps.lean keeps (Laws/Keeps.lean).
-/
namespace Sys2Proof.Machine

set_option Elab.async false
set_option linter.all false

theorem State.siteDegraded_keeps {s₀ s : State} (h : Keeps s₀ s) (m : Nat) (phys : Nat) :
    Keeps s₀ (State.siteDegraded s m phys) := by
  unfold State.siteDegraded
  repeat'
    first
      | with_reducible assumption
      | intro _
      | with_reducible apply Keeps.ite
      | with_reducible apply State.modSite_keeps
      | with_reducible apply State.faultNotice_keeps
      | with_reducible apply State.noticeTurf_keeps
      | with_reducible apply State.notice0_keeps
      | with_reducible apply Keeps.foldl
      | with_reducible apply Keeps.foldl_fst
      | with_reducible apply Keeps.foldl_snd
      | extract_lets
      | split
      | (dsimp +zetaDelta only; split)
      | with_reducible apply Keeps.mkU

theorem State.migrate_keeps {s₀ s : State} (h : Keeps s₀ s) (m : Nat) (pc : Nat) :
    Keeps s₀ (State.migrate s m pc) := by
  unfold State.migrate
  repeat'
    first
      | with_reducible assumption
      | intro _
      | with_reducible apply Keeps.ite
      | with_reducible apply State.modSite_keeps
      | with_reducible apply State.siteDegraded_keeps
      | with_reducible apply State.takeSpare_keeps
      | extract_lets
      | split
      | (dsimp +zetaDelta only; split)
      | with_reducible apply Keeps.mkU

theorem State.siteCorrected_keeps {s₀ s : State} (h : Keeps s₀ s) (m : Nat) (off : Nat) :
    Keeps s₀ (State.siteCorrected s m off) := by
  unfold State.siteCorrected
  repeat'
    first
      | with_reducible assumption
      | intro _
      | with_reducible apply Keeps.ite
      | with_reducible apply State.modSite_keeps
      | with_reducible apply State.bump_keeps
      | with_reducible apply State.migrate_keeps
      | extract_lets
      | split
      | (dsimp +zetaDelta only; split)
      | with_reducible apply Keeps.mkU

theorem State.siteUncorrectable_keeps {s₀ s : State} (h : Keeps s₀ s) (m : Nat) (off : Nat) :
    Keeps s₀ (State.siteUncorrectable s m off) := by
  unfold State.siteUncorrectable
  repeat'
    first
      | with_reducible assumption
      | intro _
      | with_reducible apply Keeps.ite
      | with_reducible apply State.modSite_keeps
      | with_reducible apply State.bump_keeps
      | extract_lets
      | split
      | (dsimp +zetaDelta only; split)
      | with_reducible apply Keeps.mkU

theorem State.eccGranule_keeps {s₀ s : State} (h : Keeps s₀ s) (m : Nat) (halves : List Nat) :
    Keeps s₀ (State.eccGranule s m halves) := by
  unfold State.eccGranule
  repeat'
    first
      | with_reducible assumption
      | intro _
      | with_reducible apply Keeps.ite
      | with_reducible apply State.siteCorrected_keeps
      | with_reducible apply State.siteUncorrectable_keeps
      | with_reducible apply Keeps.foldl
      | with_reducible apply Keeps.foldl_fst
      | with_reducible apply Keeps.foldl_snd
      | extract_lets
      | split
      | (dsimp +zetaDelta only; split)
      | with_reducible apply Keeps.mkU

theorem State.eccRead_keeps {s₀ s : State} (h : Keeps s₀ s) (m : Nat) (off : Nat) (n : Nat) :
    Keeps s₀ (State.eccRead s m off n) := by
  unfold State.eccRead
  repeat'
    first
      | with_reducible assumption
      | intro _
      | with_reducible apply Keeps.ite
      | with_reducible apply State.eccGranule_keeps
      | with_reducible apply Keeps.foldl
      | with_reducible apply Keeps.foldl_fst
      | with_reducible apply Keeps.foldl_snd
      | extract_lets
      | split
      | (dsimp +zetaDelta only; split)
      | with_reducible apply Keeps.mkU

theorem State.meetSite_keeps {s₀ s : State} (h : Keeps s₀ s) (m : Nat) (off : Nat) (n : Nat) :
    Keeps s₀ (State.meetSite s m off n) := by
  unfold State.meetSite
  repeat'
    first
      | with_reducible assumption
      | intro _
      | with_reducible apply Keeps.ite
      | with_reducible apply State.touch_keeps
      | with_reducible apply State.eccRead_keeps
      | extract_lets
      | split
      | (dsimp +zetaDelta only; split)
      | with_reducible apply Keeps.mkU

theorem State.replaceRow_keeps {s₀ s : State} (h : Keeps s₀ s) (m : Nat) (pc : Nat) (bank : Nat) (row : Nat) :
    Keeps s₀ (State.replaceRow s m pc bank row) := by
  unfold State.replaceRow
  repeat'
    first
      | with_reducible assumption
      | intro _
      | with_reducible apply Keeps.ite
      | with_reducible apply State.modSite_keeps
      | with_reducible apply State.takeSpare_keeps
      | with_reducible apply State.migrate_keeps
      | extract_lets
      | split
      | (dsimp +zetaDelta only; split)
      | with_reducible apply Keeps.mkU

end Sys2Proof.Machine
end

