-- ==== Sys2Proof/Laws/KeepsMemOps.lean ====
section
/-!
SUPPORT. What every operation of Machine/MemOps.lean keeps (Laws/Keeps.lean).
-/
namespace Sys2Proof.Machine

set_option Elab.async false
set_option linter.all false

theorem State.writePiece_keeps {s₀ s : State} (h : Keeps s₀ s) (addr : Nat) (bs : Bytes) (poison : Bool) :
    Keeps s₀ (State.writePiece s addr bs poison).1 := by
  unfold State.writePiece
  repeat'
    first
      | with_reducible assumption
      | intro _
      | with_reducible apply Keeps.ite
      | with_reducible apply State.pokePoison_keeps
      | with_reducible apply State.poke_keeps
      | with_reducible apply State.storeSite_keeps
      | extract_lets
      | split
      | (dsimp +zetaDelta only; split)
      | with_reducible apply Keeps.mkU

theorem State.meetRange_keeps {s₀ s : State} (h : Keeps s₀ s) (addr : Nat) (len : Nat) :
    Keeps s₀ (State.meetRange s addr len) := by
  unfold State.meetRange
  repeat'
    first
      | with_reducible assumption
      | intro _
      | with_reducible apply Keeps.ite
      | with_reducible apply State.meetSite_keeps
      | with_reducible apply Keeps.foldl
      | with_reducible apply Keeps.foldl_fst
      | with_reducible apply Keeps.foldl_snd
      | extract_lets
      | split
      | (dsimp +zetaDelta only; split)
      | with_reducible apply Keeps.mkU

theorem State.writeRange_keeps {s₀ s : State} (h : Keeps s₀ s) (unit : Nat) (turf : Nat) (addr : Nat) (bs : Bytes) (poison : Bool) (purpose : Nat) (extra : Nat) :
    Keeps s₀ (State.writeRange s unit turf addr bs poison purpose extra).1 := by
  unfold State.writeRange
  repeat'
    first
      | with_reducible assumption
      | intro _
      | with_reducible apply Keeps.ite
      | with_reducible apply State.issueOp_keeps
      | with_reducible apply State.writePiece_keeps
      | with_reducible apply Keeps.foldl
      | with_reducible apply Keeps.foldl_fst
      | with_reducible apply Keeps.foldl_snd
      | extract_lets
      | split
      | (dsimp +zetaDelta only; split)
      | with_reducible apply Keeps.mkU

theorem State.writeOut_keeps {s₀ s : State} (h : Keeps s₀ s) (a : Accepted) (host : Bool) (addr : Nat) (bs : Bytes) :
    Keeps s₀ (State.writeOut s a host addr bs).1 := by
  unfold State.writeOut
  repeat'
    first
      | with_reducible assumption
      | exact fun w => memWrite_wf w
      | exact fun w => memFilter_wf w
      | intro _
      | with_reducible apply Keeps.ite
      | with_reducible apply State.writeRange_keeps
      | extract_lets
      | split
      | (dsimp +zetaDelta only; split)
      | with_reducible apply Keeps.mkU
      | with_reducible apply Keeps.mkHost

theorem State.meetIn_keeps {s₀ s : State} (h : Keeps s₀ s) (host : Bool) (addr : Nat) (len : Nat) :
    Keeps s₀ (State.meetIn s host addr len) := by
  unfold State.meetIn
  repeat'
    first
      | with_reducible assumption
      | intro _
      | with_reducible apply Keeps.ite
      | with_reducible apply State.meetRange_keeps
      | extract_lets
      | split
      | (dsimp +zetaDelta only; split)
      | with_reducible apply Keeps.mkU

theorem State.beginCmd_keeps {s₀ s : State} (h : Keeps s₀ s) (a : Accepted) :
    Keeps s₀ (State.beginCmd s a) := by
  unfold State.beginCmd
  repeat'
    first
      | with_reducible assumption
      | intro _
      | with_reducible apply Keeps.ite
      | with_reducible apply State.modAccepted_keeps
      | extract_lets
      | split
      | (dsimp +zetaDelta only; split)
      | with_reducible apply Keeps.mkU

theorem State.withCmd_keeps {s₀ s : State} (h : Keeps s₀ s) (q : Nat) (slot : Nat) (opcode : Nat) (sel : BitVec 512 → Bool) (f : State → Accepted → State) (hf : ∀ v0 v1, Keeps s₀ v0 → Keeps s₀ (f v0 v1)) :
    Keeps s₀ (State.withCmd s q slot opcode sel f) := by
  unfold State.withCmd
  repeat'
    first
      | with_reducible assumption
      | intro _
      | with_reducible apply hf
      | with_reducible apply Keeps.ite
      | with_reducible apply State.beginCmd_keeps
      | extract_lets
      | split
      | (dsimp +zetaDelta only; split)
      | with_reducible apply Keeps.mkU

theorem State.fail_keeps {s₀ s : State} (h : Keeps s₀ s) (a : Accepted) (status : Nat) :
    Keeps s₀ (State.fail s a status) := by
  unfold State.fail
  repeat'
    first
      | with_reducible assumption
      | intro _
      | with_reducible apply Keeps.ite
      | with_reducible apply State.complete_keeps
      | extract_lets
      | split
      | (dsimp +zetaDelta only; split)
      | with_reducible apply Keeps.mkU

theorem State.finishOut_keeps {s₀ : State} {r : State × Bool} (h : Keeps s₀ r.1) (a : Accepted) (result : Nat) :
    Keeps s₀ (State.finishOut a result r) := by
  unfold State.finishOut
  repeat'
    first
      | with_reducible assumption
      | intro _
      | with_reducible apply Keeps.ite
      | with_reducible apply State.complete_keeps
      | with_reducible apply State.modAccepted_keeps
      | extract_lets
      | split
      | (dsimp +zetaDelta only; split)
      | with_reducible apply Keeps.mkU

theorem State.cmdStored_keeps {s₀ s : State} (h : Keeps s₀ s) (key : Nat) (refused : Bool) :
    Keeps s₀ (State.cmdStored s key refused) := by
  unfold State.cmdStored
  repeat'
    first
      | with_reducible assumption
      | intro _
      | with_reducible apply Keeps.ite
      | with_reducible apply State.modAccepted_keeps
      | with_reducible apply State.complete_keeps
      | extract_lets
      | split
      | (dsimp +zetaDelta only; split)
      | with_reducible apply Keeps.mkU

theorem State.output_keeps {s₀ s : State} (h : Keeps s₀ s) (a : Accepted) (host : Bool) (addr : Nat) (bs : Bytes) (result : Nat) :
    Keeps s₀ (State.output s a host addr bs result) := by
  unfold State.output
  repeat'
    first
      | with_reducible assumption
      | intro _
      | with_reducible apply Keeps.ite
      | with_reducible apply State.complete_keeps
      | with_reducible apply State.finishOut_keeps
      | with_reducible apply State.writeOut_keeps
      | extract_lets
      | split
      | (dsimp +zetaDelta only; split)
      | with_reducible apply Keeps.mkU

theorem State.done_keeps {s₀ s : State} (h : Keeps s₀ s) (a : Accepted) (result : Nat) :
    Keeps s₀ (State.done s a result) := by
  unfold State.done
  repeat'
    first
      | with_reducible assumption
      | intro _
      | with_reducible apply Keeps.ite
      | with_reducible apply State.complete_keeps
      | extract_lets
      | split
      | (dsimp +zetaDelta only; split)
      | with_reducible apply Keeps.mkU

end Sys2Proof.Machine
end

