-- ==== Sys2Proof/Laws/KeepsQueues.lean ====
section
/-!
SUPPORT. What every operation of Machine/Queues.lean keeps (Laws/Keeps.lean).
-/
namespace Sys2Proof.Machine

set_option Elab.async false
set_option linter.all false

theorem State.takeEntry_keeps {s₀ s : State} (h : Keeps s₀ s) (q : Nat) (w : BitVec 512) :
    Keeps s₀ (State.takeEntry s q w) := by
  unfold State.takeEntry
  repeat'
    first
      | with_reducible assumption
      | intro _
      | with_reducible apply Keeps.ite
      | with_reducible apply State.modQueue_keeps
      | with_reducible apply State.renewQueue_keeps
      | extract_lets
      | split
      | (dsimp +zetaDelta only; split)
      | with_reducible apply Keeps.mkU

theorem State.acceptEntry_keeps {s₀ s : State} (h : Keeps s₀ s) (q : Nat) (w : BitVec 512) :
    Keeps s₀ (State.acceptEntry s q w) := by
  unfold State.acceptEntry
  repeat'
    first
      | with_reducible assumption
      | intro _
      | with_reducible apply Keeps.ite
      | with_reducible apply State.takeEntry_keeps
      | with_reducible apply State.complete_keeps
      | extract_lets
      | split
      | (dsimp +zetaDelta only; split)
      | with_reducible apply Keeps.mkU

theorem execCmdFetch_keeps {s₀ s : State} (h : Keeps s₀ s) (q : QueueIx) (data : Option Bytes) :
    KeepsO s₀ (execCmdFetch q data s) := by
  unfold execCmdFetch
  repeat'
    first
      | with_reducible assumption
      | intro _
      | with_reducible apply KeepsO.next
      | exact KeepsO.fault _
      | with_reducible apply KeepsOpt.some
      | exact KeepsOpt.none
      | with_reducible apply KeepsO.ite
      | with_reducible apply KeepsOpt.ite
      | with_reducible apply Keeps.ite
      | with_reducible apply State.meetIn_keeps
      | with_reducible apply State.queueError_keeps
      | with_reducible apply State.acceptEntry_keeps
      | extract_lets
      | split
      | (dsimp +zetaDelta only; split)
      | with_reducible apply Keeps.mkU

theorem execFabricQueueFetch_keeps {s₀ s : State} (h : Keeps s₀ s) (q : QueueIx) :
    KeepsO s₀ (execFabricQueueFetch q s) := by
  unfold execFabricQueueFetch
  repeat'
    first
      | with_reducible assumption
      | intro _
      | with_reducible apply KeepsO.next
      | exact KeepsO.fault _
      | with_reducible apply KeepsOpt.some
      | exact KeepsOpt.none
      | with_reducible apply KeepsO.ite
      | with_reducible apply KeepsOpt.ite
      | with_reducible apply Keeps.ite
      | with_reducible apply State.waitTake_keeps
      | with_reducible apply State.meetIn_keeps
      | with_reducible apply State.queueError_keeps
      | with_reducible apply State.acceptEntry_keeps
      | extract_lets
      | split
      | (dsimp +zetaDelta only; split)
      | with_reducible apply Keeps.mkU

theorem execFabricQueueRelease_keeps {s₀ s : State} (h : Keeps s₀ s) (q : QueueIx) (n : Word) :
    KeepsO s₀ (execFabricQueueRelease q n s) := by
  unfold execFabricQueueRelease
  repeat'
    first
      | with_reducible assumption
      | intro _
      | with_reducible apply KeepsO.next
      | exact KeepsO.fault _
      | with_reducible apply KeepsOpt.some
      | exact KeepsOpt.none
      | with_reducible apply KeepsO.ite
      | with_reducible apply KeepsOpt.ite
      | with_reducible apply Keeps.ite
      | with_reducible apply State.waitTake_keeps
      | with_reducible apply State.modQueue_keeps
      | extract_lets
      | split
      | (dsimp +zetaDelta only; split)
      | with_reducible apply Keeps.mkU

theorem State.doorbell_keeps {s₀ s : State} (h : Keeps s₀ s) (k : Nat) :
    Keeps s₀ (State.doorbell s k) := by
  unfold State.doorbell
  repeat'
    first
      | with_reducible assumption
      | intro _
      | with_reducible apply Keeps.ite
      | with_reducible apply State.renewQueue_keeps
      | with_reducible apply State.queueError_keeps
      | extract_lets
      | split
      | (dsimp +zetaDelta only; split)
      | with_reducible apply Keeps.mkU

theorem State.doorbellIgnored_keeps {s₀ s : State} (h : Keeps s₀ s) (q : Nat) :
    Keeps s₀ (State.doorbellIgnored s q) := by
  unfold State.doorbellIgnored
  repeat'
    first
      | with_reducible assumption
      | intro _
      | with_reducible apply Keeps.ite
      | with_reducible apply State.modQueue_keeps
      | extract_lets
      | split
      | (dsimp +zetaDelta only; split)
      | with_reducible apply Keeps.mkU

theorem execSqTailWrite_keeps {s₀ s : State} (h : Keeps s₀ s) (q : QueueIx) (p : PcieIx) (value : DWord) :
    KeepsO s₀ (execSqTailWrite q p value s) := by
  unfold execSqTailWrite
  repeat'
    first
      | with_reducible assumption
      | intro _
      | with_reducible apply KeepsO.next
      | exact KeepsO.fault _
      | with_reducible apply KeepsOpt.some
      | exact KeepsOpt.none
      | with_reducible apply KeepsO.ite
      | with_reducible apply KeepsOpt.ite
      | with_reducible apply Keeps.ite
      | with_reducible apply State.doorbellIgnored_keeps
      | with_reducible apply State.renewQueue_keeps
      | with_reducible apply State.queueError_keeps
      | with_reducible apply State.modQueue_keeps
      | extract_lets
      | split
      | (dsimp +zetaDelta only; split)
      | with_reducible apply Keeps.mkU

theorem execCqHeadWrite_keeps {s₀ s : State} (h : Keeps s₀ s) (q : QueueIx) (p : PcieIx) (value : DWord) :
    KeepsO s₀ (execCqHeadWrite q p value s) := by
  unfold execCqHeadWrite
  repeat'
    first
      | with_reducible assumption
      | intro _
      | with_reducible apply KeepsO.next
      | exact KeepsO.fault _
      | with_reducible apply KeepsOpt.some
      | exact KeepsOpt.none
      | with_reducible apply KeepsO.ite
      | with_reducible apply KeepsOpt.ite
      | with_reducible apply Keeps.ite
      | with_reducible apply State.doorbellIgnored_keeps
      | with_reducible apply State.renewQueue_keeps
      | with_reducible apply State.queueError_keeps
      | with_reducible apply State.modQueue_keeps
      | extract_lets
      | split
      | (dsimp +zetaDelta only; split)
      | with_reducible apply Keeps.mkU

theorem State.portReset_keeps {s₀ s : State} (h : Keeps s₀ s) (p : Nat) :
    Keeps s₀ (State.portReset s p) := by
  unfold State.portReset
  repeat'
    first
      | with_reducible assumption
      | intro _
      | with_reducible apply Keeps.ite
      | with_reducible apply State.modPcie_keeps
      | with_reducible apply State.revokeQueueCtrs_keeps
      | with_reducible apply State.startClose_keeps
      | with_reducible apply Keeps.foldl
      | with_reducible apply Keeps.foldl_fst
      | with_reducible apply Keeps.foldl_snd
      | extract_lets
      | split
      | (dsimp +zetaDelta only; split)
      | with_reducible apply Keeps.mkU

theorem execPerst_keeps {s₀ s : State} (h : Keeps s₀ s) (p : PcieIx) :
    KeepsO s₀ (execPerst p s) := by
  unfold execPerst
  repeat'
    first
      | with_reducible assumption
      | intro _
      | with_reducible apply KeepsO.next
      | exact KeepsO.fault _
      | with_reducible apply KeepsOpt.some
      | exact KeepsOpt.none
      | with_reducible apply KeepsO.ite
      | with_reducible apply KeepsOpt.ite
      | with_reducible apply Keeps.ite
      | with_reducible apply State.portReset_keeps
      | extract_lets
      | split
      | (dsimp +zetaDelta only; split)
      | with_reducible apply Keeps.mkU

theorem execPcieLinkUp_keeps {s₀ s : State} (h : Keeps s₀ s) (p : PcieIx) :
    KeepsO s₀ (execPcieLinkUp p s) := by
  unfold execPcieLinkUp
  repeat'
    first
      | with_reducible assumption
      | intro _
      | with_reducible apply KeepsO.next
      | exact KeepsO.fault _
      | with_reducible apply KeepsOpt.some
      | exact KeepsOpt.none
      | with_reducible apply KeepsO.ite
      | with_reducible apply KeepsOpt.ite
      | with_reducible apply Keeps.ite
      | with_reducible apply State.modPcie_keeps
      | extract_lets
      | split
      | (dsimp +zetaDelta only; split)
      | with_reducible apply Keeps.mkU

theorem State.apertureError_keeps {s₀ s : State} (h : Keeps s₀ s) (p : Nat) :
    Keeps s₀ (State.apertureError s p) := by
  unfold State.apertureError
  repeat'
    first
      | with_reducible assumption
      | intro _
      | with_reducible apply Keeps.ite
      | with_reducible apply State.modPcie_keeps
      | extract_lets
      | split
      | (dsimp +zetaDelta only; split)
      | with_reducible apply Keeps.mkU

theorem execApertureWrite_keeps {s₀ s : State} (h : Keeps s₀ s) (p : PcieIx) (offset : Fin 68719476736) (data : Bytes) :
    KeepsO s₀ (execApertureWrite p offset data s) := by
  unfold execApertureWrite
  repeat'
    first
      | with_reducible assumption
      | intro _
      | with_reducible apply KeepsO.next
      | exact KeepsO.fault _
      | with_reducible apply KeepsOpt.some
      | exact KeepsOpt.none
      | with_reducible apply KeepsO.ite
      | with_reducible apply KeepsOpt.ite
      | with_reducible apply Keeps.ite
      | with_reducible apply State.apertureError_keeps
      | with_reducible apply State.issueOp_keeps
      | with_reducible apply Keeps.foldl
      | with_reducible apply Keeps.foldl_fst
      | with_reducible apply Keeps.foldl_snd
      | extract_lets
      | split
      | (dsimp +zetaDelta only; split)
      | with_reducible apply Keeps.mkU

theorem State.answerReads_keeps {s₀ s : State} (h : Keeps s₀ s) (p : Nat) :
    Keeps s₀ (State.answerReads s p) := by
  unfold State.answerReads
  repeat'
    first
      | with_reducible assumption
      | intro _
      | with_reducible apply Keeps.ite
      | with_reducible apply State.modPcie_keeps
      | with_reducible apply State.emit_keeps
      | with_reducible apply Keeps.foldl
      | with_reducible apply Keeps.foldl_fst
      | with_reducible apply Keeps.foldl_snd
      | extract_lets
      | split
      | (dsimp +zetaDelta only; split)
      | with_reducible apply Keeps.mkU

theorem execApertureRead_keeps {s₀ s : State} (h : Keeps s₀ s) (p : PcieIx) (offset : Fin 68719476736) (len : Fin 4097) :
    KeepsO s₀ (execApertureRead p offset len s) := by
  unfold execApertureRead
  repeat'
    first
      | with_reducible assumption
      | intro _
      | with_reducible apply KeepsO.next
      | exact KeepsO.fault _
      | with_reducible apply KeepsOpt.some
      | exact KeepsOpt.none
      | with_reducible apply KeepsO.ite
      | with_reducible apply KeepsOpt.ite
      | with_reducible apply Keeps.ite
      | with_reducible apply State.apertureError_keeps
      | with_reducible apply State.emit_keeps
      | with_reducible apply State.issueOp_keeps
      | with_reducible apply State.modPcie_keeps
      | with_reducible apply State.answerReads_keeps
      | with_reducible apply Keeps.foldl
      | with_reducible apply Keeps.foldl_fst
      | with_reducible apply Keeps.foldl_snd
      | extract_lets
      | split
      | (dsimp +zetaDelta only; split)
      | with_reducible apply Keeps.mkU

theorem State.windowAnswer_keeps {s₀ s : State} (h : Keeps s₀ s) (p : Nat) (w : Nat) (tag : Word) (isLoad : Bool) (data : Bytes) (refused : Bool) (poisoned : Bool) :
    Keeps s₀ (State.windowAnswer s p w tag isLoad data refused poisoned) := by
  unfold State.windowAnswer
  repeat'
    first
      | with_reducible assumption
      | intro _
      | with_reducible apply Keeps.ite
      | with_reducible apply State.modPcie_keeps
      | with_reducible apply State.answerReads_keeps
      | extract_lets
      | split
      | (dsimp +zetaDelta only; split)
      | with_reducible apply Keeps.mkU

theorem State.msixWrite_keeps {s₀ s : State} (h : Keeps s₀ s) (p : Nat) (offset : Nat) (value : DWord) :
    Keeps s₀ (State.msixWrite s p offset value) := by
  unfold State.msixWrite
  repeat'
    first
      | with_reducible assumption
      | intro _
      | with_reducible apply Keeps.ite
      | with_reducible apply State.msix_keeps
      | with_reducible apply State.modPcie_keeps
      | with_reducible apply State.emit_keeps
      | extract_lets
      | split
      | (dsimp +zetaDelta only; split)
      | with_reducible apply Keeps.mkU

theorem State.cellCtlWrite_keeps {s₀ s : State} (h : Keeps s₀ s) (c : Nat) (offset : Nat) (value : DWord) :
    Keeps s₀ (State.cellCtlWrite s c offset value) := by
  unfold State.cellCtlWrite
  repeat'
    first
      | with_reducible assumption
      | intro _
      | with_reducible apply Keeps.ite
      | with_reducible apply State.modCell_keeps
      | extract_lets
      | split
      | (dsimp +zetaDelta only; split)
      | with_reducible apply Keeps.mkU

theorem execRegisterWrite_keeps {s₀ s : State} (h : Keeps s₀ s) (r : RegRef) (value : DWord) :
    KeepsO s₀ (execRegisterWrite r value s) := by
  unfold execRegisterWrite
  repeat'
    first
      | with_reducible assumption
      | intro _
      | with_reducible apply KeepsO.next
      | exact KeepsO.fault _
      | with_reducible apply KeepsOpt.some
      | exact KeepsOpt.none
      | with_reducible apply KeepsO.ite
      | with_reducible apply KeepsOpt.ite
      | with_reducible apply Keeps.ite
      | with_reducible apply State.msixWrite_keeps
      | with_reducible apply State.cellCtlWrite_keeps
      | extract_lets
      | split
      | (dsimp +zetaDelta only; split)
      | with_reducible apply Keeps.mkU
      | with_reducible apply Keeps.mkFirm
      | with_reducible exact rfl
      | with_reducible exact List.prefix_refl _
      | (dsimp +zetaDelta only; with_reducible exact rfl)
      | (dsimp +zetaDelta only; with_reducible exact List.prefix_refl _)
      | exact rfl
      | exact List.prefix_refl _
      | exact List.prefix_append _ _

end Sys2Proof.Machine
end

