-- ==== Sys2Proof/Laws/KeepsHostQueue.lean ====
section
/-!
SUPPORT. What every operation of Machine/HostQueue.lean keeps (Laws/Keeps.lean).
-/
namespace Sys2Proof.Machine

set_option Elab.async false
set_option linter.all false

theorem execNop_keeps {s₀ s : State} (h : Keeps s₀ s) (q : QueueIx) (slot : SlotIx) :
    KeepsO s₀ (execNop q slot s) := by
  unfold execNop
  repeat'
    first
      | with_reducible assumption
      | intro _
      | with_reducible apply KeepsO.next
      | exact KeepsO.fault _
      | with_reducible apply KeepsOpt.some
      | exact KeepsOpt.none
      | with_reducible apply KeepsO.ite
      | with_reducible apply KeepsOpt.ite
      | with_reducible apply Keeps.ite
      | with_reducible apply State.withCmd_keeps
      | with_reducible apply State.done_keeps
      | extract_lets
      | split
      | (dsimp +zetaDelta only; split)
      | with_reducible apply Keeps.mkU

theorem State.leaseDoorbell_keeps {s₀ s : State} (h : Keeps s₀ s) (q : Nat) (t : Nat) (d : Nat) (termUs : Nat) :
    Keeps s₀ (State.leaseDoorbell s q t d termUs) := by
  unfold State.leaseDoorbell
  repeat'
    first
      | with_reducible assumption
      | exact fun _ hc => hc
      | exact fun _ hc => Nat.lt_of_le_of_lt (Nat.sub_le _ _) hc
      | exact fun _ _ => (by decide : (0 : Nat) < 2 ^ 31)
      | exact fun _ _ => by decide
      | (intro _ _; dsimp only; omega)
      | (intro _ _; dsimp +zetaDelta only; omega)
      | intro _
      | with_reducible apply Keeps.ite
      | with_reducible apply State.modCtr_keeps
      | with_reducible apply Keeps.foldl
      | with_reducible apply Keeps.foldl_fst
      | with_reducible apply Keeps.foldl_snd
      | extract_lets
      | split
      | (dsimp +zetaDelta only; split)
      | with_reducible apply Keeps.mkU

theorem State.openQueue_keeps {s₀ s : State} (h : Keeps s₀ s) (a : Accepted) (q : Nat) (t : Nat) (d : Nat) :
    Keeps s₀ (State.openQueue s a q t d) := by
  unfold State.openQueue
  repeat'
    first
      | with_reducible assumption
      | intro _
      | with_reducible apply Keeps.ite
      | with_reducible apply State.modQueue_keeps
      | with_reducible apply State.leaseDoorbell_keeps
      | with_reducible apply State.bindEntry_keeps
      | with_reducible apply State.done_keeps
      | extract_lets
      | split
      | (dsimp +zetaDelta only; split)
      | with_reducible apply Keeps.mkU

theorem execOpenQueue_keeps {s₀ s : State} (h : Keeps s₀ s) (q : QueueIx) (slot : SlotIx) :
    KeepsO s₀ (execOpenQueue q slot s) := by
  unfold execOpenQueue
  repeat'
    first
      | with_reducible assumption
      | intro _
      | with_reducible apply KeepsO.next
      | exact KeepsO.fault _
      | with_reducible apply KeepsOpt.some
      | exact KeepsOpt.none
      | with_reducible apply KeepsO.ite
      | with_reducible apply KeepsOpt.ite
      | with_reducible apply Keeps.ite
      | with_reducible apply State.withCmd_keeps
      | with_reducible apply State.fail_keeps
      | with_reducible apply State.openQueue_keeps
      | extract_lets
      | split
      | (dsimp +zetaDelta only; split)
      | with_reducible apply Keeps.mkU

theorem execCloseQueue_keeps {s₀ s : State} (h : Keeps s₀ s) (q : QueueIx) (slot : SlotIx) :
    KeepsO s₀ (execCloseQueue q slot s) := by
  unfold execCloseQueue
  repeat'
    first
      | with_reducible assumption
      | intro _
      | with_reducible apply KeepsO.next
      | exact KeepsO.fault _
      | with_reducible apply KeepsOpt.some
      | exact KeepsOpt.none
      | with_reducible apply KeepsO.ite
      | with_reducible apply KeepsOpt.ite
      | with_reducible apply Keeps.ite
      | with_reducible apply State.withCmd_keeps
      | with_reducible apply State.fail_keeps
      | with_reducible apply State.done_keeps
      | with_reducible apply State.modAccepted_keeps
      | with_reducible apply State.startClose_keeps
      | extract_lets
      | split
      | (dsimp +zetaDelta only; split)
      | with_reducible apply Keeps.mkU

theorem execBindTurf_keeps {s₀ s : State} (h : Keeps s₀ s) (q : QueueIx) (slot : SlotIx) :
    KeepsO s₀ (execBindTurf q slot s) := by
  unfold execBindTurf
  repeat'
    first
      | with_reducible assumption
      | intro _
      | with_reducible apply KeepsO.next
      | exact KeepsO.fault _
      | with_reducible apply KeepsOpt.some
      | exact KeepsOpt.none
      | with_reducible apply KeepsO.ite
      | with_reducible apply KeepsOpt.ite
      | with_reducible apply Keeps.ite
      | with_reducible apply State.withCmd_keeps
      | with_reducible apply State.fail_keeps
      | with_reducible apply State.revokeQueueCtrs_keeps
      | with_reducible apply State.modQueue_keeps
      | with_reducible apply State.bindEntry_keeps
      | with_reducible apply State.done_keeps
      | extract_lets
      | split
      | (dsimp +zetaDelta only; split)
      | with_reducible apply Keeps.mkU

theorem execQueryIdentity_keeps {s₀ s : State} (h : Keeps s₀ s) (q : QueueIx) (slot : SlotIx) :
    KeepsO s₀ (execQueryIdentity q slot s) := by
  unfold execQueryIdentity
  repeat'
    first
      | with_reducible assumption
      | intro _
      | with_reducible apply KeepsO.next
      | exact KeepsO.fault _
      | with_reducible apply KeepsOpt.some
      | exact KeepsOpt.none
      | with_reducible apply KeepsO.ite
      | with_reducible apply KeepsOpt.ite
      | with_reducible apply Keeps.ite
      | with_reducible apply State.withCmd_keeps
      | with_reducible apply State.output_keeps
      | extract_lets
      | split
      | (dsimp +zetaDelta only; split)
      | with_reducible apply Keeps.mkU

theorem execQueryQueue_keeps {s₀ s : State} (h : Keeps s₀ s) (q : QueueIx) (slot : SlotIx) :
    KeepsO s₀ (execQueryQueue q slot s) := by
  unfold execQueryQueue
  repeat'
    first
      | with_reducible assumption
      | intro _
      | with_reducible apply KeepsO.next
      | exact KeepsO.fault _
      | with_reducible apply KeepsOpt.some
      | exact KeepsOpt.none
      | with_reducible apply KeepsO.ite
      | with_reducible apply KeepsOpt.ite
      | with_reducible apply Keeps.ite
      | with_reducible apply State.withCmd_keeps
      | with_reducible apply State.fail_keeps
      | with_reducible apply State.done_keeps
      | extract_lets
      | split
      | (dsimp +zetaDelta only; split)
      | with_reducible apply Keeps.mkU

theorem execQueryNotices_keeps {s₀ s : State} (h : Keeps s₀ s) (q : QueueIx) (slot : SlotIx) :
    KeepsO s₀ (execQueryNotices q slot s) := by
  unfold execQueryNotices
  repeat'
    first
      | with_reducible assumption
      | intro _
      | with_reducible apply KeepsO.next
      | exact KeepsO.fault _
      | with_reducible apply KeepsOpt.some
      | exact KeepsOpt.none
      | with_reducible apply KeepsO.ite
      | with_reducible apply KeepsOpt.ite
      | with_reducible apply Keeps.ite
      | with_reducible apply State.withCmd_keeps
      | with_reducible apply State.fail_keeps
      | with_reducible apply State.modQueue_keeps
      | with_reducible apply State.finishOut_keeps
      | with_reducible apply State.writeOut_keeps
      | extract_lets
      | split
      | (dsimp +zetaDelta only; split)
      | with_reducible apply Keeps.mkU

theorem execAlloc_keeps {s₀ s : State} (h : Keeps s₀ s) (q : QueueIx) (slot : SlotIx) :
    KeepsO s₀ (execAlloc q slot s) := by
  unfold execAlloc
  repeat'
    first
      | with_reducible assumption
      | intro _
      | with_reducible apply KeepsO.next
      | exact KeepsO.fault _
      | with_reducible apply KeepsOpt.some
      | exact KeepsOpt.none
      | with_reducible apply KeepsO.ite
      | with_reducible apply KeepsOpt.ite
      | with_reducible apply Keeps.ite
      | with_reducible apply State.withCmd_keeps
      | with_reducible apply State.fail_keeps
      | with_reducible apply State.done_keeps
      | with_reducible apply State.touch_keeps
      | with_reducible apply State.pokeZero_keeps
      | with_reducible apply State.finishOut_keeps
      | with_reducible apply State.writeOut_keeps
      | extract_lets
      | split
      | (dsimp +zetaDelta only; split)
      | with_reducible apply Keeps.mkU

theorem execFree_keeps {s₀ s : State} (h : Keeps s₀ s) (q : QueueIx) (slot : SlotIx) :
    KeepsO s₀ (execFree q slot s) := by
  unfold execFree
  repeat'
    first
      | with_reducible assumption
      | intro _
      | with_reducible apply KeepsO.next
      | exact KeepsO.fault _
      | with_reducible apply KeepsOpt.some
      | exact KeepsOpt.none
      | with_reducible apply KeepsO.ite
      | with_reducible apply KeepsOpt.ite
      | with_reducible apply Keeps.ite
      | with_reducible apply State.withCmd_keeps
      | with_reducible apply State.fail_keeps
      | with_reducible apply State.done_keeps
      | extract_lets
      | split
      | (dsimp +zetaDelta only; split)
      | with_reducible apply Keeps.mkU

theorem State.pushDesc_keeps {s₀ s : State} (h : Keeps s₀ s) (ce : Nat) (d : CeDesc) :
    Keeps s₀ (State.pushDesc s ce d) := by
  unfold State.pushDesc
  repeat'
    first
      | with_reducible assumption
      | intro _
      | with_reducible apply Keeps.ite
      | with_reducible apply State.modCe_keeps
      | extract_lets
      | split
      | (dsimp +zetaDelta only; split)
      | with_reducible apply Keeps.mkU

theorem State.dispatchDesc_keeps {s₀ s0 s : State} (h : Keeps s₀ s0) (h1 : Keeps s₀ s) (a : Accepted) (raw : BitVec 512) (srcHost dstHost : Bool) :
    Keeps s₀ (State.dispatchDesc s0 s a raw srcHost dstHost) := by
  unfold State.dispatchDesc
  repeat'
    first
      | with_reducible assumption
      | intro _
      | with_reducible apply Keeps.ite
      | with_reducible apply State.fail_keeps
      | with_reducible apply State.pushDesc_keeps
      | extract_lets
      | split
      | (dsimp +zetaDelta only; split)
      | with_reducible apply Keeps.mkU

theorem execCopy_keeps {s₀ s : State} (h : Keeps s₀ s) (q : QueueIx) (slot : SlotIx) :
    KeepsO s₀ (execCopy q slot s) := by
  unfold execCopy
  repeat'
    first
      | with_reducible assumption
      | intro _
      | with_reducible apply KeepsO.next
      | exact KeepsO.fault _
      | with_reducible apply KeepsOpt.some
      | exact KeepsOpt.none
      | with_reducible apply KeepsO.ite
      | with_reducible apply KeepsOpt.ite
      | with_reducible apply Keeps.ite
      | with_reducible apply State.withCmd_keeps
      | with_reducible apply State.fail_keeps
      | with_reducible apply State.dispatchDesc_keeps
      | extract_lets
      | split
      | (dsimp +zetaDelta only; split)
      | with_reducible apply Keeps.mkU

theorem execFill_keeps {s₀ s : State} (h : Keeps s₀ s) (q : QueueIx) (slot : SlotIx) :
    KeepsO s₀ (execFill q slot s) := by
  unfold execFill
  repeat'
    first
      | with_reducible assumption
      | intro _
      | with_reducible apply KeepsO.next
      | exact KeepsO.fault _
      | with_reducible apply KeepsOpt.some
      | exact KeepsOpt.none
      | with_reducible apply KeepsO.ite
      | with_reducible apply KeepsOpt.ite
      | with_reducible apply Keeps.ite
      | with_reducible apply State.withCmd_keeps
      | with_reducible apply State.fail_keeps
      | with_reducible apply State.dispatchDesc_keeps
      | extract_lets
      | split
      | (dsimp +zetaDelta only; split)
      | with_reducible apply Keeps.mkU

theorem execMapAperture_keeps {s₀ s : State} (h : Keeps s₀ s) (q : QueueIx) (slot : SlotIx) :
    KeepsO s₀ (execMapAperture q slot s) := by
  unfold execMapAperture
  repeat'
    first
      | with_reducible assumption
      | intro _
      | with_reducible apply KeepsO.next
      | exact KeepsO.fault _
      | with_reducible apply KeepsOpt.some
      | exact KeepsOpt.none
      | with_reducible apply KeepsO.ite
      | with_reducible apply KeepsOpt.ite
      | with_reducible apply Keeps.ite
      | with_reducible apply State.withCmd_keeps
      | with_reducible apply State.fail_keeps
      | with_reducible apply State.modPcie_keeps
      | with_reducible apply State.done_keeps
      | extract_lets
      | split
      | (dsimp +zetaDelta only; split)
      | with_reducible apply Keeps.mkU

end Sys2Proof.Machine
end

