-- ==== Sys2Proof/Laws/KeepsPower.lean ====
section
/-!
SUPPORT. What every operation of Machine/Power.lean keeps (Laws/Keeps.lean).
-/
namespace Sys2Proof.Machine

set_option Elab.async false
set_option linter.all false

theorem State.considerSwitch_keeps {s₀ s : State} (h : Keeps s₀ s) (notBefore : Nat) :
    Keeps s₀ (State.considerSwitch s notBefore) := by
  unfold State.considerSwitch
  repeat'
    first
      | with_reducible assumption
      | intro _
      | with_reducible apply Keeps.ite
      | extract_lets
      | split
      | (dsimp +zetaDelta only; split)
      | with_reducible apply Keeps.mkU

theorem execPstateSet_keeps {s₀ s : State} (h : Keeps s₀ s) (q : QueueIx) (slot : SlotIx) :
    KeepsO s₀ (execPstateSet q slot s) := by
  unfold execPstateSet
  repeat'
    first
      | with_reducible assumption
      | intro _
      | with_reducible apply KeepsO.next
      | exact KeepsO.fault _
      | with_reducible apply KeepsOpt.some
      | exact KeepsOpt.none
      | with_reducible apply KeepsO.ite
      | with_reducible apply KeepsOpt.ite
      | with_reducible apply Keeps.ite
      | with_reducible apply State.withCmd_keeps
      | with_reducible apply State.fail_keeps
      | with_reducible apply State.considerSwitch_keeps
      | with_reducible apply State.done_keeps
      | with_reducible apply State.modAccepted_keeps
      | extract_lets
      | split
      | (dsimp +zetaDelta only; split)
      | with_reducible apply Keeps.mkU

theorem State.switchTo_keeps {s₀ s : State} (h : Keeps s₀ s) (p : Nat) :
    Keeps s₀ (State.switchTo s p) := by
  unfold State.switchTo
  repeat'
    first
      | with_reducible assumption
      | intro _
      | with_reducible apply Keeps.ite
      | extract_lets
      | split
      | (dsimp +zetaDelta only; split)
      | with_reducible apply Keeps.mkU

theorem State.settlePstates_keeps {s₀ s : State} (h : Keeps s₀ s) :
    Keeps s₀ (State.settlePstates s) := by
  unfold State.settlePstates
  repeat'
    first
      | with_reducible assumption
      | intro _
      | with_reducible apply Keeps.ite
      | with_reducible apply State.done_keeps
      | with_reducible apply State.considerSwitch_keeps
      | with_reducible apply Keeps.foldl
      | with_reducible apply Keeps.foldl_fst
      | with_reducible apply Keeps.foldl_snd
      | extract_lets
      | split
      | (dsimp +zetaDelta only; split)
      | with_reducible apply Keeps.mkU

theorem execPstateSwitch_keeps {s₀ s : State} (h : Keeps s₀ s) (now : Nat) :
    KeepsO s₀ (execPstateSwitch now s) := by
  unfold execPstateSwitch
  repeat'
    first
      | with_reducible assumption
      | intro _
      | with_reducible apply KeepsO.next
      | exact KeepsO.fault _
      | with_reducible apply KeepsOpt.some
      | exact KeepsOpt.none
      | with_reducible apply KeepsO.ite
      | with_reducible apply KeepsOpt.ite
      | with_reducible apply Keeps.ite
      | with_reducible apply State.at__keeps
      | with_reducible apply State.switchTo_keeps
      | with_reducible apply State.settlePstates_keeps
      | extract_lets
      | split
      | (dsimp +zetaDelta only; split)
      | with_reducible apply Keeps.mkU

theorem State.ceilingNotice_keeps {s₀ s : State} (h : Keeps s₀ s) (causeBit : Nat) (region : Nat) :
    Keeps s₀ (State.ceilingNotice s causeBit region) := by
  unfold State.ceilingNotice
  repeat'
    first
      | with_reducible assumption
      | intro _
      | with_reducible apply Keeps.ite
      | with_reducible apply State.notice0_keeps
      | extract_lets
      | split
      | (dsimp +zetaDelta only; split)
      | with_reducible apply Keeps.mkU

theorem State.raisePower_keeps {s₀ s : State} (h : Keeps s₀ s) (n : Nat) :
    Keeps s₀ (State.raisePower s n) := by
  unfold State.raisePower
  repeat'
    first
      | with_reducible assumption
      | intro _
      | with_reducible apply Keeps.ite
      | with_reducible apply State.ceilingNotice_keeps
      | with_reducible apply State.considerSwitch_keeps
      | extract_lets
      | split
      | (dsimp +zetaDelta only; split)
      | with_reducible apply Keeps.mkU

theorem State.lowerPower_keeps {s₀ s : State} (h : Keeps s₀ s) :
    Keeps s₀ (State.lowerPower s) := by
  unfold State.lowerPower
  repeat'
    first
      | with_reducible assumption
      | intro _
      | with_reducible apply Keeps.ite
      | with_reducible apply State.ceilingNotice_keeps
      | with_reducible apply State.considerSwitch_keeps
      | extract_lets
      | split
      | (dsimp +zetaDelta only; split)
      | with_reducible apply Keeps.mkU

theorem State.takePower_keeps {s₀ s : State} (h : Keeps s₀ s) (p1ms : Nat) (p100ms : Nat) :
    Keeps s₀ (State.takePower s p1ms p100ms) := by
  unfold State.takePower
  repeat'
    first
      | with_reducible assumption
      | intro _
      | with_reducible apply Keeps.ite
      | extract_lets
      | split
      | (dsimp +zetaDelta only; split)
      | with_reducible apply Keeps.mkU

theorem execPowerCeilingCheck_keeps {s₀ s : State} (h : Keeps s₀ s) (p1ms : Nat) (p100ms : Nat) (now : Nat) :
    KeepsO s₀ (execPowerCeilingCheck p1ms p100ms now s) := by
  unfold execPowerCeilingCheck
  repeat'
    first
      | with_reducible assumption
      | intro _
      | with_reducible apply KeepsO.next
      | exact KeepsO.fault _
      | with_reducible apply KeepsOpt.some
      | exact KeepsOpt.none
      | with_reducible apply KeepsO.ite
      | with_reducible apply KeepsOpt.ite
      | with_reducible apply Keeps.ite
      | with_reducible apply State.at__keeps
      | with_reducible apply State.takePower_keeps
      | with_reducible apply State.raisePower_keeps
      | with_reducible apply State.lowerPower_keeps
      | extract_lets
      | split
      | (dsimp +zetaDelta only; split)
      | with_reducible apply Keeps.mkU

theorem State.marginStep_keeps {s₀ s : State} (h : Keeps s₀ s) (r : Nat) :
    Keeps s₀ (State.marginStep s r) := by
  unfold State.marginStep
  repeat'
    first
      | with_reducible assumption
      | intro _
      | with_reducible apply Keeps.ite
      | with_reducible apply State.addWear_keeps
      | with_reducible apply State.ceilingNotice_keeps
      | with_reducible apply State.considerSwitch_keeps
      | extract_lets
      | split
      | (dsimp +zetaDelta only; split)
      | with_reducible apply Keeps.mkU

theorem execMarginSample_keeps {s₀ s : State} (h : Keeps s₀ s) (r : RegionIx) (low : Bool) (now : Nat) :
    KeepsO s₀ (execMarginSample r low now s) := by
  unfold execMarginSample
  repeat'
    first
      | with_reducible assumption
      | intro _
      | with_reducible apply KeepsO.next
      | exact KeepsO.fault _
      | with_reducible apply KeepsOpt.some
      | exact KeepsOpt.none
      | with_reducible apply KeepsO.ite
      | with_reducible apply KeepsOpt.ite
      | with_reducible apply Keeps.ite
      | with_reducible apply State.at__keeps
      | with_reducible apply State.modRegion_keeps
      | with_reducible apply State.marginStep_keeps
      | with_reducible apply State.considerSwitch_keeps
      | extract_lets
      | split
      | (dsimp +zetaDelta only; split)
      | with_reducible apply Keeps.mkU

theorem execThrottleChange_keeps {s₀ s : State} (h : Keeps s₀ s) (now : Nat) :
    KeepsO s₀ (execThrottleChange now s) := by
  unfold execThrottleChange
  repeat'
    first
      | with_reducible assumption
      | intro _
      | with_reducible apply KeepsO.next
      | exact KeepsO.fault _
      | with_reducible apply KeepsOpt.some
      | exact KeepsOpt.none
      | with_reducible apply KeepsO.ite
      | with_reducible apply KeepsOpt.ite
      | with_reducible apply Keeps.ite
      | with_reducible apply State.at__keeps
      | extract_lets
      | split
      | (dsimp +zetaDelta only; split)
      | with_reducible apply Keeps.mkU

theorem execThrotNAssert_keeps {s₀ s : State} (h : Keeps s₀ s) (now : Nat) :
    KeepsO s₀ (execThrotNAssert now s) := by
  unfold execThrotNAssert
  repeat'
    first
      | with_reducible assumption
      | intro _
      | with_reducible apply KeepsO.next
      | exact KeepsO.fault _
      | with_reducible apply KeepsOpt.some
      | exact KeepsOpt.none
      | with_reducible apply KeepsO.ite
      | with_reducible apply KeepsOpt.ite
      | with_reducible apply Keeps.ite
      | with_reducible apply State.at__keeps
      | with_reducible apply State.requestH_keeps
      | with_reducible apply State.notice0_keeps
      | extract_lets
      | split
      | (dsimp +zetaDelta only; split)
      | with_reducible apply Keeps.mkU

theorem execThrotNRelease_keeps {s₀ s : State} (h : Keeps s₀ s) (now : Nat) :
    KeepsO s₀ (execThrotNRelease now s) := by
  unfold execThrotNRelease
  repeat'
    first
      | with_reducible assumption
      | intro _
      | with_reducible apply KeepsO.next
      | exact KeepsO.fault _
      | with_reducible apply KeepsOpt.some
      | exact KeepsOpt.none
      | with_reducible apply KeepsO.ite
      | with_reducible apply KeepsOpt.ite
      | with_reducible apply Keeps.ite
      | with_reducible apply State.at__keeps
      | with_reducible apply State.requestH_keeps
      | with_reducible apply State.notice0_keeps
      | extract_lets
      | split
      | (dsimp +zetaDelta only; split)
      | with_reducible apply Keeps.mkU

theorem execBrownoutWarn_keeps {s₀ s : State} (h : Keeps s₀ s) (minMv : Half) (now : Nat) :
    KeepsO s₀ (execBrownoutWarn minMv now s) := by
  unfold execBrownoutWarn
  repeat'
    first
      | with_reducible assumption
      | intro _
      | with_reducible apply KeepsO.next
      | exact KeepsO.fault _
      | with_reducible apply KeepsOpt.some
      | exact KeepsOpt.none
      | with_reducible apply KeepsO.ite
      | with_reducible apply KeepsOpt.ite
      | with_reducible apply Keeps.ite
      | with_reducible apply State.at__keeps
      | with_reducible apply State.requestH_keeps
      | with_reducible apply State.notice0_keeps
      | extract_lets
      | split
      | (dsimp +zetaDelta only; split)
      | with_reducible apply Keeps.mkU

theorem execBrownoutClear_keeps {s₀ s : State} (h : Keeps s₀ s) (minMv : Half) (now : Nat) :
    KeepsO s₀ (execBrownoutClear minMv now s) := by
  unfold execBrownoutClear
  repeat'
    first
      | with_reducible assumption
      | intro _
      | with_reducible apply KeepsO.next
      | exact KeepsO.fault _
      | with_reducible apply KeepsOpt.some
      | exact KeepsOpt.none
      | with_reducible apply KeepsO.ite
      | with_reducible apply KeepsOpt.ite
      | with_reducible apply Keeps.ite
      | with_reducible apply State.at__keeps
      | with_reducible apply State.addWear_keeps
      | with_reducible apply State.requestH_keeps
      | extract_lets
      | split
      | (dsimp +zetaDelta only; split)
      | with_reducible apply Keeps.mkU

theorem State.phaseFailRegion_keeps {s₀ s : State} (h : Keeps s₀ s) (r : Nat) (phase : Nat) :
    Keeps s₀ (State.phaseFailRegion s r phase) := by
  unfold State.phaseFailRegion
  repeat'
    first
      | with_reducible assumption
      | intro _
      | with_reducible apply Keeps.ite
      | with_reducible apply State.failRegion_keeps
      | with_reducible apply State.addDefect_keeps
      | with_reducible apply State.faultNotice_keeps
      | with_reducible apply State.stopBatch_keeps
      | with_reducible apply State.settleStop_keeps
      | extract_lets
      | split
      | (dsimp +zetaDelta only; split)
      | with_reducible apply Keeps.mkU

theorem State.losePhase_keeps {s₀ s : State} (h : Keeps s₀ s) (p : Nat) (sense : Bool) :
    Keeps s₀ (State.losePhase s p sense) := by
  unfold State.losePhase
  repeat'
    first
      | with_reducible assumption
      | intro _
      | with_reducible apply Keeps.ite
      | with_reducible apply State.notice0_keeps
      | with_reducible apply State.requestH_keeps
      | with_reducible apply State.faultActed_keeps
      | with_reducible apply State.checkProj_keeps
      | with_reducible apply State.phaseFailRegion_keeps
      | with_reducible apply State.modGroup_keeps
      | with_reducible apply State.noticeTurf_keeps
      | with_reducible apply State.takeSpare_keeps
      | extract_lets
      | split
      | (dsimp +zetaDelta only; split)
      | with_reducible apply Keeps.mkU
      | with_reducible apply Keeps.mkFirm
      | with_reducible exact rfl
      | with_reducible exact List.prefix_refl _
      | (dsimp +zetaDelta only; with_reducible exact rfl)
      | (dsimp +zetaDelta only; with_reducible exact List.prefix_refl _)
      | exact rfl
      | exact List.prefix_refl _
      | exact List.prefix_append _ _

theorem State.phaseOpens_keeps {s₀ s : State} (h : Keeps s₀ s) (p : Nat) :
    Keeps s₀ (State.phaseOpens s p) := by
  unfold State.phaseOpens
  repeat'
    first
      | with_reducible assumption
      | intro _
      | with_reducible apply Keeps.ite
      | with_reducible apply State.modPhase_keeps
      | with_reducible apply State.losePhase_keeps
      | extract_lets
      | split
      | (dsimp +zetaDelta only; split)
      | with_reducible apply Keeps.mkU

theorem State.senseCheck_keeps {s₀ s : State} (h : Keeps s₀ s) (g : GroupIx) (miss : Option (Fin 9)) :
    Keeps s₀ (State.senseCheck s g miss) := by
  unfold State.senseCheck
  repeat'
    first
      | with_reducible assumption
      | intro _
      | with_reducible apply Keeps.ite
      | with_reducible apply State.modGroup_keeps
      | with_reducible apply State.requestH_keeps
      | with_reducible apply State.modPhase_keeps
      | with_reducible apply State.losePhase_keeps
      | extract_lets
      | split
      | (dsimp +zetaDelta only; split)
      | with_reducible apply Keeps.mkU

theorem execTelemetrySample_keeps {s₀ s : State} (h : Keeps s₀ s) (p : PhaseIx) (milliamps : Nat) :
    KeepsO s₀ (execTelemetrySample p milliamps s) := by
  unfold execTelemetrySample
  repeat'
    first
      | with_reducible assumption
      | intro _
      | with_reducible apply KeepsO.next
      | exact KeepsO.fault _
      | with_reducible apply KeepsOpt.some
      | exact KeepsOpt.none
      | with_reducible apply KeepsO.ite
      | with_reducible apply KeepsOpt.ite
      | with_reducible apply Keeps.ite
      | with_reducible apply State.modPhase_keeps
      | with_reducible apply State.modGroup_keeps
      | extract_lets
      | split
      | (dsimp +zetaDelta only; split)
      | with_reducible apply Keeps.mkU

theorem State.startReq_keeps {s₀ s : State} (h : Keeps s₀ s) (r : Nat) (t : Sleep) :
    Keeps s₀ (State.startReq s r t) := by
  unfold State.startReq
  repeat'
    first
      | with_reducible assumption
      | intro _
      | with_reducible apply Keeps.ite
      | with_reducible apply State.modRegion_keeps
      | extract_lets
      | split
      | (dsimp +zetaDelta only; split)
      | with_reducible apply Keeps.mkU

theorem State.request_keeps {s₀ s : State} (h : Keeps s₀ s) (r : Nat) (t : Sleep) :
    Keeps s₀ (State.request s r t) := by
  unfold State.request
  repeat'
    first
      | with_reducible assumption
      | intro _
      | with_reducible apply Keeps.ite
      | with_reducible apply State.modRegion_keeps
      | with_reducible apply State.startReq_keeps
      | extract_lets
      | split
      | (dsimp +zetaDelta only; split)
      | with_reducible apply Keeps.mkU

theorem State.modSleepWaits_keeps {s₀ s : State} (h : Keeps s₀ s) (f : Sleep → SleepWait → SleepWait) :
    Keeps s₀ (State.modSleepWaits s f) := by
  unfold State.modSleepWaits
  repeat'
    first
      | with_reducible assumption
      | intro _
      | with_reducible apply Keeps.ite
      | extract_lets
      | split
      | (dsimp +zetaDelta only; split)
      | with_reducible apply Keeps.mkU

theorem State.markEnded_keeps {s₀ s : State} (h : Keeps s₀ s) (r : Nat) :
    Keeps s₀ (State.markEnded s r) := by
  unfold State.markEnded
  repeat'
    first
      | with_reducible assumption
      | intro _
      | with_reducible apply Keeps.ite
      | with_reducible apply State.modSleepWaits_keeps
      | extract_lets
      | split
      | (dsimp +zetaDelta only; split)
      | with_reducible apply Keeps.mkU

theorem State.markDead_keeps {s₀ s : State} (h : Keeps s₀ s) (r : Nat) :
    Keeps s₀ (State.markDead s r) := by
  unfold State.markDead
  repeat'
    first
      | with_reducible assumption
      | intro _
      | with_reducible apply Keeps.ite
      | with_reducible apply State.modSleepWaits_keeps
      | extract_lets
      | split
      | (dsimp +zetaDelta only; split)
      | with_reducible apply Keeps.mkU

theorem State.settleSleeps_keeps {s₀ s : State} (h : Keeps s₀ s) :
    Keeps s₀ (State.settleSleeps s) := by
  unfold State.settleSleeps
  repeat'
    first
      | with_reducible assumption
      | intro _
      | with_reducible apply Keeps.ite
      | with_reducible apply State.complete_keeps
      | with_reducible apply Keeps.foldl
      | with_reducible apply Keeps.foldl_fst
      | with_reducible apply Keeps.foldl_snd
      | extract_lets
      | split
      | (dsimp +zetaDelta only; split)
      | with_reducible apply Keeps.mkU

theorem State.regionEnded_keeps {s₀ s : State} (h : Keeps s₀ s) (r : Nat) :
    Keeps s₀ (State.regionEnded s r) := by
  unfold State.regionEnded
  repeat'
    first
      | with_reducible assumption
      | intro _
      | with_reducible apply Keeps.ite
      | with_reducible apply State.markEnded_keeps
      | with_reducible apply State.settleSleeps_keeps
      | with_reducible apply State.modRegion_keeps
      | with_reducible apply State.modSleepWaits_keeps
      | with_reducible apply State.markDead_keeps
      | with_reducible apply State.startReq_keeps
      | extract_lets
      | split
      | (dsimp +zetaDelta only; split)
      | with_reducible apply Keeps.mkU

theorem State.beginSleeps_keeps {s₀ s : State} (h : Keeps s₀ s) (a : Accepted) (mask : Nat) (t : Sleep) :
    Keeps s₀ (State.beginSleeps s a mask t) := by
  unfold State.beginSleeps
  repeat'
    first
      | with_reducible assumption
      | intro _
      | with_reducible apply Keeps.ite
      | with_reducible apply State.request_keeps
      | with_reducible apply State.modAccepted_keeps
      | with_reducible apply State.settleSleeps_keeps
      | with_reducible apply Keeps.foldl
      | with_reducible apply Keeps.foldl_fst
      | with_reducible apply Keeps.foldl_snd
      | extract_lets
      | split
      | (dsimp +zetaDelta only; split)
      | with_reducible apply Keeps.mkU

theorem execRegionSleep_keeps {s₀ s : State} (h : Keeps s₀ s) (q : QueueIx) (slot : SlotIx) :
    KeepsO s₀ (execRegionSleep q slot s) := by
  unfold execRegionSleep
  repeat'
    first
      | with_reducible assumption
      | intro _
      | with_reducible apply KeepsO.next
      | exact KeepsO.fault _
      | with_reducible apply KeepsOpt.some
      | exact KeepsOpt.none
      | with_reducible apply KeepsO.ite
      | with_reducible apply KeepsOpt.ite
      | with_reducible apply Keeps.ite
      | with_reducible apply State.withCmd_keeps
      | with_reducible apply State.fail_keeps
      | with_reducible apply State.beginSleeps_keeps
      | extract_lets
      | split
      | (dsimp +zetaDelta only; split)
      | with_reducible apply Keeps.mkU

theorem execRegionWake_keeps {s₀ s : State} (h : Keeps s₀ s) (q : QueueIx) (slot : SlotIx) :
    KeepsO s₀ (execRegionWake q slot s) := by
  unfold execRegionWake
  repeat'
    first
      | with_reducible assumption
      | intro _
      | with_reducible apply KeepsO.next
      | exact KeepsO.fault _
      | with_reducible apply KeepsOpt.some
      | exact KeepsOpt.none
      | with_reducible apply KeepsO.ite
      | with_reducible apply KeepsOpt.ite
      | with_reducible apply Keeps.ite
      | with_reducible apply State.withCmd_keeps
      | with_reducible apply State.fail_keeps
      | with_reducible apply State.beginSleeps_keeps
      | extract_lets
      | split
      | (dsimp +zetaDelta only; split)
      | with_reducible apply Keeps.mkU

theorem execLimitsRead_keeps {s₀ s : State} (h : Keeps s₀ s) (q : QueueIx) (slot : SlotIx) :
    KeepsO s₀ (execLimitsRead q slot s) := by
  unfold execLimitsRead
  repeat'
    first
      | with_reducible assumption
      | intro _
      | with_reducible apply KeepsO.next
      | exact KeepsO.fault _
      | with_reducible apply KeepsOpt.some
      | exact KeepsOpt.none
      | with_reducible apply KeepsO.ite
      | with_reducible apply KeepsOpt.ite
      | with_reducible apply Keeps.ite
      | with_reducible apply State.withCmd_keeps
      | with_reducible apply State.output_keeps
      | extract_lets
      | split
      | (dsimp +zetaDelta only; split)
      | with_reducible apply Keeps.mkU

end Sys2Proof.Machine
end

