-- ==== Sys2Proof/Laws/KeepsThermal.lean ====
section
/-!
SUPPORT. What every operation of Machine/Thermal.lean keeps (Laws/Keeps.lean).
-/
namespace Sys2Proof.Machine

set_option Elab.async false
set_option linter.all false

theorem State.refresh_keeps {s₀ s : State} (h : Keeps s₀ s) (n : Nat) :
    Keeps s₀ (State.refresh s n) := by
  unfold State.refresh
  repeat'
    first
      | with_reducible assumption
      | intro _
      | with_reducible apply Keeps.ite
      | with_reducible apply State.modSensor_keeps
      | with_reducible apply State.draw_keeps
      | extract_lets
      | split
      | (dsimp +zetaDelta only; split)
      | with_reducible apply Keeps.mkU

theorem State.openSensor_keeps {s₀ s : State} (h : Keeps s₀ s) (n : Nat) (high : Bool) :
    Keeps s₀ (State.openSensor s n high) := by
  unfold State.openSensor
  repeat'
    first
      | with_reducible assumption
      | intro _
      | with_reducible apply Keeps.ite
      | with_reducible apply State.modSensor_keeps
      | with_reducible apply State.notice0_keeps
      | with_reducible apply State.faultActed_keeps
      | extract_lets
      | split
      | (dsimp +zetaDelta only; split)
      | with_reducible apply Keeps.mkU

theorem State.takeReading_keeps {s₀ s : State} (h : Keeps s₀ s) (r : SensorReading) :
    Keeps s₀ (State.takeReading s r) := by
  unfold State.takeReading
  repeat'
    first
      | with_reducible assumption
      | intro _
      | with_reducible apply Keeps.ite
      | with_reducible apply State.modSensor_keeps
      | with_reducible apply State.openSensor_keeps
      | extract_lets
      | split
      | (dsimp +zetaDelta only; split)
      | with_reducible apply Keeps.mkU

theorem State.compareLevels_keeps {s₀ s : State} (h : Keeps s₀ s) (n : Nat) :
    Keeps s₀ (State.compareLevels s n) := by
  unfold State.compareLevels
  repeat'
    first
      | with_reducible assumption
      | intro _
      | with_reducible apply Keeps.ite
      | with_reducible apply State.modSensor_keeps
      | with_reducible apply State.notice0_keeps
      | extract_lets
      | split
      | (dsimp +zetaDelta only; split)
      | with_reducible apply Keeps.mkU

theorem State.noteThermal_keeps {s₀ s : State} (h : Keeps s₀ s) (xh : Nat) :
    Keeps s₀ (State.noteThermal s xh) := by
  unfold State.noteThermal
  repeat'
    first
      | with_reducible assumption
      | intro _
      | with_reducible apply Keeps.ite
      | extract_lets
      | split
      | (dsimp +zetaDelta only; split)
      | with_reducible apply Keeps.mkU

theorem State.thermalTaken_keeps {s₀ s : State} (h : Keeps s₀ s) (readings : List SensorReading) :
    Keeps s₀ (State.thermalTaken s readings) := by
  unfold State.thermalTaken
  repeat'
    first
      | with_reducible assumption
      | intro _
      | with_reducible apply Keeps.ite
      | with_reducible apply State.takeReading_keeps
      | with_reducible apply State.refresh_keeps
      | with_reducible apply State.compareLevels_keeps
      | with_reducible apply State.modSensor_keeps
      | with_reducible apply State.noteThermal_keeps
      | with_reducible apply State.requestH_keeps
      | with_reducible apply State.ceilingNotice_keeps
      | with_reducible apply State.considerSwitch_keeps
      | with_reducible apply Keeps.foldl
      | with_reducible apply Keeps.foldl_fst
      | with_reducible apply Keeps.foldl_snd
      | extract_lets
      | split
      | (dsimp +zetaDelta only; split)
      | with_reducible apply Keeps.mkU

theorem execThermalFallBoundary_keeps {s₀ s : State} (h : Keeps s₀ s) (now : Nat) :
    KeepsO s₀ (execThermalFallBoundary now s) := by
  unfold execThermalFallBoundary
  repeat'
    first
      | with_reducible assumption
      | intro _
      | with_reducible apply KeepsO.next
      | exact KeepsO.fault _
      | with_reducible apply KeepsOpt.some
      | exact KeepsOpt.none
      | with_reducible apply KeepsO.ite
      | with_reducible apply KeepsOpt.ite
      | with_reducible apply Keeps.ite
      | with_reducible apply State.at__keeps
      | with_reducible apply State.requestH_keeps
      | extract_lets
      | split
      | (dsimp +zetaDelta only; split)
      | with_reducible apply Keeps.mkU

theorem State.raiseThermal_keeps {s₀ s : State} (h : Keeps s₀ s) :
    Keeps s₀ (State.raiseThermal s) := by
  unfold State.raiseThermal
  repeat'
    first
      | with_reducible assumption
      | intro _
      | with_reducible apply Keeps.ite
      | with_reducible apply State.ceilingNotice_keeps
      | with_reducible apply State.considerSwitch_keeps
      | extract_lets
      | split
      | (dsimp +zetaDelta only; split)
      | with_reducible apply Keeps.mkU

theorem State.lowerThermal_keeps {s₀ s : State} (h : Keeps s₀ s) :
    Keeps s₀ (State.lowerThermal s) := by
  unfold State.lowerThermal
  repeat'
    first
      | with_reducible assumption
      | intro _
      | with_reducible apply Keeps.ite
      | with_reducible apply State.ceilingNotice_keeps
      | with_reducible apply State.considerSwitch_keeps
      | extract_lets
      | split
      | (dsimp +zetaDelta only; split)
      | with_reducible apply Keeps.mkU

theorem execThermalCeilingCheck_keeps {s₀ s : State} (h : Keeps s₀ s) (now : Nat) :
    KeepsO s₀ (execThermalCeilingCheck now s) := by
  unfold execThermalCeilingCheck
  repeat'
    first
      | with_reducible assumption
      | intro _
      | with_reducible apply KeepsO.next
      | exact KeepsO.fault _
      | with_reducible apply KeepsOpt.some
      | exact KeepsOpt.none
      | with_reducible apply KeepsO.ite
      | with_reducible apply KeepsOpt.ite
      | with_reducible apply Keeps.ite
      | with_reducible apply State.at__keeps
      | with_reducible apply State.raiseThermal_keeps
      | with_reducible apply State.lowerThermal_keeps
      | extract_lets
      | split
      | (dsimp +zetaDelta only; split)
      | with_reducible apply Keeps.mkU

theorem execThermistorSample_keeps {s₀ s : State} (h : Keeps s₀ s) (n : Fin 8) (reading : SensorReading) (now : Nat) :
    KeepsO s₀ (execThermistorSample n reading now s) := by
  unfold execThermistorSample
  repeat'
    first
      | with_reducible assumption
      | intro _
      | with_reducible apply KeepsO.next
      | exact KeepsO.fault _
      | with_reducible apply KeepsOpt.some
      | exact KeepsOpt.none
      | with_reducible apply KeepsO.ite
      | with_reducible apply KeepsOpt.ite
      | with_reducible apply Keeps.ite
      | with_reducible apply State.at__keeps
      | with_reducible apply State.openSensor_keeps
      | with_reducible apply State.modSensor_keeps
      | with_reducible apply State.notice0_keeps
      | extract_lets
      | split
      | (dsimp +zetaDelta only; split)
      | with_reducible apply Keeps.mkU

end Sys2Proof.Machine
end

