-- ==== Sys2Proof/Laws/KeepsImages.lean ====
section
/-!
SUPPORT. What every operation of Machine/Images.lean keeps (Laws/Keeps.lean).
-/
namespace Sys2Proof.Machine

set_option Elab.async false
set_option linter.all false

theorem State.releaseImage_keeps {s₀ s : State} (h : Keeps s₀ s) (n : Nat) : Keeps s₀ (State.releaseImage s n) := by
  unfold State.releaseImage
  split
  · exact h
  · extract_lets u v
    have h1 : Keeps s₀ u := h.foldl fun v i hv => State.dropCtr_keeps hv _
    have h2 : Keeps s₀ v := h1.mkU
    exact h2.mkImages fun r p hp => r p (List.mem_filter.1 hp).1

theorem State.finishLoad_keeps {s₀ s : State} (h : Keeps s₀ s) (n : Nat) (img : ImageSt)
    (hr : s₀.ctrsInRange → ∀ v ∈ img.ctrInit, v < 2 ^ 31) : Keeps s₀ (State.finishLoad s n img) := by
  unfold State.finishLoad
  extract_lets u1 u2 x u3 u4
  have h1 : Keeps s₀ u1 :=
    ⟨h.pending, h.drawn, h.mem, h.host, h.defects, h.revoked, fun r =>
      ⟨(h.ctrs r).1, tset_all (P := fun i : ImageSt => ∀ v ∈ i.ctrInit, v < 2 ^ 31) (h.ctrs r).2 (hr r)⟩⟩
  have h2 : Keeps s₀ u2 := h1.foldl fun v i hv => State.modCell_keeps hv _ _
  have h3 : Keeps s₀ u3 := h2.mkU
  have h4 : Keeps s₀ u4 := h3.mkU
  repeat'
    first
      | with_reducible assumption
      | intro _
      | with_reducible apply State.done_keeps
      | with_reducible apply State.storeSite_keeps
      | with_reducible apply State.poke_keeps
      | extract_lets
      | split
      | (dsimp +zetaDelta only; split)

theorem State.loadProgress_keeps {s₀ s : State} (h : Keeps s₀ s) (xh : Nat) :
    Keeps s₀ (State.loadProgress s xh) := by
  unfold State.loadProgress
  repeat'
    first
      | with_reducible assumption
      | intro _
      | with_reducible apply Keeps.ite
      | with_reducible apply State.releaseImage_keeps
      | with_reducible apply State.fail_keeps
      | with_reducible apply State.finishLoad_keeps
      | extract_lets
      | split
      | (dsimp +zetaDelta only; split)
      | with_reducible apply Keeps.mkU
      | intro r v hv
      | exact tfind_all (P := fun i : ImageSt => ∀ v ∈ i.ctrInit, v < 2 ^ 31) (h.ctrs ‹_›).2 ‹_› _ ‹_›

theorem State.enterImage_keeps {s₀ s : State} (h : Keeps s₀ s) (a : Accepted) (n : Nat) (img : ImageSt)
    (hr : ∀ v ∈ img.ctrInit, v < 2 ^ 31) : Keeps s₀ (State.enterImage s a n img) := by
  unfold State.enterImage
  extract_lets u1 u2 u3
  have h1 : Keeps s₀ u1 :=
    ⟨h.pending, h.drawn, h.mem, h.host, h.defects, h.revoked, fun r =>
      ⟨(h.ctrs r).1, tset_all (P := fun i : ImageSt => ∀ v ∈ i.ctrInit, v < 2 ^ 31) (h.ctrs r).2 hr⟩⟩
  have h2 : Keeps s₀ u2 := h1.foldl fun v i hv => State.modCtr_keeps hv _ _ fun _ hc => hc
  have h3 : Keeps s₀ u3 := h2.foldl fun v i hv => State.request_keeps hv _ _
  exact State.loadProgress_keeps h3 _

/-- Where no fault is reported no check found one. -/
theorem firstFault_none {l : List ImgFault} (h : firstFault l = none) : ∀ f ∈ l, f = none := by
  induction l with
  | nil => simp
  | cons a t ih =>
    cases a with
    | none =>
      intro f hf
      rcases List.mem_cons.1 hf with rfl | hf
      · rfl
      · exact ih (by simpa [firstFault] using h) f hf
    | some x => simp [firstFault] at h

/-- Stage 6 finds the counters' initial values in range. -/
theorem State.stage6_counters {s : State} {t : Nat} {b : Bytes} (h : s.stage6 t b = none) : countersOk b = true := by
  have := firstFault_none h (need (countersOk b) 6 (sectionIndex b 6) 0) (by simp)
  cases hc : countersOk b with
  | true => rfl
  | false => simp [need, hc] at this

/-- A checked image's counters start in range (R236). -/
theorem State.checkImage_range {s : State} {t len : Nat} {b : Bytes} {img : ImageSt} (h : s.checkImage t len b = .inl img) :
    ∀ v ∈ img.ctrInit, v < 2 ^ 31 := by
  unfold State.checkImage at h
  dsimp only at h
  repeat' split at h
  all_goals try cases h
  all_goals
    rename_i h6
    intro v hv
    obtain ⟨r, hr, rfl⟩ := List.mem_map.1 hv
    exact of_decide_eq_true (List.all_eq_true.1 (State.stage6_counters h6) r hr)

theorem execLoadImage_keeps {s₀ s : State} (h : Keeps s₀ s) (q : QueueIx) (slot : SlotIx) (data : Option Bytes) :
    KeepsO s₀ (execLoadImage q slot data s) := by
  unfold execLoadImage
  repeat'
    first
      | with_reducible assumption
      | exact State.checkImage_range ‹_›
      | intro _
      | with_reducible apply KeepsO.next
      | exact KeepsO.fault _
      | with_reducible apply KeepsOpt.some
      | exact KeepsOpt.none
      | with_reducible apply KeepsO.ite
      | with_reducible apply KeepsOpt.ite
      | with_reducible apply Keeps.ite
      | with_reducible apply State.withCmd_keeps
      | with_reducible apply State.fail_keeps
      | with_reducible apply State.complete_keeps
      | with_reducible apply State.meetIn_keeps
      | with_reducible apply State.enterImage_keeps
      | extract_lets
      | split
      | (dsimp +zetaDelta only; split)
      | with_reducible apply Keeps.mkU

theorem State.rewriteImage_keeps {s₀ s : State} (h : Keeps s₀ s) (img : ImageSt) :
    Keeps s₀ (State.rewriteImage s img) := by
  unfold State.rewriteImage
  repeat'
    first
      | with_reducible assumption
      | intro _
      | with_reducible apply Keeps.ite
      | with_reducible apply State.modCell_keeps
      | with_reducible apply State.storeSite_keeps
      | with_reducible apply Keeps.foldl
      | with_reducible apply Keeps.foldl_fst
      | with_reducible apply Keeps.foldl_snd
      | extract_lets
      | split
      | (dsimp +zetaDelta only; split)
      | with_reducible apply Keeps.mkU

theorem State.relocated_ctrInit (s : State) (img : ImageSt) : (s.relocated img).ctrInit = img.ctrInit := by
  unfold State.relocated
  split <;> rfl

theorem State.reflat_keeps {s₀ s : State} (h : Keeps s₀ s) : Keeps s₀ (State.reflat s) := by
  unfold State.reflat
  extract_lets l
  have h1 : Keeps s₀ { s with images := l } := h.mkImages fun r p hp => by
    obtain ⟨q, hq, rfl⟩ := List.mem_map.1 hp
    simpa only [State.relocated_ctrInit] using r q hq
  exact h1.foldl fun v i hv => State.rewriteImage_keeps hv _

end Sys2Proof.Machine
end

