-- ==== Sys2Proof/Laws/KeepsLinks.lean ====
section
/-!
SUPPORT. What every operation of Machine/Links.lean keeps (Laws/Keeps.lean).
-/
namespace Sys2Proof.Machine

set_option Elab.async false
set_option linter.all false

theorem State.fibreCount_keeps {s₀ s : State} (h : Keeps s₀ s) (l : Nat) (index : Nat) :
    Keeps s₀ (State.fibreCount s l index) := by
  unfold State.fibreCount
  repeat'
    first
      | with_reducible assumption
      | intro _
      | with_reducible apply Keeps.ite
      | with_reducible apply State.bump_keeps
      | extract_lets
      | split
      | (dsimp +zetaDelta only; split)
      | with_reducible apply Keeps.mkU

theorem State.sendFrame_keeps {s₀ s : State} (h : Keeps s₀ s) (l : Nat) (type : Nat) (rest : Bytes) (body : Bytes) :
    Keeps s₀ (State.sendFrame s l type rest body) := by
  unfold State.sendFrame
  repeat'
    first
      | with_reducible assumption
      | intro _
      | with_reducible apply Keeps.ite
      | with_reducible apply State.modLink_keeps
      | with_reducible apply State.emit_keeps
      | with_reducible apply State.fibreCount_keeps
      | extract_lets
      | split
      | (dsimp +zetaDelta only; split)
      | with_reducible apply Keeps.mkU

theorem State.chargeBody_keeps {s₀ s : State} (h : Keeps s₀ s) (l : Nat) (w : Waiting) :
    Keeps s₀ (State.chargeBody s l w) := by
  unfold State.chargeBody
  repeat'
    first
      | with_reducible assumption
      | intro _
      | with_reducible apply Keeps.ite
      | with_reducible apply State.modLink_keeps
      | extract_lets
      | split
      | (dsimp +zetaDelta only; split)
      | with_reducible apply Keeps.mkU

theorem State.pumpLink_keeps {s₀ s : State} (h : Keeps s₀ s) (l : Nat) (n : Nat) : Keeps s₀ (s.pumpLink l n) := by
  induction n generalizing s with
  | zero => exact h
  | succ n ih =>
    rw [State.pumpLink]
    repeat'
      first
        | with_reducible assumption
        | intro _
        | with_reducible apply ih
        | with_reducible apply Keeps.ite
        | with_reducible apply State.chargeBody_keeps
        | with_reducible apply State.modLink_keeps
        | with_reducible apply State.bump_keeps
        | with_reducible apply State.sendFrame_keeps
        | extract_lets
        | split
        | (dsimp +zetaDelta only; split)
        | with_reducible apply Keeps.mkU

theorem State.queueLink_keeps {s₀ s : State} (h : Keeps s₀ s) (l : Nat) (vc : Nat) (origin : Nat) (body : Bytes) :
    Keeps s₀ (State.queueLink s l vc origin body) := by
  unfold State.queueLink
  repeat'
    first
      | with_reducible assumption
      | intro _
      | with_reducible apply Keeps.ite
      | with_reducible apply State.modLink_keeps
      | with_reducible apply State.pumpLink_keeps
      | extract_lets
      | split
      | (dsimp +zetaDelta only; split)
      | with_reducible apply Keeps.mkU

theorem State.replayFrom_keeps {s₀ s : State} (h : Keeps s₀ s) (l : Nat) (exp : Nat) :
    Keeps s₀ (State.replayFrom s l exp) := by
  unfold State.replayFrom
  repeat'
    first
      | with_reducible assumption
      | intro _
      | with_reducible apply Keeps.ite
      | with_reducible apply State.modLink_keeps
      | with_reducible apply State.emit_keeps
      | with_reducible apply State.fibreCount_keeps
      | with_reducible apply Keeps.foldl
      | with_reducible apply Keeps.foldl_fst
      | with_reducible apply Keeps.foldl_snd
      | extract_lets
      | split
      | (dsimp +zetaDelta only; split)
      | with_reducible apply Keeps.mkU

theorem State.returnCredits_keeps {s₀ s : State} (h : Keeps s₀ s) (l : Nat) (vc : Nat) (records : Nat) (granules : Nat) :
    Keeps s₀ (State.returnCredits s l vc records granules) := by
  unfold State.returnCredits
  repeat'
    first
      | with_reducible assumption
      | intro _
      | with_reducible apply Keeps.ite
      | with_reducible apply State.modLink_keeps
      | extract_lets
      | split
      | (dsimp +zetaDelta only; split)
      | with_reducible apply Keeps.mkU

theorem State.linkHeader_keeps {s₀ s : State} (h : Keeps s₀ s) (l : Nat) (f : Bytes) :
    Keeps s₀ (State.linkHeader s l f) := by
  unfold State.linkHeader
  repeat'
    first
      | with_reducible assumption
      | intro _
      | with_reducible apply Keeps.ite
      | with_reducible apply State.modLink_keeps
      | with_reducible apply State.fibreCount_keeps
      | extract_lets
      | split
      | (dsimp +zetaDelta only; split)
      | with_reducible apply Keeps.mkU

theorem State.acceptSeq_keeps {s₀ s : State} (h : Keeps s₀ s) (l : Nat) (seq : Nat) :
    Keeps s₀ (State.acceptSeq s l seq).1 := by
  unfold State.acceptSeq
  repeat'
    first
      | with_reducible assumption
      | intro _
      | with_reducible apply Keeps.ite
      | with_reducible apply State.modLink_keeps
      | extract_lets
      | split
      | (dsimp +zetaDelta only; split)
      | with_reducible apply Keeps.mkU

theorem State.sendMgmt_keeps {s₀ s : State} (h : Keeps s₀ s) (l : Nat) (msg : Bytes) :
    Keeps s₀ (State.sendMgmt s l msg) := by
  unfold State.sendMgmt
  repeat'
    first
      | with_reducible assumption
      | intro _
      | with_reducible apply Keeps.ite
      | with_reducible apply State.queueLink_keeps
      | with_reducible apply State.emit_keeps
      | extract_lets
      | split
      | (dsimp +zetaDelta only; split)
      | with_reducible apply Keeps.mkU

theorem State.onMessage_keeps {s₀ s : State} (h : Keeps s₀ s) (l : Nat) (vc : Nat) (seq : Half) (act : State → State) (hact : ∀ v0, Keeps s₀ v0 → Keeps s₀ (act v0)) :
    Keeps s₀ (State.onMessage s l vc seq act) := by
  unfold State.onMessage
  repeat'
    first
      | with_reducible assumption
      | intro _
      | with_reducible apply hact
      | with_reducible apply Keeps.ite
      | with_reducible apply State.modLink_keeps
      | with_reducible apply State.acceptSeq_keeps
      | with_reducible apply State.returnCredits_keeps
      | extract_lets
      | split
      | (dsimp +zetaDelta only; split)
      | with_reducible apply Keeps.mkU

theorem State.pumpMap_keeps {s₀ s : State} (h : Keeps s₀ s) (l : Nat) :
    Keeps s₀ (State.pumpMap s l) := by
  unfold State.pumpMap
  repeat'
    first
      | with_reducible assumption
      | intro _
      | with_reducible apply Keeps.ite
      | with_reducible apply State.modLink_keeps
      | with_reducible apply State.sendMgmt_keeps
      | extract_lets
      | split
      | (dsimp +zetaDelta only; split)
      | with_reducible apply Keeps.mkU

theorem State.pumpAll_keeps {s₀ s : State} (h : Keeps s₀ s) (l : Nat) :
    Keeps s₀ (State.pumpAll s l) := by
  unfold State.pumpAll
  repeat'
    first
      | with_reducible assumption
      | intro _
      | with_reducible apply Keeps.ite
      | with_reducible apply State.pumpLink_keeps
      | with_reducible apply State.pumpMap_keeps
      | extract_lets
      | split
      | (dsimp +zetaDelta only; split)
      | with_reducible apply Keeps.mkU

theorem State.changeMap_keeps {s₀ s : State} (h : Keeps s₀ s) (l : Nat) (map : Bytes) :
    Keeps s₀ (State.changeMap s l map) := by
  unfold State.changeMap
  repeat'
    first
      | with_reducible assumption
      | intro _
      | with_reducible apply Keeps.ite
      | with_reducible apply State.modLink_keeps
      | with_reducible apply State.pumpMap_keeps
      | extract_lets
      | split
      | (dsimp +zetaDelta only; split)
      | with_reducible apply Keeps.mkU

theorem State.wantMap_keeps {s₀ s : State} (h : Keeps s₀ s) (l : Nat) (map : Bytes) :
    Keeps s₀ (State.wantMap s l map) := by
  unfold State.wantMap
  repeat'
    first
      | with_reducible assumption
      | intro _
      | with_reducible apply Keeps.ite
      | with_reducible apply State.modLink_keeps
      | with_reducible apply State.sendMgmt_keeps
      | extract_lets
      | split
      | (dsimp +zetaDelta only; split)
      | with_reducible apply Keeps.mkU

theorem State.moveEscape_keeps {s₀ s : State} (h : Keeps s₀ s) :
    Keeps s₀ (State.moveEscape s) := by
  unfold State.moveEscape
  repeat'
    first
      | with_reducible assumption
      | intro _
      | with_reducible apply Keeps.ite
      | with_reducible apply State.modLink_keeps
      | with_reducible apply State.pumpAll_keeps
      | with_reducible apply Keeps.foldl
      | with_reducible apply Keeps.foldl_fst
      | with_reducible apply Keeps.foldl_snd
      | extract_lets
      | split
      | (dsimp +zetaDelta only; split)
      | with_reducible apply Keeps.mkU

theorem State.loseLink_keeps {s₀ s : State} (h : Keeps s₀ s) (l : Nat) :
    Keeps s₀ (State.loseLink s l) := by
  unfold State.loseLink
  repeat'
    first
      | with_reducible assumption
      | intro _
      | with_reducible apply Keeps.ite
      | with_reducible apply State.modLink_keeps
      | with_reducible apply State.modFmu_keeps
      | with_reducible apply State.moveEscape_keeps
      | with_reducible apply State.notice0_keeps
      | extract_lets
      | split
      | (dsimp +zetaDelta only; split)
      | with_reducible apply Keeps.mkU

theorem State.resendLink_keeps {s₀ s : State} (h : Keeps s₀ s) (l : Nat) (exp : Nat) :
    Keeps s₀ (State.resendLink s l exp) := by
  unfold State.resendLink
  repeat'
    first
      | with_reducible assumption
      | intro _
      | with_reducible apply Keeps.ite
      | with_reducible apply State.loseLink_keeps
      | with_reducible apply State.replayFrom_keeps
      | extract_lets
      | split
      | (dsimp +zetaDelta only; split)
      | with_reducible apply Keeps.mkU

theorem State.trainLink_keeps {s₀ s : State} (h : Keeps s₀ s) (l : Nat) :
    Keeps s₀ (State.trainLink s l) := by
  unfold State.trainLink
  repeat'
    first
      | with_reducible assumption
      | intro _
      | with_reducible apply Keeps.ite
      | with_reducible apply State.modLink_keeps
      | extract_lets
      | split
      | (dsimp +zetaDelta only; split)
      | with_reducible apply Keeps.mkU

end Sys2Proof.Machine
end

