-- ==== Sys2Proof/Laws/KeepsConfigSets.lean ====
section
/-!
SUPPORT. What every operation of Machine/ConfigSets.lean keeps (Laws/Keeps.lean).
-/
namespace Sys2Proof.Machine

set_option Elab.async false
set_option linter.all false

theorem State.exchange_keeps {s₀ s : State} (h : Keeps s₀ s) (k : Nat) :
    Keeps s₀ (State.exchange s k) := by
  unfold State.exchange
  repeat'
    first
      | with_reducible assumption
      | intro _
      | with_reducible apply Keeps.ite
      | with_reducible apply State.modCset_keeps
      | extract_lets
      | split
      | (dsimp +zetaDelta only; split)
      | with_reducible apply Keeps.mkU

theorem State.rebind_keeps {s₀ s : State} (h : Keeps s₀ s) (q : Nat) :
    Keeps s₀ (State.rebind s q) := by
  unfold State.rebind
  repeat'
    first
      | with_reducible assumption
      | intro _
      | with_reducible apply Keeps.ite
      | with_reducible apply State.revokeQueueCtrs_keeps
      | with_reducible apply State.modQueue_keeps
      | extract_lets
      | split
      | (dsimp +zetaDelta only; split)
      | with_reducible apply Keeps.mkU

theorem State.takeSwap_keeps {s₀ s : State} (h : Keeps s₀ s) (k : Nat) :
    Keeps s₀ (State.takeSwap s k) := by
  unfold State.takeSwap
  repeat'
    first
      | with_reducible assumption
      | intro _
      | with_reducible apply Keeps.ite
      | with_reducible apply State.exchange_keeps
      | with_reducible apply State.considerSwitch_keeps
      | with_reducible apply State.rebind_keeps
      | with_reducible apply Keeps.foldl
      | with_reducible apply Keeps.foldl_fst
      | with_reducible apply Keeps.foldl_snd
      | extract_lets
      | split
      | (dsimp +zetaDelta only; split)
      | with_reducible apply Keeps.mkU

theorem State.swapCalendar_keeps {s₀ s : State} (h : Keeps s₀ s) (t : Nat) (epoch : Nat) (empty : Bool) :
    Keeps s₀ (State.swapCalendar s t epoch empty) := by
  unfold State.swapCalendar
  repeat'
    first
      | with_reducible assumption
      | intro _
      | with_reducible apply Keeps.ite
      | with_reducible apply State.modCset_keeps
      | extract_lets
      | split
      | (dsimp +zetaDelta only; split)
      | with_reducible apply Keeps.mkU

theorem State.swapRoutes_keeps {s₀ s : State} (h : Keeps s₀ s) :
    Keeps s₀ (State.swapRoutes s) := by
  unfold State.swapRoutes
  repeat'
    first
      | with_reducible assumption
      | intro _
      | with_reducible apply Keeps.ite
      | with_reducible apply State.modCset_keeps
      | with_reducible apply State.reflat_keeps
      | extract_lets
      | split
      | (dsimp +zetaDelta only; split)
      | with_reducible apply Keeps.mkU

theorem State.completeAt_keeps {s₀ s : State} (h : Keeps s₀ s) (c : Nat × Nat) (status : Nat) (result : Nat) :
    Keeps s₀ (State.completeAt s c status result) := by
  unfold State.completeAt
  repeat'
    first
      | with_reducible assumption
      | intro _
      | with_reducible apply Keeps.ite
      | with_reducible apply State.complete_keeps
      | extract_lets
      | split
      | (dsimp +zetaDelta only; split)
      | with_reducible apply Keeps.mkU

theorem State.endCalendar_keeps {s₀ s : State} (h : Keeps s₀ s) (d : Drain) :
    Keeps s₀ (State.endCalendar s d) := by
  unfold State.endCalendar
  repeat'
    first
      | with_reducible assumption
      | intro _
      | with_reducible apply Keeps.ite
      | with_reducible apply State.swapCalendar_keeps
      | with_reducible apply State.releaseImage_keeps
      | extract_lets
      | split
      | (dsimp +zetaDelta only; split)
      | with_reducible apply Keeps.mkU

theorem State.sendFabric_keeps {s₀ s : State} (h : Keeps s₀ s) (msg : Bytes) :
    Keeps s₀ (State.sendFabric s msg) := by
  unfold State.sendFabric
  repeat'
    first
      | with_reducible assumption
      | intro _
      | with_reducible apply Keeps.ite
      | with_reducible apply State.sendMgmt_keeps
      | with_reducible apply Keeps.foldl
      | with_reducible apply Keeps.foldl_fst
      | with_reducible apply Keeps.foldl_snd
      | extract_lets
      | split
      | (dsimp +zetaDelta only; split)
      | with_reducible apply Keeps.mkU

theorem State.leaveFabric_keeps {s₀ s : State} (h : Keeps s₀ s) :
    Keeps s₀ (State.leaveFabric s) := by
  unfold State.leaveFabric
  repeat'
    first
      | with_reducible assumption
      | intro _
      | with_reducible apply Keeps.ite
      | with_reducible apply State.sendFabric_keeps
      | extract_lets
      | split
      | (dsimp +zetaDelta only; split)
      | with_reducible apply Keeps.mkU

theorem State.drainProgress_keeps {s₀ s : State} (h : Keeps s₀ s) :
    Keeps s₀ (State.drainProgress s) := by
  unfold State.drainProgress
  repeat'
    first
      | with_reducible assumption
      | intro _
      | with_reducible apply Keeps.ite
      | with_reducible apply State.leaveFabric_keeps
      | with_reducible apply State.swapRoutes_keeps
      | with_reducible apply State.completeAt_keeps
      | with_reducible apply State.pumpWindows_keeps
      | with_reducible apply State.endCalendar_keeps
      | with_reducible apply State.announceAll_keeps
      | extract_lets
      | split
      | (dsimp +zetaDelta only; split)
      | with_reducible apply Keeps.mkU

theorem State.startCalendarSwap_keeps {s₀ s : State} (h : Keeps s₀ s) (a : Accepted) (t : Nat) (epoch : Nat) (unload : Option Nat) :
    Keeps s₀ (State.startCalendarSwap s a t epoch unload) := by
  unfold State.startCalendarSwap
  repeat'
    first
      | with_reducible assumption
      | intro _
      | with_reducible apply Keeps.ite
      | with_reducible apply State.endCalendar_keeps
      | with_reducible apply State.done_keeps
      | with_reducible apply State.announceAll_keeps
      | extract_lets
      | split
      | (dsimp +zetaDelta only; split)
      | with_reducible apply Keeps.mkU

end Sys2Proof.Machine
end

