-- ==== Sys2Proof/Laws/KeepsCfgCmds.lean ====
section
/-!
SUPPORT. What every operation of Machine/CfgCmds.lean keeps (Laws/Keeps.lean).
-/
namespace Sys2Proof.Machine

set_option Elab.async false
set_option linter.all false

theorem execCfgWriteShadow_keeps {s₀ s : State} (h : Keeps s₀ s) (q : QueueIx) (slot : SlotIx) (data : Option Bytes) :
    KeepsO s₀ (execCfgWriteShadow q slot data s) := by
  unfold execCfgWriteShadow
  repeat'
    first
      | with_reducible assumption
      | intro _
      | with_reducible apply KeepsO.next
      | exact KeepsO.fault _
      | with_reducible apply KeepsOpt.some
      | exact KeepsOpt.none
      | with_reducible apply KeepsO.ite
      | with_reducible apply KeepsOpt.ite
      | with_reducible apply Keeps.ite
      | with_reducible apply State.withCmd_keeps
      | with_reducible apply State.fail_keeps
      | with_reducible apply State.meetIn_keeps
      | with_reducible apply State.modCset_keeps
      | with_reducible apply State.done_keeps
      | extract_lets
      | split
      | (dsimp +zetaDelta only; split)
      | with_reducible apply Keeps.mkU

theorem State.announceSwap_keeps {s₀ s : State} (h : Keeps s₀ s) (a : Accepted) (k : Nat) (count : Nat) :
    Keeps s₀ (State.announceSwap s a k count) := by
  unfold State.announceSwap
  repeat'
    first
      | with_reducible assumption
      | intro _
      | with_reducible apply Keeps.ite
      | with_reducible apply State.fail_keeps
      | with_reducible apply State.modCset_keeps
      | with_reducible apply State.announceAll_keeps
      | extract_lets
      | split
      | (dsimp +zetaDelta only; split)
      | with_reducible apply Keeps.mkU

theorem execCfgSwap_keeps {s₀ s : State} (h : Keeps s₀ s) (q : QueueIx) (slot : SlotIx) :
    KeepsO s₀ (execCfgSwap q slot s) := by
  unfold execCfgSwap
  repeat'
    first
      | with_reducible assumption
      | intro _
      | with_reducible apply KeepsO.next
      | exact KeepsO.fault _
      | with_reducible apply KeepsOpt.some
      | exact KeepsOpt.none
      | with_reducible apply KeepsO.ite
      | with_reducible apply KeepsOpt.ite
      | with_reducible apply Keeps.ite
      | with_reducible apply State.fail_keeps
      | with_reducible apply State.announceSwap_keeps
      | with_reducible apply State.withCmd_keeps
      | extract_lets
      | split
      | (dsimp +zetaDelta only; split)
      | with_reducible apply Keeps.mkU

theorem execCfgSwapDrainedCalendar_keeps {s₀ s : State} (h : Keeps s₀ s) (q : QueueIx) (slot : SlotIx) :
    KeepsO s₀ (execCfgSwapDrainedCalendar q slot s) := by
  unfold execCfgSwapDrainedCalendar
  repeat'
    first
      | with_reducible assumption
      | intro _
      | with_reducible apply KeepsO.next
      | exact KeepsO.fault _
      | with_reducible apply KeepsOpt.some
      | exact KeepsOpt.none
      | with_reducible apply KeepsO.ite
      | with_reducible apply KeepsOpt.ite
      | with_reducible apply Keeps.ite
      | with_reducible apply State.withCmd_keeps
      | with_reducible apply State.fail_keeps
      | with_reducible apply State.startCalendarSwap_keeps
      | extract_lets
      | split
      | (dsimp +zetaDelta only; split)
      | with_reducible apply Keeps.mkU

theorem execCfgSwapDrainedRouting_keeps {s₀ s : State} (h : Keeps s₀ s) (q : QueueIx) (slot : SlotIx) :
    KeepsO s₀ (execCfgSwapDrainedRouting q slot s) := by
  unfold execCfgSwapDrainedRouting
  repeat'
    first
      | with_reducible assumption
      | intro _
      | with_reducible apply KeepsO.next
      | exact KeepsO.fault _
      | with_reducible apply KeepsOpt.some
      | exact KeepsOpt.none
      | with_reducible apply KeepsO.ite
      | with_reducible apply KeepsOpt.ite
      | with_reducible apply Keeps.ite
      | with_reducible apply State.withCmd_keeps
      | with_reducible apply State.fail_keeps
      | with_reducible apply State.drainProgress_keeps
      | extract_lets
      | split
      | (dsimp +zetaDelta only; split)
      | with_reducible apply Keeps.mkU

theorem execUnloadImage_keeps {s₀ s : State} (h : Keeps s₀ s) (q : QueueIx) (slot : SlotIx) :
    KeepsO s₀ (execUnloadImage q slot s) := by
  unfold execUnloadImage
  repeat'
    first
      | with_reducible assumption
      | intro _
      | with_reducible apply KeepsO.next
      | exact KeepsO.fault _
      | with_reducible apply KeepsOpt.some
      | exact KeepsOpt.none
      | with_reducible apply KeepsO.ite
      | with_reducible apply KeepsOpt.ite
      | with_reducible apply Keeps.ite
      | with_reducible apply State.withCmd_keeps
      | with_reducible apply State.fail_keeps
      | with_reducible apply State.startCalendarSwap_keeps
      | extract_lets
      | split
      | (dsimp +zetaDelta only; split)
      | with_reducible apply Keeps.mkU

theorem State.swapAnnounced_keeps {s₀ s : State} (h : Keeps s₀ s) (arg : Word) (count : DWord) :
    Keeps s₀ (State.swapAnnounced s arg count) := by
  unfold State.swapAnnounced
  repeat'
    first
      | with_reducible assumption
      | intro _
      | with_reducible apply Keeps.ite
      | with_reducible apply State.modCset_keeps
      | extract_lets
      | split
      | (dsimp +zetaDelta only; split)
      | with_reducible apply Keeps.mkU

theorem execSwapAnnouncement_keeps {s₀ s : State} (h : Keeps s₀ s) (arg : Word) (count : DWord) :
    KeepsO s₀ (execSwapAnnouncement arg count s) := by
  unfold execSwapAnnouncement
  repeat'
    first
      | with_reducible assumption
      | intro _
      | with_reducible apply KeepsO.next
      | exact KeepsO.fault _
      | with_reducible apply KeepsOpt.some
      | exact KeepsOpt.none
      | with_reducible apply KeepsO.ite
      | with_reducible apply KeepsOpt.ite
      | with_reducible apply Keeps.ite
      | with_reducible apply State.swapAnnounced_keeps
      | extract_lets
      | split
      | (dsimp +zetaDelta only; split)
      | with_reducible apply Keeps.mkU

theorem execCfgSwapTakeEffect_keeps {s₀ s : State} (h : Keeps s₀ s) (set : Byte) (now : Nat) :
    KeepsO s₀ (execCfgSwapTakeEffect set now s) := by
  unfold execCfgSwapTakeEffect
  repeat'
    first
      | with_reducible assumption
      | intro _
      | with_reducible apply KeepsO.next
      | exact KeepsO.fault _
      | with_reducible apply KeepsOpt.some
      | exact KeepsOpt.none
      | with_reducible apply KeepsO.ite
      | with_reducible apply KeepsOpt.ite
      | with_reducible apply Keeps.ite
      | with_reducible apply State.at__keeps
      | with_reducible apply State.takeSwap_keeps
      | with_reducible apply State.completeAt_keeps
      | extract_lets
      | split
      | (dsimp +zetaDelta only; split)
      | with_reducible apply Keeps.mkU

theorem execSwapHoldStart_keeps {s₀ s : State} (h : Keeps s₀ s) (now : Nat) :
    KeepsO s₀ (execSwapHoldStart now s) := by
  unfold execSwapHoldStart
  repeat'
    first
      | with_reducible assumption
      | intro _
      | with_reducible apply KeepsO.next
      | exact KeepsO.fault _
      | with_reducible apply KeepsOpt.some
      | exact KeepsOpt.none
      | with_reducible apply KeepsO.ite
      | with_reducible apply KeepsOpt.ite
      | with_reducible apply Keeps.ite
      | with_reducible apply State.at__keeps
      | with_reducible apply State.drainProgress_keeps
      | extract_lets
      | split
      | (dsimp +zetaDelta only; split)
      | with_reducible apply Keeps.mkU

theorem execSwapHoldEnd_keeps {s₀ s : State} (h : Keeps s₀ s) (now : Nat) :
    KeepsO s₀ (execSwapHoldEnd now s) := by
  unfold execSwapHoldEnd
  repeat'
    first
      | with_reducible assumption
      | intro _
      | with_reducible apply KeepsO.next
      | exact KeepsO.fault _
      | with_reducible apply KeepsOpt.some
      | exact KeepsOpt.none
      | with_reducible apply KeepsO.ite
      | with_reducible apply KeepsOpt.ite
      | with_reducible apply Keeps.ite
      | with_reducible apply State.at__keeps
      | with_reducible apply State.completeAt_keeps
      | extract_lets
      | split
      | (dsimp +zetaDelta only; split)
      | with_reducible apply Keeps.mkU

theorem execDrainWaitTimeout_keeps {s₀ s : State} (h : Keeps s₀ s) (now : Nat) :
    KeepsO s₀ (execDrainWaitTimeout now s) := by
  unfold execDrainWaitTimeout
  repeat'
    first
      | with_reducible assumption
      | intro _
      | with_reducible apply KeepsO.next
      | exact KeepsO.fault _
      | with_reducible apply KeepsOpt.some
      | exact KeepsOpt.none
      | with_reducible apply KeepsO.ite
      | with_reducible apply KeepsOpt.ite
      | with_reducible apply Keeps.ite
      | with_reducible apply State.at__keeps
      | with_reducible apply State.completeAt_keeps
      | with_reducible apply State.pumpWindows_keeps
      | with_reducible apply State.announceAll_keeps
      | extract_lets
      | split
      | (dsimp +zetaDelta only; split)
      | with_reducible apply Keeps.mkU

theorem State.beginStore_keeps {s₀ s : State} (h : Keeps s₀ s) (b : SetBank) (cmd : Option (Nat × Nat)) :
    Keeps s₀ (State.beginStore s b cmd) := by
  unfold State.beginStore
  repeat'
    first
      | with_reducible assumption
      | intro _
      | with_reducible apply Keeps.ite
      | extract_lets
      | split
      | (dsimp +zetaDelta only; split)
      | with_reducible apply Keeps.mkU
      | with_reducible apply Keeps.mkFirm
      | with_reducible exact rfl
      | with_reducible exact List.prefix_refl _
      | (dsimp +zetaDelta only; with_reducible exact rfl)
      | (dsimp +zetaDelta only; with_reducible exact List.prefix_refl _)
      | exact rfl
      | exact List.prefix_refl _
      | exact List.prefix_append _ _

theorem execCfgStore_keeps {s₀ s : State} (h : Keeps s₀ s) (q : QueueIx) (slot : SlotIx) :
    KeepsO s₀ (execCfgStore q slot s) := by
  unfold execCfgStore
  repeat'
    first
      | with_reducible assumption
      | intro _
      | with_reducible apply KeepsO.next
      | exact KeepsO.fault _
      | with_reducible apply KeepsOpt.some
      | exact KeepsOpt.none
      | with_reducible apply KeepsO.ite
      | with_reducible apply KeepsOpt.ite
      | with_reducible apply Keeps.ite
      | with_reducible apply State.withCmd_keeps
      | with_reducible apply State.fail_keeps
      | with_reducible apply State.beginStore_keeps
      | extract_lets
      | split
      | (dsimp +zetaDelta only; split)
      | with_reducible apply Keeps.mkU

theorem State.completeOpt_keeps {s₀ s : State} (h : Keeps s₀ s) (c : Option (Nat × Nat)) (status : Nat) (result : Nat) :
    Keeps s₀ (State.completeOpt s c status result) := by
  unfold State.completeOpt
  repeat'
    first
      | with_reducible assumption
      | intro _
      | with_reducible apply Keeps.ite
      | with_reducible apply State.completeAt_keeps
      | extract_lets
      | split
      | (dsimp +zetaDelta only; split)
      | with_reducible apply Keeps.mkU

theorem State.endWrite_keeps {s₀ s : State} (h : Keeps s₀ s) (w : BankWrite) (status : Nat) (result : Nat) :
    Keeps s₀ (State.endWrite s w status result) := by
  unfold State.endWrite
  repeat'
    first
      | with_reducible assumption
      | intro _
      | with_reducible apply Keeps.ite
      | with_reducible apply State.completeOpt_keeps
      | extract_lets
      | split
      | (dsimp +zetaDelta only; split)
      | with_reducible apply Keeps.mkU
      | with_reducible apply Keeps.mkFirm
      | with_reducible exact rfl
      | with_reducible exact List.prefix_refl _
      | (dsimp +zetaDelta only; with_reducible exact rfl)
      | (dsimp +zetaDelta only; with_reducible exact List.prefix_refl _)
      | exact rfl
      | exact List.prefix_refl _
      | exact List.prefix_append _ _

theorem execBankCommit_keeps {s₀ s : State} (h : Keeps s₀ s) (readBackOk : Bool) :
    KeepsO s₀ (execBankCommit readBackOk s) := by
  unfold execBankCommit
  repeat'
    first
      | with_reducible assumption
      | intro _
      | with_reducible apply KeepsO.next
      | exact KeepsO.fault _
      | with_reducible apply KeepsOpt.some
      | exact KeepsOpt.none
      | with_reducible apply KeepsO.ite
      | with_reducible apply KeepsOpt.ite
      | with_reducible apply Keeps.ite
      | with_reducible apply State.notice0_keeps
      | with_reducible apply State.endWrite_keeps
      | extract_lets
      | split
      | (dsimp +zetaDelta only; split)
      | with_reducible apply Keeps.mkU
      | with_reducible apply Keeps.mkFirm
      | with_reducible exact rfl
      | with_reducible exact List.prefix_refl _
      | (dsimp +zetaDelta only; with_reducible exact rfl)
      | (dsimp +zetaDelta only; with_reducible exact List.prefix_refl _)
      | exact rfl
      | exact List.prefix_refl _
      | exact List.prefix_append _ _

theorem execCfgRead_keeps {s₀ s : State} (h : Keeps s₀ s) (q : QueueIx) (slot : SlotIx) :
    KeepsO s₀ (execCfgRead q slot s) := by
  unfold execCfgRead
  repeat'
    first
      | with_reducible assumption
      | intro _
      | with_reducible apply KeepsO.next
      | exact KeepsO.fault _
      | with_reducible apply KeepsOpt.some
      | exact KeepsOpt.none
      | with_reducible apply KeepsO.ite
      | with_reducible apply KeepsOpt.ite
      | with_reducible apply Keeps.ite
      | with_reducible apply State.withCmd_keeps
      | with_reducible apply State.fail_keeps
      | with_reducible apply State.output_keeps
      | extract_lets
      | split
      | (dsimp +zetaDelta only; split)
      | with_reducible apply Keeps.mkU

end Sys2Proof.Machine
end

