-- ==== Sys2Proof/Laws/KeepsPackets.lean ====
section
/-!
SUPPORT. What every operation of Machine/Packets.lean keeps (Laws/Keeps.lean).
-/
namespace Sys2Proof.Machine

set_option Elab.async false
set_option linter.all false

theorem State.answer_keeps {s₀ s : State} (h : Keeps s₀ s) (turf : Nat) (p : Packet) (opcode : Nat) (status : Nat) (flags : Nat) (len : Nat) (operand : BitVec 128) (data : Bytes) (poison : Bool) :
    Keeps s₀ (State.answer s turf p opcode status flags len operand data poison) := by
  unfold State.answer
  repeat'
    first
      | with_reducible assumption
      | intro _
      | with_reducible apply Keeps.ite
      | with_reducible apply State.queueDyn_keeps
      | extract_lets
      | split
      | (dsimp +zetaDelta only; split)
      | with_reducible apply Keeps.mkU

theorem State.nackReq_keeps {s₀ s : State} (h : Keeps s₀ s) (turf : Nat) (p : Packet) (status : Nat) :
    Keeps s₀ (State.nackReq s turf p status) := by
  unfold State.nackReq
  repeat'
    first
      | with_reducible assumption
      | intro _
      | with_reducible apply Keeps.ite
      | with_reducible apply State.answer_keeps
      | extract_lets
      | split
      | (dsimp +zetaDelta only; split)
      | with_reducible apply Keeps.mkU

theorem State.ackReq_keeps {s₀ s : State} (h : Keeps s₀ s) (turf : Nat) (p : Packet) (status : Nat) (flags : Nat) (operand : BitVec 128) :
    Keeps s₀ (State.ackReq s turf p status flags operand) := by
  unfold State.ackReq
  repeat'
    first
      | with_reducible assumption
      | intro _
      | with_reducible apply Keeps.ite
      | with_reducible apply State.answer_keeps
      | extract_lets
      | split
      | (dsimp +zetaDelta only; split)
      | with_reducible apply Keeps.mkU

theorem State.dataReq_keeps {s₀ s : State} (h : Keeps s₀ s) (turf : Nat) (p : Packet) (data : Bytes) (poison : Bool) :
    Keeps s₀ (State.dataReq s turf p data poison) := by
  unfold State.dataReq
  repeat'
    first
      | with_reducible assumption
      | intro _
      | with_reducible apply Keeps.ite
      | with_reducible apply State.answer_keeps
      | extract_lets
      | split
      | (dsimp +zetaDelta only; split)
      | with_reducible apply Keeps.mkU

end Sys2Proof.Machine
end

