-- ==== Sys2Proof/Laws/KeepsSync.lean ====
section
/-!
SUPPORT. What every operation of Machine/Sync.lean keeps (Laws/Keeps.lean).
-/
namespace Sys2Proof.Machine

set_option Elab.async false
set_option linter.all false

theorem State.sendSignal_keeps {s₀ s : State} (h : Keeps s₀ s) (oep : Nat) (turf : Nat) (addr : Nat) (amount : Nat) (epoch : Nat) (who : Half) :
    Keeps s₀ (State.sendSignal s oep turf addr amount epoch who) := by
  unfold State.sendSignal
  repeat'
    first
      | with_reducible assumption
      | intro _
      | with_reducible apply Keeps.ite
      | with_reducible apply State.sendProtected_keeps
      | extract_lets
      | split
      | (dsimp +zetaDelta only; split)
      | with_reducible apply Keeps.mkU

theorem State.signalCtr_keeps {s₀ s : State} (h : Keeps s₀ s) (k : Nat) (delta : Int) (p : Party) :
    Keeps s₀ (State.signalCtr s k delta p).1 := by
  unfold State.signalCtr
  repeat'
    first
      | with_reducible assumption
      | intro _
      | with_reducible apply Keeps.ite
      | with_reducible apply State.addCtr_keeps
      | with_reducible apply State.doorbell_keeps
      | extract_lets
      | split
      | (dsimp +zetaDelta only; split)
      | with_reducible apply Keeps.mkU

theorem State.descDone_keeps {s₀ s : State} (h : Keeps s₀ s) (n : Nat) (d : CeDesc) :
    Keeps s₀ (State.descDone s n d) := by
  unfold State.descDone
  repeat'
    first
      | with_reducible assumption
      | intro _
      | with_reducible apply Keeps.ite
      | with_reducible apply State.modCe_keeps
      | with_reducible apply State.complete_keeps
      | extract_lets
      | split
      | (dsimp +zetaDelta only; split)
      | with_reducible apply Keeps.mkU

theorem State.arrivalDone_keeps {s₀ s : State} (h : Keeps s₀ s) (addr : DWord) (status : Nat) :
    Keeps s₀ (State.arrivalDone s addr status) := by
  unfold State.arrivalDone
  repeat'
    first
      | with_reducible assumption
      | intro _
      | with_reducible apply Keeps.ite
      | with_reducible apply State.bump_keeps
      | with_reducible apply State.ackReq_keeps
      | extract_lets
      | split
      | (dsimp +zetaDelta only; split)
      | with_reducible apply Keeps.mkU

theorem State.signalDone_keeps {s₀ s : State} (h : Keeps s₀ s) (who : Half) (amount : Option Nat) (addr : DWord) (status : Nat) :
    Keeps s₀ (State.signalDone s who amount addr status) := by
  unfold State.signalDone
  repeat'
    first
      | with_reducible assumption
      | intro _
      | with_reducible apply Keeps.ite
      | with_reducible apply State.descDone_keeps
      | with_reducible apply State.complete_keeps
      | with_reducible apply State.arrivalDone_keeps
      | extract_lets
      | split
      | (dsimp +zetaDelta only; split)
      | with_reducible apply Keeps.mkU

theorem State.sendArrival_keeps {s₀ s : State} (h : Keeps s₀ s) (oep : Nat) (k : Nat) (epoch : Nat) (turf : Nat) (store : Option Packet) (operand : BitVec 128) :
    Keeps s₀ (State.sendArrival s oep k epoch turf store operand) := by
  unfold State.sendArrival
  repeat'
    first
      | with_reducible assumption
      | intro _
      | with_reducible apply Keeps.ite
      | with_reducible apply State.sendProtected_keeps
      | extract_lets
      | split
      | (dsimp +zetaDelta only; split)
      | with_reducible apply Keeps.mkU

theorem State.applySignal_keeps {s₀ s : State} (h : Keeps s₀ s) (k : Nat) (amount : Nat) (p : Party) (addr : DWord) :
    Keeps s₀ (State.applySignal s k amount p addr) := by
  unfold State.applySignal
  repeat'
    first
      | with_reducible assumption
      | intro _
      | with_reducible apply Keeps.ite
      | with_reducible apply State.signalCtr_keeps
      | with_reducible apply State.signalDone_keeps
      | with_reducible apply State.ownerNotice_keeps
      | with_reducible apply State.sendProtected_keeps
      | extract_lets
      | split
      | (dsimp +zetaDelta only; split)
      | with_reducible apply Keeps.mkU

theorem State.signalLost_keeps {s₀ s : State} (h : Keeps s₀ s) (amount : Nat) (remote : Bool) (who : Half) (addr : DWord) :
    Keeps s₀ (State.signalLost s amount remote who addr) := by
  unfold State.signalLost
  repeat'
    first
      | with_reducible assumption
      | intro _
      | with_reducible apply Keeps.ite
      | with_reducible apply State.tally_keeps
      | with_reducible apply State.logSync_keeps
      | with_reducible apply State.sendProtected_keeps
      | extract_lets
      | split
      | (dsimp +zetaDelta only; split)
      | with_reducible apply Keeps.mkU

theorem State.syncApply_keeps {s₀ s : State} (h : Keeps s₀ s) (arg : Word) (addr : DWord) :
    Keeps s₀ (State.syncApply s arg addr) := by
  unfold State.syncApply
  repeat'
    first
      | with_reducible assumption
      | intro _
      | with_reducible apply Keeps.ite
      | with_reducible apply State.signalLost_keeps
      | with_reducible apply State.draw_keeps
      | with_reducible apply State.applySignal_keeps
      | extract_lets
      | split
      | (dsimp +zetaDelta only; split)
      | with_reducible apply Keeps.mkU

theorem execSyncPacketApply_keeps {s₀ s : State} (h : Keeps s₀ s) (arg : Word) (addr : DWord) :
    KeepsO s₀ (execSyncPacketApply arg addr s) := by
  unfold execSyncPacketApply
  repeat'
    first
      | with_reducible assumption
      | intro _
      | with_reducible apply KeepsO.next
      | exact KeepsO.fault _
      | with_reducible apply KeepsOpt.some
      | exact KeepsOpt.none
      | with_reducible apply KeepsO.ite
      | with_reducible apply KeepsOpt.ite
      | with_reducible apply Keeps.ite
      | with_reducible apply State.syncApply_keeps
      | extract_lets
      | split
      | (dsimp +zetaDelta only; split)
      | with_reducible apply Keeps.mkU

theorem State.refusalArrives_keeps {s₀ s : State} (h : Keeps s₀ s) (arg : Word) (addr : DWord) :
    Keeps s₀ (State.refusalArrives s arg addr) := by
  unfold State.refusalArrives
  repeat'
    first
      | with_reducible assumption
      | intro _
      | with_reducible apply Keeps.ite
      | with_reducible apply State.refuseToCell_keeps
      | with_reducible apply State.signalDone_keeps
      | extract_lets
      | split
      | (dsimp +zetaDelta only; split)
      | with_reducible apply Keeps.mkU

theorem execSignalRefusalReceive_keeps {s₀ s : State} (h : Keeps s₀ s) (arg : Word) (addr : DWord) :
    KeepsO s₀ (execSignalRefusalReceive arg addr s) := by
  unfold execSignalRefusalReceive
  repeat'
    first
      | with_reducible assumption
      | intro _
      | with_reducible apply KeepsO.next
      | exact KeepsO.fault _
      | with_reducible apply KeepsOpt.some
      | exact KeepsOpt.none
      | with_reducible apply KeepsO.ite
      | with_reducible apply KeepsOpt.ite
      | with_reducible apply Keeps.ite
      | with_reducible apply State.refusalArrives_keeps
      | extract_lets
      | split
      | (dsimp +zetaDelta only; split)
      | with_reducible apply Keeps.mkU

theorem execSyncCreateCreate_keeps {s₀ s : State} (h : Keeps s₀ s) (q : QueueIx) (slot : SlotIx) :
    KeepsO s₀ (execSyncCreateCreate q slot s) := by
  unfold execSyncCreateCreate
  repeat'
    first
      | with_reducible assumption
      | exact fun _ hc => hc
      | exact fun _ hc => Nat.lt_of_le_of_lt (Nat.sub_le _ _) hc
      | exact fun _ _ => (by decide : (0 : Nat) < 2 ^ 31)
      | exact fun _ _ => by decide
      | (intro _ _; dsimp only; omega)
      | (intro _ _; dsimp +zetaDelta only; omega)
      | intro _
      | with_reducible apply KeepsO.next
      | exact KeepsO.fault _
      | with_reducible apply KeepsOpt.some
      | exact KeepsOpt.none
      | with_reducible apply KeepsO.ite
      | with_reducible apply KeepsOpt.ite
      | with_reducible apply State.withCmd_keeps
      | with_reducible apply State.fail_keeps
      | with_reducible apply State.modCtr_keeps
      | with_reducible apply State.done_keeps
      | extract_lets
      | split
      | (dsimp +zetaDelta only; split)
      | with_reducible apply Keeps.mkU

theorem execSyncCreateRelease_keeps {s₀ s : State} (h : Keeps s₀ s) (q : QueueIx) (slot : SlotIx) :
    KeepsO s₀ (execSyncCreateRelease q slot s) := by
  unfold execSyncCreateRelease
  repeat'
    first
      | with_reducible assumption
      | intro _
      | with_reducible apply KeepsO.next
      | exact KeepsO.fault _
      | with_reducible apply KeepsOpt.some
      | exact KeepsOpt.none
      | with_reducible apply KeepsO.ite
      | with_reducible apply KeepsOpt.ite
      | with_reducible apply Keeps.ite
      | with_reducible apply State.withCmd_keeps
      | with_reducible apply State.fail_keeps
      | with_reducible apply State.revokeCtr_keeps
      | with_reducible apply State.freeCtr_keeps
      | with_reducible apply State.done_keeps
      | extract_lets
      | split
      | (dsimp +zetaDelta only; split)
      | with_reducible apply Keeps.mkU

theorem execSyncCreateTakeOver_keeps {s₀ s : State} (h : Keeps s₀ s) (q : QueueIx) (slot : SlotIx) :
    KeepsO s₀ (execSyncCreateTakeOver q slot s) := by
  unfold execSyncCreateTakeOver
  repeat'
    first
      | with_reducible assumption
      | exact fun _ hc => hc
      | exact fun _ hc => Nat.lt_of_le_of_lt (Nat.sub_le _ _) hc
      | exact fun _ _ => (by decide : (0 : Nat) < 2 ^ 31)
      | exact fun _ _ => by decide
      | (intro _ _; dsimp only; omega)
      | (intro _ _; dsimp +zetaDelta only; omega)
      | intro _
      | with_reducible apply KeepsO.next
      | exact KeepsO.fault _
      | with_reducible apply KeepsOpt.some
      | exact KeepsOpt.none
      | with_reducible apply KeepsO.ite
      | with_reducible apply KeepsOpt.ite
      | with_reducible apply Keeps.ite
      | with_reducible apply State.withCmd_keeps
      | with_reducible apply State.fail_keeps
      | with_reducible apply State.modCtr_keeps
      | with_reducible apply State.done_keeps
      | extract_lets
      | split
      | (dsimp +zetaDelta only; split)
      | with_reducible apply Keeps.mkU

theorem State.logUnsent_keeps {s₀ s : State} (h : Keeps s₀ s) (addr : Nat) (amount : Nat) (epoch : Nat) (who : Half) :
    Keeps s₀ (State.logUnsent s addr amount epoch who) := by
  unfold State.logUnsent
  repeat'
    first
      | with_reducible assumption
      | intro _
      | with_reducible apply Keeps.ite
      | with_reducible apply State.logSync_keeps
      | extract_lets
      | split
      | (dsimp +zetaDelta only; split)
      | with_reducible apply Keeps.mkU

theorem execSyncSignal_keeps {s₀ s : State} (h : Keeps s₀ s) (q : QueueIx) (slot : SlotIx) :
    KeepsO s₀ (execSyncSignal q slot s) := by
  unfold execSyncSignal
  repeat'
    first
      | with_reducible assumption
      | intro _
      | with_reducible apply KeepsO.next
      | exact KeepsO.fault _
      | with_reducible apply KeepsOpt.some
      | exact KeepsOpt.none
      | with_reducible apply KeepsO.ite
      | with_reducible apply KeepsOpt.ite
      | with_reducible apply Keeps.ite
      | with_reducible apply State.withCmd_keeps
      | with_reducible apply State.fail_keeps
      | with_reducible apply State.logUnsent_keeps
      | with_reducible apply State.sendSignal_keeps
      | extract_lets
      | split
      | (dsimp +zetaDelta only; split)
      | with_reducible apply Keeps.mkU

theorem State.dumpCapture_keeps {s₀ s : State} (h : Keeps s₀ s) (t : Nat) :
    Keeps s₀ (State.dumpCapture s t).2 := by
  unfold State.dumpCapture
  repeat'
    first
      | with_reducible assumption
      | intro _
      | with_reducible apply Keeps.ite
      | with_reducible apply State.ashCapture_keeps
      | with_reducible apply State.draw_keeps
      | extract_lets
      | split
      | (dsimp +zetaDelta only; split)
      | with_reducible apply Keeps.mkU

theorem execSyncDump_keeps {s₀ s : State} (h : Keeps s₀ s) (q : QueueIx) (slot : SlotIx) :
    KeepsO s₀ (execSyncDump q slot s) := by
  unfold execSyncDump
  repeat'
    first
      | with_reducible assumption
      | intro _
      | with_reducible apply KeepsO.next
      | exact KeepsO.fault _
      | with_reducible apply KeepsOpt.some
      | exact KeepsOpt.none
      | with_reducible apply KeepsO.ite
      | with_reducible apply KeepsOpt.ite
      | with_reducible apply Keeps.ite
      | with_reducible apply State.withCmd_keeps
      | with_reducible apply State.fail_keeps
      | with_reducible apply State.dumpCapture_keeps
      | with_reducible apply State.done_keeps
      | extract_lets
      | split
      | (dsimp +zetaDelta only; split)
      | with_reducible apply Keeps.mkU

theorem execLeaseExpiry_keeps {s₀ s : State} (h : Keeps s₀ s) (now : Nat) :
    KeepsO s₀ (execLeaseExpiry now s) := by
  unfold execLeaseExpiry
  repeat'
    first
      | with_reducible assumption
      | intro _
      | with_reducible apply KeepsO.next
      | exact KeepsO.fault _
      | with_reducible apply KeepsOpt.some
      | exact KeepsOpt.none
      | with_reducible apply KeepsO.ite
      | with_reducible apply KeepsOpt.ite
      | with_reducible apply Keeps.ite
      | with_reducible apply State.at__keeps
      | with_reducible apply State.revokeCtr_keeps
      | with_reducible apply State.startClose_keeps
      | with_reducible apply Keeps.foldl
      | with_reducible apply Keeps.foldl_fst
      | with_reducible apply Keeps.foldl_snd
      | extract_lets
      | split
      | (dsimp +zetaDelta only; split)
      | with_reducible apply Keeps.mkU

theorem execOrphanFree_keeps {s₀ s : State} (h : Keeps s₀ s) (ctr : Fin 65536) (now : Nat) :
    KeepsO s₀ (execOrphanFree ctr now s) := by
  unfold execOrphanFree
  repeat'
    first
      | with_reducible assumption
      | intro _
      | with_reducible apply KeepsO.next
      | exact KeepsO.fault _
      | with_reducible apply KeepsOpt.some
      | exact KeepsOpt.none
      | with_reducible apply KeepsO.ite
      | with_reducible apply KeepsOpt.ite
      | with_reducible apply Keeps.ite
      | with_reducible apply State.at__keeps
      | with_reducible apply State.freeCtr_keeps
      | extract_lets
      | split
      | (dsimp +zetaDelta only; split)
      | with_reducible apply Keeps.mkU

end Sys2Proof.Machine
end

