-- ==== Sys2Proof/Laws/KeepsBatches.lean ====
section
/-!
SUPPORT. What every operation of Machine/Batches.lean keeps (Laws/Keeps.lean).
-/
namespace Sys2Proof.Machine

set_option Elab.async false
set_option linter.all false

theorem State.sendNotices_keeps {s₀ s : State} (h : Keeps s₀ s) (ptype : Nat) (t : Nat) (attempt : Nat) (regions : Nat) (start : Nat) :
    Keeps s₀ (State.sendNotices s ptype t attempt regions start) := by
  unfold State.sendNotices
  repeat'
    first
      | with_reducible assumption
      | intro _
      | with_reducible apply Keeps.ite
      | with_reducible apply State.sendProtected_keeps
      | with_reducible apply Keeps.foldl
      | with_reducible apply Keeps.foldl_fst
      | with_reducible apply Keeps.foldl_snd
      | extract_lets
      | split
      | (dsimp +zetaDelta only; split)
      | with_reducible apply Keeps.mkU

theorem State.batchWaits_keeps {s₀ s : State} (h : Keeps s₀ s) (t : Nat) (b : BatchSt) :
    Keeps s₀ (State.batchWaits s t b) := by
  unfold State.batchWaits
  repeat'
    first
      | with_reducible assumption
      | intro _
      | with_reducible apply Keeps.ite
      | with_reducible apply State.waitOn_keeps
      | extract_lets
      | split
      | (dsimp +zetaDelta only; split)
      | with_reducible apply Keeps.mkU

/-- The counters of an image take its initial values. -/
theorem State.setCtrs_keeps {s₀ u : State} (l : List (Nat × Nat)) (h : Keeps s₀ u) (base : Nat)
    (hl : s₀.ctrsInRange → ∀ x ∈ l, x.1 < 2 ^ 31) :
    Keeps s₀ (l.foldl (fun (s : State) x => s.modCtr (base + x.2) (fun c => { c with value := x.1, changed := s.now })) u) := by
  induction l generalizing u with
  | nil => exact h
  | cons a t ih =>
    refine ih ?_ fun r x hx => hl r x (List.mem_cons_of_mem _ hx)
    unfold State.modCtr
    exact ⟨h.pending, h.drawn, h.mem, h.host, h.defects, h.revoked, fun r =>
      ⟨tset_all (P := fun c : Ctr => c.value < 2 ^ 31) (h.ctrs r).1 (hl r a List.mem_cons_self), (h.ctrs r).2⟩⟩

theorem State.armBatch_keeps {s₀ s : State} (h : Keeps s₀ s) (t : Nat) (b : BatchSt) (attempt start : Nat) :
    Keeps s₀ (State.armBatch s t b attempt start) := by
  unfold State.armBatch
  extract_lets u1 zero u2 u3 mine u4 u5
  have h1 : Keeps s₀ u1 := h.foldl fun v m hv => by
    split
    · exact State.touch_keeps hv _
    · exact hv
  have h2 : Keeps s₀ u2 := by
    refine State.batchWaits_keeps (State.modCtr_keeps (State.modCtr_keeps h1 _ _ ?_) _ _ ?_) _ _ <;> exact fun _ _ => (by decide : (0 : Nat) < 2 ^ 31)
  have h3 : Keeps s₀ u3 := by
    simp only [u3]
    split
    · exact h2
    · rename_i img hi
      refine State.setCtrs_keeps _ h2 _ fun r x hx => ?_
      exact tfind_all (P := fun i : ImageSt => ∀ v ∈ i.ctrInit, v < 2 ^ 31) (h2.ctrs r).2 hi _ (List.fst_mem_of_mem_zipIdx hx)
  have h4 : Keeps s₀ u4 := h3.mkCtrs fun r => tmap_all (P := fun c : Ctr => c.value < 2 ^ 31) r fun k c hc => by
    split <;> exact hc
  exact State.sendNotices_keeps (State.modBatch_keeps h4 _ _) _ _ _ _ _

theorem State.batchProgress_keeps {s₀ s : State} (h : Keeps s₀ s) (t : Nat) :
    Keeps s₀ (State.batchProgress s t) := by
  unfold State.batchProgress
  repeat'
    first
      | with_reducible assumption
      | intro _
      | with_reducible apply Keeps.ite
      | with_reducible apply State.finishBatch_keeps
      | with_reducible apply State.armBatch_keeps
      | extract_lets
      | split
      | (dsimp +zetaDelta only; split)
      | with_reducible apply Keeps.mkU

theorem State.enterBatch_keeps {s₀ s : State} (h : Keeps s₀ s) (a : Accepted) (img : ImageSt) :
    Keeps s₀ (State.enterBatch s a img) := by
  unfold State.enterBatch
  repeat'
    first
      | with_reducible assumption
      | intro _
      | with_reducible apply Keeps.ite
      | with_reducible apply State.request_keeps
      | with_reducible apply State.batchProgress_keeps
      | with_reducible apply Keeps.foldl
      | with_reducible apply Keeps.foldl_fst
      | with_reducible apply Keeps.foldl_snd
      | extract_lets
      | split
      | (dsimp +zetaDelta only; split)
      | with_reducible apply Keeps.mkU

theorem execRunBatch_keeps {s₀ s : State} (h : Keeps s₀ s) (q : QueueIx) (slot : SlotIx) :
    KeepsO s₀ (execRunBatch q slot s) := by
  unfold execRunBatch
  repeat'
    first
      | with_reducible assumption
      | intro _
      | with_reducible apply KeepsO.next
      | exact KeepsO.fault _
      | with_reducible apply KeepsOpt.some
      | exact KeepsOpt.none
      | with_reducible apply KeepsO.ite
      | with_reducible apply KeepsOpt.ite
      | with_reducible apply Keeps.ite
      | with_reducible apply State.withCmd_keeps
      | with_reducible apply State.clearErrors_keeps
      | with_reducible apply State.fail_keeps
      | with_reducible apply State.enterBatch_keeps
      | extract_lets
      | split
      | (dsimp +zetaDelta only; split)
      | with_reducible apply Keeps.mkU

theorem State.cancelRuns_keeps {s₀ s : State} (h : Keeps s₀ s) (t : Nat) :
    Keeps s₀ (State.cancelRuns s t).1 := by
  unfold State.cancelRuns
  repeat'
    first
      | with_reducible assumption
      | intro _
      | with_reducible apply Keeps.ite
      | with_reducible apply State.fail_keeps
      | with_reducible apply Keeps.foldl
      | with_reducible apply Keeps.foldl_fst
      | with_reducible apply Keeps.foldl_snd
      | extract_lets
      | split
      | (dsimp +zetaDelta only; split)
      | with_reducible apply Keeps.mkU

theorem execAbort_keeps {s₀ s : State} (h : Keeps s₀ s) (q : QueueIx) (slot : SlotIx) :
    KeepsO s₀ (execAbort q slot s) := by
  unfold execAbort
  repeat'
    first
      | with_reducible assumption
      | intro _
      | with_reducible apply KeepsO.next
      | exact KeepsO.fault _
      | with_reducible apply KeepsOpt.some
      | exact KeepsOpt.none
      | with_reducible apply KeepsO.ite
      | with_reducible apply KeepsOpt.ite
      | with_reducible apply Keeps.ite
      | with_reducible apply State.withCmd_keeps
      | with_reducible apply State.cancelRuns_keeps
      | with_reducible apply State.done_keeps
      | with_reducible apply State.modAccepted_keeps
      | with_reducible apply State.modBatch_keeps
      | with_reducible apply State.stopBatch_keeps
      | with_reducible apply State.settleStop_keeps
      | with_reducible apply State.sendNotices_keeps
      | with_reducible apply State.finishBatch_keeps
      | extract_lets
      | split
      | (dsimp +zetaDelta only; split)
      | with_reducible apply Keeps.mkU

theorem State.discardNotice_keeps {s₀ s : State} (h : Keeps s₀ s) (cd : Nat) :
    Keeps s₀ (State.discardNotice s cd) := by
  unfold State.discardNotice
  repeat'
    first
      | with_reducible assumption
      | intro _
      | with_reducible apply Keeps.ite
      | with_reducible apply State.bump_keeps
      | extract_lets
      | split
      | (dsimp +zetaDelta only; split)
      | with_reducible apply Keeps.mkU

theorem State.armNotice_keeps {s₀ s : State} (h : Keeps s₀ s) (cd : Nat) (arg : Word) (count : DWord) :
    Keeps s₀ (State.armNotice s cd arg count) := by
  unfold State.armNotice
  repeat'
    first
      | with_reducible assumption
      | intro _
      | with_reducible apply Keeps.ite
      | with_reducible apply State.discardNotice_keeps
      | with_reducible apply State.modCd_keeps
      | with_reducible apply State.modCell_keeps
      | with_reducible apply State.sendSignal_keeps
      | with_reducible apply Keeps.foldl
      | with_reducible apply Keeps.foldl_fst
      | with_reducible apply Keeps.foldl_snd
      | extract_lets
      | split
      | (dsimp +zetaDelta only; split)
      | with_reducible apply Keeps.mkU

theorem execBatchArmNotice_keeps {s₀ s : State} (h : Keeps s₀ s) (cd : CdIx) (arg : Word) (count : DWord) :
    KeepsO s₀ (execBatchArmNotice cd arg count s) := by
  unfold execBatchArmNotice
  repeat'
    first
      | with_reducible assumption
      | intro _
      | with_reducible apply KeepsO.next
      | exact KeepsO.fault _
      | with_reducible apply KeepsOpt.some
      | exact KeepsOpt.none
      | with_reducible apply KeepsO.ite
      | with_reducible apply KeepsOpt.ite
      | with_reducible apply Keeps.ite
      | with_reducible apply State.armNotice_keeps
      | extract_lets
      | split
      | (dsimp +zetaDelta only; split)
      | with_reducible apply Keeps.mkU

theorem State.cancelNotice_keeps {s₀ s : State} (h : Keeps s₀ s) (cd : Nat) (arg : Word) (count : DWord) :
    Keeps s₀ (State.cancelNotice s cd arg count) := by
  unfold State.cancelNotice
  repeat'
    first
      | with_reducible assumption
      | intro _
      | with_reducible apply Keeps.ite
      | with_reducible apply State.discardNotice_keeps
      | extract_lets
      | split
      | (dsimp +zetaDelta only; split)
      | with_reducible apply Keeps.mkU

theorem execBatchCancelNotice_keeps {s₀ s : State} (h : Keeps s₀ s) (cd : CdIx) (arg : Word) (count : DWord) :
    KeepsO s₀ (execBatchCancelNotice cd arg count s) := by
  unfold execBatchCancelNotice
  repeat'
    first
      | with_reducible assumption
      | intro _
      | with_reducible apply KeepsO.next
      | exact KeepsO.fault _
      | with_reducible apply KeepsOpt.some
      | exact KeepsOpt.none
      | with_reducible apply KeepsO.ite
      | with_reducible apply KeepsOpt.ite
      | with_reducible apply Keeps.ite
      | with_reducible apply State.cancelNotice_keeps
      | extract_lets
      | split
      | (dsimp +zetaDelta only; split)
      | with_reducible apply Keeps.mkU

theorem State.withdrawBatch_keeps {s₀ s : State} (h : Keeps s₀ s) (t : Nat) (b : BatchSt) (status : Nat) (result : DWord) :
    Keeps s₀ (State.withdrawBatch s t b status result) := by
  unfold State.withdrawBatch
  repeat'
    first
      | with_reducible assumption
      | intro _
      | with_reducible apply Keeps.ite
      | with_reducible apply State.sendNotices_keeps
      | with_reducible apply State.finishBatch_keeps
      | extract_lets
      | split
      | (dsimp +zetaDelta only; split)
      | with_reducible apply Keeps.mkU

theorem execArmDeadline_keeps {s₀ s : State} (h : Keeps s₀ s) (t : TurfIx) (now : Nat) :
    KeepsO s₀ (execArmDeadline t now s) := by
  unfold execArmDeadline
  repeat'
    first
      | with_reducible assumption
      | intro _
      | with_reducible apply KeepsO.next
      | exact KeepsO.fault _
      | with_reducible apply KeepsOpt.some
      | exact KeepsOpt.none
      | with_reducible apply KeepsO.ite
      | with_reducible apply KeepsOpt.ite
      | with_reducible apply Keeps.ite
      | with_reducible apply State.at__keeps
      | with_reducible apply State.withdrawBatch_keeps
      | with_reducible apply State.sendNotices_keeps
      | with_reducible apply State.armBatch_keeps
      | extract_lets
      | split
      | (dsimp +zetaDelta only; split)
      | with_reducible apply Keeps.mkU

theorem State.startTimers_keeps {s₀ s : State} (h : Keeps s₀ s) (ps : List Nat) (restart : Bool) (at_ : Nat) :
    Keeps s₀ (State.startTimers s ps restart at_) := by
  unfold State.startTimers
  repeat'
    first
      | with_reducible assumption
      | intro _
      | with_reducible apply Keeps.ite
      | with_reducible apply State.modPort_keeps
      | with_reducible apply State.at__keeps
      | with_reducible apply Keeps.foldl
      | with_reducible apply Keeps.foldl_fst
      | with_reducible apply Keeps.foldl_snd
      | extract_lets
      | split
      | (dsimp +zetaDelta only; split)
      | with_reducible apply Keeps.mkU

theorem State.beginBatch_keeps {s₀ s : State} (h : Keeps s₀ s) (t : Nat) (b : BatchSt) :
    Keeps s₀ (State.beginBatch s t b) := by
  unfold State.beginBatch
  repeat'
    first
      | with_reducible assumption
      | intro _
      | with_reducible apply Keeps.ite
      | with_reducible apply State.evalWaits_keeps
      | with_reducible apply State.modBatch_keeps
      | with_reducible apply State.modCell_keeps
      | with_reducible apply State.startTimers_keeps
      | with_reducible apply Keeps.foldl
      | with_reducible apply Keeps.foldl_fst
      | with_reducible apply Keeps.foldl_snd
      | extract_lets
      | split
      | (dsimp +zetaDelta only; split)
      | with_reducible apply Keeps.mkU

theorem execBatchStart_keeps {s₀ s : State} (h : Keeps s₀ s) (t : TurfIx) (now : Nat) :
    KeepsO s₀ (execBatchStart t now s) := by
  unfold execBatchStart
  repeat'
    first
      | with_reducible assumption
      | intro _
      | with_reducible apply KeepsO.next
      | exact KeepsO.fault _
      | with_reducible apply KeepsOpt.some
      | exact KeepsOpt.none
      | with_reducible apply KeepsO.ite
      | with_reducible apply KeepsOpt.ite
      | with_reducible apply Keeps.ite
      | with_reducible apply State.at__keeps
      | with_reducible apply State.withdrawBatch_keeps
      | with_reducible apply State.beginBatch_keeps
      | extract_lets
      | split
      | (dsimp +zetaDelta only; split)
      | with_reducible apply Keeps.mkU

theorem execBatchDone_keeps {s₀ s : State} (h : Keeps s₀ s) (t : TurfIx) (now : Nat) :
    KeepsO s₀ (execBatchDone t now s) := by
  unfold execBatchDone
  repeat'
    first
      | with_reducible assumption
      | intro _
      | with_reducible apply KeepsO.next
      | exact KeepsO.fault _
      | with_reducible apply KeepsOpt.some
      | exact KeepsOpt.none
      | with_reducible apply KeepsO.ite
      | with_reducible apply KeepsOpt.ite
      | with_reducible apply Keeps.ite
      | with_reducible apply State.at__keeps
      | with_reducible apply State.evalWaits_keeps
      | with_reducible apply State.finishBatch_keeps
      | with_reducible apply State.done_keeps
      | extract_lets
      | split
      | (dsimp +zetaDelta only; split)
      | with_reducible apply Keeps.mkU

end Sys2Proof.Machine
end

