-- ==== Sys2Proof/Laws/KeepsWakes.lean ====
section
/-!
SUPPORT. What every operation of Machine/Wakes.lean keeps (Laws/Keeps.lean).
-/
namespace Sys2Proof.Machine

set_option Elab.async false
set_option linter.all false

theorem State.settleWakes_keeps {s₀ s : State} (h : Keeps s₀ s) :
    Keeps s₀ (State.settleWakes s) := by
  unfold State.settleWakes
  repeat'
    first
      | with_reducible assumption
      | intro _
      | with_reducible apply Keeps.ite
      | with_reducible apply State.regionEnded_keeps
      | with_reducible apply State.modSleepWaits_keeps
      | with_reducible apply State.loadProgress_keeps
      | with_reducible apply State.batchProgress_keeps
      | with_reducible apply Keeps.foldl
      | with_reducible apply Keeps.foldl_fst
      | with_reducible apply Keeps.foldl_snd
      | extract_lets
      | split
      | (dsimp +zetaDelta only; split)
      | with_reducible apply Keeps.mkU

theorem execRegionSafeState_keeps {s₀ s : State} (h : Keeps s₀ s) (r : RegionIx) :
    KeepsO s₀ (execRegionSafeState r s) := by
  unfold execRegionSafeState
  repeat'
    first
      | with_reducible assumption
      | intro _
      | with_reducible apply KeepsO.next
      | exact KeepsO.fault _
      | with_reducible apply KeepsOpt.some
      | exact KeepsOpt.none
      | with_reducible apply KeepsO.ite
      | with_reducible apply KeepsOpt.ite
      | with_reducible apply Keeps.ite
      | with_reducible apply State.modRegion_keeps
      | with_reducible apply State.clearRegion_keeps
      | with_reducible apply State.regionEnded_keeps
      | with_reducible apply State.settleWakes_keeps
      | extract_lets
      | split
      | (dsimp +zetaDelta only; split)
      | with_reducible apply Keeps.mkU

theorem State.wakeFailed_keeps {s₀ s : State} (h : Keeps s₀ s) (r : Nat) (step : Nat) (bad : List PhaseIx) :
    Keeps s₀ (State.wakeFailed s r step bad) := by
  unfold State.wakeFailed
  repeat'
    first
      | with_reducible assumption
      | intro _
      | with_reducible apply Keeps.ite
      | with_reducible apply State.clearRegion_keeps
      | with_reducible apply State.modRegion_keeps
      | with_reducible apply State.faultActed_keeps
      | with_reducible apply State.addDefect_keeps
      | with_reducible apply State.notice0_keeps
      | with_reducible apply State.noticeTurf_keeps
      | with_reducible apply State.regionEnded_keeps
      | with_reducible apply Keeps.foldl
      | with_reducible apply Keeps.foldl_fst
      | with_reducible apply Keeps.foldl_snd
      | extract_lets
      | split
      | (dsimp +zetaDelta only; split)
      | with_reducible apply Keeps.mkU

theorem State.wakeDone_keeps {s₀ s : State} (h : Keeps s₀ s) (r : Nat) (fromS4 : Bool) :
    Keeps s₀ (State.wakeDone s r fromS4) := by
  unfold State.wakeDone
  repeat'
    first
      | with_reducible assumption
      | intro _
      | with_reducible apply Keeps.ite
      | with_reducible apply State.clearRegion_keeps
      | with_reducible apply State.loadRegion_keeps
      | with_reducible apply State.modRegion_keeps
      | with_reducible apply State.regionEnded_keeps
      | extract_lets
      | split
      | (dsimp +zetaDelta only; split)
      | with_reducible apply Keeps.mkU

theorem State.pllTaken_keeps {s₀ s : State} (h : Keeps s₀ s) (r : Nat) (w : Waking) :
    Keeps s₀ (State.pllTaken s r w) := by
  unfold State.pllTaken
  repeat'
    first
      | with_reducible assumption
      | intro _
      | with_reducible apply Keeps.ite
      | with_reducible apply State.takeSpare_keeps
      | with_reducible apply State.faultActed_keeps
      | extract_lets
      | split
      | (dsimp +zetaDelta only; split)
      | with_reducible apply Keeps.mkU

theorem State.retryStep_keeps {s₀ s : State} (h : Keeps s₀ s) (r : Nat) (w : Waking) (bad : List PhaseIx) :
    Keeps s₀ (State.retryStep s r w bad) := by
  unfold State.retryStep
  repeat'
    first
      | with_reducible assumption
      | intro _
      | with_reducible apply Keeps.ite
      | with_reducible apply State.modRegion_keeps
      | with_reducible apply State.modGroup_keeps
      | with_reducible apply State.modPhase_keeps
      | with_reducible apply State.takeSpare_keeps
      | with_reducible apply State.faultActed_keeps
      | with_reducible apply Keeps.foldl
      | with_reducible apply Keeps.foldl_fst
      | with_reducible apply Keeps.foldl_snd
      | extract_lets
      | split
      | (dsimp +zetaDelta only; split)
      | with_reducible apply Keeps.mkU

theorem execKindlingStep_keeps {s₀ s : State} (h : Keeps s₀ s) (r : RegionIx) (ready : Bool) (badPhases : List PhaseIx) (now : Nat) :
    KeepsO s₀ (execKindlingStep r ready badPhases now s) := by
  unfold execKindlingStep
  repeat'
    first
      | with_reducible assumption
      | intro _
      | with_reducible apply KeepsO.next
      | exact KeepsO.fault _
      | with_reducible apply KeepsOpt.some
      | exact KeepsOpt.none
      | with_reducible apply KeepsO.ite
      | with_reducible apply KeepsOpt.ite
      | with_reducible apply Keeps.ite
      | with_reducible apply State.at__keeps
      | with_reducible apply State.modRegion_keeps
      | with_reducible apply State.pllTaken_keeps
      | with_reducible apply State.wakeDone_keeps
      | with_reducible apply State.settleWakes_keeps
      | with_reducible apply State.retryStep_keeps
      | with_reducible apply State.wakeFailed_keeps
      | extract_lets
      | split
      | (dsimp +zetaDelta only; split)
      | with_reducible apply Keeps.mkU

theorem State.clampCell_keeps {s₀ s : State} (h : Keeps s₀ s) (count : Nat) (c : Nat) :
    Keeps s₀ (State.clampCell s count c) := by
  unfold State.clampCell
  repeat'
    first
      | with_reducible assumption
      | intro _
      | with_reducible apply Keeps.ite
      | with_reducible apply State.modCell_keeps
      | extract_lets
      | split
      | (dsimp +zetaDelta only; split)
      | with_reducible apply Keeps.mkU

theorem State.latchClamp_keeps {s₀ s : State} (h : Keeps s₀ s) (c : Nat) :
    Keeps s₀ (State.latchClamp s c) := by
  unfold State.latchClamp
  repeat'
    first
      | with_reducible assumption
      | intro _
      | with_reducible apply Keeps.ite
      | with_reducible apply State.clampCell_keeps
      | with_reducible apply Keeps.foldl
      | with_reducible apply Keeps.foldl_fst
      | with_reducible apply Keeps.foldl_snd
      | extract_lets
      | split
      | (dsimp +zetaDelta only; split)
      | with_reducible apply Keeps.mkU

theorem State.endHolds_keeps {s₀ s : State} (h : Keeps s₀ s) :
    Keeps s₀ (State.endHolds s) := by
  unfold State.endHolds
  repeat'
    first
      | with_reducible assumption
      | intro _
      | with_reducible apply Keeps.ite
      | with_reducible apply State.completeAt_keeps
      | with_reducible apply State.endCalendar_keeps
      | with_reducible apply Keeps.foldl
      | with_reducible apply Keeps.foldl_fst
      | with_reducible apply Keeps.foldl_snd
      | extract_lets
      | split
      | (dsimp +zetaDelta only; split)
      | with_reducible apply Keeps.mkU

theorem State.thermalShutdown_keeps {s₀ s : State} (h : Keeps s₀ s) (n : Nat) :
    Keeps s₀ (State.thermalShutdown s n) := by
  unfold State.thermalShutdown
  repeat'
    first
      | with_reducible assumption
      | intro _
      | with_reducible apply Keeps.ite
      | with_reducible apply State.notice0_keeps
      | with_reducible apply State.ashCapture_keeps
      | with_reducible apply State.faultClamp_keeps
      | with_reducible apply State.latchClamp_keeps
      | with_reducible apply State.clearRegion_keeps
      | with_reducible apply State.modRegion_keeps
      | with_reducible apply State.modSite_keeps
      | with_reducible apply State.loseLink_keeps
      | with_reducible apply State.regionEnded_keeps
      | with_reducible apply State.finishBatch_keeps
      | with_reducible apply State.endHolds_keeps
      | with_reducible apply State.settleWakes_keeps
      | with_reducible apply Keeps.foldl
      | with_reducible apply Keeps.foldl_fst
      | with_reducible apply Keeps.foldl_snd
      | extract_lets
      | split
      | (dsimp +zetaDelta only; split)
      | with_reducible apply Keeps.mkU

theorem execThermalSample_keeps {s₀ s : State} (h : Keeps s₀ s) (readings : List SensorReading) (now : Nat) :
    KeepsO s₀ (execThermalSample readings now s) := by
  unfold execThermalSample
  repeat'
    first
      | with_reducible assumption
      | intro _
      | with_reducible apply KeepsO.next
      | exact KeepsO.fault _
      | with_reducible apply KeepsOpt.some
      | exact KeepsOpt.none
      | with_reducible apply KeepsO.ite
      | with_reducible apply KeepsOpt.ite
      | with_reducible apply Keeps.ite
      | with_reducible apply State.at__keeps
      | with_reducible apply State.thermalTaken_keeps
      | with_reducible apply State.thermalShutdown_keeps
      | extract_lets
      | split
      | (dsimp +zetaDelta only; split)
      | with_reducible apply Keeps.mkU

theorem execPhaseOpen_keeps {s₀ s : State} (h : Keeps s₀ s) (p : PhaseIx) (now : Nat) :
    KeepsO s₀ (execPhaseOpen p now s) := by
  unfold execPhaseOpen
  repeat'
    first
      | with_reducible assumption
      | intro _
      | with_reducible apply KeepsO.next
      | exact KeepsO.fault _
      | with_reducible apply KeepsOpt.some
      | exact KeepsOpt.none
      | with_reducible apply KeepsO.ite
      | with_reducible apply KeepsOpt.ite
      | with_reducible apply Keeps.ite
      | with_reducible apply State.at__keeps
      | with_reducible apply State.phaseOpens_keeps
      | with_reducible apply State.settleWakes_keeps
      | extract_lets
      | split
      | (dsimp +zetaDelta only; split)
      | with_reducible apply Keeps.mkU

theorem execPhaseSenseCheck_keeps {s₀ s : State} (h : Keeps s₀ s) (g : GroupIx) (miss : Option (Fin 9)) (now : Nat) :
    KeepsO s₀ (execPhaseSenseCheck g miss now s) := by
  unfold execPhaseSenseCheck
  repeat'
    first
      | with_reducible assumption
      | intro _
      | with_reducible apply KeepsO.next
      | exact KeepsO.fault _
      | with_reducible apply KeepsOpt.some
      | exact KeepsOpt.none
      | with_reducible apply KeepsO.ite
      | with_reducible apply KeepsOpt.ite
      | with_reducible apply Keeps.ite
      | with_reducible apply State.at__keeps
      | with_reducible apply State.senseCheck_keeps
      | with_reducible apply State.settleWakes_keeps
      | extract_lets
      | split
      | (dsimp +zetaDelta only; split)
      | with_reducible apply Keeps.mkU

end Sys2Proof.Machine
end

