-- ==== Sys2Proof/Laws/KeepsMatrix.lean ====
section
/-!
SUPPORT. What every operation of Machine/Matrix.lean keeps (Laws/Keeps.lean).
-/
namespace Sys2Proof.Machine

set_option Elab.async false
set_option linter.all false

theorem State.digestStep_keeps {s₀ s : State} (h : Keeps s₀ s) (c : Nat) (layer : Half) (operator : Half) (bytes : Bytes) (vals : Option (List FV)) :
    Keeps s₀ (State.digestStep s c layer operator bytes vals) := by
  unfold State.digestStep
  repeat'
    first
      | with_reducible assumption
      | intro _
      | with_reducible apply Keeps.ite
      | with_reducible apply Keeps.foldl
      | with_reducible apply Keeps.foldl_fst
      | with_reducible apply Keeps.foldl_snd
      | extract_lets
      | split
      | (dsimp +zetaDelta only; split)
      | with_reducible apply Keeps.mkU

end Sys2Proof.Machine
end

