-- ==== Sys2Proof/Laws/KeepsCollier.lean ====
section
/-!
SUPPORT. What every operation of Machine/Collier.lean keeps (Laws/Keeps.lean).
-/
namespace Sys2Proof.Machine

set_option Elab.async false
set_option linter.all false

theorem State.post_keeps {s₀ s : State} (h : Keeps s₀ s) (c : Nat) (t : Nat) (n : Nat) :
    Keeps s₀ (State.post s c t n) := by
  unfold State.post
  repeat'
    first
      | with_reducible assumption
      | intro _
      | with_reducible apply Keeps.ite
      | with_reducible apply State.cellFault_keeps
      | with_reducible apply State.modCell_keeps
      | extract_lets
      | split
      | (dsimp +zetaDelta only; split)
      | with_reducible apply Keeps.mkU

theorem State.malformed_keeps {s₀ s : State} (h : Keeps s₀ s) (c : Nat) :
    Keeps s₀ (State.malformed s c) := by
  unfold State.malformed
  repeat'
    first
      | with_reducible assumption
      | intro _
      | with_reducible apply Keeps.ite
      | with_reducible apply State.cellFault_keeps
      | extract_lets
      | split
      | (dsimp +zetaDelta only; split)
      | with_reducible apply Keeps.mkU

theorem State.endCheck_keeps {s₀ s : State} (h : Keeps s₀ s) (c : Nat) :
    Keeps s₀ (State.endCheck s c) := by
  unfold State.endCheck
  repeat'
    first
      | with_reducible assumption
      | intro _
      | with_reducible apply Keeps.ite
      | with_reducible apply State.malformed_keeps
      | extract_lets
      | split
      | (dsimp +zetaDelta only; split)
      | with_reducible apply Keeps.mkU

theorem State.beginIssue_keeps {s₀ s : State} (h : Keeps s₀ s) (c : Nat) (op : StepOp) (w : BitVec 256) :
    Keeps s₀ (State.beginIssue s c op w) := by
  unfold State.beginIssue
  repeat'
    first
      | with_reducible assumption
      | intro _
      | with_reducible apply Keeps.ite
      | with_reducible apply State.modCell_keeps
      | with_reducible apply State.cellEvent_keeps
      | extract_lets
      | split
      | (dsimp +zetaDelta only; split)
      | with_reducible apply Keeps.mkU

theorem State.endIssue_keeps {s₀ s : State} (h : Keeps s₀ s) (c : Nat) :
    Keeps s₀ (State.endIssue s c) := by
  unfold State.endIssue
  repeat'
    first
      | with_reducible assumption
      | intro _
      | with_reducible apply Keeps.ite
      | with_reducible apply State.modCell_keeps
      | with_reducible apply State.endCheck_keeps
      | extract_lets
      | split
      | (dsimp +zetaDelta only; split)
      | with_reducible apply Keeps.mkU

theorem State.issue_keeps {s₀ s : State} (h : Keeps s₀ s) (c : Nat) (op : StepOp) (act : State → BitVec 256 → State) (hact : ∀ v0 v1, Keeps s₀ v0 → Keeps s₀ (act v0 v1)) :
    Keeps s₀ (State.issue s c op act) := by
  unfold State.issue
  repeat'
    first
      | with_reducible assumption
      | intro _
      | with_reducible apply hact
      | with_reducible apply Keeps.ite
      | with_reducible apply State.malformed_keeps
      | with_reducible apply State.beginIssue_keeps
      | with_reducible apply State.endIssue_keeps
      | extract_lets
      | split
      | (dsimp +zetaDelta only; split)
      | with_reducible apply Keeps.mkU

theorem State.fly_keeps {s₀ s : State} (h : Keeps s₀ s) (c : Nat) (op : StepOp) (w : BitVec 256) (u : StepUse) (fx : List StepEffect) :
    Keeps s₀ (State.fly s c op w u fx) := by
  unfold State.fly
  repeat'
    first
      | with_reducible assumption
      | intro _
      | with_reducible apply Keeps.ite
      | with_reducible apply State.modCell_keeps
      | extract_lets
      | split
      | (dsimp +zetaDelta only; split)
      | with_reducible apply Keeps.mkU

theorem State.ctlDone_keeps {s₀ s : State} (h : Keeps s₀ s) (c : Nat) (w : BitVec 256) :
    Keeps s₀ (State.ctlDone s c w) := by
  unfold State.ctlDone
  repeat'
    first
      | with_reducible assumption
      | intro _
      | with_reducible apply Keeps.ite
      | with_reducible apply State.post_keeps
      | extract_lets
      | split
      | (dsimp +zetaDelta only; split)
      | with_reducible apply Keeps.mkU

theorem State.ledgerEvents_keeps {s₀ s : State} (h : Keeps s₀ s) (c : Nat) (n : Nat) :
    Keeps s₀ (State.ledgerEvents s c n) := by
  unfold State.ledgerEvents
  repeat'
    first
      | with_reducible assumption
      | intro _
      | with_reducible apply Keeps.ite
      | with_reducible apply State.modCell_keeps
      | with_reducible apply State.cellEvent_keeps
      | extract_lets
      | split
      | (dsimp +zetaDelta only; split)
      | with_reducible apply Keeps.mkU

theorem State.storeUe_keeps {s₀ s : State} (h : Keeps s₀ s) (c : Nat) (spans : List (Nat × Nat)) :
    Keeps s₀ (State.storeUe s c spans) := by
  unfold State.storeUe
  repeat'
    first
      | with_reducible assumption
      | intro _
      | with_reducible apply Keeps.ite
      | with_reducible apply State.draw_keeps
      | with_reducible apply State.cellFault_keeps
      | extract_lets
      | split
      | (dsimp +zetaDelta only; split)
      | with_reducible apply Keeps.mkU

theorem execMatmul_keeps {s₀ s : State} (h : Keeps s₀ s) (c : CellIx) :
    KeepsO s₀ (execMatmul c s) := by
  unfold execMatmul
  repeat'
    first
      | with_reducible assumption
      | intro _
      | with_reducible apply KeepsO.next
      | exact KeepsO.fault _
      | with_reducible apply KeepsOpt.some
      | exact KeepsOpt.none
      | with_reducible apply KeepsO.ite
      | with_reducible apply KeepsOpt.ite
      | with_reducible apply Keeps.ite
      | with_reducible apply State.issue_keeps
      | with_reducible apply State.fly_keeps
      | with_reducible apply State.storeUe_keeps
      | with_reducible apply State.modCell_keeps
      | with_reducible apply State.cellEvent_keeps
      | with_reducible apply State.ledgerEvents_keeps
      | extract_lets
      | split
      | (dsimp +zetaDelta only; split)
      | with_reducible apply Keeps.mkU

theorem execDrain_keeps {s₀ s : State} (h : Keeps s₀ s) (c : CellIx) :
    KeepsO s₀ (execDrain c s) := by
  unfold execDrain
  repeat'
    first
      | with_reducible assumption
      | intro _
      | with_reducible apply KeepsO.next
      | exact KeepsO.fault _
      | with_reducible apply KeepsOpt.some
      | exact KeepsOpt.none
      | with_reducible apply KeepsO.ite
      | with_reducible apply KeepsOpt.ite
      | with_reducible apply Keeps.ite
      | with_reducible apply State.issue_keeps
      | with_reducible apply State.digestStep_keeps
      | with_reducible apply State.fly_keeps
      | extract_lets
      | split
      | (dsimp +zetaDelta only; split)
      | with_reducible apply Keeps.mkU

theorem execVop_keeps {s₀ s : State} (h : Keeps s₀ s) (c : CellIx) :
    KeepsO s₀ (execVop c s) := by
  unfold execVop
  repeat'
    first
      | with_reducible assumption
      | intro _
      | with_reducible apply KeepsO.next
      | exact KeepsO.fault _
      | with_reducible apply KeepsOpt.some
      | exact KeepsOpt.none
      | with_reducible apply KeepsO.ite
      | with_reducible apply KeepsOpt.ite
      | with_reducible apply Keeps.ite
      | with_reducible apply State.issue_keeps
      | with_reducible apply State.fly_keeps
      | extract_lets
      | split
      | (dsimp +zetaDelta only; split)
      | with_reducible apply Keeps.mkU

theorem execVload_keeps {s₀ s : State} (h : Keeps s₀ s) (c : CellIx) :
    KeepsO s₀ (execVload c s) := by
  unfold execVload
  repeat'
    first
      | with_reducible assumption
      | intro _
      | with_reducible apply KeepsO.next
      | exact KeepsO.fault _
      | with_reducible apply KeepsOpt.some
      | exact KeepsOpt.none
      | with_reducible apply KeepsO.ite
      | with_reducible apply KeepsOpt.ite
      | with_reducible apply Keeps.ite
      | with_reducible apply State.issue_keeps
      | with_reducible apply State.fly_keeps
      | with_reducible apply State.storeUe_keeps
      | extract_lets
      | split
      | (dsimp +zetaDelta only; split)
      | with_reducible apply Keeps.mkU

theorem execVstore_keeps {s₀ s : State} (h : Keeps s₀ s) (c : CellIx) :
    KeepsO s₀ (execVstore c s) := by
  unfold execVstore
  repeat'
    first
      | with_reducible assumption
      | intro _
      | with_reducible apply KeepsO.next
      | exact KeepsO.fault _
      | with_reducible apply KeepsOpt.some
      | exact KeepsOpt.none
      | with_reducible apply KeepsO.ite
      | with_reducible apply KeepsOpt.ite
      | with_reducible apply Keeps.ite
      | with_reducible apply State.issue_keeps
      | with_reducible apply State.digestStep_keeps
      | with_reducible apply State.ledgerEvents_keeps
      | with_reducible apply State.fly_keeps
      | extract_lets
      | split
      | (dsimp +zetaDelta only; split)
      | with_reducible apply Keeps.mkU

theorem execRowcopy_keeps {s₀ s : State} (h : Keeps s₀ s) (c : CellIx) :
    KeepsO s₀ (execRowcopy c s) := by
  unfold execRowcopy
  repeat'
    first
      | with_reducible assumption
      | intro _
      | with_reducible apply KeepsO.next
      | exact KeepsO.fault _
      | with_reducible apply KeepsOpt.some
      | exact KeepsOpt.none
      | with_reducible apply KeepsO.ite
      | with_reducible apply KeepsOpt.ite
      | with_reducible apply Keeps.ite
      | with_reducible apply State.issue_keeps
      | with_reducible apply State.fly_keeps
      | extract_lets
      | split
      | (dsimp +zetaDelta only; split)
      | with_reducible apply Keeps.mkU

theorem execCtlRead_keeps {s₀ s : State} (h : Keeps s₀ s) (c : CellIx) :
    KeepsO s₀ (execCtlRead c s) := by
  unfold execCtlRead
  repeat'
    first
      | with_reducible assumption
      | intro _
      | with_reducible apply KeepsO.next
      | exact KeepsO.fault _
      | with_reducible apply KeepsOpt.some
      | exact KeepsOpt.none
      | with_reducible apply KeepsO.ite
      | with_reducible apply KeepsOpt.ite
      | with_reducible apply Keeps.ite
      | with_reducible apply State.issue_keeps
      | with_reducible apply State.fly_keeps
      | extract_lets
      | split
      | (dsimp +zetaDelta only; split)
      | with_reducible apply Keeps.mkU

theorem execCtlWrite_keeps {s₀ s : State} (h : Keeps s₀ s) (c : CellIx) :
    KeepsO s₀ (execCtlWrite c s) := by
  unfold execCtlWrite
  repeat'
    first
      | with_reducible assumption
      | intro _
      | with_reducible apply KeepsO.next
      | exact KeepsO.fault _
      | with_reducible apply KeepsOpt.some
      | exact KeepsOpt.none
      | with_reducible apply KeepsO.ite
      | with_reducible apply KeepsOpt.ite
      | with_reducible apply Keeps.ite
      | with_reducible apply State.issue_keeps
      | with_reducible apply State.modCell_keeps
      | with_reducible apply State.fly_keeps
      | extract_lets
      | split
      | (dsimp +zetaDelta only; split)
      | with_reducible apply Keeps.mkU

theorem execRickRead_keeps {s₀ s : State} (h : Keeps s₀ s) (c : CellIx) :
    KeepsO s₀ (execRickRead c s) := by
  unfold execRickRead
  repeat'
    first
      | with_reducible assumption
      | intro _
      | with_reducible apply KeepsO.next
      | exact KeepsO.fault _
      | with_reducible apply KeepsOpt.some
      | exact KeepsOpt.none
      | with_reducible apply KeepsO.ite
      | with_reducible apply KeepsOpt.ite
      | with_reducible apply Keeps.ite
      | with_reducible apply State.issue_keeps
      | with_reducible apply State.modCell_keeps
      | with_reducible apply State.fly_keeps
      | extract_lets
      | split
      | (dsimp +zetaDelta only; split)
      | with_reducible apply Keeps.mkU

theorem execWait_keeps {s₀ s : State} (h : Keeps s₀ s) (c : CellIx) :
    KeepsO s₀ (execWait c s) := by
  unfold execWait
  repeat'
    first
      | with_reducible assumption
      | intro _
      | with_reducible apply KeepsO.next
      | exact KeepsO.fault _
      | with_reducible apply KeepsOpt.some
      | exact KeepsOpt.none
      | with_reducible apply KeepsO.ite
      | with_reducible apply KeepsOpt.ite
      | with_reducible apply Keeps.ite
      | with_reducible apply State.issue_keeps
      | with_reducible apply State.waitOn_keeps
      | with_reducible apply State.fly_keeps
      | with_reducible apply State.modCell_keeps
      | with_reducible apply State.ctlDone_keeps
      | extract_lets
      | split
      | (dsimp +zetaDelta only; split)
      | with_reducible apply Keeps.mkU

theorem State.cellSignal_keeps {s₀ s : State} (h : Keeps s₀ s) (c : Nat) (unit : Nat) (addr : Nat) (n : Nat) (p : Party) :
    Keeps s₀ (State.cellSignal s c unit addr n p) := by
  unfold State.cellSignal
  repeat'
    first
      | with_reducible assumption
      | intro _
      | with_reducible apply Keeps.ite
      | with_reducible apply State.cellEvent_keeps
      | with_reducible apply State.signalCtr_keeps
      | with_reducible apply State.refuseToCell_keeps
      | with_reducible apply State.logUnsent_keeps
      | with_reducible apply State.sendSignal_keeps
      | extract_lets
      | split
      | (dsimp +zetaDelta only; split)
      | with_reducible apply Keeps.mkU

theorem execSignal_keeps {s₀ s : State} (h : Keeps s₀ s) (c : CellIx) :
    KeepsO s₀ (execSignal c s) := by
  unfold execSignal
  repeat'
    first
      | with_reducible assumption
      | intro _
      | with_reducible apply KeepsO.next
      | exact KeepsO.fault _
      | with_reducible apply KeepsOpt.some
      | exact KeepsOpt.none
      | with_reducible apply KeepsO.ite
      | with_reducible apply KeepsOpt.ite
      | with_reducible apply Keeps.ite
      | with_reducible apply State.issue_keeps
      | with_reducible apply State.cellSignal_keeps
      | with_reducible apply State.ctlDone_keeps
      | extract_lets
      | split
      | (dsimp +zetaDelta only; split)
      | with_reducible apply Keeps.mkU

theorem execSread_keeps {s₀ s : State} (h : Keeps s₀ s) (c : CellIx) :
    KeepsO s₀ (execSread c s) := by
  unfold execSread
  repeat'
    first
      | with_reducible assumption
      | intro _
      | with_reducible apply KeepsO.next
      | exact KeepsO.fault _
      | with_reducible apply KeepsOpt.some
      | exact KeepsOpt.none
      | with_reducible apply KeepsO.ite
      | with_reducible apply KeepsOpt.ite
      | with_reducible apply Keeps.ite
      | with_reducible apply State.issue_keeps
      | with_reducible apply State.modCell_keeps
      | with_reducible apply State.ctlDone_keeps
      | extract_lets
      | split
      | (dsimp +zetaDelta only; split)
      | with_reducible apply Keeps.mkU

theorem execToken_keeps {s₀ s : State} (h : Keeps s₀ s) (c : CellIx) :
    KeepsO s₀ (execToken c s) := by
  unfold execToken
  repeat'
    first
      | with_reducible assumption
      | intro _
      | with_reducible apply KeepsO.next
      | exact KeepsO.fault _
      | with_reducible apply KeepsOpt.some
      | exact KeepsOpt.none
      | with_reducible apply KeepsO.ite
      | with_reducible apply KeepsOpt.ite
      | with_reducible apply Keeps.ite
      | with_reducible apply State.issue_keeps
      | with_reducible apply State.ctlDone_keeps
      | extract_lets
      | split
      | (dsimp +zetaDelta only; split)
      | with_reducible apply Keeps.mkU

theorem execLset_keeps {s₀ s : State} (h : Keeps s₀ s) (c : CellIx) :
    KeepsO s₀ (execLset c s) := by
  unfold execLset
  repeat'
    first
      | with_reducible assumption
      | intro _
      | with_reducible apply KeepsO.next
      | exact KeepsO.fault _
      | with_reducible apply KeepsOpt.some
      | exact KeepsOpt.none
      | with_reducible apply KeepsO.ite
      | with_reducible apply KeepsOpt.ite
      | with_reducible apply Keeps.ite
      | with_reducible apply State.issue_keeps
      | with_reducible apply State.modCell_keeps
      | with_reducible apply State.ctlDone_keeps
      | extract_lets
      | split
      | (dsimp +zetaDelta only; split)
      | with_reducible apply Keeps.mkU

theorem execLadd_keeps {s₀ s : State} (h : Keeps s₀ s) (c : CellIx) :
    KeepsO s₀ (execLadd c s) := by
  unfold execLadd
  repeat'
    first
      | with_reducible assumption
      | intro _
      | with_reducible apply KeepsO.next
      | exact KeepsO.fault _
      | with_reducible apply KeepsOpt.some
      | exact KeepsOpt.none
      | with_reducible apply KeepsO.ite
      | with_reducible apply KeepsOpt.ite
      | with_reducible apply Keeps.ite
      | with_reducible apply State.issue_keeps
      | with_reducible apply State.modCell_keeps
      | with_reducible apply State.ctlDone_keeps
      | extract_lets
      | split
      | (dsimp +zetaDelta only; split)
      | with_reducible apply Keeps.mkU

theorem execLcopy_keeps {s₀ s : State} (h : Keeps s₀ s) (c : CellIx) :
    KeepsO s₀ (execLcopy c s) := by
  unfold execLcopy
  repeat'
    first
      | with_reducible assumption
      | intro _
      | with_reducible apply KeepsO.next
      | exact KeepsO.fault _
      | with_reducible apply KeepsOpt.some
      | exact KeepsOpt.none
      | with_reducible apply KeepsO.ite
      | with_reducible apply KeepsOpt.ite
      | with_reducible apply Keeps.ite
      | with_reducible apply State.issue_keeps
      | with_reducible apply State.modCell_keeps
      | with_reducible apply State.ctlDone_keeps
      | extract_lets
      | split
      | (dsimp +zetaDelta only; split)
      | with_reducible apply Keeps.mkU

theorem execDjnz_keeps {s₀ s : State} (h : Keeps s₀ s) (c : CellIx) :
    KeepsO s₀ (execDjnz c s) := by
  unfold execDjnz
  repeat'
    first
      | with_reducible assumption
      | intro _
      | with_reducible apply KeepsO.next
      | exact KeepsO.fault _
      | with_reducible apply KeepsOpt.some
      | exact KeepsOpt.none
      | with_reducible apply KeepsO.ite
      | with_reducible apply KeepsOpt.ite
      | with_reducible apply Keeps.ite
      | with_reducible apply State.issue_keeps
      | with_reducible apply State.modCell_keeps
      | with_reducible apply State.ctlDone_keeps
      | extract_lets
      | split
      | (dsimp +zetaDelta only; split)
      | with_reducible apply Keeps.mkU

theorem execJmp_keeps {s₀ s : State} (h : Keeps s₀ s) (c : CellIx) :
    KeepsO s₀ (execJmp c s) := by
  unfold execJmp
  repeat'
    first
      | with_reducible assumption
      | intro _
      | with_reducible apply KeepsO.next
      | exact KeepsO.fault _
      | with_reducible apply KeepsOpt.some
      | exact KeepsOpt.none
      | with_reducible apply KeepsO.ite
      | with_reducible apply KeepsOpt.ite
      | with_reducible apply Keeps.ite
      | with_reducible apply State.issue_keeps
      | with_reducible apply State.modCell_keeps
      | with_reducible apply State.ctlDone_keeps
      | extract_lets
      | split
      | (dsimp +zetaDelta only; split)
      | with_reducible apply Keeps.mkU

theorem execJz_keeps {s₀ s : State} (h : Keeps s₀ s) (c : CellIx) :
    KeepsO s₀ (execJz c s) := by
  unfold execJz
  repeat'
    first
      | with_reducible assumption
      | intro _
      | with_reducible apply KeepsO.next
      | exact KeepsO.fault _
      | with_reducible apply KeepsOpt.some
      | exact KeepsOpt.none
      | with_reducible apply KeepsO.ite
      | with_reducible apply KeepsOpt.ite
      | with_reducible apply Keeps.ite
      | with_reducible apply State.issue_keeps
      | with_reducible apply State.modCell_keeps
      | with_reducible apply State.ctlDone_keeps
      | extract_lets
      | split
      | (dsimp +zetaDelta only; split)
      | with_reducible apply Keeps.mkU

theorem execJltu_keeps {s₀ s : State} (h : Keeps s₀ s) (c : CellIx) :
    KeepsO s₀ (execJltu c s) := by
  unfold execJltu
  repeat'
    first
      | with_reducible assumption
      | intro _
      | with_reducible apply KeepsO.next
      | exact KeepsO.fault _
      | with_reducible apply KeepsOpt.some
      | exact KeepsOpt.none
      | with_reducible apply KeepsO.ite
      | with_reducible apply KeepsOpt.ite
      | with_reducible apply Keeps.ite
      | with_reducible apply State.issue_keeps
      | with_reducible apply State.modCell_keeps
      | with_reducible apply State.ctlDone_keeps
      | extract_lets
      | split
      | (dsimp +zetaDelta only; split)
      | with_reducible apply Keeps.mkU

theorem execMark_keeps {s₀ s : State} (h : Keeps s₀ s) (c : CellIx) :
    KeepsO s₀ (execMark c s) := by
  unfold execMark
  repeat'
    first
      | with_reducible assumption
      | intro _
      | with_reducible apply KeepsO.next
      | exact KeepsO.fault _
      | with_reducible apply KeepsOpt.some
      | exact KeepsOpt.none
      | with_reducible apply KeepsO.ite
      | with_reducible apply KeepsOpt.ite
      | with_reducible apply Keeps.ite
      | with_reducible apply State.issue_keeps
      | with_reducible apply State.modCell_keeps
      | with_reducible apply State.ctlDone_keeps
      | extract_lets
      | split
      | (dsimp +zetaDelta only; split)
      | with_reducible apply Keeps.mkU

theorem execHalt_keeps {s₀ s : State} (h : Keeps s₀ s) (c : CellIx) :
    KeepsO s₀ (execHalt c s) := by
  unfold execHalt
  repeat'
    first
      | with_reducible assumption
      | intro _
      | with_reducible apply KeepsO.next
      | exact KeepsO.fault _
      | with_reducible apply KeepsOpt.some
      | exact KeepsOpt.none
      | with_reducible apply KeepsO.ite
      | with_reducible apply KeepsOpt.ite
      | with_reducible apply Keeps.ite
      | with_reducible apply State.issue_keeps
      | with_reducible apply State.modCell_keeps
      | with_reducible apply State.fly_keeps
      | extract_lets
      | split
      | (dsimp +zetaDelta only; split)
      | with_reducible apply Keeps.mkU

theorem State.settleCell_keeps {s₀ s : State} (h : Keeps s₀ s) (c : Nat) :
    Keeps s₀ (State.settleCell s c) := by
  unfold State.settleCell
  repeat'
    first
      | with_reducible assumption
      | intro _
      | with_reducible apply Keeps.ite
      | with_reducible apply State.settleStop_keeps
      | extract_lets
      | split
      | (dsimp +zetaDelta only; split)
      | with_reducible apply Keeps.mkU

theorem execHaltComplete_keeps {s₀ s : State} (h : Keeps s₀ s) (c : CellIx) :
    KeepsO s₀ (execHaltComplete c s) := by
  unfold execHaltComplete
  repeat'
    first
      | with_reducible assumption
      | intro _
      | with_reducible apply KeepsO.next
      | exact KeepsO.fault _
      | with_reducible apply KeepsOpt.some
      | exact KeepsOpt.none
      | with_reducible apply KeepsO.ite
      | with_reducible apply KeepsOpt.ite
      | with_reducible apply Keeps.ite
      | with_reducible apply State.modCell_keeps
      | with_reducible apply State.post_keeps
      | with_reducible apply State.modBatch_keeps
      | with_reducible apply State.cellSignal_keeps
      | with_reducible apply State.settleCell_keeps
      | with_reducible apply Keeps.foldl
      | with_reducible apply Keeps.foldl_fst
      | with_reducible apply Keeps.foldl_snd
      | extract_lets
      | split
      | (dsimp +zetaDelta only; split)
      | with_reducible apply Keeps.mkU

theorem State.stepEffect_keeps {s₀ s : State} (h : Keeps s₀ s) (c : Nat) (e : StepEffect) :
    Keeps s₀ (State.stepEffect s c e) := by
  unfold State.stepEffect
  repeat'
    first
      | with_reducible assumption
      | intro _
      | with_reducible apply Keeps.ite
      | with_reducible apply State.modCell_keeps
      | with_reducible apply State.poke_keeps
      | with_reducible apply State.markWords_keeps
      | extract_lets
      | split
      | (dsimp +zetaDelta only; split)
      | with_reducible apply Keeps.mkU
      | with_reducible apply Keeps.foldl
      | with_reducible apply Keeps.foldl_fst
      | with_reducible apply Keeps.foldl_snd

theorem execStepComplete_keeps {s₀ s : State} (h : Keeps s₀ s) (c : CellIx) (k : Fin 2048) :
    KeepsO s₀ (execStepComplete c k s) := by
  unfold execStepComplete
  repeat'
    first
      | with_reducible assumption
      | intro _
      | with_reducible apply KeepsO.next
      | exact KeepsO.fault _
      | with_reducible apply KeepsOpt.some
      | exact KeepsOpt.none
      | with_reducible apply KeepsO.ite
      | with_reducible apply KeepsOpt.ite
      | with_reducible apply Keeps.ite
      | with_reducible apply State.modCell_keeps
      | with_reducible apply State.stepEffect_keeps
      | with_reducible apply State.post_keeps
      | with_reducible apply State.settleCell_keeps
      | with_reducible apply Keeps.foldl
      | with_reducible apply Keeps.foldl_fst
      | with_reducible apply Keeps.foldl_snd
      | extract_lets
      | split
      | (dsimp +zetaDelta only; split)
      | with_reducible apply Keeps.mkU

theorem execRampUpdate_keeps {s₀ s : State} (h : Keeps s₀ s) (c : RampCheck) :
    KeepsO s₀ (execRampUpdate c s) := by
  unfold execRampUpdate
  repeat'
    first
      | with_reducible assumption
      | intro _
      | with_reducible apply KeepsO.next
      | exact KeepsO.fault _
      | with_reducible apply KeepsOpt.some
      | exact KeepsOpt.none
      | with_reducible apply KeepsO.ite
      | with_reducible apply KeepsOpt.ite
      | with_reducible apply Keeps.ite
      | with_reducible apply State.modCell_keeps
      | extract_lets
      | split
      | (dsimp +zetaDelta only; split)
      | with_reducible apply Keeps.mkU

theorem execStoreScrub_keeps {s₀ s : State} (h : Keeps s₀ s) (c : CellIx) (row : Fin 3072) (find : ScrubFind) :
    KeepsO s₀ (execStoreScrub c row find s) := by
  unfold execStoreScrub
  repeat'
    first
      | with_reducible assumption
      | intro _
      | with_reducible apply KeepsO.next
      | exact KeepsO.fault _
      | with_reducible apply KeepsOpt.some
      | exact KeepsOpt.none
      | with_reducible apply KeepsO.ite
      | with_reducible apply KeepsOpt.ite
      | with_reducible apply Keeps.ite
      | with_reducible apply State.modWear_keeps
      | with_reducible apply State.cellEvent_keeps
      | with_reducible apply State.draw_keeps
      | with_reducible apply State.spoil_keeps
      | extract_lets
      | split
      | (dsimp +zetaDelta only; split)
      | with_reducible apply Keeps.mkU

theorem execLogicFault_keeps {s₀ s : State} (h : Keeps s₀ s) (c : CellIx) (retestPasses : Bool) :
    KeepsO s₀ (execLogicFault c retestPasses s) := by
  unfold execLogicFault
  repeat'
    first
      | with_reducible assumption
      | intro _
      | with_reducible apply KeepsO.next
      | exact KeepsO.fault _
      | with_reducible apply KeepsOpt.some
      | exact KeepsOpt.none
      | with_reducible apply KeepsO.ite
      | with_reducible apply KeepsOpt.ite
      | with_reducible apply Keeps.ite
      | with_reducible apply State.cellFault_keeps
      | extract_lets
      | split
      | (dsimp +zetaDelta only; split)
      | with_reducible apply Keeps.mkU

end Sys2Proof.Machine
end

