-- ==== Sys2Proof/Laws/KeepsEngines.lean ====
section
/-!
SUPPORT. What every operation of Machine/Engines.lean keeps (Laws/Keeps.lean).
-/
namespace Sys2Proof.Machine

set_option Elab.async false
set_option linter.all false

theorem State.modAe_keeps {s₀ s : State} (h : Keeps s₀ s) (c : Nat) (e : Nat) (f : Ae → Ae) :
    Keeps s₀ (State.modAe s c e f) := by
  unfold State.modAe
  repeat'
    first
      | with_reducible assumption
      | intro _
      | with_reducible apply Keeps.ite
      | with_reducible apply State.modCell_keeps
      | extract_lets
      | split
      | (dsimp +zetaDelta only; split)
      | with_reducible apply Keeps.mkU

theorem State.aeFault_keeps {s₀ s : State} (h : Keeps s₀ s) (c : Nat) (e : Nat) :
    Keeps s₀ (State.aeFault s c e) := by
  unfold State.aeFault
  repeat'
    first
      | with_reducible assumption
      | intro _
      | with_reducible apply Keeps.ite
      | with_reducible apply State.modAe_keeps
      | with_reducible apply State.cellFault_keeps
      | extract_lets
      | split
      | (dsimp +zetaDelta only; split)
      | with_reducible apply Keeps.mkU

theorem State.aeNacked_keeps {s₀ s : State} (h : Keeps s₀ s) (c : Nat) (e : Nat) (op : AeOp) (status : Nat) :
    Keeps s₀ (State.aeNacked s c e op status) := by
  unfold State.aeNacked
  repeat'
    first
      | with_reducible assumption
      | intro _
      | with_reducible apply Keeps.ite
      | with_reducible apply State.cellEvent_keeps
      | with_reducible apply State.cellItem_keeps
      | with_reducible apply State.modAe_keeps
      | with_reducible apply State.aeFault_keeps
      | extract_lets
      | split
      | (dsimp +zetaDelta only; split)
      | with_reducible apply Keeps.mkU

theorem State.aeIssue_keeps {s₀ s : State} (h : Keeps s₀ s) (c : Nat) (e : Nat) (op : AeOp) (layer : Half) (operator : Half) :
    Keeps s₀ (State.aeIssue s c e op layer operator) := by
  unfold State.aeIssue
  repeat'
    first
      | with_reducible assumption
      | intro _
      | with_reducible apply Keeps.ite
      | with_reducible apply State.takeTag_keeps
      | with_reducible apply State.modAe_keeps
      | with_reducible apply State.aeNacked_keeps
      | with_reducible apply State.cellEvent_keeps
      | with_reducible apply State.issueOp_keeps
      | extract_lets
      | split
      | (dsimp +zetaDelta only; split)
      | with_reducible apply Keeps.mkU

theorem State.aePump_keeps {s₀ s : State} (h : Keeps s₀ s) (c : Nat) (e : Nat) (n : Nat) : Keeps s₀ (s.aePump c e n) := by
  induction n generalizing s with
  | zero => exact h
  | succ n ih =>
    rw [State.aePump]
    repeat'
      first
        | with_reducible assumption
        | intro _
        | with_reducible apply ih
        | with_reducible apply Keeps.ite
        | with_reducible apply State.modAe_keeps
        | with_reducible apply State.aeIssue_keeps
        | extract_lets
        | split
        | (dsimp +zetaDelta only; split)
        | with_reducible apply Keeps.mkU

theorem State.beginEntry_keeps {s₀ s : State} (h : Keeps s₀ s) (c : Nat) (e : Nat) (w : BitVec 512) :
    Keeps s₀ (State.beginEntry s c e w) := by
  unfold State.beginEntry
  repeat'
    first
      | with_reducible assumption
      | intro _
      | with_reducible apply Keeps.ite
      | with_reducible apply State.modCell_keeps
      | with_reducible apply State.post_keeps
      | with_reducible apply State.modAe_keeps
      | extract_lets
      | split
      | (dsimp +zetaDelta only; split)
      | with_reducible apply Keeps.mkU

theorem State.aeStart_keeps {s₀ s : State} (h : Keeps s₀ s) (c : Nat) (e : Nat) (kind : Nat) (act : State → BitVec 512 → Nat → Nat → State) (hact : ∀ v0 v1 v2 v3, Keeps s₀ v0 → Keeps s₀ (act v0 v1 v2 v3)) :
    Keeps s₀ (State.aeStart s c e kind act) := by
  unfold State.aeStart
  repeat'
    first
      | with_reducible assumption
      | intro _
      | with_reducible apply hact
      | with_reducible apply Keeps.ite
      | with_reducible apply State.beginEntry_keeps
      | extract_lets
      | split
      | (dsimp +zetaDelta only; split)
      | with_reducible apply Keeps.mkU

theorem State.aeQueue_keeps {s₀ s : State} (h : Keeps s₀ s) (c : Nat) (e : Nat) (id : Nat) (ops : List AeOp) :
    Keeps s₀ (State.aeQueue s c e id ops) := by
  unfold State.aeQueue
  repeat'
    first
      | with_reducible assumption
      | intro _
      | with_reducible apply Keeps.ite
      | with_reducible apply State.modAe_keeps
      | with_reducible apply State.aePump_keeps
      | extract_lets
      | split
      | (dsimp +zetaDelta only; split)
      | with_reducible apply Keeps.mkU

theorem State.aeMove_keeps {s₀ s : State} (h : Keeps s₀ s) (c : Nat) (e : Nat) (isLoad : Bool) (w : BitVec 512) (r : Nat) (id : Nat) :
    Keeps s₀ (State.aeMove s c e isLoad w r id) := by
  unfold State.aeMove
  repeat'
    first
      | with_reducible assumption
      | intro _
      | with_reducible apply Keeps.ite
      | with_reducible apply State.aeQueue_keeps
      | extract_lets
      | split
      | (dsimp +zetaDelta only; split)
      | with_reducible apply Keeps.mkU

theorem execGet_keeps {s₀ s : State} (h : Keeps s₀ s) (c : CellIx) (e : AeIx) :
    KeepsO s₀ (execGet c e s) := by
  unfold execGet
  repeat'
    first
      | with_reducible assumption
      | intro _
      | with_reducible apply KeepsO.next
      | exact KeepsO.fault _
      | with_reducible apply KeepsOpt.some
      | exact KeepsOpt.none
      | with_reducible apply KeepsO.ite
      | with_reducible apply KeepsOpt.ite
      | with_reducible apply Keeps.ite
      | with_reducible apply State.aeStart_keeps
      | with_reducible apply State.aeMove_keeps
      | extract_lets
      | split
      | (dsimp +zetaDelta only; split)
      | with_reducible apply Keeps.mkU

theorem execPut_keeps {s₀ s : State} (h : Keeps s₀ s) (c : CellIx) (e : AeIx) :
    KeepsO s₀ (execPut c e s) := by
  unfold execPut
  repeat'
    first
      | with_reducible assumption
      | intro _
      | with_reducible apply KeepsO.next
      | exact KeepsO.fault _
      | with_reducible apply KeepsOpt.some
      | exact KeepsOpt.none
      | with_reducible apply KeepsO.ite
      | with_reducible apply KeepsOpt.ite
      | with_reducible apply Keeps.ite
      | with_reducible apply State.aeStart_keeps
      | with_reducible apply State.aeMove_keeps
      | extract_lets
      | split
      | (dsimp +zetaDelta only; split)
      | with_reducible apply Keeps.mkU

theorem State.aeIndirect_keeps {s₀ s : State} (h : Keeps s₀ s) (c : Nat) (e : Nat) (isLoad : Bool) (w : BitVec 512) (r : Nat) (id : Nat) :
    Keeps s₀ (State.aeIndirect s c e isLoad w r id) := by
  unfold State.aeIndirect
  repeat'
    first
      | with_reducible assumption
      | intro _
      | with_reducible apply Keeps.ite
      | with_reducible apply State.storeUe_keeps
      | with_reducible apply State.aeFault_keeps
      | with_reducible apply State.cellEvent_keeps
      | with_reducible apply State.pokeZero_keeps
      | with_reducible apply State.aeQueue_keeps
      | with_reducible apply Keeps.foldl
      | with_reducible apply Keeps.foldl_fst
      | with_reducible apply Keeps.foldl_snd
      | extract_lets
      | split
      | (dsimp +zetaDelta only; split)
      | with_reducible apply Keeps.mkU

theorem execGetInd_keeps {s₀ s : State} (h : Keeps s₀ s) (c : CellIx) (e : AeIx) :
    KeepsO s₀ (execGetInd c e s) := by
  unfold execGetInd
  repeat'
    first
      | with_reducible assumption
      | intro _
      | with_reducible apply KeepsO.next
      | exact KeepsO.fault _
      | with_reducible apply KeepsOpt.some
      | exact KeepsOpt.none
      | with_reducible apply KeepsO.ite
      | with_reducible apply KeepsOpt.ite
      | with_reducible apply Keeps.ite
      | with_reducible apply State.aeStart_keeps
      | with_reducible apply State.aeIndirect_keeps
      | extract_lets
      | split
      | (dsimp +zetaDelta only; split)
      | with_reducible apply Keeps.mkU

theorem execPutInd_keeps {s₀ s : State} (h : Keeps s₀ s) (c : CellIx) (e : AeIx) :
    KeepsO s₀ (execPutInd c e s) := by
  unfold execPutInd
  repeat'
    first
      | with_reducible assumption
      | intro _
      | with_reducible apply KeepsO.next
      | exact KeepsO.fault _
      | with_reducible apply KeepsOpt.some
      | exact KeepsOpt.none
      | with_reducible apply KeepsO.ite
      | with_reducible apply KeepsOpt.ite
      | with_reducible apply Keeps.ite
      | with_reducible apply State.aeStart_keeps
      | with_reducible apply State.aeIndirect_keeps
      | extract_lets
      | split
      | (dsimp +zetaDelta only; split)
      | with_reducible apply Keeps.mkU

theorem execAeSignal_keeps {s₀ s : State} (h : Keeps s₀ s) (c : CellIx) (e : AeIx) :
    KeepsO s₀ (execAeSignal c e s) := by
  unfold execAeSignal
  repeat'
    first
      | with_reducible assumption
      | intro _
      | with_reducible apply KeepsO.next
      | exact KeepsO.fault _
      | with_reducible apply KeepsOpt.some
      | exact KeepsOpt.none
      | with_reducible apply KeepsO.ite
      | with_reducible apply KeepsOpt.ite
      | with_reducible apply Keeps.ite
      | with_reducible apply State.aeStart_keeps
      | with_reducible apply State.cellSignal_keeps
      | extract_lets
      | split
      | (dsimp +zetaDelta only; split)
      | with_reducible apply Keeps.mkU

theorem execAeWait_keeps {s₀ s : State} (h : Keeps s₀ s) (c : CellIx) (e : AeIx) :
    KeepsO s₀ (execAeWait c e s) := by
  unfold execAeWait
  repeat'
    first
      | with_reducible assumption
      | intro _
      | with_reducible apply KeepsO.next
      | exact KeepsO.fault _
      | with_reducible apply KeepsOpt.some
      | exact KeepsOpt.none
      | with_reducible apply KeepsO.ite
      | with_reducible apply KeepsOpt.ite
      | with_reducible apply Keeps.ite
      | with_reducible apply State.aeStart_keeps
      | with_reducible apply State.waitOn_keeps
      | with_reducible apply State.modAe_keeps
      | extract_lets
      | split
      | (dsimp +zetaDelta only; split)
      | with_reducible apply Keeps.mkU

theorem execAeEnd_keeps {s₀ s : State} (h : Keeps s₀ s) (c : CellIx) (e : AeIx) :
    KeepsO s₀ (execAeEnd c e s) := by
  unfold execAeEnd
  repeat'
    first
      | with_reducible assumption
      | intro _
      | with_reducible apply KeepsO.next
      | exact KeepsO.fault _
      | with_reducible apply KeepsOpt.some
      | exact KeepsOpt.none
      | with_reducible apply KeepsO.ite
      | with_reducible apply KeepsOpt.ite
      | with_reducible apply Keeps.ite
      | with_reducible apply State.modAe_keeps
      | extract_lets
      | split
      | (dsimp +zetaDelta only; split)
      | with_reducible apply Keeps.mkU

theorem State.writeRow_keeps {s₀ s : State} (h : Keeps s₀ s) (key : Nat) (bs : Bytes) (marks : List (Nat × Bool)) :
    Keeps s₀ (State.writeRow s key bs marks) := by
  unfold State.writeRow
  repeat'
    first
      | with_reducible assumption
      | intro _
      | with_reducible apply Keeps.ite
      | with_reducible apply State.poke_keeps
      | with_reducible apply State.markWords_keeps
      | extract_lets
      | split
      | (dsimp +zetaDelta only; split)
      | with_reducible apply Keeps.mkU
      | with_reducible apply Keeps.foldl
      | with_reducible apply Keeps.foldl_fst
      | with_reducible apply Keeps.foldl_snd

theorem State.meshSend_keeps {s₀ s : State} (h : Keeps s₀ s) (c : Nat) (w : BitVec 512) (r : Nat) :
    Keeps s₀ (State.meshSend s c w r) := by
  unfold State.meshSend
  repeat'
    first
      | with_reducible assumption
      | intro _
      | with_reducible apply Keeps.ite
      | with_reducible apply State.modCd_keeps
      | with_reducible apply Keeps.foldl
      | with_reducible apply Keeps.foldl_fst
      | with_reducible apply Keeps.foldl_snd
      | extract_lets
      | split
      | (dsimp +zetaDelta only; split)
      | with_reducible apply Keeps.mkU

theorem State.checkRow_keeps {s₀ s : State} (h : Keeps s₀ s) (c : Nat) (link : Nat) (key : Nat) (errs : List (Nat × Bool)) :
    Keeps s₀ (State.checkRow s c link key errs) := by
  unfold State.checkRow
  repeat'
    first
      | with_reducible assumption
      | intro _
      | with_reducible apply Keeps.ite
      | with_reducible apply State.markWords_keeps
      | with_reducible apply State.modWear_keeps
      | extract_lets
      | split
      | (dsimp +zetaDelta only; split)
      | with_reducible apply Keeps.mkU

theorem State.meshRecv_keeps {s₀ s : State} (h : Keeps s₀ s) (c : Nat) (w : BitVec 512) (r : Nat) (errs : List (Nat × Bool)) :
    Keeps s₀ (State.meshRecv s c w r errs) := by
  unfold State.meshRecv
  repeat'
    first
      | with_reducible assumption
      | intro _
      | with_reducible apply Keeps.ite
      | with_reducible apply State.writeRow_keeps
      | with_reducible apply State.checkRow_keeps
      | with_reducible apply State.modCd_keeps
      | with_reducible apply Keeps.foldl
      | with_reducible apply Keeps.foldl_fst
      | with_reducible apply Keeps.foldl_snd
      | extract_lets
      | split
      | (dsimp +zetaDelta only; split)
      | with_reducible apply Keeps.mkU

theorem State.vertical_keeps {s₀ s : State} (h : Keeps s₀ s) (c : Nat) (send : Bool) (w : BitVec 512) (r : Nat) :
    Keeps s₀ (State.vertical s c send w r) := by
  unfold State.vertical
  repeat'
    first
      | with_reducible assumption
      | intro _
      | with_reducible apply Keeps.ite
      | with_reducible apply State.modCd_keeps
      | with_reducible apply State.writeRow_keeps
      | with_reducible apply Keeps.foldl
      | with_reducible apply Keeps.foldl_fst
      | with_reducible apply Keeps.foldl_snd
      | extract_lets
      | split
      | (dsimp +zetaDelta only; split)
      | with_reducible apply Keeps.mkU

theorem State.schedMove_keeps {s₀ s : State} (h : Keeps s₀ s) (c : Nat) (e : Nat) (send : Bool) (w : BitVec 512) (r : Nat) (k : Nat) (errs : List (Nat × Bool)) :
    Keeps s₀ (State.schedMove s c e send w r k errs) := by
  unfold State.schedMove
  repeat'
    first
      | with_reducible assumption
      | intro _
      | with_reducible apply Keeps.ite
      | with_reducible apply State.cellEvent_keeps
      | with_reducible apply State.vertical_keeps
      | with_reducible apply State.meshSend_keeps
      | with_reducible apply State.meshRecv_keeps
      | with_reducible apply State.cellFault_keeps
      | extract_lets
      | split
      | (dsimp +zetaDelta only; split)
      | with_reducible apply Keeps.mkU

theorem execSchedRecv_keeps {s₀ s : State} (h : Keeps s₀ s) (c : CellIx) (e : RecvRepeat) :
    KeepsO s₀ (execSchedRecv c e s) := by
  unfold execSchedRecv
  repeat'
    first
      | with_reducible assumption
      | intro _
      | with_reducible apply KeepsO.next
      | exact KeepsO.fault _
      | with_reducible apply KeepsOpt.some
      | exact KeepsOpt.none
      | with_reducible apply KeepsO.ite
      | with_reducible apply KeepsOpt.ite
      | with_reducible apply Keeps.ite
      | with_reducible apply State.aeStart_keeps
      | with_reducible apply State.schedMove_keeps
      | extract_lets
      | split
      | (dsimp +zetaDelta only; split)
      | with_reducible apply Keeps.mkU

theorem execSchedSend_keeps {s₀ s : State} (h : Keeps s₀ s) (c : CellIx) (e : AeIx) :
    KeepsO s₀ (execSchedSend c e s) := by
  unfold execSchedSend
  repeat'
    first
      | with_reducible assumption
      | intro _
      | with_reducible apply KeepsO.next
      | exact KeepsO.fault _
      | with_reducible apply KeepsOpt.some
      | exact KeepsOpt.none
      | with_reducible apply KeepsO.ite
      | with_reducible apply KeepsOpt.ite
      | with_reducible apply Keeps.ite
      | with_reducible apply State.aeStart_keeps
      | with_reducible apply State.schedMove_keeps
      | extract_lets
      | split
      | (dsimp +zetaDelta only; split)
      | with_reducible apply Keeps.mkU

theorem execAeSchedDeadline_keeps {s₀ s : State} (h : Keeps s₀ s) (c : CellIx) (e : AeIx) :
    KeepsO s₀ (execAeSchedDeadline c e s) := by
  unfold execAeSchedDeadline
  repeat'
    first
      | with_reducible assumption
      | intro _
      | with_reducible apply KeepsO.next
      | exact KeepsO.fault _
      | with_reducible apply KeepsOpt.some
      | exact KeepsOpt.none
      | with_reducible apply KeepsO.ite
      | with_reducible apply KeepsOpt.ite
      | with_reducible apply Keeps.ite
      | with_reducible apply State.aeFault_keeps
      | extract_lets
      | split
      | (dsimp +zetaDelta only; split)
      | with_reducible apply Keeps.mkU

theorem execAeActionComplete_keeps {s₀ s : State} (h : Keeps s₀ s) (c : CellIx) (e : AeIx) :
    KeepsO s₀ (execAeActionComplete c e s) := by
  unfold execAeActionComplete
  repeat'
    first
      | with_reducible assumption
      | intro _
      | with_reducible apply KeepsO.next
      | exact KeepsO.fault _
      | with_reducible apply KeepsOpt.some
      | exact KeepsOpt.none
      | with_reducible apply KeepsO.ite
      | with_reducible apply KeepsOpt.ite
      | with_reducible apply Keeps.ite
      | with_reducible apply State.modAe_keeps
      | with_reducible apply State.post_keeps
      | extract_lets
      | split
      | (dsimp +zetaDelta only; split)
      | with_reducible apply Keeps.mkU

theorem State.aeAnswered_keeps {s₀ s : State} (h : Keeps s₀ s) (c : Nat) (e : Nat) (tag : Word) (bs : Bytes) (poison : Bool) :
    Keeps s₀ (State.aeAnswered s c e tag bs poison) := by
  unfold State.aeAnswered
  repeat'
    first
      | with_reducible assumption
      | intro _
      | with_reducible apply Keeps.ite
      | with_reducible apply State.tally_keeps
      | with_reducible apply State.pokePoison_keeps
      | with_reducible apply State.poke_keeps
      | with_reducible apply State.modAe_keeps
      | with_reducible apply State.aePump_keeps
      | with_reducible apply State.settleCell_keeps
      | extract_lets
      | split
      | (dsimp +zetaDelta only; split)
      | with_reducible apply Keeps.mkU

theorem State.aeRefused_keeps {s₀ s : State} (h : Keeps s₀ s) (c : Nat) (e : Nat) (tag : Word) (status : Nat) :
    Keeps s₀ (State.aeRefused s c e tag status) := by
  unfold State.aeRefused
  repeat'
    first
      | with_reducible assumption
      | intro _
      | with_reducible apply Keeps.ite
      | with_reducible apply State.tally_keeps
      | with_reducible apply State.aeNacked_keeps
      | with_reducible apply State.modAe_keeps
      | with_reducible apply State.aePump_keeps
      | with_reducible apply State.settleCell_keeps
      | extract_lets
      | split
      | (dsimp +zetaDelta only; split)
      | with_reducible apply Keeps.mkU

theorem State.opDone_keeps {s₀ s : State} (h : Keeps s₀ s) (unit : Half) (tag : Word) :
    Keeps s₀ (State.opDone s unit tag) := by
  unfold State.opDone
  repeat'
    first
      | with_reducible assumption
      | intro _
      | with_reducible apply Keeps.ite
      | with_reducible apply State.freeWindow_keeps
      | with_reducible apply State.pumpWindows_keeps
      | extract_lets
      | split
      | (dsimp +zetaDelta only; split)
      | with_reducible apply Keeps.mkU

theorem execOpNack_keeps {s₀ s : State} (h : Keeps s₀ s) (c : CellIx) (e : AeIx) (tag : Word) (status : Byte) :
    KeepsO s₀ (execOpNack c e tag status s) := by
  unfold execOpNack
  repeat'
    first
      | with_reducible assumption
      | intro _
      | with_reducible apply KeepsO.next
      | exact KeepsO.fault _
      | with_reducible apply KeepsOpt.some
      | exact KeepsOpt.none
      | with_reducible apply KeepsO.ite
      | with_reducible apply KeepsOpt.ite
      | with_reducible apply Keeps.ite
      | with_reducible apply State.opDone_keeps
      | with_reducible apply State.aeRefused_keeps
      | extract_lets
      | split
      | (dsimp +zetaDelta only; split)
      | with_reducible apply Keeps.mkU

theorem execAeNackRetry_keeps {s₀ s : State} (h : Keeps s₀ s) (c : CellIx) (e : AeIx) (tag : Word) (now : Nat) :
    KeepsO s₀ (execAeNackRetry c e tag now s) := by
  unfold execAeNackRetry
  repeat'
    first
      | with_reducible assumption
      | intro _
      | with_reducible apply KeepsO.next
      | exact KeepsO.fault _
      | with_reducible apply KeepsOpt.some
      | exact KeepsOpt.none
      | with_reducible apply KeepsO.ite
      | with_reducible apply KeepsOpt.ite
      | with_reducible apply Keeps.ite
      | with_reducible apply State.at__keeps
      | with_reducible apply State.modAe_keeps
      | with_reducible apply State.aeIssue_keeps
      | extract_lets
      | split
      | (dsimp +zetaDelta only; split)
      | with_reducible apply Keeps.mkU

theorem State.wake_keeps {s₀ s : State} (h : Keeps s₀ s) (w : Waiter) :
    Keeps s₀ (State.wake s w) := by
  unfold State.wake
  repeat'
    first
      | with_reducible assumption
      | intro _
      | with_reducible apply Keeps.ite
      | with_reducible apply State.modCell_keeps
      | with_reducible apply State.post_keeps
      | with_reducible apply State.endCheck_keeps
      | with_reducible apply State.modAe_keeps
      | with_reducible apply Keeps.foldl
      | with_reducible apply Keeps.foldl_fst
      | with_reducible apply Keeps.foldl_snd
      | extract_lets
      | split
      | (dsimp +zetaDelta only; split)
      | with_reducible apply Keeps.mkU

theorem execWaitSatisfied_keeps {s₀ s : State} (h : Keeps s₀ s) (ctr : CtrIx) :
    KeepsO s₀ (execWaitSatisfied ctr s) := by
  unfold execWaitSatisfied
  repeat'
    first
      | with_reducible assumption
      | intro _
      | with_reducible apply KeepsO.next
      | exact KeepsO.fault _
      | with_reducible apply KeepsOpt.some
      | exact KeepsOpt.none
      | with_reducible apply KeepsO.ite
      | with_reducible apply KeepsOpt.ite
      | with_reducible apply Keeps.ite
      | with_reducible apply State.evalWaits_keeps
      | with_reducible apply State.wake_keeps
      | with_reducible apply Keeps.foldl
      | with_reducible apply Keeps.foldl_fst
      | with_reducible apply Keeps.foldl_snd
      | extract_lets
      | split
      | (dsimp +zetaDelta only; split)
      | with_reducible apply Keeps.mkU

end Sys2Proof.Machine
end

