-- ==== Sys2Proof/Laws/KeepsAnswers.lean ====
section
/-!
SUPPORT. What every operation of Machine/Answers.lean keeps (Laws/Keeps.lean).
-/
namespace Sys2Proof.Machine

set_option Elab.async false
set_option linter.all false

theorem State.storeAnswer_keeps {s₀ s : State} (h : Keeps s₀ s) (turf : Nat) (p : Packet) (operand : BitVec 128 := 0) :
    Keeps s₀ (State.storeAnswer s turf p operand) := by
  unfold State.storeAnswer
  repeat'
    first
      | with_reducible assumption
      | intro _
      | with_reducible apply Keeps.ite
      | with_reducible apply State.ackReq_keeps
      | with_reducible apply State.sendArrival_keeps
      | extract_lets
      | split
      | (dsimp +zetaDelta only; split)
      | with_reducible apply Keeps.mkU

theorem State.atomDone_keeps {s₀ s : State} (h : Keeps s₀ s) (turf : Nat) (p : Packet) (old : BitVec 128) (range : Bool) :
    Keeps s₀ (State.atomDone s turf p old range) := by
  unfold State.atomDone
  repeat'
    first
      | with_reducible assumption
      | intro _
      | with_reducible apply Keeps.ite
      | with_reducible apply State.queueDyn_keeps
      | extract_lets
      | split
      | (dsimp +zetaDelta only; split)
      | with_reducible apply Keeps.mkU

theorem State.resendAnswer_keeps {s₀ s : State} (h : Keeps s₀ s) (turf : Nat) (p : Packet) (a : Packet) :
    Keeps s₀ (State.resendAnswer s turf p a) := by
  unfold State.resendAnswer
  repeat'
    first
      | with_reducible assumption
      | intro _
      | with_reducible apply Keeps.ite
      | with_reducible apply State.queueDyn_keeps
      | extract_lets
      | split
      | (dsimp +zetaDelta only; split)
      | with_reducible apply Keeps.mkU

end Sys2Proof.Machine
end

