-- ==== Sys2Proof/Laws/KeepsFar.lean ====
section
/-!
SUPPORT. What every operation of Machine/Far.lean keeps (Laws/Keeps.lean).
-/
namespace Sys2Proof.Machine

set_option Elab.async false
set_option linter.all false

theorem State.sendCmd_keeps {s₀ s : State} (h : Keeps s₀ s) (l : Nat) (c : FarCmd) :
    Keeps s₀ (State.sendCmd s l c) := by
  unfold State.sendCmd
  repeat'
    first
      | with_reducible assumption
      | intro _
      | with_reducible apply Keeps.ite
      | with_reducible apply State.modLink_keeps
      | with_reducible apply State.sendFrame_keeps
      | with_reducible apply Keeps.foldl
      | with_reducible apply Keeps.foldl_fst
      | with_reducible apply Keeps.foldl_snd
      | extract_lets
      | split
      | (dsimp +zetaDelta only; split)
      | with_reducible apply Keeps.mkU

theorem State.pumpFar_keeps {s₀ s : State} (h : Keeps s₀ s) (l : Nat) (n : Nat) : Keeps s₀ (s.pumpFar l n) := by
  induction n generalizing s with
  | zero => exact h
  | succ n ih =>
    rw [State.pumpFar]
    repeat'
      first
        | with_reducible assumption
        | intro _
        | with_reducible apply ih
        | with_reducible apply Keeps.ite
        | with_reducible apply State.sendCmd_keeps
        | extract_lets
        | split
        | (dsimp +zetaDelta only; split)
        | with_reducible apply Keeps.mkU

theorem State.queueCmd_keeps {s₀ s : State} (h : Keeps s₀ s) (l : Nat) (mk : Nat → FarCmd) :
    Keeps s₀ (State.queueCmd s l mk) := by
  unfold State.queueCmd
  repeat'
    first
      | with_reducible assumption
      | intro _
      | with_reducible apply Keeps.ite
      | with_reducible apply State.modLink_keeps
      | with_reducible apply State.pumpFar_keeps
      | extract_lets
      | split
      | (dsimp +zetaDelta only; split)
      | with_reducible apply Keeps.mkU

theorem State.farRequest_keeps {s₀ s : State} (h : Keeps s₀ s) (turf : Nat) (p : Packet) (u : Nat) (off : Nat) :
    Keeps s₀ (State.farRequest s turf p u off) := by
  unfold State.farRequest
  repeat'
    first
      | with_reducible assumption
      | intro _
      | with_reducible apply Keeps.ite
      | with_reducible apply State.nackReq_keeps
      | with_reducible apply State.queueCmd_keeps
      | with_reducible apply Keeps.foldl
      | with_reducible apply Keeps.foldl_fst
      | with_reducible apply Keeps.foldl_snd
      | extract_lets
      | split
      | (dsimp +zetaDelta only; split)
      | with_reducible apply Keeps.mkU

theorem State.farAnswer_keeps {s₀ s : State} (h : Keeps s₀ s) (o : FarOp) :
    Keeps s₀ (State.farAnswer s o) := by
  unfold State.farAnswer
  repeat'
    first
      | with_reducible assumption
      | intro _
      | with_reducible apply Keeps.ite
      | with_reducible apply State.nackReq_keeps
      | with_reducible apply State.dataReq_keeps
      | with_reducible apply State.storeAnswer_keeps
      | with_reducible apply State.atomDone_keeps
      | extract_lets
      | split
      | (dsimp +zetaDelta only; split)
      | with_reducible apply Keeps.mkU

theorem State.farPart_keeps {s₀ s : State} (h : Keeps s₀ s) (id : Nat) (gran : Nat) (data : Bytes) (poison : Bool) (status : Nat) (old : BitVec 128) (range : Bool) :
    Keeps s₀ (State.farPart s id gran data poison status old range) := by
  unfold State.farPart
  repeat'
    first
      | with_reducible assumption
      | intro _
      | with_reducible apply Keeps.ite
      | with_reducible apply State.farAnswer_keeps
      | extract_lets
      | split
      | (dsimp +zetaDelta only; split)
      | with_reducible apply Keeps.mkU

theorem State.modFarBillet_keeps {s₀ s : State} (h : Keeps s₀ s) (u : Nat) (port : Nat) (slot : Nat) (write : Bool) (f : FarBillet → FarBillet) :
    Keeps s₀ (State.modFarBillet s u port slot write f) := by
  unfold State.modFarBillet
  repeat'
    first
      | with_reducible assumption
      | intro _
      | with_reducible apply Keeps.ite
      | with_reducible apply State.modFmu_keeps
      | extract_lets
      | split
      | (dsimp +zetaDelta only; split)
      | with_reducible apply Keeps.mkU

theorem State.dropFarBillet_keeps {s₀ s : State} (h : Keeps s₀ s) (u : Nat) (port : Nat) (slot : Nat) :
    Keeps s₀ (State.dropFarBillet s u port slot) := by
  unfold State.dropFarBillet
  repeat'
    first
      | with_reducible assumption
      | intro _
      | with_reducible apply Keeps.ite
      | with_reducible apply State.modFmu_keeps
      | extract_lets
      | split
      | (dsimp +zetaDelta only; split)
      | with_reducible apply Keeps.mkU

theorem State.farBilletDone_keeps {s₀ s : State} (h : Keeps s₀ s) (u : Nat) (c : FarCmd) (b : Nat × Nat) :
    Keeps s₀ (State.farBilletDone s u c b) := by
  unfold State.farBilletDone
  repeat'
    first
      | with_reducible assumption
      | intro _
      | with_reducible apply Keeps.ite
      | with_reducible apply State.modFarBillet_keeps
      | with_reducible apply State.done_keeps
      | with_reducible apply State.dropFarBillet_keeps
      | with_reducible apply State.sendArrival_keeps
      | extract_lets
      | split
      | (dsimp +zetaDelta only; split)
      | with_reducible apply Keeps.mkU

theorem State.cmdDone_keeps {s₀ s : State} (h : Keeps s₀ s) (l : Nat) (c : FarCmd) (old : BitVec 128) (range : Bool) :
    Keeps s₀ (State.cmdDone s l c old range) := by
  unfold State.cmdDone
  repeat'
    first
      | with_reducible assumption
      | intro _
      | with_reducible apply Keeps.ite
      | with_reducible apply State.modLink_keeps
      | with_reducible apply State.farPart_keeps
      | with_reducible apply State.farBilletDone_keeps
      | extract_lets
      | split
      | (dsimp +zetaDelta only; split)
      | with_reducible apply Keeps.mkU

theorem State.readGranule_keeps {s₀ s : State} (h : Keeps s₀ s) (l : Nat) (desc : Bytes) (data : Bytes) :
    Keeps s₀ (State.readGranule s l desc data) := by
  unfold State.readGranule
  repeat'
    first
      | with_reducible assumption
      | intro _
      | with_reducible apply Keeps.ite
      | with_reducible apply State.returnCredits_keeps
      | with_reducible apply State.modLink_keeps
      | with_reducible apply State.cmdDone_keeps
      | extract_lets
      | split
      | (dsimp +zetaDelta only; split)
      | with_reducible apply Keeps.mkU

theorem State.completionRecord_keeps {s₀ s : State} (h : Keeps s₀ s) (l : Nat) (rec : Bytes) :
    Keeps s₀ (State.completionRecord s l rec) := by
  unfold State.completionRecord
  repeat'
    first
      | with_reducible assumption
      | intro _
      | with_reducible apply Keeps.ite
      | with_reducible apply State.returnCredits_keeps
      | with_reducible apply State.cmdDone_keeps
      | extract_lets
      | split
      | (dsimp +zetaDelta only; split)
      | with_reducible apply Keeps.mkU

theorem State.farReceive_keeps {s₀ s : State} (h : Keeps s₀ s) (l : Nat) (f : Bytes) (sequenced : Bool) (body : State → State) (hbody : ∀ v0, Keeps s₀ v0 → Keeps s₀ (body v0)) :
    Keeps s₀ (State.farReceive s l f sequenced body) := by
  unfold State.farReceive
  repeat'
    first
      | with_reducible assumption
      | intro _
      | with_reducible apply hbody
      | with_reducible apply Keeps.ite
      | with_reducible apply State.fibreCount_keeps
      | with_reducible apply State.linkHeader_keeps
      | with_reducible apply State.resendLink_keeps
      | with_reducible apply State.acceptSeq_keeps
      | with_reducible apply State.pumpFar_keeps
      | with_reducible apply State.pumpAll_keeps
      | extract_lets
      | split
      | (dsimp +zetaDelta only; split)
      | with_reducible apply Keeps.mkU

theorem execFarDataGranule_keeps {s₀ s : State} (h : Keeps s₀ s) (l : LinkIx) (frame : Bytes) :
    KeepsO s₀ (execFarDataGranule l frame s) := by
  unfold execFarDataGranule
  repeat'
    first
      | with_reducible assumption
      | intro _
      | with_reducible apply KeepsO.next
      | exact KeepsO.fault _
      | with_reducible apply KeepsOpt.some
      | exact KeepsOpt.none
      | with_reducible apply KeepsO.ite
      | with_reducible apply KeepsOpt.ite
      | with_reducible apply Keeps.ite
      | with_reducible apply State.farReceive_keeps
      | with_reducible apply State.readGranule_keeps
      | with_reducible apply State.drainProgress_keeps
      | extract_lets
      | split
      | (dsimp +zetaDelta only; split)
      | with_reducible apply Keeps.mkU

theorem execCompletion_keeps {s₀ s : State} (h : Keeps s₀ s) (l : LinkIx) (frame : Bytes) :
    KeepsO s₀ (execCompletion l frame s) := by
  unfold execCompletion
  repeat'
    first
      | with_reducible assumption
      | intro _
      | with_reducible apply KeepsO.next
      | exact KeepsO.fault _
      | with_reducible apply KeepsOpt.some
      | exact KeepsOpt.none
      | with_reducible apply KeepsO.ite
      | with_reducible apply KeepsOpt.ite
      | with_reducible apply Keeps.ite
      | with_reducible apply State.farReceive_keeps
      | with_reducible apply State.completionRecord_keeps
      | with_reducible apply State.drainProgress_keeps
      | with_reducible apply Keeps.foldl
      | with_reducible apply Keeps.foldl_fst
      | with_reducible apply Keeps.foldl_snd
      | extract_lets
      | split
      | (dsimp +zetaDelta only; split)
      | with_reducible apply Keeps.mkU

theorem execFarIdleFrame_keeps {s₀ s : State} (h : Keeps s₀ s) (l : LinkIx) (frame : Bytes) :
    KeepsO s₀ (execFarIdleFrame l frame s) := by
  unfold execFarIdleFrame
  repeat'
    first
      | with_reducible assumption
      | intro _
      | with_reducible apply KeepsO.next
      | exact KeepsO.fault _
      | with_reducible apply KeepsOpt.some
      | exact KeepsOpt.none
      | with_reducible apply KeepsO.ite
      | with_reducible apply KeepsOpt.ite
      | with_reducible apply Keeps.ite
      | with_reducible apply State.farReceive_keeps
      | extract_lets
      | split
      | (dsimp +zetaDelta only; split)
      | with_reducible apply Keeps.mkU

theorem State.failUnitOps_keeps {s₀ s : State} (h : Keeps s₀ s) (u : Nat) (status : Nat) :
    Keeps s₀ (State.failUnitOps s u status) := by
  unfold State.failUnitOps
  repeat'
    first
      | with_reducible assumption
      | intro _
      | with_reducible apply Keeps.ite
      | with_reducible apply State.nackReq_keeps
      | with_reducible apply Keeps.foldl
      | with_reducible apply Keeps.foldl_fst
      | with_reducible apply Keeps.foldl_snd
      | extract_lets
      | split
      | (dsimp +zetaDelta only; split)
      | with_reducible apply Keeps.mkU

theorem State.moveCmds_keeps {s₀ s : State} (h : Keeps s₀ s) (l : Nat) :
    Keeps s₀ (State.moveCmds s l) := by
  unfold State.moveCmds
  repeat'
    first
      | with_reducible assumption
      | intro _
      | with_reducible apply Keeps.ite
      | with_reducible apply State.modLink_keeps
      | with_reducible apply State.queueCmd_keeps
      | with_reducible apply Keeps.foldl
      | with_reducible apply Keeps.foldl_fst
      | with_reducible apply Keeps.foldl_snd
      | extract_lets
      | split
      | (dsimp +zetaDelta only; split)
      | with_reducible apply Keeps.mkU

theorem State.adoptCmds_keeps {s₀ s : State} (h : Keeps s₀ s) (u : Nat) :
    Keeps s₀ (State.adoptCmds s u) := by
  unfold State.adoptCmds
  repeat'
    first
      | with_reducible assumption
      | intro _
      | with_reducible apply Keeps.ite
      | with_reducible apply State.moveCmds_keeps
      | with_reducible apply Keeps.foldl
      | with_reducible apply Keeps.foldl_fst
      | with_reducible apply Keeps.foldl_snd
      | extract_lets
      | split
      | (dsimp +zetaDelta only; split)
      | with_reducible apply Keeps.mkU

theorem State.farService_keeps {s₀ s : State} (h : Keeps s₀ s) (l : Nat) (msg : Bytes) :
    Keeps s₀ (State.farService s l msg) := by
  unfold State.farService
  repeat'
    first
      | with_reducible assumption
      | intro _
      | with_reducible apply Keeps.ite
      | with_reducible apply State.modLink_keeps
      | with_reducible apply State.sendFrame_keeps
      | with_reducible apply State.modFmu_keeps
      | with_reducible apply State.failUnitOps_keeps
      | with_reducible apply State.notice0_keeps
      | with_reducible apply State.pumpFar_keeps
      | with_reducible apply State.adoptCmds_keeps
      | with_reducible apply Keeps.foldl
      | with_reducible apply Keeps.foldl_fst
      | with_reducible apply Keeps.foldl_snd
      | extract_lets
      | split
      | (dsimp +zetaDelta only; split)
      | with_reducible apply Keeps.mkU

theorem State.atomLost_keeps {s₀ s : State} (h : Keeps s₀ s) (c : FarCmd) :
    Keeps s₀ (State.atomLost s c) := by
  unfold State.atomLost
  repeat'
    first
      | with_reducible assumption
      | intro _
      | with_reducible apply Keeps.ite
      | with_reducible apply State.tally_keeps
      | with_reducible apply State.farPart_keeps
      | extract_lets
      | split
      | (dsimp +zetaDelta only; split)
      | with_reducible apply Keeps.mkU

theorem State.failOver_keeps {s₀ s : State} (h : Keeps s₀ s) (l : Nat) :
    Keeps s₀ (State.failOver s l) := by
  unfold State.failOver
  repeat'
    first
      | with_reducible assumption
      | intro _
      | with_reducible apply Keeps.ite
      | with_reducible apply State.modLink_keeps
      | with_reducible apply State.atomLost_keeps
      | with_reducible apply State.moveCmds_keeps
      | with_reducible apply Keeps.foldl
      | with_reducible apply Keeps.foldl_fst
      | with_reducible apply Keeps.foldl_snd
      | extract_lets
      | split
      | (dsimp +zetaDelta only; split)
      | with_reducible apply Keeps.mkU

theorem execSublinkFailover_keeps {s₀ s : State} (h : Keeps s₀ s) (l : LinkIx) (now : Nat) :
    KeepsO s₀ (execSublinkFailover l now s) := by
  unfold execSublinkFailover
  repeat'
    first
      | with_reducible assumption
      | intro _
      | with_reducible apply KeepsO.next
      | exact KeepsO.fault _
      | with_reducible apply KeepsOpt.some
      | exact KeepsOpt.none
      | with_reducible apply KeepsO.ite
      | with_reducible apply KeepsOpt.ite
      | with_reducible apply Keeps.ite
      | with_reducible apply State.at__keeps
      | with_reducible apply State.failOver_keeps
      | extract_lets
      | split
      | (dsimp +zetaDelta only; split)
      | with_reducible apply Keeps.mkU

theorem State.stopUsers_keeps {s₀ s : State} (h : Keeps s₀ s) (p : Nat → Bool) (result : DWord) :
    Keeps s₀ (State.stopUsers s p result) := by
  unfold State.stopUsers
  repeat'
    first
      | with_reducible assumption
      | intro _
      | with_reducible apply Keeps.ite
      | with_reducible apply State.stopBatch_keeps
      | with_reducible apply State.settleStop_keeps
      | with_reducible apply Keeps.foldl
      | with_reducible apply Keeps.foldl_fst
      | with_reducible apply Keeps.foldl_snd
      | extract_lets
      | split
      | (dsimp +zetaDelta only; split)
      | with_reducible apply Keeps.mkU

theorem State.releasePending_keeps {s₀ s : State} (h : Keeps s₀ s) (p : Nat → Bool) :
    Keeps s₀ (State.releasePending s p) := by
  unfold State.releasePending
  repeat'
    first
      | with_reducible assumption
      | intro _
      | with_reducible apply Keeps.ite
      | extract_lets
      | split
      | (dsimp +zetaDelta only; split)
      | with_reducible apply Keeps.mkU

theorem execFarUnitDown_keeps {s₀ s : State} (h : Keeps s₀ s) (u : FmuIx) (now : Nat) :
    KeepsO s₀ (execFarUnitDown u now s) := by
  unfold execFarUnitDown
  repeat'
    first
      | with_reducible assumption
      | intro _
      | with_reducible apply KeepsO.next
      | exact KeepsO.fault _
      | with_reducible apply KeepsOpt.some
      | exact KeepsOpt.none
      | with_reducible apply KeepsO.ite
      | with_reducible apply KeepsOpt.ite
      | with_reducible apply Keeps.ite
      | with_reducible apply State.at__keeps
      | with_reducible apply State.modFmu_keeps
      | with_reducible apply State.failUnitOps_keeps
      | with_reducible apply State.stopUsers_keeps
      | with_reducible apply State.releasePending_keeps
      | with_reducible apply State.drainProgress_keeps
      | extract_lets
      | split
      | (dsimp +zetaDelta only; split)
      | with_reducible apply Keeps.mkU

theorem State.queueFarBillet_keeps {s₀ s : State} (h : Keeps s₀ s) (u : Nat) (b : FarBillet) :
    Keeps s₀ (State.queueFarBillet s u b) := by
  unfold State.queueFarBillet
  repeat'
    first
      | with_reducible assumption
      | intro _
      | with_reducible apply Keeps.ite
      | with_reducible apply State.modFarBillet_keeps
      | with_reducible apply State.queueCmd_keeps
      | extract_lets
      | split
      | (dsimp +zetaDelta only; split)
      | with_reducible apply Keeps.mkU

theorem execFarBilletWriteQueue_keeps {s₀ s : State} (h : Keeps s₀ s) (u : FmuIx) (p : PortIx) :
    KeepsO s₀ (execFarBilletWriteQueue u p s) := by
  unfold execFarBilletWriteQueue
  repeat'
    first
      | with_reducible assumption
      | intro _
      | with_reducible apply KeepsO.next
      | exact KeepsO.fault _
      | with_reducible apply KeepsOpt.some
      | exact KeepsOpt.none
      | with_reducible apply KeepsO.ite
      | with_reducible apply KeepsOpt.ite
      | with_reducible apply Keeps.ite
      | with_reducible apply State.queueFarBillet_keeps
      | extract_lets
      | split
      | (dsimp +zetaDelta only; split)
      | with_reducible apply Keeps.mkU

theorem execFarBilletReadQueue_keeps {s₀ s : State} (h : Keeps s₀ s) (u : FmuIx) (p : PortIx) :
    KeepsO s₀ (execFarBilletReadQueue u p s) := by
  unfold execFarBilletReadQueue
  repeat'
    first
      | with_reducible assumption
      | intro _
      | with_reducible apply KeepsO.next
      | exact KeepsO.fault _
      | with_reducible apply KeepsOpt.some
      | exact KeepsOpt.none
      | with_reducible apply KeepsO.ite
      | with_reducible apply KeepsOpt.ite
      | with_reducible apply Keeps.ite
      | with_reducible apply State.queueFarBillet_keeps
      | with_reducible apply State.modFmu_keeps
      | with_reducible apply Keeps.foldl
      | with_reducible apply Keeps.foldl_fst
      | with_reducible apply Keeps.foldl_snd
      | extract_lets
      | split
      | (dsimp +zetaDelta only; split)
      | with_reducible apply Keeps.mkU

end Sys2Proof.Machine
end

