-- ==== Sys2Proof/Laws/KeepsTomic.lean ====
section
/-!
SUPPORT. What every operation of Machine/Tomic.lean keeps (Laws/Keeps.lean).
-/
namespace Sys2Proof.Machine

set_option Elab.async false
set_option linter.all false

theorem State.refuseReq_keeps {s₀ s : State} (h : Keeps s₀ s) (turf : Nat) (p : Packet) (status : Nat) :
    Keeps s₀ (State.refuseReq s turf p status) := by
  unfold State.refuseReq
  repeat'
    first
      | with_reducible assumption
      | intro _
      | with_reducible apply Keeps.ite
      | with_reducible apply State.countRefusal_keeps
      | with_reducible apply State.countUnmapped_keeps
      | with_reducible apply State.nackReq_keeps
      | extract_lets
      | split
      | (dsimp +zetaDelta only; split)
      | with_reducible apply Keeps.mkU

theorem State.countSite_keeps {s₀ s : State} (h : Keeps s₀ s) (p : Packet) (index : Nat) :
    Keeps s₀ (State.countSite s p index) := by
  unfold State.countSite
  repeat'
    first
      | with_reducible assumption
      | intro _
      | with_reducible apply Keeps.ite
      | with_reducible apply State.draw_keeps
      | with_reducible apply State.bump_keeps
      | extract_lets
      | split
      | (dsimp +zetaDelta only; split)
      | with_reducible apply Keeps.mkU

theorem State.loadMem_keeps {s₀ s : State} (h : Keeps s₀ s) (turf : Nat) (p : Packet) :
    Keeps s₀ (State.loadMem s turf p) := by
  unfold State.loadMem
  repeat'
    first
      | with_reducible assumption
      | intro _
      | with_reducible apply Keeps.ite
      | with_reducible apply State.meetRange_keeps
      | with_reducible apply State.countSite_keeps
      | with_reducible apply State.bump_keeps
      | with_reducible apply State.dataReq_keeps
      | extract_lets
      | split
      | (dsimp +zetaDelta only; split)
      | with_reducible apply Keeps.mkU
      | with_reducible apply Keeps.foldl
      | with_reducible apply Keeps.foldl_fst
      | with_reducible apply Keeps.foldl_snd

theorem State.loadReq_keeps {s₀ s : State} (h : Keeps s₀ s) (turf : Nat) (p : Packet) :
    Keeps s₀ (State.loadReq s turf p) := by
  unfold State.loadReq
  repeat'
    first
      | with_reducible assumption
      | intro _
      | with_reducible apply Keeps.ite
      | with_reducible apply State.refuseReq_keeps
      | with_reducible apply State.dataReq_keeps
      | with_reducible apply State.farRequest_keeps
      | with_reducible apply State.loadMem_keeps
      | extract_lets
      | split
      | (dsimp +zetaDelta only; split)
      | with_reducible apply Keeps.mkU

theorem execLoad_keeps {s₀ s : State} (h : Keeps s₀ s) (a : Arrival) (p : Packet) :
    KeepsO s₀ (execLoad a p s) := by
  unfold execLoad
  repeat'
    first
      | with_reducible assumption
      | intro _
      | with_reducible apply KeepsO.next
      | exact KeepsO.fault _
      | with_reducible apply KeepsOpt.some
      | exact KeepsOpt.none
      | with_reducible apply KeepsO.ite
      | with_reducible apply KeepsOpt.ite
      | with_reducible apply Keeps.ite
      | with_reducible apply State.refuseReq_keeps
      | with_reducible apply State.loadReq_keeps
      | extract_lets
      | split
      | (dsimp +zetaDelta only; split)
      | with_reducible apply Keeps.mkU

theorem State.storeReq_keeps {s₀ s : State} (h : Keeps s₀ s) (turf : Nat) (p : Packet) :
    Keeps s₀ (State.storeReq s turf p) := by
  unfold State.storeReq
  repeat'
    first
      | with_reducible assumption
      | intro _
      | with_reducible apply Keeps.ite
      | with_reducible apply State.refuseReq_keeps
      | with_reducible apply State.farRequest_keeps
      | with_reducible apply State.writePiece_keeps
      | with_reducible apply State.countSite_keeps
      | with_reducible apply State.storeAnswer_keeps
      | with_reducible apply Keeps.foldl
      | with_reducible apply Keeps.foldl_fst
      | with_reducible apply Keeps.foldl_snd
      | extract_lets
      | split
      | (dsimp +zetaDelta only; split)
      | with_reducible apply Keeps.mkU

theorem execStore_keeps {s₀ s : State} (h : Keeps s₀ s) (a : Arrival) (p : Packet) :
    KeepsO s₀ (execStore a p s) := by
  unfold execStore
  repeat'
    first
      | with_reducible assumption
      | intro _
      | with_reducible apply KeepsO.next
      | exact KeepsO.fault _
      | with_reducible apply KeepsOpt.some
      | exact KeepsOpt.none
      | with_reducible apply KeepsO.ite
      | with_reducible apply KeepsOpt.ite
      | with_reducible apply Keeps.ite
      | with_reducible apply State.storeReq_keeps
      | extract_lets
      | split
      | (dsimp +zetaDelta only; split)
      | with_reducible apply Keeps.mkU

theorem State.countRange_keeps {s₀ s : State} (h : Keeps s₀ s) (l : Option Loc) (n : Nat) :
    Keeps s₀ (State.countRange s l n) := by
  unfold State.countRange
  repeat'
    first
      | with_reducible assumption
      | intro _
      | with_reducible apply Keeps.ite
      | with_reducible apply State.modCell_keeps
      | with_reducible apply State.cellEvent_keeps
      | with_reducible apply State.tally_keeps
      | extract_lets
      | split
      | (dsimp +zetaDelta only; split)
      | with_reducible apply Keeps.mkU

theorem State.atomMem_keeps {s₀ s : State} (h : Keeps s₀ s) (turf : Nat) (p : Packet) :
    Keeps s₀ (State.atomMem s turf p) := by
  unfold State.atomMem
  repeat'
    first
      | with_reducible assumption
      | intro _
      | with_reducible apply Keeps.ite
      | with_reducible apply State.meetRange_keeps
      | with_reducible apply State.refuseReq_keeps
      | with_reducible apply State.nackReq_keeps
      | with_reducible apply State.writePiece_keeps
      | with_reducible apply State.countSite_keeps
      | with_reducible apply State.countRange_keeps
      | with_reducible apply State.atomDone_keeps
      | extract_lets
      | split
      | (dsimp +zetaDelta only; split)
      | with_reducible apply Keeps.mkU

theorem State.atomCtr_keeps {s₀ s : State} (h : Keeps s₀ s) (turf : Nat) (remote : Bool) (p : Packet) (k : Nat) :
    Keeps s₀ (State.atomCtr s turf remote p k) := by
  unfold State.atomCtr
  repeat'
    first
      | with_reducible assumption
      | intro _
      | with_reducible apply Keeps.ite
      | with_reducible apply State.refuseReq_keeps
      | with_reducible apply State.atomDone_keeps
      | with_reducible apply State.signalCtr_keeps
      | with_reducible apply State.nackReq_keeps
      | extract_lets
      | split
      | (dsimp +zetaDelta only; split)
      | with_reducible apply Keeps.mkU

theorem State.atomReq_keeps {s₀ s : State} (h : Keeps s₀ s) (turf : Nat) (remote : Bool) (p : Packet) :
    Keeps s₀ (State.atomReq s turf remote p) := by
  unfold State.atomReq
  repeat'
    first
      | with_reducible assumption
      | intro _
      | with_reducible apply Keeps.ite
      | with_reducible apply State.refuseReq_keeps
      | with_reducible apply State.resendAnswer_keeps
      | with_reducible apply State.atomCtr_keeps
      | with_reducible apply State.farRequest_keeps
      | with_reducible apply State.atomMem_keeps
      | extract_lets
      | split
      | (dsimp +zetaDelta only; split)
      | with_reducible apply Keeps.mkU

theorem execAtomAdd_keeps {s₀ s : State} (h : Keeps s₀ s) (a : Arrival) (p : Packet) :
    KeepsO s₀ (execAtomAdd a p s) := by
  unfold execAtomAdd
  repeat'
    first
      | with_reducible assumption
      | intro _
      | with_reducible apply KeepsO.next
      | exact KeepsO.fault _
      | with_reducible apply KeepsOpt.some
      | exact KeepsOpt.none
      | with_reducible apply KeepsO.ite
      | with_reducible apply KeepsOpt.ite
      | with_reducible apply Keeps.ite
      | with_reducible apply State.atomReq_keeps
      | extract_lets
      | split
      | (dsimp +zetaDelta only; split)
      | with_reducible apply Keeps.mkU

theorem execAtomMin_keeps {s₀ s : State} (h : Keeps s₀ s) (a : Arrival) (p : Packet) :
    KeepsO s₀ (execAtomMin a p s) := by
  unfold execAtomMin
  repeat'
    first
      | with_reducible assumption
      | intro _
      | with_reducible apply KeepsO.next
      | exact KeepsO.fault _
      | with_reducible apply KeepsOpt.some
      | exact KeepsOpt.none
      | with_reducible apply KeepsO.ite
      | with_reducible apply KeepsOpt.ite
      | with_reducible apply Keeps.ite
      | with_reducible apply State.atomReq_keeps
      | extract_lets
      | split
      | (dsimp +zetaDelta only; split)
      | with_reducible apply Keeps.mkU

theorem execAtomMax_keeps {s₀ s : State} (h : Keeps s₀ s) (a : Arrival) (p : Packet) :
    KeepsO s₀ (execAtomMax a p s) := by
  unfold execAtomMax
  repeat'
    first
      | with_reducible assumption
      | intro _
      | with_reducible apply KeepsO.next
      | exact KeepsO.fault _
      | with_reducible apply KeepsOpt.some
      | exact KeepsOpt.none
      | with_reducible apply KeepsO.ite
      | with_reducible apply KeepsOpt.ite
      | with_reducible apply Keeps.ite
      | with_reducible apply State.atomReq_keeps
      | extract_lets
      | split
      | (dsimp +zetaDelta only; split)
      | with_reducible apply Keeps.mkU

theorem execAtomCas_keeps {s₀ s : State} (h : Keeps s₀ s) (a : Arrival) (p : Packet) :
    KeepsO s₀ (execAtomCas a p s) := by
  unfold execAtomCas
  repeat'
    first
      | with_reducible assumption
      | intro _
      | with_reducible apply KeepsO.next
      | exact KeepsO.fault _
      | with_reducible apply KeepsOpt.some
      | exact KeepsOpt.none
      | with_reducible apply KeepsO.ite
      | with_reducible apply KeepsOpt.ite
      | with_reducible apply Keeps.ite
      | with_reducible apply State.atomReq_keeps
      | extract_lets
      | split
      | (dsimp +zetaDelta only; split)
      | with_reducible apply Keeps.mkU

end Sys2Proof.Machine
end

