-- ==== Sys2Proof/Laws/KeepsCopyEngines.lean ====
section
/-!
SUPPORT. What every operation of Machine/CopyEngines.lean keeps (Laws/Keeps.lean).
-/
namespace Sys2Proof.Machine

set_option Elab.async false
set_option linter.all false

theorem State.modDesc_keeps {s₀ s : State} (h : Keeps s₀ s) (n : Nat) (id : Nat) (f : CeDesc → CeDesc) :
    Keeps s₀ (State.modDesc s n id f) := by
  unfold State.modDesc
  repeat'
    first
      | with_reducible assumption
      | intro _
      | with_reducible apply Keeps.ite
      | with_reducible apply State.modCe_keeps
      | extract_lets
      | split
      | (dsimp +zetaDelta only; split)
      | with_reducible apply Keeps.mkU

theorem State.finishDesc_keeps {s₀ s : State} (h : Keeps s₀ s) (n : Nat) (d : CeDesc) :
    Keeps s₀ (State.finishDesc s n d) := by
  unfold State.finishDesc
  repeat'
    first
      | with_reducible assumption
      | intro _
      | with_reducible apply Keeps.ite
      | with_reducible apply State.descDone_keeps
      | with_reducible apply State.modDesc_keeps
      | with_reducible apply State.sendSignal_keeps
      | extract_lets
      | split
      | (dsimp +zetaDelta only; split)
      | with_reducible apply Keeps.mkU

theorem State.completeDesc_keeps {s₀ s : State} (h : Keeps s₀ s) (n : Nat) (d : CeDesc) :
    Keeps s₀ (State.completeDesc s n d) := by
  unfold State.completeDesc
  repeat'
    first
      | with_reducible assumption
      | intro _
      | with_reducible apply Keeps.ite
      | with_reducible apply State.finishDesc_keeps
      | with_reducible apply State.tally_keeps
      | with_reducible apply State.modDesc_keeps
      | with_reducible apply State.issueOp_keeps
      | extract_lets
      | split
      | (dsimp +zetaDelta only; split)
      | with_reducible apply Keeps.mkU

theorem execCeDescriptorComplete_keeps {s₀ s : State} (h : Keeps s₀ s) (ce : CeIx) :
    KeepsO s₀ (execCeDescriptorComplete ce s) := by
  unfold execCeDescriptorComplete
  repeat'
    first
      | with_reducible assumption
      | intro _
      | with_reducible apply KeepsO.next
      | exact KeepsO.fault _
      | with_reducible apply KeepsOpt.some
      | exact KeepsOpt.none
      | with_reducible apply KeepsO.ite
      | with_reducible apply KeepsOpt.ite
      | with_reducible apply Keeps.ite
      | with_reducible apply State.completeDesc_keeps
      | extract_lets
      | split
      | (dsimp +zetaDelta only; split)
      | with_reducible apply Keeps.mkU

theorem State.endDesc_keeps {s₀ s : State} (h : Keeps s₀ s) (n : Nat) (id : Nat) (status : Nat) :
    Keeps s₀ (State.endDesc s n id status) := by
  unfold State.endDesc
  repeat'
    first
      | with_reducible assumption
      | intro _
      | with_reducible apply Keeps.ite
      | with_reducible apply State.modDesc_keeps
      | extract_lets
      | split
      | (dsimp +zetaDelta only; split)
      | with_reducible apply Keeps.mkU

theorem State.ceRefused_keeps {s₀ s : State} (h : Keeps s₀ s) (n : Nat) (id : Nat) (status : Nat) :
    Keeps s₀ (State.ceRefused s n id status) := by
  unfold State.ceRefused
  repeat'
    first
      | with_reducible assumption
      | intro _
      | with_reducible apply Keeps.ite
      | with_reducible apply State.tally_keeps
      | with_reducible apply State.endDesc_keeps
      | extract_lets
      | split
      | (dsimp +zetaDelta only; split)
      | with_reducible apply Keeps.mkU

theorem State.ceStore_keeps {s₀ s : State} (h : Keeps s₀ s) (n : Nat) (d : CeDesc) (off : Nat) (bs : Bytes) (poison : Bool) :
    Keeps s₀ (State.ceStore s n d off bs poison) := by
  unfold State.ceStore
  repeat'
    first
      | with_reducible assumption
      | exact fun w => memWrite_wf w
      | exact fun w => memFilter_wf w
      | intro _
      | with_reducible apply Keeps.ite
      | with_reducible apply State.modDesc_keeps
      | with_reducible apply State.endDesc_keeps
      | with_reducible apply State.ceRefused_keeps
      | with_reducible apply State.issueOp_keeps
      | extract_lets
      | split
      | (dsimp +zetaDelta only; split)
      | with_reducible apply Keeps.mkU
      | with_reducible apply Keeps.mkHost

theorem State.flushDesc_keeps {s₀ s : State} (h : Keeps s₀ s) (n : Nat) (d : CeDesc) :
    Keeps s₀ (State.flushDesc s n d) := by
  unfold State.flushDesc
  repeat'
    first
      | with_reducible assumption
      | intro _
      | with_reducible apply Keeps.ite
      | with_reducible apply State.modDesc_keeps
      | with_reducible apply State.ceStore_keeps
      | with_reducible apply Keeps.foldl
      | with_reducible apply Keeps.foldl_fst
      | with_reducible apply Keeps.foldl_snd
      | extract_lets
      | split
      | (dsimp +zetaDelta only; split)
      | with_reducible apply Keeps.mkU

theorem State.ceLoads_keeps {s₀ s : State} (h : Keeps s₀ s) (n : Nat) (d : CeDesc) (off : Nat) (len : Nat) :
    Keeps s₀ (State.ceLoads s n d off len) := by
  unfold State.ceLoads
  repeat'
    first
      | with_reducible assumption
      | intro _
      | with_reducible apply Keeps.ite
      | with_reducible apply State.ceRefused_keeps
      | with_reducible apply State.issueOp_keeps
      | with_reducible apply Keeps.foldl
      | with_reducible apply Keeps.foldl_fst
      | with_reducible apply Keeps.foldl_snd
      | extract_lets
      | split
      | (dsimp +zetaDelta only; split)
      | with_reducible apply Keeps.mkU

theorem State.advance_keeps {s₀ s : State} (h : Keeps s₀ s) (i : Nat) (id : Nat) (n : Nat) : Keeps s₀ (s.advance i id n) := by
  induction n generalizing s with
  | zero => exact h
  | succ n ih =>
    rw [State.advance]
    repeat'
      first
        | with_reducible assumption
        | intro _
        | with_reducible apply ih
        | with_reducible apply Keeps.ite
        | with_reducible apply State.modDesc_keeps
        | with_reducible apply State.ceStore_keeps
        | with_reducible apply State.flushDesc_keeps
        | with_reducible apply State.ceLoads_keeps
        | extract_lets
        | split
        | (dsimp +zetaDelta only; split)
        | with_reducible apply Keeps.mkU

theorem State.checkEnd_keeps {s₀ s : State} (h : Keeps s₀ s) (n : Nat) (id : Nat) :
    Keeps s₀ (State.checkEnd s n id) := by
  unfold State.checkEnd
  repeat'
    first
      | with_reducible assumption
      | intro _
      | with_reducible apply Keeps.ite
      | with_reducible apply State.endDesc_keeps
      | extract_lets
      | split
      | (dsimp +zetaDelta only; split)
      | with_reducible apply Keeps.mkU

theorem State.advanceCe_keeps {s₀ s : State} (h : Keeps s₀ s) (n : Nat) :
    Keeps s₀ (State.advanceCe s n) := by
  unfold State.advanceCe
  repeat'
    first
      | with_reducible assumption
      | intro _
      | with_reducible apply Keeps.ite
      | with_reducible apply State.advance_keeps
      | with_reducible apply State.checkEnd_keeps
      | with_reducible apply Keeps.foldl
      | with_reducible apply Keeps.foldl_fst
      | with_reducible apply Keeps.foldl_snd
      | extract_lets
      | split
      | (dsimp +zetaDelta only; split)
      | with_reducible apply Keeps.mkU

theorem State.startDesc_keeps {s₀ s : State} (h : Keeps s₀ s) (n : Nat) (d : CeDesc) (data : Option Bytes) :
    Keeps s₀ (State.startDesc s n d data) := by
  unfold State.startDesc
  repeat'
    first
      | with_reducible assumption
      | intro _
      | with_reducible apply Keeps.ite
      | with_reducible apply State.modDesc_keeps
      | with_reducible apply State.endDesc_keeps
      | with_reducible apply State.issueOp_keeps
      | with_reducible apply State.advanceCe_keeps
      | extract_lets
      | split
      | (dsimp +zetaDelta only; split)
      | with_reducible apply Keeps.mkU

theorem execCeDescriptorStart_keeps {s₀ s : State} (h : Keeps s₀ s) (ce : CeIx) (data : Option Bytes) :
    KeepsO s₀ (execCeDescriptorStart ce data s) := by
  unfold execCeDescriptorStart
  repeat'
    first
      | with_reducible assumption
      | intro _
      | with_reducible apply KeepsO.next
      | exact KeepsO.fault _
      | with_reducible apply KeepsOpt.some
      | exact KeepsOpt.none
      | with_reducible apply KeepsO.ite
      | with_reducible apply KeepsOpt.ite
      | with_reducible apply Keeps.ite
      | with_reducible apply State.startDesc_keeps
      | extract_lets
      | split
      | (dsimp +zetaDelta only; split)
      | with_reducible apply Keeps.mkU

theorem State.ceAnswered_keeps {s₀ s : State} (h : Keeps s₀ s) (n : Nat) (o : TomicOp) (p : Packet) (status : Nat) (written : Bool) (indet : Bool) :
    Keeps s₀ (State.ceAnswered s n o p status written indet) := by
  unfold State.ceAnswered
  repeat'
    first
      | with_reducible assumption
      | intro _
      | with_reducible apply Keeps.ite
      | with_reducible apply State.advanceCe_keeps
      | with_reducible apply State.modDesc_keeps
      | with_reducible apply State.endDesc_keeps
      | with_reducible apply State.flushDesc_keeps
      | with_reducible apply State.ceRefused_keeps
      | with_reducible apply State.issueOp_keeps
      | extract_lets
      | split
      | (dsimp +zetaDelta only; split)
      | with_reducible apply Keeps.mkU

theorem State.statusStored_keeps {s₀ s : State} (h : Keeps s₀ s) (n : Nat) (o : TomicOp) (status : Nat) :
    Keeps s₀ (State.statusStored s n o status) := by
  unfold State.statusStored
  repeat'
    first
      | with_reducible assumption
      | intro _
      | with_reducible apply Keeps.ite
      | with_reducible apply State.finishDesc_keeps
      | extract_lets
      | split
      | (dsimp +zetaDelta only; split)
      | with_reducible apply Keeps.mkU

theorem State.opAnswered_keeps {s₀ s : State} (h : Keeps s₀ s) (o : TomicOp) (p : Packet) (status : Nat) (written : Bool) (indet : Bool) :
    Keeps s₀ (State.opAnswered s o p status written indet) := by
  unfold State.opAnswered
  repeat'
    first
      | with_reducible assumption
      | intro _
      | with_reducible apply Keeps.ite
      | with_reducible apply State.aeAnswered_keeps
      | with_reducible apply State.aeRefused_keeps
      | with_reducible apply State.ceAnswered_keeps
      | with_reducible apply State.windowAnswer_keeps
      | with_reducible apply State.statusStored_keeps
      | with_reducible apply State.sendSignal_keeps
      | with_reducible apply State.cmdStored_keeps
      | extract_lets
      | split
      | (dsimp +zetaDelta only; split)
      | with_reducible apply Keeps.mkU

theorem State.takeAnswer_keeps {s₀ s : State} (h : Keeps s₀ s) (unit : Half) (p : Packet) (opcode : Nat) (ok : TomicOp → Bool) :
    Keeps s₀ (State.takeAnswer s unit p opcode ok) := by
  unfold State.takeAnswer
  repeat'
    first
      | with_reducible assumption
      | intro _
      | with_reducible apply Keeps.ite
      | with_reducible apply State.tally_keeps
      | with_reducible apply State.opDone_keeps
      | with_reducible apply State.opAnswered_keeps
      | with_reducible apply State.drainProgress_keeps
      | extract_lets
      | split
      | (dsimp +zetaDelta only; split)
      | with_reducible apply Keeps.mkU

theorem execAck_keeps {s₀ s : State} (h : Keeps s₀ s) (unit : Half) (p : Packet) :
    KeepsO s₀ (execAck unit p s) := by
  unfold execAck
  repeat'
    first
      | with_reducible assumption
      | intro _
      | with_reducible apply KeepsO.next
      | exact KeepsO.fault _
      | with_reducible apply KeepsOpt.some
      | exact KeepsOpt.none
      | with_reducible apply KeepsO.ite
      | with_reducible apply KeepsOpt.ite
      | with_reducible apply Keeps.ite
      | with_reducible apply State.takeAnswer_keeps
      | extract_lets
      | split
      | (dsimp +zetaDelta only; split)
      | with_reducible apply Keeps.mkU

theorem execData_keeps {s₀ s : State} (h : Keeps s₀ s) (unit : Half) (p : Packet) :
    KeepsO s₀ (execData unit p s) := by
  unfold execData
  repeat'
    first
      | with_reducible assumption
      | intro _
      | with_reducible apply KeepsO.next
      | exact KeepsO.fault _
      | with_reducible apply KeepsOpt.some
      | exact KeepsOpt.none
      | with_reducible apply KeepsO.ite
      | with_reducible apply KeepsOpt.ite
      | with_reducible apply Keeps.ite
      | with_reducible apply State.takeAnswer_keeps
      | extract_lets
      | split
      | (dsimp +zetaDelta only; split)
      | with_reducible apply Keeps.mkU

theorem execNack_keeps {s₀ s : State} (h : Keeps s₀ s) (unit : Half) (p : Packet) :
    KeepsO s₀ (execNack unit p s) := by
  unfold execNack
  repeat'
    first
      | with_reducible assumption
      | intro _
      | with_reducible apply KeepsO.next
      | exact KeepsO.fault _
      | with_reducible apply KeepsOpt.some
      | exact KeepsOpt.none
      | with_reducible apply KeepsO.ite
      | with_reducible apply KeepsOpt.ite
      | with_reducible apply Keeps.ite
      | with_reducible apply State.takeAnswer_keeps
      | extract_lets
      | split
      | (dsimp +zetaDelta only; split)
      | with_reducible apply Keeps.mkU

theorem State.opEnds_keeps {s₀ s : State} (h : Keeps s₀ s) (o : TomicOp) (status : Nat) (indet : Bool) :
    Keeps s₀ (State.opEnds s o status indet) := by
  unfold State.opEnds
  repeat'
    first
      | with_reducible assumption
      | intro _
      | with_reducible apply Keeps.ite
      | with_reducible apply State.tally_keeps
      | with_reducible apply State.opDone_keeps
      | with_reducible apply State.opAnswered_keeps
      | extract_lets
      | split
      | (dsimp +zetaDelta only; split)
      | with_reducible apply Keeps.mkU

theorem execTomicOpTimeout_keeps {s₀ s : State} (h : Keeps s₀ s) (unit : Half) (tag : Word) (now : Nat) :
    KeepsO s₀ (execTomicOpTimeout unit tag now s) := by
  unfold execTomicOpTimeout
  repeat'
    first
      | with_reducible assumption
      | intro _
      | with_reducible apply KeepsO.next
      | exact KeepsO.fault _
      | with_reducible apply KeepsOpt.some
      | exact KeepsOpt.none
      | with_reducible apply KeepsO.ite
      | with_reducible apply KeepsOpt.ite
      | with_reducible apply Keeps.ite
      | with_reducible apply State.at__keeps
      | with_reducible apply State.opEnds_keeps
      | with_reducible apply State.drainProgress_keeps
      | extract_lets
      | split
      | (dsimp +zetaDelta only; split)
      | with_reducible apply Keeps.mkU

theorem execCeSubmit_keeps {s₀ s : State} (h : Keeps s₀ s) (ce : CeIx) (a : Arrival) (p : Packet) :
    KeepsO s₀ (execCeSubmit ce a p s) := by
  unfold execCeSubmit
  repeat'
    first
      | with_reducible assumption
      | intro _
      | with_reducible apply KeepsO.next
      | exact KeepsO.fault _
      | with_reducible apply KeepsOpt.some
      | exact KeepsOpt.none
      | with_reducible apply KeepsO.ite
      | with_reducible apply KeepsOpt.ite
      | with_reducible apply Keeps.ite
      | with_reducible apply State.refuseReq_keeps
      | with_reducible apply State.pushDesc_keeps
      | with_reducible apply State.storeAnswer_keeps
      | with_reducible apply Keeps.foldl
      | with_reducible apply Keeps.foldl_fst
      | with_reducible apply Keeps.foldl_snd
      | extract_lets
      | split
      | (dsimp +zetaDelta only; split)
      | with_reducible apply Keeps.mkU

theorem State.retireEngine_keeps {s₀ s : State} (h : Keeps s₀ s) (n : Nat) (origin : Nat) :
    Keeps s₀ (State.retireEngine s n origin) := by
  unfold State.retireEngine
  repeat'
    first
      | with_reducible assumption
      | intro _
      | with_reducible apply Keeps.ite
      | with_reducible apply State.modCe_keeps
      | with_reducible apply State.faultActed_keeps
      | with_reducible apply State.endDesc_keeps
      | with_reducible apply State.completeDesc_keeps
      | with_reducible apply Keeps.foldl
      | with_reducible apply Keeps.foldl_fst
      | with_reducible apply Keeps.foldl_snd
      | extract_lets
      | split
      | (dsimp +zetaDelta only; split)
      | with_reducible apply Keeps.mkU

theorem execCopyEngineFault_keeps {s₀ s : State} (h : Keeps s₀ s) (ce : CeIx) :
    KeepsO s₀ (execCopyEngineFault ce s) := by
  unfold execCopyEngineFault
  repeat'
    first
      | with_reducible assumption
      | intro _
      | with_reducible apply KeepsO.next
      | exact KeepsO.fault _
      | with_reducible apply KeepsOpt.some
      | exact KeepsOpt.none
      | with_reducible apply KeepsO.ite
      | with_reducible apply KeepsOpt.ite
      | with_reducible apply Keeps.ite
      | with_reducible apply State.retireEngine_keeps
      | extract_lets
      | split
      | (dsimp +zetaDelta only; split)
      | with_reducible apply Keeps.mkU

theorem State.deliver_keeps {s₀ s : State} (h : Keeps s₀ s) (turf : Nat) (p : Packet) (r : Bytes) :
    Keeps s₀ (State.deliver s turf p r).1 := by
  unfold State.deliver
  repeat'
    first
      | with_reducible assumption
      | intro _
      | with_reducible apply Keeps.ite
      | with_reducible apply State.countRefusal_keeps
      | with_reducible apply State.modCell_keeps
      | extract_lets
      | split
      | (dsimp +zetaDelta only; split)
      | with_reducible apply Keeps.mkU

theorem execMessageInboxStore_keeps {s₀ s : State} (h : Keeps s₀ s) (a : Arrival) (p : Packet) :
    KeepsO s₀ (execMessageInboxStore a p s) := by
  unfold execMessageInboxStore
  repeat'
    first
      | with_reducible assumption
      | intro _
      | with_reducible apply KeepsO.next
      | exact KeepsO.fault _
      | with_reducible apply KeepsOpt.some
      | exact KeepsOpt.none
      | with_reducible apply KeepsO.ite
      | with_reducible apply KeepsOpt.ite
      | with_reducible apply Keeps.ite
      | with_reducible apply State.refuseReq_keeps
      | with_reducible apply State.deliver_keeps
      | with_reducible apply State.storeAnswer_keeps
      | with_reducible apply Keeps.foldl
      | with_reducible apply Keeps.foldl_fst
      | with_reducible apply Keeps.foldl_snd
      | extract_lets
      | split
      | (dsimp +zetaDelta only; split)
      | with_reducible apply Keeps.mkU

end Sys2Proof.Machine
end

