-- ==== Sys2Proof/Laws/KeepsRoutes.lean ====
section
/-!
SUPPORT. What every operation of Machine/Routes.lean keeps (Laws/Keeps.lean).
-/
namespace Sys2Proof.Machine

set_option Elab.async false
set_option linter.all false

theorem State.markEscaped_keeps {s₀ s : State} (h : Keeps s₀ s) (body : Bytes) :
    Keeps s₀ (State.markEscaped s body) := by
  unfold State.markEscaped
  repeat'
    first
      | with_reducible assumption
      | intro _
      | with_reducible apply Keeps.ite
      | extract_lets
      | split
      | (dsimp +zetaDelta only; split)
      | with_reducible apply Keeps.mkU

theorem State.escapeBody_keeps {s₀ s : State} (h : Keeps s₀ s) (origin : Nat) (vc : Nat) (body : Bytes) :
    Keeps s₀ (State.escapeBody s origin vc body) := by
  unfold State.escapeBody
  repeat'
    first
      | with_reducible assumption
      | intro _
      | with_reducible apply Keeps.ite
      | with_reducible apply State.markEscaped_keeps
      | with_reducible apply State.queueLink_keeps
      | extract_lets
      | split
      | (dsimp +zetaDelta only; split)
      | with_reducible apply Keeps.mkU

theorem State.egressBody_keeps {s₀ s : State} (h : Keeps s₀ s) (l : Nat) (vc : Nat) (body : Bytes) (follows : Bool) :
    Keeps s₀ (State.egressBody s l vc body follows) := by
  unfold State.egressBody
  repeat'
    first
      | with_reducible assumption
      | intro _
      | with_reducible apply Keeps.ite
      | with_reducible apply State.escapeBody_keeps
      | with_reducible apply State.queueLink_keeps
      | extract_lets
      | split
      | (dsimp +zetaDelta only; split)
      | with_reducible apply Keeps.mkU

theorem State.egress_keeps {s₀ s : State} (h : Keeps s₀ s) (turf : Nat) (p : Packet) :
    Keeps s₀ (State.egress s turf p) := by
  unfold State.egress
  repeat'
    first
      | with_reducible assumption
      | intro _
      | with_reducible apply Keeps.ite
      | with_reducible apply State.egressBody_keeps
      | extract_lets
      | split
      | (dsimp +zetaDelta only; split)
      | with_reducible apply Keeps.mkU

theorem State.rehome_keeps {s₀ s : State} (h : Keeps s₀ s) (l : Nat) (vc : Nat) (body : Bytes) :
    Keeps s₀ (State.rehome s l vc body) := by
  unfold State.rehome
  repeat'
    first
      | with_reducible assumption
      | intro _
      | with_reducible apply Keeps.ite
      | with_reducible apply State.egressBody_keeps
      | with_reducible apply State.modLink_keeps
      | extract_lets
      | split
      | (dsimp +zetaDelta only; split)
      | with_reducible apply Keeps.mkU

theorem State.discardStore_keeps {s₀ s : State} (h : Keeps s₀ s) (l : Nat) :
    Keeps s₀ (State.discardStore s l) := by
  unfold State.discardStore
  repeat'
    first
      | with_reducible assumption
      | intro _
      | with_reducible apply Keeps.ite
      | with_reducible apply State.modLink_keeps
      | with_reducible apply State.rehome_keeps
      | with_reducible apply Keeps.foldl
      | with_reducible apply Keeps.foldl_fst
      | with_reducible apply Keeps.foldl_snd
      | extract_lets
      | split
      | (dsimp +zetaDelta only; split)
      | with_reducible apply Keeps.mkU

theorem State.rehomeWaiting_keeps {s₀ s : State} (h : Keeps s₀ s) :
    Keeps s₀ (State.rehomeWaiting s) := by
  unfold State.rehomeWaiting
  repeat'
    first
      | with_reducible assumption
      | intro _
      | with_reducible apply Keeps.ite
      | with_reducible apply State.modLink_keeps
      | with_reducible apply State.rehome_keeps
      | with_reducible apply Keeps.foldl
      | with_reducible apply Keeps.foldl_fst
      | with_reducible apply Keeps.foldl_snd
      | extract_lets
      | split
      | (dsimp +zetaDelta only; split)
      | with_reducible apply Keeps.mkU

theorem State.modRole_keeps {s₀ s : State} (h : Keeps s₀ s) (f : Nat) (g : RoleSt → RoleSt) :
    Keeps s₀ (State.modRole s f g) := by
  unfold State.modRole
  repeat'
    first
      | with_reducible assumption
      | intro _
      | with_reducible apply Keeps.ite
      | extract_lets
      | split
      | (dsimp +zetaDelta only; split)
      | with_reducible apply Keeps.mkU

theorem State.endRole_keeps {s₀ s : State} (h : Keeps s₀ s) (f : Nat) (held : Bool) (at_ : Option (Bool × Nat)) :
    Keeps s₀ (State.endRole s f held at_) := by
  unfold State.endRole
  repeat'
    first
      | with_reducible assumption
      | intro _
      | with_reducible apply Keeps.ite
      | with_reducible apply State.modRole_keeps
      | with_reducible apply State.at__keeps
      | with_reducible apply State.completeAt_keeps
      | extract_lets
      | split
      | (dsimp +zetaDelta only; split)
      | with_reducible apply Keeps.mkU

theorem execEscapeMove_keeps {s₀ s : State} (h : Keeps s₀ s) (l : LinkIx) (vc : Fin 4) (now : Nat) :
    KeepsO s₀ (execEscapeMove l vc now s) := by
  unfold execEscapeMove
  repeat'
    first
      | with_reducible assumption
      | intro _
      | with_reducible apply KeepsO.next
      | exact KeepsO.fault _
      | with_reducible apply KeepsOpt.some
      | exact KeepsOpt.none
      | with_reducible apply KeepsO.ite
      | with_reducible apply KeepsOpt.ite
      | with_reducible apply Keeps.ite
      | with_reducible apply State.at__keeps
      | with_reducible apply State.modLink_keeps
      | with_reducible apply State.escapeBody_keeps
      | with_reducible apply State.fibreCount_keeps
      | with_reducible apply State.drainProgress_keeps
      | with_reducible apply State.notice0_keeps
      | with_reducible apply Keeps.foldl
      | with_reducible apply Keeps.foldl_fst
      | with_reducible apply Keeps.foldl_snd
      | extract_lets
      | split
      | (dsimp +zetaDelta only; split)
      | with_reducible apply Keeps.mkU

end Sys2Proof.Machine
end

