-- ==== Sys2Proof/Laws/KeepsLinkRows.lean ====
section
/-!
SUPPORT. What every operation of Machine/LinkRows.lean keeps (Laws/Keeps.lean).
-/
namespace Sys2Proof.Machine

set_option Elab.async false
set_option linter.all false

theorem State.failChannel_keeps {s₀ s : State} (h : Keeps s₀ s) (l : Nat) :
    Keeps s₀ (State.failChannel s l) := by
  unfold State.failChannel
  repeat'
    first
      | with_reducible assumption
      | intro _
      | with_reducible apply Keeps.ite
      | with_reducible apply State.modLink_keeps
      | with_reducible apply State.rehome_keeps
      | with_reducible apply State.discardStore_keeps
      | with_reducible apply Keeps.foldl
      | with_reducible apply Keeps.foldl_fst
      | with_reducible apply Keeps.foldl_snd
      | extract_lets
      | split
      | (dsimp +zetaDelta only; split)
      | with_reducible apply Keeps.mkU

theorem State.fabService_keeps {s₀ s : State} (h : Keeps s₀ s) (l : Nat) (msg : Bytes) :
    Keeps s₀ (State.fabService s l msg) := by
  unfold State.fabService
  repeat'
    first
      | with_reducible assumption
      | intro _
      | with_reducible apply Keeps.ite
      | with_reducible apply State.failChannel_keeps
      | with_reducible apply State.modLink_keeps
      | with_reducible apply State.endRole_keeps
      | with_reducible apply State.discardStore_keeps
      | extract_lets
      | split
      | (dsimp +zetaDelta only; split)
      | with_reducible apply Keeps.mkU

theorem State.enterService_keeps {s₀ s : State} (h : Keeps s₀ s) (l : Nat) (msg : Bytes) :
    Keeps s₀ (State.enterService s l msg) := by
  unfold State.enterService
  repeat'
    first
      | with_reducible assumption
      | intro _
      | with_reducible apply Keeps.ite
      | with_reducible apply State.farService_keeps
      | with_reducible apply State.fabService_keeps
      | with_reducible apply State.modLink_keeps
      | with_reducible apply State.pumpAll_keeps
      | with_reducible apply State.wantMap_keeps
      | with_reducible apply State.moveEscape_keeps
      | with_reducible apply State.rehomeWaiting_keeps
      | extract_lets
      | split
      | (dsimp +zetaDelta only; split)
      | with_reducible apply Keeps.mkU

theorem execIdent_keeps {s₀ s : State} (h : Keeps s₀ s) (l : LinkIx) (msg : Bytes) :
    KeepsO s₀ (execIdent l msg s) := by
  unfold execIdent
  repeat'
    first
      | with_reducible assumption
      | intro _
      | with_reducible apply KeepsO.next
      | exact KeepsO.fault _
      | with_reducible apply KeepsOpt.some
      | exact KeepsOpt.none
      | with_reducible apply KeepsO.ite
      | with_reducible apply KeepsOpt.ite
      | with_reducible apply Keeps.ite
      | with_reducible apply State.modLink_keeps
      | with_reducible apply State.sendMgmt_keeps
      | with_reducible apply State.enterService_keeps
      | extract_lets
      | split
      | (dsimp +zetaDelta only; split)
      | with_reducible apply Keeps.mkU

theorem execIdentAck_keeps {s₀ s : State} (h : Keeps s₀ s) (l : LinkIx) :
    KeepsO s₀ (execIdentAck l s) := by
  unfold execIdentAck
  repeat'
    first
      | with_reducible assumption
      | intro _
      | with_reducible apply KeepsO.next
      | exact KeepsO.fault _
      | with_reducible apply KeepsOpt.some
      | exact KeepsOpt.none
      | with_reducible apply KeepsO.ite
      | with_reducible apply KeepsOpt.ite
      | with_reducible apply Keeps.ite
      | with_reducible apply State.modLink_keeps
      | with_reducible apply State.enterService_keeps
      | with_reducible apply State.drainProgress_keeps
      | extract_lets
      | split
      | (dsimp +zetaDelta only; split)
      | with_reducible apply Keeps.mkU

theorem execFecLock_keeps {s₀ s : State} (h : Keeps s₀ s) (l : LinkIx) :
    KeepsO s₀ (execFecLock l s) := by
  unfold execFecLock
  repeat'
    first
      | with_reducible assumption
      | intro _
      | with_reducible apply KeepsO.next
      | exact KeepsO.fault _
      | with_reducible apply KeepsOpt.some
      | exact KeepsOpt.none
      | with_reducible apply KeepsO.ite
      | with_reducible apply KeepsOpt.ite
      | with_reducible apply Keeps.ite
      | with_reducible apply State.modLink_keeps
      | with_reducible apply State.sendMgmt_keeps
      | extract_lets
      | split
      | (dsimp +zetaDelta only; split)
      | with_reducible apply Keeps.mkU

theorem execIdentRepeat_keeps {s₀ s : State} (h : Keeps s₀ s) (l : LinkIx) :
    KeepsO s₀ (execIdentRepeat l s) := by
  unfold execIdentRepeat
  repeat'
    first
      | with_reducible assumption
      | intro _
      | with_reducible apply KeepsO.next
      | exact KeepsO.fault _
      | with_reducible apply KeepsOpt.some
      | exact KeepsOpt.none
      | with_reducible apply KeepsO.ite
      | with_reducible apply KeepsOpt.ite
      | with_reducible apply Keeps.ite
      | with_reducible apply State.sendMgmt_keeps
      | extract_lets
      | split
      | (dsimp +zetaDelta only; split)
      | with_reducible apply Keeps.mkU

theorem execSublinkRetrain_keeps {s₀ s : State} (h : Keeps s₀ s) (l : LinkIx) (now : Nat) :
    KeepsO s₀ (execSublinkRetrain l now s) := by
  unfold execSublinkRetrain
  repeat'
    first
      | with_reducible assumption
      | intro _
      | with_reducible apply KeepsO.next
      | exact KeepsO.fault _
      | with_reducible apply KeepsOpt.some
      | exact KeepsOpt.none
      | with_reducible apply KeepsO.ite
      | with_reducible apply KeepsOpt.ite
      | with_reducible apply Keeps.ite
      | with_reducible apply State.at__keeps
      | with_reducible apply State.trainLink_keeps
      | extract_lets
      | split
      | (dsimp +zetaDelta only; split)
      | with_reducible apply Keeps.mkU

theorem State.mapAsked_keeps {s₀ s : State} (h : Keeps s₀ s) (l : Nat) (map : Bytes) :
    Keeps s₀ (State.mapAsked s l map) := by
  unfold State.mapAsked
  repeat'
    first
      | with_reducible assumption
      | intro _
      | with_reducible apply Keeps.ite
      | with_reducible apply State.changeMap_keeps
      | with_reducible apply State.modPort_keeps
      | extract_lets
      | split
      | (dsimp +zetaDelta only; split)
      | with_reducible apply Keeps.mkU

theorem execLaneMapReq_keeps {s₀ s : State} (h : Keeps s₀ s) (l : LinkIx) (m : MapMsg) :
    KeepsO s₀ (execLaneMapReq l m s) := by
  unfold execLaneMapReq
  repeat'
    first
      | with_reducible assumption
      | intro _
      | with_reducible apply KeepsO.next
      | exact KeepsO.fault _
      | with_reducible apply KeepsOpt.some
      | exact KeepsOpt.none
      | with_reducible apply KeepsO.ite
      | with_reducible apply KeepsOpt.ite
      | with_reducible apply Keeps.ite
      | with_reducible apply State.onMessage_keeps
      | with_reducible apply State.mapAsked_keeps
      | extract_lets
      | split
      | (dsimp +zetaDelta only; split)
      | with_reducible apply Keeps.mkU

theorem State.mapAnnounced_keeps {s₀ s : State} (h : Keeps s₀ s) (l : Nat) (switchSeq : Nat) (map : Bytes) :
    Keeps s₀ (State.mapAnnounced s l switchSeq map) := by
  unfold State.mapAnnounced
  repeat'
    first
      | with_reducible assumption
      | intro _
      | with_reducible apply Keeps.ite
      | with_reducible apply State.modLink_keeps
      | with_reducible apply State.sendMgmt_keeps
      | extract_lets
      | split
      | (dsimp +zetaDelta only; split)
      | with_reducible apply Keeps.mkU

theorem execLaneMap_keeps {s₀ s : State} (h : Keeps s₀ s) (l : LinkIx) (m : MapMsg) (switchSeq : Half) :
    KeepsO s₀ (execLaneMap l m switchSeq s) := by
  unfold execLaneMap
  repeat'
    first
      | with_reducible assumption
      | intro _
      | with_reducible apply KeepsO.next
      | exact KeepsO.fault _
      | with_reducible apply KeepsOpt.some
      | exact KeepsOpt.none
      | with_reducible apply KeepsO.ite
      | with_reducible apply KeepsOpt.ite
      | with_reducible apply Keeps.ite
      | with_reducible apply State.onMessage_keeps
      | with_reducible apply State.mapAnnounced_keeps
      | extract_lets
      | split
      | (dsimp +zetaDelta only; split)
      | with_reducible apply Keeps.mkU

theorem execLinkDown_keeps {s₀ s : State} (h : Keeps s₀ s) (l : LinkIx) (m : SeqTime) :
    KeepsO s₀ (execLinkDown l m s) := by
  unfold execLinkDown
  repeat'
    first
      | with_reducible assumption
      | intro _
      | with_reducible apply KeepsO.next
      | exact KeepsO.fault _
      | with_reducible apply KeepsOpt.some
      | exact KeepsOpt.none
      | with_reducible apply KeepsO.ite
      | with_reducible apply KeepsOpt.ite
      | with_reducible apply Keeps.ite
      | with_reducible apply State.at__keeps
      | with_reducible apply State.onMessage_keeps
      | with_reducible apply State.loseLink_keeps
      | extract_lets
      | split
      | (dsimp +zetaDelta only; split)
      | with_reducible apply Keeps.mkU

theorem execFarFrameResend_keeps {s₀ s : State} (h : Keeps s₀ s) (l : LinkIx) (retry : Bool) (expSeq : Half) (now : Nat) :
    KeepsO s₀ (execFarFrameResend l retry expSeq now s) := by
  unfold execFarFrameResend
  repeat'
    first
      | with_reducible assumption
      | intro _
      | with_reducible apply KeepsO.next
      | exact KeepsO.fault _
      | with_reducible apply KeepsOpt.some
      | exact KeepsOpt.none
      | with_reducible apply KeepsO.ite
      | with_reducible apply KeepsOpt.ite
      | with_reducible apply Keeps.ite
      | with_reducible apply State.at__keeps
      | with_reducible apply State.resendLink_keeps
      | extract_lets
      | split
      | (dsimp +zetaDelta only; split)
      | with_reducible apply Keeps.mkU

theorem execSublinkLoss_keeps {s₀ s : State} (h : Keeps s₀ s) (l : LinkIx) (now : Nat) :
    KeepsO s₀ (execSublinkLoss l now s) := by
  unfold execSublinkLoss
  repeat'
    first
      | with_reducible assumption
      | intro _
      | with_reducible apply KeepsO.next
      | exact KeepsO.fault _
      | with_reducible apply KeepsOpt.some
      | exact KeepsOpt.none
      | with_reducible apply KeepsO.ite
      | with_reducible apply KeepsOpt.ite
      | with_reducible apply Keeps.ite
      | with_reducible apply State.at__keeps
      | with_reducible apply State.loseLink_keeps
      | extract_lets
      | split
      | (dsimp +zetaDelta only; split)
      | with_reducible apply Keeps.mkU

theorem execChannelLoss_keeps {s₀ s : State} (h : Keeps s₀ s) (l : LinkIx) (now : Nat) :
    KeepsO s₀ (execChannelLoss l now s) := by
  unfold execChannelLoss
  repeat'
    first
      | with_reducible assumption
      | intro _
      | with_reducible apply KeepsO.next
      | exact KeepsO.fault _
      | with_reducible apply KeepsOpt.some
      | exact KeepsOpt.none
      | with_reducible apply KeepsO.ite
      | with_reducible apply KeepsOpt.ite
      | with_reducible apply Keeps.ite
      | with_reducible apply State.at__keeps
      | with_reducible apply State.loseLink_keeps
      | extract_lets
      | split
      | (dsimp +zetaDelta only; split)
      | with_reducible apply Keeps.mkU

theorem execFibreFailed_keeps {s₀ s : State} (h : Keeps s₀ s) (f : FabFibreIx) (now : Nat) :
    KeepsO s₀ (execFibreFailed f now s) := by
  unfold execFibreFailed
  repeat'
    first
      | with_reducible assumption
      | intro _
      | with_reducible apply KeepsO.next
      | exact KeepsO.fault _
      | with_reducible apply KeepsOpt.some
      | exact KeepsOpt.none
      | with_reducible apply KeepsO.ite
      | with_reducible apply KeepsOpt.ite
      | with_reducible apply Keeps.ite
      | with_reducible apply State.at__keeps
      | with_reducible apply State.failChannel_keeps
      | with_reducible apply State.drainProgress_keeps
      | with_reducible apply Keeps.foldl
      | with_reducible apply Keeps.foldl_fst
      | with_reducible apply Keeps.foldl_snd
      | extract_lets
      | split
      | (dsimp +zetaDelta only; split)
      | with_reducible apply Keeps.mkU

end Sys2Proof.Machine
end

