-- ==== Sys2Proof/Laws/KeepsPaths.lean ====
section
/-!
SUPPORT. What every operation of Machine/Paths.lean keeps (Laws/Keeps.lean).
-/
namespace Sys2Proof.Machine

set_option Elab.async false
set_option linter.all false

theorem State.announceMap_keeps {s₀ s : State} (h : Keeps s₀ s) (p : Nat) :
    Keeps s₀ (State.announceMap s p) := by
  unfold State.announceMap
  repeat'
    first
      | with_reducible assumption
      | intro _
      | with_reducible apply Keeps.ite
      | with_reducible apply State.changeMap_keeps
      | extract_lets
      | split
      | (dsimp +zetaDelta only; split)
      | with_reducible apply Keeps.mkU

theorem State.stopSweep_keeps {s₀ s : State} (h : Keeps s₀ s) (p : Nat) :
    Keeps s₀ (State.stopSweep s p) := by
  unfold State.stopSweep
  repeat'
    first
      | with_reducible assumption
      | intro _
      | with_reducible apply Keeps.ite
      | with_reducible apply State.modPort_keeps
      | with_reducible apply State.announceMap_keeps
      | extract_lets
      | split
      | (dsimp +zetaDelta only; split)
      | with_reducible apply Keeps.mkU

theorem State.takeBank_keeps {s₀ s : State} (h : Keeps s₀ s) (feed : Nat) (bank : Nat) :
    Keeps s₀ (State.takeBank s feed bank) := by
  unfold State.takeBank
  repeat'
    first
      | with_reducible assumption
      | intro _
      | with_reducible apply Keeps.ite
      | with_reducible apply State.modBank_keeps
      | extract_lets
      | split
      | (dsimp +zetaDelta only; split)
      | with_reducible apply Keeps.mkU

theorem State.underSwap_keeps {s₀ s : State} (h : Keeps s₀ s) (feed : Nat) :
    Keeps s₀ (State.underSwap s feed) := by
  unfold State.underSwap
  repeat'
    first
      | with_reducible assumption
      | intro _
      | with_reducible apply Keeps.ite
      | with_reducible apply State.stopSweep_keeps
      | with_reducible apply Keeps.foldl
      | with_reducible apply Keeps.foldl_fst
      | with_reducible apply Keeps.foldl_snd
      | extract_lets
      | split
      | (dsimp +zetaDelta only; split)
      | with_reducible apply Keeps.mkU

theorem State.startSwap_keeps {s₀ s : State} (h : Keeps s₀ s) (feed : Nat) (faulted : Nat) :
    Keeps s₀ (State.startSwap s feed faulted) := by
  unfold State.startSwap
  repeat'
    first
      | with_reducible assumption
      | intro _
      | with_reducible apply Keeps.ite
      | with_reducible apply State.underSwap_keeps
      | with_reducible apply State.announceAll_keeps
      | extract_lets
      | split
      | (dsimp +zetaDelta only; split)
      | with_reducible apply Keeps.mkU
      | with_reducible apply Keeps.foldl
      | with_reducible apply Keeps.foldl_fst
      | with_reducible apply Keeps.foldl_snd

theorem State.darken_keeps {s₀ s : State} (h : Keeps s₀ s) (feed : Nat) :
    Keeps s₀ (State.darken s feed) := by
  unfold State.darken
  repeat'
    first
      | with_reducible assumption
      | intro _
      | with_reducible apply Keeps.ite
      | with_reducible apply State.stopSweep_keeps
      | with_reducible apply State.modPort_keeps
      | with_reducible apply State.stopUsers_keeps
      | with_reducible apply State.releasePending_keeps
      | with_reducible apply State.drainProgress_keeps
      | with_reducible apply Keeps.foldl
      | with_reducible apply Keeps.foldl_fst
      | with_reducible apply Keeps.foldl_snd
      | extract_lets
      | split
      | (dsimp +zetaDelta only; split)
      | with_reducible apply Keeps.mkU

theorem State.bankFault_keeps {s₀ s : State} (h : Keeps s₀ s) (b : Nat) (feed : Nat) :
    Keeps s₀ (State.bankFault s b feed) := by
  unfold State.bankFault
  repeat'
    first
      | with_reducible assumption
      | intro _
      | with_reducible apply Keeps.ite
      | with_reducible apply State.modBank_keeps
      | with_reducible apply State.takeSpare_keeps
      | with_reducible apply State.takeBank_keeps
      | with_reducible apply State.faultActed_keeps
      | with_reducible apply State.startSwap_keeps
      | with_reducible apply State.darken_keeps
      | extract_lets
      | split
      | (dsimp +zetaDelta only; split)
      | with_reducible apply Keeps.mkU

theorem State.idleBankFault_keeps {s₀ s : State} (h : Keeps s₀ s) (b : Nat) :
    Keeps s₀ (State.idleBankFault s b) := by
  unfold State.idleBankFault
  repeat'
    first
      | with_reducible assumption
      | intro _
      | with_reducible apply Keeps.ite
      | with_reducible apply State.modBank_keeps
      | with_reducible apply State.faultActed_keeps
      | extract_lets
      | split
      | (dsimp +zetaDelta only; split)
      | with_reducible apply Keeps.mkU
      | with_reducible apply Keeps.mkFirm
      | with_reducible exact rfl
      | with_reducible exact List.prefix_refl _
      | (dsimp +zetaDelta only; with_reducible exact rfl)
      | (dsimp +zetaDelta only; with_reducible exact List.prefix_refl _)
      | exact rfl
      | exact List.prefix_refl _
      | exact List.prefix_append _ _

theorem State.replaced_keeps {s₀ s : State} (h : Keeps s₀ s) (kind : Nat) (origin : Nat) (action : Nat) (unit : Nat) (detail : Word) (cls : Nat) :
    Keeps s₀ (State.replaced s kind origin action unit detail cls) := by
  unfold State.replaced
  repeat'
    first
      | with_reducible assumption
      | intro _
      | with_reducible apply Keeps.ite
      | with_reducible apply State.addDefect_keeps
      | with_reducible apply State.notice0_keeps
      | with_reducible apply State.faultActed_keeps
      | extract_lets
      | split
      | (dsimp +zetaDelta only; split)
      | with_reducible apply Keeps.mkU

theorem State.portFails_keeps {s₀ s : State} (h : Keeps s₀ s) (p : Nat) :
    Keeps s₀ (State.portFails s p) := by
  unfold State.portFails
  repeat'
    first
      | with_reducible assumption
      | intro _
      | with_reducible apply Keeps.ite
      | with_reducible apply State.modPort_keeps
      | with_reducible apply State.stopUsers_keeps
      | with_reducible apply State.releasePending_keeps
      | with_reducible apply State.drainProgress_keeps
      | extract_lets
      | split
      | (dsimp +zetaDelta only; split)
      | with_reducible apply Keeps.mkU

theorem State.retirePosition_keeps {s₀ s : State} (h : Keeps s₀ s) (p : Nat) (pos : Nat) (origin : Nat) :
    Keeps s₀ (State.retirePosition s p pos origin) := by
  unfold State.retirePosition
  repeat'
    first
      | with_reducible assumption
      | intro _
      | with_reducible apply Keeps.ite
      | with_reducible apply State.modPort_keeps
      | with_reducible apply State.replaced_keeps
      | with_reducible apply State.announceMap_keeps
      | with_reducible apply State.takeSpare_keeps
      | with_reducible apply State.portFails_keeps
      | extract_lets
      | split
      | (dsimp +zetaDelta only; split)
      | with_reducible apply Keeps.mkU
      | with_reducible apply Keeps.mkFirm
      | with_reducible exact rfl
      | with_reducible exact List.prefix_refl _
      | (dsimp +zetaDelta only; with_reducible exact rfl)
      | (dsimp +zetaDelta only; with_reducible exact List.prefix_refl _)
      | exact rfl
      | exact List.prefix_refl _
      | exact List.prefix_append _ _

theorem State.ringFails_keeps {s₀ s : State} (h : Keeps s₀ s) (p : Nat) (pos : Nat) (origin : Nat) :
    Keeps s₀ (State.ringFails s p pos origin) := by
  unfold State.ringFails
  repeat'
    first
      | with_reducible assumption
      | intro _
      | with_reducible apply Keeps.ite
      | with_reducible apply State.retirePosition_keeps
      | with_reducible apply State.modPort_keeps
      | with_reducible apply State.takeSpare_keeps
      | with_reducible apply State.replaced_keeps
      | with_reducible apply State.announceMap_keeps
      | extract_lets
      | split
      | (dsimp +zetaDelta only; split)
      | with_reducible apply Keeps.mkU

theorem State.pathFails_keeps {s₀ s : State} (h : Keeps s₀ s) (p : Nat) (q : Nat) :
    Keeps s₀ (State.pathFails s p q) := by
  unfold State.pathFails
  repeat'
    first
      | with_reducible assumption
      | intro _
      | with_reducible apply Keeps.ite
      | with_reducible apply State.takeSpare_keeps
      | with_reducible apply State.faultActed_keeps
      | with_reducible apply State.draw_keeps
      | with_reducible apply State.retirePosition_keeps
      | with_reducible apply State.ringFails_keeps
      | with_reducible apply State.bankFault_keeps
      | with_reducible apply State.portFails_keeps
      | extract_lets
      | split
      | (dsimp +zetaDelta only; split)
      | with_reducible apply Keeps.mkU

end Sys2Proof.Machine
end

