-- ==== Sys2Proof/Laws/KeepsBase.lean ====
section
/-!
SUPPORT. What every operation of Machine/Base.lean keeps (Laws/Keeps.lean).
-/
namespace Sys2Proof.Machine

set_option Elab.async false
set_option linter.all false

theorem State.countTx_keeps {s₀ s : State} (h : Keeps s₀ s) (p : Nat) (index : Nat) :
    Keeps s₀ (State.countTx s p index) := by
  unfold State.countTx
  repeat'
    first
      | with_reducible assumption
      | intro _
      | with_reducible apply Keeps.ite
      | with_reducible apply State.bump_keeps
      | extract_lets
      | split
      | (dsimp +zetaDelta only; split)
      | with_reducible apply Keeps.mkU

theorem State.takeField_keeps {s₀ s : State} (h : Keeps s₀ s) (p : Nat) :
    Keeps s₀ (State.takeField s p).2 := by
  unfold State.takeField
  repeat'
    first
      | with_reducible assumption
      | intro _
      | with_reducible apply Keeps.ite
      | with_reducible apply State.modPort_keeps
      | with_reducible apply State.bump_keeps
      | extract_lets
      | split
      | (dsimp +zetaDelta only; split)
      | with_reducible apply Keeps.mkU

theorem State.sourceUsed_keeps {s₀ s : State} (h : Keeps s₀ s) (p : Nat) (e : BitVec 256) (period : Nat) (m : Nat) (poison : List Nat) :
    Keeps s₀ (State.sourceUsed s p e period m poison) := by
  unfold State.sourceUsed
  repeat'
    first
      | with_reducible assumption
      | intro _
      | with_reducible apply Keeps.ite
      | with_reducible apply State.touch_keeps
      | with_reducible apply State.eccRead_keeps
      | with_reducible apply State.bump_keeps
      | with_reducible apply State.modFmu_keeps
      | extract_lets
      | split
      | (dsimp +zetaDelta only; split)
      | with_reducible apply Keeps.mkU

theorem State.sendBillet_keeps {s₀ s : State} (h : Keeps s₀ s) (m : Nat) (x : Nat × Nat × BitVec 256 × Nat) :
    Keeps s₀ (State.sendBillet s m x) := by
  unfold State.sendBillet
  repeat'
    first
      | with_reducible assumption
      | intro _
      | with_reducible apply Keeps.ite
      | with_reducible apply State.modPort_keeps
      | with_reducible apply State.takeField_keeps
      | with_reducible apply State.sourceUsed_keeps
      | with_reducible apply State.countTx_keeps
      | with_reducible apply State.emit_keeps
      | extract_lets
      | split
      | (dsimp +zetaDelta only; split)
      | with_reducible apply Keeps.mkU

theorem State.sendDyn_keeps {s₀ s : State} (h : Keeps s₀ s) (p : Nat) (g : DynGrant) :
    Keeps s₀ (State.sendDyn s p g) := by
  unfold State.sendDyn
  repeat'
    first
      | with_reducible assumption
      | intro _
      | with_reducible apply Keeps.ite
      | with_reducible apply State.modPort_keeps
      | with_reducible apply State.takeField_keeps
      | with_reducible apply State.countTx_keeps
      | with_reducible apply State.bump_keeps
      | with_reducible apply State.emit_keeps
      | extract_lets
      | split
      | (dsimp +zetaDelta only; split)
      | with_reducible apply Keeps.mkU

theorem State.releaseGrants_keeps {s₀ s : State} (h : Keeps s₀ s) (p : Nat) (gs : List DynGrant) :
    Keeps s₀ (State.releaseGrants s p gs) := by
  unfold State.releaseGrants
  repeat'
    first
      | with_reducible assumption
      | intro _
      | with_reducible apply Keeps.ite
      | with_reducible apply State.modPort_keeps
      | extract_lets
      | split
      | (dsimp +zetaDelta only; split)
      | with_reducible apply Keeps.mkU

theorem State.sendGrants_keeps {s₀ s : State} (h : Keeps s₀ s) (tx : List Nat) (rx : List Nat) (used : List Nat) :
    Keeps s₀ (State.sendGrants s tx rx used) := by
  unfold State.sendGrants
  repeat'
    first
      | with_reducible assumption
      | intro _
      | with_reducible apply Keeps.ite
      | with_reducible apply State.releaseGrants_keeps
      | with_reducible apply State.sendDyn_keeps
      | with_reducible apply Keeps.foldl
      | with_reducible apply Keeps.foldl_fst
      | with_reducible apply Keeps.foldl_snd
      | extract_lets
      | split
      | (dsimp +zetaDelta only; split)
      | with_reducible apply Keeps.mkU

theorem State.sendIdle_keeps {s₀ s : State} (h : Keeps s₀ s) (busy : List Nat) :
    Keeps s₀ (State.sendIdle s busy) := by
  unfold State.sendIdle
  repeat'
    first
      | with_reducible assumption
      | intro _
      | with_reducible apply Keeps.ite
      | with_reducible apply State.takeField_keeps
      | with_reducible apply State.emit_keeps
      | with_reducible apply State.bump_keeps
      | with_reducible apply State.pumpProtected_keeps
      | with_reducible apply Keeps.foldl
      | with_reducible apply Keeps.foldl_fst
      | with_reducible apply Keeps.foldl_snd
      | extract_lets
      | split
      | (dsimp +zetaDelta only; split)
      | with_reducible apply Keeps.mkU

theorem State.modPending_keeps {s₀ s : State} (h : Keeps s₀ s) (p : Nat) (slot : Nat) (f : PendingBillet → PendingBillet) :
    Keeps s₀ (State.modPending s p slot f) := by
  unfold State.modPending
  repeat'
    first
      | with_reducible assumption
      | intro _
      | with_reducible apply Keeps.ite
      | with_reducible apply State.modPort_keeps
      | extract_lets
      | split
      | (dsimp +zetaDelta only; split)
      | with_reducible apply Keeps.mkU

theorem State.billetFails_keeps {s₀ s : State} (h : Keeps s₀ s) (p : Nat) (b : PendingBillet) (index : Nat) :
    Keeps s₀ (State.billetFails s p b index) := by
  unfold State.billetFails
  repeat'
    first
      | with_reducible assumption
      | intro _
      | with_reducible apply Keeps.ite
      | with_reducible apply State.bump_keeps
      | with_reducible apply State.emit_keeps
      | with_reducible apply State.modPending_keeps
      | with_reducible apply State.pathFails_keeps
      | extract_lets
      | split
      | (dsimp +zetaDelta only; split)
      | with_reducible apply Keeps.mkU

theorem State.noticeSilent_keeps {s₀ s : State} (h : Keeps s₀ s) :
    Keeps s₀ (State.noticeSilent s) := by
  unfold State.noticeSilent
  repeat'
    first
      | with_reducible assumption
      | intro _
      | with_reducible apply Keeps.ite
      | with_reducible apply State.billetFails_keeps
      | with_reducible apply Keeps.foldl
      | with_reducible apply Keeps.foldl_fst
      | with_reducible apply Keeps.foldl_snd
      | extract_lets
      | split
      | (dsimp +zetaDelta only; split)
      | with_reducible apply Keeps.mkU

theorem State.setRepairs_keeps {s₀ s : State} (h : Keeps s₀ s) (on : Bool) :
    Keeps s₀ (State.setRepairs s on) := by
  unfold State.setRepairs
  repeat'
    first
      | with_reducible assumption
      | intro _
      | with_reducible apply Keeps.ite
      | extract_lets
      | split
      | (dsimp +zetaDelta only; split)
      | with_reducible apply Keeps.mkU

theorem State.startRepairHold_keeps {s₀ s : State} (h : Keeps s₀ s) (m : Nat) :
    Keeps s₀ (State.startRepairHold s m) := by
  unfold State.startRepairHold
  repeat'
    first
      | with_reducible assumption
      | intro _
      | with_reducible apply Keeps.ite
      | extract_lets
      | split
      | (dsimp +zetaDelta only; split)
      | with_reducible apply Keeps.mkU
      | with_reducible apply Keeps.foldl
      | with_reducible apply Keeps.foldl_fst
      | with_reducible apply Keeps.foldl_snd

theorem State.gapCovers_keeps {s₀ s : State} (h : Keeps s₀ s) (t : Nat) (also : List Nat) :
    Keeps s₀ (State.gapCovers s t also) := by
  unfold State.gapCovers
  repeat'
    first
      | with_reducible assumption
      | intro _
      | with_reducible apply Keeps.ite
      | with_reducible apply State.idle_keeps
      | with_reducible apply State.startTimers_keeps
      | extract_lets
      | split
      | (dsimp +zetaDelta only; split)
      | with_reducible apply Keeps.mkU

theorem State.endSweeps_keeps {s₀ s : State} (h : Keeps s₀ s) :
    Keeps s₀ (State.endSweeps s) := by
  unfold State.endSweeps
  repeat'
    first
      | with_reducible assumption
      | intro _
      | with_reducible apply Keeps.ite
      | with_reducible apply State.stopSweep_keeps
      | with_reducible apply State.modPort_keeps
      | with_reducible apply Keeps.foldl
      | with_reducible apply Keeps.foldl_fst
      | with_reducible apply Keeps.foldl_snd
      | extract_lets
      | split
      | (dsimp +zetaDelta only; split)
      | with_reducible apply Keeps.mkU

theorem State.passCycles_keeps {s₀ s : State} (h : Keeps s₀ s) (sched : Nat) (hold : Nat) :
    Keeps s₀ (State.passCycles s sched hold) :=
  ⟨h.pending, Nat.le_trans h.drawn (Nat.le_add_right _ _), h.mem, h.host, h.defects, h.revoked, h.ctrs⟩

theorem State.launchSlot_keeps {s₀ s : State} (h : Keeps s₀ s) (m : Nat) :
    Keeps s₀ (State.launchSlot s m) := by
  unfold State.launchSlot
  repeat'
    first
      | with_reducible assumption
      | intro _
      | with_reducible apply Keeps.ite
      | with_reducible apply State.passCycles_keeps
      | with_reducible apply State.gapCovers_keeps
      | with_reducible apply State.endSweeps_keeps
      | with_reducible apply State.noticeSilent_keeps
      | with_reducible apply State.setRepairs_keeps
      | with_reducible apply State.sendBillet_keeps
      | with_reducible apply State.sendGrants_keeps
      | with_reducible apply State.sendIdle_keeps
      | with_reducible apply Keeps.foldl
      | with_reducible apply Keeps.foldl_fst
      | with_reducible apply Keeps.foldl_snd
      | extract_lets
      | split
      | (dsimp +zetaDelta only; split)
      | with_reducible apply Keeps.mkU

theorem execFrameLaunch_keeps {s₀ s : State} (h : Keeps s₀ s) :
    KeepsO s₀ (execFrameLaunch s) := by
  unfold execFrameLaunch
  repeat'
    first
      | with_reducible assumption
      | intro _
      | with_reducible apply KeepsO.next
      | exact KeepsO.fault _
      | with_reducible apply KeepsOpt.some
      | exact KeepsOpt.none
      | with_reducible apply KeepsO.ite
      | with_reducible apply KeepsOpt.ite
      | with_reducible apply Keeps.ite
      | with_reducible apply State.startRepairHold_keeps
      | with_reducible apply State.launchSlot_keeps
      | extract_lets
      | split
      | (dsimp +zetaDelta only; split)
      | with_reducible apply Keeps.mkU

theorem State.launchBetween_keeps {s₀ s : State} (h : Keeps s₀ s) :
    Keeps s₀ (State.launchBetween s) := by
  unfold State.launchBetween
  repeat'
    first
      | with_reducible assumption
      | intro _
      | with_reducible apply Keeps.ite
      | with_reducible apply State.passCycles_keeps
      | with_reducible apply State.noticeSilent_keeps
      | with_reducible apply State.setRepairs_keeps
      | with_reducible apply State.sendGrants_keeps
      | with_reducible apply State.sendIdle_keeps
      | extract_lets
      | split
      | (dsimp +zetaDelta only; split)
      | with_reducible apply Keeps.mkU

theorem execInterstitialFrame_keeps {s₀ s : State} (h : Keeps s₀ s) :
    KeepsO s₀ (execInterstitialFrame s) := by
  unfold execInterstitialFrame
  repeat'
    first
      | with_reducible assumption
      | intro _
      | with_reducible apply KeepsO.next
      | exact KeepsO.fault _
      | with_reducible apply KeepsOpt.some
      | exact KeepsOpt.none
      | with_reducible apply KeepsO.ite
      | with_reducible apply KeepsOpt.ite
      | with_reducible apply Keeps.ite
      | with_reducible apply State.launchBetween_keeps
      | extract_lets
      | split
      | (dsimp +zetaDelta only; split)
      | with_reducible apply Keeps.mkU

theorem State.billetPlaced_keeps {s₀ s : State} (h : Keeps s₀ s) (p : Nat) (b : PendingBillet) :
    Keeps s₀ (State.billetPlaced s p b) := by
  unfold State.billetPlaced
  repeat'
    first
      | with_reducible assumption
      | intro _
      | with_reducible apply Keeps.ite
      | with_reducible apply State.modPort_keeps
      | extract_lets
      | split
      | (dsimp +zetaDelta only; split)
      | with_reducible apply Keeps.mkU

theorem State.placeBillet_keeps {s₀ s : State} (h : Keeps s₀ s) (p : Nat) (b : PendingBillet) (xh : BitVec 512) (payload : Bytes) (poison : List Nat) (arrive : Option Nat) :
    Keeps s₀ (State.placeBillet s p b xh payload poison arrive) := by
  unfold State.placeBillet
  repeat'
    first
      | with_reducible assumption
      | intro _
      | with_reducible apply Keeps.ite
      | with_reducible apply State.modCd_keeps
      | with_reducible apply State.touch_keeps
      | with_reducible apply State.putSite_keeps
      | with_reducible apply State.bump_keeps
      | with_reducible apply State.modFmu_keeps
      | with_reducible apply State.queueLink_keeps
      | with_reducible apply Keeps.foldl
      | with_reducible apply Keeps.foldl_fst
      | with_reducible apply Keeps.foldl_snd
      | extract_lets
      | split
      | (dsimp +zetaDelta only; split)
      | with_reducible apply Keeps.mkU

theorem State.billetArrives_keeps {s₀ s : State} (h : Keeps s₀ s) (p : Nat) (b : PendingBillet) (hdr : BitVec 512) (payload : Bytes) :
    Keeps s₀ (State.billetArrives s p b hdr payload) := by
  unfold State.billetArrives
  repeat'
    first
      | with_reducible assumption
      | intro _
      | with_reducible apply Keeps.ite
      | with_reducible apply State.placeBillet_keeps
      | with_reducible apply State.billetPlaced_keeps
      | with_reducible apply State.bump_keeps
      | with_reducible apply State.sendArrival_keeps
      | with_reducible apply State.drainProgress_keeps
      | extract_lets
      | split
      | (dsimp +zetaDelta only; split)
      | with_reducible apply Keeps.mkU

theorem execBilletReceive_keeps {s₀ s : State} (h : Keeps s₀ s) (p : PortIx) (hdr : BitVec 512) (payload : Bytes) :
    KeepsO s₀ (execBilletReceive p hdr payload s) := by
  unfold execBilletReceive
  repeat'
    first
      | with_reducible assumption
      | intro _
      | with_reducible apply KeepsO.next
      | exact KeepsO.fault _
      | with_reducible apply KeepsOpt.some
      | exact KeepsOpt.none
      | with_reducible apply KeepsO.ite
      | with_reducible apply KeepsOpt.ite
      | with_reducible apply Keeps.ite
      | with_reducible apply State.billetFails_keeps
      | with_reducible apply State.bump_keeps
      | with_reducible apply State.billetArrives_keeps
      | extract_lets
      | split
      | (dsimp +zetaDelta only; split)
      | with_reducible apply Keeps.mkU

theorem State.lateSource_keeps {s₀ s : State} (h : Keeps s₀ s) (p : Nat) (q : Nat) (b : PendingBillet) (y : BilletSt) :
    Keeps s₀ (State.lateSource s p q b y) := by
  unfold State.lateSource
  repeat'
    first
      | with_reducible assumption
      | intro _
      | with_reducible apply Keeps.ite
      | with_reducible apply State.sourceUsed_keeps
      | extract_lets
      | split
      | (dsimp +zetaDelta only; split)
      | with_reducible apply Keeps.mkU

theorem State.sendRepair_keeps {s₀ s : State} (h : Keeps s₀ s) (p : Nat) (q : Nat) (b : PendingBillet) (y : BilletSt) :
    Keeps s₀ (State.sendRepair s p q b y) := by
  unfold State.sendRepair
  repeat'
    first
      | with_reducible assumption
      | intro _
      | with_reducible apply Keeps.ite
      | with_reducible apply State.lateSource_keeps
      | with_reducible apply State.takeField_keeps
      | with_reducible apply State.modPort_keeps
      | with_reducible apply State.modPending_keeps
      | with_reducible apply State.countTx_keeps
      | with_reducible apply State.emit_keeps
      | with_reducible apply State.pumpProtected_keeps
      | extract_lets
      | split
      | (dsimp +zetaDelta only; split)
      | with_reducible apply Keeps.mkU

theorem execRepairSend_keeps {s₀ s : State} (h : Keeps s₀ s) (p : PortIx) :
    KeepsO s₀ (execRepairSend p s) := by
  unfold execRepairSend
  repeat'
    first
      | with_reducible assumption
      | intro _
      | with_reducible apply KeepsO.next
      | exact KeepsO.fault _
      | with_reducible apply KeepsOpt.some
      | exact KeepsOpt.none
      | with_reducible apply KeepsO.ite
      | with_reducible apply KeepsOpt.ite
      | with_reducible apply Keeps.ite
      | with_reducible apply State.sendRepair_keeps
      | extract_lets
      | split
      | (dsimp +zetaDelta only; split)
      | with_reducible apply Keeps.mkU

theorem execRepairHoldCheck_keeps {s₀ s : State} (h : Keeps s₀ s) (p : PortIx) :
    KeepsO s₀ (execRepairHoldCheck p s) := by
  unfold execRepairHoldCheck
  repeat'
    first
      | with_reducible assumption
      | intro _
      | with_reducible apply KeepsO.next
      | exact KeepsO.fault _
      | with_reducible apply KeepsOpt.some
      | exact KeepsOpt.none
      | with_reducible apply KeepsO.ite
      | with_reducible apply KeepsOpt.ite
      | with_reducible apply Keeps.ite
      | with_reducible apply Keeps.foldl
      | with_reducible apply Keeps.foldl_fst
      | with_reducible apply Keeps.foldl_snd
      | extract_lets
      | split
      | (dsimp +zetaDelta only; split)
      | with_reducible apply Keeps.mkU

theorem execRepairHoldEnd_keeps {s₀ s : State} (h : Keeps s₀ s) :
    KeepsO s₀ (execRepairHoldEnd s) := by
  unfold execRepairHoldEnd
  repeat'
    first
      | with_reducible assumption
      | intro _
      | with_reducible apply KeepsO.next
      | exact KeepsO.fault _
      | with_reducible apply KeepsOpt.some
      | exact KeepsOpt.none
      | with_reducible apply KeepsO.ite
      | with_reducible apply KeepsOpt.ite
      | with_reducible apply Keeps.ite
      | extract_lets
      | split
      | (dsimp +zetaDelta only; split)
      | with_reducible apply Keeps.mkU

end Sys2Proof.Machine
end

