-- ==== Sys2Proof/Laws/KeepsDynamic.lean ====
section
/-!
SUPPORT. What every operation of Machine/Dynamic.lean keeps (Laws/Keeps.lean).
-/
namespace Sys2Proof.Machine

set_option Elab.async false
set_option linter.all false

theorem execDynamicFrameRequest_keeps {s₀ s : State} (h : Keeps s₀ s) (p : PortIx) :
    KeepsO s₀ (execDynamicFrameRequest p s) := by
  unfold execDynamicFrameRequest
  repeat'
    first
      | with_reducible assumption
      | intro _
      | with_reducible apply KeepsO.next
      | exact KeepsO.fault _
      | with_reducible apply KeepsOpt.some
      | exact KeepsOpt.none
      | with_reducible apply KeepsO.ite
      | with_reducible apply KeepsOpt.ite
      | with_reducible apply Keeps.ite
      | with_reducible apply State.modPort_keeps
      | extract_lets
      | split
      | (dsimp +zetaDelta only; split)
      | with_reducible apply Keeps.mkU

theorem State.grantFrame_keeps {s₀ s : State} (h : Keeps s₀ s) (p : Nat) (r : DynReq) (frame : Nat) :
    Keeps s₀ (State.grantFrame s p r frame) := by
  unfold State.grantFrame
  repeat'
    first
      | with_reducible assumption
      | intro _
      | with_reducible apply Keeps.ite
      | with_reducible apply State.modPort_keeps
      | extract_lets
      | split
      | (dsimp +zetaDelta only; split)
      | with_reducible apply Keeps.mkU

theorem execDynamicGrant_keeps {s₀ s : State} (h : Keeps s₀ s) (p : PortIx) :
    KeepsO s₀ (execDynamicGrant p s) := by
  unfold execDynamicGrant
  repeat'
    first
      | with_reducible assumption
      | intro _
      | with_reducible apply KeepsO.next
      | exact KeepsO.fault _
      | with_reducible apply KeepsOpt.some
      | exact KeepsOpt.none
      | with_reducible apply KeepsO.ite
      | with_reducible apply KeepsOpt.ite
      | with_reducible apply Keeps.ite
      | with_reducible apply State.grantFrame_keeps
      | extract_lets
      | split
      | (dsimp +zetaDelta only; split)
      | with_reducible apply Keeps.mkU
      | with_reducible apply Keeps.foldl
      | with_reducible apply Keeps.foldl_fst
      | with_reducible apply Keeps.foldl_snd

theorem State.deliverPacket_keeps {s₀ s : State} (h : Keeps s₀ s) (port : Nat) (turf : Nat) (p : Packet) (units : Nat) :
    Keeps s₀ (State.deliverPacket s port turf p units) := by
  unfold State.deliverPacket
  repeat'
    first
      | with_reducible assumption
      | intro _
      | with_reducible apply Keeps.ite
      | with_reducible apply State.tally_keeps
      | with_reducible apply State.nackReq_keeps
      | with_reducible apply State.egress_keeps
      | extract_lets
      | split
      | (dsimp +zetaDelta only; split)
      | with_reducible apply Keeps.mkU

theorem execDynamicFrameReceive_keeps {s₀ s : State} (h : Keeps s₀ s) (p : PortIx) (hdr : BitVec 512) (body : Bytes) :
    KeepsO s₀ (execDynamicFrameReceive p hdr body s) := by
  unfold execDynamicFrameReceive
  repeat'
    first
      | with_reducible assumption
      | intro _
      | with_reducible apply KeepsO.next
      | exact KeepsO.fault _
      | with_reducible apply KeepsOpt.some
      | exact KeepsOpt.none
      | with_reducible apply KeepsO.ite
      | with_reducible apply KeepsOpt.ite
      | with_reducible apply Keeps.ite
      | with_reducible apply State.bump_keeps
      | with_reducible apply State.emit_keeps
      | with_reducible apply State.deliverPacket_keeps
      | with_reducible apply Keeps.foldl
      | with_reducible apply Keeps.foldl_fst
      | with_reducible apply Keeps.foldl_snd
      | extract_lets
      | split
      | (dsimp +zetaDelta only; split)
      | with_reducible apply Keeps.mkU

theorem execDynamicFrameAck_keeps {s₀ s : State} (h : Keeps s₀ s) (p : PortIx) (seq : Nat) :
    KeepsO s₀ (execDynamicFrameAck p seq s) := by
  unfold execDynamicFrameAck
  repeat'
    first
      | with_reducible assumption
      | intro _
      | with_reducible apply KeepsO.next
      | exact KeepsO.fault _
      | with_reducible apply KeepsOpt.some
      | exact KeepsOpt.none
      | with_reducible apply KeepsO.ite
      | with_reducible apply KeepsOpt.ite
      | with_reducible apply Keeps.ite
      | with_reducible apply State.modPort_keeps
      | extract_lets
      | split
      | (dsimp +zetaDelta only; split)
      | with_reducible apply Keeps.mkU

theorem State.resendFrames_keeps {s₀ s : State} (h : Keeps s₀ s) (p : Nat) (old : List DynPkt) :
    Keeps s₀ (State.resendFrames s p old) := by
  unfold State.resendFrames
  repeat'
    first
      | with_reducible assumption
      | intro _
      | with_reducible apply Keeps.ite
      | with_reducible apply State.modPort_keeps
      | with_reducible apply State.pathFails_keeps
      | extract_lets
      | split
      | (dsimp +zetaDelta only; split)
      | with_reducible apply Keeps.mkU

theorem execDynamicResend_keeps {s₀ s : State} (h : Keeps s₀ s) (p : PortIx) (now : Nat) :
    KeepsO s₀ (execDynamicResend p now s) := by
  unfold execDynamicResend
  repeat'
    first
      | with_reducible assumption
      | intro _
      | with_reducible apply KeepsO.next
      | exact KeepsO.fault _
      | with_reducible apply KeepsOpt.some
      | exact KeepsOpt.none
      | with_reducible apply KeepsO.ite
      | with_reducible apply KeepsOpt.ite
      | with_reducible apply Keeps.ite
      | with_reducible apply State.at__keeps
      | with_reducible apply State.resendFrames_keeps
      | extract_lets
      | split
      | (dsimp +zetaDelta only; split)
      | with_reducible apply Keeps.mkU

theorem State.signalLeft_keeps {s₀ s : State} (h : Keeps s₀ s) (arg : Word) (addr : DWord) :
    Keeps s₀ (State.signalLeft s arg addr) := by
  unfold State.signalLeft
  repeat'
    first
      | with_reducible assumption
      | intro _
      | with_reducible apply Keeps.ite
      | with_reducible apply State.complete_keeps
      | extract_lets
      | split
      | (dsimp +zetaDelta only; split)
      | with_reducible apply Keeps.mkU

theorem State.forwardSignal_keeps {s₀ s : State} (h : Keeps s₀ s) (arg : Word) (addr : DWord) :
    Keeps s₀ (State.forwardSignal s arg addr) := by
  unfold State.forwardSignal
  repeat'
    first
      | with_reducible assumption
      | intro _
      | with_reducible apply Keeps.ite
      | with_reducible apply State.emit_keeps
      | with_reducible apply State.signalLeft_keeps
      | extract_lets
      | split
      | (dsimp +zetaDelta only; split)
      | with_reducible apply Keeps.mkU

theorem State.faultHeard_keeps {s₀ s : State} (h : Keeps s₀ s) (arg : Word) (count : DWord) :
    Keeps s₀ (State.faultHeard s arg count) := by
  unfold State.faultHeard
  repeat'
    first
      | with_reducible assumption
      | intro _
      | with_reducible apply Keeps.ite
      | extract_lets
      | split
      | (dsimp +zetaDelta only; split)
      | with_reducible apply Keeps.mkU

theorem execFaultNotice_keeps {s₀ s : State} (h : Keeps s₀ s) (arg : Word) (count : DWord) :
    KeepsO s₀ (execFaultNotice arg count s) := by
  unfold execFaultNotice
  repeat'
    first
      | with_reducible assumption
      | intro _
      | with_reducible apply KeepsO.next
      | exact KeepsO.fault _
      | with_reducible apply KeepsOpt.some
      | exact KeepsOpt.none
      | with_reducible apply KeepsO.ite
      | with_reducible apply KeepsOpt.ite
      | with_reducible apply Keeps.ite
      | with_reducible apply State.faultHeard_keeps
      | extract_lets
      | split
      | (dsimp +zetaDelta only; split)
      | with_reducible apply Keeps.mkU

theorem State.protectedEffect_keeps {s₀ s : State} (h : Keeps s₀ s) (dest : Nat) (ptype : Nat) (arg : Word) (addr : DWord) :
    Keeps s₀ (State.protectedEffect s dest ptype arg addr) := by
  unfold State.protectedEffect
  repeat'
    first
      | with_reducible assumption
      | intro _
      | with_reducible apply Keeps.ite
      | with_reducible apply State.forwardSignal_keeps
      | with_reducible apply State.syncApply_keeps
      | with_reducible apply State.refusalArrives_keeps
      | with_reducible apply State.armNotice_keeps
      | with_reducible apply State.cancelNotice_keeps
      | with_reducible apply State.swapAnnounced_keeps
      | with_reducible apply State.faultHeard_keeps
      | extract_lets
      | split
      | (dsimp +zetaDelta only; split)
      | with_reducible apply Keeps.mkU

theorem State.copyArrives_keeps {s₀ s : State} (h : Keeps s₀ s) (key : Nat) (port : Nat) (seq : Nat) (copy : Nat) (effect : State → State) (heffect : ∀ v0, Keeps s₀ v0 → Keeps s₀ (effect v0)) :
    Keeps s₀ (State.copyArrives s key port seq copy effect) := by
  unfold State.copyArrives
  repeat'
    first
      | with_reducible assumption
      | intro _
      | with_reducible apply heffect
      | with_reducible apply Keeps.ite
      | with_reducible apply State.bump_keeps
      | with_reducible apply State.deliver_keeps
      | extract_lets
      | split
      | (dsimp +zetaDelta only; split)
      | with_reducible apply Keeps.mkU

theorem execCarriageReceive_keeps {s₀ s : State} (h : Keeps s₀ s) (src : OepIx) (field : BitVec 128) (now : Nat) :
    KeepsO s₀ (execCarriageReceive src field now s) := by
  unfold execCarriageReceive
  repeat'
    first
      | with_reducible assumption
      | intro _
      | with_reducible apply KeepsO.next
      | exact KeepsO.fault _
      | with_reducible apply KeepsOpt.some
      | exact KeepsOpt.none
      | with_reducible apply KeepsO.ite
      | with_reducible apply KeepsOpt.ite
      | with_reducible apply Keeps.ite
      | with_reducible apply State.at__keeps
      | with_reducible apply State.copyArrives_keeps
      | with_reducible apply State.protectedEffect_keeps
      | extract_lets
      | split
      | (dsimp +zetaDelta only; split)
      | with_reducible apply Keeps.mkU

theorem State.copyMissing_keeps {s₀ s : State} (h : Keeps s₀ s) (key : Nat) (src : Nat) (dst : Nat) (n : Nat) (copy : Nat) :
    Keeps s₀ (State.copyMissing s key src dst n copy) := by
  unfold State.copyMissing
  repeat'
    first
      | with_reducible assumption
      | intro _
      | with_reducible apply Keeps.ite
      | with_reducible apply State.bump_keeps
      | with_reducible apply State.announceAll_keeps
      | with_reducible apply State.addWear_keeps
      | with_reducible apply State.notice0_keeps
      | extract_lets
      | split
      | (dsimp +zetaDelta only; split)
      | with_reducible apply Keeps.mkU

theorem execMissingDuplicate_keeps {s₀ s : State} (h : Keeps s₀ s) (src : OepIx) (dst : OepIx) (seq : Half) (now : Nat) :
    KeepsO s₀ (execMissingDuplicate src dst seq now s) := by
  unfold execMissingDuplicate
  repeat'
    first
      | with_reducible assumption
      | intro _
      | with_reducible apply KeepsO.next
      | exact KeepsO.fault _
      | with_reducible apply KeepsOpt.some
      | exact KeepsOpt.none
      | with_reducible apply KeepsO.ite
      | with_reducible apply KeepsOpt.ite
      | with_reducible apply Keeps.ite
      | with_reducible apply State.at__keeps
      | with_reducible apply State.copyMissing_keeps
      | extract_lets
      | split
      | (dsimp +zetaDelta only; split)
      | with_reducible apply Keeps.mkU

end Sys2Proof.Machine
end

