-- ==== Sys2Proof/Laws/KeepsLight.lean ====
section
/-!
SUPPORT. What every operation of Machine/Light.lean keeps (Laws/Keeps.lean).
-/
namespace Sys2Proof.Machine

set_option Elab.async false
set_option linter.all false

theorem execBankMonitorSample_keeps {s₀ s : State} (h : Keeps s₀ s) (b : BankIx) (output : Nat) (lineMin : Nat) (biasAtLimit : Bool) (now : Nat) :
    KeepsO s₀ (execBankMonitorSample b output lineMin biasAtLimit now s) := by
  unfold execBankMonitorSample
  repeat'
    first
      | with_reducible assumption
      | intro _
      | with_reducible apply KeepsO.next
      | exact KeepsO.fault _
      | with_reducible apply KeepsOpt.some
      | exact KeepsOpt.none
      | with_reducible apply KeepsO.ite
      | with_reducible apply KeepsOpt.ite
      | with_reducible apply Keeps.ite
      | with_reducible apply State.at__keeps
      | with_reducible apply State.output_keeps
      | with_reducible apply State.modBank_keeps
      | with_reducible apply State.bankFault_keeps
      | with_reducible apply State.idleBankFault_keeps
      | extract_lets
      | split
      | (dsimp +zetaDelta only; split)
      | with_reducible apply Keeps.mkU

theorem execLightHoldStart_keeps {s₀ s : State} (h : Keeps s₀ s) (now : Nat) :
    KeepsO s₀ (execLightHoldStart now s) := by
  unfold execLightHoldStart
  repeat'
    first
      | with_reducible assumption
      | intro _
      | with_reducible apply KeepsO.next
      | exact KeepsO.fault _
      | with_reducible apply KeepsOpt.some
      | exact KeepsOpt.none
      | with_reducible apply KeepsO.ite
      | with_reducible apply KeepsOpt.ite
      | with_reducible apply Keeps.ite
      | with_reducible apply State.at__keeps
      | extract_lets
      | split
      | (dsimp +zetaDelta only; split)
      | with_reducible apply Keeps.mkU

theorem execLightHoldEnd_keeps {s₀ s : State} (h : Keeps s₀ s) (now : Nat) :
    KeepsO s₀ (execLightHoldEnd now s) := by
  unfold execLightHoldEnd
  repeat'
    first
      | with_reducible assumption
      | intro _
      | with_reducible apply KeepsO.next
      | exact KeepsO.fault _
      | with_reducible apply KeepsOpt.some
      | exact KeepsOpt.none
      | with_reducible apply KeepsO.ite
      | with_reducible apply KeepsOpt.ite
      | with_reducible apply Keeps.ite
      | with_reducible apply State.at__keeps
      | with_reducible apply State.announceAll_keeps
      | extract_lets
      | split
      | (dsimp +zetaDelta only; split)
      | with_reducible apply Keeps.mkU

theorem State.wearSwap_keeps {s₀ s : State} (h : Keeps s₀ s) (b : Nat) (feed : Nat) (n : Nat) :
    Keeps s₀ (State.wearSwap s b feed n) := by
  unfold State.wearSwap
  repeat'
    first
      | with_reducible assumption
      | intro _
      | with_reducible apply Keeps.ite
      | with_reducible apply State.modBank_keeps
      | with_reducible apply State.takeSpare_keeps
      | with_reducible apply State.takeBank_keeps
      | with_reducible apply State.addDefect_keeps
      | with_reducible apply State.notice0_keeps
      | with_reducible apply State.startSwap_keeps
      | with_reducible apply State.underSwap_keeps
      | extract_lets
      | split
      | (dsimp +zetaDelta only; split)
      | with_reducible apply Keeps.mkU

theorem State.retuned_keeps {s₀ s : State} (h : Keeps s₀ s) (b : Nat) (feed : Nat) :
    Keeps s₀ (State.retuned s b feed) := by
  unfold State.retuned
  repeat'
    first
      | with_reducible assumption
      | intro _
      | with_reducible apply Keeps.ite
      | extract_lets
      | split
      | (dsimp +zetaDelta only; split)
      | with_reducible apply Keeps.mkU

theorem execBankWearSwap_keeps {s₀ s : State} (h : Keeps s₀ s) (b : BankIx) (now : Nat) :
    KeepsO s₀ (execBankWearSwap b now s) := by
  unfold execBankWearSwap
  repeat'
    first
      | with_reducible assumption
      | intro _
      | with_reducible apply KeepsO.next
      | exact KeepsO.fault _
      | with_reducible apply KeepsOpt.some
      | exact KeepsOpt.none
      | with_reducible apply KeepsO.ite
      | with_reducible apply KeepsOpt.ite
      | with_reducible apply Keeps.ite
      | with_reducible apply State.at__keeps
      | with_reducible apply State.retuned_keeps
      | with_reducible apply State.modBank_keeps
      | with_reducible apply State.wearSwap_keeps
      | extract_lets
      | split
      | (dsimp +zetaDelta only; split)
      | with_reducible apply Keeps.mkU

theorem execRingLock_keeps {s₀ s : State} (h : Keeps s₀ s) (p : PortIx) (pos : PosIx) (detunePm : Nat) (atEnd : Bool) :
    KeepsO s₀ (execRingLock p pos detunePm atEnd s) := by
  unfold execRingLock
  repeat'
    first
      | with_reducible assumption
      | intro _
      | with_reducible apply KeepsO.next
      | exact KeepsO.fault _
      | with_reducible apply KeepsOpt.some
      | exact KeepsOpt.none
      | with_reducible apply KeepsO.ite
      | with_reducible apply KeepsOpt.ite
      | with_reducible apply Keeps.ite
      | with_reducible apply State.modPort_keeps
      | with_reducible apply State.ringFails_keeps
      | extract_lets
      | split
      | (dsimp +zetaDelta only; split)
      | with_reducible apply Keeps.mkU

theorem State.beginSweep_keeps {s₀ s : State} (h : Keeps s₀ s) (p : Nat) (pos : Nat) (spare : Option Nat) :
    Keeps s₀ (State.beginSweep s p pos spare) := by
  unfold State.beginSweep
  repeat'
    first
      | with_reducible assumption
      | intro _
      | with_reducible apply Keeps.ite
      | with_reducible apply State.modPort_keeps
      | extract_lets
      | split
      | (dsimp +zetaDelta only; split)
      | with_reducible apply Keeps.mkU

theorem State.moveToStandIn_keeps {s₀ s : State} (h : Keeps s₀ s) (p : Nat) (pos : Nat) (i : Nat) :
    Keeps s₀ (State.moveToStandIn s p pos i) := by
  unfold State.moveToStandIn
  repeat'
    first
      | with_reducible assumption
      | intro _
      | with_reducible apply Keeps.ite
      | with_reducible apply State.modPort_keeps
      | with_reducible apply State.announceMap_keeps
      | with_reducible apply State.beginSweep_keeps
      | extract_lets
      | split
      | (dsimp +zetaDelta only; split)
      | with_reducible apply Keeps.mkU

theorem execChannelSweep_keeps {s₀ s : State} (h : Keeps s₀ s) (p : PortIx) (now : Nat) :
    KeepsO s₀ (execChannelSweep p now s) := by
  unfold execChannelSweep
  repeat'
    first
      | with_reducible assumption
      | intro _
      | with_reducible apply KeepsO.next
      | exact KeepsO.fault _
      | with_reducible apply KeepsOpt.some
      | exact KeepsOpt.none
      | with_reducible apply KeepsO.ite
      | with_reducible apply KeepsOpt.ite
      | with_reducible apply Keeps.ite
      | with_reducible apply State.at__keeps
      | with_reducible apply State.beginSweep_keeps
      | with_reducible apply State.moveToStandIn_keeps
      | extract_lets
      | split
      | (dsimp +zetaDelta only; split)
      | with_reducible apply Keeps.mkU

theorem execChannelSweepEnd_keeps {s₀ s : State} (h : Keeps s₀ s) (p : PortIx) (heaterOver : Bool) (now : Nat) :
    KeepsO s₀ (execChannelSweepEnd p heaterOver now s) := by
  unfold execChannelSweepEnd
  repeat'
    first
      | with_reducible assumption
      | intro _
      | with_reducible apply KeepsO.next
      | exact KeepsO.fault _
      | with_reducible apply KeepsOpt.some
      | exact KeepsOpt.none
      | with_reducible apply KeepsO.ite
      | with_reducible apply KeepsOpt.ite
      | with_reducible apply Keeps.ite
      | with_reducible apply State.at__keeps
      | with_reducible apply State.modPort_keeps
      | with_reducible apply State.announceMap_keeps
      | with_reducible apply State.ringFails_keeps
      | extract_lets
      | split
      | (dsimp +zetaDelta only; split)
      | with_reducible apply Keeps.mkU

theorem execTuningStarved_keeps {s₀ s : State} (h : Keeps s₀ s) (p : PortIx) (now : Nat) :
    KeepsO s₀ (execTuningStarved p now s) := by
  unfold execTuningStarved
  repeat'
    first
      | with_reducible assumption
      | intro _
      | with_reducible apply KeepsO.next
      | exact KeepsO.fault _
      | with_reducible apply KeepsOpt.some
      | exact KeepsOpt.none
      | with_reducible apply KeepsO.ite
      | with_reducible apply KeepsOpt.ite
      | with_reducible apply Keeps.ite
      | with_reducible apply State.at__keeps
      | with_reducible apply State.noticeTurf_keeps
      | with_reducible apply State.modPort_keeps
      | with_reducible apply Keeps.foldl
      | with_reducible apply Keeps.foldl_fst
      | with_reducible apply Keeps.foldl_snd
      | extract_lets
      | split
      | (dsimp +zetaDelta only; split)
      | with_reducible apply Keeps.mkU

theorem execSetTuningGapGap_keeps {s₀ s : State} (h : Keeps s₀ s) (q : QueueIx) (slot : SlotIx) :
    KeepsO s₀ (execSetTuningGapGap q slot s) := by
  unfold execSetTuningGapGap
  repeat'
    first
      | with_reducible assumption
      | intro _
      | with_reducible apply KeepsO.next
      | exact KeepsO.fault _
      | with_reducible apply KeepsOpt.some
      | exact KeepsOpt.none
      | with_reducible apply KeepsO.ite
      | with_reducible apply KeepsOpt.ite
      | with_reducible apply Keeps.ite
      | with_reducible apply State.withCmd_keeps
      | with_reducible apply State.fail_keeps
      | extract_lets
      | split
      | (dsimp +zetaDelta only; split)
      | with_reducible apply Keeps.mkU

theorem execSetTuningGapAccept_keeps {s₀ s : State} (h : Keeps s₀ s) (q : QueueIx) (slot : SlotIx) :
    KeepsO s₀ (execSetTuningGapAccept q slot s) := by
  unfold execSetTuningGapAccept
  repeat'
    first
      | with_reducible assumption
      | intro _
      | with_reducible apply KeepsO.next
      | exact KeepsO.fault _
      | with_reducible apply KeepsOpt.some
      | exact KeepsOpt.none
      | with_reducible apply KeepsO.ite
      | with_reducible apply KeepsOpt.ite
      | with_reducible apply Keeps.ite
      | with_reducible apply State.withCmd_keeps
      | with_reducible apply State.fail_keeps
      | with_reducible apply State.done_keeps
      | extract_lets
      | split
      | (dsimp +zetaDelta only; split)
      | with_reducible apply Keeps.mkU

theorem execSetTuningGapHold_keeps {s₀ s : State} (h : Keeps s₀ s) (q : QueueIx) (slot : SlotIx) :
    KeepsO s₀ (execSetTuningGapHold q slot s) := by
  unfold execSetTuningGapHold
  repeat'
    first
      | with_reducible assumption
      | intro _
      | with_reducible apply KeepsO.next
      | exact KeepsO.fault _
      | with_reducible apply KeepsOpt.some
      | exact KeepsOpt.none
      | with_reducible apply KeepsO.ite
      | with_reducible apply KeepsOpt.ite
      | with_reducible apply Keeps.ite
      | with_reducible apply State.withCmd_keeps
      | with_reducible apply State.fail_keeps
      | extract_lets
      | split
      | (dsimp +zetaDelta only; split)
      | with_reducible apply Keeps.mkU

theorem execTuningGapEnd_keeps {s₀ s : State} (h : Keeps s₀ s) (t : TurfIx) (now : Nat) :
    KeepsO s₀ (execTuningGapEnd t now s) := by
  unfold execTuningGapEnd
  repeat'
    first
      | with_reducible assumption
      | intro _
      | with_reducible apply KeepsO.next
      | exact KeepsO.fault _
      | with_reducible apply KeepsOpt.some
      | exact KeepsOpt.none
      | with_reducible apply KeepsO.ite
      | with_reducible apply KeepsOpt.ite
      | with_reducible apply Keeps.ite
      | with_reducible apply State.at__keeps
      | with_reducible apply State.gapCovers_keeps
      | with_reducible apply State.completeAt_keeps
      | extract_lets
      | split
      | (dsimp +zetaDelta only; split)
      | with_reducible apply Keeps.mkU

theorem execTuningHoldStart_keeps {s₀ s : State} (h : Keeps s₀ s) (now : Nat) :
    KeepsO s₀ (execTuningHoldStart now s) := by
  unfold execTuningHoldStart
  repeat'
    first
      | with_reducible assumption
      | intro _
      | with_reducible apply KeepsO.next
      | exact KeepsO.fault _
      | with_reducible apply KeepsOpt.some
      | exact KeepsOpt.none
      | with_reducible apply KeepsO.ite
      | with_reducible apply KeepsOpt.ite
      | with_reducible apply Keeps.ite
      | with_reducible apply State.at__keeps
      | extract_lets
      | split
      | (dsimp +zetaDelta only; split)
      | with_reducible apply Keeps.mkU

theorem execTuningHoldEnd_keeps {s₀ s : State} (h : Keeps s₀ s) (now : Nat) :
    KeepsO s₀ (execTuningHoldEnd now s) := by
  unfold execTuningHoldEnd
  repeat'
    first
      | with_reducible assumption
      | intro _
      | with_reducible apply KeepsO.next
      | exact KeepsO.fault _
      | with_reducible apply KeepsOpt.some
      | exact KeepsOpt.none
      | with_reducible apply KeepsO.ite
      | with_reducible apply KeepsOpt.ite
      | with_reducible apply Keeps.ite
      | with_reducible apply State.at__keeps
      | with_reducible apply State.startTimers_keeps
      | with_reducible apply State.completeAt_keeps
      | with_reducible apply Keeps.foldl
      | with_reducible apply Keeps.foldl_fst
      | with_reducible apply Keeps.foldl_snd
      | extract_lets
      | split
      | (dsimp +zetaDelta only; split)
      | with_reducible apply Keeps.mkU

theorem State.laneOut_keeps {s₀ s : State} (h : Keeps s₀ s) (f : Nat) (g : Nat) (pos : Nat) (substituted : Bool) :
    Keeps s₀ (State.laneOut s f g pos substituted) := by
  unfold State.laneOut
  repeat'
    first
      | with_reducible assumption
      | intro _
      | with_reducible apply Keeps.ite
      | with_reducible apply State.wantMap_keeps
      | extract_lets
      | split
      | (dsimp +zetaDelta only; split)
      | with_reducible apply Keeps.mkU

theorem State.replaceLane_keeps {s₀ s : State} (h : Keeps s₀ s) (f : Nat) (g : Nat) (pos : Nat) (origin : Nat) :
    Keeps s₀ (State.replaceLane s f g pos origin) := by
  unfold State.replaceLane
  repeat'
    first
      | with_reducible assumption
      | intro _
      | with_reducible apply Keeps.ite
      | with_reducible apply State.takeSpare_keeps
      | with_reducible apply State.replaced_keeps
      | with_reducible apply State.laneOut_keeps
      | extract_lets
      | split
      | (dsimp +zetaDelta only; split)
      | with_reducible apply Keeps.mkU

theorem execQualityWindow_keeps {s₀ s : State} (h : Keeps s₀ s) (f : FibreIx) (group : Fin 2) (bad : List PosIx) :
    KeepsO s₀ (execQualityWindow f group bad s) := by
  unfold execQualityWindow
  repeat'
    first
      | with_reducible assumption
      | intro _
      | with_reducible apply KeepsO.next
      | exact KeepsO.fault _
      | with_reducible apply KeepsOpt.some
      | exact KeepsOpt.none
      | with_reducible apply KeepsO.ite
      | with_reducible apply KeepsOpt.ite
      | with_reducible apply Keeps.ite
      | with_reducible apply State.modPort_keeps
      | with_reducible apply State.replaceLane_keeps
      | with_reducible apply Keeps.foldl
      | with_reducible apply Keeps.foldl_fst
      | with_reducible apply Keeps.foldl_snd
      | extract_lets
      | split
      | (dsimp +zetaDelta only; split)
      | with_reducible apply Keeps.mkU

end Sys2Proof.Machine
end

