-- ==== Sys2Proof/Laws/KeepsSites.lean ====
section
/-!
SUPPORT. What every operation of Machine/Sites.lean keeps (Laws/Keeps.lean).
-/
namespace Sys2Proof.Machine

set_option Elab.async false
set_option linter.all false

theorem State.writeBack_keeps {s₀ s : State} (h : Keeps s₀ s) (halves : List Nat) :
    Keeps s₀ (State.writeBack s halves) := by
  unfold State.writeBack
  repeat'
    first
      | with_reducible assumption
      | intro _
      | with_reducible apply Keeps.ite
      | with_reducible apply State.spoil_keeps
      | with_reducible apply Keeps.foldl
      | with_reducible apply Keeps.foldl_fst
      | with_reducible apply Keeps.foldl_snd
      | extract_lets
      | split
      | (dsimp +zetaDelta only; split)
      | with_reducible apply Keeps.mkU

theorem State.upset_keeps {s₀ s : State} (h : Keeps s₀ s) (halves : List Nat) (find : ScrubFind) :
    Keeps s₀ (State.upset s halves find) := by
  unfold State.upset
  repeat'
    first
      | with_reducible assumption
      | intro _
      | with_reducible apply Keeps.ite
      | with_reducible apply State.draw_keeps
      | with_reducible apply Keeps.foldl
      | with_reducible apply Keeps.foldl_fst
      | with_reducible apply Keeps.foldl_snd
      | extract_lets
      | split
      | (dsimp +zetaDelta only; split)
      | with_reducible apply Keeps.mkU

theorem execPatrolScrub_keeps {s₀ s : State} (h : Keeps s₀ s) (m : SiteIx) (granule : Fin 268435456) (find : ScrubFind) (now : Nat) :
    KeepsO s₀ (execPatrolScrub m granule find now s) := by
  unfold execPatrolScrub
  repeat'
    first
      | with_reducible assumption
      | intro _
      | with_reducible apply KeepsO.next
      | exact KeepsO.fault _
      | with_reducible apply KeepsOpt.some
      | exact KeepsOpt.none
      | with_reducible apply KeepsO.ite
      | with_reducible apply KeepsOpt.ite
      | with_reducible apply Keeps.ite
      | with_reducible apply State.at__keeps
      | with_reducible apply State.upset_keeps
      | with_reducible apply State.eccGranule_keeps
      | with_reducible apply State.writeBack_keeps
      | extract_lets
      | split
      | (dsimp +zetaDelta only; split)
      | with_reducible apply Keeps.mkU

theorem execPcMigration_keeps {s₀ s : State} (h : Keeps s₀ s) (m : SiteIx) (pc : Fin 64) :
    KeepsO s₀ (execPcMigration m pc s) := by
  unfold execPcMigration
  repeat'
    first
      | with_reducible assumption
      | intro _
      | with_reducible apply KeepsO.next
      | exact KeepsO.fault _
      | with_reducible apply KeepsOpt.some
      | exact KeepsOpt.none
      | with_reducible apply KeepsO.ite
      | with_reducible apply KeepsOpt.ite
      | with_reducible apply Keeps.ite
      | with_reducible apply State.migrate_keeps
      | extract_lets
      | split
      | (dsimp +zetaDelta only; split)
      | with_reducible apply Keeps.mkU

theorem execPcMigrationEnd_keeps {s₀ s : State} (h : Keeps s₀ s) (m : SiteIx) (lost : List (Fin 268435456)) :
    KeepsO s₀ (execPcMigrationEnd m lost s) := by
  unfold execPcMigrationEnd
  repeat'
    first
      | with_reducible assumption
      | intro _
      | with_reducible apply KeepsO.next
      | exact KeepsO.fault _
      | with_reducible apply KeepsOpt.some
      | exact KeepsOpt.none
      | with_reducible apply KeepsO.ite
      | with_reducible apply KeepsOpt.ite
      | with_reducible apply Keeps.ite
      | with_reducible apply State.spoil_keeps
      | with_reducible apply State.modSite_keeps
      | with_reducible apply State.addWear_keeps
      | with_reducible apply State.replaced_keeps
      | with_reducible apply State.migrate_keeps
      | with_reducible apply Keeps.foldl
      | with_reducible apply Keeps.foldl_fst
      | with_reducible apply Keeps.foldl_snd
      | extract_lets
      | split
      | (dsimp +zetaDelta only; split)
      | with_reducible apply Keeps.mkU

theorem execRowReplace_keeps {s₀ s : State} (h : Keeps s₀ s) (m : SiteIx) (pc : Fin 66) (bank : Byte) (row : Half) :
    KeepsO s₀ (execRowReplace m pc bank row s) := by
  unfold execRowReplace
  repeat'
    first
      | with_reducible assumption
      | intro _
      | with_reducible apply KeepsO.next
      | exact KeepsO.fault _
      | with_reducible apply KeepsOpt.some
      | exact KeepsOpt.none
      | with_reducible apply KeepsO.ite
      | with_reducible apply KeepsOpt.ite
      | with_reducible apply Keeps.ite
      | with_reducible apply State.replaceRow_keeps
      | extract_lets
      | split
      | (dsimp +zetaDelta only; split)
      | with_reducible apply Keeps.mkU

theorem execRowReplaceEnd_keeps {s₀ s : State} (h : Keeps s₀ s) (m : SiteIx) :
    KeepsO s₀ (execRowReplaceEnd m s) := by
  unfold execRowReplaceEnd
  repeat'
    first
      | with_reducible assumption
      | intro _
      | with_reducible apply KeepsO.next
      | exact KeepsO.fault _
      | with_reducible apply KeepsOpt.some
      | exact KeepsOpt.none
      | with_reducible apply KeepsO.ite
      | with_reducible apply KeepsOpt.ite
      | with_reducible apply Keeps.ite
      | with_reducible apply State.modSite_keeps
      | with_reducible apply State.addWear_keeps
      | with_reducible apply State.replaced_keeps
      | with_reducible apply State.replaceRow_keeps
      | with_reducible apply Keeps.foldl
      | with_reducible apply Keeps.foldl_fst
      | with_reducible apply Keeps.foldl_snd
      | extract_lets
      | split
      | (dsimp +zetaDelta only; split)
      | with_reducible apply Keeps.mkU

theorem execSelfRefreshEnter_keeps {s₀ s : State} (h : Keeps s₀ s) (m : SiteIx) (now : Nat) :
    KeepsO s₀ (execSelfRefreshEnter m now s) := by
  unfold execSelfRefreshEnter
  repeat'
    first
      | with_reducible assumption
      | intro _
      | with_reducible apply KeepsO.next
      | exact KeepsO.fault _
      | with_reducible apply KeepsOpt.some
      | exact KeepsOpt.none
      | with_reducible apply KeepsO.ite
      | with_reducible apply KeepsOpt.ite
      | with_reducible apply Keeps.ite
      | with_reducible apply State.at__keeps
      | with_reducible apply State.modSite_keeps
      | extract_lets
      | split
      | (dsimp +zetaDelta only; split)
      | with_reducible apply Keeps.mkU

theorem execSelfRefreshExit_keeps {s₀ s : State} (h : Keeps s₀ s) (m : SiteIx) (now : Nat) :
    KeepsO s₀ (execSelfRefreshExit m now s) := by
  unfold execSelfRefreshExit
  repeat'
    first
      | with_reducible assumption
      | intro _
      | with_reducible apply KeepsO.next
      | exact KeepsO.fault _
      | with_reducible apply KeepsOpt.some
      | exact KeepsOpt.none
      | with_reducible apply KeepsO.ite
      | with_reducible apply KeepsOpt.ite
      | with_reducible apply Keeps.ite
      | with_reducible apply State.at__keeps
      | with_reducible apply State.modSite_keeps
      | extract_lets
      | split
      | (dsimp +zetaDelta only; split)
      | with_reducible apply Keeps.mkU

end Sys2Proof.Machine
end

