-- ==== Sys2Proof/Laws/KeepsFabric.lean ====
section
/-!
SUPPORT. What every operation of Machine/Fabric.lean keeps (Laws/Keeps.lean).
-/
namespace Sys2Proof.Machine

set_option Elab.async false
set_option linter.all false

theorem State.sendFibre_keeps {s₀ s : State} (h : Keeps s₀ s) (f : Nat) (msg : Bytes) :
    Keeps s₀ (State.sendFibre s f msg) := by
  unfold State.sendFibre
  repeat'
    first
      | with_reducible assumption
      | intro _
      | with_reducible apply Keeps.ite
      | with_reducible apply State.sendMgmt_keeps
      | extract_lets
      | split
      | (dsimp +zetaDelta only; split)
      | with_reducible apply Keeps.mkU

theorem State.askRole_keeps {s₀ s : State} (h : Keeps s₀ s) (f : Nat) (want : Bool) :
    Keeps s₀ (State.askRole s f want) := by
  unfold State.askRole
  repeat'
    first
      | with_reducible assumption
      | intro _
      | with_reducible apply Keeps.ite
      | with_reducible apply State.draw_keeps
      | with_reducible apply State.modRole_keeps
      | with_reducible apply State.sendFibre_keeps
      | extract_lets
      | split
      | (dsimp +zetaDelta only; split)
      | with_reducible apply Keeps.mkU

theorem State.roleCollision_keeps {s₀ s : State} (h : Keeps s₀ s) (f : Nat) (uid : DWord) :
    Keeps s₀ (State.roleCollision s f uid) := by
  unfold State.roleCollision
  repeat'
    first
      | with_reducible assumption
      | intro _
      | with_reducible apply Keeps.ite
      | with_reducible apply State.draw_keeps
      | with_reducible apply State.modRole_keeps
      | with_reducible apply State.endRole_keeps
      | extract_lets
      | split
      | (dsimp +zetaDelta only; split)
      | with_reducible apply Keeps.mkU

theorem execLinkRoleSwap_keeps {s₀ s : State} (h : Keeps s₀ s) (q : QueueIx) (slot : SlotIx) :
    KeepsO s₀ (execLinkRoleSwap q slot s) := by
  unfold execLinkRoleSwap
  repeat'
    first
      | with_reducible assumption
      | intro _
      | with_reducible apply KeepsO.next
      | exact KeepsO.fault _
      | with_reducible apply KeepsOpt.some
      | exact KeepsOpt.none
      | with_reducible apply KeepsO.ite
      | with_reducible apply KeepsOpt.ite
      | with_reducible apply Keeps.ite
      | with_reducible apply State.withCmd_keeps
      | with_reducible apply State.fail_keeps
      | with_reducible apply State.done_keeps
      | with_reducible apply State.modRole_keeps
      | with_reducible apply State.askRole_keeps
      | extract_lets
      | split
      | (dsimp +zetaDelta only; split)
      | with_reducible apply Keeps.mkU

theorem State.roleAsked_keeps {s₀ s : State} (h : Keeps s₀ s) (f : Nat) (msg : Bytes) :
    Keeps s₀ (State.roleAsked s f msg) := by
  unfold State.roleAsked
  repeat'
    first
      | with_reducible assumption
      | intro _
      | with_reducible apply Keeps.ite
      | with_reducible apply State.sendFibre_keeps
      | with_reducible apply State.roleCollision_keeps
      | with_reducible apply State.modRole_keeps
      | with_reducible apply State.at__keeps
      | extract_lets
      | split
      | (dsimp +zetaDelta only; split)
      | with_reducible apply Keeps.mkU

theorem execRoleSwapReq_keeps {s₀ s : State} (h : Keeps s₀ s) (f : FabFibreIx) (msg : FabMsg) :
    KeepsO s₀ (execRoleSwapReq f msg s) := by
  unfold execRoleSwapReq
  repeat'
    first
      | with_reducible assumption
      | intro _
      | with_reducible apply KeepsO.next
      | exact KeepsO.fault _
      | with_reducible apply KeepsOpt.some
      | exact KeepsOpt.none
      | with_reducible apply KeepsO.ite
      | with_reducible apply KeepsOpt.ite
      | with_reducible apply Keeps.ite
      | with_reducible apply State.onMessage_keeps
      | with_reducible apply State.roleAsked_keeps
      | extract_lets
      | split
      | (dsimp +zetaDelta only; split)
      | with_reducible apply Keeps.mkU

theorem State.roleAnswered_keeps {s₀ s : State} (h : Keeps s₀ s) (f : Nat) (msg : Bytes) :
    Keeps s₀ (State.roleAnswered s f msg) := by
  unfold State.roleAnswered
  repeat'
    first
      | with_reducible assumption
      | intro _
      | with_reducible apply Keeps.ite
      | with_reducible apply State.endRole_keeps
      | with_reducible apply State.roleCollision_keeps
      | extract_lets
      | split
      | (dsimp +zetaDelta only; split)
      | with_reducible apply Keeps.mkU

theorem execRoleSwapAns_keeps {s₀ s : State} (h : Keeps s₀ s) (f : FabFibreIx) (msg : FabMsg) :
    KeepsO s₀ (execRoleSwapAns f msg s) := by
  unfold execRoleSwapAns
  repeat'
    first
      | with_reducible assumption
      | intro _
      | with_reducible apply KeepsO.next
      | exact KeepsO.fault _
      | with_reducible apply KeepsOpt.some
      | exact KeepsOpt.none
      | with_reducible apply KeepsO.ite
      | with_reducible apply KeepsOpt.ite
      | with_reducible apply Keeps.ite
      | with_reducible apply State.onMessage_keeps
      | with_reducible apply State.roleAnswered_keeps
      | extract_lets
      | split
      | (dsimp +zetaDelta only; split)
      | with_reducible apply Keeps.mkU

theorem execRoleSwapRetry_keeps {s₀ s : State} (h : Keeps s₀ s) (f : FibreTime) :
    KeepsO s₀ (execRoleSwapRetry f s) := by
  unfold execRoleSwapRetry
  repeat'
    first
      | with_reducible assumption
      | intro _
      | with_reducible apply KeepsO.next
      | exact KeepsO.fault _
      | with_reducible apply KeepsOpt.some
      | exact KeepsOpt.none
      | with_reducible apply KeepsO.ite
      | with_reducible apply KeepsOpt.ite
      | with_reducible apply Keeps.ite
      | with_reducible apply State.at__keeps
      | with_reducible apply State.askRole_keeps
      | extract_lets
      | split
      | (dsimp +zetaDelta only; split)
      | with_reducible apply Keeps.mkU

theorem State.correctTime_keeps {s₀ s : State} (h : Keeps s₀ s) (offset : Int) :
    Keeps s₀ (State.correctTime s offset) := by
  unfold State.correctTime
  repeat'
    first
      | with_reducible assumption
      | intro _
      | with_reducible apply Keeps.ite
      | with_reducible apply State.notice0_keeps
      | extract_lets
      | split
      | (dsimp +zetaDelta only; split)
      | with_reducible apply Keeps.mkU

theorem State.sendTime_keeps {s₀ s : State} (h : Keeps s₀ s) (f : Nat) (msg : Bytes) :
    Keeps s₀ (State.sendTime s f msg) := by
  unfold State.sendTime
  repeat'
    first
      | with_reducible assumption
      | intro _
      | with_reducible apply Keeps.ite
      | with_reducible apply State.queueLink_keeps
      | extract_lets
      | split
      | (dsimp +zetaDelta only; split)
      | with_reducible apply Keeps.mkU

theorem execTimeRequest_keeps {s₀ s : State} (h : Keeps s₀ s) (f : FabFibreIx) (incoming : Option (MsgFrame × Word × Nat)) (now : Nat) :
    KeepsO s₀ (execTimeRequest f incoming now s) := by
  unfold execTimeRequest
  repeat'
    first
      | with_reducible assumption
      | intro _
      | with_reducible apply KeepsO.next
      | exact KeepsO.fault _
      | with_reducible apply KeepsOpt.some
      | exact KeepsOpt.none
      | with_reducible apply KeepsO.ite
      | with_reducible apply KeepsOpt.ite
      | with_reducible apply Keeps.ite
      | with_reducible apply State.at__keeps
      | with_reducible apply State.draw_keeps
      | with_reducible apply State.sendTime_keeps
      | with_reducible apply State.onMessage_keeps
      | extract_lets
      | split
      | (dsimp +zetaDelta only; split)
      | with_reducible apply Keeps.mkU

theorem State.hearAnswer_keeps {s₀ s : State} (h : Keeps s₀ s) (f : Nat) (hops : Nat) (root : DWord) :
    Keeps s₀ (State.hearAnswer s f hops root) := by
  unfold State.hearAnswer
  repeat'
    first
      | with_reducible assumption
      | intro _
      | with_reducible apply Keeps.ite
      | with_reducible apply State.modRole_keeps
      | extract_lets
      | split
      | (dsimp +zetaDelta only; split)
      | with_reducible apply Keeps.mkU

theorem State.timeAnswered_keeps {s₀ s : State} (h : Keeps s₀ s) (f : Nat) (a : TimeAns) :
    Keeps s₀ (State.timeAnswered s f a) := by
  unfold State.timeAnswered
  repeat'
    first
      | with_reducible assumption
      | intro _
      | with_reducible apply Keeps.ite
      | with_reducible apply State.hearAnswer_keeps
      | with_reducible apply State.correctTime_keeps
      | extract_lets
      | split
      | (dsimp +zetaDelta only; split)
      | with_reducible apply Keeps.mkU

theorem execTimeAnswer_keeps {s₀ s : State} (h : Keeps s₀ s) (f : FabFibreIx) (a : TimeMsg) :
    KeepsO s₀ (execTimeAnswer f a s) := by
  unfold execTimeAnswer
  repeat'
    first
      | with_reducible assumption
      | intro _
      | with_reducible apply KeepsO.next
      | exact KeepsO.fault _
      | with_reducible apply KeepsOpt.some
      | exact KeepsOpt.none
      | with_reducible apply KeepsO.ite
      | with_reducible apply KeepsOpt.ite
      | with_reducible apply Keeps.ite
      | with_reducible apply State.at__keeps
      | with_reducible apply State.onMessage_keeps
      | with_reducible apply State.timeAnswered_keeps
      | extract_lets
      | split
      | (dsimp +zetaDelta only; split)
      | with_reducible apply Keeps.mkU

theorem State.meetPlan_keeps {s₀ s : State} (h : Keeps s₀ s) (module : Nat) :
    Keeps s₀ (State.meetPlan s module) := by
  unfold State.meetPlan
  repeat'
    first
      | with_reducible assumption
      | intro _
      | with_reducible apply Keeps.ite
      | with_reducible apply State.meetRange_keeps
      | extract_lets
      | split
      | (dsimp +zetaDelta only; split)
      | with_reducible apply Keeps.mkU

theorem State.endJoin_keeps {s₀ s : State} (h : Keeps s₀ s) (status : Nat) (cause : Nat) (result : Nat) :
    Keeps s₀ (State.endJoin s status cause result) := by
  unfold State.endJoin
  repeat'
    first
      | with_reducible assumption
      | intro _
      | with_reducible apply Keeps.ite
      | with_reducible apply State.complete_keeps
      | extract_lets
      | split
      | (dsimp +zetaDelta only; split)
      | with_reducible apply Keeps.mkU

theorem State.beginClaim_keeps {s₀ s : State} (h : Keeps s₀ s) :
    Keeps s₀ (State.beginClaim s) := by
  unfold State.beginClaim
  repeat'
    first
      | with_reducible assumption
      | intro _
      | with_reducible apply Keeps.ite
      | with_reducible apply State.draw_keeps
      | extract_lets
      | split
      | (dsimp +zetaDelta only; split)
      | with_reducible apply Keeps.mkU

theorem State.haltFabric_keeps {s₀ s : State} (h : Keeps s₀ s) :
    Keeps s₀ (State.haltFabric s) := by
  unfold State.haltFabric
  repeat'
    first
      | with_reducible assumption
      | intro _
      | with_reducible apply Keeps.ite
      | with_reducible apply State.endJoin_keeps
      | extract_lets
      | split
      | (dsimp +zetaDelta only; split)
      | with_reducible apply Keeps.mkU

theorem execFabJoin_keeps {s₀ s : State} (h : Keeps s₀ s) (q : QueueIx) (slot : SlotIx) :
    KeepsO s₀ (execFabJoin q slot s) := by
  unfold execFabJoin
  repeat'
    first
      | with_reducible assumption
      | intro _
      | with_reducible apply KeepsO.next
      | exact KeepsO.fault _
      | with_reducible apply KeepsOpt.some
      | exact KeepsOpt.none
      | with_reducible apply KeepsO.ite
      | with_reducible apply KeepsOpt.ite
      | with_reducible apply Keeps.ite
      | with_reducible apply State.withCmd_keeps
      | with_reducible apply State.complete_keeps
      | with_reducible apply State.fail_keeps
      | with_reducible apply State.beginClaim_keeps
      | extract_lets
      | split
      | (dsimp +zetaDelta only; split)
      | with_reducible apply Keeps.mkU

theorem execFabLeave_keeps {s₀ s : State} (h : Keeps s₀ s) (q : QueueIx) (slot : SlotIx) :
    KeepsO s₀ (execFabLeave q slot s) := by
  unfold execFabLeave
  repeat'
    first
      | with_reducible assumption
      | intro _
      | with_reducible apply KeepsO.next
      | exact KeepsO.fault _
      | with_reducible apply KeepsOpt.some
      | exact KeepsOpt.none
      | with_reducible apply KeepsO.ite
      | with_reducible apply KeepsOpt.ite
      | with_reducible apply Keeps.ite
      | with_reducible apply State.withCmd_keeps
      | with_reducible apply State.fail_keeps
      | with_reducible apply State.endJoin_keeps
      | with_reducible apply State.drainProgress_keeps
      | extract_lets
      | split
      | (dsimp +zetaDelta only; split)
      | with_reducible apply Keeps.mkU

theorem State.claim_keeps {s₀ s : State} (h : Keeps s₀ s) :
    Keeps s₀ (State.claim s) := by
  unfold State.claim
  repeat'
    first
      | with_reducible assumption
      | intro _
      | with_reducible apply Keeps.ite
      | with_reducible apply State.sendFabric_keeps
      | extract_lets
      | split
      | (dsimp +zetaDelta only; split)
      | with_reducible apply Keeps.mkU

theorem State.claimHeard_keeps {s₀ s : State} (h : Keeps s₀ s) (f : Nat) (m : Bytes) :
    Keeps s₀ (State.claimHeard s f m) := by
  unfold State.claimHeard
  repeat'
    first
      | with_reducible assumption
      | intro _
      | with_reducible apply Keeps.ite
      | with_reducible apply State.haltFabric_keeps
      | with_reducible apply State.sendFibre_keeps
      | extract_lets
      | split
      | (dsimp +zetaDelta only; split)
      | with_reducible apply Keeps.mkU

theorem execJoinClaim_keeps {s₀ s : State} (h : Keeps s₀ s) (f : FabFibreIx) (msg : Option FabMsg) (now : Nat) :
    KeepsO s₀ (execJoinClaim f msg now s) := by
  unfold execJoinClaim
  repeat'
    first
      | with_reducible assumption
      | intro _
      | with_reducible apply KeepsO.next
      | exact KeepsO.fault _
      | with_reducible apply KeepsOpt.some
      | exact KeepsOpt.none
      | with_reducible apply KeepsO.ite
      | with_reducible apply KeepsOpt.ite
      | with_reducible apply Keeps.ite
      | with_reducible apply State.at__keeps
      | with_reducible apply State.claim_keeps
      | with_reducible apply State.onMessage_keeps
      | with_reducible apply State.claimHeard_keeps
      | extract_lets
      | split
      | (dsimp +zetaDelta only; split)
      | with_reducible apply Keeps.mkU

theorem State.founderHeard_keeps {s₀ s : State} (h : Keeps s₀ s) (f : Nat) (msg : Bytes) :
    Keeps s₀ (State.founderHeard s f msg) := by
  unfold State.founderHeard
  repeat'
    first
      | with_reducible assumption
      | intro _
      | with_reducible apply Keeps.ite
      | with_reducible apply State.sendFibre_keeps
      | extract_lets
      | split
      | (dsimp +zetaDelta only; split)
      | with_reducible apply Keeps.mkU

theorem execFounder_keeps {s₀ s : State} (h : Keeps s₀ s) (f : FabFibreIx) (msg : FabMsg) :
    KeepsO s₀ (execFounder f msg s) := by
  unfold execFounder
  repeat'
    first
      | with_reducible assumption
      | intro _
      | with_reducible apply KeepsO.next
      | exact KeepsO.fault _
      | with_reducible apply KeepsOpt.some
      | exact KeepsOpt.none
      | with_reducible apply KeepsO.ite
      | with_reducible apply KeepsOpt.ite
      | with_reducible apply Keeps.ite
      | with_reducible apply State.onMessage_keeps
      | with_reducible apply State.founderHeard_keeps
      | extract_lets
      | split
      | (dsimp +zetaDelta only; split)
      | with_reducible apply Keeps.mkU

theorem State.becomeFounder_keeps {s₀ s : State} (h : Keeps s₀ s) (module : Nat) (next : Nat) (members : List Member) :
    Keeps s₀ (State.becomeFounder s module next members) := by
  unfold State.becomeFounder
  repeat'
    first
      | with_reducible assumption
      | intro _
      | with_reducible apply Keeps.ite
      | with_reducible apply State.sendFabric_keeps
      | extract_lets
      | split
      | (dsimp +zetaDelta only; split)
      | with_reducible apply Keeps.mkU

theorem execFounderElection_keeps {s₀ s : State} (h : Keeps s₀ s) (now : Nat) :
    KeepsO s₀ (execFounderElection now s) := by
  unfold execFounderElection
  repeat'
    first
      | with_reducible assumption
      | intro _
      | with_reducible apply KeepsO.next
      | exact KeepsO.fault _
      | with_reducible apply KeepsOpt.some
      | exact KeepsOpt.none
      | with_reducible apply KeepsO.ite
      | with_reducible apply KeepsOpt.ite
      | with_reducible apply Keeps.ite
      | with_reducible apply State.at__keeps
      | with_reducible apply State.endJoin_keeps
      | with_reducible apply State.meetPlan_keeps
      | with_reducible apply State.becomeFounder_keeps
      | with_reducible apply State.reflat_keeps
      | extract_lets
      | split
      | (dsimp +zetaDelta only; split)
      | with_reducible apply Keeps.mkU

theorem State.takeMember_keeps {s₀ s : State} (h : Keeps s₀ s) (f : Nat) (m : Member) :
    Keeps s₀ (State.takeMember s f m) := by
  unfold State.takeMember
  repeat'
    first
      | with_reducible assumption
      | intro _
      | with_reducible apply Keeps.ite
      | with_reducible apply State.meetPlan_keeps
      | with_reducible apply State.sendFibre_keeps
      | extract_lets
      | split
      | (dsimp +zetaDelta only; split)
      | with_reducible apply Keeps.mkU

theorem State.joinHeard_keeps {s₀ s : State} (h : Keeps s₀ s) (f : Nat) (msg : Bytes) :
    Keeps s₀ (State.joinHeard s f msg) := by
  unfold State.joinHeard
  repeat'
    first
      | with_reducible assumption
      | intro _
      | with_reducible apply Keeps.ite
      | with_reducible apply State.takeMember_keeps
      | with_reducible apply State.sendFabric_keeps
      | with_reducible apply State.haltFabric_keeps
      | with_reducible apply State.sendFibre_keeps
      | extract_lets
      | split
      | (dsimp +zetaDelta only; split)
      | with_reducible apply Keeps.mkU

theorem execJoinReq_keeps {s₀ s : State} (h : Keeps s₀ s) (f : FabFibreIx) (msg : FabMsg) :
    KeepsO s₀ (execJoinReq f msg s) := by
  unfold execJoinReq
  repeat'
    first
      | with_reducible assumption
      | intro _
      | with_reducible apply KeepsO.next
      | exact KeepsO.fault _
      | with_reducible apply KeepsOpt.some
      | exact KeepsOpt.none
      | with_reducible apply KeepsO.ite
      | with_reducible apply KeepsOpt.ite
      | with_reducible apply Keeps.ite
      | with_reducible apply State.onMessage_keeps
      | with_reducible apply State.joinHeard_keeps
      | extract_lets
      | split
      | (dsimp +zetaDelta only; split)
      | with_reducible apply Keeps.mkU

theorem State.joinAnswered_keeps {s₀ s : State} (h : Keeps s₀ s) (msg : Bytes) :
    Keeps s₀ (State.joinAnswered s msg) := by
  unfold State.joinAnswered
  repeat'
    first
      | with_reducible assumption
      | intro _
      | with_reducible apply Keeps.ite
      | with_reducible apply State.endJoin_keeps
      | with_reducible apply State.reflat_keeps
      | extract_lets
      | split
      | (dsimp +zetaDelta only; split)
      | with_reducible apply Keeps.mkU

theorem execJoinAccept_keeps {s₀ s : State} (h : Keeps s₀ s) (f : FabFibreIx) (msg : FabMsg) :
    KeepsO s₀ (execJoinAccept f msg s) := by
  unfold execJoinAccept
  repeat'
    first
      | with_reducible assumption
      | intro _
      | with_reducible apply KeepsO.next
      | exact KeepsO.fault _
      | with_reducible apply KeepsOpt.some
      | exact KeepsOpt.none
      | with_reducible apply KeepsO.ite
      | with_reducible apply KeepsOpt.ite
      | with_reducible apply Keeps.ite
      | with_reducible apply State.onMessage_keeps
      | with_reducible apply State.joinAnswered_keeps
      | extract_lets
      | split
      | (dsimp +zetaDelta only; split)
      | with_reducible apply Keeps.mkU

theorem State.founderGone_keeps {s₀ s : State} (h : Keeps s₀ s) :
    Keeps s₀ (State.founderGone s) := by
  unfold State.founderGone
  repeat'
    first
      | with_reducible assumption
      | intro _
      | with_reducible apply Keeps.ite
      | with_reducible apply State.becomeFounder_keeps
      | with_reducible apply Keeps.foldl
      | with_reducible apply Keeps.foldl_fst
      | with_reducible apply Keeps.foldl_snd
      | extract_lets
      | split
      | (dsimp +zetaDelta only; split)
      | with_reducible apply Keeps.mkU

theorem execFounderLost_keeps {s₀ s : State} (h : Keeps s₀ s) (now : Nat) :
    KeepsO s₀ (execFounderLost now s) := by
  unfold execFounderLost
  repeat'
    first
      | with_reducible assumption
      | intro _
      | with_reducible apply KeepsO.next
      | exact KeepsO.fault _
      | with_reducible apply KeepsOpt.some
      | exact KeepsOpt.none
      | with_reducible apply KeepsO.ite
      | with_reducible apply KeepsOpt.ite
      | with_reducible apply Keeps.ite
      | with_reducible apply State.at__keeps
      | with_reducible apply State.founderGone_keeps
      | extract_lets
      | split
      | (dsimp +zetaDelta only; split)
      | with_reducible apply Keeps.mkU

theorem State.closePeerQueues_keeps {s₀ s : State} (h : Keeps s₀ s) (m : Nat) :
    Keeps s₀ (State.closePeerQueues s m) := by
  unfold State.closePeerQueues
  repeat'
    first
      | with_reducible assumption
      | intro _
      | with_reducible apply Keeps.ite
      | with_reducible apply State.revokeQueueCtrs_keeps
      | with_reducible apply State.startClose_keeps
      | with_reducible apply Keeps.foldl
      | with_reducible apply Keeps.foldl_fst
      | with_reducible apply Keeps.foldl_snd
      | extract_lets
      | split
      | (dsimp +zetaDelta only; split)
      | with_reducible apply Keeps.mkU

theorem State.leaveHeard_keeps {s₀ s : State} (h : Keeps s₀ s) (msg : Bytes) :
    Keeps s₀ (State.leaveHeard s msg) := by
  unfold State.leaveHeard
  repeat'
    first
      | with_reducible assumption
      | intro _
      | with_reducible apply Keeps.ite
      | with_reducible apply State.closePeerQueues_keeps
      | with_reducible apply State.founderGone_keeps
      | extract_lets
      | split
      | (dsimp +zetaDelta only; split)
      | with_reducible apply Keeps.mkU

theorem execLeave_keeps {s₀ s : State} (h : Keeps s₀ s) (f : FabFibreIx) (msg : FabMsg) :
    KeepsO s₀ (execLeave f msg s) := by
  unfold execLeave
  repeat'
    first
      | with_reducible assumption
      | intro _
      | with_reducible apply KeepsO.next
      | exact KeepsO.fault _
      | with_reducible apply KeepsOpt.some
      | exact KeepsOpt.none
      | with_reducible apply KeepsO.ite
      | with_reducible apply KeepsOpt.ite
      | with_reducible apply Keeps.ite
      | with_reducible apply State.onMessage_keeps
      | with_reducible apply State.leaveHeard_keeps
      | extract_lets
      | split
      | (dsimp +zetaDelta only; split)
      | with_reducible apply Keeps.mkU

theorem State.duplicate_keeps {s₀ s : State} (h : Keeps s₀ s) (msg : Bytes) :
    Keeps s₀ (State.duplicate s msg) := by
  unfold State.duplicate
  repeat'
    first
      | with_reducible assumption
      | intro _
      | with_reducible apply Keeps.ite
      | with_reducible apply State.haltFabric_keeps
      | extract_lets
      | split
      | (dsimp +zetaDelta only; split)
      | with_reducible apply Keeps.mkU

theorem execDupId_keeps {s₀ s : State} (h : Keeps s₀ s) (f : FabFibreIx) (msg : FabMsg) :
    KeepsO s₀ (execDupId f msg s) := by
  unfold execDupId
  repeat'
    first
      | with_reducible assumption
      | intro _
      | with_reducible apply KeepsO.next
      | exact KeepsO.fault _
      | with_reducible apply KeepsOpt.some
      | exact KeepsOpt.none
      | with_reducible apply KeepsO.ite
      | with_reducible apply KeepsOpt.ite
      | with_reducible apply Keeps.ite
      | with_reducible apply State.onMessage_keeps
      | with_reducible apply State.duplicate_keeps
      | extract_lets
      | split
      | (dsimp +zetaDelta only; split)
      | with_reducible apply Keeps.mkU

theorem State.sendMessage_keeps {s₀ s : State} (h : Keeps s₀ s) (m : Nat) (msg : Bytes) :
    Keeps s₀ (State.sendMessage s m msg) := by
  unfold State.sendMessage
  repeat'
    first
      | with_reducible assumption
      | intro _
      | with_reducible apply Keeps.ite
      | with_reducible apply State.queueLink_keeps
      | extract_lets
      | split
      | (dsimp +zetaDelta only; split)
      | with_reducible apply Keeps.mkU

theorem execPairDescSend_keeps {s₀ s : State} (h : Keeps s₀ s) (module : Fin 1024) :
    KeepsO s₀ (execPairDescSend module s) := by
  unfold execPairDescSend
  repeat'
    first
      | with_reducible assumption
      | intro _
      | with_reducible apply KeepsO.next
      | exact KeepsO.fault _
      | with_reducible apply KeepsOpt.some
      | exact KeepsOpt.none
      | with_reducible apply KeepsO.ite
      | with_reducible apply KeepsOpt.ite
      | with_reducible apply Keeps.ite
      | with_reducible apply State.sendMessage_keeps
      | extract_lets
      | split
      | (dsimp +zetaDelta only; split)
      | with_reducible apply Keeps.mkU

theorem State.peerRestarted_keeps {s₀ s : State} (h : Keeps s₀ s) (m : Nat) :
    Keeps s₀ (State.peerRestarted s m) := by
  unfold State.peerRestarted
  repeat'
    first
      | with_reducible assumption
      | intro _
      | with_reducible apply Keeps.ite
      | with_reducible apply State.opEnds_keeps
      | with_reducible apply State.closePeerQueues_keeps
      | with_reducible apply State.pumpWindows_keeps
      | with_reducible apply Keeps.foldl
      | with_reducible apply Keeps.foldl_fst
      | with_reducible apply Keeps.foldl_snd
      | extract_lets
      | split
      | (dsimp +zetaDelta only; split)
      | with_reducible apply Keeps.mkU

theorem State.pairArrives_keeps {s₀ s : State} (h : Keeps s₀ s) (m : Nat) (msg : Bytes) :
    Keeps s₀ (State.pairArrives s m msg) := by
  unfold State.pairArrives
  repeat'
    first
      | with_reducible assumption
      | intro _
      | with_reducible apply Keeps.ite
      | with_reducible apply State.peerRestarted_keeps
      | with_reducible apply State.correctTime_keeps
      | with_reducible apply State.beginClaim_keeps
      | extract_lets
      | split
      | (dsimp +zetaDelta only; split)
      | with_reducible apply Keeps.mkU

theorem execPairDesc_keeps {s₀ s : State} (h : Keeps s₀ s) (module : Fin 1024) (msg : Bytes) (now : Nat) :
    KeepsO s₀ (execPairDesc module msg now s) := by
  unfold execPairDesc
  repeat'
    first
      | with_reducible assumption
      | intro _
      | with_reducible apply KeepsO.next
      | exact KeepsO.fault _
      | with_reducible apply KeepsOpt.some
      | exact KeepsOpt.none
      | with_reducible apply KeepsO.ite
      | with_reducible apply KeepsOpt.ite
      | with_reducible apply Keeps.ite
      | with_reducible apply State.at__keeps
      | with_reducible apply State.pairArrives_keeps
      | extract_lets
      | split
      | (dsimp +zetaDelta only; split)
      | with_reducible apply Keeps.mkU

theorem State.inboundBillet_keeps {s₀ s : State} (h : Keeps s₀ s) (fibre : Nat) (route : Bytes) (payload : Bytes) :
    Keeps s₀ (State.inboundBillet s fibre route payload) := by
  unfold State.inboundBillet
  repeat'
    first
      | with_reducible assumption
      | intro _
      | with_reducible apply Keeps.ite
      | with_reducible apply State.tally_keeps
      | with_reducible apply State.bump_keeps
      | extract_lets
      | split
      | (dsimp +zetaDelta only; split)
      | with_reducible apply Keeps.mkU

theorem execFabricBilletReceive_keeps {s₀ s : State} (h : Keeps s₀ s) (l : LinkIx) (route : BitVec 128) (payload : Bytes) :
    KeepsO s₀ (execFabricBilletReceive l route payload s) := by
  unfold execFabricBilletReceive
  repeat'
    first
      | with_reducible assumption
      | intro _
      | with_reducible apply KeepsO.next
      | exact KeepsO.fault _
      | with_reducible apply KeepsOpt.some
      | exact KeepsOpt.none
      | with_reducible apply KeepsO.ite
      | with_reducible apply KeepsOpt.ite
      | with_reducible apply Keeps.ite
      | with_reducible apply State.inboundBillet_keeps
      | extract_lets
      | split
      | (dsimp +zetaDelta only; split)
      | with_reducible apply Keeps.mkU

theorem execInboundBilletMissing_keeps {s₀ s : State} (h : Keeps s₀ s) (p : PortIx) :
    KeepsO s₀ (execInboundBilletMissing p s) := by
  unfold execInboundBilletMissing
  repeat'
    first
      | with_reducible assumption
      | intro _
      | with_reducible apply KeepsO.next
      | exact KeepsO.fault _
      | with_reducible apply KeepsOpt.some
      | exact KeepsOpt.none
      | with_reducible apply KeepsO.ite
      | with_reducible apply KeepsOpt.ite
      | with_reducible apply Keeps.ite
      | with_reducible apply State.stopBatch_keeps
      | with_reducible apply State.settleStop_keeps
      | with_reducible apply State.releasePending_keeps
      | with_reducible apply State.drainProgress_keeps
      | extract_lets
      | split
      | (dsimp +zetaDelta only; split)
      | with_reducible apply Keeps.mkU

theorem State.clampArrives_keeps {s₀ s : State} (h : Keeps s₀ s) (count : Nat) :
    Keeps s₀ (State.clampArrives s count) := by
  unfold State.clampArrives
  repeat'
    first
      | with_reducible assumption
      | intro _
      | with_reducible apply Keeps.ite
      | with_reducible apply State.announceClamp_keeps
      | extract_lets
      | split
      | (dsimp +zetaDelta only; split)
      | with_reducible apply Keeps.mkU

theorem execFabricClampMessage_keeps {s₀ s : State} (h : Keeps s₀ s) (count : DWord) (_uid : DWord) (now : Nat) :
    KeepsO s₀ (execFabricClampMessage count _uid now s) := by
  unfold execFabricClampMessage
  repeat'
    first
      | with_reducible assumption
      | intro _
      | with_reducible apply KeepsO.next
      | exact KeepsO.fault _
      | with_reducible apply KeepsOpt.some
      | exact KeepsOpt.none
      | with_reducible apply KeepsO.ite
      | with_reducible apply KeepsOpt.ite
      | with_reducible apply Keeps.ite
      | with_reducible apply State.at__keeps
      | with_reducible apply State.clampArrives_keeps
      | extract_lets
      | split
      | (dsimp +zetaDelta only; split)
      | with_reducible apply Keeps.mkU

theorem State.dropRequest_keeps {s₀ s : State} (h : Keeps s₀ s) (body : Bytes) (status : Nat) :
    Keeps s₀ (State.dropRequest s body status) := by
  unfold State.dropRequest
  repeat'
    first
      | with_reducible assumption
      | intro _
      | with_reducible apply Keeps.ite
      | with_reducible apply State.nackReq_keeps
      | extract_lets
      | split
      | (dsimp +zetaDelta only; split)
      | with_reducible apply Keeps.mkU

theorem State.deliverRouted_keeps {s₀ s : State} (h : Keeps s₀ s) (l : Nat) (vc : Nat) (body : Bytes) :
    Keeps s₀ (State.deliverRouted s l vc body) := by
  unfold State.deliverRouted
  repeat'
    first
      | with_reducible assumption
      | intro _
      | with_reducible apply Keeps.ite
      | with_reducible apply State.fibreCount_keeps
      | with_reducible apply State.dropRequest_keeps
      | with_reducible apply State.tally_keeps
      | with_reducible apply State.queueDyn_keeps
      | with_reducible apply State.inboundBillet_keeps
      | with_reducible apply State.pairArrives_keeps
      | with_reducible apply State.clampArrives_keeps
      | extract_lets
      | split
      | (dsimp +zetaDelta only; split)
      | with_reducible apply Keeps.mkU

theorem State.fabricCarriage_keeps {s₀ s : State} (h : Keeps s₀ s) (l : Nat) (c : Nat) :
    Keeps s₀ (State.fabricCarriage s l c) := by
  unfold State.fabricCarriage
  repeat'
    first
      | with_reducible assumption
      | intro _
      | with_reducible apply Keeps.ite
      | with_reducible apply State.copyArrives_keeps
      | with_reducible apply State.protectedEffect_keeps
      | extract_lets
      | split
      | (dsimp +zetaDelta only; split)
      | with_reducible apply Keeps.mkU

theorem State.acceptFabric_keeps {s₀ s : State} (h : Keeps s₀ s) (l : Nat) (frame : Bytes) :
    Keeps s₀ (State.acceptFabric s l frame) := by
  unfold State.acceptFabric
  repeat'
    first
      | with_reducible assumption
      | intro _
      | with_reducible apply Keeps.ite
      | with_reducible apply State.acceptSeq_keeps
      | with_reducible apply State.returnCredits_keeps
      | with_reducible apply State.deliverRouted_keeps
      | with_reducible apply State.fibreCount_keeps
      | with_reducible apply State.dropRequest_keeps
      | with_reducible apply State.tally_keeps
      | extract_lets
      | split
      | (dsimp +zetaDelta only; split)
      | with_reducible apply Keeps.mkU

theorem execLinkFrameReceive_keeps {s₀ s : State} (h : Keeps s₀ s) (l : LinkIx) (frame : Bytes) :
    KeepsO s₀ (execLinkFrameReceive l frame s) := by
  unfold execLinkFrameReceive
  repeat'
    first
      | with_reducible assumption
      | intro _
      | with_reducible apply KeepsO.next
      | exact KeepsO.fault _
      | with_reducible apply KeepsOpt.some
      | exact KeepsOpt.none
      | with_reducible apply KeepsO.ite
      | with_reducible apply KeepsOpt.ite
      | with_reducible apply Keeps.ite
      | with_reducible apply State.fibreCount_keeps
      | with_reducible apply State.linkHeader_keeps
      | with_reducible apply State.resendLink_keeps
      | with_reducible apply State.fabricCarriage_keeps
      | with_reducible apply State.acceptFabric_keeps
      | with_reducible apply State.pumpAll_keeps
      | with_reducible apply State.drainProgress_keeps
      | extract_lets
      | split
      | (dsimp +zetaDelta only; split)
      | with_reducible apply Keeps.mkU

theorem State.readOpen_keeps {s₀ s : State} (h : Keeps s₀ s) (addr : Nat) (n : Nat) :
    Keeps s₀ (State.readOpen s addr n).2 := by
  unfold State.readOpen
  repeat'
    first
      | with_reducible assumption
      | intro _
      | with_reducible apply Keeps.ite
      | with_reducible apply State.meetRange_keeps
      | with_reducible apply State.drawBytes_keeps
      | extract_lets
      | split
      | (dsimp +zetaDelta only; split)
      | with_reducible apply Keeps.mkU

theorem execRouteLoadShadow_keeps {s₀ s : State} (h : Keeps s₀ s) (q : QueueIx) (slot : SlotIx) :
    KeepsO s₀ (execRouteLoadShadow q slot s) := by
  unfold execRouteLoadShadow
  repeat'
    first
      | with_reducible assumption
      | intro _
      | with_reducible apply KeepsO.next
      | exact KeepsO.fault _
      | with_reducible apply KeepsOpt.some
      | exact KeepsOpt.none
      | with_reducible apply KeepsO.ite
      | with_reducible apply KeepsOpt.ite
      | with_reducible apply Keeps.ite
      | with_reducible apply State.withCmd_keeps
      | with_reducible apply State.fail_keeps
      | with_reducible apply State.readOpen_keeps
      | with_reducible apply State.done_keeps
      | extract_lets
      | split
      | (dsimp +zetaDelta only; split)
      | with_reducible apply Keeps.mkU

theorem execFabStatus_keeps {s₀ s : State} (h : Keeps s₀ s) (q : QueueIx) (slot : SlotIx) :
    KeepsO s₀ (execFabStatus q slot s) := by
  unfold execFabStatus
  repeat'
    first
      | with_reducible assumption
      | intro _
      | with_reducible apply KeepsO.next
      | exact KeepsO.fault _
      | with_reducible apply KeepsOpt.some
      | exact KeepsOpt.none
      | with_reducible apply KeepsO.ite
      | with_reducible apply KeepsOpt.ite
      | with_reducible apply Keeps.ite
      | with_reducible apply State.withCmd_keeps
      | with_reducible apply State.fail_keeps
      | with_reducible apply State.output_keeps
      | extract_lets
      | split
      | (dsimp +zetaDelta only; split)
      | with_reducible apply Keeps.mkU

end Sys2Proof.Machine
end

