-- ==== Sys2Proof/Laws/KeepsHealth.lean ====
section
/-!
SUPPORT. What every operation of Machine/Health.lean keeps (Laws/Keeps.lean).
-/
namespace Sys2Proof.Machine

set_option Elab.async false
set_option linter.all false

theorem State.portQuality_keeps {s₀ s : State} (h : Keeps s₀ s) (kind : Nat) (p : Nat) :
    Keeps s₀ (State.portQuality s kind p).2 := by
  unfold State.portQuality
  repeat'
    first
      | with_reducible assumption
      | intro _
      | with_reducible apply Keeps.ite
      | with_reducible apply State.draw_keeps
      | with_reducible apply Keeps.foldl
      | with_reducible apply Keeps.foldl_fst
      | with_reducible apply Keeps.foldl_snd
      | extract_lets
      | split
      | (dsimp +zetaDelta only; split)
      | with_reducible apply Keeps.mkU

theorem State.fibreQuality_keeps {s₀ s : State} (h : Keeps s₀ s) (f : Nat) :
    Keeps s₀ (State.fibreQuality s f).2 := by
  unfold State.fibreQuality
  repeat'
    first
      | with_reducible assumption
      | intro _
      | with_reducible apply Keeps.ite
      | with_reducible apply State.portQuality_keeps
      | with_reducible apply Keeps.foldl
      | with_reducible apply Keeps.foldl_fst
      | with_reducible apply Keeps.foldl_snd
      | extract_lets
      | split
      | (dsimp +zetaDelta only; split)
      | with_reducible apply Keeps.mkU

theorem State.qualities_keeps {s₀ s : State} (h : Keeps s₀ s) (f : State → Nat → Quality × State)
    (hf : ∀ v u, Keeps s₀ v → Keeps s₀ (f v u).2) (l : List Nat) : Keeps s₀ (s.qualities f l).2 := by
  induction l generalizing s with
  | nil => exact h
  | cons u t ih =>
    simp only [State.qualities]
    exact ih (hf _ _ h)

theorem State.qualitySection_keeps {s₀ s : State} (h : Keeps s₀ s) (t : Nat) :
    Keeps s₀ (State.qualitySection s t).2 := by
  unfold State.qualitySection
  repeat'
    first
      | with_reducible assumption
      | intro _
      | with_reducible apply Keeps.ite
      | with_reducible apply State.qualities_keeps
      | with_reducible apply State.portQuality_keeps
      | with_reducible apply State.fibreQuality_keeps
      | extract_lets
      | split
      | (dsimp +zetaDelta only; split)
      | with_reducible apply Keeps.mkU

theorem State.healthReport_keeps {s₀ s : State} (h : Keeps s₀ s) (mask : Nat) (t : Nat) :
    Keeps s₀ (State.healthReport s mask t).2 := by
  unfold State.healthReport
  repeat'
    first
      | with_reducible assumption
      | intro _
      | with_reducible apply Keeps.ite
      | with_reducible apply State.qualitySection_keeps
      | extract_lets
      | split
      | (dsimp +zetaDelta only; split)
      | with_reducible apply Keeps.mkU

theorem execHealthRead_keeps {s₀ s : State} (h : Keeps s₀ s) (q : QueueIx) (slot : SlotIx) :
    KeepsO s₀ (execHealthRead q slot s) := by
  unfold execHealthRead
  repeat'
    first
      | with_reducible assumption
      | intro _
      | with_reducible apply KeepsO.next
      | exact KeepsO.fault _
      | with_reducible apply KeepsOpt.some
      | exact KeepsOpt.none
      | with_reducible apply KeepsO.ite
      | with_reducible apply KeepsOpt.ite
      | with_reducible apply Keeps.ite
      | with_reducible apply State.withCmd_keeps
      | with_reducible apply State.fail_keeps
      | with_reducible apply State.healthReport_keeps
      | with_reducible apply State.output_keeps
      | extract_lets
      | split
      | (dsimp +zetaDelta only; split)
      | with_reducible apply Keeps.mkU

theorem execDefectListRead_keeps {s₀ s : State} (h : Keeps s₀ s) (q : QueueIx) (slot : SlotIx) :
    KeepsO s₀ (execDefectListRead q slot s) := by
  unfold execDefectListRead
  repeat'
    first
      | with_reducible assumption
      | intro _
      | with_reducible apply KeepsO.next
      | exact KeepsO.fault _
      | with_reducible apply KeepsOpt.some
      | exact KeepsOpt.none
      | with_reducible apply KeepsO.ite
      | with_reducible apply KeepsOpt.ite
      | with_reducible apply Keeps.ite
      | with_reducible apply State.withCmd_keeps
      | with_reducible apply State.fail_keeps
      | with_reducible apply State.output_keeps
      | extract_lets
      | split
      | (dsimp +zetaDelta only; split)
      | with_reducible apply Keeps.mkU

theorem State.wearColumn_keeps {s₀ s : State} (h : Keeps s₀ s) (c : Nat) :
    Keeps s₀ (State.wearColumn s c) := by
  unfold State.wearColumn
  repeat'
    first
      | with_reducible assumption
      | intro _
      | with_reducible apply Keeps.ite
      | with_reducible apply State.shiftColumn_keeps
      | with_reducible apply State.takeSpare_keeps
      | with_reducible apply State.replaced_keeps
      | with_reducible refine (State.shiftColumn_keeps ?_ _ _).keeps _ ‹_›
      | extract_lets
      | split
      | (dsimp +zetaDelta only; split)
      | with_reducible apply Keeps.mkU

theorem State.wearPhase_keeps {s₀ s : State} (h : Keeps s₀ s) (p : Nat) :
    Keeps s₀ (State.wearPhase s p) := by
  unfold State.wearPhase
  repeat'
    first
      | with_reducible assumption
      | intro _
      | with_reducible apply Keeps.ite
      | with_reducible apply State.modGroup_keeps
      | with_reducible apply State.modPhase_keeps
      | with_reducible apply State.takeSpare_keeps
      | with_reducible apply State.replaced_keeps
      | extract_lets
      | split
      | (dsimp +zetaDelta only; split)
      | with_reducible apply Keeps.mkU

theorem State.wearMc_keeps {s₀ s : State} (h : Keeps s₀ s) (m : Nat) :
    Keeps s₀ (State.wearMc s m) := by
  unfold State.wearMc
  repeat'
    first
      | with_reducible assumption
      | intro _
      | with_reducible apply Keeps.ite
      | with_reducible apply State.modMc_keeps
      | with_reducible apply State.failMc_keeps
      | extract_lets
      | split
      | (dsimp +zetaDelta only; split)
      | with_reducible apply Keeps.mkU

theorem State.wearSubst_keeps {s₀ s : State} (h : Keeps s₀ s) (kind : Nat) (unit : Nat) (detail : Word) :
    Keeps s₀ (State.wearSubst s kind unit detail) := by
  unfold State.wearSubst
  repeat'
    first
      | with_reducible assumption
      | intro _
      | with_reducible apply Keeps.ite
      | with_reducible apply State.wearColumn_keeps
      | with_reducible apply State.wearPhase_keeps
      | with_reducible apply State.ringFails_keeps
      | with_reducible apply State.retirePosition_keeps
      | with_reducible apply State.replaceRow_keeps
      | with_reducible apply State.migrate_keeps
      | with_reducible apply State.wearMc_keeps
      | with_reducible apply State.failCore_keeps
      | with_reducible apply State.fwReset_keeps
      | with_reducible apply State.replaceLane_keeps
      | extract_lets
      | split
      | (dsimp +zetaDelta only; split)
      | with_reducible apply Keeps.mkU

theorem execWearSubstitution_keeps {s₀ s : State} (h : Keeps s₀ s) (kind : Byte) (unit : Half) (detail : Word) (now : Nat) :
    KeepsO s₀ (execWearSubstitution kind unit detail now s) := by
  unfold execWearSubstitution
  repeat'
    first
      | with_reducible assumption
      | intro _
      | with_reducible apply KeepsO.next
      | exact KeepsO.fault _
      | with_reducible apply KeepsOpt.some
      | exact KeepsOpt.none
      | with_reducible apply KeepsO.ite
      | with_reducible apply KeepsOpt.ite
      | with_reducible apply Keeps.ite
      | with_reducible apply State.at__keeps
      | with_reducible apply State.modBank_keeps
      | with_reducible apply State.wearSubst_keeps
      | extract_lets
      | split
      | (dsimp +zetaDelta only; split)
      | with_reducible apply Keeps.mkU
      | with_reducible apply Keeps.mkFirm
      | with_reducible exact rfl
      | with_reducible exact List.prefix_refl _
      | (dsimp +zetaDelta only; with_reducible exact rfl)
      | (dsimp +zetaDelta only; with_reducible exact List.prefix_refl _)
      | exact rfl
      | exact List.prefix_refl _
      | exact List.prefix_append _ _

theorem execSpareSubst_keeps {s₀ s : State} (h : Keeps s₀ s) (q : QueueIx) (slot : SlotIx) :
    KeepsO s₀ (execSpareSubst q slot s) := by
  unfold execSpareSubst
  repeat'
    first
      | with_reducible assumption
      | intro _
      | with_reducible apply KeepsO.next
      | exact KeepsO.fault _
      | with_reducible apply KeepsOpt.some
      | exact KeepsOpt.none
      | with_reducible apply KeepsO.ite
      | with_reducible apply KeepsOpt.ite
      | with_reducible apply Keeps.ite
      | with_reducible apply State.withCmd_keeps
      | with_reducible apply State.fail_keeps
      | with_reducible apply State.wearSwap_keeps
      | with_reducible apply State.done_keeps
      | with_reducible apply State.wearSubst_keeps
      | extract_lets
      | split
      | (dsimp +zetaDelta only; split)
      | with_reducible apply Keeps.mkU

theorem State.dropSpare_keeps {s₀ s : State} (h : Keeps s₀ s) (kind : Nat) (unit : Nat) (detail : Word) :
    Keeps s₀ (State.dropSpare s kind unit detail) := by
  unfold State.dropSpare
  repeat'
    first
      | with_reducible assumption
      | intro _
      | with_reducible apply Keeps.ite
      | with_reducible apply State.shiftColumn_keeps
      | with_reducible apply State.modBank_keeps
      | with_reducible apply State.modPort_keeps
      | with_reducible apply State.announceMap_keeps
      | with_reducible apply State.modSite_keeps
      | with_reducible apply State.modMc_keeps
      | with_reducible apply State.laneOut_keeps
      | with_reducible refine (State.shiftColumn_keeps ?_ _ _).keeps _ ‹_›
      | extract_lets
      | split
      | (dsimp +zetaDelta only; split)
      | with_reducible apply Keeps.mkU
      | with_reducible apply Keeps.mkFirm
      | with_reducible exact rfl
      | with_reducible exact List.prefix_refl _
      | (dsimp +zetaDelta only; with_reducible exact rfl)
      | (dsimp +zetaDelta only; with_reducible exact List.prefix_refl _)
      | exact rfl
      | exact List.prefix_refl _
      | exact List.prefix_append _ _

theorem execSpareStandbyTest_keeps {s₀ s : State} (h : Keeps s₀ s) (kind : Byte) (unit : Half) (detail : Word) (passed : Bool) :
    KeepsO s₀ (execSpareStandbyTest kind unit detail passed s) := by
  unfold execSpareStandbyTest
  repeat'
    first
      | with_reducible assumption
      | intro _
      | with_reducible apply KeepsO.next
      | exact KeepsO.fault _
      | with_reducible apply KeepsOpt.some
      | exact KeepsOpt.none
      | with_reducible apply KeepsO.ite
      | with_reducible apply KeepsOpt.ite
      | with_reducible apply Keeps.ite
      | with_reducible apply State.retireEngine_keeps
      | with_reducible apply State.dropSpare_keeps
      | with_reducible apply State.faultActed_keeps
      | with_reducible apply State.checkProj_keeps
      | extract_lets
      | split
      | (dsimp +zetaDelta only; split)
      | with_reducible apply Keeps.mkU
      | with_reducible apply Keeps.mkFirm
      | with_reducible exact rfl
      | with_reducible exact List.prefix_refl _
      | (dsimp +zetaDelta only; with_reducible exact rfl)
      | (dsimp +zetaDelta only; with_reducible exact List.prefix_refl _)
      | exact rfl
      | exact List.prefix_refl _
      | exact List.prefix_append _ _

theorem State.takeHour_keeps {s₀ s : State} (h : Keeps s₀ s) (k : Nat) (unit : Nat) (detail : Nat) :
    Keeps s₀ (State.takeHour s k unit detail).2 := by
  unfold State.takeHour
  repeat'
    first
      | with_reducible assumption
      | intro _
      | with_reducible apply Keeps.ite
      | with_reducible apply State.modSite_keeps
      | with_reducible apply State.modWear_keeps
      | extract_lets
      | split
      | (dsimp +zetaDelta only; split)
      | with_reducible apply Keeps.mkU

theorem execWearLogWrite_keeps {s₀ s : State} (h : Keeps s₀ s) (rkind : Byte) (unit : Half) (value : Word) (detail : Word) :
    KeepsO s₀ (execWearLogWrite rkind unit value detail s) := by
  unfold execWearLogWrite
  repeat'
    first
      | with_reducible assumption
      | intro _
      | with_reducible apply KeepsO.next
      | exact KeepsO.fault _
      | with_reducible apply KeepsOpt.some
      | exact KeepsOpt.none
      | with_reducible apply KeepsO.ite
      | with_reducible apply KeepsOpt.ite
      | with_reducible apply Keeps.ite
      | with_reducible apply State.takeHour_keeps
      | with_reducible apply State.addWear_keeps
      | with_reducible apply State.modBank_keeps
      | extract_lets
      | split
      | (dsimp +zetaDelta only; split)
      | with_reducible apply Keeps.mkU
      | with_reducible apply Keeps.mkFirm
      | with_reducible exact rfl
      | with_reducible exact List.prefix_refl _
      | (dsimp +zetaDelta only; with_reducible exact rfl)
      | (dsimp +zetaDelta only; with_reducible exact List.prefix_refl _)
      | exact rfl
      | exact List.prefix_refl _
      | exact List.prefix_append _ _

theorem execPhaseShed_keeps {s₀ s : State} (h : Keeps s₀ s) (g : GroupIx) (lossPermille : Nat) (now : Nat) :
    KeepsO s₀ (execPhaseShed g lossPermille now s) := by
  unfold execPhaseShed
  repeat'
    first
      | with_reducible assumption
      | intro _
      | with_reducible apply KeepsO.next
      | exact KeepsO.fault _
      | with_reducible apply KeepsOpt.some
      | exact KeepsOpt.none
      | with_reducible apply KeepsO.ite
      | with_reducible apply KeepsOpt.ite
      | with_reducible apply Keeps.ite
      | with_reducible apply State.at__keeps
      | with_reducible apply State.modGroup_keeps
      | with_reducible apply State.modPhase_keeps
      | with_reducible apply State.wearPhase_keeps
      | extract_lets
      | split
      | (dsimp +zetaDelta only; split)
      | with_reducible apply Keeps.mkU

end Sys2Proof.Machine
end

