-- ==== Sys2Proof/Laws/KeepsResets.lean ====
section
/-!
SUPPORT. What every operation of Machine/Resets.lean keeps (Laws/Keeps.lean).
-/
namespace Sys2Proof.Machine

set_option Elab.async false
set_option linter.all false

theorem State.resetModule_keeps {s₀ s : State} (h : Keeps s₀ s) (cold : Bool) (cause : Nat) (strapMv : Option Nat) (lost : Bool) :
    Keeps s₀ (State.resetModule s cold cause strapMv lost) := by
  unfold State.resetModule
  repeat'
    first
      | with_reducible assumption
      | exact fun w => memWrite_wf w
      | exact fun w => memFilter_wf w
      | intro _
      | with_reducible apply Keeps.ite
      | extract_lets
      | split
      | (dsimp +zetaDelta only; split)
      | with_reducible apply Keeps.mkU
      | with_reducible apply Keeps.mkHost
      | with_reducible apply Keeps.mkFirm
      | with_reducible exact rfl
      | with_reducible exact List.prefix_refl _
      | (dsimp +zetaDelta only; with_reducible exact rfl)
      | (dsimp +zetaDelta only; with_reducible exact List.prefix_refl _)
      | exact rfl
      | exact List.prefix_refl _
      | exact List.prefix_append _ _
      | exact ⟨h.pending, h.drawn, fun _ => rfl, h.host, h.defects, h.revoked, fun _ => ⟨List.forall_mem_nil _, List.forall_mem_nil _⟩⟩

theorem execColdReset_keeps {s₀ s : State} (h : Keeps s₀ s) (backupOk : Bool) (strapMv : Nat) :
    KeepsO s₀ (execColdReset backupOk strapMv s) := by
  unfold execColdReset
  repeat'
    first
      | with_reducible assumption
      | intro _
      | with_reducible apply KeepsO.next
      | exact KeepsO.fault _
      | with_reducible apply KeepsOpt.some
      | exact KeepsOpt.none
      | with_reducible apply KeepsO.ite
      | with_reducible apply KeepsOpt.ite
      | with_reducible apply Keeps.ite
      | with_reducible apply State.resetModule_keeps
      | extract_lets
      | split
      | (dsimp +zetaDelta only; split)
      | with_reducible apply Keeps.mkU

theorem execModuleReset_keeps {s₀ s : State} (h : Keeps s₀ s) (cause : ModuleResetCause) (strapMv : Nat) :
    KeepsO s₀ (execModuleReset cause strapMv s) := by
  unfold execModuleReset
  repeat'
    first
      | with_reducible assumption
      | intro _
      | with_reducible apply KeepsO.next
      | exact KeepsO.fault _
      | with_reducible apply KeepsOpt.some
      | exact KeepsOpt.none
      | with_reducible apply KeepsO.ite
      | with_reducible apply KeepsOpt.ite
      | with_reducible apply Keeps.ite
      | with_reducible apply State.resetModule_keeps
      | extract_lets
      | split
      | (dsimp +zetaDelta only; split)
      | with_reducible apply Keeps.mkU

theorem execPeatXtalFail_keeps {s₀ s : State} (h : Keeps s₀ s) :
    KeepsO s₀ (execPeatXtalFail s) := by
  unfold execPeatXtalFail
  repeat'
    first
      | with_reducible assumption
      | intro _
      | with_reducible apply KeepsO.next
      | exact KeepsO.fault _
      | with_reducible apply KeepsOpt.some
      | exact KeepsOpt.none
      | with_reducible apply KeepsO.ite
      | with_reducible apply KeepsOpt.ite
      | with_reducible apply Keeps.ite
      | with_reducible apply State.resetModule_keeps
      | extract_lets
      | split
      | (dsimp +zetaDelta only; split)
      | with_reducible apply Keeps.mkU

theorem execVauxLoss_keeps {s₀ s : State} (h : Keeps s₀ s) :
    KeepsO s₀ (execVauxLoss s) := by
  unfold execVauxLoss
  repeat'
    first
      | with_reducible assumption
      | exact fun w => memWrite_wf w
      | exact fun w => memFilter_wf w
      | intro _
      | with_reducible apply KeepsO.next
      | exact KeepsO.fault _
      | with_reducible apply KeepsOpt.some
      | exact KeepsOpt.none
      | with_reducible apply KeepsO.ite
      | with_reducible apply KeepsOpt.ite
      | with_reducible apply Keeps.ite
      | extract_lets
      | split
      | (dsimp +zetaDelta only; split)
      | with_reducible apply Keeps.mkU
      | with_reducible apply Keeps.mkHost
      | with_reducible apply Keeps.mkFirm
      | with_reducible exact rfl
      | with_reducible exact List.prefix_refl _
      | (dsimp +zetaDelta only; with_reducible exact rfl)
      | (dsimp +zetaDelta only; with_reducible exact List.prefix_refl _)
      | exact rfl
      | exact List.prefix_refl _
      | exact List.prefix_append _ _
      | exact ⟨h.pending, h.drawn, fun _ => rfl, h.host, h.defects, h.revoked, fun _ => ⟨List.forall_mem_nil _, List.forall_mem_nil _⟩⟩

theorem execBringupIslandRelease_keeps {s₀ s : State} (h : Keeps s₀ s) :
    KeepsO s₀ (execBringupIslandRelease s) := by
  unfold execBringupIslandRelease
  repeat'
    first
      | with_reducible assumption
      | intro _
      | with_reducible apply KeepsO.next
      | exact KeepsO.fault _
      | with_reducible apply KeepsOpt.some
      | exact KeepsOpt.none
      | with_reducible apply KeepsO.ite
      | with_reducible apply KeepsOpt.ite
      | with_reducible apply Keeps.ite
      | extract_lets
      | split
      | (dsimp +zetaDelta only; split)
      | with_reducible apply Keeps.mkU

theorem State.clearDies_keeps {s₀ s : State} (h : Keeps s₀ s) (cds : List Nat) :
    Keeps s₀ (State.clearDies s cds) := by
  unfold State.clearDies
  repeat'
    first
      | with_reducible assumption
      | intro _
      | with_reducible apply Keeps.ite
      | with_reducible apply State.endBatchesOn_keeps
      | with_reducible apply State.modCd_keeps
      | with_reducible apply State.clearCells_keeps
      | with_reducible apply State.modRegion_keeps
      | with_reducible apply State.regionEnded_keeps
      | with_reducible apply State.settleWakes_keeps
      | with_reducible apply Keeps.foldl
      | with_reducible apply Keeps.foldl_fst
      | with_reducible apply Keeps.foldl_snd
      | extract_lets
      | split
      | (dsimp +zetaDelta only; split)
      | with_reducible apply Keeps.mkU

theorem State.assertCompute_keeps {s₀ s : State} (h : Keeps s₀ s) :
    Keeps s₀ (State.assertCompute s) := by
  unfold State.assertCompute
  repeat'
    first
      | with_reducible assumption
      | intro _
      | with_reducible apply Keeps.ite
      | with_reducible apply State.countReset_keeps
      | with_reducible apply State.modSite_keeps
      | with_reducible apply State.clearDies_keeps
      | with_reducible apply Keeps.foldl
      | with_reducible apply Keeps.foldl_fst
      | with_reducible apply Keeps.foldl_snd
      | extract_lets
      | split
      | (dsimp +zetaDelta only; split)
      | with_reducible apply Keeps.mkU

theorem execComputeReset_keeps {s₀ s : State} (h : Keeps s₀ s) :
    KeepsO s₀ (execComputeReset s) := by
  unfold execComputeReset
  repeat'
    first
      | with_reducible assumption
      | intro _
      | with_reducible apply KeepsO.next
      | exact KeepsO.fault _
      | with_reducible apply KeepsOpt.some
      | exact KeepsOpt.none
      | with_reducible apply KeepsO.ite
      | with_reducible apply KeepsOpt.ite
      | with_reducible apply Keeps.ite
      | with_reducible apply State.assertCompute_keeps
      | extract_lets
      | split
      | (dsimp +zetaDelta only; split)
      | with_reducible apply Keeps.mkU

theorem execComputeResetRelease_keeps {s₀ s : State} (h : Keeps s₀ s) :
    KeepsO s₀ (execComputeResetRelease s) := by
  unfold execComputeResetRelease
  repeat'
    first
      | with_reducible assumption
      | intro _
      | with_reducible apply KeepsO.next
      | exact KeepsO.fault _
      | with_reducible apply KeepsOpt.some
      | exact KeepsOpt.none
      | with_reducible apply KeepsO.ite
      | with_reducible apply KeepsOpt.ite
      | with_reducible apply Keeps.ite
      | with_reducible apply State.releaseSites_keeps
      | extract_lets
      | split
      | (dsimp +zetaDelta only; split)
      | with_reducible apply Keeps.mkU

theorem State.cmdIgnored_keeps {s₀ s : State} (h : Keeps s₀ s) :
    Keeps s₀ (State.cmdIgnored s) := by
  unfold State.cmdIgnored
  repeat'
    first
      | with_reducible assumption
      | intro _
      | with_reducible apply Keeps.ite
      | extract_lets
      | split
      | (dsimp +zetaDelta only; split)
      | with_reducible apply Keeps.mkU

theorem State.buReset_keeps {s₀ s : State} (h : Keeps s₀ s) (key : Nat) (scope : Nat) (die : Nat) :
    Keeps s₀ (State.buReset s key scope die) := by
  unfold State.buReset
  repeat'
    first
      | with_reducible assumption
      | intro _
      | with_reducible apply Keeps.ite
      | with_reducible apply State.cmdIgnored_keeps
      | with_reducible apply State.resetModule_keeps
      | with_reducible apply State.assertCompute_keeps
      | with_reducible apply State.countReset_keeps
      | with_reducible apply State.clearDies_keeps
      | with_reducible apply State.fwReset_keeps
      | extract_lets
      | split
      | (dsimp +zetaDelta only; split)
      | with_reducible apply Keeps.mkU

theorem execBuResetModule_keeps {s₀ s : State} (h : Keeps s₀ s) (key : Half) :
    KeepsO s₀ (execBuResetModule key s) := by
  unfold execBuResetModule
  repeat'
    first
      | with_reducible assumption
      | intro _
      | with_reducible apply KeepsO.next
      | exact KeepsO.fault _
      | with_reducible apply KeepsOpt.some
      | exact KeepsOpt.none
      | with_reducible apply KeepsO.ite
      | with_reducible apply KeepsOpt.ite
      | with_reducible apply Keeps.ite
      | with_reducible apply State.buReset_keeps
      | extract_lets
      | split
      | (dsimp +zetaDelta only; split)
      | with_reducible apply Keeps.mkU

theorem execBuResetCompute_keeps {s₀ s : State} (h : Keeps s₀ s) (key : Half) :
    KeepsO s₀ (execBuResetCompute key s) := by
  unfold execBuResetCompute
  repeat'
    first
      | with_reducible assumption
      | intro _
      | with_reducible apply KeepsO.next
      | exact KeepsO.fault _
      | with_reducible apply KeepsOpt.some
      | exact KeepsOpt.none
      | with_reducible apply KeepsO.ite
      | with_reducible apply KeepsOpt.ite
      | with_reducible apply Keeps.ite
      | with_reducible apply State.buReset_keeps
      | extract_lets
      | split
      | (dsimp +zetaDelta only; split)
      | with_reducible apply Keeps.mkU

theorem execBuResetDie_keeps {s₀ s : State} (h : Keeps s₀ s) (key : Half) (cd : CdIx) :
    KeepsO s₀ (execBuResetDie key cd s) := by
  unfold execBuResetDie
  repeat'
    first
      | with_reducible assumption
      | intro _
      | with_reducible apply KeepsO.next
      | exact KeepsO.fault _
      | with_reducible apply KeepsOpt.some
      | exact KeepsOpt.none
      | with_reducible apply KeepsO.ite
      | with_reducible apply KeepsOpt.ite
      | with_reducible apply Keeps.ite
      | with_reducible apply State.buReset_keeps
      | extract_lets
      | split
      | (dsimp +zetaDelta only; split)
      | with_reducible apply Keeps.mkU

theorem execBuResetFirmware_keeps {s₀ s : State} (h : Keeps s₀ s) (key : Half) :
    KeepsO s₀ (execBuResetFirmware key s) := by
  unfold execBuResetFirmware
  repeat'
    first
      | with_reducible assumption
      | intro _
      | with_reducible apply KeepsO.next
      | exact KeepsO.fault _
      | with_reducible apply KeepsOpt.some
      | exact KeepsOpt.none
      | with_reducible apply KeepsO.ite
      | with_reducible apply KeepsOpt.ite
      | with_reducible apply Keeps.ite
      | with_reducible apply State.buReset_keeps
      | extract_lets
      | split
      | (dsimp +zetaDelta only; split)
      | with_reducible apply Keeps.mkU

theorem execRefclkLost_keeps {s₀ s : State} (h : Keeps s₀ s) (now : Nat) (strapMv : Nat) :
    KeepsO s₀ (execRefclkLost now strapMv s) := by
  unfold execRefclkLost
  repeat'
    first
      | with_reducible assumption
      | intro _
      | with_reducible apply KeepsO.next
      | exact KeepsO.fault _
      | with_reducible apply KeepsOpt.some
      | exact KeepsOpt.none
      | with_reducible apply KeepsO.ite
      | with_reducible apply KeepsOpt.ite
      | with_reducible apply Keeps.ite
      | with_reducible apply State.at__keeps
      | with_reducible apply State.resetModule_keeps
      | with_reducible apply State.notice0_keeps
      | extract_lets
      | split
      | (dsimp +zetaDelta only; split)
      | with_reducible apply Keeps.mkU

theorem execRefclkBack_keeps {s₀ s : State} (h : Keeps s₀ s) (now : Nat) :
    KeepsO s₀ (execRefclkBack now s) := by
  unfold execRefclkBack
  repeat'
    first
      | with_reducible assumption
      | intro _
      | with_reducible apply KeepsO.next
      | exact KeepsO.fault _
      | with_reducible apply KeepsOpt.some
      | exact KeepsOpt.none
      | with_reducible apply KeepsO.ite
      | with_reducible apply KeepsOpt.ite
      | with_reducible apply Keeps.ite
      | with_reducible apply State.at__keeps
      | with_reducible apply State.notice0_keeps
      | extract_lets
      | split
      | (dsimp +zetaDelta only; split)
      | with_reducible apply Keeps.mkU

theorem execRefclkSafeStop_keeps {s₀ s : State} (h : Keeps s₀ s) (now : Nat) :
    KeepsO s₀ (execRefclkSafeStop now s) := by
  unfold execRefclkSafeStop
  repeat'
    first
      | with_reducible assumption
      | intro _
      | with_reducible apply KeepsO.next
      | exact KeepsO.fault _
      | with_reducible apply KeepsOpt.some
      | exact KeepsOpt.none
      | with_reducible apply KeepsO.ite
      | with_reducible apply KeepsOpt.ite
      | with_reducible apply Keeps.ite
      | with_reducible apply State.at__keeps
      | with_reducible apply State.stopBatch_keeps
      | with_reducible apply State.settleAll_keeps
      | with_reducible apply State.request_keeps
      | with_reducible apply State.settleWakes_keeps
      | with_reducible apply Keeps.foldl
      | with_reducible apply Keeps.foldl_fst
      | with_reducible apply Keeps.foldl_snd
      | extract_lets
      | split
      | (dsimp +zetaDelta only; split)
      | with_reducible apply Keeps.mkU

end Sys2Proof.Machine
end

