-- ==== Sys2Proof/Laws/KeepsDefects.lean ====
section
/-!
SUPPORT. What every operation of Machine/Defects.lean keeps (Laws/Keeps.lean).
-/
namespace Sys2Proof.Machine

set_option Elab.async false
set_option linter.all false

theorem State.columnOut_keeps {s₀ s : State} (h : Keeps s₀ s) (cd : Nat) (phys : Nat) :
    Keeps s₀ (State.columnOut s cd phys) := by
  unfold State.columnOut
  repeat'
    first
      | with_reducible assumption
      | intro _
      | with_reducible apply Keeps.ite
      | with_reducible apply State.modCd_keeps
      | extract_lets
      | split
      | (dsimp +zetaDelta only; split)
      | with_reducible apply Keeps.mkU

theorem State.positionOut_keeps {s₀ s : State} (h : Keeps s₀ s) (p : Nat) (pos : Nat) (substituted : Bool) :
    Keeps s₀ (State.positionOut s p pos substituted) := by
  unfold State.positionOut
  repeat'
    first
      | with_reducible assumption
      | intro _
      | with_reducible apply Keeps.ite
      | with_reducible apply State.modPort_keeps
      | with_reducible apply State.announceMap_keeps
      | extract_lets
      | split
      | (dsimp +zetaDelta only; split)
      | with_reducible apply Keeps.mkU

theorem State.applyTrim_keeps {s₀ s : State} (h : Keeps s₀ s) :
    Keeps s₀ (State.applyTrim s) := by
  unfold State.applyTrim
  repeat'
    first
      | with_reducible assumption
      | intro _
      | with_reducible apply Keeps.ite
      | with_reducible apply State.announceMap_keeps
      | with_reducible apply Keeps.foldl
      | with_reducible apply Keeps.foldl_fst
      | with_reducible apply Keeps.foldl_snd
      | extract_lets
      | split
      | (dsimp +zetaDelta only; split)
      | with_reducible apply Keeps.mkU

theorem State.bankOut_keeps {s₀ s : State} (h : Keeps s₀ s) (b : Nat) (action : Nat) :
    Keeps s₀ (State.bankOut s b action) := by
  unfold State.bankOut
  repeat'
    first
      | with_reducible assumption
      | intro _
      | with_reducible apply Keeps.ite
      | with_reducible apply State.modBank_keeps
      | with_reducible apply State.modPort_keeps
      | with_reducible apply Keeps.foldl
      | with_reducible apply Keeps.foldl_fst
      | with_reducible apply Keeps.foldl_snd
      | extract_lets
      | split
      | (dsimp +zetaDelta only; split)
      | with_reducible apply Keeps.mkU

theorem State.pcOut_keeps {s₀ s : State} (h : Keeps s₀ s) (m : Nat) (phys : Nat) (action : Nat) :
    Keeps s₀ (State.pcOut s m phys action) := by
  unfold State.pcOut
  repeat'
    first
      | with_reducible assumption
      | intro _
      | with_reducible apply Keeps.ite
      | with_reducible apply State.modSite_keeps
      | extract_lets
      | split
      | (dsimp +zetaDelta only; split)
      | with_reducible apply Keeps.mkU

theorem State.phaseOut_keeps {s₀ s : State} (h : Keeps s₀ s) (p : Nat) (action : Nat) :
    Keeps s₀ (State.phaseOut s p action) := by
  unfold State.phaseOut
  repeat'
    first
      | with_reducible assumption
      | intro _
      | with_reducible apply Keeps.ite
      | with_reducible apply State.modPhase_keeps
      | with_reducible apply State.modGroup_keeps
      | extract_lets
      | split
      | (dsimp +zetaDelta only; split)
      | with_reducible apply Keeps.mkU

theorem State.countPool_keeps {s₀ s : State} (h : Keeps s₀ s) (d : Defect) :
    Keeps s₀ (State.countPool s d) := by
  unfold State.countPool
  repeat'
    first
      | with_reducible assumption
      | intro _
      | with_reducible apply Keeps.ite
      | extract_lets
      | split
      | (dsimp +zetaDelta only; split)
      | with_reducible apply Keeps.mkU
      | with_reducible apply Keeps.mkFirm
      | with_reducible exact rfl
      | with_reducible exact List.prefix_refl _
      | (dsimp +zetaDelta only; with_reducible exact rfl)
      | (dsimp +zetaDelta only; with_reducible exact List.prefix_refl _)
      | exact rfl
      | exact List.prefix_refl _
      | exact List.prefix_append _ _

theorem State.applyDefect_keeps {s₀ s : State} (h : Keeps s₀ s) (d : Defect) :
    Keeps s₀ (State.applyDefect s d) := by
  unfold State.applyDefect
  repeat'
    first
      | with_reducible assumption
      | intro _
      | with_reducible apply Keeps.ite
      | with_reducible apply State.countPool_keeps
      | with_reducible apply State.columnOut_keeps
      | with_reducible apply State.modRegion_keeps
      | with_reducible apply State.phaseOut_keeps
      | with_reducible apply State.bankOut_keeps
      | with_reducible apply State.modPort_keeps
      | with_reducible apply State.positionOut_keeps
      | with_reducible apply State.modSite_keeps
      | with_reducible apply State.pcOut_keeps
      | with_reducible apply State.modMc_keeps
      | with_reducible apply State.modCe_keeps
      | with_reducible apply State.modSensor_keeps
      | with_reducible apply State.laneOut_keeps
      | with_reducible apply Keeps.foldl
      | with_reducible apply Keeps.foldl_fst
      | with_reducible apply Keeps.foldl_snd
      | extract_lets
      | split
      | (dsimp +zetaDelta only; split)
      | with_reducible apply Keeps.mkU
      | with_reducible apply Keeps.mkFirm
      | with_reducible exact rfl
      | with_reducible exact List.prefix_refl _
      | (dsimp +zetaDelta only; with_reducible exact rfl)
      | (dsimp +zetaDelta only; with_reducible exact List.prefix_refl _)
      | exact rfl
      | exact List.prefix_refl _
      | exact List.prefix_append _ _

theorem State.applyList_keeps {s₀ s : State} (h : Keeps s₀ s) :
    Keeps s₀ (State.applyList s) := by
  unfold State.applyList
  repeat'
    first
      | with_reducible assumption
      | intro _
      | with_reducible apply Keeps.ite
      | with_reducible apply State.applyDefect_keeps
      | with_reducible apply State.applyTrim_keeps
      | with_reducible apply State.mapSpares_keeps
      | with_reducible apply Keeps.foldl
      | with_reducible apply Keeps.foldl_fst
      | with_reducible apply Keeps.foldl_snd
      | extract_lets
      | split
      | (dsimp +zetaDelta only; split)
      | with_reducible apply Keeps.mkU
      | with_reducible apply Keeps.mkFirm
      | with_reducible exact rfl
      | with_reducible exact List.prefix_refl _
      | (dsimp +zetaDelta only; with_reducible exact rfl)
      | (dsimp +zetaDelta only; with_reducible exact List.prefix_refl _)
      | exact rfl
      | exact List.prefix_refl _
      | exact List.prefix_append _ _

theorem State.found_keeps {s₀ s : State} (h : Keeps s₀ s) (d : DefectFound) (action : Nat) :
    Keeps s₀ (State.found s d action) := by
  unfold State.found
  repeat'
    first
      | with_reducible assumption
      | intro _
      | with_reducible apply Keeps.ite
      | with_reducible apply State.addDefect_keeps
      | extract_lets
      | split
      | (dsimp +zetaDelta only; split)
      | with_reducible apply Keeps.mkU

theorem State.spareFails_keeps {s₀ s : State} (h : Keeps s₀ s) (d : DefectFound) :
    Keeps s₀ (State.spareFails s d) := by
  unfold State.spareFails
  repeat'
    first
      | with_reducible assumption
      | intro _
      | with_reducible apply Keeps.ite
      | with_reducible apply State.dropSpare_keeps
      | with_reducible apply State.found_keeps
      | extract_lets
      | split
      | (dsimp +zetaDelta only; split)
      | with_reducible apply Keeps.mkU
      | with_reducible apply Keeps.mkFirm
      | with_reducible exact rfl
      | with_reducible exact List.prefix_refl _
      | (dsimp +zetaDelta only; with_reducible exact rfl)
      | (dsimp +zetaDelta only; with_reducible exact List.prefix_refl _)
      | exact rfl
      | exact List.prefix_refl _
      | exact List.prefix_append _ _

theorem State.sodRegion_keeps {s₀ s : State} (h : Keeps s₀ s) (r : Nat) :
    Keeps s₀ (State.sodRegion s r) := by
  unfold State.sodRegion
  repeat'
    first
      | with_reducible assumption
      | intro _
      | with_reducible apply Keeps.ite
      | with_reducible apply State.failRegion_keeps
      | with_reducible apply State.addDefect_keeps
      | extract_lets
      | split
      | (dsimp +zetaDelta only; split)
      | with_reducible apply Keeps.mkU

theorem State.sodColumn_keeps {s₀ s : State} (h : Keeps s₀ s) (d : DefectFound) (cd : Nat) (phys : Nat) :
    Keeps s₀ (State.sodColumn s d cd phys) := by
  unfold State.sodColumn
  repeat'
    first
      | with_reducible assumption
      | intro _
      | with_reducible apply Keeps.ite
      | with_reducible apply State.found_keeps
      | with_reducible apply State.shiftColumn_keeps
      | with_reducible apply State.takeSpare_keeps
      | with_reducible apply State.sodRegion_keeps
      | with_reducible apply State.failRegion_keeps
      | with_reducible refine (State.shiftColumn_keeps ?_ _ _).keeps _ ‹_›
      | with_reducible apply Keeps.foldl
      | with_reducible apply Keeps.foldl_fst
      | with_reducible apply Keeps.foldl_snd
      | extract_lets
      | split
      | (dsimp +zetaDelta only; split)
      | with_reducible apply Keeps.mkU

theorem State.sodPhase_keeps {s₀ s : State} (h : Keeps s₀ s) (d : DefectFound) :
    Keeps s₀ (State.sodPhase s d) := by
  unfold State.sodPhase
  repeat'
    first
      | with_reducible assumption
      | intro _
      | with_reducible apply Keeps.ite
      | with_reducible apply State.modPhase_keeps
      | with_reducible apply State.spareFails_keeps
      | with_reducible apply State.modGroup_keeps
      | with_reducible apply State.takeSpare_keeps
      | with_reducible apply State.found_keeps
      | with_reducible apply State.sodRegion_keeps
      | extract_lets
      | split
      | (dsimp +zetaDelta only; split)
      | with_reducible apply Keeps.mkU

theorem State.sodBank_keeps {s₀ s : State} (h : Keeps s₀ s) (d : DefectFound) :
    Keeps s₀ (State.sodBank s d) := by
  unfold State.sodBank
  repeat'
    first
      | with_reducible assumption
      | intro _
      | with_reducible apply Keeps.ite
      | with_reducible apply State.spareFails_keeps
      | with_reducible apply State.modBank_keeps
      | with_reducible apply State.takeSpare_keeps
      | with_reducible apply State.takeBank_keeps
      | with_reducible apply State.found_keeps
      | with_reducible apply State.darken_keeps
      | extract_lets
      | split
      | (dsimp +zetaDelta only; split)
      | with_reducible apply Keeps.mkU

theorem State.sodPc_keeps {s₀ s : State} (h : Keeps s₀ s) (d : DefectFound) (phys : Nat) :
    Keeps s₀ (State.sodPc s d phys) := by
  unfold State.sodPc
  repeat'
    first
      | with_reducible assumption
      | intro _
      | with_reducible apply Keeps.ite
      | with_reducible apply State.spareFails_keeps
      | with_reducible apply State.modSite_keeps
      | with_reducible apply State.takeSpare_keeps
      | with_reducible apply State.found_keeps
      | extract_lets
      | split
      | (dsimp +zetaDelta only; split)
      | with_reducible apply Keeps.mkU

theorem State.sodRow_keeps {s₀ s : State} (h : Keeps s₀ s) (d : DefectFound) :
    Keeps s₀ (State.sodRow s d) := by
  unfold State.sodRow
  repeat'
    first
      | with_reducible assumption
      | intro _
      | with_reducible apply Keeps.ite
      | with_reducible apply State.modSite_keeps
      | with_reducible apply State.takeSpare_keeps
      | with_reducible apply State.found_keeps
      | with_reducible apply State.sodPc_keeps
      | extract_lets
      | split
      | (dsimp +zetaDelta only; split)
      | with_reducible apply Keeps.mkU

theorem State.sodMc_keeps {s₀ s : State} (h : Keeps s₀ s) (d : DefectFound) :
    Keeps s₀ (State.sodMc s d) := by
  unfold State.sodMc
  repeat'
    first
      | with_reducible assumption
      | intro _
      | with_reducible apply Keeps.ite
      | with_reducible apply State.modMc_keeps
      | with_reducible apply State.takeSpare_keeps
      | with_reducible apply State.found_keeps
      | extract_lets
      | split
      | (dsimp +zetaDelta only; split)
      | with_reducible apply Keeps.mkU

theorem State.sodDefect_keeps {s₀ s : State} (h : Keeps s₀ s) (d : DefectFound) :
    Keeps s₀ (State.sodDefect s d) := by
  unfold State.sodDefect
  repeat'
    first
      | with_reducible assumption
      | intro _
      | with_reducible apply Keeps.ite
      | with_reducible apply State.spareFails_keeps
      | with_reducible apply State.sodColumn_keeps
      | with_reducible apply State.sodPhase_keeps
      | with_reducible apply State.sodBank_keeps
      | with_reducible apply State.ringFails_keeps
      | with_reducible apply State.retirePosition_keeps
      | with_reducible apply State.sodRow_keeps
      | with_reducible apply State.sodPc_keeps
      | with_reducible apply State.sodMc_keeps
      | with_reducible apply State.failCore_keeps
      | with_reducible apply State.retireEngine_keeps
      | with_reducible apply State.modSensor_keeps
      | with_reducible apply State.found_keeps
      | extract_lets
      | split
      | (dsimp +zetaDelta only; split)
      | with_reducible apply Keeps.mkU

theorem State.takeFinding_keeps {s₀ s : State} (h : Keeps s₀ s) (d : DefectFound) :
    Keeps s₀ (State.takeFinding s d) := by
  unfold State.takeFinding
  repeat'
    first
      | with_reducible assumption
      | intro _
      | with_reducible apply Keeps.ite
      | with_reducible apply State.sodDefect_keeps
      | extract_lets
      | split
      | (dsimp +zetaDelta only; split)
      | with_reducible apply Keeps.mkU

theorem State.sodWakeFail_keeps {s₀ s : State} (h : Keeps s₀ s) (r : Nat) :
    Keeps s₀ (State.sodWakeFail s r) := by
  unfold State.sodWakeFail
  repeat'
    first
      | with_reducible assumption
      | intro _
      | with_reducible apply Keeps.ite
      | with_reducible apply State.modRegion_keeps
      | with_reducible apply State.addDefect_keeps
      | extract_lets
      | split
      | (dsimp +zetaDelta only; split)
      | with_reducible apply Keeps.mkU

end Sys2Proof.Machine
end

