-- ==== Sys2Proof/Laws/KeepsBringup.lean ====
section
/-!
SUPPORT. What every operation of Machine/Bringup.lean keeps (Laws/Keeps.lean).
-/
namespace Sys2Proof.Machine

set_option Elab.async false
set_option linter.all false

theorem State.endStep_keeps {s₀ s : State} (h : Keeps s₀ s) (cause : Byte) (data : DWord) :
    Keeps s₀ (State.endStep s cause data) := by
  unfold State.endStep
  repeat'
    first
      | with_reducible assumption
      | intro _
      | with_reducible apply Keeps.ite
      | extract_lets
      | split
      | (dsimp +zetaDelta only; split)
      | with_reducible apply Keeps.mkU

theorem State.stepBegun_keeps {s₀ s : State} (h : Keeps s₀ s) (code : Nat) :
    Keeps s₀ (State.stepBegun s code) := by
  unfold State.stepBegun
  repeat'
    first
      | with_reducible assumption
      | intro _
      | with_reducible apply Keeps.ite
      | extract_lets
      | split
      | (dsimp +zetaDelta only; split)
      | with_reducible apply Keeps.mkU

theorem State.writeCmd_keeps {s₀ s : State} (h : Keeps s₀ s) (code : Nat) (smbus : Bool) (act : State → State) (hact : ∀ v0, Keeps s₀ v0 → Keeps s₀ (act v0)) :
    Keeps s₀ (State.writeCmd s code smbus act) := by
  unfold State.writeCmd
  repeat'
    first
      | with_reducible assumption
      | intro _
      | with_reducible apply hact
      | with_reducible apply Keeps.ite
      | with_reducible apply State.cmdIgnored_keeps
      | with_reducible apply State.endStep_keeps
      | with_reducible apply State.stepBegun_keeps
      | extract_lets
      | split
      | (dsimp +zetaDelta only; split)
      | with_reducible apply Keeps.mkU

theorem State.runStep_keeps {s₀ s : State} (h : Keeps s₀ s) (code : Nat) (v : Via) (act : State → State) (hact : ∀ v0, Keeps s₀ v0 → Keeps s₀ (act v0)) :
    Keeps s₀ (State.runStep s code v act) := by
  unfold State.runStep
  repeat'
    first
      | with_reducible assumption
      | intro _
      | with_reducible apply hact
      | with_reducible apply Keeps.ite
      | with_reducible apply State.writeCmd_keeps
      | with_reducible apply State.cmdIgnored_keeps
      | extract_lets
      | split
      | (dsimp +zetaDelta only; split)
      | with_reducible apply Keeps.mkU

theorem State.fails_keeps {s₀ s : State} (h : Keeps s₀ s) (cause : Byte) (unit : Nat) (sub : Nat) :
    Keeps s₀ (State.fails s cause unit sub) := by
  unfold State.fails
  repeat'
    first
      | with_reducible assumption
      | intro _
      | with_reducible apply Keeps.ite
      | extract_lets
      | split
      | (dsimp +zetaDelta only; split)
      | with_reducible apply Keeps.mkU

theorem State.succeeds_keeps {s₀ s : State} (h : Keeps s₀ s) (data : Nat) :
    Keeps s₀ (State.succeeds s data) := by
  unfold State.succeeds
  repeat'
    first
      | with_reducible assumption
      | intro _
      | with_reducible apply Keeps.ite
      | extract_lets
      | split
      | (dsimp +zetaDelta only; split)
      | with_reducible apply Keeps.mkU

theorem State.voted_keeps {s₀ s : State} (h : Keeps s₀ s) (cores : Nat) (act : State → State) (hact : ∀ v0, Keeps s₀ v0 → Keeps s₀ (act v0)) :
    Keeps s₀ (State.voted s cores act) := by
  unfold State.voted
  repeat'
    first
      | with_reducible assumption
      | intro _
      | with_reducible apply hact
      | with_reducible apply Keeps.ite
      | with_reducible apply State.fails_keeps
      | extract_lets
      | split
      | (dsimp +zetaDelta only; split)
      | with_reducible apply Keeps.mkU

theorem State.loadSettings_keeps {s₀ s : State} (h : Keeps s₀ s) :
    Keeps s₀ (State.loadSettings s) := by
  unfold State.loadSettings
  repeat'
    first
      | with_reducible assumption
      | intro _
      | with_reducible apply Keeps.ite
      | with_reducible apply State.modCset_keeps
      | extract_lets
      | split
      | (dsimp +zetaDelta only; split)
      | with_reducible apply Keeps.mkU
      | with_reducible apply Keeps.mkFirm
      | with_reducible exact rfl
      | with_reducible exact List.prefix_refl _
      | (dsimp +zetaDelta only; with_reducible exact rfl)
      | (dsimp +zetaDelta only; with_reducible exact List.prefix_refl _)
      | exact rfl
      | exact List.prefix_refl _
      | exact List.prefix_append _ _

theorem State.basePowerAct_keeps {s₀ s : State} (h : Keeps s₀ s) (o : BaseObs) :
    Keeps s₀ (State.basePowerAct s o) := by
  unfold State.basePowerAct
  repeat'
    first
      | with_reducible assumption
      | intro _
      | with_reducible apply Keeps.ite
      | with_reducible apply State.fails_keeps
      | with_reducible apply State.voted_keeps
      | with_reducible apply State.loadSettings_keeps
      | with_reducible apply State.applyList_keeps
      | with_reducible apply State.succeeds_keeps
      | extract_lets
      | split
      | (dsimp +zetaDelta only; split)
      | with_reducible apply Keeps.mkU

theorem execBasePower_keeps {s₀ s : State} (h : Keeps s₀ s) (v : Via) (o : BaseObs) :
    KeepsO s₀ (execBasePower v o s) := by
  unfold execBasePower
  repeat'
    first
      | with_reducible assumption
      | intro _
      | with_reducible apply KeepsO.next
      | exact KeepsO.fault _
      | with_reducible apply KeepsOpt.some
      | exact KeepsOpt.none
      | with_reducible apply KeepsO.ite
      | with_reducible apply KeepsOpt.ite
      | with_reducible apply Keeps.ite
      | with_reducible apply State.runStep_keeps
      | with_reducible apply State.basePowerAct_keeps
      | extract_lets
      | split
      | (dsimp +zetaDelta only; split)
      | with_reducible apply Keeps.mkU

theorem execClocksStart_keeps {s₀ s : State} (h : Keeps s₀ s) (o : ClockStart) :
    KeepsO s₀ (execClocksStart o s) := by
  unfold execClocksStart
  repeat'
    first
      | with_reducible assumption
      | intro _
      | with_reducible apply KeepsO.next
      | exact KeepsO.fault _
      | with_reducible apply KeepsOpt.some
      | exact KeepsOpt.none
      | with_reducible apply KeepsO.ite
      | with_reducible apply KeepsOpt.ite
      | with_reducible apply Keeps.ite
      | with_reducible apply State.runStep_keeps
      | with_reducible apply State.fails_keeps
      | with_reducible apply State.voted_keeps
      | with_reducible apply State.succeeds_keeps
      | extract_lets
      | split
      | (dsimp +zetaDelta only; split)
      | with_reducible apply Keeps.mkU

theorem State.zeroSites_keeps {s₀ s : State} (h : Keeps s₀ s) :
    Keeps s₀ (State.zeroSites s) := by
  unfold State.zeroSites
  repeat'
    first
      | with_reducible assumption
      | exact fun w => memWrite_wf w
      | exact fun w => memFilter_wf w
      | intro _
      | with_reducible apply Keeps.ite
      | extract_lets
      | split
      | (dsimp +zetaDelta only; split)
      | with_reducible apply Keeps.mkU
      | with_reducible apply Keeps.mkMem

theorem State.trainAct_keeps {s₀ s : State} (h : Keeps s₀ s) (o : TrainObs) :
    Keeps s₀ (State.trainAct s o) := by
  unfold State.trainAct
  repeat'
    first
      | with_reducible assumption
      | intro _
      | with_reducible apply Keeps.ite
      | with_reducible apply State.trainLink_keeps
      | with_reducible apply State.zeroSites_keeps
      | with_reducible apply State.fails_keeps
      | with_reducible apply State.voted_keeps
      | with_reducible apply State.succeeds_keeps
      | with_reducible apply Keeps.foldl
      | with_reducible apply Keeps.foldl_fst
      | with_reducible apply Keeps.foldl_snd
      | extract_lets
      | split
      | (dsimp +zetaDelta only; split)
      | with_reducible apply Keeps.mkU

theorem execTrain_keeps {s₀ s : State} (h : Keeps s₀ s) (v : Via) (o : TrainObs) :
    KeepsO s₀ (execTrain v o s) := by
  unfold execTrain
  repeat'
    first
      | with_reducible assumption
      | intro _
      | with_reducible apply KeepsO.next
      | exact KeepsO.fault _
      | with_reducible apply KeepsOpt.some
      | exact KeepsOpt.none
      | with_reducible apply KeepsO.ite
      | with_reducible apply KeepsOpt.ite
      | with_reducible apply Keeps.ite
      | with_reducible apply State.runStep_keeps
      | with_reducible apply State.trainAct_keeps
      | extract_lets
      | split
      | (dsimp +zetaDelta only; split)
      | with_reducible apply Keeps.mkU

theorem State.sodAct_keeps {s₀ s : State} (h : Keeps s₀ s) (o : SodObs) :
    Keeps s₀ (State.sodAct s o) := by
  unfold State.sodAct
  repeat'
    first
      | with_reducible assumption
      | intro _
      | with_reducible apply Keeps.ite
      | with_reducible apply State.voted_keeps
      | with_reducible apply State.takeFinding_keeps
      | with_reducible apply State.sodWakeFail_keeps
      | with_reducible apply State.succeeds_keeps
      | with_reducible apply Keeps.foldl
      | with_reducible apply Keeps.foldl_fst
      | with_reducible apply Keeps.foldl_snd
      | extract_lets
      | split
      | (dsimp +zetaDelta only; split)
      | with_reducible apply Keeps.mkU

theorem execSodTest_keeps {s₀ s : State} (h : Keeps s₀ s) (v : Via) (o : SodObs) :
    KeepsO s₀ (execSodTest v o s) := by
  unfold execSodTest
  repeat'
    first
      | with_reducible assumption
      | intro _
      | with_reducible apply KeepsO.next
      | exact KeepsO.fault _
      | with_reducible apply KeepsOpt.some
      | exact KeepsOpt.none
      | with_reducible apply KeepsO.ite
      | with_reducible apply KeepsOpt.ite
      | with_reducible apply Keeps.ite
      | with_reducible apply State.runStep_keeps
      | with_reducible apply State.sodAct_keeps
      | extract_lets
      | split
      | (dsimp +zetaDelta only; split)
      | with_reducible apply Keeps.mkU

theorem State.loadHeartwoodAct_keeps {s₀ s : State} (h : Keeps s₀ s) :
    Keeps s₀ (State.loadHeartwoodAct s) := by
  unfold State.loadHeartwoodAct
  repeat'
    first
      | with_reducible assumption
      | intro _
      | with_reducible apply Keeps.ite
      | with_reducible apply State.fails_keeps
      | with_reducible apply State.modMc_keeps
      | with_reducible apply State.succeeds_keeps
      | with_reducible apply Keeps.foldl
      | with_reducible apply Keeps.foldl_fst
      | with_reducible apply Keeps.foldl_snd
      | extract_lets
      | split
      | (dsimp +zetaDelta only; split)
      | with_reducible apply Keeps.mkU
      | with_reducible apply Keeps.mkFirm
      | with_reducible exact rfl
      | with_reducible exact List.prefix_refl _
      | (dsimp +zetaDelta only; with_reducible exact rfl)
      | (dsimp +zetaDelta only; with_reducible exact List.prefix_refl _)
      | exact rfl
      | exact List.prefix_refl _
      | exact List.prefix_append _ _

theorem execLoadHeartwood_keeps {s₀ s : State} (h : Keeps s₀ s) (v : Via) :
    KeepsO s₀ (execLoadHeartwood v s) := by
  unfold execLoadHeartwood
  repeat'
    first
      | with_reducible assumption
      | intro _
      | with_reducible apply KeepsO.next
      | exact KeepsO.fault _
      | with_reducible apply KeepsOpt.some
      | exact KeepsOpt.none
      | with_reducible apply KeepsO.ite
      | with_reducible apply KeepsOpt.ite
      | with_reducible apply Keeps.ite
      | with_reducible apply State.runStep_keeps
      | with_reducible apply State.loadHeartwoodAct_keeps
      | extract_lets
      | split
      | (dsimp +zetaDelta only; split)
      | with_reducible apply Keeps.mkU

theorem mem_setIns_of_mem {l : List Nat} {a k : Nat} (h : k ∈ l) : k ∈ setIns l a := by
  induction l with
  | nil => simp at h
  | cons b t ih =>
    simp only [setIns]
    split
    · exact List.mem_cons_of_mem _ h
    · split
      · exact h
      · rcases List.mem_cons.1 h with rfl | h
        · exact List.mem_cons_self
        · exact List.mem_cons_of_mem _ (ih h)

theorem mem_foldl_setIns {l m : List Nat} {k : Nat} (h : k ∈ l) : k ∈ m.foldl setIns l := by
  induction m generalizing l with
  | nil => exact h
  | cons a t ih => exact ih (mem_setIns_of_mem h)

/-- The first boot of a bank: it alone adds to the revoked slots (R383). -/
theorem State.bankBooted_grows {s₀ s : State} (h : Keeps s₀ s) : Grows s₀ (State.bankBooted s) := by
  refine h.grows.trans ?_
  unfold State.bankBooted
  have hf : ∀ (f : FirmSt) (l n : Nat), f.defects = s.firm.defects → (∀ k ∈ s.firm.revoked, k ∈ f.revoked) →
      Grows s (({ s with firm := f } : State).raiseFloor l n) := fun f l n hd hr =>
    have g : Grows s { s with firm := f } := ⟨rfl, Nat.le_refl _, id, id, Eq.subst (motive := fun l => s.firm.defects <+: l) hd.symm (List.prefix_refl _), hr, id⟩
    g.trans (State.raiseFloor_keeps (Keeps.refl _) l n).grows
  extract_lets b
  split
  · exact (Keeps.refl _).grows
  · split
    · exact (Keeps.refl _).grows
    · extract_lets
      refine hf _ _ _ ?_ fun k hk => ?_
      · dsimp +zetaDelta only
        split <;> rfl
      · dsimp +zetaDelta only
        split
        · exact mem_foldl_setIns hk
        · exact hk

theorem State.imageFails_keeps {s₀ s : State} (h : Keeps s₀ s) (c : Nat) :
    Keeps s₀ (State.imageFails s c) := by
  unfold State.imageFails
  repeat'
    first
      | with_reducible assumption
      | intro _
      | with_reducible apply Keeps.ite
      | with_reducible apply State.fwCause_keeps
      | with_reducible apply State.fails_keeps
      | extract_lets
      | split
      | (dsimp +zetaDelta only; split)
      | with_reducible apply Keeps.mkU

theorem State.recoverAct_keeps {s₀ s : State} (h : Keeps s₀ s) (data : Option Bytes) :
    Keeps s₀ (State.recoverAct s data) := by
  unfold State.recoverAct
  repeat'
    first
      | with_reducible assumption
      | intro _
      | with_reducible apply Keeps.ite
      | with_reducible apply State.fails_keeps
      | with_reducible apply State.imageFails_keeps
      | extract_lets
      | split
      | (dsimp +zetaDelta only; split)
      | with_reducible apply Keeps.mkU
      | with_reducible apply Keeps.mkFirm
      | with_reducible exact rfl
      | with_reducible exact List.prefix_refl _
      | (dsimp +zetaDelta only; with_reducible exact rfl)
      | (dsimp +zetaDelta only; with_reducible exact List.prefix_refl _)
      | exact rfl
      | exact List.prefix_refl _
      | exact List.prefix_append _ _

theorem execHwRecover_keeps {s₀ s : State} (h : Keeps s₀ s) (v : Via) (data : Option Bytes) :
    KeepsO s₀ (execHwRecover v data s) := by
  unfold execHwRecover
  repeat'
    first
      | with_reducible assumption
      | intro _
      | with_reducible apply KeepsO.next
      | exact KeepsO.fault _
      | with_reducible apply KeepsOpt.some
      | exact KeepsOpt.none
      | with_reducible apply KeepsO.ite
      | with_reducible apply KeepsOpt.ite
      | with_reducible apply Keeps.ite
      | with_reducible apply State.runStep_keeps
      | with_reducible apply State.recoverAct_keeps
      | extract_lets
      | split
      | (dsimp +zetaDelta only; split)
      | with_reducible apply Keeps.mkU

theorem State.loadCordwoodAct_keeps {s₀ s : State} (h : Keeps s₀ s) (data : Option Bytes) :
    Keeps s₀ (State.loadCordwoodAct s data) := by
  unfold State.loadCordwoodAct
  repeat'
    first
      | with_reducible assumption
      | intro _
      | with_reducible apply Keeps.ite
      | with_reducible apply State.fails_keeps
      | with_reducible apply State.imageFails_keeps
      | with_reducible apply State.runStaged_keeps
      | with_reducible apply State.succeeds_keeps
      | extract_lets
      | split
      | (dsimp +zetaDelta only; split)
      | with_reducible apply Keeps.mkU
      | with_reducible apply Keeps.mkFirm
      | with_reducible exact rfl
      | with_reducible exact List.prefix_refl _
      | (dsimp +zetaDelta only; with_reducible exact rfl)
      | (dsimp +zetaDelta only; with_reducible exact List.prefix_refl _)
      | exact rfl
      | exact List.prefix_refl _
      | exact List.prefix_append _ _

theorem execLoadCordwood_keeps {s₀ s : State} (h : Keeps s₀ s) (v : Via) (data : Option Bytes) :
    KeepsO s₀ (execLoadCordwood v data s) := by
  unfold execLoadCordwood
  repeat'
    first
      | with_reducible assumption
      | intro _
      | with_reducible apply KeepsO.next
      | exact KeepsO.fault _
      | with_reducible apply KeepsOpt.some
      | exact KeepsOpt.none
      | with_reducible apply KeepsO.ite
      | with_reducible apply KeepsOpt.ite
      | with_reducible apply Keeps.ite
      | with_reducible apply State.runStep_keeps
      | with_reducible apply State.loadCordwoodAct_keeps
      | extract_lets
      | split
      | (dsimp +zetaDelta only; split)
      | with_reducible apply Keeps.mkU

theorem State.cellsPowerAct_keeps {s₀ s : State} (h : Keeps s₀ s) (wakeFails : List RegionIx) (badGroup : Option GroupIx) :
    Keeps s₀ (State.cellsPowerAct s wakeFails badGroup) := by
  unfold State.cellsPowerAct
  repeat'
    first
      | with_reducible assumption
      | intro _
      | with_reducible apply Keeps.ite
      | with_reducible apply State.wakeFailed_keeps
      | with_reducible apply State.modRegion_keeps
      | with_reducible apply State.wakeDone_keeps
      | with_reducible apply State.fails_keeps
      | with_reducible apply State.succeeds_keeps
      | with_reducible apply Keeps.foldl
      | with_reducible apply Keeps.foldl_fst
      | with_reducible apply Keeps.foldl_snd
      | extract_lets
      | split
      | (dsimp +zetaDelta only; split)
      | with_reducible apply Keeps.mkU

theorem execCellsPower_keeps {s₀ s : State} (h : Keeps s₀ s) (v : Via) (wakeFails : List RegionIx) (badGroup : Option GroupIx) :
    KeepsO s₀ (execCellsPower v wakeFails badGroup s) := by
  unfold execCellsPower
  repeat'
    first
      | with_reducible assumption
      | intro _
      | with_reducible apply KeepsO.next
      | exact KeepsO.fault _
      | with_reducible apply KeepsOpt.some
      | exact KeepsOpt.none
      | with_reducible apply KeepsO.ite
      | with_reducible apply KeepsOpt.ite
      | with_reducible apply Keeps.ite
      | with_reducible apply State.runStep_keeps
      | with_reducible apply State.cellsPowerAct_keeps
      | extract_lets
      | split
      | (dsimp +zetaDelta only; split)
      | with_reducible apply Keeps.mkU

theorem State.badCell_keeps {s₀ s : State} (h : Keeps s₀ s) (x : Nat × Nat) :
    Keeps s₀ (State.badCell s x) := by
  unfold State.badCell
  repeat'
    first
      | with_reducible assumption
      | intro _
      | with_reducible apply Keeps.ite
      | with_reducible apply State.retireCell_keeps
      | extract_lets
      | split
      | (dsimp +zetaDelta only; split)
      | with_reducible apply Keeps.mkU

theorem State.broadcastAct_keeps {s₀ s : State} (h : Keeps s₀ s) (resent : Nat) (bad : List CellIx) :
    Keeps s₀ (State.broadcastAct s resent bad) := by
  unfold State.broadcastAct
  repeat'
    first
      | with_reducible assumption
      | intro _
      | with_reducible apply Keeps.ite
      | with_reducible apply State.modCell_keeps
      | with_reducible apply State.badCell_keeps
      | with_reducible apply State.succeeds_keeps
      | with_reducible apply Keeps.foldl
      | with_reducible apply Keeps.foldl_fst
      | with_reducible apply Keeps.foldl_snd
      | extract_lets
      | split
      | (dsimp +zetaDelta only; split)
      | with_reducible apply Keeps.mkU
      | with_reducible apply Keeps.mkFirm
      | with_reducible exact rfl
      | with_reducible exact List.prefix_refl _
      | (dsimp +zetaDelta only; with_reducible exact rfl)
      | (dsimp +zetaDelta only; with_reducible exact List.prefix_refl _)
      | exact rfl
      | exact List.prefix_refl _
      | exact List.prefix_append _ _

theorem execStewardBroadcast_keeps {s₀ s : State} (h : Keeps s₀ s) (v : Via) (resent : Nat) (bad : List CellIx) :
    KeepsO s₀ (execStewardBroadcast v resent bad s) := by
  unfold execStewardBroadcast
  repeat'
    first
      | with_reducible assumption
      | intro _
      | with_reducible apply KeepsO.next
      | exact KeepsO.fault _
      | with_reducible apply KeepsOpt.some
      | exact KeepsOpt.none
      | with_reducible apply KeepsO.ite
      | with_reducible apply KeepsOpt.ite
      | with_reducible apply Keeps.ite
      | with_reducible apply State.runStep_keeps
      | with_reducible apply State.broadcastAct_keeps
      | extract_lets
      | split
      | (dsimp +zetaDelta only; split)
      | with_reducible apply Keeps.mkU

theorem State.openQueue0_keeps {s₀ s : State} (h : Keeps s₀ s) :
    Keeps s₀ (State.openQueue0 s) := by
  unfold State.openQueue0
  repeat'
    first
      | with_reducible assumption
      | intro _
      | with_reducible apply Keeps.ite
      | with_reducible apply State.modQueue_keeps
      | with_reducible apply State.bindEntry_keeps
      | extract_lets
      | split
      | (dsimp +zetaDelta only; split)
      | with_reducible apply Keeps.mkU

theorem State.reportLastOp_keeps {s₀ s : State} (h : Keeps s₀ s) :
    Keeps s₀ (State.reportLastOp s) := by
  unfold State.reportLastOp
  repeat'
    first
      | with_reducible assumption
      | intro _
      | with_reducible apply Keeps.ite
      | with_reducible apply State.writeCqe_keeps
      | extract_lets
      | split
      | (dsimp +zetaDelta only; split)
      | with_reducible apply Keeps.mkU

theorem State.queuesAct_keeps {s₀ s : State} (h : Keeps s₀ s) :
    Keeps s₀ (State.queuesAct s) := by
  unfold State.queuesAct
  repeat'
    first
      | with_reducible assumption
      | intro _
      | with_reducible apply Keeps.ite
      | with_reducible apply State.fails_keeps
      | with_reducible apply State.openQueue0_keeps
      | with_reducible apply State.reportLastOp_keeps
      | with_reducible apply State.succeeds_keeps
      | extract_lets
      | split
      | (dsimp +zetaDelta only; split)
      | with_reducible apply Keeps.mkU

theorem State.queuesDone_keeps {s₀ s : State} (h : Keeps s₀ s) :
    Keeps s₀ (State.queuesDone s) := by
  unfold State.queuesDone
  repeat'
    first
      | with_reducible assumption
      | intro _
      | with_reducible apply Keeps.ite
      | extract_lets
      | split
      | (dsimp +zetaDelta only; split)
      | with_reducible apply Keeps.mkU

theorem execQueuesEnable_keeps {s₀ s : State} (h : Keeps s₀ s) (v : Via) :
    KeepsO s₀ (execQueuesEnable v s) := by
  unfold execQueuesEnable
  repeat'
    first
      | with_reducible assumption
      | intro _
      | with_reducible apply KeepsO.next
      | exact KeepsO.fault _
      | with_reducible apply KeepsOpt.some
      | exact KeepsOpt.none
      | with_reducible apply KeepsO.ite
      | with_reducible apply KeepsOpt.ite
      | with_reducible apply Keeps.ite
      | with_reducible apply State.runStep_keeps
      | with_reducible apply State.queuesAct_keeps
      | extract_lets
      | split
      | (dsimp +zetaDelta only; split)
      | with_reducible apply Keeps.mkU

/-- BRINGUP_STEP_END may revoke key slots (R383), and keeps all else. -/
theorem execBringupStepEnd_grows (s t : State) (h : execBringupStepEnd s = .next t) : Grows s t := by
  have h0 : ∀ c r, Keeps s (s.endStep c r) := fun c r => State.endStep_keeps (Keeps.refl s) c r
  unfold execBringupStepEnd at h
  dsimp only at h
  repeat' split at h
  all_goals
    injection h with h
    subst h
    first
      | exact (Keeps.refl _).grows
      | exact (h0 _ _).mkU.grows
      | exact (h0 _ _).grows
      | exact (State.queuesDone_keeps (h0 _ _).mkU).grows
      | exact State.bankBooted_grows (h0 _ _).mkU

theorem State.undoStep_keeps {s₀ s : State} (h : Keeps s₀ s) (code : Nat) :
    Keeps s₀ (State.undoStep s code) := by
  unfold State.undoStep
  repeat'
    first
      | with_reducible assumption
      | intro _
      | with_reducible apply Keeps.ite
      | with_reducible apply State.modQueue_keeps
      | extract_lets
      | split
      | (dsimp +zetaDelta only; split)
      | with_reducible apply Keeps.mkU
      | with_reducible apply Keeps.mkFirm
      | with_reducible exact rfl
      | with_reducible exact List.prefix_refl _
      | (dsimp +zetaDelta only; with_reducible exact rfl)
      | (dsimp +zetaDelta only; with_reducible exact List.prefix_refl _)
      | exact rfl
      | exact List.prefix_refl _
      | exact List.prefix_append _ _

theorem execBringupStepTimeout_keeps {s₀ s : State} (h : Keeps s₀ s) (sub : Byte) :
    KeepsO s₀ (execBringupStepTimeout sub s) := by
  unfold execBringupStepTimeout
  repeat'
    first
      | with_reducible assumption
      | intro _
      | with_reducible apply KeepsO.next
      | exact KeepsO.fault _
      | with_reducible apply KeepsOpt.some
      | exact KeepsOpt.none
      | with_reducible apply KeepsO.ite
      | with_reducible apply KeepsOpt.ite
      | with_reducible apply Keeps.ite
      | with_reducible apply State.undoStep_keeps
      | with_reducible apply State.endStep_keeps
      | extract_lets
      | split
      | (dsimp +zetaDelta only; split)
      | with_reducible apply Keeps.mkU

theorem execMirrorStatusRead_keeps {s₀ s : State} (h : Keeps s₀ s) :
    KeepsO s₀ (execMirrorStatusRead s) := by
  unfold execMirrorStatusRead
  repeat'
    first
      | with_reducible assumption
      | intro _
      | with_reducible apply KeepsO.next
      | exact KeepsO.fault _
      | with_reducible apply KeepsOpt.some
      | exact KeepsOpt.none
      | with_reducible apply KeepsO.ite
      | with_reducible apply KeepsOpt.ite
      | with_reducible apply Keeps.ite
      | extract_lets
      | split
      | (dsimp +zetaDelta only; split)
      | with_reducible apply Keeps.mkU

theorem State.mirrorByte_keeps {s₀ s : State} (h : Keeps s₀ s) (off : Nat) (b : Byte) :
    Keeps s₀ (State.mirrorByte s off b) := by
  unfold State.mirrorByte
  repeat'
    first
      | with_reducible assumption
      | intro _
      | with_reducible apply Keeps.ite
      | with_reducible apply State.cmdIgnored_keeps
      | with_reducible apply State.writeCmd_keeps
      | extract_lets
      | split
      | (dsimp +zetaDelta only; split)
      | with_reducible apply Keeps.mkU

theorem execSmbusBlockWrite_keeps {s₀ s : State} (h : Keeps s₀ s) (address : BitVec 7) (offset : Half) (data : Bytes) :
    KeepsO s₀ (execSmbusBlockWrite address offset data s) := by
  unfold execSmbusBlockWrite
  repeat'
    first
      | with_reducible assumption
      | intro _
      | with_reducible apply KeepsO.next
      | exact KeepsO.fault _
      | with_reducible apply KeepsOpt.some
      | exact KeepsOpt.none
      | with_reducible apply KeepsO.ite
      | with_reducible apply KeepsOpt.ite
      | with_reducible apply Keeps.ite
      | with_reducible apply State.mirrorByte_keeps
      | with_reducible apply State.buReset_keeps
      | with_reducible apply Keeps.foldl
      | with_reducible apply Keeps.foldl_fst
      | with_reducible apply Keeps.foldl_snd
      | extract_lets
      | split
      | (dsimp +zetaDelta only; split)
      | with_reducible apply Keeps.mkU

end Sys2Proof.Machine
end

