-- ==== Sys2Proof/Laws/Tables.lean ====
section
/-!
SUPPORT. Tables of records: what a write leaves under its own key and under every other.
-/
namespace Sys2Proof.Machine

/-- A write is found again under its key. -/
@[simp] theorem tfind_tset_self {α : Type} (t : Tbl α) (k : Nat) (v : α) : tfind (tset t k v) k = some v := by
  induction t with
  | nil => simp [tset, tfind]
  | cons p t ih =>
    unfold tset
    split
    · simp [tfind]
    · split
      · simp [tfind]
      · have : p.1 ≠ k := by omega
        simp [tfind, this, ih]

/-- A write leaves every other key as it was. -/
@[simp] theorem tfind_tset_ne {α : Type} (t : Tbl α) (k j : Nat) (v : α) (h : j ≠ k) : tfind (tset t k v) j = tfind t j := by
  induction t with
  | nil => simp [tset, tfind, h.symm]
  | cons p t ih =>
    unfold tset
    split
    · simp [tfind, h.symm]
    · split
      · rename_i e
        simp [tfind, h.symm, ← e]
      · simp [tfind, ih]

/-- A read after a write under the same key. -/
@[simp] theorem tget_tset_self {α : Type} (t : Tbl α) (d : α) (k : Nat) (v : α) : tget (tset t k v) d k = v := by simp [tget]

/-- A read after a write under another key. -/
@[simp] theorem tget_tset_ne {α : Type} (t : Tbl α) (d : α) (k j : Nat) (v : α) (h : j ≠ k) :
    tget (tset t k v) d j = tget t d j := by simp [tget, h]

/-- The second write under a key is the one that stays. -/
@[simp] theorem tset_tset {α : Type} (t : Tbl α) (k : Nat) (v w : α) : tset (tset t k v) k w = tset t k w := by
  induction t with
  | nil => simp [tset]
  | cons p t ih =>
    simp only [tset]
    split
    · simp [tset]
    · split
      · simp [tset]
      · rename_i h1 h2
        simp [tset, h1, h2, ih]

end Sys2Proof.Machine
end

