-- ==== Sys2Proof/Laws/State.lean ====
section
/-!
SUPPORT. The updates of State's tables, one lemma per field and update: what an update writes, and that every other field stays.
-/
namespace Sys2Proof.Machine

variable (s : State) (k j : Nat)

/-! ### cells -/

@[simp] theorem State.modCell_self (f : CellSt → CellSt) : (s.modCell k f).cell k = f (s.cell k) := tget_tset_self ..
@[simp] theorem State.modCell_ne (f : CellSt → CellSt) (h : j ≠ k) : (s.modCell k f).cell j = s.cell j := tget_tset_ne _ _ _ _ _ h
@[simp] theorem State.modCell_pending (f : CellSt → CellSt) : (s.modCell k f).pending = s.pending := rfl
@[simp] theorem State.modCell_drawn (f : CellSt → CellSt) : (s.modCell k f).drawn = s.drawn := rfl
@[simp] theorem State.modCell_bu (f : CellSt → CellSt) : (s.modCell k f).bu = s.bu := rfl
@[simp] theorem State.modCell_pw (f : CellSt → CellSt) : (s.modCell k f).pw = s.pw := rfl
@[simp] theorem State.modCell_regions (f : CellSt → CellSt) : (s.modCell k f).regions = s.regions := rfl
@[simp] theorem State.modCell_groups (f : CellSt → CellSt) : (s.modCell k f).groups = s.groups := rfl
@[simp] theorem State.modCell_phases (f : CellSt → CellSt) : (s.modCell k f).phases = s.phases := rfl
@[simp] theorem State.modCell_sensors (f : CellSt → CellSt) : (s.modCell k f).sensors = s.sensors := rfl
@[simp] theorem State.modCell_cds (f : CellSt → CellSt) : (s.modCell k f).cds = s.cds := rfl
@[simp] theorem State.modCell_ricksHeld (f : CellSt → CellSt) : (s.modCell k f).ricksHeld = s.ricksHeld := rfl
@[simp] theorem State.modCell_arms (f : CellSt → CellSt) : (s.modCell k f).arms = s.arms := rfl
@[simp] theorem State.modCell_ctrs (f : CellSt → CellSt) : (s.modCell k f).ctrs = s.ctrs := rfl
@[simp] theorem State.modCell_syncLog (f : CellSt → CellSt) : (s.modCell k f).syncLog = s.syncLog := rfl
@[simp] theorem State.modCell_mem (f : CellSt → CellSt) : (s.modCell k f).mem = s.mem := rfl
@[simp] theorem State.modCell_marks (f : CellSt → CellSt) : (s.modCell k f).marks = s.marks := rfl
@[simp] theorem State.modCell_poison (f : CellSt → CellSt) : (s.modCell k f).poison = s.poison := rfl
@[simp] theorem State.modCell_hostMem (f : CellSt → CellSt) : (s.modCell k f).hostMem = s.hostMem := rfl
@[simp] theorem State.modCell_siteWaits (f : CellSt → CellSt) : (s.modCell k f).siteWaits = s.siteWaits := rfl
@[simp] theorem State.modCell_flaws (f : CellSt → CellSt) : (s.modCell k f).flaws = s.flaws := rfl
@[simp] theorem State.modCell_ports (f : CellSt → CellSt) : (s.modCell k f).ports = s.ports := rfl
@[simp] theorem State.modCell_protHeld (f : CellSt → CellSt) : (s.modCell k f).protHeld = s.protHeld := rfl
@[simp] theorem State.modCell_seqNext (f : CellSt → CellSt) : (s.modCell k f).seqNext = s.seqNext := rfl
@[simp] theorem State.modCell_seqRecs (f : CellSt → CellSt) : (s.modCell k f).seqRecs = s.seqRecs := rfl
@[simp] theorem State.modCell_banks (f : CellSt → CellSt) : (s.modCell k f).banks = s.banks := rfl
@[simp] theorem State.modCell_selectors (f : CellSt → CellSt) : (s.modCell k f).selectors = s.selectors := rfl
@[simp] theorem State.modCell_holds (f : CellSt → CellSt) : (s.modCell k f).holds = s.holds := rfl
@[simp] theorem State.modCell_cals (f : CellSt → CellSt) : (s.modCell k f).cals = s.cals := rfl
@[simp] theorem State.modCell_sites (f : CellSt → CellSt) : (s.modCell k f).sites = s.sites := rfl
@[simp] theorem State.modCell_siteGroups (f : CellSt → CellSt) : (s.modCell k f).siteGroups = s.siteGroups := rfl
@[simp] theorem State.modCell_allocs (f : CellSt → CellSt) : (s.modCell k f).allocs = s.allocs := rfl
@[simp] theorem State.modCell_fmus (f : CellSt → CellSt) : (s.modCell k f).fmus = s.fmus := rfl
@[simp] theorem State.modCell_farOps (f : CellSt → CellSt) : (s.modCell k f).farOps = s.farOps := rfl
@[simp] theorem State.modCell_links (f : CellSt → CellSt) : (s.modCell k f).links = s.links := rfl
@[simp] theorem State.modCell_ops (f : CellSt → CellSt) : (s.modCell k f).ops = s.ops := rfl
@[simp] theorem State.modCell_arrivals (f : CellSt → CellSt) : (s.modCell k f).arrivals = s.arrivals := rfl
@[simp] theorem State.modCell_tags (f : CellSt → CellSt) : (s.modCell k f).tags = s.tags := rfl
@[simp] theorem State.modCell_atoms (f : CellSt → CellSt) : (s.modCell k f).atoms = s.atoms := rfl
@[simp] theorem State.modCell_ces (f : CellSt → CellSt) : (s.modCell k f).ces = s.ces := rfl
@[simp] theorem State.modCell_fab (f : CellSt → CellSt) : (s.modCell k f).fab = s.fab := rfl
@[simp] theorem State.modCell_pcie0 (f : CellSt → CellSt) : (s.modCell k f).pcie0 = s.pcie0 := rfl
@[simp] theorem State.modCell_pcie1 (f : CellSt → CellSt) : (s.modCell k f).pcie1 = s.pcie1 := rfl
@[simp] theorem State.modCell_queues (f : CellSt → CellSt) : (s.modCell k f).queues = s.queues := rfl
@[simp] theorem State.modCell_accepted (f : CellSt → CellSt) : (s.modCell k f).accepted = s.accepted := rfl
@[simp] theorem State.modCell_nextSeq (f : CellSt → CellSt) : (s.modCell k f).nextSeq = s.nextSeq := rfl
@[simp] theorem State.modCell_lastServed (f : CellSt → CellSt) : (s.modCell k f).lastServed = s.lastServed := rfl
@[simp] theorem State.modCell_images (f : CellSt → CellSt) : (s.modCell k f).images = s.images := rfl
@[simp] theorem State.modCell_batches (f : CellSt → CellSt) : (s.modCell k f).batches = s.batches := rfl
@[simp] theorem State.modCell_batchEnds (f : CellSt → CellSt) : (s.modCell k f).batchEnds = s.batchEnds := rfl
@[simp] theorem State.modCell_tuneAccepted (f : CellSt → CellSt) : (s.modCell k f).tuneAccepted = s.tuneAccepted := rfl
@[simp] theorem State.modCell_tuneGaps (f : CellSt → CellSt) : (s.modCell k f).tuneGaps = s.tuneGaps := rfl
@[simp] theorem State.modCell_firm (f : CellSt → CellSt) : (s.modCell k f).firm = s.firm := rfl
@[simp] theorem State.modCell_cfg (f : CellSt → CellSt) : (s.modCell k f).cfg = s.cfg := rfl
@[simp] theorem State.modCell_drain (f : CellSt → CellSt) : (s.modCell k f).drain = s.drain := rfl
@[simp] theorem State.modCell_obs (f : CellSt → CellSt) : (s.modCell k f).obs = s.obs := rfl
@[simp] theorem State.modCell_out (f : CellSt → CellSt) : (s.modCell k f).out = s.out := rfl
@[simp] theorem State.modCell_region' (f : CellSt → CellSt) : (s.modCell k f).region j = s.region j := rfl
@[simp] theorem State.modCell_group' (f : CellSt → CellSt) : (s.modCell k f).group j = s.group j := rfl
@[simp] theorem State.modCell_phase' (f : CellSt → CellSt) : (s.modCell k f).phase j = s.phase j := rfl
@[simp] theorem State.modCell_sensor' (f : CellSt → CellSt) : (s.modCell k f).sensor j = s.sensor j := rfl
@[simp] theorem State.modCell_cd' (f : CellSt → CellSt) : (s.modCell k f).cd j = s.cd j := rfl
@[simp] theorem State.modCell_ctr' (f : CellSt → CellSt) : (s.modCell k f).ctr j = s.ctr j := rfl
@[simp] theorem State.modCell_port' (f : CellSt → CellSt) : (s.modCell k f).port j = s.port j := rfl
@[simp] theorem State.modCell_bank' (f : CellSt → CellSt) : (s.modCell k f).bank j = s.bank j := rfl
@[simp] theorem State.modCell_site' (f : CellSt → CellSt) : (s.modCell k f).site j = s.site j := rfl
@[simp] theorem State.modCell_fmu' (f : CellSt → CellSt) : (s.modCell k f).fmu j = s.fmu j := rfl
@[simp] theorem State.modCell_link' (f : CellSt → CellSt) : (s.modCell k f).link j = s.link j := rfl
@[simp] theorem State.modCell_ce' (f : CellSt → CellSt) : (s.modCell k f).ce j = s.ce j := rfl
@[simp] theorem State.modCell_queue' (f : CellSt → CellSt) : (s.modCell k f).queue j = s.queue j := rfl
@[simp] theorem State.modCell_cset' (f : CellSt → CellSt) : (s.modCell k f).cset j = s.cset j := rfl
@[simp] theorem State.modCell_now (f : CellSt → CellSt) : (s.modCell k f).now = s.now := rfl

/-! ### regions -/

@[simp] theorem State.modRegion_self (f : RegionSt → RegionSt) : (s.modRegion k f).region k = f (s.region k) := tget_tset_self ..
@[simp] theorem State.modRegion_ne (f : RegionSt → RegionSt) (h : j ≠ k) : (s.modRegion k f).region j = s.region j := tget_tset_ne _ _ _ _ _ h
@[simp] theorem State.modRegion_pending (f : RegionSt → RegionSt) : (s.modRegion k f).pending = s.pending := rfl
@[simp] theorem State.modRegion_drawn (f : RegionSt → RegionSt) : (s.modRegion k f).drawn = s.drawn := rfl
@[simp] theorem State.modRegion_bu (f : RegionSt → RegionSt) : (s.modRegion k f).bu = s.bu := rfl
@[simp] theorem State.modRegion_pw (f : RegionSt → RegionSt) : (s.modRegion k f).pw = s.pw := rfl
@[simp] theorem State.modRegion_groups (f : RegionSt → RegionSt) : (s.modRegion k f).groups = s.groups := rfl
@[simp] theorem State.modRegion_phases (f : RegionSt → RegionSt) : (s.modRegion k f).phases = s.phases := rfl
@[simp] theorem State.modRegion_sensors (f : RegionSt → RegionSt) : (s.modRegion k f).sensors = s.sensors := rfl
@[simp] theorem State.modRegion_cells (f : RegionSt → RegionSt) : (s.modRegion k f).cells = s.cells := rfl
@[simp] theorem State.modRegion_cds (f : RegionSt → RegionSt) : (s.modRegion k f).cds = s.cds := rfl
@[simp] theorem State.modRegion_ricksHeld (f : RegionSt → RegionSt) : (s.modRegion k f).ricksHeld = s.ricksHeld := rfl
@[simp] theorem State.modRegion_arms (f : RegionSt → RegionSt) : (s.modRegion k f).arms = s.arms := rfl
@[simp] theorem State.modRegion_ctrs (f : RegionSt → RegionSt) : (s.modRegion k f).ctrs = s.ctrs := rfl
@[simp] theorem State.modRegion_syncLog (f : RegionSt → RegionSt) : (s.modRegion k f).syncLog = s.syncLog := rfl
@[simp] theorem State.modRegion_mem (f : RegionSt → RegionSt) : (s.modRegion k f).mem = s.mem := rfl
@[simp] theorem State.modRegion_marks (f : RegionSt → RegionSt) : (s.modRegion k f).marks = s.marks := rfl
@[simp] theorem State.modRegion_poison (f : RegionSt → RegionSt) : (s.modRegion k f).poison = s.poison := rfl
@[simp] theorem State.modRegion_hostMem (f : RegionSt → RegionSt) : (s.modRegion k f).hostMem = s.hostMem := rfl
@[simp] theorem State.modRegion_siteWaits (f : RegionSt → RegionSt) : (s.modRegion k f).siteWaits = s.siteWaits := rfl
@[simp] theorem State.modRegion_flaws (f : RegionSt → RegionSt) : (s.modRegion k f).flaws = s.flaws := rfl
@[simp] theorem State.modRegion_ports (f : RegionSt → RegionSt) : (s.modRegion k f).ports = s.ports := rfl
@[simp] theorem State.modRegion_protHeld (f : RegionSt → RegionSt) : (s.modRegion k f).protHeld = s.protHeld := rfl
@[simp] theorem State.modRegion_seqNext (f : RegionSt → RegionSt) : (s.modRegion k f).seqNext = s.seqNext := rfl
@[simp] theorem State.modRegion_seqRecs (f : RegionSt → RegionSt) : (s.modRegion k f).seqRecs = s.seqRecs := rfl
@[simp] theorem State.modRegion_banks (f : RegionSt → RegionSt) : (s.modRegion k f).banks = s.banks := rfl
@[simp] theorem State.modRegion_selectors (f : RegionSt → RegionSt) : (s.modRegion k f).selectors = s.selectors := rfl
@[simp] theorem State.modRegion_holds (f : RegionSt → RegionSt) : (s.modRegion k f).holds = s.holds := rfl
@[simp] theorem State.modRegion_cals (f : RegionSt → RegionSt) : (s.modRegion k f).cals = s.cals := rfl
@[simp] theorem State.modRegion_sites (f : RegionSt → RegionSt) : (s.modRegion k f).sites = s.sites := rfl
@[simp] theorem State.modRegion_siteGroups (f : RegionSt → RegionSt) : (s.modRegion k f).siteGroups = s.siteGroups := rfl
@[simp] theorem State.modRegion_allocs (f : RegionSt → RegionSt) : (s.modRegion k f).allocs = s.allocs := rfl
@[simp] theorem State.modRegion_fmus (f : RegionSt → RegionSt) : (s.modRegion k f).fmus = s.fmus := rfl
@[simp] theorem State.modRegion_farOps (f : RegionSt → RegionSt) : (s.modRegion k f).farOps = s.farOps := rfl
@[simp] theorem State.modRegion_links (f : RegionSt → RegionSt) : (s.modRegion k f).links = s.links := rfl
@[simp] theorem State.modRegion_ops (f : RegionSt → RegionSt) : (s.modRegion k f).ops = s.ops := rfl
@[simp] theorem State.modRegion_arrivals (f : RegionSt → RegionSt) : (s.modRegion k f).arrivals = s.arrivals := rfl
@[simp] theorem State.modRegion_tags (f : RegionSt → RegionSt) : (s.modRegion k f).tags = s.tags := rfl
@[simp] theorem State.modRegion_atoms (f : RegionSt → RegionSt) : (s.modRegion k f).atoms = s.atoms := rfl
@[simp] theorem State.modRegion_ces (f : RegionSt → RegionSt) : (s.modRegion k f).ces = s.ces := rfl
@[simp] theorem State.modRegion_fab (f : RegionSt → RegionSt) : (s.modRegion k f).fab = s.fab := rfl
@[simp] theorem State.modRegion_pcie0 (f : RegionSt → RegionSt) : (s.modRegion k f).pcie0 = s.pcie0 := rfl
@[simp] theorem State.modRegion_pcie1 (f : RegionSt → RegionSt) : (s.modRegion k f).pcie1 = s.pcie1 := rfl
@[simp] theorem State.modRegion_queues (f : RegionSt → RegionSt) : (s.modRegion k f).queues = s.queues := rfl
@[simp] theorem State.modRegion_accepted (f : RegionSt → RegionSt) : (s.modRegion k f).accepted = s.accepted := rfl
@[simp] theorem State.modRegion_nextSeq (f : RegionSt → RegionSt) : (s.modRegion k f).nextSeq = s.nextSeq := rfl
@[simp] theorem State.modRegion_lastServed (f : RegionSt → RegionSt) : (s.modRegion k f).lastServed = s.lastServed := rfl
@[simp] theorem State.modRegion_images (f : RegionSt → RegionSt) : (s.modRegion k f).images = s.images := rfl
@[simp] theorem State.modRegion_batches (f : RegionSt → RegionSt) : (s.modRegion k f).batches = s.batches := rfl
@[simp] theorem State.modRegion_batchEnds (f : RegionSt → RegionSt) : (s.modRegion k f).batchEnds = s.batchEnds := rfl
@[simp] theorem State.modRegion_tuneAccepted (f : RegionSt → RegionSt) : (s.modRegion k f).tuneAccepted = s.tuneAccepted := rfl
@[simp] theorem State.modRegion_tuneGaps (f : RegionSt → RegionSt) : (s.modRegion k f).tuneGaps = s.tuneGaps := rfl
@[simp] theorem State.modRegion_firm (f : RegionSt → RegionSt) : (s.modRegion k f).firm = s.firm := rfl
@[simp] theorem State.modRegion_cfg (f : RegionSt → RegionSt) : (s.modRegion k f).cfg = s.cfg := rfl
@[simp] theorem State.modRegion_drain (f : RegionSt → RegionSt) : (s.modRegion k f).drain = s.drain := rfl
@[simp] theorem State.modRegion_obs (f : RegionSt → RegionSt) : (s.modRegion k f).obs = s.obs := rfl
@[simp] theorem State.modRegion_out (f : RegionSt → RegionSt) : (s.modRegion k f).out = s.out := rfl
@[simp] theorem State.modRegion_cell' (f : RegionSt → RegionSt) : (s.modRegion k f).cell j = s.cell j := rfl
@[simp] theorem State.modRegion_group' (f : RegionSt → RegionSt) : (s.modRegion k f).group j = s.group j := rfl
@[simp] theorem State.modRegion_phase' (f : RegionSt → RegionSt) : (s.modRegion k f).phase j = s.phase j := rfl
@[simp] theorem State.modRegion_sensor' (f : RegionSt → RegionSt) : (s.modRegion k f).sensor j = s.sensor j := rfl
@[simp] theorem State.modRegion_cd' (f : RegionSt → RegionSt) : (s.modRegion k f).cd j = s.cd j := rfl
@[simp] theorem State.modRegion_ctr' (f : RegionSt → RegionSt) : (s.modRegion k f).ctr j = s.ctr j := rfl
@[simp] theorem State.modRegion_port' (f : RegionSt → RegionSt) : (s.modRegion k f).port j = s.port j := rfl
@[simp] theorem State.modRegion_bank' (f : RegionSt → RegionSt) : (s.modRegion k f).bank j = s.bank j := rfl
@[simp] theorem State.modRegion_site' (f : RegionSt → RegionSt) : (s.modRegion k f).site j = s.site j := rfl
@[simp] theorem State.modRegion_fmu' (f : RegionSt → RegionSt) : (s.modRegion k f).fmu j = s.fmu j := rfl
@[simp] theorem State.modRegion_link' (f : RegionSt → RegionSt) : (s.modRegion k f).link j = s.link j := rfl
@[simp] theorem State.modRegion_ce' (f : RegionSt → RegionSt) : (s.modRegion k f).ce j = s.ce j := rfl
@[simp] theorem State.modRegion_queue' (f : RegionSt → RegionSt) : (s.modRegion k f).queue j = s.queue j := rfl
@[simp] theorem State.modRegion_cset' (f : RegionSt → RegionSt) : (s.modRegion k f).cset j = s.cset j := rfl
@[simp] theorem State.modRegion_now (f : RegionSt → RegionSt) : (s.modRegion k f).now = s.now := rfl

/-! ### groups -/

@[simp] theorem State.modGroup_self (f : GroupSt → GroupSt) : (s.modGroup k f).group k = f (s.group k) := tget_tset_self ..
@[simp] theorem State.modGroup_ne (f : GroupSt → GroupSt) (h : j ≠ k) : (s.modGroup k f).group j = s.group j := tget_tset_ne _ _ _ _ _ h
@[simp] theorem State.modGroup_pending (f : GroupSt → GroupSt) : (s.modGroup k f).pending = s.pending := rfl
@[simp] theorem State.modGroup_drawn (f : GroupSt → GroupSt) : (s.modGroup k f).drawn = s.drawn := rfl
@[simp] theorem State.modGroup_bu (f : GroupSt → GroupSt) : (s.modGroup k f).bu = s.bu := rfl
@[simp] theorem State.modGroup_pw (f : GroupSt → GroupSt) : (s.modGroup k f).pw = s.pw := rfl
@[simp] theorem State.modGroup_regions (f : GroupSt → GroupSt) : (s.modGroup k f).regions = s.regions := rfl
@[simp] theorem State.modGroup_phases (f : GroupSt → GroupSt) : (s.modGroup k f).phases = s.phases := rfl
@[simp] theorem State.modGroup_sensors (f : GroupSt → GroupSt) : (s.modGroup k f).sensors = s.sensors := rfl
@[simp] theorem State.modGroup_cells (f : GroupSt → GroupSt) : (s.modGroup k f).cells = s.cells := rfl
@[simp] theorem State.modGroup_cds (f : GroupSt → GroupSt) : (s.modGroup k f).cds = s.cds := rfl
@[simp] theorem State.modGroup_ricksHeld (f : GroupSt → GroupSt) : (s.modGroup k f).ricksHeld = s.ricksHeld := rfl
@[simp] theorem State.modGroup_arms (f : GroupSt → GroupSt) : (s.modGroup k f).arms = s.arms := rfl
@[simp] theorem State.modGroup_ctrs (f : GroupSt → GroupSt) : (s.modGroup k f).ctrs = s.ctrs := rfl
@[simp] theorem State.modGroup_syncLog (f : GroupSt → GroupSt) : (s.modGroup k f).syncLog = s.syncLog := rfl
@[simp] theorem State.modGroup_mem (f : GroupSt → GroupSt) : (s.modGroup k f).mem = s.mem := rfl
@[simp] theorem State.modGroup_marks (f : GroupSt → GroupSt) : (s.modGroup k f).marks = s.marks := rfl
@[simp] theorem State.modGroup_poison (f : GroupSt → GroupSt) : (s.modGroup k f).poison = s.poison := rfl
@[simp] theorem State.modGroup_hostMem (f : GroupSt → GroupSt) : (s.modGroup k f).hostMem = s.hostMem := rfl
@[simp] theorem State.modGroup_siteWaits (f : GroupSt → GroupSt) : (s.modGroup k f).siteWaits = s.siteWaits := rfl
@[simp] theorem State.modGroup_flaws (f : GroupSt → GroupSt) : (s.modGroup k f).flaws = s.flaws := rfl
@[simp] theorem State.modGroup_ports (f : GroupSt → GroupSt) : (s.modGroup k f).ports = s.ports := rfl
@[simp] theorem State.modGroup_protHeld (f : GroupSt → GroupSt) : (s.modGroup k f).protHeld = s.protHeld := rfl
@[simp] theorem State.modGroup_seqNext (f : GroupSt → GroupSt) : (s.modGroup k f).seqNext = s.seqNext := rfl
@[simp] theorem State.modGroup_seqRecs (f : GroupSt → GroupSt) : (s.modGroup k f).seqRecs = s.seqRecs := rfl
@[simp] theorem State.modGroup_banks (f : GroupSt → GroupSt) : (s.modGroup k f).banks = s.banks := rfl
@[simp] theorem State.modGroup_selectors (f : GroupSt → GroupSt) : (s.modGroup k f).selectors = s.selectors := rfl
@[simp] theorem State.modGroup_holds (f : GroupSt → GroupSt) : (s.modGroup k f).holds = s.holds := rfl
@[simp] theorem State.modGroup_cals (f : GroupSt → GroupSt) : (s.modGroup k f).cals = s.cals := rfl
@[simp] theorem State.modGroup_sites (f : GroupSt → GroupSt) : (s.modGroup k f).sites = s.sites := rfl
@[simp] theorem State.modGroup_siteGroups (f : GroupSt → GroupSt) : (s.modGroup k f).siteGroups = s.siteGroups := rfl
@[simp] theorem State.modGroup_allocs (f : GroupSt → GroupSt) : (s.modGroup k f).allocs = s.allocs := rfl
@[simp] theorem State.modGroup_fmus (f : GroupSt → GroupSt) : (s.modGroup k f).fmus = s.fmus := rfl
@[simp] theorem State.modGroup_farOps (f : GroupSt → GroupSt) : (s.modGroup k f).farOps = s.farOps := rfl
@[simp] theorem State.modGroup_links (f : GroupSt → GroupSt) : (s.modGroup k f).links = s.links := rfl
@[simp] theorem State.modGroup_ops (f : GroupSt → GroupSt) : (s.modGroup k f).ops = s.ops := rfl
@[simp] theorem State.modGroup_arrivals (f : GroupSt → GroupSt) : (s.modGroup k f).arrivals = s.arrivals := rfl
@[simp] theorem State.modGroup_tags (f : GroupSt → GroupSt) : (s.modGroup k f).tags = s.tags := rfl
@[simp] theorem State.modGroup_atoms (f : GroupSt → GroupSt) : (s.modGroup k f).atoms = s.atoms := rfl
@[simp] theorem State.modGroup_ces (f : GroupSt → GroupSt) : (s.modGroup k f).ces = s.ces := rfl
@[simp] theorem State.modGroup_fab (f : GroupSt → GroupSt) : (s.modGroup k f).fab = s.fab := rfl
@[simp] theorem State.modGroup_pcie0 (f : GroupSt → GroupSt) : (s.modGroup k f).pcie0 = s.pcie0 := rfl
@[simp] theorem State.modGroup_pcie1 (f : GroupSt → GroupSt) : (s.modGroup k f).pcie1 = s.pcie1 := rfl
@[simp] theorem State.modGroup_queues (f : GroupSt → GroupSt) : (s.modGroup k f).queues = s.queues := rfl
@[simp] theorem State.modGroup_accepted (f : GroupSt → GroupSt) : (s.modGroup k f).accepted = s.accepted := rfl
@[simp] theorem State.modGroup_nextSeq (f : GroupSt → GroupSt) : (s.modGroup k f).nextSeq = s.nextSeq := rfl
@[simp] theorem State.modGroup_lastServed (f : GroupSt → GroupSt) : (s.modGroup k f).lastServed = s.lastServed := rfl
@[simp] theorem State.modGroup_images (f : GroupSt → GroupSt) : (s.modGroup k f).images = s.images := rfl
@[simp] theorem State.modGroup_batches (f : GroupSt → GroupSt) : (s.modGroup k f).batches = s.batches := rfl
@[simp] theorem State.modGroup_batchEnds (f : GroupSt → GroupSt) : (s.modGroup k f).batchEnds = s.batchEnds := rfl
@[simp] theorem State.modGroup_tuneAccepted (f : GroupSt → GroupSt) : (s.modGroup k f).tuneAccepted = s.tuneAccepted := rfl
@[simp] theorem State.modGroup_tuneGaps (f : GroupSt → GroupSt) : (s.modGroup k f).tuneGaps = s.tuneGaps := rfl
@[simp] theorem State.modGroup_firm (f : GroupSt → GroupSt) : (s.modGroup k f).firm = s.firm := rfl
@[simp] theorem State.modGroup_cfg (f : GroupSt → GroupSt) : (s.modGroup k f).cfg = s.cfg := rfl
@[simp] theorem State.modGroup_drain (f : GroupSt → GroupSt) : (s.modGroup k f).drain = s.drain := rfl
@[simp] theorem State.modGroup_obs (f : GroupSt → GroupSt) : (s.modGroup k f).obs = s.obs := rfl
@[simp] theorem State.modGroup_out (f : GroupSt → GroupSt) : (s.modGroup k f).out = s.out := rfl
@[simp] theorem State.modGroup_cell' (f : GroupSt → GroupSt) : (s.modGroup k f).cell j = s.cell j := rfl
@[simp] theorem State.modGroup_region' (f : GroupSt → GroupSt) : (s.modGroup k f).region j = s.region j := rfl
@[simp] theorem State.modGroup_phase' (f : GroupSt → GroupSt) : (s.modGroup k f).phase j = s.phase j := rfl
@[simp] theorem State.modGroup_sensor' (f : GroupSt → GroupSt) : (s.modGroup k f).sensor j = s.sensor j := rfl
@[simp] theorem State.modGroup_cd' (f : GroupSt → GroupSt) : (s.modGroup k f).cd j = s.cd j := rfl
@[simp] theorem State.modGroup_ctr' (f : GroupSt → GroupSt) : (s.modGroup k f).ctr j = s.ctr j := rfl
@[simp] theorem State.modGroup_port' (f : GroupSt → GroupSt) : (s.modGroup k f).port j = s.port j := rfl
@[simp] theorem State.modGroup_bank' (f : GroupSt → GroupSt) : (s.modGroup k f).bank j = s.bank j := rfl
@[simp] theorem State.modGroup_site' (f : GroupSt → GroupSt) : (s.modGroup k f).site j = s.site j := rfl
@[simp] theorem State.modGroup_fmu' (f : GroupSt → GroupSt) : (s.modGroup k f).fmu j = s.fmu j := rfl
@[simp] theorem State.modGroup_link' (f : GroupSt → GroupSt) : (s.modGroup k f).link j = s.link j := rfl
@[simp] theorem State.modGroup_ce' (f : GroupSt → GroupSt) : (s.modGroup k f).ce j = s.ce j := rfl
@[simp] theorem State.modGroup_queue' (f : GroupSt → GroupSt) : (s.modGroup k f).queue j = s.queue j := rfl
@[simp] theorem State.modGroup_cset' (f : GroupSt → GroupSt) : (s.modGroup k f).cset j = s.cset j := rfl
@[simp] theorem State.modGroup_now (f : GroupSt → GroupSt) : (s.modGroup k f).now = s.now := rfl

/-! ### phases -/

@[simp] theorem State.modPhase_self (f : PhaseSt → PhaseSt) : (s.modPhase k f).phase k = f (s.phase k) := tget_tset_self ..
@[simp] theorem State.modPhase_ne (f : PhaseSt → PhaseSt) (h : j ≠ k) : (s.modPhase k f).phase j = s.phase j := tget_tset_ne _ _ _ _ _ h
@[simp] theorem State.modPhase_pending (f : PhaseSt → PhaseSt) : (s.modPhase k f).pending = s.pending := rfl
@[simp] theorem State.modPhase_drawn (f : PhaseSt → PhaseSt) : (s.modPhase k f).drawn = s.drawn := rfl
@[simp] theorem State.modPhase_bu (f : PhaseSt → PhaseSt) : (s.modPhase k f).bu = s.bu := rfl
@[simp] theorem State.modPhase_pw (f : PhaseSt → PhaseSt) : (s.modPhase k f).pw = s.pw := rfl
@[simp] theorem State.modPhase_regions (f : PhaseSt → PhaseSt) : (s.modPhase k f).regions = s.regions := rfl
@[simp] theorem State.modPhase_groups (f : PhaseSt → PhaseSt) : (s.modPhase k f).groups = s.groups := rfl
@[simp] theorem State.modPhase_sensors (f : PhaseSt → PhaseSt) : (s.modPhase k f).sensors = s.sensors := rfl
@[simp] theorem State.modPhase_cells (f : PhaseSt → PhaseSt) : (s.modPhase k f).cells = s.cells := rfl
@[simp] theorem State.modPhase_cds (f : PhaseSt → PhaseSt) : (s.modPhase k f).cds = s.cds := rfl
@[simp] theorem State.modPhase_ricksHeld (f : PhaseSt → PhaseSt) : (s.modPhase k f).ricksHeld = s.ricksHeld := rfl
@[simp] theorem State.modPhase_arms (f : PhaseSt → PhaseSt) : (s.modPhase k f).arms = s.arms := rfl
@[simp] theorem State.modPhase_ctrs (f : PhaseSt → PhaseSt) : (s.modPhase k f).ctrs = s.ctrs := rfl
@[simp] theorem State.modPhase_syncLog (f : PhaseSt → PhaseSt) : (s.modPhase k f).syncLog = s.syncLog := rfl
@[simp] theorem State.modPhase_mem (f : PhaseSt → PhaseSt) : (s.modPhase k f).mem = s.mem := rfl
@[simp] theorem State.modPhase_marks (f : PhaseSt → PhaseSt) : (s.modPhase k f).marks = s.marks := rfl
@[simp] theorem State.modPhase_poison (f : PhaseSt → PhaseSt) : (s.modPhase k f).poison = s.poison := rfl
@[simp] theorem State.modPhase_hostMem (f : PhaseSt → PhaseSt) : (s.modPhase k f).hostMem = s.hostMem := rfl
@[simp] theorem State.modPhase_siteWaits (f : PhaseSt → PhaseSt) : (s.modPhase k f).siteWaits = s.siteWaits := rfl
@[simp] theorem State.modPhase_flaws (f : PhaseSt → PhaseSt) : (s.modPhase k f).flaws = s.flaws := rfl
@[simp] theorem State.modPhase_ports (f : PhaseSt → PhaseSt) : (s.modPhase k f).ports = s.ports := rfl
@[simp] theorem State.modPhase_protHeld (f : PhaseSt → PhaseSt) : (s.modPhase k f).protHeld = s.protHeld := rfl
@[simp] theorem State.modPhase_seqNext (f : PhaseSt → PhaseSt) : (s.modPhase k f).seqNext = s.seqNext := rfl
@[simp] theorem State.modPhase_seqRecs (f : PhaseSt → PhaseSt) : (s.modPhase k f).seqRecs = s.seqRecs := rfl
@[simp] theorem State.modPhase_banks (f : PhaseSt → PhaseSt) : (s.modPhase k f).banks = s.banks := rfl
@[simp] theorem State.modPhase_selectors (f : PhaseSt → PhaseSt) : (s.modPhase k f).selectors = s.selectors := rfl
@[simp] theorem State.modPhase_holds (f : PhaseSt → PhaseSt) : (s.modPhase k f).holds = s.holds := rfl
@[simp] theorem State.modPhase_cals (f : PhaseSt → PhaseSt) : (s.modPhase k f).cals = s.cals := rfl
@[simp] theorem State.modPhase_sites (f : PhaseSt → PhaseSt) : (s.modPhase k f).sites = s.sites := rfl
@[simp] theorem State.modPhase_siteGroups (f : PhaseSt → PhaseSt) : (s.modPhase k f).siteGroups = s.siteGroups := rfl
@[simp] theorem State.modPhase_allocs (f : PhaseSt → PhaseSt) : (s.modPhase k f).allocs = s.allocs := rfl
@[simp] theorem State.modPhase_fmus (f : PhaseSt → PhaseSt) : (s.modPhase k f).fmus = s.fmus := rfl
@[simp] theorem State.modPhase_farOps (f : PhaseSt → PhaseSt) : (s.modPhase k f).farOps = s.farOps := rfl
@[simp] theorem State.modPhase_links (f : PhaseSt → PhaseSt) : (s.modPhase k f).links = s.links := rfl
@[simp] theorem State.modPhase_ops (f : PhaseSt → PhaseSt) : (s.modPhase k f).ops = s.ops := rfl
@[simp] theorem State.modPhase_arrivals (f : PhaseSt → PhaseSt) : (s.modPhase k f).arrivals = s.arrivals := rfl
@[simp] theorem State.modPhase_tags (f : PhaseSt → PhaseSt) : (s.modPhase k f).tags = s.tags := rfl
@[simp] theorem State.modPhase_atoms (f : PhaseSt → PhaseSt) : (s.modPhase k f).atoms = s.atoms := rfl
@[simp] theorem State.modPhase_ces (f : PhaseSt → PhaseSt) : (s.modPhase k f).ces = s.ces := rfl
@[simp] theorem State.modPhase_fab (f : PhaseSt → PhaseSt) : (s.modPhase k f).fab = s.fab := rfl
@[simp] theorem State.modPhase_pcie0 (f : PhaseSt → PhaseSt) : (s.modPhase k f).pcie0 = s.pcie0 := rfl
@[simp] theorem State.modPhase_pcie1 (f : PhaseSt → PhaseSt) : (s.modPhase k f).pcie1 = s.pcie1 := rfl
@[simp] theorem State.modPhase_queues (f : PhaseSt → PhaseSt) : (s.modPhase k f).queues = s.queues := rfl
@[simp] theorem State.modPhase_accepted (f : PhaseSt → PhaseSt) : (s.modPhase k f).accepted = s.accepted := rfl
@[simp] theorem State.modPhase_nextSeq (f : PhaseSt → PhaseSt) : (s.modPhase k f).nextSeq = s.nextSeq := rfl
@[simp] theorem State.modPhase_lastServed (f : PhaseSt → PhaseSt) : (s.modPhase k f).lastServed = s.lastServed := rfl
@[simp] theorem State.modPhase_images (f : PhaseSt → PhaseSt) : (s.modPhase k f).images = s.images := rfl
@[simp] theorem State.modPhase_batches (f : PhaseSt → PhaseSt) : (s.modPhase k f).batches = s.batches := rfl
@[simp] theorem State.modPhase_batchEnds (f : PhaseSt → PhaseSt) : (s.modPhase k f).batchEnds = s.batchEnds := rfl
@[simp] theorem State.modPhase_tuneAccepted (f : PhaseSt → PhaseSt) : (s.modPhase k f).tuneAccepted = s.tuneAccepted := rfl
@[simp] theorem State.modPhase_tuneGaps (f : PhaseSt → PhaseSt) : (s.modPhase k f).tuneGaps = s.tuneGaps := rfl
@[simp] theorem State.modPhase_firm (f : PhaseSt → PhaseSt) : (s.modPhase k f).firm = s.firm := rfl
@[simp] theorem State.modPhase_cfg (f : PhaseSt → PhaseSt) : (s.modPhase k f).cfg = s.cfg := rfl
@[simp] theorem State.modPhase_drain (f : PhaseSt → PhaseSt) : (s.modPhase k f).drain = s.drain := rfl
@[simp] theorem State.modPhase_obs (f : PhaseSt → PhaseSt) : (s.modPhase k f).obs = s.obs := rfl
@[simp] theorem State.modPhase_out (f : PhaseSt → PhaseSt) : (s.modPhase k f).out = s.out := rfl
@[simp] theorem State.modPhase_cell' (f : PhaseSt → PhaseSt) : (s.modPhase k f).cell j = s.cell j := rfl
@[simp] theorem State.modPhase_region' (f : PhaseSt → PhaseSt) : (s.modPhase k f).region j = s.region j := rfl
@[simp] theorem State.modPhase_group' (f : PhaseSt → PhaseSt) : (s.modPhase k f).group j = s.group j := rfl
@[simp] theorem State.modPhase_sensor' (f : PhaseSt → PhaseSt) : (s.modPhase k f).sensor j = s.sensor j := rfl
@[simp] theorem State.modPhase_cd' (f : PhaseSt → PhaseSt) : (s.modPhase k f).cd j = s.cd j := rfl
@[simp] theorem State.modPhase_ctr' (f : PhaseSt → PhaseSt) : (s.modPhase k f).ctr j = s.ctr j := rfl
@[simp] theorem State.modPhase_port' (f : PhaseSt → PhaseSt) : (s.modPhase k f).port j = s.port j := rfl
@[simp] theorem State.modPhase_bank' (f : PhaseSt → PhaseSt) : (s.modPhase k f).bank j = s.bank j := rfl
@[simp] theorem State.modPhase_site' (f : PhaseSt → PhaseSt) : (s.modPhase k f).site j = s.site j := rfl
@[simp] theorem State.modPhase_fmu' (f : PhaseSt → PhaseSt) : (s.modPhase k f).fmu j = s.fmu j := rfl
@[simp] theorem State.modPhase_link' (f : PhaseSt → PhaseSt) : (s.modPhase k f).link j = s.link j := rfl
@[simp] theorem State.modPhase_ce' (f : PhaseSt → PhaseSt) : (s.modPhase k f).ce j = s.ce j := rfl
@[simp] theorem State.modPhase_queue' (f : PhaseSt → PhaseSt) : (s.modPhase k f).queue j = s.queue j := rfl
@[simp] theorem State.modPhase_cset' (f : PhaseSt → PhaseSt) : (s.modPhase k f).cset j = s.cset j := rfl
@[simp] theorem State.modPhase_now (f : PhaseSt → PhaseSt) : (s.modPhase k f).now = s.now := rfl

/-! ### sensors -/

@[simp] theorem State.modSensor_self (f : SensorSt → SensorSt) : (s.modSensor k f).sensor k = f (s.sensor k) := tget_tset_self ..
@[simp] theorem State.modSensor_ne (f : SensorSt → SensorSt) (h : j ≠ k) : (s.modSensor k f).sensor j = s.sensor j := tget_tset_ne _ _ _ _ _ h
@[simp] theorem State.modSensor_pending (f : SensorSt → SensorSt) : (s.modSensor k f).pending = s.pending := rfl
@[simp] theorem State.modSensor_drawn (f : SensorSt → SensorSt) : (s.modSensor k f).drawn = s.drawn := rfl
@[simp] theorem State.modSensor_bu (f : SensorSt → SensorSt) : (s.modSensor k f).bu = s.bu := rfl
@[simp] theorem State.modSensor_pw (f : SensorSt → SensorSt) : (s.modSensor k f).pw = s.pw := rfl
@[simp] theorem State.modSensor_regions (f : SensorSt → SensorSt) : (s.modSensor k f).regions = s.regions := rfl
@[simp] theorem State.modSensor_groups (f : SensorSt → SensorSt) : (s.modSensor k f).groups = s.groups := rfl
@[simp] theorem State.modSensor_phases (f : SensorSt → SensorSt) : (s.modSensor k f).phases = s.phases := rfl
@[simp] theorem State.modSensor_cells (f : SensorSt → SensorSt) : (s.modSensor k f).cells = s.cells := rfl
@[simp] theorem State.modSensor_cds (f : SensorSt → SensorSt) : (s.modSensor k f).cds = s.cds := rfl
@[simp] theorem State.modSensor_ricksHeld (f : SensorSt → SensorSt) : (s.modSensor k f).ricksHeld = s.ricksHeld := rfl
@[simp] theorem State.modSensor_arms (f : SensorSt → SensorSt) : (s.modSensor k f).arms = s.arms := rfl
@[simp] theorem State.modSensor_ctrs (f : SensorSt → SensorSt) : (s.modSensor k f).ctrs = s.ctrs := rfl
@[simp] theorem State.modSensor_syncLog (f : SensorSt → SensorSt) : (s.modSensor k f).syncLog = s.syncLog := rfl
@[simp] theorem State.modSensor_mem (f : SensorSt → SensorSt) : (s.modSensor k f).mem = s.mem := rfl
@[simp] theorem State.modSensor_marks (f : SensorSt → SensorSt) : (s.modSensor k f).marks = s.marks := rfl
@[simp] theorem State.modSensor_poison (f : SensorSt → SensorSt) : (s.modSensor k f).poison = s.poison := rfl
@[simp] theorem State.modSensor_hostMem (f : SensorSt → SensorSt) : (s.modSensor k f).hostMem = s.hostMem := rfl
@[simp] theorem State.modSensor_siteWaits (f : SensorSt → SensorSt) : (s.modSensor k f).siteWaits = s.siteWaits := rfl
@[simp] theorem State.modSensor_flaws (f : SensorSt → SensorSt) : (s.modSensor k f).flaws = s.flaws := rfl
@[simp] theorem State.modSensor_ports (f : SensorSt → SensorSt) : (s.modSensor k f).ports = s.ports := rfl
@[simp] theorem State.modSensor_protHeld (f : SensorSt → SensorSt) : (s.modSensor k f).protHeld = s.protHeld := rfl
@[simp] theorem State.modSensor_seqNext (f : SensorSt → SensorSt) : (s.modSensor k f).seqNext = s.seqNext := rfl
@[simp] theorem State.modSensor_seqRecs (f : SensorSt → SensorSt) : (s.modSensor k f).seqRecs = s.seqRecs := rfl
@[simp] theorem State.modSensor_banks (f : SensorSt → SensorSt) : (s.modSensor k f).banks = s.banks := rfl
@[simp] theorem State.modSensor_selectors (f : SensorSt → SensorSt) : (s.modSensor k f).selectors = s.selectors := rfl
@[simp] theorem State.modSensor_holds (f : SensorSt → SensorSt) : (s.modSensor k f).holds = s.holds := rfl
@[simp] theorem State.modSensor_cals (f : SensorSt → SensorSt) : (s.modSensor k f).cals = s.cals := rfl
@[simp] theorem State.modSensor_sites (f : SensorSt → SensorSt) : (s.modSensor k f).sites = s.sites := rfl
@[simp] theorem State.modSensor_siteGroups (f : SensorSt → SensorSt) : (s.modSensor k f).siteGroups = s.siteGroups := rfl
@[simp] theorem State.modSensor_allocs (f : SensorSt → SensorSt) : (s.modSensor k f).allocs = s.allocs := rfl
@[simp] theorem State.modSensor_fmus (f : SensorSt → SensorSt) : (s.modSensor k f).fmus = s.fmus := rfl
@[simp] theorem State.modSensor_farOps (f : SensorSt → SensorSt) : (s.modSensor k f).farOps = s.farOps := rfl
@[simp] theorem State.modSensor_links (f : SensorSt → SensorSt) : (s.modSensor k f).links = s.links := rfl
@[simp] theorem State.modSensor_ops (f : SensorSt → SensorSt) : (s.modSensor k f).ops = s.ops := rfl
@[simp] theorem State.modSensor_arrivals (f : SensorSt → SensorSt) : (s.modSensor k f).arrivals = s.arrivals := rfl
@[simp] theorem State.modSensor_tags (f : SensorSt → SensorSt) : (s.modSensor k f).tags = s.tags := rfl
@[simp] theorem State.modSensor_atoms (f : SensorSt → SensorSt) : (s.modSensor k f).atoms = s.atoms := rfl
@[simp] theorem State.modSensor_ces (f : SensorSt → SensorSt) : (s.modSensor k f).ces = s.ces := rfl
@[simp] theorem State.modSensor_fab (f : SensorSt → SensorSt) : (s.modSensor k f).fab = s.fab := rfl
@[simp] theorem State.modSensor_pcie0 (f : SensorSt → SensorSt) : (s.modSensor k f).pcie0 = s.pcie0 := rfl
@[simp] theorem State.modSensor_pcie1 (f : SensorSt → SensorSt) : (s.modSensor k f).pcie1 = s.pcie1 := rfl
@[simp] theorem State.modSensor_queues (f : SensorSt → SensorSt) : (s.modSensor k f).queues = s.queues := rfl
@[simp] theorem State.modSensor_accepted (f : SensorSt → SensorSt) : (s.modSensor k f).accepted = s.accepted := rfl
@[simp] theorem State.modSensor_nextSeq (f : SensorSt → SensorSt) : (s.modSensor k f).nextSeq = s.nextSeq := rfl
@[simp] theorem State.modSensor_lastServed (f : SensorSt → SensorSt) : (s.modSensor k f).lastServed = s.lastServed := rfl
@[simp] theorem State.modSensor_images (f : SensorSt → SensorSt) : (s.modSensor k f).images = s.images := rfl
@[simp] theorem State.modSensor_batches (f : SensorSt → SensorSt) : (s.modSensor k f).batches = s.batches := rfl
@[simp] theorem State.modSensor_batchEnds (f : SensorSt → SensorSt) : (s.modSensor k f).batchEnds = s.batchEnds := rfl
@[simp] theorem State.modSensor_tuneAccepted (f : SensorSt → SensorSt) : (s.modSensor k f).tuneAccepted = s.tuneAccepted := rfl
@[simp] theorem State.modSensor_tuneGaps (f : SensorSt → SensorSt) : (s.modSensor k f).tuneGaps = s.tuneGaps := rfl
@[simp] theorem State.modSensor_firm (f : SensorSt → SensorSt) : (s.modSensor k f).firm = s.firm := rfl
@[simp] theorem State.modSensor_cfg (f : SensorSt → SensorSt) : (s.modSensor k f).cfg = s.cfg := rfl
@[simp] theorem State.modSensor_drain (f : SensorSt → SensorSt) : (s.modSensor k f).drain = s.drain := rfl
@[simp] theorem State.modSensor_obs (f : SensorSt → SensorSt) : (s.modSensor k f).obs = s.obs := rfl
@[simp] theorem State.modSensor_out (f : SensorSt → SensorSt) : (s.modSensor k f).out = s.out := rfl
@[simp] theorem State.modSensor_cell' (f : SensorSt → SensorSt) : (s.modSensor k f).cell j = s.cell j := rfl
@[simp] theorem State.modSensor_region' (f : SensorSt → SensorSt) : (s.modSensor k f).region j = s.region j := rfl
@[simp] theorem State.modSensor_group' (f : SensorSt → SensorSt) : (s.modSensor k f).group j = s.group j := rfl
@[simp] theorem State.modSensor_phase' (f : SensorSt → SensorSt) : (s.modSensor k f).phase j = s.phase j := rfl
@[simp] theorem State.modSensor_cd' (f : SensorSt → SensorSt) : (s.modSensor k f).cd j = s.cd j := rfl
@[simp] theorem State.modSensor_ctr' (f : SensorSt → SensorSt) : (s.modSensor k f).ctr j = s.ctr j := rfl
@[simp] theorem State.modSensor_port' (f : SensorSt → SensorSt) : (s.modSensor k f).port j = s.port j := rfl
@[simp] theorem State.modSensor_bank' (f : SensorSt → SensorSt) : (s.modSensor k f).bank j = s.bank j := rfl
@[simp] theorem State.modSensor_site' (f : SensorSt → SensorSt) : (s.modSensor k f).site j = s.site j := rfl
@[simp] theorem State.modSensor_fmu' (f : SensorSt → SensorSt) : (s.modSensor k f).fmu j = s.fmu j := rfl
@[simp] theorem State.modSensor_link' (f : SensorSt → SensorSt) : (s.modSensor k f).link j = s.link j := rfl
@[simp] theorem State.modSensor_ce' (f : SensorSt → SensorSt) : (s.modSensor k f).ce j = s.ce j := rfl
@[simp] theorem State.modSensor_queue' (f : SensorSt → SensorSt) : (s.modSensor k f).queue j = s.queue j := rfl
@[simp] theorem State.modSensor_cset' (f : SensorSt → SensorSt) : (s.modSensor k f).cset j = s.cset j := rfl
@[simp] theorem State.modSensor_now (f : SensorSt → SensorSt) : (s.modSensor k f).now = s.now := rfl

/-! ### cds -/

@[simp] theorem State.modCd_self (f : CdSt → CdSt) : (s.modCd k f).cd k = f (s.cd k) := tget_tset_self ..
@[simp] theorem State.modCd_ne (f : CdSt → CdSt) (h : j ≠ k) : (s.modCd k f).cd j = s.cd j := tget_tset_ne _ _ _ _ _ h
@[simp] theorem State.modCd_pending (f : CdSt → CdSt) : (s.modCd k f).pending = s.pending := rfl
@[simp] theorem State.modCd_drawn (f : CdSt → CdSt) : (s.modCd k f).drawn = s.drawn := rfl
@[simp] theorem State.modCd_bu (f : CdSt → CdSt) : (s.modCd k f).bu = s.bu := rfl
@[simp] theorem State.modCd_pw (f : CdSt → CdSt) : (s.modCd k f).pw = s.pw := rfl
@[simp] theorem State.modCd_regions (f : CdSt → CdSt) : (s.modCd k f).regions = s.regions := rfl
@[simp] theorem State.modCd_groups (f : CdSt → CdSt) : (s.modCd k f).groups = s.groups := rfl
@[simp] theorem State.modCd_phases (f : CdSt → CdSt) : (s.modCd k f).phases = s.phases := rfl
@[simp] theorem State.modCd_sensors (f : CdSt → CdSt) : (s.modCd k f).sensors = s.sensors := rfl
@[simp] theorem State.modCd_cells (f : CdSt → CdSt) : (s.modCd k f).cells = s.cells := rfl
@[simp] theorem State.modCd_ricksHeld (f : CdSt → CdSt) : (s.modCd k f).ricksHeld = s.ricksHeld := rfl
@[simp] theorem State.modCd_arms (f : CdSt → CdSt) : (s.modCd k f).arms = s.arms := rfl
@[simp] theorem State.modCd_ctrs (f : CdSt → CdSt) : (s.modCd k f).ctrs = s.ctrs := rfl
@[simp] theorem State.modCd_syncLog (f : CdSt → CdSt) : (s.modCd k f).syncLog = s.syncLog := rfl
@[simp] theorem State.modCd_mem (f : CdSt → CdSt) : (s.modCd k f).mem = s.mem := rfl
@[simp] theorem State.modCd_marks (f : CdSt → CdSt) : (s.modCd k f).marks = s.marks := rfl
@[simp] theorem State.modCd_poison (f : CdSt → CdSt) : (s.modCd k f).poison = s.poison := rfl
@[simp] theorem State.modCd_hostMem (f : CdSt → CdSt) : (s.modCd k f).hostMem = s.hostMem := rfl
@[simp] theorem State.modCd_siteWaits (f : CdSt → CdSt) : (s.modCd k f).siteWaits = s.siteWaits := rfl
@[simp] theorem State.modCd_flaws (f : CdSt → CdSt) : (s.modCd k f).flaws = s.flaws := rfl
@[simp] theorem State.modCd_ports (f : CdSt → CdSt) : (s.modCd k f).ports = s.ports := rfl
@[simp] theorem State.modCd_protHeld (f : CdSt → CdSt) : (s.modCd k f).protHeld = s.protHeld := rfl
@[simp] theorem State.modCd_seqNext (f : CdSt → CdSt) : (s.modCd k f).seqNext = s.seqNext := rfl
@[simp] theorem State.modCd_seqRecs (f : CdSt → CdSt) : (s.modCd k f).seqRecs = s.seqRecs := rfl
@[simp] theorem State.modCd_banks (f : CdSt → CdSt) : (s.modCd k f).banks = s.banks := rfl
@[simp] theorem State.modCd_selectors (f : CdSt → CdSt) : (s.modCd k f).selectors = s.selectors := rfl
@[simp] theorem State.modCd_holds (f : CdSt → CdSt) : (s.modCd k f).holds = s.holds := rfl
@[simp] theorem State.modCd_cals (f : CdSt → CdSt) : (s.modCd k f).cals = s.cals := rfl
@[simp] theorem State.modCd_sites (f : CdSt → CdSt) : (s.modCd k f).sites = s.sites := rfl
@[simp] theorem State.modCd_siteGroups (f : CdSt → CdSt) : (s.modCd k f).siteGroups = s.siteGroups := rfl
@[simp] theorem State.modCd_allocs (f : CdSt → CdSt) : (s.modCd k f).allocs = s.allocs := rfl
@[simp] theorem State.modCd_fmus (f : CdSt → CdSt) : (s.modCd k f).fmus = s.fmus := rfl
@[simp] theorem State.modCd_farOps (f : CdSt → CdSt) : (s.modCd k f).farOps = s.farOps := rfl
@[simp] theorem State.modCd_links (f : CdSt → CdSt) : (s.modCd k f).links = s.links := rfl
@[simp] theorem State.modCd_ops (f : CdSt → CdSt) : (s.modCd k f).ops = s.ops := rfl
@[simp] theorem State.modCd_arrivals (f : CdSt → CdSt) : (s.modCd k f).arrivals = s.arrivals := rfl
@[simp] theorem State.modCd_tags (f : CdSt → CdSt) : (s.modCd k f).tags = s.tags := rfl
@[simp] theorem State.modCd_atoms (f : CdSt → CdSt) : (s.modCd k f).atoms = s.atoms := rfl
@[simp] theorem State.modCd_ces (f : CdSt → CdSt) : (s.modCd k f).ces = s.ces := rfl
@[simp] theorem State.modCd_fab (f : CdSt → CdSt) : (s.modCd k f).fab = s.fab := rfl
@[simp] theorem State.modCd_pcie0 (f : CdSt → CdSt) : (s.modCd k f).pcie0 = s.pcie0 := rfl
@[simp] theorem State.modCd_pcie1 (f : CdSt → CdSt) : (s.modCd k f).pcie1 = s.pcie1 := rfl
@[simp] theorem State.modCd_queues (f : CdSt → CdSt) : (s.modCd k f).queues = s.queues := rfl
@[simp] theorem State.modCd_accepted (f : CdSt → CdSt) : (s.modCd k f).accepted = s.accepted := rfl
@[simp] theorem State.modCd_nextSeq (f : CdSt → CdSt) : (s.modCd k f).nextSeq = s.nextSeq := rfl
@[simp] theorem State.modCd_lastServed (f : CdSt → CdSt) : (s.modCd k f).lastServed = s.lastServed := rfl
@[simp] theorem State.modCd_images (f : CdSt → CdSt) : (s.modCd k f).images = s.images := rfl
@[simp] theorem State.modCd_batches (f : CdSt → CdSt) : (s.modCd k f).batches = s.batches := rfl
@[simp] theorem State.modCd_batchEnds (f : CdSt → CdSt) : (s.modCd k f).batchEnds = s.batchEnds := rfl
@[simp] theorem State.modCd_tuneAccepted (f : CdSt → CdSt) : (s.modCd k f).tuneAccepted = s.tuneAccepted := rfl
@[simp] theorem State.modCd_tuneGaps (f : CdSt → CdSt) : (s.modCd k f).tuneGaps = s.tuneGaps := rfl
@[simp] theorem State.modCd_firm (f : CdSt → CdSt) : (s.modCd k f).firm = s.firm := rfl
@[simp] theorem State.modCd_cfg (f : CdSt → CdSt) : (s.modCd k f).cfg = s.cfg := rfl
@[simp] theorem State.modCd_drain (f : CdSt → CdSt) : (s.modCd k f).drain = s.drain := rfl
@[simp] theorem State.modCd_obs (f : CdSt → CdSt) : (s.modCd k f).obs = s.obs := rfl
@[simp] theorem State.modCd_out (f : CdSt → CdSt) : (s.modCd k f).out = s.out := rfl
@[simp] theorem State.modCd_cell' (f : CdSt → CdSt) : (s.modCd k f).cell j = s.cell j := rfl
@[simp] theorem State.modCd_region' (f : CdSt → CdSt) : (s.modCd k f).region j = s.region j := rfl
@[simp] theorem State.modCd_group' (f : CdSt → CdSt) : (s.modCd k f).group j = s.group j := rfl
@[simp] theorem State.modCd_phase' (f : CdSt → CdSt) : (s.modCd k f).phase j = s.phase j := rfl
@[simp] theorem State.modCd_sensor' (f : CdSt → CdSt) : (s.modCd k f).sensor j = s.sensor j := rfl
@[simp] theorem State.modCd_ctr' (f : CdSt → CdSt) : (s.modCd k f).ctr j = s.ctr j := rfl
@[simp] theorem State.modCd_port' (f : CdSt → CdSt) : (s.modCd k f).port j = s.port j := rfl
@[simp] theorem State.modCd_bank' (f : CdSt → CdSt) : (s.modCd k f).bank j = s.bank j := rfl
@[simp] theorem State.modCd_site' (f : CdSt → CdSt) : (s.modCd k f).site j = s.site j := rfl
@[simp] theorem State.modCd_fmu' (f : CdSt → CdSt) : (s.modCd k f).fmu j = s.fmu j := rfl
@[simp] theorem State.modCd_link' (f : CdSt → CdSt) : (s.modCd k f).link j = s.link j := rfl
@[simp] theorem State.modCd_ce' (f : CdSt → CdSt) : (s.modCd k f).ce j = s.ce j := rfl
@[simp] theorem State.modCd_queue' (f : CdSt → CdSt) : (s.modCd k f).queue j = s.queue j := rfl
@[simp] theorem State.modCd_cset' (f : CdSt → CdSt) : (s.modCd k f).cset j = s.cset j := rfl
@[simp] theorem State.modCd_now (f : CdSt → CdSt) : (s.modCd k f).now = s.now := rfl

/-! ### ctrs -/

@[simp] theorem State.modCtr_self (f : Ctr → Ctr) : (s.modCtr k f).ctr k = f (s.ctr k) := tget_tset_self ..
@[simp] theorem State.modCtr_ne (f : Ctr → Ctr) (h : j ≠ k) : (s.modCtr k f).ctr j = s.ctr j := tget_tset_ne _ _ _ _ _ h
@[simp] theorem State.modCtr_pending (f : Ctr → Ctr) : (s.modCtr k f).pending = s.pending := rfl
@[simp] theorem State.modCtr_drawn (f : Ctr → Ctr) : (s.modCtr k f).drawn = s.drawn := rfl
@[simp] theorem State.modCtr_bu (f : Ctr → Ctr) : (s.modCtr k f).bu = s.bu := rfl
@[simp] theorem State.modCtr_pw (f : Ctr → Ctr) : (s.modCtr k f).pw = s.pw := rfl
@[simp] theorem State.modCtr_regions (f : Ctr → Ctr) : (s.modCtr k f).regions = s.regions := rfl
@[simp] theorem State.modCtr_groups (f : Ctr → Ctr) : (s.modCtr k f).groups = s.groups := rfl
@[simp] theorem State.modCtr_phases (f : Ctr → Ctr) : (s.modCtr k f).phases = s.phases := rfl
@[simp] theorem State.modCtr_sensors (f : Ctr → Ctr) : (s.modCtr k f).sensors = s.sensors := rfl
@[simp] theorem State.modCtr_cells (f : Ctr → Ctr) : (s.modCtr k f).cells = s.cells := rfl
@[simp] theorem State.modCtr_cds (f : Ctr → Ctr) : (s.modCtr k f).cds = s.cds := rfl
@[simp] theorem State.modCtr_ricksHeld (f : Ctr → Ctr) : (s.modCtr k f).ricksHeld = s.ricksHeld := rfl
@[simp] theorem State.modCtr_arms (f : Ctr → Ctr) : (s.modCtr k f).arms = s.arms := rfl
@[simp] theorem State.modCtr_syncLog (f : Ctr → Ctr) : (s.modCtr k f).syncLog = s.syncLog := rfl
@[simp] theorem State.modCtr_mem (f : Ctr → Ctr) : (s.modCtr k f).mem = s.mem := rfl
@[simp] theorem State.modCtr_marks (f : Ctr → Ctr) : (s.modCtr k f).marks = s.marks := rfl
@[simp] theorem State.modCtr_poison (f : Ctr → Ctr) : (s.modCtr k f).poison = s.poison := rfl
@[simp] theorem State.modCtr_hostMem (f : Ctr → Ctr) : (s.modCtr k f).hostMem = s.hostMem := rfl
@[simp] theorem State.modCtr_siteWaits (f : Ctr → Ctr) : (s.modCtr k f).siteWaits = s.siteWaits := rfl
@[simp] theorem State.modCtr_flaws (f : Ctr → Ctr) : (s.modCtr k f).flaws = s.flaws := rfl
@[simp] theorem State.modCtr_ports (f : Ctr → Ctr) : (s.modCtr k f).ports = s.ports := rfl
@[simp] theorem State.modCtr_protHeld (f : Ctr → Ctr) : (s.modCtr k f).protHeld = s.protHeld := rfl
@[simp] theorem State.modCtr_seqNext (f : Ctr → Ctr) : (s.modCtr k f).seqNext = s.seqNext := rfl
@[simp] theorem State.modCtr_seqRecs (f : Ctr → Ctr) : (s.modCtr k f).seqRecs = s.seqRecs := rfl
@[simp] theorem State.modCtr_banks (f : Ctr → Ctr) : (s.modCtr k f).banks = s.banks := rfl
@[simp] theorem State.modCtr_selectors (f : Ctr → Ctr) : (s.modCtr k f).selectors = s.selectors := rfl
@[simp] theorem State.modCtr_holds (f : Ctr → Ctr) : (s.modCtr k f).holds = s.holds := rfl
@[simp] theorem State.modCtr_cals (f : Ctr → Ctr) : (s.modCtr k f).cals = s.cals := rfl
@[simp] theorem State.modCtr_sites (f : Ctr → Ctr) : (s.modCtr k f).sites = s.sites := rfl
@[simp] theorem State.modCtr_siteGroups (f : Ctr → Ctr) : (s.modCtr k f).siteGroups = s.siteGroups := rfl
@[simp] theorem State.modCtr_allocs (f : Ctr → Ctr) : (s.modCtr k f).allocs = s.allocs := rfl
@[simp] theorem State.modCtr_fmus (f : Ctr → Ctr) : (s.modCtr k f).fmus = s.fmus := rfl
@[simp] theorem State.modCtr_farOps (f : Ctr → Ctr) : (s.modCtr k f).farOps = s.farOps := rfl
@[simp] theorem State.modCtr_links (f : Ctr → Ctr) : (s.modCtr k f).links = s.links := rfl
@[simp] theorem State.modCtr_ops (f : Ctr → Ctr) : (s.modCtr k f).ops = s.ops := rfl
@[simp] theorem State.modCtr_arrivals (f : Ctr → Ctr) : (s.modCtr k f).arrivals = s.arrivals := rfl
@[simp] theorem State.modCtr_tags (f : Ctr → Ctr) : (s.modCtr k f).tags = s.tags := rfl
@[simp] theorem State.modCtr_atoms (f : Ctr → Ctr) : (s.modCtr k f).atoms = s.atoms := rfl
@[simp] theorem State.modCtr_ces (f : Ctr → Ctr) : (s.modCtr k f).ces = s.ces := rfl
@[simp] theorem State.modCtr_fab (f : Ctr → Ctr) : (s.modCtr k f).fab = s.fab := rfl
@[simp] theorem State.modCtr_pcie0 (f : Ctr → Ctr) : (s.modCtr k f).pcie0 = s.pcie0 := rfl
@[simp] theorem State.modCtr_pcie1 (f : Ctr → Ctr) : (s.modCtr k f).pcie1 = s.pcie1 := rfl
@[simp] theorem State.modCtr_queues (f : Ctr → Ctr) : (s.modCtr k f).queues = s.queues := rfl
@[simp] theorem State.modCtr_accepted (f : Ctr → Ctr) : (s.modCtr k f).accepted = s.accepted := rfl
@[simp] theorem State.modCtr_nextSeq (f : Ctr → Ctr) : (s.modCtr k f).nextSeq = s.nextSeq := rfl
@[simp] theorem State.modCtr_lastServed (f : Ctr → Ctr) : (s.modCtr k f).lastServed = s.lastServed := rfl
@[simp] theorem State.modCtr_images (f : Ctr → Ctr) : (s.modCtr k f).images = s.images := rfl
@[simp] theorem State.modCtr_batches (f : Ctr → Ctr) : (s.modCtr k f).batches = s.batches := rfl
@[simp] theorem State.modCtr_batchEnds (f : Ctr → Ctr) : (s.modCtr k f).batchEnds = s.batchEnds := rfl
@[simp] theorem State.modCtr_tuneAccepted (f : Ctr → Ctr) : (s.modCtr k f).tuneAccepted = s.tuneAccepted := rfl
@[simp] theorem State.modCtr_tuneGaps (f : Ctr → Ctr) : (s.modCtr k f).tuneGaps = s.tuneGaps := rfl
@[simp] theorem State.modCtr_firm (f : Ctr → Ctr) : (s.modCtr k f).firm = s.firm := rfl
@[simp] theorem State.modCtr_cfg (f : Ctr → Ctr) : (s.modCtr k f).cfg = s.cfg := rfl
@[simp] theorem State.modCtr_drain (f : Ctr → Ctr) : (s.modCtr k f).drain = s.drain := rfl
@[simp] theorem State.modCtr_obs (f : Ctr → Ctr) : (s.modCtr k f).obs = s.obs := rfl
@[simp] theorem State.modCtr_out (f : Ctr → Ctr) : (s.modCtr k f).out = s.out := rfl
@[simp] theorem State.modCtr_cell' (f : Ctr → Ctr) : (s.modCtr k f).cell j = s.cell j := rfl
@[simp] theorem State.modCtr_region' (f : Ctr → Ctr) : (s.modCtr k f).region j = s.region j := rfl
@[simp] theorem State.modCtr_group' (f : Ctr → Ctr) : (s.modCtr k f).group j = s.group j := rfl
@[simp] theorem State.modCtr_phase' (f : Ctr → Ctr) : (s.modCtr k f).phase j = s.phase j := rfl
@[simp] theorem State.modCtr_sensor' (f : Ctr → Ctr) : (s.modCtr k f).sensor j = s.sensor j := rfl
@[simp] theorem State.modCtr_cd' (f : Ctr → Ctr) : (s.modCtr k f).cd j = s.cd j := rfl
@[simp] theorem State.modCtr_port' (f : Ctr → Ctr) : (s.modCtr k f).port j = s.port j := rfl
@[simp] theorem State.modCtr_bank' (f : Ctr → Ctr) : (s.modCtr k f).bank j = s.bank j := rfl
@[simp] theorem State.modCtr_site' (f : Ctr → Ctr) : (s.modCtr k f).site j = s.site j := rfl
@[simp] theorem State.modCtr_fmu' (f : Ctr → Ctr) : (s.modCtr k f).fmu j = s.fmu j := rfl
@[simp] theorem State.modCtr_link' (f : Ctr → Ctr) : (s.modCtr k f).link j = s.link j := rfl
@[simp] theorem State.modCtr_ce' (f : Ctr → Ctr) : (s.modCtr k f).ce j = s.ce j := rfl
@[simp] theorem State.modCtr_queue' (f : Ctr → Ctr) : (s.modCtr k f).queue j = s.queue j := rfl
@[simp] theorem State.modCtr_cset' (f : Ctr → Ctr) : (s.modCtr k f).cset j = s.cset j := rfl
@[simp] theorem State.modCtr_now (f : Ctr → Ctr) : (s.modCtr k f).now = s.now := rfl

/-! ### ports -/

@[simp] theorem State.modPort_self (f : PortSt → PortSt) : (s.modPort k f).port k = f (s.port k) := tget_tset_self ..
@[simp] theorem State.modPort_ne (f : PortSt → PortSt) (h : j ≠ k) : (s.modPort k f).port j = s.port j := tget_tset_ne _ _ _ _ _ h
@[simp] theorem State.modPort_pending (f : PortSt → PortSt) : (s.modPort k f).pending = s.pending := rfl
@[simp] theorem State.modPort_drawn (f : PortSt → PortSt) : (s.modPort k f).drawn = s.drawn := rfl
@[simp] theorem State.modPort_bu (f : PortSt → PortSt) : (s.modPort k f).bu = s.bu := rfl
@[simp] theorem State.modPort_pw (f : PortSt → PortSt) : (s.modPort k f).pw = s.pw := rfl
@[simp] theorem State.modPort_regions (f : PortSt → PortSt) : (s.modPort k f).regions = s.regions := rfl
@[simp] theorem State.modPort_groups (f : PortSt → PortSt) : (s.modPort k f).groups = s.groups := rfl
@[simp] theorem State.modPort_phases (f : PortSt → PortSt) : (s.modPort k f).phases = s.phases := rfl
@[simp] theorem State.modPort_sensors (f : PortSt → PortSt) : (s.modPort k f).sensors = s.sensors := rfl
@[simp] theorem State.modPort_cells (f : PortSt → PortSt) : (s.modPort k f).cells = s.cells := rfl
@[simp] theorem State.modPort_cds (f : PortSt → PortSt) : (s.modPort k f).cds = s.cds := rfl
@[simp] theorem State.modPort_ricksHeld (f : PortSt → PortSt) : (s.modPort k f).ricksHeld = s.ricksHeld := rfl
@[simp] theorem State.modPort_arms (f : PortSt → PortSt) : (s.modPort k f).arms = s.arms := rfl
@[simp] theorem State.modPort_ctrs (f : PortSt → PortSt) : (s.modPort k f).ctrs = s.ctrs := rfl
@[simp] theorem State.modPort_syncLog (f : PortSt → PortSt) : (s.modPort k f).syncLog = s.syncLog := rfl
@[simp] theorem State.modPort_mem (f : PortSt → PortSt) : (s.modPort k f).mem = s.mem := rfl
@[simp] theorem State.modPort_marks (f : PortSt → PortSt) : (s.modPort k f).marks = s.marks := rfl
@[simp] theorem State.modPort_poison (f : PortSt → PortSt) : (s.modPort k f).poison = s.poison := rfl
@[simp] theorem State.modPort_hostMem (f : PortSt → PortSt) : (s.modPort k f).hostMem = s.hostMem := rfl
@[simp] theorem State.modPort_protHeld (f : PortSt → PortSt) : (s.modPort k f).protHeld = s.protHeld := rfl
@[simp] theorem State.modPort_siteWaits (f : PortSt → PortSt) : (s.modPort k f).siteWaits = s.siteWaits := rfl
@[simp] theorem State.modPort_flaws (f : PortSt → PortSt) : (s.modPort k f).flaws = s.flaws := rfl
@[simp] theorem State.modPort_seqNext (f : PortSt → PortSt) : (s.modPort k f).seqNext = s.seqNext := rfl
@[simp] theorem State.modPort_seqRecs (f : PortSt → PortSt) : (s.modPort k f).seqRecs = s.seqRecs := rfl
@[simp] theorem State.modPort_banks (f : PortSt → PortSt) : (s.modPort k f).banks = s.banks := rfl
@[simp] theorem State.modPort_selectors (f : PortSt → PortSt) : (s.modPort k f).selectors = s.selectors := rfl
@[simp] theorem State.modPort_holds (f : PortSt → PortSt) : (s.modPort k f).holds = s.holds := rfl
@[simp] theorem State.modPort_cals (f : PortSt → PortSt) : (s.modPort k f).cals = s.cals := rfl
@[simp] theorem State.modPort_sites (f : PortSt → PortSt) : (s.modPort k f).sites = s.sites := rfl
@[simp] theorem State.modPort_siteGroups (f : PortSt → PortSt) : (s.modPort k f).siteGroups = s.siteGroups := rfl
@[simp] theorem State.modPort_allocs (f : PortSt → PortSt) : (s.modPort k f).allocs = s.allocs := rfl
@[simp] theorem State.modPort_fmus (f : PortSt → PortSt) : (s.modPort k f).fmus = s.fmus := rfl
@[simp] theorem State.modPort_farOps (f : PortSt → PortSt) : (s.modPort k f).farOps = s.farOps := rfl
@[simp] theorem State.modPort_links (f : PortSt → PortSt) : (s.modPort k f).links = s.links := rfl
@[simp] theorem State.modPort_ops (f : PortSt → PortSt) : (s.modPort k f).ops = s.ops := rfl
@[simp] theorem State.modPort_arrivals (f : PortSt → PortSt) : (s.modPort k f).arrivals = s.arrivals := rfl
@[simp] theorem State.modPort_tags (f : PortSt → PortSt) : (s.modPort k f).tags = s.tags := rfl
@[simp] theorem State.modPort_atoms (f : PortSt → PortSt) : (s.modPort k f).atoms = s.atoms := rfl
@[simp] theorem State.modPort_ces (f : PortSt → PortSt) : (s.modPort k f).ces = s.ces := rfl
@[simp] theorem State.modPort_fab (f : PortSt → PortSt) : (s.modPort k f).fab = s.fab := rfl
@[simp] theorem State.modPort_pcie0 (f : PortSt → PortSt) : (s.modPort k f).pcie0 = s.pcie0 := rfl
@[simp] theorem State.modPort_pcie1 (f : PortSt → PortSt) : (s.modPort k f).pcie1 = s.pcie1 := rfl
@[simp] theorem State.modPort_queues (f : PortSt → PortSt) : (s.modPort k f).queues = s.queues := rfl
@[simp] theorem State.modPort_accepted (f : PortSt → PortSt) : (s.modPort k f).accepted = s.accepted := rfl
@[simp] theorem State.modPort_nextSeq (f : PortSt → PortSt) : (s.modPort k f).nextSeq = s.nextSeq := rfl
@[simp] theorem State.modPort_lastServed (f : PortSt → PortSt) : (s.modPort k f).lastServed = s.lastServed := rfl
@[simp] theorem State.modPort_images (f : PortSt → PortSt) : (s.modPort k f).images = s.images := rfl
@[simp] theorem State.modPort_batches (f : PortSt → PortSt) : (s.modPort k f).batches = s.batches := rfl
@[simp] theorem State.modPort_batchEnds (f : PortSt → PortSt) : (s.modPort k f).batchEnds = s.batchEnds := rfl
@[simp] theorem State.modPort_tuneAccepted (f : PortSt → PortSt) : (s.modPort k f).tuneAccepted = s.tuneAccepted := rfl
@[simp] theorem State.modPort_tuneGaps (f : PortSt → PortSt) : (s.modPort k f).tuneGaps = s.tuneGaps := rfl
@[simp] theorem State.modPort_firm (f : PortSt → PortSt) : (s.modPort k f).firm = s.firm := rfl
@[simp] theorem State.modPort_cfg (f : PortSt → PortSt) : (s.modPort k f).cfg = s.cfg := rfl
@[simp] theorem State.modPort_drain (f : PortSt → PortSt) : (s.modPort k f).drain = s.drain := rfl
@[simp] theorem State.modPort_obs (f : PortSt → PortSt) : (s.modPort k f).obs = s.obs := rfl
@[simp] theorem State.modPort_out (f : PortSt → PortSt) : (s.modPort k f).out = s.out := rfl
@[simp] theorem State.modPort_cell' (f : PortSt → PortSt) : (s.modPort k f).cell j = s.cell j := rfl
@[simp] theorem State.modPort_region' (f : PortSt → PortSt) : (s.modPort k f).region j = s.region j := rfl
@[simp] theorem State.modPort_group' (f : PortSt → PortSt) : (s.modPort k f).group j = s.group j := rfl
@[simp] theorem State.modPort_phase' (f : PortSt → PortSt) : (s.modPort k f).phase j = s.phase j := rfl
@[simp] theorem State.modPort_sensor' (f : PortSt → PortSt) : (s.modPort k f).sensor j = s.sensor j := rfl
@[simp] theorem State.modPort_cd' (f : PortSt → PortSt) : (s.modPort k f).cd j = s.cd j := rfl
@[simp] theorem State.modPort_ctr' (f : PortSt → PortSt) : (s.modPort k f).ctr j = s.ctr j := rfl
@[simp] theorem State.modPort_bank' (f : PortSt → PortSt) : (s.modPort k f).bank j = s.bank j := rfl
@[simp] theorem State.modPort_site' (f : PortSt → PortSt) : (s.modPort k f).site j = s.site j := rfl
@[simp] theorem State.modPort_fmu' (f : PortSt → PortSt) : (s.modPort k f).fmu j = s.fmu j := rfl
@[simp] theorem State.modPort_link' (f : PortSt → PortSt) : (s.modPort k f).link j = s.link j := rfl
@[simp] theorem State.modPort_ce' (f : PortSt → PortSt) : (s.modPort k f).ce j = s.ce j := rfl
@[simp] theorem State.modPort_queue' (f : PortSt → PortSt) : (s.modPort k f).queue j = s.queue j := rfl
@[simp] theorem State.modPort_cset' (f : PortSt → PortSt) : (s.modPort k f).cset j = s.cset j := rfl
@[simp] theorem State.modPort_now (f : PortSt → PortSt) : (s.modPort k f).now = s.now := rfl

/-! ### banks -/

@[simp] theorem State.modBank_self (f : BankSt → BankSt) : (s.modBank k f).bank k = f (s.bank k) := tget_tset_self ..
@[simp] theorem State.modBank_ne (f : BankSt → BankSt) (h : j ≠ k) : (s.modBank k f).bank j = s.bank j := tget_tset_ne _ _ _ _ _ h
@[simp] theorem State.modBank_pending (f : BankSt → BankSt) : (s.modBank k f).pending = s.pending := rfl
@[simp] theorem State.modBank_drawn (f : BankSt → BankSt) : (s.modBank k f).drawn = s.drawn := rfl
@[simp] theorem State.modBank_bu (f : BankSt → BankSt) : (s.modBank k f).bu = s.bu := rfl
@[simp] theorem State.modBank_pw (f : BankSt → BankSt) : (s.modBank k f).pw = s.pw := rfl
@[simp] theorem State.modBank_regions (f : BankSt → BankSt) : (s.modBank k f).regions = s.regions := rfl
@[simp] theorem State.modBank_groups (f : BankSt → BankSt) : (s.modBank k f).groups = s.groups := rfl
@[simp] theorem State.modBank_phases (f : BankSt → BankSt) : (s.modBank k f).phases = s.phases := rfl
@[simp] theorem State.modBank_sensors (f : BankSt → BankSt) : (s.modBank k f).sensors = s.sensors := rfl
@[simp] theorem State.modBank_cells (f : BankSt → BankSt) : (s.modBank k f).cells = s.cells := rfl
@[simp] theorem State.modBank_cds (f : BankSt → BankSt) : (s.modBank k f).cds = s.cds := rfl
@[simp] theorem State.modBank_ricksHeld (f : BankSt → BankSt) : (s.modBank k f).ricksHeld = s.ricksHeld := rfl
@[simp] theorem State.modBank_arms (f : BankSt → BankSt) : (s.modBank k f).arms = s.arms := rfl
@[simp] theorem State.modBank_ctrs (f : BankSt → BankSt) : (s.modBank k f).ctrs = s.ctrs := rfl
@[simp] theorem State.modBank_syncLog (f : BankSt → BankSt) : (s.modBank k f).syncLog = s.syncLog := rfl
@[simp] theorem State.modBank_mem (f : BankSt → BankSt) : (s.modBank k f).mem = s.mem := rfl
@[simp] theorem State.modBank_marks (f : BankSt → BankSt) : (s.modBank k f).marks = s.marks := rfl
@[simp] theorem State.modBank_poison (f : BankSt → BankSt) : (s.modBank k f).poison = s.poison := rfl
@[simp] theorem State.modBank_hostMem (f : BankSt → BankSt) : (s.modBank k f).hostMem = s.hostMem := rfl
@[simp] theorem State.modBank_siteWaits (f : BankSt → BankSt) : (s.modBank k f).siteWaits = s.siteWaits := rfl
@[simp] theorem State.modBank_flaws (f : BankSt → BankSt) : (s.modBank k f).flaws = s.flaws := rfl
@[simp] theorem State.modBank_ports (f : BankSt → BankSt) : (s.modBank k f).ports = s.ports := rfl
@[simp] theorem State.modBank_protHeld (f : BankSt → BankSt) : (s.modBank k f).protHeld = s.protHeld := rfl
@[simp] theorem State.modBank_seqNext (f : BankSt → BankSt) : (s.modBank k f).seqNext = s.seqNext := rfl
@[simp] theorem State.modBank_seqRecs (f : BankSt → BankSt) : (s.modBank k f).seqRecs = s.seqRecs := rfl
@[simp] theorem State.modBank_selectors (f : BankSt → BankSt) : (s.modBank k f).selectors = s.selectors := rfl
@[simp] theorem State.modBank_holds (f : BankSt → BankSt) : (s.modBank k f).holds = s.holds := rfl
@[simp] theorem State.modBank_cals (f : BankSt → BankSt) : (s.modBank k f).cals = s.cals := rfl
@[simp] theorem State.modBank_sites (f : BankSt → BankSt) : (s.modBank k f).sites = s.sites := rfl
@[simp] theorem State.modBank_siteGroups (f : BankSt → BankSt) : (s.modBank k f).siteGroups = s.siteGroups := rfl
@[simp] theorem State.modBank_allocs (f : BankSt → BankSt) : (s.modBank k f).allocs = s.allocs := rfl
@[simp] theorem State.modBank_fmus (f : BankSt → BankSt) : (s.modBank k f).fmus = s.fmus := rfl
@[simp] theorem State.modBank_farOps (f : BankSt → BankSt) : (s.modBank k f).farOps = s.farOps := rfl
@[simp] theorem State.modBank_links (f : BankSt → BankSt) : (s.modBank k f).links = s.links := rfl
@[simp] theorem State.modBank_ops (f : BankSt → BankSt) : (s.modBank k f).ops = s.ops := rfl
@[simp] theorem State.modBank_arrivals (f : BankSt → BankSt) : (s.modBank k f).arrivals = s.arrivals := rfl
@[simp] theorem State.modBank_tags (f : BankSt → BankSt) : (s.modBank k f).tags = s.tags := rfl
@[simp] theorem State.modBank_atoms (f : BankSt → BankSt) : (s.modBank k f).atoms = s.atoms := rfl
@[simp] theorem State.modBank_ces (f : BankSt → BankSt) : (s.modBank k f).ces = s.ces := rfl
@[simp] theorem State.modBank_fab (f : BankSt → BankSt) : (s.modBank k f).fab = s.fab := rfl
@[simp] theorem State.modBank_pcie0 (f : BankSt → BankSt) : (s.modBank k f).pcie0 = s.pcie0 := rfl
@[simp] theorem State.modBank_pcie1 (f : BankSt → BankSt) : (s.modBank k f).pcie1 = s.pcie1 := rfl
@[simp] theorem State.modBank_queues (f : BankSt → BankSt) : (s.modBank k f).queues = s.queues := rfl
@[simp] theorem State.modBank_accepted (f : BankSt → BankSt) : (s.modBank k f).accepted = s.accepted := rfl
@[simp] theorem State.modBank_nextSeq (f : BankSt → BankSt) : (s.modBank k f).nextSeq = s.nextSeq := rfl
@[simp] theorem State.modBank_lastServed (f : BankSt → BankSt) : (s.modBank k f).lastServed = s.lastServed := rfl
@[simp] theorem State.modBank_images (f : BankSt → BankSt) : (s.modBank k f).images = s.images := rfl
@[simp] theorem State.modBank_batches (f : BankSt → BankSt) : (s.modBank k f).batches = s.batches := rfl
@[simp] theorem State.modBank_batchEnds (f : BankSt → BankSt) : (s.modBank k f).batchEnds = s.batchEnds := rfl
@[simp] theorem State.modBank_tuneAccepted (f : BankSt → BankSt) : (s.modBank k f).tuneAccepted = s.tuneAccepted := rfl
@[simp] theorem State.modBank_tuneGaps (f : BankSt → BankSt) : (s.modBank k f).tuneGaps = s.tuneGaps := rfl
@[simp] theorem State.modBank_firm (f : BankSt → BankSt) : (s.modBank k f).firm = s.firm := rfl
@[simp] theorem State.modBank_cfg (f : BankSt → BankSt) : (s.modBank k f).cfg = s.cfg := rfl
@[simp] theorem State.modBank_drain (f : BankSt → BankSt) : (s.modBank k f).drain = s.drain := rfl
@[simp] theorem State.modBank_obs (f : BankSt → BankSt) : (s.modBank k f).obs = s.obs := rfl
@[simp] theorem State.modBank_out (f : BankSt → BankSt) : (s.modBank k f).out = s.out := rfl
@[simp] theorem State.modBank_cell' (f : BankSt → BankSt) : (s.modBank k f).cell j = s.cell j := rfl
@[simp] theorem State.modBank_region' (f : BankSt → BankSt) : (s.modBank k f).region j = s.region j := rfl
@[simp] theorem State.modBank_group' (f : BankSt → BankSt) : (s.modBank k f).group j = s.group j := rfl
@[simp] theorem State.modBank_phase' (f : BankSt → BankSt) : (s.modBank k f).phase j = s.phase j := rfl
@[simp] theorem State.modBank_sensor' (f : BankSt → BankSt) : (s.modBank k f).sensor j = s.sensor j := rfl
@[simp] theorem State.modBank_cd' (f : BankSt → BankSt) : (s.modBank k f).cd j = s.cd j := rfl
@[simp] theorem State.modBank_ctr' (f : BankSt → BankSt) : (s.modBank k f).ctr j = s.ctr j := rfl
@[simp] theorem State.modBank_port' (f : BankSt → BankSt) : (s.modBank k f).port j = s.port j := rfl
@[simp] theorem State.modBank_site' (f : BankSt → BankSt) : (s.modBank k f).site j = s.site j := rfl
@[simp] theorem State.modBank_fmu' (f : BankSt → BankSt) : (s.modBank k f).fmu j = s.fmu j := rfl
@[simp] theorem State.modBank_link' (f : BankSt → BankSt) : (s.modBank k f).link j = s.link j := rfl
@[simp] theorem State.modBank_ce' (f : BankSt → BankSt) : (s.modBank k f).ce j = s.ce j := rfl
@[simp] theorem State.modBank_queue' (f : BankSt → BankSt) : (s.modBank k f).queue j = s.queue j := rfl
@[simp] theorem State.modBank_cset' (f : BankSt → BankSt) : (s.modBank k f).cset j = s.cset j := rfl
@[simp] theorem State.modBank_now (f : BankSt → BankSt) : (s.modBank k f).now = s.now := rfl

/-! ### sites -/

@[simp] theorem State.modSite_self (f : SiteSt → SiteSt) : (s.modSite k f).site k = f (s.site k) := tget_tset_self ..
@[simp] theorem State.modSite_ne (f : SiteSt → SiteSt) (h : j ≠ k) : (s.modSite k f).site j = s.site j := tget_tset_ne _ _ _ _ _ h
@[simp] theorem State.modSite_pending (f : SiteSt → SiteSt) : (s.modSite k f).pending = s.pending := rfl
@[simp] theorem State.modSite_drawn (f : SiteSt → SiteSt) : (s.modSite k f).drawn = s.drawn := rfl
@[simp] theorem State.modSite_bu (f : SiteSt → SiteSt) : (s.modSite k f).bu = s.bu := rfl
@[simp] theorem State.modSite_pw (f : SiteSt → SiteSt) : (s.modSite k f).pw = s.pw := rfl
@[simp] theorem State.modSite_regions (f : SiteSt → SiteSt) : (s.modSite k f).regions = s.regions := rfl
@[simp] theorem State.modSite_groups (f : SiteSt → SiteSt) : (s.modSite k f).groups = s.groups := rfl
@[simp] theorem State.modSite_phases (f : SiteSt → SiteSt) : (s.modSite k f).phases = s.phases := rfl
@[simp] theorem State.modSite_sensors (f : SiteSt → SiteSt) : (s.modSite k f).sensors = s.sensors := rfl
@[simp] theorem State.modSite_cells (f : SiteSt → SiteSt) : (s.modSite k f).cells = s.cells := rfl
@[simp] theorem State.modSite_cds (f : SiteSt → SiteSt) : (s.modSite k f).cds = s.cds := rfl
@[simp] theorem State.modSite_ricksHeld (f : SiteSt → SiteSt) : (s.modSite k f).ricksHeld = s.ricksHeld := rfl
@[simp] theorem State.modSite_arms (f : SiteSt → SiteSt) : (s.modSite k f).arms = s.arms := rfl
@[simp] theorem State.modSite_ctrs (f : SiteSt → SiteSt) : (s.modSite k f).ctrs = s.ctrs := rfl
@[simp] theorem State.modSite_syncLog (f : SiteSt → SiteSt) : (s.modSite k f).syncLog = s.syncLog := rfl
@[simp] theorem State.modSite_mem (f : SiteSt → SiteSt) : (s.modSite k f).mem = s.mem := rfl
@[simp] theorem State.modSite_marks (f : SiteSt → SiteSt) : (s.modSite k f).marks = s.marks := rfl
@[simp] theorem State.modSite_poison (f : SiteSt → SiteSt) : (s.modSite k f).poison = s.poison := rfl
@[simp] theorem State.modSite_hostMem (f : SiteSt → SiteSt) : (s.modSite k f).hostMem = s.hostMem := rfl
@[simp] theorem State.modSite_siteWaits (f : SiteSt → SiteSt) : (s.modSite k f).siteWaits = s.siteWaits := rfl
@[simp] theorem State.modSite_flaws (f : SiteSt → SiteSt) : (s.modSite k f).flaws = s.flaws := rfl
@[simp] theorem State.modSite_ports (f : SiteSt → SiteSt) : (s.modSite k f).ports = s.ports := rfl
@[simp] theorem State.modSite_protHeld (f : SiteSt → SiteSt) : (s.modSite k f).protHeld = s.protHeld := rfl
@[simp] theorem State.modSite_seqNext (f : SiteSt → SiteSt) : (s.modSite k f).seqNext = s.seqNext := rfl
@[simp] theorem State.modSite_seqRecs (f : SiteSt → SiteSt) : (s.modSite k f).seqRecs = s.seqRecs := rfl
@[simp] theorem State.modSite_banks (f : SiteSt → SiteSt) : (s.modSite k f).banks = s.banks := rfl
@[simp] theorem State.modSite_selectors (f : SiteSt → SiteSt) : (s.modSite k f).selectors = s.selectors := rfl
@[simp] theorem State.modSite_holds (f : SiteSt → SiteSt) : (s.modSite k f).holds = s.holds := rfl
@[simp] theorem State.modSite_cals (f : SiteSt → SiteSt) : (s.modSite k f).cals = s.cals := rfl
@[simp] theorem State.modSite_siteGroups (f : SiteSt → SiteSt) : (s.modSite k f).siteGroups = s.siteGroups := rfl
@[simp] theorem State.modSite_allocs (f : SiteSt → SiteSt) : (s.modSite k f).allocs = s.allocs := rfl
@[simp] theorem State.modSite_fmus (f : SiteSt → SiteSt) : (s.modSite k f).fmus = s.fmus := rfl
@[simp] theorem State.modSite_farOps (f : SiteSt → SiteSt) : (s.modSite k f).farOps = s.farOps := rfl
@[simp] theorem State.modSite_links (f : SiteSt → SiteSt) : (s.modSite k f).links = s.links := rfl
@[simp] theorem State.modSite_ops (f : SiteSt → SiteSt) : (s.modSite k f).ops = s.ops := rfl
@[simp] theorem State.modSite_arrivals (f : SiteSt → SiteSt) : (s.modSite k f).arrivals = s.arrivals := rfl
@[simp] theorem State.modSite_tags (f : SiteSt → SiteSt) : (s.modSite k f).tags = s.tags := rfl
@[simp] theorem State.modSite_atoms (f : SiteSt → SiteSt) : (s.modSite k f).atoms = s.atoms := rfl
@[simp] theorem State.modSite_ces (f : SiteSt → SiteSt) : (s.modSite k f).ces = s.ces := rfl
@[simp] theorem State.modSite_fab (f : SiteSt → SiteSt) : (s.modSite k f).fab = s.fab := rfl
@[simp] theorem State.modSite_pcie0 (f : SiteSt → SiteSt) : (s.modSite k f).pcie0 = s.pcie0 := rfl
@[simp] theorem State.modSite_pcie1 (f : SiteSt → SiteSt) : (s.modSite k f).pcie1 = s.pcie1 := rfl
@[simp] theorem State.modSite_queues (f : SiteSt → SiteSt) : (s.modSite k f).queues = s.queues := rfl
@[simp] theorem State.modSite_accepted (f : SiteSt → SiteSt) : (s.modSite k f).accepted = s.accepted := rfl
@[simp] theorem State.modSite_nextSeq (f : SiteSt → SiteSt) : (s.modSite k f).nextSeq = s.nextSeq := rfl
@[simp] theorem State.modSite_lastServed (f : SiteSt → SiteSt) : (s.modSite k f).lastServed = s.lastServed := rfl
@[simp] theorem State.modSite_images (f : SiteSt → SiteSt) : (s.modSite k f).images = s.images := rfl
@[simp] theorem State.modSite_batches (f : SiteSt → SiteSt) : (s.modSite k f).batches = s.batches := rfl
@[simp] theorem State.modSite_batchEnds (f : SiteSt → SiteSt) : (s.modSite k f).batchEnds = s.batchEnds := rfl
@[simp] theorem State.modSite_tuneAccepted (f : SiteSt → SiteSt) : (s.modSite k f).tuneAccepted = s.tuneAccepted := rfl
@[simp] theorem State.modSite_tuneGaps (f : SiteSt → SiteSt) : (s.modSite k f).tuneGaps = s.tuneGaps := rfl
@[simp] theorem State.modSite_firm (f : SiteSt → SiteSt) : (s.modSite k f).firm = s.firm := rfl
@[simp] theorem State.modSite_cfg (f : SiteSt → SiteSt) : (s.modSite k f).cfg = s.cfg := rfl
@[simp] theorem State.modSite_drain (f : SiteSt → SiteSt) : (s.modSite k f).drain = s.drain := rfl
@[simp] theorem State.modSite_obs (f : SiteSt → SiteSt) : (s.modSite k f).obs = s.obs := rfl
@[simp] theorem State.modSite_out (f : SiteSt → SiteSt) : (s.modSite k f).out = s.out := rfl
@[simp] theorem State.modSite_cell' (f : SiteSt → SiteSt) : (s.modSite k f).cell j = s.cell j := rfl
@[simp] theorem State.modSite_region' (f : SiteSt → SiteSt) : (s.modSite k f).region j = s.region j := rfl
@[simp] theorem State.modSite_group' (f : SiteSt → SiteSt) : (s.modSite k f).group j = s.group j := rfl
@[simp] theorem State.modSite_phase' (f : SiteSt → SiteSt) : (s.modSite k f).phase j = s.phase j := rfl
@[simp] theorem State.modSite_sensor' (f : SiteSt → SiteSt) : (s.modSite k f).sensor j = s.sensor j := rfl
@[simp] theorem State.modSite_cd' (f : SiteSt → SiteSt) : (s.modSite k f).cd j = s.cd j := rfl
@[simp] theorem State.modSite_ctr' (f : SiteSt → SiteSt) : (s.modSite k f).ctr j = s.ctr j := rfl
@[simp] theorem State.modSite_port' (f : SiteSt → SiteSt) : (s.modSite k f).port j = s.port j := rfl
@[simp] theorem State.modSite_bank' (f : SiteSt → SiteSt) : (s.modSite k f).bank j = s.bank j := rfl
@[simp] theorem State.modSite_fmu' (f : SiteSt → SiteSt) : (s.modSite k f).fmu j = s.fmu j := rfl
@[simp] theorem State.modSite_link' (f : SiteSt → SiteSt) : (s.modSite k f).link j = s.link j := rfl
@[simp] theorem State.modSite_ce' (f : SiteSt → SiteSt) : (s.modSite k f).ce j = s.ce j := rfl
@[simp] theorem State.modSite_queue' (f : SiteSt → SiteSt) : (s.modSite k f).queue j = s.queue j := rfl
@[simp] theorem State.modSite_cset' (f : SiteSt → SiteSt) : (s.modSite k f).cset j = s.cset j := rfl
@[simp] theorem State.modSite_now (f : SiteSt → SiteSt) : (s.modSite k f).now = s.now := rfl

/-! ### fmus -/

@[simp] theorem State.modFmu_self (f : FmuSt → FmuSt) : (s.modFmu k f).fmu k = f (s.fmu k) := tget_tset_self ..
@[simp] theorem State.modFmu_ne (f : FmuSt → FmuSt) (h : j ≠ k) : (s.modFmu k f).fmu j = s.fmu j := tget_tset_ne _ _ _ _ _ h
@[simp] theorem State.modFmu_pending (f : FmuSt → FmuSt) : (s.modFmu k f).pending = s.pending := rfl
@[simp] theorem State.modFmu_drawn (f : FmuSt → FmuSt) : (s.modFmu k f).drawn = s.drawn := rfl
@[simp] theorem State.modFmu_bu (f : FmuSt → FmuSt) : (s.modFmu k f).bu = s.bu := rfl
@[simp] theorem State.modFmu_pw (f : FmuSt → FmuSt) : (s.modFmu k f).pw = s.pw := rfl
@[simp] theorem State.modFmu_regions (f : FmuSt → FmuSt) : (s.modFmu k f).regions = s.regions := rfl
@[simp] theorem State.modFmu_groups (f : FmuSt → FmuSt) : (s.modFmu k f).groups = s.groups := rfl
@[simp] theorem State.modFmu_phases (f : FmuSt → FmuSt) : (s.modFmu k f).phases = s.phases := rfl
@[simp] theorem State.modFmu_sensors (f : FmuSt → FmuSt) : (s.modFmu k f).sensors = s.sensors := rfl
@[simp] theorem State.modFmu_cells (f : FmuSt → FmuSt) : (s.modFmu k f).cells = s.cells := rfl
@[simp] theorem State.modFmu_cds (f : FmuSt → FmuSt) : (s.modFmu k f).cds = s.cds := rfl
@[simp] theorem State.modFmu_ricksHeld (f : FmuSt → FmuSt) : (s.modFmu k f).ricksHeld = s.ricksHeld := rfl
@[simp] theorem State.modFmu_arms (f : FmuSt → FmuSt) : (s.modFmu k f).arms = s.arms := rfl
@[simp] theorem State.modFmu_ctrs (f : FmuSt → FmuSt) : (s.modFmu k f).ctrs = s.ctrs := rfl
@[simp] theorem State.modFmu_syncLog (f : FmuSt → FmuSt) : (s.modFmu k f).syncLog = s.syncLog := rfl
@[simp] theorem State.modFmu_mem (f : FmuSt → FmuSt) : (s.modFmu k f).mem = s.mem := rfl
@[simp] theorem State.modFmu_marks (f : FmuSt → FmuSt) : (s.modFmu k f).marks = s.marks := rfl
@[simp] theorem State.modFmu_poison (f : FmuSt → FmuSt) : (s.modFmu k f).poison = s.poison := rfl
@[simp] theorem State.modFmu_hostMem (f : FmuSt → FmuSt) : (s.modFmu k f).hostMem = s.hostMem := rfl
@[simp] theorem State.modFmu_siteWaits (f : FmuSt → FmuSt) : (s.modFmu k f).siteWaits = s.siteWaits := rfl
@[simp] theorem State.modFmu_flaws (f : FmuSt → FmuSt) : (s.modFmu k f).flaws = s.flaws := rfl
@[simp] theorem State.modFmu_ports (f : FmuSt → FmuSt) : (s.modFmu k f).ports = s.ports := rfl
@[simp] theorem State.modFmu_protHeld (f : FmuSt → FmuSt) : (s.modFmu k f).protHeld = s.protHeld := rfl
@[simp] theorem State.modFmu_seqNext (f : FmuSt → FmuSt) : (s.modFmu k f).seqNext = s.seqNext := rfl
@[simp] theorem State.modFmu_seqRecs (f : FmuSt → FmuSt) : (s.modFmu k f).seqRecs = s.seqRecs := rfl
@[simp] theorem State.modFmu_banks (f : FmuSt → FmuSt) : (s.modFmu k f).banks = s.banks := rfl
@[simp] theorem State.modFmu_selectors (f : FmuSt → FmuSt) : (s.modFmu k f).selectors = s.selectors := rfl
@[simp] theorem State.modFmu_holds (f : FmuSt → FmuSt) : (s.modFmu k f).holds = s.holds := rfl
@[simp] theorem State.modFmu_cals (f : FmuSt → FmuSt) : (s.modFmu k f).cals = s.cals := rfl
@[simp] theorem State.modFmu_sites (f : FmuSt → FmuSt) : (s.modFmu k f).sites = s.sites := rfl
@[simp] theorem State.modFmu_siteGroups (f : FmuSt → FmuSt) : (s.modFmu k f).siteGroups = s.siteGroups := rfl
@[simp] theorem State.modFmu_allocs (f : FmuSt → FmuSt) : (s.modFmu k f).allocs = s.allocs := rfl
@[simp] theorem State.modFmu_farOps (f : FmuSt → FmuSt) : (s.modFmu k f).farOps = s.farOps := rfl
@[simp] theorem State.modFmu_links (f : FmuSt → FmuSt) : (s.modFmu k f).links = s.links := rfl
@[simp] theorem State.modFmu_ops (f : FmuSt → FmuSt) : (s.modFmu k f).ops = s.ops := rfl
@[simp] theorem State.modFmu_arrivals (f : FmuSt → FmuSt) : (s.modFmu k f).arrivals = s.arrivals := rfl
@[simp] theorem State.modFmu_tags (f : FmuSt → FmuSt) : (s.modFmu k f).tags = s.tags := rfl
@[simp] theorem State.modFmu_atoms (f : FmuSt → FmuSt) : (s.modFmu k f).atoms = s.atoms := rfl
@[simp] theorem State.modFmu_ces (f : FmuSt → FmuSt) : (s.modFmu k f).ces = s.ces := rfl
@[simp] theorem State.modFmu_fab (f : FmuSt → FmuSt) : (s.modFmu k f).fab = s.fab := rfl
@[simp] theorem State.modFmu_pcie0 (f : FmuSt → FmuSt) : (s.modFmu k f).pcie0 = s.pcie0 := rfl
@[simp] theorem State.modFmu_pcie1 (f : FmuSt → FmuSt) : (s.modFmu k f).pcie1 = s.pcie1 := rfl
@[simp] theorem State.modFmu_queues (f : FmuSt → FmuSt) : (s.modFmu k f).queues = s.queues := rfl
@[simp] theorem State.modFmu_accepted (f : FmuSt → FmuSt) : (s.modFmu k f).accepted = s.accepted := rfl
@[simp] theorem State.modFmu_nextSeq (f : FmuSt → FmuSt) : (s.modFmu k f).nextSeq = s.nextSeq := rfl
@[simp] theorem State.modFmu_lastServed (f : FmuSt → FmuSt) : (s.modFmu k f).lastServed = s.lastServed := rfl
@[simp] theorem State.modFmu_images (f : FmuSt → FmuSt) : (s.modFmu k f).images = s.images := rfl
@[simp] theorem State.modFmu_batches (f : FmuSt → FmuSt) : (s.modFmu k f).batches = s.batches := rfl
@[simp] theorem State.modFmu_batchEnds (f : FmuSt → FmuSt) : (s.modFmu k f).batchEnds = s.batchEnds := rfl
@[simp] theorem State.modFmu_tuneAccepted (f : FmuSt → FmuSt) : (s.modFmu k f).tuneAccepted = s.tuneAccepted := rfl
@[simp] theorem State.modFmu_tuneGaps (f : FmuSt → FmuSt) : (s.modFmu k f).tuneGaps = s.tuneGaps := rfl
@[simp] theorem State.modFmu_firm (f : FmuSt → FmuSt) : (s.modFmu k f).firm = s.firm := rfl
@[simp] theorem State.modFmu_cfg (f : FmuSt → FmuSt) : (s.modFmu k f).cfg = s.cfg := rfl
@[simp] theorem State.modFmu_drain (f : FmuSt → FmuSt) : (s.modFmu k f).drain = s.drain := rfl
@[simp] theorem State.modFmu_obs (f : FmuSt → FmuSt) : (s.modFmu k f).obs = s.obs := rfl
@[simp] theorem State.modFmu_out (f : FmuSt → FmuSt) : (s.modFmu k f).out = s.out := rfl
@[simp] theorem State.modFmu_cell' (f : FmuSt → FmuSt) : (s.modFmu k f).cell j = s.cell j := rfl
@[simp] theorem State.modFmu_region' (f : FmuSt → FmuSt) : (s.modFmu k f).region j = s.region j := rfl
@[simp] theorem State.modFmu_group' (f : FmuSt → FmuSt) : (s.modFmu k f).group j = s.group j := rfl
@[simp] theorem State.modFmu_phase' (f : FmuSt → FmuSt) : (s.modFmu k f).phase j = s.phase j := rfl
@[simp] theorem State.modFmu_sensor' (f : FmuSt → FmuSt) : (s.modFmu k f).sensor j = s.sensor j := rfl
@[simp] theorem State.modFmu_cd' (f : FmuSt → FmuSt) : (s.modFmu k f).cd j = s.cd j := rfl
@[simp] theorem State.modFmu_ctr' (f : FmuSt → FmuSt) : (s.modFmu k f).ctr j = s.ctr j := rfl
@[simp] theorem State.modFmu_port' (f : FmuSt → FmuSt) : (s.modFmu k f).port j = s.port j := rfl
@[simp] theorem State.modFmu_bank' (f : FmuSt → FmuSt) : (s.modFmu k f).bank j = s.bank j := rfl
@[simp] theorem State.modFmu_site' (f : FmuSt → FmuSt) : (s.modFmu k f).site j = s.site j := rfl
@[simp] theorem State.modFmu_link' (f : FmuSt → FmuSt) : (s.modFmu k f).link j = s.link j := rfl
@[simp] theorem State.modFmu_ce' (f : FmuSt → FmuSt) : (s.modFmu k f).ce j = s.ce j := rfl
@[simp] theorem State.modFmu_queue' (f : FmuSt → FmuSt) : (s.modFmu k f).queue j = s.queue j := rfl
@[simp] theorem State.modFmu_cset' (f : FmuSt → FmuSt) : (s.modFmu k f).cset j = s.cset j := rfl
@[simp] theorem State.modFmu_now (f : FmuSt → FmuSt) : (s.modFmu k f).now = s.now := rfl

/-! ### links -/

@[simp] theorem State.modLink_self (f : LinkSt → LinkSt) : (s.modLink k f).link k = f (s.link k) := tget_tset_self ..
@[simp] theorem State.modLink_ne (f : LinkSt → LinkSt) (h : j ≠ k) : (s.modLink k f).link j = s.link j := tget_tset_ne _ _ _ _ _ h
@[simp] theorem State.modLink_pending (f : LinkSt → LinkSt) : (s.modLink k f).pending = s.pending := rfl
@[simp] theorem State.modLink_drawn (f : LinkSt → LinkSt) : (s.modLink k f).drawn = s.drawn := rfl
@[simp] theorem State.modLink_bu (f : LinkSt → LinkSt) : (s.modLink k f).bu = s.bu := rfl
@[simp] theorem State.modLink_pw (f : LinkSt → LinkSt) : (s.modLink k f).pw = s.pw := rfl
@[simp] theorem State.modLink_regions (f : LinkSt → LinkSt) : (s.modLink k f).regions = s.regions := rfl
@[simp] theorem State.modLink_groups (f : LinkSt → LinkSt) : (s.modLink k f).groups = s.groups := rfl
@[simp] theorem State.modLink_phases (f : LinkSt → LinkSt) : (s.modLink k f).phases = s.phases := rfl
@[simp] theorem State.modLink_sensors (f : LinkSt → LinkSt) : (s.modLink k f).sensors = s.sensors := rfl
@[simp] theorem State.modLink_cells (f : LinkSt → LinkSt) : (s.modLink k f).cells = s.cells := rfl
@[simp] theorem State.modLink_cds (f : LinkSt → LinkSt) : (s.modLink k f).cds = s.cds := rfl
@[simp] theorem State.modLink_ricksHeld (f : LinkSt → LinkSt) : (s.modLink k f).ricksHeld = s.ricksHeld := rfl
@[simp] theorem State.modLink_arms (f : LinkSt → LinkSt) : (s.modLink k f).arms = s.arms := rfl
@[simp] theorem State.modLink_ctrs (f : LinkSt → LinkSt) : (s.modLink k f).ctrs = s.ctrs := rfl
@[simp] theorem State.modLink_syncLog (f : LinkSt → LinkSt) : (s.modLink k f).syncLog = s.syncLog := rfl
@[simp] theorem State.modLink_mem (f : LinkSt → LinkSt) : (s.modLink k f).mem = s.mem := rfl
@[simp] theorem State.modLink_marks (f : LinkSt → LinkSt) : (s.modLink k f).marks = s.marks := rfl
@[simp] theorem State.modLink_poison (f : LinkSt → LinkSt) : (s.modLink k f).poison = s.poison := rfl
@[simp] theorem State.modLink_hostMem (f : LinkSt → LinkSt) : (s.modLink k f).hostMem = s.hostMem := rfl
@[simp] theorem State.modLink_siteWaits (f : LinkSt → LinkSt) : (s.modLink k f).siteWaits = s.siteWaits := rfl
@[simp] theorem State.modLink_flaws (f : LinkSt → LinkSt) : (s.modLink k f).flaws = s.flaws := rfl
@[simp] theorem State.modLink_ports (f : LinkSt → LinkSt) : (s.modLink k f).ports = s.ports := rfl
@[simp] theorem State.modLink_protHeld (f : LinkSt → LinkSt) : (s.modLink k f).protHeld = s.protHeld := rfl
@[simp] theorem State.modLink_seqNext (f : LinkSt → LinkSt) : (s.modLink k f).seqNext = s.seqNext := rfl
@[simp] theorem State.modLink_seqRecs (f : LinkSt → LinkSt) : (s.modLink k f).seqRecs = s.seqRecs := rfl
@[simp] theorem State.modLink_banks (f : LinkSt → LinkSt) : (s.modLink k f).banks = s.banks := rfl
@[simp] theorem State.modLink_selectors (f : LinkSt → LinkSt) : (s.modLink k f).selectors = s.selectors := rfl
@[simp] theorem State.modLink_holds (f : LinkSt → LinkSt) : (s.modLink k f).holds = s.holds := rfl
@[simp] theorem State.modLink_cals (f : LinkSt → LinkSt) : (s.modLink k f).cals = s.cals := rfl
@[simp] theorem State.modLink_sites (f : LinkSt → LinkSt) : (s.modLink k f).sites = s.sites := rfl
@[simp] theorem State.modLink_siteGroups (f : LinkSt → LinkSt) : (s.modLink k f).siteGroups = s.siteGroups := rfl
@[simp] theorem State.modLink_allocs (f : LinkSt → LinkSt) : (s.modLink k f).allocs = s.allocs := rfl
@[simp] theorem State.modLink_fmus (f : LinkSt → LinkSt) : (s.modLink k f).fmus = s.fmus := rfl
@[simp] theorem State.modLink_farOps (f : LinkSt → LinkSt) : (s.modLink k f).farOps = s.farOps := rfl
@[simp] theorem State.modLink_ops (f : LinkSt → LinkSt) : (s.modLink k f).ops = s.ops := rfl
@[simp] theorem State.modLink_arrivals (f : LinkSt → LinkSt) : (s.modLink k f).arrivals = s.arrivals := rfl
@[simp] theorem State.modLink_tags (f : LinkSt → LinkSt) : (s.modLink k f).tags = s.tags := rfl
@[simp] theorem State.modLink_atoms (f : LinkSt → LinkSt) : (s.modLink k f).atoms = s.atoms := rfl
@[simp] theorem State.modLink_ces (f : LinkSt → LinkSt) : (s.modLink k f).ces = s.ces := rfl
@[simp] theorem State.modLink_fab (f : LinkSt → LinkSt) : (s.modLink k f).fab = s.fab := rfl
@[simp] theorem State.modLink_pcie0 (f : LinkSt → LinkSt) : (s.modLink k f).pcie0 = s.pcie0 := rfl
@[simp] theorem State.modLink_pcie1 (f : LinkSt → LinkSt) : (s.modLink k f).pcie1 = s.pcie1 := rfl
@[simp] theorem State.modLink_queues (f : LinkSt → LinkSt) : (s.modLink k f).queues = s.queues := rfl
@[simp] theorem State.modLink_accepted (f : LinkSt → LinkSt) : (s.modLink k f).accepted = s.accepted := rfl
@[simp] theorem State.modLink_nextSeq (f : LinkSt → LinkSt) : (s.modLink k f).nextSeq = s.nextSeq := rfl
@[simp] theorem State.modLink_lastServed (f : LinkSt → LinkSt) : (s.modLink k f).lastServed = s.lastServed := rfl
@[simp] theorem State.modLink_images (f : LinkSt → LinkSt) : (s.modLink k f).images = s.images := rfl
@[simp] theorem State.modLink_batches (f : LinkSt → LinkSt) : (s.modLink k f).batches = s.batches := rfl
@[simp] theorem State.modLink_batchEnds (f : LinkSt → LinkSt) : (s.modLink k f).batchEnds = s.batchEnds := rfl
@[simp] theorem State.modLink_tuneAccepted (f : LinkSt → LinkSt) : (s.modLink k f).tuneAccepted = s.tuneAccepted := rfl
@[simp] theorem State.modLink_tuneGaps (f : LinkSt → LinkSt) : (s.modLink k f).tuneGaps = s.tuneGaps := rfl
@[simp] theorem State.modLink_firm (f : LinkSt → LinkSt) : (s.modLink k f).firm = s.firm := rfl
@[simp] theorem State.modLink_cfg (f : LinkSt → LinkSt) : (s.modLink k f).cfg = s.cfg := rfl
@[simp] theorem State.modLink_drain (f : LinkSt → LinkSt) : (s.modLink k f).drain = s.drain := rfl
@[simp] theorem State.modLink_obs (f : LinkSt → LinkSt) : (s.modLink k f).obs = s.obs := rfl
@[simp] theorem State.modLink_out (f : LinkSt → LinkSt) : (s.modLink k f).out = s.out := rfl
@[simp] theorem State.modLink_cell' (f : LinkSt → LinkSt) : (s.modLink k f).cell j = s.cell j := rfl
@[simp] theorem State.modLink_region' (f : LinkSt → LinkSt) : (s.modLink k f).region j = s.region j := rfl
@[simp] theorem State.modLink_group' (f : LinkSt → LinkSt) : (s.modLink k f).group j = s.group j := rfl
@[simp] theorem State.modLink_phase' (f : LinkSt → LinkSt) : (s.modLink k f).phase j = s.phase j := rfl
@[simp] theorem State.modLink_sensor' (f : LinkSt → LinkSt) : (s.modLink k f).sensor j = s.sensor j := rfl
@[simp] theorem State.modLink_cd' (f : LinkSt → LinkSt) : (s.modLink k f).cd j = s.cd j := rfl
@[simp] theorem State.modLink_ctr' (f : LinkSt → LinkSt) : (s.modLink k f).ctr j = s.ctr j := rfl
@[simp] theorem State.modLink_port' (f : LinkSt → LinkSt) : (s.modLink k f).port j = s.port j := rfl
@[simp] theorem State.modLink_bank' (f : LinkSt → LinkSt) : (s.modLink k f).bank j = s.bank j := rfl
@[simp] theorem State.modLink_site' (f : LinkSt → LinkSt) : (s.modLink k f).site j = s.site j := rfl
@[simp] theorem State.modLink_fmu' (f : LinkSt → LinkSt) : (s.modLink k f).fmu j = s.fmu j := rfl
@[simp] theorem State.modLink_ce' (f : LinkSt → LinkSt) : (s.modLink k f).ce j = s.ce j := rfl
@[simp] theorem State.modLink_queue' (f : LinkSt → LinkSt) : (s.modLink k f).queue j = s.queue j := rfl
@[simp] theorem State.modLink_cset' (f : LinkSt → LinkSt) : (s.modLink k f).cset j = s.cset j := rfl
@[simp] theorem State.modLink_now (f : LinkSt → LinkSt) : (s.modLink k f).now = s.now := rfl

/-! ### ces -/

@[simp] theorem State.modCe_self (f : CeSt → CeSt) : (s.modCe k f).ce k = f (s.ce k) := tget_tset_self ..
@[simp] theorem State.modCe_ne (f : CeSt → CeSt) (h : j ≠ k) : (s.modCe k f).ce j = s.ce j := tget_tset_ne _ _ _ _ _ h
@[simp] theorem State.modCe_pending (f : CeSt → CeSt) : (s.modCe k f).pending = s.pending := rfl
@[simp] theorem State.modCe_drawn (f : CeSt → CeSt) : (s.modCe k f).drawn = s.drawn := rfl
@[simp] theorem State.modCe_bu (f : CeSt → CeSt) : (s.modCe k f).bu = s.bu := rfl
@[simp] theorem State.modCe_pw (f : CeSt → CeSt) : (s.modCe k f).pw = s.pw := rfl
@[simp] theorem State.modCe_regions (f : CeSt → CeSt) : (s.modCe k f).regions = s.regions := rfl
@[simp] theorem State.modCe_groups (f : CeSt → CeSt) : (s.modCe k f).groups = s.groups := rfl
@[simp] theorem State.modCe_phases (f : CeSt → CeSt) : (s.modCe k f).phases = s.phases := rfl
@[simp] theorem State.modCe_sensors (f : CeSt → CeSt) : (s.modCe k f).sensors = s.sensors := rfl
@[simp] theorem State.modCe_cells (f : CeSt → CeSt) : (s.modCe k f).cells = s.cells := rfl
@[simp] theorem State.modCe_cds (f : CeSt → CeSt) : (s.modCe k f).cds = s.cds := rfl
@[simp] theorem State.modCe_ricksHeld (f : CeSt → CeSt) : (s.modCe k f).ricksHeld = s.ricksHeld := rfl
@[simp] theorem State.modCe_arms (f : CeSt → CeSt) : (s.modCe k f).arms = s.arms := rfl
@[simp] theorem State.modCe_ctrs (f : CeSt → CeSt) : (s.modCe k f).ctrs = s.ctrs := rfl
@[simp] theorem State.modCe_syncLog (f : CeSt → CeSt) : (s.modCe k f).syncLog = s.syncLog := rfl
@[simp] theorem State.modCe_mem (f : CeSt → CeSt) : (s.modCe k f).mem = s.mem := rfl
@[simp] theorem State.modCe_marks (f : CeSt → CeSt) : (s.modCe k f).marks = s.marks := rfl
@[simp] theorem State.modCe_poison (f : CeSt → CeSt) : (s.modCe k f).poison = s.poison := rfl
@[simp] theorem State.modCe_hostMem (f : CeSt → CeSt) : (s.modCe k f).hostMem = s.hostMem := rfl
@[simp] theorem State.modCe_siteWaits (f : CeSt → CeSt) : (s.modCe k f).siteWaits = s.siteWaits := rfl
@[simp] theorem State.modCe_flaws (f : CeSt → CeSt) : (s.modCe k f).flaws = s.flaws := rfl
@[simp] theorem State.modCe_ports (f : CeSt → CeSt) : (s.modCe k f).ports = s.ports := rfl
@[simp] theorem State.modCe_protHeld (f : CeSt → CeSt) : (s.modCe k f).protHeld = s.protHeld := rfl
@[simp] theorem State.modCe_seqNext (f : CeSt → CeSt) : (s.modCe k f).seqNext = s.seqNext := rfl
@[simp] theorem State.modCe_seqRecs (f : CeSt → CeSt) : (s.modCe k f).seqRecs = s.seqRecs := rfl
@[simp] theorem State.modCe_banks (f : CeSt → CeSt) : (s.modCe k f).banks = s.banks := rfl
@[simp] theorem State.modCe_selectors (f : CeSt → CeSt) : (s.modCe k f).selectors = s.selectors := rfl
@[simp] theorem State.modCe_holds (f : CeSt → CeSt) : (s.modCe k f).holds = s.holds := rfl
@[simp] theorem State.modCe_cals (f : CeSt → CeSt) : (s.modCe k f).cals = s.cals := rfl
@[simp] theorem State.modCe_sites (f : CeSt → CeSt) : (s.modCe k f).sites = s.sites := rfl
@[simp] theorem State.modCe_siteGroups (f : CeSt → CeSt) : (s.modCe k f).siteGroups = s.siteGroups := rfl
@[simp] theorem State.modCe_allocs (f : CeSt → CeSt) : (s.modCe k f).allocs = s.allocs := rfl
@[simp] theorem State.modCe_fmus (f : CeSt → CeSt) : (s.modCe k f).fmus = s.fmus := rfl
@[simp] theorem State.modCe_farOps (f : CeSt → CeSt) : (s.modCe k f).farOps = s.farOps := rfl
@[simp] theorem State.modCe_links (f : CeSt → CeSt) : (s.modCe k f).links = s.links := rfl
@[simp] theorem State.modCe_ops (f : CeSt → CeSt) : (s.modCe k f).ops = s.ops := rfl
@[simp] theorem State.modCe_arrivals (f : CeSt → CeSt) : (s.modCe k f).arrivals = s.arrivals := rfl
@[simp] theorem State.modCe_tags (f : CeSt → CeSt) : (s.modCe k f).tags = s.tags := rfl
@[simp] theorem State.modCe_atoms (f : CeSt → CeSt) : (s.modCe k f).atoms = s.atoms := rfl
@[simp] theorem State.modCe_fab (f : CeSt → CeSt) : (s.modCe k f).fab = s.fab := rfl
@[simp] theorem State.modCe_pcie0 (f : CeSt → CeSt) : (s.modCe k f).pcie0 = s.pcie0 := rfl
@[simp] theorem State.modCe_pcie1 (f : CeSt → CeSt) : (s.modCe k f).pcie1 = s.pcie1 := rfl
@[simp] theorem State.modCe_queues (f : CeSt → CeSt) : (s.modCe k f).queues = s.queues := rfl
@[simp] theorem State.modCe_accepted (f : CeSt → CeSt) : (s.modCe k f).accepted = s.accepted := rfl
@[simp] theorem State.modCe_nextSeq (f : CeSt → CeSt) : (s.modCe k f).nextSeq = s.nextSeq := rfl
@[simp] theorem State.modCe_lastServed (f : CeSt → CeSt) : (s.modCe k f).lastServed = s.lastServed := rfl
@[simp] theorem State.modCe_images (f : CeSt → CeSt) : (s.modCe k f).images = s.images := rfl
@[simp] theorem State.modCe_batches (f : CeSt → CeSt) : (s.modCe k f).batches = s.batches := rfl
@[simp] theorem State.modCe_batchEnds (f : CeSt → CeSt) : (s.modCe k f).batchEnds = s.batchEnds := rfl
@[simp] theorem State.modCe_tuneAccepted (f : CeSt → CeSt) : (s.modCe k f).tuneAccepted = s.tuneAccepted := rfl
@[simp] theorem State.modCe_tuneGaps (f : CeSt → CeSt) : (s.modCe k f).tuneGaps = s.tuneGaps := rfl
@[simp] theorem State.modCe_firm (f : CeSt → CeSt) : (s.modCe k f).firm = s.firm := rfl
@[simp] theorem State.modCe_cfg (f : CeSt → CeSt) : (s.modCe k f).cfg = s.cfg := rfl
@[simp] theorem State.modCe_drain (f : CeSt → CeSt) : (s.modCe k f).drain = s.drain := rfl
@[simp] theorem State.modCe_obs (f : CeSt → CeSt) : (s.modCe k f).obs = s.obs := rfl
@[simp] theorem State.modCe_out (f : CeSt → CeSt) : (s.modCe k f).out = s.out := rfl
@[simp] theorem State.modCe_cell' (f : CeSt → CeSt) : (s.modCe k f).cell j = s.cell j := rfl
@[simp] theorem State.modCe_region' (f : CeSt → CeSt) : (s.modCe k f).region j = s.region j := rfl
@[simp] theorem State.modCe_group' (f : CeSt → CeSt) : (s.modCe k f).group j = s.group j := rfl
@[simp] theorem State.modCe_phase' (f : CeSt → CeSt) : (s.modCe k f).phase j = s.phase j := rfl
@[simp] theorem State.modCe_sensor' (f : CeSt → CeSt) : (s.modCe k f).sensor j = s.sensor j := rfl
@[simp] theorem State.modCe_cd' (f : CeSt → CeSt) : (s.modCe k f).cd j = s.cd j := rfl
@[simp] theorem State.modCe_ctr' (f : CeSt → CeSt) : (s.modCe k f).ctr j = s.ctr j := rfl
@[simp] theorem State.modCe_port' (f : CeSt → CeSt) : (s.modCe k f).port j = s.port j := rfl
@[simp] theorem State.modCe_bank' (f : CeSt → CeSt) : (s.modCe k f).bank j = s.bank j := rfl
@[simp] theorem State.modCe_site' (f : CeSt → CeSt) : (s.modCe k f).site j = s.site j := rfl
@[simp] theorem State.modCe_fmu' (f : CeSt → CeSt) : (s.modCe k f).fmu j = s.fmu j := rfl
@[simp] theorem State.modCe_link' (f : CeSt → CeSt) : (s.modCe k f).link j = s.link j := rfl
@[simp] theorem State.modCe_queue' (f : CeSt → CeSt) : (s.modCe k f).queue j = s.queue j := rfl
@[simp] theorem State.modCe_cset' (f : CeSt → CeSt) : (s.modCe k f).cset j = s.cset j := rfl
@[simp] theorem State.modCe_now (f : CeSt → CeSt) : (s.modCe k f).now = s.now := rfl

/-! ### queues -/

@[simp] theorem State.modQueue_self (f : QueueSt → QueueSt) : (s.modQueue k f).queue k = f (s.queue k) := tget_tset_self ..
@[simp] theorem State.modQueue_ne (f : QueueSt → QueueSt) (h : j ≠ k) : (s.modQueue k f).queue j = s.queue j := tget_tset_ne _ _ _ _ _ h
@[simp] theorem State.modQueue_pending (f : QueueSt → QueueSt) : (s.modQueue k f).pending = s.pending := rfl
@[simp] theorem State.modQueue_drawn (f : QueueSt → QueueSt) : (s.modQueue k f).drawn = s.drawn := rfl
@[simp] theorem State.modQueue_bu (f : QueueSt → QueueSt) : (s.modQueue k f).bu = s.bu := rfl
@[simp] theorem State.modQueue_pw (f : QueueSt → QueueSt) : (s.modQueue k f).pw = s.pw := rfl
@[simp] theorem State.modQueue_regions (f : QueueSt → QueueSt) : (s.modQueue k f).regions = s.regions := rfl
@[simp] theorem State.modQueue_groups (f : QueueSt → QueueSt) : (s.modQueue k f).groups = s.groups := rfl
@[simp] theorem State.modQueue_phases (f : QueueSt → QueueSt) : (s.modQueue k f).phases = s.phases := rfl
@[simp] theorem State.modQueue_sensors (f : QueueSt → QueueSt) : (s.modQueue k f).sensors = s.sensors := rfl
@[simp] theorem State.modQueue_cells (f : QueueSt → QueueSt) : (s.modQueue k f).cells = s.cells := rfl
@[simp] theorem State.modQueue_cds (f : QueueSt → QueueSt) : (s.modQueue k f).cds = s.cds := rfl
@[simp] theorem State.modQueue_ricksHeld (f : QueueSt → QueueSt) : (s.modQueue k f).ricksHeld = s.ricksHeld := rfl
@[simp] theorem State.modQueue_arms (f : QueueSt → QueueSt) : (s.modQueue k f).arms = s.arms := rfl
@[simp] theorem State.modQueue_ctrs (f : QueueSt → QueueSt) : (s.modQueue k f).ctrs = s.ctrs := rfl
@[simp] theorem State.modQueue_syncLog (f : QueueSt → QueueSt) : (s.modQueue k f).syncLog = s.syncLog := rfl
@[simp] theorem State.modQueue_mem (f : QueueSt → QueueSt) : (s.modQueue k f).mem = s.mem := rfl
@[simp] theorem State.modQueue_marks (f : QueueSt → QueueSt) : (s.modQueue k f).marks = s.marks := rfl
@[simp] theorem State.modQueue_poison (f : QueueSt → QueueSt) : (s.modQueue k f).poison = s.poison := rfl
@[simp] theorem State.modQueue_hostMem (f : QueueSt → QueueSt) : (s.modQueue k f).hostMem = s.hostMem := rfl
@[simp] theorem State.modQueue_siteWaits (f : QueueSt → QueueSt) : (s.modQueue k f).siteWaits = s.siteWaits := rfl
@[simp] theorem State.modQueue_flaws (f : QueueSt → QueueSt) : (s.modQueue k f).flaws = s.flaws := rfl
@[simp] theorem State.modQueue_ports (f : QueueSt → QueueSt) : (s.modQueue k f).ports = s.ports := rfl
@[simp] theorem State.modQueue_protHeld (f : QueueSt → QueueSt) : (s.modQueue k f).protHeld = s.protHeld := rfl
@[simp] theorem State.modQueue_seqNext (f : QueueSt → QueueSt) : (s.modQueue k f).seqNext = s.seqNext := rfl
@[simp] theorem State.modQueue_seqRecs (f : QueueSt → QueueSt) : (s.modQueue k f).seqRecs = s.seqRecs := rfl
@[simp] theorem State.modQueue_banks (f : QueueSt → QueueSt) : (s.modQueue k f).banks = s.banks := rfl
@[simp] theorem State.modQueue_selectors (f : QueueSt → QueueSt) : (s.modQueue k f).selectors = s.selectors := rfl
@[simp] theorem State.modQueue_holds (f : QueueSt → QueueSt) : (s.modQueue k f).holds = s.holds := rfl
@[simp] theorem State.modQueue_cals (f : QueueSt → QueueSt) : (s.modQueue k f).cals = s.cals := rfl
@[simp] theorem State.modQueue_sites (f : QueueSt → QueueSt) : (s.modQueue k f).sites = s.sites := rfl
@[simp] theorem State.modQueue_siteGroups (f : QueueSt → QueueSt) : (s.modQueue k f).siteGroups = s.siteGroups := rfl
@[simp] theorem State.modQueue_allocs (f : QueueSt → QueueSt) : (s.modQueue k f).allocs = s.allocs := rfl
@[simp] theorem State.modQueue_fmus (f : QueueSt → QueueSt) : (s.modQueue k f).fmus = s.fmus := rfl
@[simp] theorem State.modQueue_farOps (f : QueueSt → QueueSt) : (s.modQueue k f).farOps = s.farOps := rfl
@[simp] theorem State.modQueue_links (f : QueueSt → QueueSt) : (s.modQueue k f).links = s.links := rfl
@[simp] theorem State.modQueue_ops (f : QueueSt → QueueSt) : (s.modQueue k f).ops = s.ops := rfl
@[simp] theorem State.modQueue_arrivals (f : QueueSt → QueueSt) : (s.modQueue k f).arrivals = s.arrivals := rfl
@[simp] theorem State.modQueue_tags (f : QueueSt → QueueSt) : (s.modQueue k f).tags = s.tags := rfl
@[simp] theorem State.modQueue_atoms (f : QueueSt → QueueSt) : (s.modQueue k f).atoms = s.atoms := rfl
@[simp] theorem State.modQueue_ces (f : QueueSt → QueueSt) : (s.modQueue k f).ces = s.ces := rfl
@[simp] theorem State.modQueue_fab (f : QueueSt → QueueSt) : (s.modQueue k f).fab = s.fab := rfl
@[simp] theorem State.modQueue_pcie0 (f : QueueSt → QueueSt) : (s.modQueue k f).pcie0 = s.pcie0 := rfl
@[simp] theorem State.modQueue_pcie1 (f : QueueSt → QueueSt) : (s.modQueue k f).pcie1 = s.pcie1 := rfl
@[simp] theorem State.modQueue_accepted (f : QueueSt → QueueSt) : (s.modQueue k f).accepted = s.accepted := rfl
@[simp] theorem State.modQueue_nextSeq (f : QueueSt → QueueSt) : (s.modQueue k f).nextSeq = s.nextSeq := rfl
@[simp] theorem State.modQueue_lastServed (f : QueueSt → QueueSt) : (s.modQueue k f).lastServed = s.lastServed := rfl
@[simp] theorem State.modQueue_images (f : QueueSt → QueueSt) : (s.modQueue k f).images = s.images := rfl
@[simp] theorem State.modQueue_batches (f : QueueSt → QueueSt) : (s.modQueue k f).batches = s.batches := rfl
@[simp] theorem State.modQueue_batchEnds (f : QueueSt → QueueSt) : (s.modQueue k f).batchEnds = s.batchEnds := rfl
@[simp] theorem State.modQueue_tuneAccepted (f : QueueSt → QueueSt) : (s.modQueue k f).tuneAccepted = s.tuneAccepted := rfl
@[simp] theorem State.modQueue_tuneGaps (f : QueueSt → QueueSt) : (s.modQueue k f).tuneGaps = s.tuneGaps := rfl
@[simp] theorem State.modQueue_firm (f : QueueSt → QueueSt) : (s.modQueue k f).firm = s.firm := rfl
@[simp] theorem State.modQueue_cfg (f : QueueSt → QueueSt) : (s.modQueue k f).cfg = s.cfg := rfl
@[simp] theorem State.modQueue_drain (f : QueueSt → QueueSt) : (s.modQueue k f).drain = s.drain := rfl
@[simp] theorem State.modQueue_obs (f : QueueSt → QueueSt) : (s.modQueue k f).obs = s.obs := rfl
@[simp] theorem State.modQueue_out (f : QueueSt → QueueSt) : (s.modQueue k f).out = s.out := rfl
@[simp] theorem State.modQueue_cell' (f : QueueSt → QueueSt) : (s.modQueue k f).cell j = s.cell j := rfl
@[simp] theorem State.modQueue_region' (f : QueueSt → QueueSt) : (s.modQueue k f).region j = s.region j := rfl
@[simp] theorem State.modQueue_group' (f : QueueSt → QueueSt) : (s.modQueue k f).group j = s.group j := rfl
@[simp] theorem State.modQueue_phase' (f : QueueSt → QueueSt) : (s.modQueue k f).phase j = s.phase j := rfl
@[simp] theorem State.modQueue_sensor' (f : QueueSt → QueueSt) : (s.modQueue k f).sensor j = s.sensor j := rfl
@[simp] theorem State.modQueue_cd' (f : QueueSt → QueueSt) : (s.modQueue k f).cd j = s.cd j := rfl
@[simp] theorem State.modQueue_ctr' (f : QueueSt → QueueSt) : (s.modQueue k f).ctr j = s.ctr j := rfl
@[simp] theorem State.modQueue_port' (f : QueueSt → QueueSt) : (s.modQueue k f).port j = s.port j := rfl
@[simp] theorem State.modQueue_bank' (f : QueueSt → QueueSt) : (s.modQueue k f).bank j = s.bank j := rfl
@[simp] theorem State.modQueue_site' (f : QueueSt → QueueSt) : (s.modQueue k f).site j = s.site j := rfl
@[simp] theorem State.modQueue_fmu' (f : QueueSt → QueueSt) : (s.modQueue k f).fmu j = s.fmu j := rfl
@[simp] theorem State.modQueue_link' (f : QueueSt → QueueSt) : (s.modQueue k f).link j = s.link j := rfl
@[simp] theorem State.modQueue_ce' (f : QueueSt → QueueSt) : (s.modQueue k f).ce j = s.ce j := rfl
@[simp] theorem State.modQueue_cset' (f : QueueSt → QueueSt) : (s.modQueue k f).cset j = s.cset j := rfl
@[simp] theorem State.modQueue_now (f : QueueSt → QueueSt) : (s.modQueue k f).now = s.now := rfl

/-! ### cfg -/

@[simp] theorem State.modCset_self (f : CfgSet → CfgSet) : (s.modCset k f).cset k = f (s.cset k) := tget_tset_self ..
@[simp] theorem State.modCset_ne (f : CfgSet → CfgSet) (h : j ≠ k) : (s.modCset k f).cset j = s.cset j := tget_tset_ne _ _ _ _ _ h
@[simp] theorem State.modCset_pending (f : CfgSet → CfgSet) : (s.modCset k f).pending = s.pending := rfl
@[simp] theorem State.modCset_drawn (f : CfgSet → CfgSet) : (s.modCset k f).drawn = s.drawn := rfl
@[simp] theorem State.modCset_bu (f : CfgSet → CfgSet) : (s.modCset k f).bu = s.bu := rfl
@[simp] theorem State.modCset_pw (f : CfgSet → CfgSet) : (s.modCset k f).pw = s.pw := rfl
@[simp] theorem State.modCset_regions (f : CfgSet → CfgSet) : (s.modCset k f).regions = s.regions := rfl
@[simp] theorem State.modCset_groups (f : CfgSet → CfgSet) : (s.modCset k f).groups = s.groups := rfl
@[simp] theorem State.modCset_phases (f : CfgSet → CfgSet) : (s.modCset k f).phases = s.phases := rfl
@[simp] theorem State.modCset_sensors (f : CfgSet → CfgSet) : (s.modCset k f).sensors = s.sensors := rfl
@[simp] theorem State.modCset_cells (f : CfgSet → CfgSet) : (s.modCset k f).cells = s.cells := rfl
@[simp] theorem State.modCset_cds (f : CfgSet → CfgSet) : (s.modCset k f).cds = s.cds := rfl
@[simp] theorem State.modCset_ricksHeld (f : CfgSet → CfgSet) : (s.modCset k f).ricksHeld = s.ricksHeld := rfl
@[simp] theorem State.modCset_arms (f : CfgSet → CfgSet) : (s.modCset k f).arms = s.arms := rfl
@[simp] theorem State.modCset_ctrs (f : CfgSet → CfgSet) : (s.modCset k f).ctrs = s.ctrs := rfl
@[simp] theorem State.modCset_syncLog (f : CfgSet → CfgSet) : (s.modCset k f).syncLog = s.syncLog := rfl
@[simp] theorem State.modCset_mem (f : CfgSet → CfgSet) : (s.modCset k f).mem = s.mem := rfl
@[simp] theorem State.modCset_marks (f : CfgSet → CfgSet) : (s.modCset k f).marks = s.marks := rfl
@[simp] theorem State.modCset_poison (f : CfgSet → CfgSet) : (s.modCset k f).poison = s.poison := rfl
@[simp] theorem State.modCset_hostMem (f : CfgSet → CfgSet) : (s.modCset k f).hostMem = s.hostMem := rfl
@[simp] theorem State.modCset_siteWaits (f : CfgSet → CfgSet) : (s.modCset k f).siteWaits = s.siteWaits := rfl
@[simp] theorem State.modCset_flaws (f : CfgSet → CfgSet) : (s.modCset k f).flaws = s.flaws := rfl
@[simp] theorem State.modCset_ports (f : CfgSet → CfgSet) : (s.modCset k f).ports = s.ports := rfl
@[simp] theorem State.modCset_protHeld (f : CfgSet → CfgSet) : (s.modCset k f).protHeld = s.protHeld := rfl
@[simp] theorem State.modCset_seqNext (f : CfgSet → CfgSet) : (s.modCset k f).seqNext = s.seqNext := rfl
@[simp] theorem State.modCset_seqRecs (f : CfgSet → CfgSet) : (s.modCset k f).seqRecs = s.seqRecs := rfl
@[simp] theorem State.modCset_banks (f : CfgSet → CfgSet) : (s.modCset k f).banks = s.banks := rfl
@[simp] theorem State.modCset_selectors (f : CfgSet → CfgSet) : (s.modCset k f).selectors = s.selectors := rfl
@[simp] theorem State.modCset_holds (f : CfgSet → CfgSet) : (s.modCset k f).holds = s.holds := rfl
@[simp] theorem State.modCset_cals (f : CfgSet → CfgSet) : (s.modCset k f).cals = s.cals := rfl
@[simp] theorem State.modCset_sites (f : CfgSet → CfgSet) : (s.modCset k f).sites = s.sites := rfl
@[simp] theorem State.modCset_siteGroups (f : CfgSet → CfgSet) : (s.modCset k f).siteGroups = s.siteGroups := rfl
@[simp] theorem State.modCset_allocs (f : CfgSet → CfgSet) : (s.modCset k f).allocs = s.allocs := rfl
@[simp] theorem State.modCset_fmus (f : CfgSet → CfgSet) : (s.modCset k f).fmus = s.fmus := rfl
@[simp] theorem State.modCset_farOps (f : CfgSet → CfgSet) : (s.modCset k f).farOps = s.farOps := rfl
@[simp] theorem State.modCset_links (f : CfgSet → CfgSet) : (s.modCset k f).links = s.links := rfl
@[simp] theorem State.modCset_ops (f : CfgSet → CfgSet) : (s.modCset k f).ops = s.ops := rfl
@[simp] theorem State.modCset_arrivals (f : CfgSet → CfgSet) : (s.modCset k f).arrivals = s.arrivals := rfl
@[simp] theorem State.modCset_tags (f : CfgSet → CfgSet) : (s.modCset k f).tags = s.tags := rfl
@[simp] theorem State.modCset_atoms (f : CfgSet → CfgSet) : (s.modCset k f).atoms = s.atoms := rfl
@[simp] theorem State.modCset_ces (f : CfgSet → CfgSet) : (s.modCset k f).ces = s.ces := rfl
@[simp] theorem State.modCset_fab (f : CfgSet → CfgSet) : (s.modCset k f).fab = s.fab := rfl
@[simp] theorem State.modCset_pcie0 (f : CfgSet → CfgSet) : (s.modCset k f).pcie0 = s.pcie0 := rfl
@[simp] theorem State.modCset_pcie1 (f : CfgSet → CfgSet) : (s.modCset k f).pcie1 = s.pcie1 := rfl
@[simp] theorem State.modCset_queues (f : CfgSet → CfgSet) : (s.modCset k f).queues = s.queues := rfl
@[simp] theorem State.modCset_accepted (f : CfgSet → CfgSet) : (s.modCset k f).accepted = s.accepted := rfl
@[simp] theorem State.modCset_nextSeq (f : CfgSet → CfgSet) : (s.modCset k f).nextSeq = s.nextSeq := rfl
@[simp] theorem State.modCset_lastServed (f : CfgSet → CfgSet) : (s.modCset k f).lastServed = s.lastServed := rfl
@[simp] theorem State.modCset_images (f : CfgSet → CfgSet) : (s.modCset k f).images = s.images := rfl
@[simp] theorem State.modCset_batches (f : CfgSet → CfgSet) : (s.modCset k f).batches = s.batches := rfl
@[simp] theorem State.modCset_batchEnds (f : CfgSet → CfgSet) : (s.modCset k f).batchEnds = s.batchEnds := rfl
@[simp] theorem State.modCset_tuneAccepted (f : CfgSet → CfgSet) : (s.modCset k f).tuneAccepted = s.tuneAccepted := rfl
@[simp] theorem State.modCset_tuneGaps (f : CfgSet → CfgSet) : (s.modCset k f).tuneGaps = s.tuneGaps := rfl
@[simp] theorem State.modCset_firm (f : CfgSet → CfgSet) : (s.modCset k f).firm = s.firm := rfl
@[simp] theorem State.modCset_drain (f : CfgSet → CfgSet) : (s.modCset k f).drain = s.drain := rfl
@[simp] theorem State.modCset_obs (f : CfgSet → CfgSet) : (s.modCset k f).obs = s.obs := rfl
@[simp] theorem State.modCset_out (f : CfgSet → CfgSet) : (s.modCset k f).out = s.out := rfl
@[simp] theorem State.modCset_cell' (f : CfgSet → CfgSet) : (s.modCset k f).cell j = s.cell j := rfl
@[simp] theorem State.modCset_region' (f : CfgSet → CfgSet) : (s.modCset k f).region j = s.region j := rfl
@[simp] theorem State.modCset_group' (f : CfgSet → CfgSet) : (s.modCset k f).group j = s.group j := rfl
@[simp] theorem State.modCset_phase' (f : CfgSet → CfgSet) : (s.modCset k f).phase j = s.phase j := rfl
@[simp] theorem State.modCset_sensor' (f : CfgSet → CfgSet) : (s.modCset k f).sensor j = s.sensor j := rfl
@[simp] theorem State.modCset_cd' (f : CfgSet → CfgSet) : (s.modCset k f).cd j = s.cd j := rfl
@[simp] theorem State.modCset_ctr' (f : CfgSet → CfgSet) : (s.modCset k f).ctr j = s.ctr j := rfl
@[simp] theorem State.modCset_port' (f : CfgSet → CfgSet) : (s.modCset k f).port j = s.port j := rfl
@[simp] theorem State.modCset_bank' (f : CfgSet → CfgSet) : (s.modCset k f).bank j = s.bank j := rfl
@[simp] theorem State.modCset_site' (f : CfgSet → CfgSet) : (s.modCset k f).site j = s.site j := rfl
@[simp] theorem State.modCset_fmu' (f : CfgSet → CfgSet) : (s.modCset k f).fmu j = s.fmu j := rfl
@[simp] theorem State.modCset_link' (f : CfgSet → CfgSet) : (s.modCset k f).link j = s.link j := rfl
@[simp] theorem State.modCset_ce' (f : CfgSet → CfgSet) : (s.modCset k f).ce j = s.ce j := rfl
@[simp] theorem State.modCset_queue' (f : CfgSet → CfgSet) : (s.modCset k f).queue j = s.queue j := rfl
@[simp] theorem State.modCset_now (f : CfgSet → CfgSet) : (s.modCset k f).now = s.now := rfl

end Sys2Proof.Machine
end

