-- ==== Sys2Proof/Tests/Slice0.lean ====
section
/-!
SUPPORT. The model's own tests: the checks of WellFormed refuse an ill-formed command each, and the hypotheses of every statement
can be met.
-/
namespace Sys2Proof.Tests

open Sys2Proof.Machine

set_option maxRecDepth 8000
set_option Elab.async false
set_option linter.all false

/-- Whether an outcome is a given next state. -/
def nextIs (o : Host.Outcome State Fault Refusal) (t : State) : Bool :=
  match o with
  | .next u => u == t
  | _ => false

theorem next_of {o : Host.Outcome State Fault Refusal} {t : State} (h : nextIs o t = true) : o = .next t := by
  unfold nextIs at h
  split at h
  · rw [eq_of_beq h]
  · cases h

/-- A submission entry: opcode, tag 0x101, turf, ARG0 to ARG5. -/
def tEntry (op t : Nat) (args : List Nat) : BitVec 512 :=
  BitVec.ofNat 512 (op + 0x101 * 2 ^ 32 + t * 2 ^ 64 + (args.zipIdx.map (fun x => x.1 * 2 ^ (128 + 64 * x.2))).sum)

/-- Queue 0 open on host rings, with one accepted command in slot 0. -/
def tCmd (op : Nat) (args : List Nat) : State :=
  { State.reset with
    pcie0 := { linkUp := true, perst := false }
    queues := [(0, { state := .opened, cqAddr := 0x100000 })]
    accepted := [{ q := 0, slot := 0, seq := 0, entry := tEntry op 0 args }]
    cfg := [(3, { active := memWrite [] 0x40 [1, 0, 0, 0, 0, 0, 8, 0, 0, 0, 0, 0, 0, 4] })] }

/-- The accepted command of tCmd. -/
def tAcc (op : Nat) (args : List Nat) : Accepted := { q := 0, slot := 0, seq := 0, entry := tEntry op 0 args }

/-- Queue 0 open and queue 4095 in a state. -/
def tQueues (x : QState) : Tbl QueueSt := [(0, { state := .opened, cqAddr := 0x100000 }), (4095, { state := x })]

/-- Endpoint 64 belongs to module 5. -/
def tPeer : FabricSt := { epTable := [(512, 1), (514, 5)] }

/-- Turf 0 is valid, holds quotas, every copy engine, region 0, range 0 of site 0 and range 0 of far unit 0. -/
def tOwner : Tbl CfgSet :=
  let m := memWrite [] 0x40 ([1, 0, 0, 0, 0, 0, 8, 0, 0, 0, 0, 0, 0, 4, 0, 0] ++ List.replicate 8 255)
  [(3, { active := memWrite (memWrite (memWrite m 0x840 [128]) 0x880 [128]) 0xE80 [128] })]

/-- Queue 0 open on rings of 16 entries, in host or in module memory, with one entry to fetch and Cordwood running. -/
def tFetch (module : Bool) : State :=
  { State.reset with
    bu := { cordwoodUp := true }
    pcie0 := { linkUp := true, perst := false }
    queues := [(0, {
      state := .opened, sqMod := module, sqAddr := if module then 0x0010000000000000 else 0x100000, sqTail := 1 })] }

/-- A region on its way to S0 from S1. -/
def tWaking : Waking := { step := 0, attempt := 0, fromS4 := false }

/-- A drained swap of turf 0's calendar that has waited from count 0. -/
def tDrain : Drain := { routing := false, turf := 0, cmd := (0, 0), epoch := 1, since := 0 }

/-- A settings bank of SEQ 1, and its write. -/
def tBank : SetBank := { valid := false, seq := 1 }
def tWrite : BankWrite := { heartwood := false, bankB := false, settings := some tBank }

/-- A ready image of turf 0 that uses nothing. -/
def tImage : ImageSt := {
  turf := 0, seed := 0, regionMask := 0, siteMask := 0, fmuMask := 0, ceMask := 0, columns := 0, period := 1, ctrBase := 128
  ctrInit := [], buckets := [(0, 1, [])], cells := [], groups := [], placements := [], retained := [], reloc1 := [], cellSec := []
  cal := {}, groupDefs := [], ready := true }

/-- An endpoint table in which every registered place of the module is its own endpoint. -/
def tEps : Memory := ((List.range 50).filter (fun i => decide (i < 40 ∨ 48 ≤ i))).flatMap (fun i =>
  if i = 0 then [(0, 3)] else [(8 * i, 3), (8 * i + 1, BitVec.ofNat 8 i)])

/-- A turf map in which turf 0 is valid, active and shadow. -/
def tTurfs : Tbl CfgSet := [(3, { active := [(64, 1)], shadow := [(64, 1)] })]

/-- Counter 128 leased to queue 0 of turf 0. -/
def tLease : Tbl Ctr := [(128, { owner := .leased 0 0 })]

/-- A batch of turf 0 that waits, of no region. -/
def tBatch : BatchSt :=
  { handle := 7, bucket := 0, q := 0, slot := 1, seq := 0, regions := 0, hostCount := false, startCount := 0, attempt := 0 }

/-- A step word of a class and operation byte with a body. -/
def tWord (body op : Nat) : BitVec 256 := BitVec.ofNat 256 (op * 2 ^ 248 + body)

/-- The last cell running with one step to issue. -/
def tStep (body op : Nat) : State := { State.reset with cells := [(4095, { running := true, steps := [tWord body op] })] }

/-- A vector step in flight. -/
def tFlight : InFlight := { unit := .vec, readsV := [], writesV := [1], writesL := [], acc := [], postT := 0, postN := 0, effects := [] }

/-- The last cell running, with one entry at its second engine. -/
def tAe (w : BitVec 512) : State := { State.reset with cells := [(4095, { running := true, ae1 := { table := [w] } })] }

/-- A repeat with nothing left to do, and a refused operation of it. -/
def tRep : AeRep := { id := 0, post := 0, opsLeft := 0, layer := 0, operator := 0, nackAct := 0 }
def tAeOp : AeOp := { tag := 5, isLoad := true, addr := 0, loc := 0, len := 256, rep := 0, refusedAt := some 0 }

/-- An operation of unit 5 with tag 9, sent at count 0. -/
def tOp (op : Nat) : TomicOp := { unit := 5, tag := 9, pkt := { hdr := mkHdr op 0 0 0 0 5 9 0 0 0 }, turf := 0, sentAt := 0 }

/-- An empty descriptor of turf 0, and the header of a 256 B store to an address. -/
def tDesc : CeDesc := { raw := 0, turf := 0 }
def tStore (a : Nat) : Packet := { hdr := mkHdr 2 0 0 0 256 0 1 0 (BitVec.ofNat 64 a) 0 }

/-- A far-link frame of a type with nothing in it, a far-destined billet of the last edge port's slot 0, and a calendar entry of a slot. -/
def tFrame (ty : Nat) : Bytes := (List.range 560).map (fun i => if i = 4 then BitVec.ofNat 8 ty else 0)
def tBillet : FarBillet := { port := 2815, slot := 0, isWrite := true, off := 0 }
def tEntryAt (n : Nat) : BitVec 256 := BitVec.ofNat 256 (n + (2 ^ 32 - 1) * 2 ^ 224)

/-- The identity message of the last sublink of a far unit with the least credits. -/
def tIdent : Bytes := padTo 512 ([1, 0, 1, 1, 1, 7] ++ List.replicate 14 0 ++ [1, 0, 0, 0, 0, 0, 0, 0] ++ [32, 0, 32, 0, 32, 0] ++ List.replicate 4 0 ++ [4, 0]
  ++ List.replicate 6 0 ++ [64, 0])

/-- A sealed frame header of a kind with a calendar epoch and a payload check. -/
def tHeader (kind epoch crc : Nat) : BitVec 512 :=
  sealHdr (List.replicate 16 0 ++ natLe 1 kind ++ List.replicate 5 0 ++ natLe 2 epoch ++ List.replicate 32 0 ++ natLe 4 crc)

/-- A payload whose first four bytes take the check register to zero. -/
def tPayload : Bytes := List.replicate 4 255 ++ List.replicate 8188 0

theorem test_payload_length : tPayload.length = 8192 := by
  rw [tPayload, List.length_append, List.length_replicate, List.length_replicate]

theorem test_crc_zeros (n : Nat) : (List.replicate n (0 : Byte)).foldl (crcByte 0x82F63B78) 0 = 0 := by
  induction n with
  | zero => rfl
  | succ n ih => rw [List.replicate_succ, List.foldl_cons, show crcByte 0x82F63B78 0 0 = 0 from by decide, ih]

theorem test_payload_crc : crc32c tPayload = 0xFFFFFFFF := by
  rw [crc32c, tPayload, List.foldl_append, show (List.replicate 4 (255 : Byte)).foldl (crcByte 0x82F63B78) 0xFFFFFFFF = 0 from by decide +kernel,
    test_crc_zeros]
  rfl

/-- A billet on its way from port 1024, the frame kept of it, and a Dynamic packet. -/
def tPending : PendingBillet := { slot := 0, consume := 8, src := 1024, turf := 0 }
def tHeld : BilletSt := { port := 1088, slot := 0, hdr := 0, payload := [] }
def tDyn : DynPkt := { id := 1, dst := 0, turf := 63, vc := 7, pkt := { hdr := 0 } }

/-- A schedule image of turf 0 that names no region: header, three directory entries, one BUCKETS record. -/
def tSchedule : Bytes :=
  let h0 := natLe 4 0x474D494B ++ natLe 2 1 ++ natLe 2 0 ++ [0, 1] ++ natLe 2 3 ++ List.replicate 44 0 ++ natLe 4 32 ++ natLe 4 0 ++ natLe 8 480
  let h1 := List.replicate 176 0
  let dir := natLe 4 1 ++ natLe 4 0 ++ natLe 8 384 ++ natLe 8 0 ++ natLe 4 2 ++ natLe 4 0 ++ natLe 8 384 ++ natLe 8 0
    ++ natLe 4 9 ++ natLe 4 1 ++ natLe 8 384 ++ natLe 8 96 ++ List.replicate 56 0
  let body := dir ++ List.replicate 96 0
  h0 ++ natLe 8 ((h0 ++ natLe 8 0 ++ h1 ++ body).foldl crc64Byte 0) ++ h1 ++ body

/-- What loading it enters. -/
def tLoaded : ImageSt :=
  { turf := 0, seed := 0, regionMask := 0, siteMask := 0, fmuMask := 0, ceMask := 0, columns := 0, period := 32, ctrBase := 128
    ctrInit := [], buckets := [(0, 0, List.replicate 16 0)], cells := [], groups := [], placements := [], retained := [], reloc1 := []
    cellSec := [], cal := { period := 32 }, groupDefs := [] }

/-- Both data channels of fibre 95 in service. -/
def tFibre : Tbl LinkSt := [(349, { state := .inService }), (350, { state := .inService })]

/-- An outstanding role request on fibre 95, and an answer to it. -/
def tRole : FabricSt := { roles := [(95, { pending := some (40000, 7), want := true })] }
def tAnswer (result : Nat) : Bytes := List.replicate 4 0 ++ natLe 1 result ++ List.replicate 19 0 ++ natLe 4 7 ++ List.replicate 484 0

/-- A join message that carries a module's own UID at an offset. -/
def tNamed (off : Nat) (pre : Bytes) : Bytes := padTo off pre ++ natLe 8 Config.uid.toNat ++ List.replicate 40 0

/-- A message of one module about another: both fields carry UIDs. -/
def tTwice : Bytes := padTo 8 [] ++ natLe 8 (Config.uid + 1).toNat ++ padTo 8 [] ++ natLe 8 Config.uid.toNat ++ List.replicate 40 0

theorem test_uid_field (x : DWord) (off : Nat) (pre post : Bytes) (h : pre.length = off) :
    BitVec.ofNat 64 (leAt (pre ++ natLe 8 x.toNat ++ post) off 8) = x := by
  subst h
  rw [leAt_field]
  apply BitVec.eq_of_toNat_eq
  rw [BitVec.toNat_ofNat, show (256 ^ 8 : Nat) = 2 ^ 64 from rfl, Nat.mod_mod, Nat.mod_eq_of_lt x.isLt]

theorem test_named (off : Nat) (pre : Bytes) : BitVec.ofNat 64 (leAt (tNamed off pre) off 8) = Config.uid :=
  test_uid_field _ off _ _ (by simp)

theorem test_next_uid : Config.uid + 1 ≠ Config.uid := by
  intro h
  have := congrArg BitVec.toNat h
  simp [BitVec.toNat_add] at this
  omega

/-- The other module as a founder's list holds it. -/
def tMember (n : Option Word) : Member := { uid := Config.uid + 1, number := 1, nonce := n }

theorem test_twice :
    BitVec.ofNat 64 (leAt tTwice 24 8) = Config.uid ∧ BitVec.ofNat 64 (leAt tTwice 8 8) ≠ Config.uid
      ∧ ∀ n, [tMember n].find? (fun x => x.uid == BitVec.ofNat 64 (leAt tTwice 8 8)) = some (tMember n) := by
  have h1 : BitVec.ofNat 64 (leAt tTwice 24 8) = Config.uid := test_uid_field _ 24 _ _ (by simp)
  have h2 : BitVec.ofNat 64 (leAt tTwice 8 8) = Config.uid + 1 := by
    rw [tTwice, List.append_assoc, List.append_assoc]
    exact test_uid_field _ 8 _ _ (by simp)
  rw [h1, h2]
  exact ⟨rfl, test_next_uid, fun n => by simp [tMember]⟩

/-- The last fibre's link in service, the module at a place in joining. -/
def tJoin (f : FabricSt) : State := { State.reset with links := tFibre, fab := f }

/-- A message in its turn is taken. -/
theorem test_taken {s : State} {l vc : Nat} {seq : Half} (h : (s.link l).state = .inService)
    (hs : ((s.modLink l (fun x => { x with lastGood := s.now })).acceptSeq l seq.toNat).2 = true) :
    s.takesMessage l vc seq (((s.modLink l (fun x => { x with lastGood := s.now })).acceptSeq l seq.toNat).1.returnCredits l vc 1 0) :=
  ⟨h, _, Prod.ext rfl hs, rfl⟩

/-- A fabric frame without a packet, with its check. -/
def tIdleFrame : Bytes := List.replicate 44 0 ++ natLe 4 (crc32c (List.replicate 44 0))

/-- An Ash record of turf 0. -/
def tAsh : AshRec := { id := 1, turf := 0, trigger := 0, gtc := 0, data := [1, 2, 3, 4], pinned := true }

/-- A firmware image in force. -/
def tFw : FwImage := { kind := 2, key := 0, revokeLower := false, release := 1, svn := 0, peerMin := 0, length := 0, bodyHash := [] }

/-- Four management cores in given roles. -/
def tCores (a b c d : McRole) : Tbl McSt := [(0, { role := a }), (1, { role := b }), (2, { role := c }), (3, { role := d })]

/-- A gate request of turf 0 for slot 0 of queue 0, with tag 0x101 and the arguments 1 and 2. -/
def tGate (service : Nat) : BitVec 512 := BitVec.ofNat 512 (service + 0x101 * 2 ^ 64 + 1 * 2 ^ 128 + 2 * 2 ^ 192)

/-- The bring-up island up after a step. -/
def tWindow (lastDone : Nat) : State := { State.reset with bu := { islandUp := true, lastDone := lastDone } }

/-- Sound rails, bumps and fuses. -/
def tBase : BaseObs :=
  { badGroup := none, bumps := [1, 2, 4, 8]
    fuses := (List.range 4).flatMap (fun i =>
      ((List.range 4).map (fun j => 0x1000 + 4 * i + j) ++ (List.range 6).map (fun j => 0x2000 + 6 * i + j)).map
        (fun w => { word := BitVec.ofNat 16 w, checkOk := true }))
    votingCores := 3 }

/-- A Heartwood patch. -/
def tPatch : FwImage := { tFw with kind := 1 }

/-- A patch of key slot 2 that revokes the slots below it. -/
def tRevoker : FwImage := { tFw with kind := 1, key := 2, revokeLower := true }

/-- LOAD_HEARTWOOD of that patch runs for the first time; slot 0 is revoked already. -/
def tBoot : State :=
  { State.reset with bu := { state := 1, step := 5 }, firm := { runningHw := some tRevoker, revoked := [0] } }

/-- The step has ended: the patch has booted. -/
def tBooted : State :=
  let t := tBoot.endStep 0 tBoot.bu.outcome.2
  ({ t with bu := { t.bu with lastDone := 5 } } : State).bankBooted

/-- Counter 200 of an image of turf 0 stands at 5. -/
def tCounter : State := { State.reset with ctrs := [(200, { value := 5, owner := .image 0 })] }

/-- An atomic's packet. -/
def tAtom (op otype : Nat) : Packet := { hdr := mkHdr op otype 0 0 0 0 0 0 0 5, data := [], poison := false }

/-- Service core 0 with items in its rick. -/
def tRicks (items : List (List (BitVec 128))) (cur : Option (List (BitVec 128) × Nat)) : State :=
  { State.reset with firm := { scs := [(0, { rick := { items := items, cur := cur } })] } }

/-- Queue 1 of turf 3 with an entry pending; queue 0 has none. -/
def tFetch3 : State :=
  { State.reset with
    bu := { cordwoodUp := true }
    queues := [(1, { state := .opened, turf := 3, sqTail := 1 })] }

/-- The 64 bytes of an entry of turf 3 with an opcode and bytes 14 and 15. -/
def tEntryBytes (op reserved : Nat) : Bytes := natLe 64 (op + 3 * 2 ^ 64 + reserved * 2 ^ 112)

/-- The clocks run with LOR_COMPAT in force. -/
def tLor : State := { State.reset with pw := { gtcRunning := true }, cfg := [(1, { active := memWrite [] 108 [1] })] }

/-- The hypotheses of every clause of QueueCommandsComplete can all be met. -/
theorem test_QueueCommandsComplete_witness :
    (∃ (q : QueueIx) (slot : SlotIx) (s : State) (u : State) (a : Accepted), u = s.beginCmd a ∧ s.ready q slot 0x0000 a)
    ∧ (∃ (q : QueueIx) (slot : SlotIx) (s : State) (u : State) (a : Accepted) (n : Nat), u = s.beginCmd a ∧ s.ready q slot 0x0001 a ∧ openBad a.entry = false ∧ turfValid u.turfMap (sqTurf a.entry) = true ∧ (((sqArg a.entry 3).testBit 8 = true →
          u.ringRefusal (sqTurf a.entry) (sqArg a.entry 1) (64 * 2 ^ bits (sqArg a.entry 3) 3 0) = none)) ∧ (((sqArg a.entry 3).testBit 9 = true →
          u.ringRefusal (sqTurf a.entry) (sqArg a.entry 2) (16 * 2 ^ bits (sqArg a.entry 3) 7 4) = none)) ∧ sqArg a.entry 4 = 0 ∧ ((sqArg a.entry 0 = n ∧ n ≠ 0 ∨ sqArg a.entry 0 = 0 ∧ u.lowestQueue 1 4095 = some n)) ∧ (u.queue n).state = .closed ∧ u.queuesHeld (sqTurf a.entry) < queueQuota u.turfMap (sqTurf a.entry))
    ∧ (∃ (q : QueueIx) (slot : SlotIx) (s : State) (u : State) (a : Accepted) (n : Nat) (d : Nat), u = s.beginCmd a ∧ s.ready q slot 0x0001 a ∧ openBad a.entry = false ∧ turfValid u.turfMap (sqTurf a.entry) = true ∧ (((sqArg a.entry 3).testBit 8 = true →
          u.ringRefusal (sqTurf a.entry) (sqArg a.entry 1) (64 * 2 ^ bits (sqArg a.entry 3) 3 0) = none)) ∧ (((sqArg a.entry 3).testBit 9 = true →
          u.ringRefusal (sqTurf a.entry) (sqArg a.entry 2) (16 * 2 ^ bits (sqArg a.entry 3) 7 4) = none)) ∧ sqArg a.entry 4 ≠ 0 ∧ u.epPresent (sqArg a.entry 4) = true ∧ u.localIx (sqArg a.entry 4) = none ∧ ((sqArg a.entry 0 = n ∧ n ≠ 0 ∨ sqArg a.entry 0 = 0 ∧ u.lowestQueue 4096 4096 = some n)) ∧ (u.queue n).state = .closed ∧ u.queuesHeld (sqTurf a.entry) < queueQuota u.turfMap (sqTurf a.entry) ∧ (tget u.fab.pairs {} (u.peerOf (sqArg a.entry 4))).state ≠ 1 ∧ u.lowestPair = some d ∧ u.syncHeld (sqTurf a.entry) + 2 ≤ syncQuota u.turfMap (sqTurf a.entry))
    ∧ (∃ (q : QueueIx) (slot : SlotIx) (s : State) (u : State) (a : Accepted), u = s.beginCmd a ∧ s.ready q slot 0x0002 a ∧ sqArg a.entry 0 ≠ 0 ∧ (u.queue (sqArg a.entry 0)).state = .closed)
    ∧ (∃ (q : QueueIx) (slot : SlotIx) (s : State) (u : State) (a : Accepted), u = s.beginCmd a ∧ s.ready q slot 0x0002 a ∧ sqArg a.entry 0 ≠ 0 ∧ (u.queue (sqArg a.entry 0)).state = .closing)
    ∧ (∃ (q : QueueIx) (slot : SlotIx) (s : State) (u : State) (a : Accepted), u = s.beginCmd a ∧ s.ready q slot 0x0002 a ∧ sqArg a.entry 0 ≠ 0 ∧ ((u.queue (sqArg a.entry 0)).state = .opened ∨ (u.queue (sqArg a.entry 0)).state = .error))
    ∧ (∃ (q : QueueIx) (slot : SlotIx) (s : State) (u : State) (a : Accepted), u = s.beginCmd a ∧ s.ready q slot 0x0003 a ∧ sqArg a.entry 0 ≠ 0 ∧ (u.queue (sqArg a.entry 0)).state = .opened ∧ turfValid u.turfMap (sqArg a.entry 1) = true ∧ (u.accepted.any (fun b => b.q == sqArg a.entry 0)) = false ∧ (((u.queue (sqArg a.entry 0)).turf = sqArg a.entry 1
          ∨ u.queuesHeld (sqArg a.entry 1) < queueQuota u.turfMap (sqArg a.entry 1))))
    ∧ (∃ (q : QueueIx) (slot : SlotIx) (s : State) (u : State) (a : Accepted), u = s.beginCmd a ∧ s.ready q slot 0x0004 a ∧ sqArg a.entry 0 = 0)
    ∧ (∃ (q : QueueIx) (slot : SlotIx) (s : State) (u : State) (a : Accepted), u = s.beginCmd a ∧ s.ready q slot 0x0004 a ∧ sqArg a.entry 0 = 1 ∧ (a.q = 0 ∨ sqArg a.entry 1 = a.q))
    ∧ (∃ (q : QueueIx) (slot : SlotIx) (s : State) (u : State) (a : Accepted) (n : Nat) (r : Rick), u = s.beginCmd a ∧ r = (u.queue n).notices ∧ s.ready q slot 0x0004 a ∧ sqArg a.entry 0 = 2 ∧ (((sqArg a.entry 3).testBit 15 = true ∧ a.q = 0 ∧ n = bits (sqArg a.entry 3) 12 0
          ∨ (sqArg a.entry 3).testBit 15 = false ∧ n = a.q)) ∧ u.addrCheck a.q (u.queue a.q).turf ((sqArg a.entry 2).testBit 0) (sqArg a.entry 1)
          (64 * bits (sqArg a.entry 2) 12 8) = none) :=
  ⟨⟨0, 0, tCmd 0 [], _, tAcc 0 [], rfl, by decide +kernel⟩,
   ⟨0, 0, tCmd 1 [1, 0x100000, 0x200000, 0x44], _, tAcc 1 [1, 0x100000, 0x200000, 0x44], 1, rfl, by decide +kernel⟩,
   ⟨0, 0, { tCmd 1 [0, 2 ^ 52, 0x200000, 0x144, 64] with fab := tPeer, cfg := tOwner }, _, tAcc 1 [0, 2 ^ 52, 0x200000, 0x144, 64], 4096, 128, rfl, by decide +kernel⟩,
   ⟨0, 0, tCmd 2 [4095], _, tAcc 2 [4095], rfl, by decide +kernel⟩,
   ⟨0, 0, { tCmd 2 [4095] with queues := tQueues .closing }, _, tAcc 2 [4095], rfl, by decide +kernel⟩,
   ⟨0, 0, { tCmd 2 [4095] with queues := tQueues .error }, _, tAcc 2 [4095], rfl, by decide +kernel⟩,
   ⟨0, 0, { tCmd 3 [4095, 0] with queues := tQueues .opened }, _, tAcc 3 [4095, 0], rfl, by decide +kernel⟩,
   ⟨0, 0, tCmd 4 [0, 0x5000, 1], _, tAcc 4 [0, 0x5000, 1], rfl, by decide +kernel⟩,
   ⟨0, 0, tCmd 4 [1, 8191], _, tAcc 4 [1, 8191], rfl, by decide +kernel⟩,
   ⟨0, 0, tCmd 4 [2, 0x5000, 0x101, 0x9FFF], _, tAcc 4 [2, 0x5000, 0x101, 0x9FFF], 8191, _, rfl, rfl, by decide +kernel⟩⟩

/-- The hypotheses of every clause of MemoryCommandsComplete can all be met. -/
theorem test_MemoryCommandsComplete_witness :
    (∃ (q : QueueIx) (slot : SlotIx) (s : State) (u : State) (a : Accepted) (ix : Nat) (n : Nat) (t : Nat) (off : Nat), u = s.beginCmd a ∧ s.ready q slot 0x0200 a ∧ sqArg a.entry 0 = ix ∧ sqArg a.entry 1 = n ∧ sqTurf a.entry = t ∧ 16 ≤ ix ∧ ix < 48 ∧ n ≠ 0 ∧ n % 4096 = 0 ∧ ((List.range 64).any (fun j => u.rangeOwner ix j == some t)) = true ∧ ((ix < 40 ∨ (u.fmu (ix - 40)).registered = true)) ∧ u.findFree t ix n = some off)
    ∧ (∃ (q : QueueIx) (slot : SlotIx) (s : State) (u : State) (a : Accepted) (p : Nat × Nat × Nat × Nat), u = s.beginCmd a ∧ s.ready q slot 0x0201 a ∧ u.allocs.find? (fun x => u.flatOf x.2.1 * 2 ^ 48 + x.2.2.1 == sqArg a.entry 0) = some p ∧ (((u.queue a.q).turf = 0 ∨ p.1 = sqTurf a.entry)))
    ∧ (∃ (q : QueueIx) (slot : SlotIx) (s : State) (u : State) (a : Accepted) (n : Nat), u = s.beginCmd a ∧ s.ready q slot 0x0202 a ∧ 1 ≤ sqArg a.entry 2 ∧ sqArg a.entry 2 ≤ 2 ^ 30 ∧ ((a.q < 4096 ∨ (sqArg a.entry 3).testBit 1 = false ∧ (sqArg a.entry 3).testBit 2 = false)) ∧ (¬((sqArg a.entry 3).testBit 0 = true ∧ (sqArg a.entry 3).testBit 2 = true)) ∧ u.leastLoaded (((setBits (ceMask u.turfMap (u.queue a.q).turf) 64).filter (fun i => !(u.ce i).retired)).filter
          (fun i => decide (1 ≤ (u.ce i).free))) = some n)
    ∧ (∃ (q : QueueIx) (slot : SlotIx) (s : State) (u : State) (a : Accepted) (n : Nat), u = s.beginCmd a ∧ s.ready q slot 0x0203 a ∧ 1 ≤ sqArg a.entry 1 ∧ sqArg a.entry 1 ≤ 2 ^ 30 ∧ sqArg a.entry 1 % 16 = 0 ∧ sqArg a.entry 0 % 16 = 0 ∧ ((a.q < 4096 ∨ (sqArg a.entry 5).testBit 2 = false)) ∧ u.leastLoaded (((setBits (ceMask u.turfMap (u.queue a.q).turf) 64).filter (fun i => !(u.ce i).retired)).filter
          (fun i => decide (1 ≤ (u.ce i).free))) = some n)
    ∧ (∃ (q : QueueIx) (slot : SlotIx) (s : State) (u : State) (a : Accepted), u = s.beginCmd a ∧ s.ready q slot 0x0204 a ∧ sqArg a.entry 1 % 2 ^ 30 = 0 ∧ (s.ops.any (fun o => o.unit == windowParty (s.queue q).port (sqArg a.entry 0))) = false ∧ ((s.pcie (s.queue q).port).reads.any (fun r => r.window == sqArg a.entry 0)) = false ∧ ((tfind (u.pcie (s.queue q).port).windows (sqArg a.entry 0)).all (fun x =>
          x.turf == (u.queue a.q).turf || (u.queue a.q).turf == 0)) = true) :=
  ⟨⟨0, 0, { tCmd 0x0200 [16, 4096, 1] with cfg := tOwner }, _, tAcc 0x0200 [16, 4096, 1], 16, 4096, 0, 0, rfl, by decide +kernel⟩,
   ⟨0, 0, { tCmd 0x0201 [2 ^ 52] with allocs := [(0, 16, 0, 4096)] }, _, tAcc 0x0201 [2 ^ 52], (0, 16, 0, 4096), rfl, by decide +kernel⟩,
   ⟨0, 0, { tCmd 0x0202 [0x1000, 0x2000, 2 ^ 30, 6] with cfg := tOwner }, _, tAcc 0x0202 [0x1000, 0x2000, 2 ^ 30, 6], 0, rfl, by decide +kernel⟩,
   ⟨0, 0, { tCmd 0x0203 [0x1000, 2 ^ 30, 5, 0, 0, 4] with cfg := tOwner }, _, tAcc 0x0203 [0x1000, 2 ^ 30, 5, 0, 0, 4], 0, rfl, by decide +kernel⟩,
   ⟨0, 0, tCmd 0x0204 [63, 2 ^ 30, 1], _, tAcc 0x0204 [63, 2 ^ 30, 1], rfl, by decide +kernel⟩⟩

/-- The hypotheses of every clause of DoorbellsFetchAndWindowsComplete can all be met. -/
theorem test_DoorbellsFetchAndWindowsComplete_witness :
    (∃ (s : State) (q : QueueIx) (d : Bytes), q.val < 4096 ∧ s.mayFetch q = true ∧ d.length = 64 ∧ (s.queue q).sqMod = false)
    ∧ (∃ (s : State) (q : QueueIx) (addr : Nat) (d : Bytes), addr = (s.queue q).sqAddr.toNat + 64 * (s.queue q).sqHead ∧ q.val < 4096 ∧ s.mayFetch q = true ∧ d.length = 64 ∧ (s.queue q).sqMod = true ∧ s.heldAt addr = false ∧ s.rangeCheck (s.queue q).turf addr 64 = none ∧ s.fetchOwn (s.queue q).turf addr = some d)
    ∧ (∃ (s : State) (q : QueueIx) (addr : Nat) (u : State) (d : Bytes), addr = (s.queue q).sqAddr.toNat + 64 * (s.queue q).sqHead ∧ u = s.waitTake (s.queue q).dCtr { who := coreParty 0 (s.batchCore (s.queue q).turf), thresh := 1, dec := 1, since := s.now } ∧ 4096 ≤ q.val ∧ s.mayFetch q = true ∧ s.heldAt addr = false ∧ u.rangeCheck (s.queue q).turf addr 64 = none ∧ u.fetchOwn (s.queue q).turf addr = some d)
    ∧ (∃ (s : State) (q : QueueIx) (n : Word), 4096 ≤ q.val ∧ (s.queue q).state = .opened ∧ 1 ≤ n.toNat ∧ n.toNat ≤ (s.ctr ((s.queue q).dCtr + 1)).value ∧ n.toNat ≤ (s.queue q).unreleased)
    ∧ (∃ (s : State) (q : QueueIx) (p : PcieIx) (value : DWord), s.portWrites p = false ∧ s.doorbellReaches q p = true ∧ bits value.toNat 15 0 < ((s.renewQueue q).queue q).sqSize)
    ∧ (∃ (s : State) (q : QueueIx) (p : PcieIx) (value : DWord), s.portWrites p = false ∧ s.doorbellReaches q p = true ∧ bits value.toNat 15 0 < (s.queue q).cqSize ∧ (bits value.toNat 15 0 + (s.queue q).cqSize - (s.queue q).cqHead) % (s.queue q).cqSize ≤ (s.queue q).unreleased)
    ∧ (∃ (s : State) (p : PcieIx), s.portWrites p = true)
    ∧ (∃ (s : State) (q : QueueIx) (p : PcieIx), s.portWrites p = false ∧ s.doorbellReaches q p = false)
    ∧ (∃ (s : State) (p : PcieIx) (offset : Fin 68719476736) (win : WindowSt) (base : Nat), base = win.base.toNat + offset.val % 2 ^ 30 ∧ tfind (s.pcie p).windows (offset.val / 2 ^ 30) = some win)
    ∧ (∃ (s : State) (p : PcieIx) (offset : Fin 68719476736) (len : Fin 4097) (win : WindowSt) (base : Nat) (i : State × Word), base = win.base.toNat + offset.val % 2 ^ 30 ∧ i = s.issueOp (windowParty p (offset.val / 2 ^ 30)).toNat win.turf 0x01 0 0 len.val (BitVec.ofNat 64 base) 0 none [] false 3 p ∧ tfind (s.pcie p).windows (offset.val / 2 ^ 30) = some win ∧ pieces base len.val = [(base, len.val)] ∧ s.issueRefusal win.turf base = none)
    ∧ (∃ (s : State) (p : PcieIx) (offset : Fin 68719476736), tfind (s.pcie p).windows (offset.val / 2 ^ 30) = none)
    ∧ (∃ (s : State), s.bu.vaux = true ∧ s.bu.islandUp = true)
    ∧ (∃ (off : Fin 65536), 0x110 ≤ off.val ∧ off.val < 0x130 ∧ off.val % 8 = 0)
    ∧ (∃ (off : Fin 65536), 0x8000 ≤ off.val ∧ off.val % 4 = 0)
    ∧ (∃ (s : State) (c : CellIx), s.cellAwake c = true) :=
  ⟨⟨tFetch false, 0, List.replicate 64 0, by decide +kernel⟩,
   ⟨{ tFetch true with cfg := tOwner }, 0, _, List.replicate 64 0, rfl, by decide +kernel⟩,
   ⟨{ tFetch true with cfg := tOwner, queues := [(4096, { state := .opened, turf := 0, sqMod := true, sqAddr := 0x0010000000000000, sqTail := 1, dCtr := 128 })], ctrs := [(128, { value := 1 })] }, 4096, _, _, List.replicate 64 0, rfl, rfl, by decide +kernel⟩,
   ⟨{ tFetch true with queues := [(4096, { state := .opened, dCtr := 128, cqTail := 1 })], ctrs := [(129, { value := 1 })] }, 4096, 1, by decide +kernel⟩,
   ⟨tFetch false, 0, 0, 15, by decide +kernel⟩,
   ⟨tFetch false, 0, 0, 0, by decide +kernel⟩,
   ⟨{ State.reset with ops := [{ tOp 2 with purpose := 3, extra := 1 }] }, 1, by decide +kernel⟩,
   ⟨State.reset, 1, 0, by decide +kernel⟩,
   ⟨{ State.reset with pcie0 := { windows := [(63, { base := 0, turf := 0 })] } }, 0, 68719476735, { base := 0, turf := 0 }, _, rfl, by decide +kernel⟩,
   ⟨{ State.reset with pcie0 := { windows := [(63, { base := 0, turf := 0 })] } }, 0, 67645734912, 256, { base := 0, turf := 0 }, _, _, rfl, rfl, by decide +kernel⟩,
   ⟨State.reset, 0, 0, by decide +kernel⟩,
   ⟨{ State.reset with bu := { vaux := true, islandUp := true } }, by decide +kernel⟩,
   ⟨0x128, by decide +kernel⟩,
   ⟨0xFFFC, by decide +kernel⟩,
   ⟨{ State.reset with regions := [(63, { sleep := .s0 })] }, 4095, by decide +kernel⟩⟩

/-- The hypotheses of every clause of PowerCommandsComplete can all be met. -/
theorem test_PowerCommandsComplete_witness :
    (∃ (q : QueueIx) (slot : SlotIx) (s : State) (u : State) (a : Accepted) (v : State), u = s.beginCmd a ∧ v = { u with pw := { u.pw with target := sqArg a.entry 0 } } ∧ s.ready q slot 0x0500 a ∧ sqArg a.entry 0 ≤ 12 ∧ (sqArg a.entry 1 = 0 ∨ u.earliestSwitch ≤ sqArg a.entry 1) ∧ u.pw.switchAt.isSome = true)
    ∧ (∃ (q : QueueIx) (slot : SlotIx) (s : State) (u : State) (a : Accepted) (v : State), u = s.beginCmd a ∧ v = { u with pw := { u.pw with target := sqArg a.entry 0 } } ∧ s.ready q slot 0x0500 a ∧ sqArg a.entry 0 ≤ 12 ∧ (sqArg a.entry 1 = 0 ∨ u.earliestSwitch ≤ sqArg a.entry 1) ∧ u.pw.switchAt = none ∧ (v.considerSwitch (sqArg a.entry 1)).pw.switchAt = none)
    ∧ (∃ (q : QueueIx) (slot : SlotIx) (s : State) (u : State) (a : Accepted) (v : State), u = s.beginCmd a ∧ v = { u with pw := { u.pw with target := sqArg a.entry 0 } } ∧ s.ready q slot 0x0500 a ∧ sqArg a.entry 0 ≤ 12 ∧ (sqArg a.entry 1 = 0 ∨ u.earliestSwitch ≤ sqArg a.entry 1) ∧ u.pw.switchAt = none ∧ (v.considerSwitch (sqArg a.entry 1)).pw.switchAt.isSome = true)
    ∧ (∃ (q : QueueIx) (slot : SlotIx) (s : State) (u : State) (a : Accepted), u = s.beginCmd a ∧ s.ready q slot 0x0501 a)
    ∧ (∃ (q : QueueIx) (slot : SlotIx) (s : State) (u : State) (a : Accepted), u = s.beginCmd a ∧ s.ready q slot 0x0502 a ∧ 1 ≤ sqArg a.entry 1 ∧ sqArg a.entry 1 ≤ 4 ∧ u.foreignRegions (u.queue a.q).turf (sqArg a.entry 0) = false ∧ ((sqArg a.entry 1 ≠ 1 ∨ (u.queue a.q).turf = 0)) ∧ ((setBits (sqArg a.entry 0) 64).all (fun r => match regionOwner u.turfMap r with
          | some t => (u.batch t).isNone
          | none => true)) = true)
    ∧ (∃ (q : QueueIx) (slot : SlotIx) (s : State) (u : State) (a : Accepted), u = s.beginCmd a ∧ s.ready q slot 0x0503 a ∧ u.foreignRegions (u.queue a.q).turf (sqArg a.entry 0) = false ∧ u.pw.safeStopped = false) :=
  ⟨⟨0, 0, { tCmd 0x0500 [12] with pw := { switchAt := some (5, 3) } }, _, tAcc 0x0500 [12], _, rfl, rfl, by decide +kernel⟩,
   ⟨0, 0, { tCmd 0x0500 [12] with pw := { pstate := 12 }, cfg := (1, { active := bytesMem defaultPstates }) :: tOwner }, _, tAcc 0x0500 [12], _, rfl, rfl, by decide +kernel⟩,
   ⟨0, 0, { tCmd 0x0500 [12] with cfg := (1, { active := bytesMem defaultPstates }) :: tOwner }, _, tAcc 0x0500 [12], _, rfl, rfl, by decide +kernel⟩,
   ⟨0, 0, tCmd 0x0501 [0x5000, 1], _, tAcc 0x0501 [0x5000, 1], rfl, by decide +kernel⟩,
   ⟨0, 0, { tCmd 0x0502 [1, 4] with cfg := tOwner }, _, tAcc 0x0502 [1, 4], rfl, by decide +kernel⟩,
   ⟨0, 0, { tCmd 0x0503 [1] with cfg := tOwner }, _, tAcc 0x0503 [1], rfl, by decide +kernel⟩⟩

/-- The hypotheses of every clause of PowerEventsComplete can all be met. -/
theorem test_PowerEventsComplete_witness :
    (∃ (s : State) (u : State) (now : Nat) (c : Nat) (p : Nat), u = s.at_ now ∧ u.pw.switchAt = some (c, p) ∧ c ≤ u.now ∧ u.ctlHeld = false)
    ∧ (∃ (s : State) (u : State) (now : Nat) (p1ms : Nat), u = s.at_ now ∧ 12500 < p1ms ∧ 0 < u.pw.over1ms)
    ∧ (∃ (s : State) (u : State) (now : Nat) (p1ms : Nat) (p100ms : Nat), u = s.at_ now ∧ p1ms ≤ 12500 ∧ u.powerLimit < p100ms ∧ u.pw.powerNextCheck ≤ u.now)
    ∧ (∃ (s : State) (u : State) (now : Nat) (p1ms : Nat) (p100ms : Nat) (c : Nat), u = s.at_ now ∧ p1ms ≤ 12500 ∧ p100ms * 100 < u.powerLimit * 95 ∧ 0 < u.pw.powerCeil ∧ u.pw.belowSince = some c ∧ c + 100000000 ≤ u.now)
    ∧ (∃ (s : State) (u : State) (now : Nat) (r : RegionIx), u = s.at_ now ∧ (u.region r).lowMargin = 7)
    ∧ (∃ (s : State) (u : State) (now : Nat) (r : RegionIx), u = s.at_ now ∧ (u.region r).lowMargin < 7 ∧ u.pw.marginCeil = 0)
    ∧ (∃ (s : State) (u : State) (now : Nat) (c : Nat) (v : Nat) (rest : List (Nat × Nat)), u = s.at_ now ∧ u.pw.hAt = (c, v) :: rest ∧ c ≤ u.now ∧ u.ctlHeld = false)
    ∧ (∃ (s : State) (u : State) (now : Nat), u = s.at_ now ∧ u.bu.throtN = false)
    ∧ (∃ (s : State) (u : State) (now : Nat), u = s.at_ now ∧ u.bu.throtN = true)
    ∧ (∃ (s : State) (u : State) (now : Nat) (minMv : Half) (v : State), u = s.at_ now ∧ v = { u with pw := { u.pw with
          brownout := true, brownoutCount := (u.pw.brownoutCount + 1) % 2 ^ 32, brownoutMin := minMv.toNat
          vinMv := minMv.toNat, reqSupply := true } } ∧ u.pw.brownout = false)
    ∧ (∃ (s : State) (u : State) (now : Nat) (minMv : Half) (v : State), u = s.at_ now ∧ v = u.addWear 0x0B 0 (BitVec.ofNat 32 (min u.pw.brownoutMin minMv.toNat)) 0 ∧ u.pw.brownout = true) :=
  ⟨⟨{ State.reset with pw := { switchAt := some (0, 1) } }, _, 0, 0, 1, rfl, by decide +kernel⟩,
   ⟨{ State.reset with pw := { over1ms := 1 } }, _, 0, 12501, rfl, by decide +kernel⟩,
   ⟨State.reset, _, 0, 12500, 10501, rfl, by decide +kernel⟩,
   ⟨{ State.reset with pw := { gtcRunning := true, powerCeil := 1, belowSince := some 0 }, cfg := [(1, { active := bytesMem defaultPstates })] }, _, 100000000, 0, 0, 0, rfl, by decide +kernel⟩,
   ⟨{ State.reset with regions := [(63, { lowMargin := 7 })] }, _, 0, 63, rfl, by decide +kernel⟩,
   ⟨{ State.reset with regions := [(63, { lowMargin := 6 })] }, _, 0, 63, rfl, by decide +kernel⟩,
   ⟨{ State.reset with pw := { hAt := [(0, 128)] } }, _, 0, 0, 128, [], rfl, by decide +kernel⟩,
   ⟨State.reset, _, 0, rfl, by decide +kernel⟩,
   ⟨{ State.reset with bu := { throtN := true } }, _, 0, rfl, by decide +kernel⟩,
   ⟨State.reset, _, 0, 40000, _, rfl, rfl, by decide +kernel⟩,
   ⟨{ State.reset with pw := { brownout := true } }, _, 0, 40000, _, rfl, rfl, by decide +kernel⟩⟩

/-- The hypotheses of every clause of PhasesAndThermalComplete can all be met. -/
theorem test_PhasesAndThermalComplete_witness :
    (∃ (s : State) (u : State) (now : Nat) (p : PhaseIx), u = s.at_ now ∧ (u.phase p).isOpen = false)
    ∧ (∃ (s : State) (u : State) (now : Nat) (g : GroupIx), u = s.at_ now ∧ (u.group g).spareComing = false)
    ∧ (∃ (s : State) (u : State) (now : Nat) (g : GroupIx), u = s.at_ now ∧ (u.group g).spareUsed = false ∧ (u.group g).onSeven = false ∧ (u.group g).shedNext = 0 ∧ (u.phase (9 * g)).isOpen = false ∧ (u.phase (9 * g)).senseFailed = false ∧ ((u.modGroup g (fun y => { y with shedNext := 1 })).phase (9 * g)).firstLoss = none)
    ∧ (∃ (s : State) (u : State) (now : Nat) (p : PhaseIx) (ma : Nat) (v : State), u = s.at_ now ∧ v = s.modPhase p (fun y => { y with value := ma, lowSamples := 0, highRange := false, rangeChanged := false }) ∧ (s.phase p).highRange = false ∧ (s.phase p).rangeChanged = false ∧ 3000 ≤ ma ∧ ma ≤ 3800)
    ∧ (∃ (s : State) (u : State) (now : Nat) (r : RegionIx) (w : Waking), u = s.at_ now ∧ (u.region r).waking = some w ∧ u.bu.computeHeld = false ∧ u.bu.crstLow = false ∧ u.bu.diesHeld.contains (r.val / 4) = false ∧ w.step = 1)
    ∧ (∃ (s : State) (u : State) (now : Nat) (r : RegionIx) (w : Waking), u = s.at_ now ∧ (u.region r).waking = some w ∧ u.bu.computeHeld = false ∧ u.bu.crstLow = false ∧ u.bu.diesHeld.contains (r.val / 4) = false ∧ w.step = 2)
    ∧ (∃ (s : State) (u : State) (now : Nat) (r : RegionIx) (w : Waking), u = s.at_ now ∧ (u.region r).waking = some w ∧ u.bu.computeHeld = false ∧ u.bu.crstLow = false ∧ u.bu.diesHeld.contains (r.val / 4) = false ∧ w.step = 4)
    ∧ (∃ (s : State) (u : State) (now : Nat) (r : RegionIx) (w : Waking), u = s.at_ now ∧ (u.region r).waking = some w ∧ u.bu.computeHeld = false ∧ u.bu.crstLow = false ∧ u.bu.diesHeld.contains (r.val / 4) = false ∧ (w.step = 1 ∨ w.step = 2) ∧ w.attempt < 2)
    ∧ (∃ (s : State) (u : State) (now : Nat) (r : RegionIx) (w : Waking), u = s.at_ now ∧ (u.region r).waking = some w ∧ u.bu.computeHeld = false ∧ u.bu.crstLow = false ∧ u.bu.diesHeld.contains (r.val / 4) = false ∧ (w.step = 1 ∨ w.step = 2) ∧ 2 ≤ w.attempt)
    ∧ (∃ (s : State) (u : State) (now : Nat) (l : List SensorReading), u = s.at_ now ∧ (sampledIds l).find? (fun n => decide (shutdownLevel n ≤ ((u.thermalTaken l).sensor n).value)) = none)
    ∧ (∃ (s : State) (u : State) (now : Nat) (l : List SensorReading) (n : Nat), u = s.at_ now ∧ (sampledIds l).find? (fun n => decide (shutdownLevel n ≤ ((u.thermalTaken l).sensor n).value)) = some n)
    ∧ (∃ (s : State) (u : State) (now : Nat), u = s.at_ now ∧ u.pw.hMaxThisMs < u.pw.reqThermal)
    ∧ (∃ (s : State) (u : State) (now : Nat), u = s.at_ now ∧ 50000000 ≤ nonzeroTime u.pw.hHist u.now ∧ u.pw.thermalNextCheck ≤ u.now ∧ u.pw.thermalCeil < 12)
    ∧ (∃ (s : State) (u : State) (now : Nat), u = s.at_ now ∧ nonzeroTime u.pw.hHist u.now < 50000000 ∧ u.thermalCalm = true ∧ 0 < u.pw.thermalCeil)
    ∧ (∃ (s : State) (u : State) (now : Nat) (n : Fin 8) (x : SensorReading), u = s.at_ now ∧ (memGet (u.cset 2).active (16 + 8 * n.val)).toNat ≠ 0 ∧ (u.sensor (312 + n.val)).isOpen = false ∧ u.hasDefect 0x0F (312 + n.val) 0 = false ∧ x.valid = true ∧ x.value ≤ 8 * ((memGet (u.cset 2).active (17 + 8 * n.val)).toNat : Int)) :=
  ⟨⟨State.reset, _, 0, 575, rfl, by decide +kernel⟩,
   ⟨State.reset, _, 0, 63, rfl, by decide +kernel⟩,
   ⟨State.reset, _, 0, 63, rfl, by decide +kernel⟩,
   ⟨State.reset, _, 0, 575, 3800, _, rfl, rfl, by decide +kernel⟩,
   ⟨{ State.reset with regions := [(63, { waking := some { tWaking with step := 1 } })] }, _, 0, 63, { tWaking with step := 1 }, rfl, by decide +kernel⟩,
   ⟨{ State.reset with regions := [(63, { waking := some { tWaking with step := 2 } })] }, _, 0, 63, { tWaking with step := 2 }, rfl, by decide +kernel⟩,
   ⟨{ State.reset with regions := [(63, { waking := some { tWaking with step := 4 } })] }, _, 0, 63, { tWaking with step := 4 }, rfl, by decide +kernel⟩,
   ⟨{ State.reset with regions := [(63, { waking := some { tWaking with step := 2, attempt := 1 } })] }, _, 0, 63, { tWaking with step := 2, attempt := 1 }, rfl, by decide +kernel⟩,
   ⟨{ State.reset with regions := [(63, { waking := some { tWaking with step := 2, attempt := 2 } })] }, _, 0, 63, { tWaking with step := 2, attempt := 2 }, rfl, by decide +kernel⟩,
   ⟨State.reset, _, 0, [], rfl, by decide +kernel⟩,
   ⟨State.reset, _, 0, [{ sensor := 0, value := 2000 }], 0, rfl, by decide +kernel⟩,
   ⟨{ State.reset with pw := { reqThermal := 1 } }, _, 0, rfl, by decide +kernel⟩,
   ⟨{ State.reset with pw := { gtcRunning := true, hHist := [(0, true)] } }, _, 50000000, rfl, by decide +kernel⟩,
   ⟨{ State.reset with pw := { gtcRunning := true, thermalCeil := 1 } }, _, 1000000000, rfl, by decide +kernel⟩,
   ⟨{ State.reset with cfg := [(2, { active := [(72, 1), (73, 50)] })] }, _, 0, 7, { sensor := 7, value := 400 }, rfl, by decide +kernel⟩⟩

/-- The hypotheses of every clause of ConfigurationCommandsComplete can all be met. -/
theorem test_ConfigurationCommandsComplete_witness :
    (∃ (q : QueueIx) (slot : SlotIx) (s : State) (u : State) (a : Accepted) (k : Nat) (addr : Nat) (off : Nat) (len : Nat) (o : Option Bytes) (b : Bytes) (v : State), u = s.beginCmd a ∧ k = sqArg a.entry 0 ∧ addr = sqArg a.entry 1 ∧ off = sqArg a.entry 2 ∧ len = sqArg a.entry 3 ∧ v = u.meetIn ((sqArg a.entry 4).testBit 0) addr len ∧ s.ready q slot 0x0400 a ∧ s.readFits ((sqArg a.entry 4).testBit 0) addr len o = true ∧ k ≠ 5 ∧ k ≠ 8 ∧ off + len ≤ setSize k ∧ setSize k ≠ 0 ∧ (u.cset k).announced = none ∧ u.addrCheck a.q (u.queue a.q).turf ((sqArg a.entry 4).testBit 0) addr len = none ∧ v.readIn ((sqArg a.entry 4).testBit 0) addr len o = some b)
    ∧ (∃ (q : QueueIx) (slot : SlotIx) (s : State) (u : State) (a : Accepted) (k : Nat) (n : Nat), u = s.beginCmd a ∧ k = sqArg a.entry 0 ∧ n = sqArg a.entry 1 ∧ s.ready q slot 0x0401 a ∧ u.cfgDenied a = false ∧ 1 ≤ k ∧ k ≤ 4 ∧ (u.cset k).announced = none ∧ u.swapRefusal k = none ∧ n ≠ 0 ∧ u.now + 10000 ≤ n ∧ n ≤ u.now + 10000000000)
    ∧ (∃ (q : QueueIx) (slot : SlotIx) (s : State) (u : State) (a : Accepted) (k : Nat), u = s.beginCmd a ∧ k = sqArg a.entry 0 ∧ s.ready q slot 0x0402 a ∧ u.cfgDenied a = false ∧ 1 ≤ k ∧ k ≤ 4 ∧ (u.cset k).announced = none ∧ u.swapRefusal k = none)
    ∧ (∃ (q : QueueIx) (slot : SlotIx) (s : State) (u : State) (a : Accepted), u = s.beginCmd a ∧ s.ready q slot 0x0401 a ∧ u.cfgDenied a = false ∧ (sqArg a.entry 0 = 5 ∨ sqArg a.entry 0 = 8))
    ∧ (∃ (q : QueueIx) (slot : SlotIx) (s : State) (u : State) (a : Accepted), u = s.beginCmd a ∧ s.ready q slot 0x0402 a ∧ sqArg a.entry 0 = 8 ∧ sqArg a.entry 1 < 2 ^ 32 ∧ (sqArg a.entry 1 = 0 ∨ sqArg a.entry 1 ≠ (u.cset 8).generation) ∧ u.batch (sqTurf a.entry) = none ∧ u.drain = none ∧ (u.batches.all (fun p => !p.2.started)) = true)
    ∧ (∃ (q : QueueIx) (slot : SlotIx) (s : State) (u : State) (a : Accepted), u = s.beginCmd a ∧ s.ready q slot 0x0402 a ∧ sqArg a.entry 0 = 5 ∧ u.cfgDenied a = false ∧ u.routesOk = true ∧ u.drain = none ∧ u.fabricScheduled = false)
    ∧ (∃ (q : QueueIx) (slot : SlotIx) (s : State) (u : State) (a : Accepted) (img : ImageSt), u = s.beginCmd a ∧ s.ready q slot 0x0101 a ∧ tfind u.images (sqArg a.entry 0) = some img ∧ img.ready = true ∧ ((u.queue a.q).turf = 0 ∨ img.turf = (u.queue a.q).turf) ∧ u.batch img.turf = none ∧ u.drain = none)
    ∧ (∃ (q : QueueIx) (slot : SlotIx) (s : State) (u : State) (a : Accepted), u = s.beginCmd a ∧ s.ready q slot 0x0403 a ∧ sqArg a.entry 0 + (sqTag a.entry).toNat = 2 ^ 32 - 1 ∧ u.firm.write = none ∧ u.storedSwap = false)
    ∧ (∃ (q : QueueIx) (slot : SlotIx) (s : State) (u : State) (a : Accepted) (b : Bytes), u = s.beginCmd a ∧ s.ready q slot 0x0404 a ∧ u.cfgDenied a = false ∧ sqArg a.entry 0 ∈ [1, 2, 3, 4, 5, 8, 9] ∧ u.cfgBytes (sqTurf a.entry) (sqArg a.entry 0) (sqArg a.entry 1) (sqArg a.entry 3) (sqArg a.entry 4) = some b) :=
  ⟨⟨0, 0, tCmd 0x0400 [1, 0x5000, 8, 8, 1], _, tAcc 0x0400 [1, 0x5000, 8, 8, 1], _, _, _, _, some [1, 2, 3, 4, 5, 6, 7, 8], [1, 2, 3, 4, 5, 6, 7, 8], _, rfl, rfl, rfl, rfl, rfl, rfl, by decide +kernel⟩,
   ⟨0, 0, { tCmd 0x0401 [3, 10000] with cfg := tTurfs }, _, tAcc 0x0401 [3, 10000], _, _, rfl, rfl, rfl, by decide +kernel⟩,
   ⟨0, 0, { tCmd 0x0402 [4] with cfg := tTurfs }, _, tAcc 0x0402 [4], _, rfl, rfl, by decide +kernel⟩,
   ⟨0, 0, tCmd 0x0401 [8], _, tAcc 0x0401 [8], rfl, by decide +kernel⟩,
   ⟨0, 0, tCmd 0x0402 [8], _, tAcc 0x0402 [8], rfl, by decide +kernel⟩,
   ⟨0, 0, { tCmd 0x0402 [5] with fab := { epShadow := tEps } }, _, tAcc 0x0402 [5], rfl, by decide +kernel⟩,
   ⟨0, 0, { tCmd 0x0101 [7] with images := [(7, tImage)] }, _, tAcc 0x0101 [7], tImage, rfl, by decide +kernel⟩,
   ⟨0, 0, tCmd 0x0403 [0xFFFFFEFE, 1], _, tAcc 0x0403 [0xFFFFFEFE, 1], rfl, by decide +kernel⟩,
   ⟨0, 0, tCmd 0x0404 [3, 0, 0x5000, 64, 4, 1], _, tAcc 0x0404 [3, 0, 0x5000, 64, 4, 1], [1, 0, 0, 0], rfl, by decide +kernel⟩⟩

/-- The hypotheses of every clause of SwapEventsComplete can all be met. -/
theorem test_SwapEventsComplete_witness :
    (∃ (s : State) (u : State) (now : Nat) (arg : Word), u = s.at_ now ∧ bits arg.toNat 10 9 = 0 ∧ arg.toNat.testBit 8 = false ∧ (s.cset (bits arg.toNat 7 0)).announced = none ∧ 1 ≤ bits arg.toNat 7 0 ∧ bits arg.toNat 7 0 ≤ 4 ∧ ((s.cset (bits arg.toNat 7 0)).generation + 1) % 2 ^ 32 % 65536 = bits arg.toNat 31 16)
    ∧ (∃ (s : State) (u : State) (now : Nat) (arg : Word), u = s.at_ now ∧ bits arg.toNat 10 9 = 0 ∧ arg.toNat.testBit 8 = true)
    ∧ (∃ (s : State) (u : State) (now : Nat) (k : Byte) (n : Nat) (g : Nat) (c : Nat × Nat), u = s.at_ now ∧ (u.cset k.toNat).announced = some (n, g, some c) ∧ n ≤ u.now)
    ∧ (∃ (s : State) (u : State) (now : Nat) (n : Nat), u = s.at_ now ∧ u.holds.swapAt = some n ∧ n ≤ u.now)
    ∧ (∃ (s : State) (u : State) (now : Nat) (n : Nat) (d : Drain), u = s.at_ now ∧ u.holds.swapEnd = some n ∧ n ≤ u.now ∧ u.drain = some d ∧ d.leaving = true)
    ∧ (∃ (s : State) (u : State) (now : Nat) (d : Drain) (v : State), u = s.at_ now ∧ v = ({ u with drain := none } : State).completeAt d.cmd stDrainTimeout 0 ∧ u.drain = some d ∧ d.leaving = false ∧ d.since + 50000 ≤ u.now ∧ d.routing = false ∧ u.holds.swapOn = true)
    ∧ (∃ (s : State) (u : State) (now : Nat) (w : BankWrite) (b : SetBank), u = s.at_ now ∧ s.firm.write = some w ∧ w.settings = some b ∧ w.bankB = true)
    ∧ (∃ (s : State) (u : State) (now : Nat) (w : BankWrite), u = s.at_ now ∧ s.firm.write = some w ∧ w.rewritten = false ∧ w.heartwood = false) :=
  ⟨⟨State.reset, _, 0, 0x00010003, rfl, by decide +kernel⟩,
   ⟨State.reset, _, 0, 0x00010103, rfl, by decide +kernel⟩,
   ⟨{ State.reset with cfg := [(1, { announced := some (0, 1, some (0, 0)) })] }, _, 0, 1, 0, 1, (0, 0), rfl, by decide +kernel⟩,
   ⟨{ State.reset with holds := { swapAt := some 0 } }, _, 0, 0, rfl, by decide +kernel⟩,
   ⟨{ State.reset with holds := { swapEnd := some 0 }, drain := some { tDrain with leaving := true } }, _, 0, 0, { tDrain with leaving := true }, rfl, by decide +kernel⟩,
   ⟨{ State.reset with pw := { gtcRunning := true }, holds := { swapOn := true }, drain := some tDrain }, _, 50000, tDrain, _, rfl, rfl, by decide +kernel⟩,
   ⟨{ State.reset with firm := { write := some { tWrite with bankB := true } } }, _, 0, { tWrite with bankB := true }, tBank, rfl, by decide +kernel⟩,
   ⟨{ State.reset with firm := { write := some tWrite } }, _, 0, tWrite, rfl, by decide +kernel⟩⟩

/-- The hypotheses of every clause of SyncCommandsComplete can all be met. -/
theorem test_SyncCommandsComplete_witness :
    (∃ (s : State) (q : QueueIx) (slot : SlotIx) (u : State) (a : Accepted) (k : Nat), u = s.beginCmd a ∧ s.ready q slot 0x0300 a ∧ sqArg a.entry 0 = 0 ∧ sqArg a.entry 1 < 2 ^ 31 ∧ termOk (sqArg a.entry 2) = true ∧ sqArg a.entry 3 = 0 ∧ u.syncHeld (u.queue a.q).turf < syncQuota u.turfMap (u.queue a.q).turf ∧ u.lowestFree = some k)
    ∧ (∃ (s : State) (q : QueueIx) (slot : SlotIx) (u : State) (a : Accepted), u = s.beginCmd a ∧ s.ready q slot 0x0300 a ∧ sqArg a.entry 0 = 1 ∧ u.leaseRefusal a true = none)
    ∧ (∃ (s : State) (q : QueueIx) (slot : SlotIx) (u : State) (a : Accepted) (k : Nat), u = s.beginCmd a ∧ s.ready q slot 0x0300 a ∧ sqArg a.entry 0 = 2 ∧ sqArg a.entry 1 = k ∧ u.leaseRefusal a false = none ∧ (u.ctrTurf k = some (u.queue a.q).turf ∨ u.syncHeld (u.queue a.q).turf < syncQuota u.turfMap (u.queue a.q).turf))
    ∧ (∃ (s : State) (q : QueueIx) (slot : SlotIx) (u : State) (a : Accepted) (oep : Nat), u = s.beginCmd a ∧ oep = s.batchOep (s.queue q).turf ∧ s.ready q slot 0x0301 a ∧ s.protRoom oep = true ∧ 1 ≤ sqArg a.entry 1 ∧ sqArg a.entry 1 < 2 ^ 31 ∧ sqArg a.entry 2 < 2 ^ 32 ∧ u.signalBad (u.queue a.q).turf (sqArg a.entry 0) = false)
    ∧ (∃ (s : State) (q : QueueIx) (slot : SlotIx) (u : State) (a : Accepted) (r : Nat × State), u = s.beginCmd a ∧ r = u.dumpCapture (sqTurf a.entry) ∧ s.ready q slot 0x0302 a ∧ (sqTurf a.entry ≠ 0 ∨ (u.queue a.q).turf = 0)) :=
  ⟨⟨tCmd 0x0300 [0, 2 ^ 31 - 1, 1000], 0, 0, _, tAcc 0x0300 [0, 2 ^ 31 - 1, 1000], 128, rfl, by decide +kernel⟩,
   ⟨{ tCmd 0x0300 [1, 128, 0, 1] with ctrs := tLease }, 0, 0, _, tAcc 0x0300 [1, 128, 0, 1], rfl, by decide +kernel⟩,
   ⟨{ tCmd 0x0300 [2, 65535, 10000000, 1] with ctrs := [(65535, { owner := .orphan 0 })] }, 0, 0, _, tAcc 0x0300 [2, 65535, 10000000, 1], 65535, rfl, by decide +kernel⟩,
   ⟨tCmd 0x0301 [48 * 2 ^ 48 + 4 * 128, 1, 0], 0, 0, _, tAcc 0x0301 [48 * 2 ^ 48 + 4 * 128, 1, 0], _, rfl, rfl, by decide +kernel⟩,
   ⟨tCmd 0x0302 [], 0, 0, _, tAcc 0x0302 [], _, rfl, rfl, by decide +kernel⟩⟩

/-- The hypotheses of every clause of SyncArrivalsAndTermsComplete can all be met. -/
theorem test_SyncArrivalsAndTermsComplete_witness :
    (∃ (s : State) (addr : DWord) (k : Nat), bits addr.toNat 19 18 = 0 ∧ s.packetCtr addr = some k ∧ addr.toNat.testBit 17 = false)
    ∧ (∃ (s : State) (addr : DWord) (k : Nat), bits addr.toNat 19 18 = 0 ∧ s.packetCtr addr = some k ∧ addr.toNat.testBit 17 = true)
    ∧ (∃ (s : State) (addr : DWord), bits addr.toNat 19 18 = 0 ∧ s.packetCtr addr = none)
    ∧ (∃ (addr : DWord), bits addr.toNat 19 18 = 1 ∧ addr.toNat % 2 ^ 16 / 2 ^ 14 ≠ 0)
    ∧ (∃ (addr : DWord), bits addr.toNat 19 18 = 1 ∧ addr.toNat % 2 ^ 16 / 2 ^ 14 = 0)
    ∧ (∃ (s : State) (now : Nat) (v : State) (w : State), v = s.at_ now ∧ w = ((v.ctrs.filter (fun p => match p.2.owner with
            | .leased _ _ => decide (p.2.renewed + p.2.termUs * 1000 ≤ v.now)
            | _ => false)).map (fun p => p.1)).foldl (fun x k => x.revokeCtr k) v ∧ v.ctlHeld = false)
    ∧ (∃ (s : State) (k : Fin 65536) (now : Nat) (t : Nat), ((s.at_ now).ctr k).owner = .orphan t ∧ ((s.at_ now).ctr k).orphanAt + 1000000000 ≤ (s.at_ now).now)
    ∧ (∃ (s : State) (k : Fin 65536) (now : Nat) (t : Nat), ((s.at_ now).ctr k).owner = .orphan t ∧ (s.at_ now).now < ((s.at_ now).ctr k).orphanAt + 1000000000) :=
  ⟨⟨State.reset, 48 * 2 ^ 48 + 65535 * 2 ^ 32, 65535, by decide +kernel⟩,
   ⟨State.reset, 48 * 2 ^ 48 + 65535 * 2 ^ 32 + 2 ^ 17, 65535, by decide +kernel⟩,
   ⟨State.reset, 47 * 2 ^ 48, by decide +kernel⟩,
   ⟨2 ^ 18 + 2 ^ 15, by decide +kernel⟩,
   ⟨2 ^ 18 + 4095, by decide +kernel⟩,
   ⟨State.reset, 0, _, _, rfl, rfl, by decide +kernel⟩,
   ⟨{ State.reset with pw := { gtcRunning := true }, ctrs := [(65535, { owner := .orphan 0 })] }, 65535, 1000000000, 0, by decide +kernel⟩,
   ⟨{ State.reset with pw := { gtcRunning := true }, ctrs := [(65535, { owner := .orphan 0 })] }, 65535, 999999999, 0, by decide +kernel⟩⟩

/-- The hypotheses of every clause of BatchCommandsComplete can all be met. -/
theorem test_BatchCommandsComplete_witness :
    (∃ (s : State) (q : QueueIx) (slot : SlotIx) (u : State) (a : Accepted) (t : Nat) (v : State) (img : ImageSt), u = s.beginCmd a ∧ v = u.clearErrors t ∧ s.ready q slot 0x0102 a ∧ s.runWaits a = false ∧ u.runTurf a = some t ∧ v.runRefusal a = none ∧ tfind v.images (sqArg a.entry 0) = some img)
    ∧ (∃ (s : State) (q : QueueIx) (slot : SlotIx) (u : State) (a : Accepted) (c : State × Nat), u = s.beginCmd a ∧ c = u.cancelRuns (sqTurf a.entry) ∧ s.ready q slot 0x0103 a ∧ c.1.batch (sqTurf a.entry) = none)
    ∧ (∃ (s : State) (q : QueueIx) (slot : SlotIx) (u : State) (a : Accepted) (c : State × Nat) (b : BatchSt), u = s.beginCmd a ∧ c = u.cancelRuns (sqTurf a.entry) ∧ s.ready q slot 0x0103 a ∧ c.1.batch (sqTurf a.entry) = some b ∧ b.started = false ∧ b.waiting = true)
    ∧ (∃ (s : State) (q : QueueIx) (slot : SlotIx) (u : State) (a : Accepted) (c : State × Nat) (b : BatchSt), u = s.beginCmd a ∧ c = u.cancelRuns (sqTurf a.entry) ∧ s.ready q slot 0x0103 a ∧ c.1.batch (sqTurf a.entry) = some b ∧ b.started = true)
    ∧ (∃ (s : State) (u : State) (a : Accepted) (cd : CdIx) (arg : Word) (count : DWord) (v : State) (w : State), u = s.beginCmd a ∧ v = { s with arms := tset s.arms (cd * 64 + bits arg.toNat 5 0) {
          regions := bits arg.toNat 19 16, attempt := bits arg.toNat 9 8, count := count.toNat } } ∧ w = v.modCd cd (fun d => { d with
          flits := d.flits.filter (fun f => !((setBits (bits arg.toNat 19 16) 4).map (fun i => 4 * cd.val + i)).contains (regionOf f.cell)) }) ∧ tfind s.arms (cd * 64 + bits arg.toNat 5 0) = none)
    ∧ (∃ (s : State) (u : State) (a : Accepted) (cd : CdIx) (arg : Word) (count : DWord) (h : HeldArm), u = s.beginCmd a ∧ tfind s.arms (cd * 64 + bits arg.toNat 5 0) = some h ∧ h.attempt = bits arg.toNat 9 8 ∧ h.count = count.toNat)
    ∧ (∃ (s : State) (u : State) (a : Accepted) (cd : CdIx) (arg : Word), u = s.beginCmd a ∧ tfind s.arms (cd * 64 + bits arg.toNat 5 0) = none)
    ∧ (∃ (s : State) (u : State) (a : Accepted) (now : Nat) (t : TurfIx) (b : BatchSt) (v : State), u = s.beginCmd a ∧ v = (s.at_ now).sendNotices 3 t b.attempt b.regions b.startCount ∧ (s.at_ now).batch t = some b ∧ b.waiting = false ∧ b.started = false ∧ b.startCount ≤ (s.at_ now).now + 1000 ∧ (s.at_ now).armed t b = false ∧ (s.at_ now).batchLacks t = false ∧ b.attempt = 1 ∧ b.hostCount = false)
    ∧ (∃ (s : State) (u : State) (a : Accepted) (now : Nat) (t : TurfIx) (b : BatchSt) (v : State), u = s.beginCmd a ∧ v = ((s.at_ now).evalWaits (2 * t + 1)).1 ∧ (s.at_ now).batch t = some b ∧ b.started = true ∧ 64 * popCount b.regions 64 ≤ ((s.at_ now).ctr (2 * t + 1)).value ∧ b.abortCmd = none)
    ∧ (∃ (s : State) (u : State) (a : Accepted) (now : Nat) (t : TurfIx) (b : BatchSt), u = s.beginCmd a ∧ (s.at_ now).batch t = some b ∧ b.waiting = false ∧ b.started = false ∧ b.stopping = false ∧ b.startCount ≤ (s.at_ now).now ∧ (s.at_ now).armed t b = true ∧ ((s.at_ now).slot + 1) % 32 = 0 ∧ (s.at_ now).tuneGaps.any (fun g => g.1 == t.val && g.2.1 != 0) = false ∧ (s.at_ now).batchLacks t = false)
    ∧ (∃ (s : State) (u : State) (a : Accepted) (now : Nat) (t : TurfIx) (b : BatchSt), u = s.beginCmd a ∧ (s.at_ now).batch t = some b ∧ b.waiting = false ∧ b.started = false ∧ b.stopping = false ∧ b.startCount ≤ (s.at_ now).now ∧ (s.at_ now).armed t b = true ∧ ((s.at_ now).slot + 1) % 32 = 0 ∧ (s.at_ now).tuneGaps.any (fun g => g.1 == t.val && g.2.1 != 0) = false ∧ (s.at_ now).batchLacks t = true)
    ∧ (∃ (s : State) (u : State) (a : Accepted) (r : RegionIx) (x : Sleep), u = s.beginCmd a ∧ (s.region r).going = some x) :=
  ⟨⟨{ tCmd 0x0102 [7] with images := [(7, tImage)] }, 0, 0, _, tAcc 0x0102 [7], 0, _, tImage, rfl, rfl, by decide +kernel⟩,
   ⟨tCmd 0x0103 [], 0, 0, _, tAcc 0x0103 [], _, rfl, rfl, by decide +kernel⟩,
   ⟨{ tCmd 0x0103 [] with batches := [(0, tBatch)] }, 0, 0, _, tAcc 0x0103 [], _, tBatch, rfl, rfl, by decide +kernel⟩,
   ⟨{ tCmd 0x0103 [] with batches := [(0, { tBatch with started := true })] }, 0, 0, _, tAcc 0x0103 [], _, { tBatch with started := true }, rfl, rfl, by decide +kernel⟩,
   ⟨State.reset, _, tAcc 0 [], 15, 0xF013F, 1000, _, _, rfl, rfl, rfl, by decide +kernel⟩,
   ⟨{ State.reset with arms := [(1023, { regions := 15, attempt := 1, count := 1000 })] }, _, tAcc 0 [], 15, 0x13F, 1000, { regions := 15, attempt := 1, count := 1000 }, rfl, by decide +kernel⟩,
   ⟨State.reset, _, tAcc 0 [], 15, 0x13F, rfl, by decide +kernel⟩,
   ⟨{ State.reset with batches := [(63, { tBatch with regions := 1, waiting := false, attempt := 1 })] }, _, tAcc 0 [], 0, 63, { tBatch with regions := 1, waiting := false, attempt := 1 }, _, rfl, rfl, by decide +kernel⟩,
   ⟨{ State.reset with batches := [(63, { tBatch with started := true })] }, _, tAcc 0 [], 0, 63, { tBatch with started := true }, _, rfl, rfl, by decide +kernel⟩,
   ⟨{ State.reset with pw := { schedCycles := 72 * 31 }, batches := [(63, { tBatch with waiting := false })] }, _, tAcc 0 [], 0, 63, { tBatch with waiting := false }, rfl, by decide +kernel⟩,
   ⟨{ State.reset with pw := { schedCycles := 72 * 31 }, batches := [(63, { tBatch with waiting := false })], cals := [(63, { active := { entries := [(0, 0)] } })], ports := [(0, { failed := true })] }, _, tAcc 0 [], 0, 63, { tBatch with waiting := false }, rfl, by decide +kernel⟩,
   ⟨{ State.reset with regions := [(63, { going := some .s4 })] }, _, tAcc 0 [], 63, .s4, rfl, by decide +kernel⟩⟩

/-- The hypotheses of every clause of ComputeAndMoveStepsComplete can all be met. -/
theorem test_ComputeAndMoveStepsComplete_witness :
    (∃ (s : State) (u : State) (c : CellIx) (w : BitVec 256) (x : CellSt) (o : MatOp), x = u.cell c ∧ u = s.beginIssue c .matmul w ∧ o = matOp w x.loop ∧ s.stepReady c .matmul w ∧ ((matBytes o).any (fun a => (u.fly c .matmul w (x.stepUse w) []).marked (rowKey c a.1) a.2)) = false)
    ∧ (∃ (s : State) (u : State) (c : CellIx) (w : BitVec 256) (x : CellSt) (a : AccSlot) (l : List Nat), x = u.cell c ∧ u = s.beginIssue c .drain w ∧ a = x.accSlot (if w.toNat.testBit 216 then 8 + sf w 215 213 else sf w 215 213) ∧ l = drainElems a (sf w 223 220) (sf w 219 217) (u.stepKey c) ∧ s.stepReady c .drain w)
    ∧ (∃ (s : State) (u : State) (c : CellIx) (w : BitVec 256) (x : CellSt) (r : List Word), x = u.cell c ∧ u = s.beginIssue c .vop w ∧ r = vopResult (sf w 223 218) (sf w 197 195) (BitVec.ofNat 32 (sf w 189 158)) ((List.range 128).map (srWord (u.stepKey c)))
          (x.lanes (sf w 212 208)) (x.lanes (sf w 207 203)) (x.lanes (sf w 202 198)) ∧ s.stepReady c .vop w)
    ∧ (∃ (s : State) (u : State) (c : CellIx) (w : BitVec 256) (x : CellSt) (o : VecMem) (v : State), x = u.cell c ∧ u = s.beginIssue c .vload w ∧ o = vecMem w x.loop ∧ v = u.fly c .vload w (x.stepUse w) [.vreg o.vr (loadLanes u.mem c o (u.stepKey c))] ∧ s.stepReady c .vload w)
    ∧ (∃ (s : State) (u : State) (c : CellIx) (w : BitVec 256) (x : CellSt) (o : VecMem) (e : List Nat × List Nat × Nat), x = u.cell c ∧ u = s.beginIssue c .vstore w ∧ o = vecMem w x.loop ∧ e = storeElems o (x.lanes o.vr) (u.stepKey c) ∧ s.stepReady c .vstore w)
    ∧ (∃ (s : State) (u : State) (c : CellIx) (w : BitVec 256) (x : CellSt), x = u.cell c ∧ u = s.beginIssue c .rowcopy w ∧ s.stepReady c .rowcopy w)
    ∧ (∃ (s : State) (u : State) (c : CellIx) (w : BitVec 256) (x : CellSt), x = u.cell c ∧ u = s.beginIssue c .ctlRead w ∧ s.stepReady c .ctlRead w)
    ∧ (∃ (s : State) (u : State) (c : CellIx) (w : BitVec 256) (x : CellSt) (v : Nat), x = u.cell c ∧ u = s.beginIssue c .ctlWrite w ∧ v = (if w.toNat.testBit 207 then (x.loop (sf w 206 203)).toNat else sf w 191 160) ∧ s.stepReady c .ctlWrite w)
    ∧ (∃ (s : State) (u : State) (c : CellIx) (w : BitVec 256) (x : CellSt), x = u.cell c ∧ u = s.beginIssue c .rickRead w ∧ s.stepReady c .rickRead w) :=
  ⟨⟨tStep (2 ^ 126) 0x00, _, 4095, tWord (2 ^ 126) 0x00, _, _, rfl, rfl, rfl, by decide +kernel⟩,
   ⟨tStep 0 0x01, _, 4095, tWord 0 0x01, _, _, _, rfl, rfl, rfl, rfl, by decide +kernel⟩,
   ⟨tStep 0 0x02, _, 4095, tWord 0 0x02, _, _, rfl, rfl, rfl, by decide +kernel⟩,
   ⟨tStep 0 0x03, _, 4095, tWord 0 0x03, _, _, _, rfl, rfl, rfl, rfl, by decide +kernel⟩,
   ⟨tStep 0 0x04, _, 4095, tWord 0 0x04, _, _, _, rfl, rfl, rfl, rfl, by decide +kernel⟩,
   ⟨tStep (2 ^ 190) 0x10, _, 4095, tWord (2 ^ 190) 0x10, _, rfl, rfl, by decide +kernel⟩,
   ⟨tStep 0 0x11, _, 4095, tWord 0 0x11, _, rfl, rfl, by decide +kernel⟩,
   ⟨tStep (2 ^ 160) 0x12, _, 4095, tWord (2 ^ 160) 0x12, _, _, rfl, rfl, rfl, by decide +kernel⟩,
   ⟨tStep 0 0x13, _, 4095, tWord 0 0x13, _, rfl, rfl, by decide +kernel⟩⟩

/-- The hypotheses of every clause of SyncAndLoopStepsComplete can all be met. -/
theorem test_SyncAndLoopStepsComplete_witness :
    (∃ (s : State) (u : State) (c : CellIx) (w : BitVec 256) (x : CellSt) (r : State × WaitResult), x = u.cell c ∧ u = s.beginIssue c .wait w ∧ r = u.waitOn (65536 + c * 64 + sf w 223 218) {
          who := cellParty 0 c
          thresh := if w.toNat.testBit 153 then (x.loop (sf w 152 149)).toInt else signed 32 (sf w 217 186)
          dec := sf w 185 154, since := u.now, layer := x.layer, operator := x.operator } ∧ s.stepReady c .wait w ∧ r.2 = .standing)
    ∧ (∃ (s : State) (u : State) (c : CellIx) (w : BitVec 256) (x : CellSt) (r : State × WaitResult), x = u.cell c ∧ u = s.beginIssue c .wait w ∧ r = u.waitOn (65536 + c * 64 + sf w 223 218) {
          who := cellParty 0 c
          thresh := if w.toNat.testBit 153 then (x.loop (sf w 152 149)).toInt else signed 32 (sf w 217 186)
          dec := sf w 185 154, since := u.now, layer := x.layer, operator := x.operator } ∧ s.stepReady c .wait w ∧ r.2 ≠ .standing)
    ∧ (∃ (s : State) (u : State) (c : CellIx) (w : BitVec 256) (x : CellSt), x = u.cell c ∧ u = s.beginIssue c .signal w ∧ s.stepReady c .signal w ∧ s.signalStalls c (s.collierParty c).turf (s.signalAddr c w) = false)
    ∧ (∃ (s : State) (u : State) (c : CellIx) (w : BitVec 256) (x : CellSt), x = u.cell c ∧ u = s.beginIssue c .sread w ∧ s.stepReady c .sread w)
    ∧ (∃ (s : State) (u : State) (c : CellIx) (w : BitVec 256) (x : CellSt), x = u.cell c ∧ u = s.beginIssue c .token w ∧ s.stepReady c .token w)
    ∧ (∃ (s : State) (u : State) (c : CellIx) (w : BitVec 256) (x : CellSt), x = u.cell c ∧ u = s.beginIssue c .lset w ∧ s.stepReady c .lset w)
    ∧ (∃ (s : State) (u : State) (c : CellIx) (w : BitVec 256) (x : CellSt), x = u.cell c ∧ u = s.beginIssue c .ladd w ∧ s.stepReady c .ladd w)
    ∧ (∃ (s : State) (u : State) (c : CellIx) (w : BitVec 256) (x : CellSt), x = u.cell c ∧ u = s.beginIssue c .lcopy w ∧ s.stepReady c .lcopy w)
    ∧ (∃ (s : State) (u : State) (c : CellIx) (w : BitVec 256) (x : CellSt), x = u.cell c ∧ u = s.beginIssue c .djnz w ∧ s.stepReady c .djnz w)
    ∧ (∃ (s : State) (u : State) (c : CellIx) (w : BitVec 256) (x : CellSt), x = u.cell c ∧ u = s.beginIssue c .jmp w ∧ s.stepReady c .jmp w)
    ∧ (∃ (s : State) (u : State) (c : CellIx) (w : BitVec 256) (x : CellSt), x = u.cell c ∧ u = s.beginIssue c .jz w ∧ s.stepReady c .jz w)
    ∧ (∃ (s : State) (u : State) (c : CellIx) (w : BitVec 256) (x : CellSt), x = u.cell c ∧ u = s.beginIssue c .jltu w ∧ s.stepReady c .jltu w)
    ∧ (∃ (s : State) (u : State) (c : CellIx) (w : BitVec 256) (x : CellSt), x = u.cell c ∧ u = s.beginIssue c .mark w ∧ s.stepReady c .mark w)
    ∧ (∃ (s : State) (u : State) (c : CellIx) (w : BitVec 256) (x : CellSt), x = u.cell c ∧ u = s.beginIssue c .halt w ∧ s.stepReady c .halt w) :=
  ⟨⟨tStep (2 ^ 186) 0x20, _, 4095, tWord (2 ^ 186) 0x20, _, _, rfl, rfl, rfl, by decide +kernel⟩,
   ⟨tStep 0 0x20, _, 4095, tWord 0 0x20, _, _, rfl, rfl, rfl, by decide +kernel⟩,
   ⟨tStep (2 ^ 154) 0x21, _, 4095, tWord (2 ^ 154) 0x21, _, rfl, rfl, by decide +kernel⟩,
   ⟨tStep 0 0x22, _, 4095, tWord 0 0x22, _, rfl, rfl, by decide +kernel⟩,
   ⟨tStep 0 0x23, _, 4095, tWord 0 0x23, _, rfl, rfl, by decide +kernel⟩,
   ⟨tStep 0 0x30, _, 4095, tWord 0 0x30, _, rfl, rfl, by decide +kernel⟩,
   ⟨tStep 0 0x31, _, 4095, tWord 0 0x31, _, rfl, rfl, by decide +kernel⟩,
   ⟨tStep 0 0x32, _, 4095, tWord 0 0x32, _, rfl, rfl, by decide +kernel⟩,
   ⟨tStep 0 0x33, _, 4095, tWord 0 0x33, _, rfl, rfl, by decide +kernel⟩,
   ⟨tStep 0 0x34, _, 4095, tWord 0 0x34, _, rfl, rfl, by decide +kernel⟩,
   ⟨tStep 0 0x35, _, 4095, tWord 0 0x35, _, rfl, rfl, by decide +kernel⟩,
   ⟨tStep 0 0x36, _, 4095, tWord 0 0x36, _, rfl, rfl, by decide +kernel⟩,
   ⟨tStep 0 0x40, _, 4095, tWord 0 0x40, _, rfl, rfl, by decide +kernel⟩,
   ⟨tStep 0 0x50, _, 4095, tWord 0 0x50, _, rfl, rfl, by decide +kernel⟩⟩

/-- The hypotheses of every clause of CellEventsComplete can all be met. -/
theorem test_CellEventsComplete_witness :
    (∃ (s : State) (c : CellIx) (k : Fin 2048) (i : InFlight), (s.cell c).inflight[k.val]? = some i ∧ i.unit ≠ .ctl ∧ s.held = false)
    ∧ (∃ (s : State) (c : CellIx) (t : Nat) (u : State) (v : State), u = ((s.cell c).inflight.filter (fun i => i.unit == .ctl)).foldl (fun v i => v.post c i.postT i.postN)
          (s.modCell c (fun y => { y with halted := true, running := false, haltIssued := false, inflight := [] })) ∧ v = u.modBatch t (fun b => { b with lastHalt := max b.lastHalt u.now }) ∧ (s.cell c).haltDue = true ∧ s.protRoom (c / 256) = true ∧ (u.cell c).stoppedErr = false ∧ u.batchOfCell c = some t)
    ∧ (∃ (s : State) (c : CellIx), (s.cell c).running = true ∧ s.held = false)
    ∧ (∃ (s : State) (c : CellIx), (s.region (regionOf c)).sleep = .s0)
    ∧ (∃ (s : State) (c : CellIx), (s.region (regionOf c)).sleep = .s0)
    ∧ (∃ (s : State) (c : CellIx), (s.region (regionOf c)).sleep = .s0) :=
  ⟨⟨{ State.reset with cells := [(4095, { inflight := [tFlight] })] }, 4095, 0, tFlight, by decide +kernel⟩,
   ⟨{ State.reset with batches := [(63, { tBatch with regions := 2 ^ 63, started := true })], cells := [(4095, { running := true, haltIssued := true, ae0 := { finished := true }, ae1 := { finished := true } })] }, 4095, 63, _, _, rfl, rfl, by decide +kernel⟩,
   ⟨{ State.reset with cells := [(4095, { running := true, macBusy := true })] }, 4095, by decide +kernel⟩,
   ⟨{ State.reset with regions := [(63, { sleep := .s0 })] }, 4095, by decide +kernel⟩,
   ⟨{ State.reset with regions := [(63, { sleep := .s0 })] }, 4095, by decide +kernel⟩,
   ⟨{ State.reset with regions := [(63, { sleep := .s0 })] }, 4095, by decide +kernel⟩⟩

/-- The hypotheses of every clause of EngineEntriesComplete can all be met. -/
theorem test_EngineEntriesComplete_witness :
    (∃ (s : State) (u : State) (c : CellIx) (e : AeIx) (w : BitVec 512) (r : Nat) (id : Nat), r = ((s.cell c).ae e).rep ∧ id = ((s.cell c).ae e).nextId ∧ u = s.beginEntry c e w ∧ s.entryReady c e 1 w)
    ∧ (∃ (s : State) (u : State) (c : CellIx) (e : AeIx) (w : BitVec 512) (r : Nat) (id : Nat), r = ((s.cell c).ae e).rep ∧ id = ((s.cell c).ae e).nextId ∧ u = s.beginEntry c e w ∧ s.entryReady c e 2 w)
    ∧ (∃ (s : State) (u : State) (c : CellIx) (e : AeIx) (w : BitVec 512) (r : Nat) (id : Nat), r = ((s.cell c).ae e).rep ∧ id = ((s.cell c).ae e).nextId ∧ u = s.beginEntry c e w ∧ s.entryReady c e 3 w)
    ∧ (∃ (s : State) (u : State) (c : CellIx) (e : AeIx) (w : BitVec 512) (r : Nat) (id : Nat), r = ((s.cell c).ae e).rep ∧ id = ((s.cell c).ae e).nextId ∧ u = s.beginEntry c e w ∧ s.entryReady c e 4 w)
    ∧ (∃ (s : State) (u : State) (c : CellIx) (e : AeIx) (w : BitVec 512) (r : Nat) (id : Nat), r = ((s.cell c).ae e).rep ∧ id = ((s.cell c).ae e).nextId ∧ u = s.beginEntry c e w ∧ s.entryReady c e 5 w ∧ ((s.cell c).ae e).quiet = true ∧ s.signalStalls c (s.cellTurf c) (fld w 16 8) = false)
    ∧ (∃ (s : State) (u : State) (c : CellIx) (e : AeIx) (w : BitVec 512) (r : Nat) (id : Nat) (v : State × WaitResult), r = ((s.cell c).ae e).rep ∧ id = ((s.cell c).ae e).nextId ∧ u = s.beginEntry c e w ∧ v = u.waitOn (65536 + c * 64 + fld w 16 1) {
          who := cellParty (1 + e) c, thresh := signed 32 (fld w 20 4), dec := fld w 24 4, since := u.now, layer := aeLayer w
          operator := aeOperator w } ∧ s.entryReady c e 6 w ∧ v.2 = .standing)
    ∧ (∃ (s : State) (u : State) (c : CellIx) (e : AeIx) (w : BitVec 512) (r : Nat) (id : Nat) (v : State × WaitResult), r = ((s.cell c).ae e).rep ∧ id = ((s.cell c).ae e).nextId ∧ u = s.beginEntry c e w ∧ v = u.waitOn (65536 + c * 64 + fld w 16 1) {
          who := cellParty (1 + e) c, thresh := signed 32 (fld w 20 4), dec := fld w 24 4, since := u.now, layer := aeLayer w
          operator := aeOperator w } ∧ s.entryReady c e 6 w ∧ v.2 ≠ .standing)
    ∧ (∃ (s : State) (c : CellIx) (e : AeIx) (w : BitVec 512) (r : Nat) (id : Nat), r = ((s.cell c).ae e).rep ∧ id = ((s.cell c).ae e).nextId ∧ ((s.cell c).ae e).entry = some w ∧ (s.cell c).aeGoing e = true ∧ aeKind w = 0)
    ∧ (∃ (s : State) (u : State) (c : CellIx) (e : AeIx) (w : BitVec 512) (r : Nat) (id : Nat), r = ((s.cell c).ae e).rep ∧ id = ((s.cell c).ae e).nextId ∧ u = s.beginEntry c e w ∧ s.entryReady c e 7 w ∧ s.held = false)
    ∧ (∃ (s : State) (u : State) (c : CellIx) (e : AeIx) (w : BitVec 512) (r : Nat) (id : Nat), r = ((s.cell c).ae e).rep ∧ id = ((s.cell c).ae e).nextId ∧ u = s.beginEntry c e w ∧ s.entryReady c e 8 w ∧ s.held = false) :=
  ⟨⟨tAe 1, _, 4095, 1, 1, _, _, rfl, rfl, rfl, by decide +kernel⟩,
   ⟨tAe 2, _, 4095, 1, 2, _, _, rfl, rfl, rfl, by decide +kernel⟩,
   ⟨tAe 3, _, 4095, 1, 3, _, _, rfl, rfl, rfl, by decide +kernel⟩,
   ⟨tAe 4, _, 4095, 1, 4, _, _, rfl, rfl, rfl, by decide +kernel⟩,
   ⟨tAe 5, _, 4095, 1, 5, _, _, rfl, rfl, rfl, by decide +kernel⟩,
   ⟨tAe (6 + 2 ^ 160), _, 4095, 1, 6 + 2 ^ 160, _, _, _, rfl, rfl, rfl, rfl, by decide +kernel⟩,
   ⟨tAe 6, _, 4095, 1, 6, _, _, _, rfl, rfl, rfl, rfl, by decide +kernel⟩,
   ⟨tAe 0, 4095, 1, 0, _, _, rfl, rfl, by decide +kernel⟩,
   ⟨tAe 7, _, 4095, 1, 7, _, _, rfl, rfl, rfl, by decide +kernel⟩,
   ⟨tAe 8, _, 4095, 1, 8, _, _, rfl, rfl, rfl, by decide +kernel⟩⟩

/-- The hypotheses of every clause of EngineEventsComplete can all be met. -/
theorem test_EngineEventsComplete_witness :
    (∃ (s : State) (u : State) (c : CellIx) (e : AeIx) (now : Nat) (w : BitVec 512), u = s.at_ now ∧ ((s.cell c).ae e).entry = some w ∧ s.held = false ∧ (s.cell c).running = true ∧ (s.cell c).stopping = false ∧ ((s.cell c).ae e).faulted = false ∧ ((s.cell c).ae e).schedAhead = true ∧ (isSched w = false ∨ (s.cell c).canTake (aeTake w).1 (aeTake w).2 = false))
    ∧ (∃ (s : State) (u : State) (c : CellIx) (e : AeIx) (now : Nat) (r : AeRep) (l : List AeRep), u = s.at_ now ∧ ((s.cell c).ae e).reps = r :: l ∧ r.opsLeft = 0 ∧ ((s.cell c).ae e).faulted = false)
    ∧ (∃ (s : State) (u : State) (c : CellIx) (e : AeIx) (now : Nat) (tag : Word), u = s.at_ now ∧ (s.ops.any (fun o => o.unit == cellParty (1 + e) c && o.tag == tag)) = true)
    ∧ (∃ (s : State) (u : State) (c : CellIx) (e : AeIx) (now : Nat) (tag : Word) (o : AeOp) (t : Nat) (r : AeRep), u = s.at_ now ∧ ((u.cell c).ae e).ops.find? (fun o => o.tag == tag) = some o ∧ o.refusedAt = some t ∧ ((u.cell c).ae e).repOf o.rep = some r ∧ t + 1000 ≤ u.now ∧ (u.cell c).stopping = false) :=
  ⟨⟨tAe (7 + 2 ^ 20), _, 4095, 1, 0, 7 + 2 ^ 20, rfl, by decide +kernel⟩,
   ⟨{ State.reset with cells := [(4095, { ae1 := { reps := [tRep] } })] }, _, 4095, 1, 0, tRep, [], rfl, by decide +kernel⟩,
   ⟨{ State.reset with ops := [{ unit := cellParty 2 4095, tag := 5, pkt := {hdr := 0}, turf := 0, sentAt := 0 }] }, _, 4095, 1, 0, 5, rfl, by decide +kernel⟩,
   ⟨{ State.reset with pw := { gtcRunning := true }, cells := [(4095, { ae1 := { ops := [tAeOp], reps := [tRep] } })] }, _, 4095, 1, 1000, 5, tAeOp, 0, tRep, rfl, by decide +kernel⟩⟩

/-- The hypotheses of every clause of MemoryOperationsComplete can all be met. -/
theorem test_MemoryOperationsComplete_witness :
    (∃ (s : State) (a : Arrival) (p : Packet) (m : Nat) (o : Nat), p.op = 1 ∧ s.siteHeld p = false ∧ p.requestOk = true ∧ s.resolve p.addr = some (.site m o) ∧ s.opRefusal a.turf p = none)
    ∧ (∃ (s : State) (a : Arrival) (p : Packet) (m : Nat) (o : Nat), p.op = 2 ∧ s.siteHeld p = false ∧ p.requestOk = true ∧ s.resolve p.addr = some (.site m o) ∧ s.opRefusal a.turf p = none)
    ∧ (∃ (s : State) (a : Arrival) (p : Packet) (k : Nat), p.op = 1 ∧ s.siteHeld p = false ∧ p.requestOk = true ∧ s.resolve p.addr = some (.ctr k) ∧ p.len = 4 ∧ s.ctrReadRefusal k a.turf = none)
    ∧ (∃ (s : State) (a : Arrival) (p : Packet) (m : Nat) (o : Nat) (n : Nat) (bs : Bytes) (r : Nat × Nat), n = otypeBytes p.otype ∧ r = atomValue p (leNat bs) ∧ p.op = 0x10 ∧ s.siteHeld p = false ∧ p.requestOk = true ∧ s.atomFound p = none ∧ s.farPending p = false ∧ s.resolve p.addr = some (.site m o) ∧ s.opRefusal a.turf p = none ∧ (s.meetRange p.addr n).readPiece p.addr n = some (bs, false))
    ∧ (∃ (s : State) (a : Arrival) (p : Packet) (m : Nat) (o : Nat) (n : Nat) (bs : Bytes) (r : Nat × Nat), n = otypeBytes p.otype ∧ r = atomValue p (leNat bs) ∧ p.op = 0x11 ∧ s.siteHeld p = false ∧ p.requestOk = true ∧ s.atomFound p = none ∧ s.farPending p = false ∧ s.resolve p.addr = some (.site m o) ∧ s.opRefusal a.turf p = none ∧ (s.meetRange p.addr n).readPiece p.addr n = some (bs, false))
    ∧ (∃ (s : State) (a : Arrival) (p : Packet) (m : Nat) (o : Nat) (n : Nat) (bs : Bytes) (r : Nat × Nat), n = otypeBytes p.otype ∧ r = atomValue p (leNat bs) ∧ p.op = 0x12 ∧ s.siteHeld p = false ∧ p.requestOk = true ∧ s.atomFound p = none ∧ s.farPending p = false ∧ s.resolve p.addr = some (.site m o) ∧ s.opRefusal a.turf p = none ∧ (s.meetRange p.addr n).readPiece p.addr n = some (bs, false))
    ∧ (∃ (s : State) (a : Arrival) (p : Packet) (m : Nat) (o : Nat) (n : Nat) (bs : Bytes) (r : Nat × Nat), n = otypeBytes p.otype ∧ r = atomValue p (leNat bs) ∧ p.op = 0x13 ∧ s.siteHeld p = false ∧ p.requestOk = true ∧ s.atomFound p = none ∧ s.farPending p = false ∧ s.resolve p.addr = some (.site m o) ∧ s.opRefusal a.turf p = none ∧ (s.meetRange p.addr n).readPiece p.addr n = some (bs, false))
    ∧ (∃ (s : State) (a : Arrival) (p : Packet) (k : Nat) (r : State × Nat), r = s.signalCtr k (signed 32 p.operand.toNat) {
          who := BitVec.ofNat 16 (if a.remote then p.srcEp else p.unit), turf := a.turf, remote := a.remote } ∧ p.op = 0x10 ∧ s.siteHeld p = false ∧ p.requestOk = true ∧ s.atomFound p = none ∧ s.farPending p = false ∧ s.resolve p.addr = some (.ctr k) ∧ p.otype = 0 ∧ signed 32 p.operand.toNat ≠ 0 ∧ r.2 = stOk) :=
  ⟨⟨{ State.reset with cfg := tOwner }, { turf := 0 }, { hdr := mkHdr 1 0 0 0 256 0 1 0 (2 ^ 52) 0 }, 0, 0, by decide +kernel⟩,
   ⟨{ State.reset with cfg := tOwner }, { turf := 0 }, { ({ hdr := mkHdr 2 0 0 0 256 0 1 0 (2 ^ 52) 0 } : Packet) with data := List.replicate 256 7 }, 0, 0, by decide +kernel⟩,
   ⟨State.reset, { turf := 0 }, { hdr := mkHdr 1 0 0 0 4 0 1 0 (48 * 2 ^ 48) 0 }, 0, by decide +kernel⟩,
   ⟨{ State.reset with cfg := tOwner }, { turf := 0 }, { hdr := mkHdr 16 0 0 0 0 0 1 0 (2 ^ 52) 0 }, 0, 0, _, List.replicate 4 0, _, rfl, rfl, by decide +kernel⟩,
   ⟨{ State.reset with cfg := tOwner }, { turf := 0 }, { hdr := mkHdr 17 0 0 0 0 0 1 0 (2 ^ 52) 0 }, 0, 0, _, List.replicate 4 0, _, rfl, rfl, by decide +kernel⟩,
   ⟨{ State.reset with cfg := tOwner }, { turf := 0 }, { hdr := mkHdr 18 0 0 0 0 0 1 0 (2 ^ 52) 0 }, 0, 0, _, List.replicate 4 0, _, rfl, rfl, by decide +kernel⟩,
   ⟨{ State.reset with cfg := tOwner }, { turf := 0 }, { hdr := mkHdr 19 1 0 0 0 0 1 0 (2 ^ 52) 0 }, 0, 0, _, List.replicate 8 0, _, rfl, rfl, by decide +kernel⟩,
   ⟨State.reset, { turf := 0 }, { hdr := mkHdr 16 0 0 0 0 0 1 0 (48 * 2 ^ 48) 5 }, 0, _, rfl, by decide +kernel⟩⟩

/-- The hypotheses of every clause of AnswersComplete can all be met. -/
theorem test_AnswersComplete_witness :
    (∃ (s : State) (unit : Half) (p : Packet) (o : TomicOp), s.opOf unit p.tag = some o ∧ p.op = 0x80 ∧ o.pkt.op ≠ 1)
    ∧ (∃ (s : State) (unit : Half) (p : Packet) (o : TomicOp), s.opOf unit p.tag = some o ∧ p.op = 0x81 ∧ o.pkt.op = 1 ∧ p.data.length = o.pkt.len)
    ∧ (∃ (s : State) (unit : Half) (p : Packet) (o : TomicOp), s.opOf unit p.tag = some o ∧ p.op = 0x82 ∧ p.status ≠ 0)
    ∧ (∃ (s : State) (unit : Half) (p : Packet), s.opOf unit p.tag = none)
    ∧ (∃ (s : State) (unit : Half) (p : Packet), s.opOf unit p.tag = none)
    ∧ (∃ (s : State) (unit : Half) (p : Packet), s.opOf unit p.tag = none) :=
  ⟨⟨{ State.reset with ops := [tOp 2] }, 5, { hdr := mkHdr 0x80 0 0 0 0 5 9 0 0 0 }, tOp 2, by decide +kernel⟩,
   ⟨{ State.reset with ops := [tOp 1] }, 5, { hdr := mkHdr 0x81 0 0 0 0 5 9 0 0 0 }, tOp 1, by decide +kernel⟩,
   ⟨{ State.reset with ops := [tOp 2] }, 5, { hdr := mkHdr 0x82 0 0 8 0 5 9 0 0 0 }, tOp 2, by decide +kernel⟩,
   ⟨State.reset, 5, { hdr := 0 }, by decide +kernel⟩,
   ⟨State.reset, 5, { hdr := 0 }, by decide +kernel⟩,
   ⟨State.reset, 5, { hdr := 0 }, by decide +kernel⟩⟩

/-- The hypotheses of every clause of TimeoutsAndEscapeComplete can all be met. -/
theorem test_TimeoutsAndEscapeComplete_witness :
    (∃ (s : State) (u : State) (now : Nat) (unit : Half) (tag : Word) (o : TomicOp), u = s.at_ now ∧ u.opOf unit tag.toNat = some o ∧ o.sentAt + 10000000 ≤ u.now)
    ∧ (∃ (s : State) (u : State) (now : Nat) (unit : Half) (tag : Word) (o : TomicOp), u = s.at_ now ∧ u.opOf unit tag.toNat = some o ∧ u.now < o.sentAt + 10000000)
    ∧ (∃ (s : State) (u : State) (now : Nat) (l : LinkIx) (vc : Fin 4) (h : Nat × Nat × Nat × Bytes) (v : State), u = s.at_ now ∧ (u.link l).waiting.find? (fun w => w.1 == vc.val) = some h ∧ isFar l = false ∧ linkChannel l ≠ 2 ∧ (u.link l).state = .inService ∧ tget (u.link l).recCredits 0 vc = 0 ∧ h.2.1 + 2000 ≤ u.now ∧ v = ((u.link l).waiting.filter (fun w => w.1 == vc.val)).foldl (fun v w => v.escapeBody l vc w.2.2.2)
          ((u.modLink l (fun y => { y with waiting := y.waiting.filter (fun w => w.1 != vc.val) })).fibreCount l 6))
    ∧ (∃ (s : State) (u : State) (now : Nat) (l : LinkIx) (vc : Fin 4), u = s.at_ now ∧ (u.link l).waiting.find? (fun w => w.1 == vc.val) = none) :=
  ⟨⟨{ State.reset with pw := { gtcRunning := true }, ops := [tOp 2] }, _, 10000000, 5, 9, tOp 2, rfl, by decide +kernel⟩,
   ⟨{ State.reset with pw := { gtcRunning := true }, ops := [tOp 2] }, _, 9999999, 5, 9, tOp 2, rfl, by decide +kernel⟩,
   ⟨{ State.reset with pw := { gtcRunning := true }, links := [(64, { state := .inService, waiting := [(3, 0, 64, [])] })] }, _, 2000, 64, 3, (3, 0, 64, []), _, rfl, by decide +kernel, by decide +kernel, by decide +kernel, by decide +kernel, by decide +kernel, by decide +kernel, rfl⟩,
   ⟨State.reset, _, 2000, 64, 3, rfl, by decide +kernel⟩⟩

/-- The hypotheses of every clause of CopyEnginesAndMessagesComplete can all be met. -/
theorem test_CopyEnginesAndMessagesComplete_witness :
    (∃ (s : State) (ce : CeIx) (d : CeDesc) (o : Option Bytes), (s.ce ce).nextDesc (s.ceOutstanding ce) = some d ∧ (d.srcHost = false ∨ o.all (fun b => b.length == d.len) = true))
    ∧ (∃ (s : State) (ce : CeIx) (d : CeDesc) (v : State), v = s.modDesc ce d.id (fun x => { x with started := true, gather := [] }) ∧ (s.ce ce).nextDesc (s.ceOutstanding ce) = some d ∧ d.srcHost = false ∧ v.descOk d = false)
    ∧ (∃ (s : State) (ce : CeIx) (d : CeDesc) (v : State), v = s.modDesc ce d.id (fun x => { x with started := true, gather := [] }) ∧ (s.ce ce).nextDesc (s.ceOutstanding ce) = some d ∧ d.srcHost = false ∧ d.op < 0x20 ∧ d.otype ≠ 3 ∧ v.descOk d = true)
    ∧ (∃ (s : State) (ce : CeIx) (d : CeDesc), s.endedDesc ce = some d ∧ (d.statusAddr = 0 ∨ d.stored = true))
    ∧ (∃ (s : State) (ce : CeIx) (d : CeDesc) (v : State), v = s.modDesc ce d.id (fun x => { x with statusSent := true }) ∧ s.endedDesc ce = some d ∧ d.statusAddr ≠ 0 ∧ d.stored = false ∧ s.issueRefusal d.turf d.statusAddr = none)
    ∧ (∃ (s : State) (ce : CeIx) (a : Arrival) (p : Packet), p.op = 2 ∧ s.resolve p.addr = some (.ceSubmit ce) ∧ s.submitRefusal ce a.turf a.remote p = none)
    ∧ (∃ (s : State) (a : Arrival) (p : Packet) (r : State × Nat), r = (inboxRecords p).zipIdx.foldl (fun (acc : State × Nat) x =>
          if !(leAt x.1 0 2).testBit 15 then acc
          else ((acc.1.deliver a.turf p x.1).1, if (acc.1.deliver a.turf p x.1).2 then acc.2 + 2 ^ x.2 else acc.2)) (s, 0) ∧ p.op = 2 ∧ s.resolve p.addr = some .inbox ∧ p.requestOk = true ∧ p.len = 256 ∧ (inboxRecords p).all msgOk = true) :=
  ⟨⟨{ State.reset with ces := [(63, { queue := [tDesc] })] }, 63, tDesc, none, by decide +kernel⟩,
   ⟨{ State.reset with ces := [(63, { queue := [tDesc] })] }, 63, tDesc, _, rfl, by decide +kernel⟩,
   ⟨{ State.reset with ces := [(63, { queue := [{ tDesc with raw := BitVec.ofNat 512 (0x10 + 2 ^ 116) }] })] }, 63, { tDesc with raw := BitVec.ofNat 512 (0x10 + 2 ^ 116) }, _, rfl, by decide +kernel⟩,
   ⟨{ State.reset with ces := [(63, { queue := [{ tDesc with ended := true }] })] }, 63, { tDesc with ended := true }, by decide +kernel⟩,
   ⟨{ State.reset with ces := [(63, { queue := [{ tDesc with ended := true, raw := BitVec.ofNat 512 (2 ^ 500) }] })] }, 63, { tDesc with ended := true, raw := BitVec.ofNat 512 (2 ^ 500) }, _, rfl, by decide +kernel⟩,
   ⟨State.reset, 63, { turf := 0 }, { (tStore (49 * 2 ^ 48 + 63 * 0x10000)) with data := List.replicate 256 0 }, by decide +kernel⟩,
   ⟨State.reset, { turf := 0 }, { (tStore (49 * 2 ^ 48 + 0x1000000)) with data := List.replicate 256 0 }, _, rfl, by decide +kernel⟩⟩

/-- The hypotheses of every clause of FarUnitsComplete can all be met. -/
theorem test_FarUnitsComplete_witness :
    (∃ (l : LinkIx) (f : Bytes), isFar l = true ∧ leAt f 4 1 = 2 ∧ linkShapeOk l f = true)
    ∧ (∃ (l : LinkIx) (f : Bytes), isFar l = true ∧ leAt f 4 1 = 1 ∧ linkShapeOk l f = true)
    ∧ (∃ (l : LinkIx) (f : Bytes), isFar l = true ∧ leAt f 4 1 = 0 ∧ linkShapeOk l f = true)
    ∧ (∃ (l : LinkIx) (f : Bytes), isFar l = true ∧ leAt f 4 1 = 0 ∧ linkShapeOk l f = true ∧ linkCrcOk f = false)
    ∧ (∃ (s : State) (l : LinkIx) (now : Nat) (t : Nat), isFar l = true ∧ ((s.at_ now).link l).lostAt = some t ∧ ((s.at_ now).link l).state ≠ .inService ∧ t + 50000 ≤ (s.at_ now).now ∧ ((s.at_ now).farUp (l / 8)).isEmpty = false)
    ∧ (∃ (s : State) (u : FmuIx) (now : Nat) (t : Nat) (v : State) (w : State), v = ((s.at_ now).modFmu u (fun x => { x with
          down := true, registered := false, billets := [], noSublinkSince := none })).failUnitOps u stInternal ∧ w = { v with links := tmap v.links (fun k x => if k / 8 = u.val then { x with cmds := [], heldFrames := [], lostAt := none } else x) } ∧ ((s.at_ now).fmu u).noSublinkSince = some t ∧ t + 50000 ≤ (s.at_ now).now)
    ∧ (∃ (s : State) (u : FmuIx) (p : PortIx) (b : FarBillet), (s.farWritesDue u).find? (fun b => b.port == p.val) = some b)
    ∧ (∃ (s : State) (u : FmuIx) (p : PortIx) (m : Nat) (t : Nat) (k : Nat) (e : BitVec 256) (b : FarBillet), m = s.pw.schedCycles / 72 + 48 ∧ b = { port := p.val, slot := m, isWrite := false, off := s.farOffset t (p.val / 64 - 40) (locAt e true k).toNat, turf := t } ∧ portFmu p = some u.val ∧ (s.entriesAt m).find? (fun e => e.2.1 == p.val) = some (t, p.val, e, k) ∧ ((s.fmu u).billets.any (fun b => b.port == p.val && b.slot == m && !b.isWrite)) = false ∧ s.farFull u = false) :=
  ⟨⟨63, tFrame 2, by decide +kernel⟩,
   ⟨63, tFrame 1, by decide +kernel⟩,
   ⟨63, tFrame 0, by decide +kernel⟩,
   ⟨63, tFrame 0, by decide +kernel⟩,
   ⟨{ State.reset with pw := { gtcRunning := true }, links := [(62, { state := .inService }), (63, { lostAt := some 0 })] }, 63, 50000, 0, by decide +kernel⟩,
   ⟨{ State.reset with pw := { gtcRunning := true }, fmus := [(7, { noSublinkSince := some 0 })] }, 7, 50000, 0, _, _, rfl, rfl, by decide +kernel⟩,
   ⟨{ State.reset with pw := { schedCycles := 144 }, fmus := [(7, { billets := [tBillet] })] }, 7, 2815, tBillet, by decide +kernel⟩,
   ⟨{ State.reset with batches := [(0, { tBatch with started := true })], cals := [(0, { active := { period := 64, entries := [(2815, tEntryAt 48)] } })] }, 7, 2815, _, 0, 0, tEntryAt 48, _, rfl, rfl, by decide +kernel⟩⟩

/-- The hypotheses of every clause of LinkRowsComplete can all be met. -/
theorem test_LinkRowsComplete_witness :
    (∃ (s : State) (u : State) (l : LinkIx) (now : Nat) (m : Bytes) (c : Nat), u = s.at_ now ∧ m.length = 512 ∧ (s.link l).state = .identify ∧ s.identRefusal l m = some c)
    ∧ (∃ (s : State) (u : State) (l : LinkIx) (now : Nat) (m : Bytes) (v : State), u = s.at_ now ∧ v = (s.modLink l (fun x => { x with newIdent := some m })).sendMgmt l (natLe 2 2) ∧ m.length = 512 ∧ (s.link l).state = .identify ∧ s.identRefusal l m = none)
    ∧ (∃ (s : State) (u : State) (l : LinkIx) (now : Nat), u = s.at_ now ∧ (s.link l).state = .identify ∧ (s.link l).newIdent = none)
    ∧ (∃ (s : State) (u : State) (l : LinkIx) (now : Nat) (m : Bytes), u = s.at_ now ∧ (s.link l).state = .identify ∧ (s.link l).newIdent = some m)
    ∧ (∃ (s : State) (u : State) (l : LinkIx) (now : Nat), u = s.at_ now ∧ (s.link l).state = .training)
    ∧ (∃ (s : State) (u : State) (l : LinkIx) (now : Nat), u = s.at_ now ∧ (s.link l).state = .identify ∧ (s.link l).newIdent = none)
    ∧ (∃ (s : State) (u : State) (l : LinkIx) (now : Nat), u = s.at_ now ∧ u.bu.photonicsOn = true ∧ u.pw.shutdown = false ∧ (u.link l).state = .down)
    ∧ (∃ (s : State) (u : State) (l : LinkIx) (now : Nat) (m : Bytes) (n : Half) (v : State), u = s.at_ now ∧ m.length = 18 ∧ s.takesMessage l 5 n v)
    ∧ (∃ (s : State) (u : State) (l : LinkIx) (now : Nat) (m : Bytes) (n : Half) (v : State), u = s.at_ now ∧ m.length = 18 ∧ s.takesMessage l 5 n v)
    ∧ (∃ (s : State) (u : State) (l : LinkIx) (now : Nat) (n : Half) (v : State), u = s.at_ now ∧ u.takesMessage l 5 n v)
    ∧ (∃ (s : State) (u : State) (l : LinkIx) (now : Nat), u = s.at_ now ∧ (u.link l).state = .inService)
    ∧ (∃ (s : State) (u : State) (l : LinkIx) (now : Nat) (f : Nat × Bytes × Nat) (fs : List (Nat × Bytes × Nat)), u = s.at_ now ∧ (u.link l).state = .inService ∧ (u.link l).heldFrames = f :: fs ∧ (u.link l).ackAt + 1000 ≤ u.now)
    ∧ (∃ (s : State) (u : State) (l : LinkIx) (now : Nat), u = s.at_ now ∧ isFar l = true ∧ (u.link l).lastGood + 10000 ≤ u.now)
    ∧ (∃ (s : State) (u : State) (l : LinkIx) (now : Nat), u = s.at_ now ∧ isFar l = false ∧ (u.link l).lastGood + 10000 ≤ u.now)
    ∧ (∃ (s : State) (u : State) (now : Nat), u = s.at_ now) :=
  ⟨⟨{ State.reset with links := [(351, { state := .identify })] }, _, 351, 0, List.replicate 512 0, 1, rfl, by decide +kernel⟩,
   ⟨{ State.reset with links := [(63, { state := .identify })] }, _, 63, 0, tIdent, _, rfl, rfl, by decide +kernel⟩,
   ⟨{ State.reset with links := [(63, { state := .identify })] }, _, 63, 0, rfl, by decide +kernel⟩,
   ⟨{ State.reset with links := [(63, { state := .identify, newIdent := some tIdent })] }, _, 63, 0, tIdent, rfl, by decide +kernel⟩,
   ⟨{ State.reset with links := [(63, { state := .training })] }, _, 63, 0, rfl, by decide +kernel⟩,
   ⟨{ State.reset with links := [(63, { state := .identify })] }, _, 63, 0, rfl, by decide +kernel⟩,
   ⟨{ State.reset with bu := { photonicsOn := true } }, _, 63, 0, rfl, by decide +kernel⟩,
   ⟨{ State.reset with links := [(351, { state := .inService })] }, _, 351, 0, List.replicate 18 0, 1, _, rfl, by decide +kernel, test_taken (by decide +kernel) (by decide +kernel)⟩,
   ⟨{ State.reset with links := [(351, { state := .inService })] }, _, 351, 0, List.replicate 18 0, 1, _, rfl, by decide +kernel, test_taken (by decide +kernel) (by decide +kernel)⟩,
   ⟨{ State.reset with links := [(351, { state := .inService })] }, _, 351, 0, 1, _, rfl, test_taken (by decide +kernel) (by decide +kernel)⟩,
   ⟨{ State.reset with links := [(351, { state := .inService })] }, _, 351, 0, rfl, by decide +kernel⟩,
   ⟨{ State.reset with pw := { gtcRunning := true }, links := [(351, { state := .inService, heldFrames := [(1, [], 0)] })] }, _, 351, 1000, (1, [], 0), [], rfl, by decide +kernel⟩,
   ⟨{ State.reset with pw := { gtcRunning := true } }, _, 63, 10000, rfl, by decide +kernel⟩,
   ⟨{ State.reset with pw := { gtcRunning := true } }, _, 64, 10000, rfl, by decide +kernel⟩,
   ⟨State.reset, _, 0, rfl⟩⟩

/-- The hypotheses of every clause of BaseFramesComplete can all be met. -/
theorem test_BaseFramesComplete_witness :
    (∃ (s : State) (u : State) (now : Nat), u = s.at_ now ∧ s.bu.photonicsOn = true ∧ s.held = false ∧ s.mustHold (s.slot + 1) = false)
    ∧ (∃ (s : State) (u : State) (now : Nat), u = s.at_ now ∧ s.bu.photonicsOn = true ∧ s.held = false ∧ s.mustHold (s.slot + 1) = true)
    ∧ (∃ (s : State) (u : State) (now : Nat), u = s.at_ now ∧ s.bu.photonicsOn = true ∧ (s.held = true ∨ s.pw.h ≠ 0))
    ∧ (∃ (s : State) (u : State) (p : PortIx) (now : Nat) (h : BitVec 512) (d : Bytes) (b : PendingBillet), u = s.at_ now ∧ hdrCrcOk h = true ∧ (fld h 16 1 = 1 ∨ fld h 16 1 = 2) ∧ fld h 22 2 = s.calEpoch ∧ (s.port p).pending.find? (fun b => b.slot % 2 ^ 32 == fld h 24 4) = some b ∧ d.length = 8192 ∧ fld h 56 4 = crc32c d ∧ s.noPlace p = false)
    ∧ (∃ (s : State) (u : State) (p : PortIx) (now : Nat) (h : BitVec 512) (d : Bytes) (b : PendingBillet), u = s.at_ now ∧ hdrCrcOk h = true ∧ (fld h 16 1 = 1 ∨ fld h 16 1 = 2) ∧ fld h 22 2 = s.calEpoch ∧ (s.port p).pending.find? (fun b => b.slot % 2 ^ 32 == fld h 24 4) = some b ∧ fld h 56 4 ≠ crc32c d)
    ∧ (∃ (s : State) (u : State) (now : Nat) (h : BitVec 512), u = s.at_ now ∧ hdrCrcOk h = true ∧ (fld h 16 1 = 1 ∨ fld h 16 1 = 2) ∧ fld h 22 2 ≠ s.calEpoch)
    ∧ (∃ (s : State) (u : State) (p : PortIx) (now : Nat) (r : RepairPlan) (b : PendingBillet) (y : BilletSt), u = s.at_ now ∧ s.holds.repairs.find? (fun r => r.tx == p.val) = some r ∧ (s.port r.rx).pending.find? (fun b => b.slot == r.slot) = some b ∧ s.keptBillet p r.rx b = some y)
    ∧ (∃ (s : State) (u : State) (now : Nat), u = s.at_ now)
    ∧ (∃ (s : State) (u : State) (now : Nat), u = s.at_ now ∧ s.holds.repair = some [])
    ∧ (∃ (s : State) (u : State) (p : PortIx) (now : Nat) (k : DynPkt) (ks : List DynPkt) (v : State), u = s.at_ now ∧ v = s.modPort p (fun x => { x with
          dynQ := x.dynQ.map (fun y => if ((k :: ks).map (fun z => z.id)).contains y.id then { y with requested := true } else y) }) ∧ frameOf (s.port p).dynQ = k :: ks)
    ∧ (∃ (s : State) (u : State) (p : PortIx) (now : Nat) (r : DynReq) (k : Nat), u = s.at_ now ∧ s.nextGrant (p / 64) = some (p.val, r) ∧ s.frameFor r.tx p = some k)
    ∧ (∃ (s : State) (u : State) (now : Nat) (h : BitVec 512) (d : Bytes), u = s.at_ now ∧ hdrCrcOk h = true ∧ fld h 16 1 = 3 ∧ fld h 56 4 = crc32c d)
    ∧ (∃ (s : State) (u : State) (now : Nat), u = s.at_ now)
    ∧ (∃ (s : State) (u : State) (p : PortIx) (now : Nat), u = s.at_ now ∧ (u.unacked p).isEmpty = false)
    ∧ (∃ (s : State) (u : State) (now : Nat) (f : BitVec 128), u = s.at_ now ∧ bits f.toNat 23 16 ≠ 0 ∧ bits f.toNat 29 24 < 44)
    ∧ (∃ (s : State) (u : State) (now : Nat) (a : OepIx) (b : OepIx) (n : Half) (key : Nat) (m : Nat) (c : Nat) (t : Nat), u = s.at_ now ∧ u.singleKey a b n.toNat = some (key, m, c, t) ∧ t + 2000 ≤ u.now)
    ∧ (∃ (s : State) (u : State) (now : Nat) (x : Word), u = s.at_ now ∧ s.holds.swapping ≠ [] ∧ s.holds.lightOn = false ∧ bits x.toNat 9 8 = 1) :=
  ⟨⟨{ State.reset with bu := { photonicsOn := true } }, _, 0, rfl, by decide +kernel⟩,
   ⟨{ State.reset with bu := { photonicsOn := true }, holds := { repairDue := [(1088, 0, 1)] } }, _, 0, rfl, by decide +kernel⟩,
   ⟨{ State.reset with bu := { photonicsOn := true }, pw := { h := 128 } }, _, 0, rfl, by decide +kernel⟩,
   ⟨{ State.reset with ports := [(1088, { pending := [tPending] })] }, _, 1088, 0, tHeader 1 0 0xFFFFFFFF, tPayload, tPending, rfl, by decide +kernel, by decide +kernel, by decide +kernel, by decide +kernel, test_payload_length, by rw [test_payload_crc]; decide +kernel, by decide +kernel⟩,
   ⟨{ State.reset with ports := [(1088, { pending := [tPending] })] }, _, 1088, 0, tHeader 2 0 1, [], tPending, rfl, by decide +kernel⟩,
   ⟨State.reset, _, 0, tHeader 1 1 0, rfl, by decide +kernel⟩,
   ⟨{ State.reset with holds := { repair := some [], repairs := [⟨1024, 1088, 0⟩] }, ports := [(1024, { held := [tHeld] }), (1088, { pending := [{ tPending with failures := 1 }] })] }, _, 1024, 0, ⟨1024, 1088, 0⟩, { tPending with failures := 1 }, tHeld, rfl, by decide +kernel⟩,
   ⟨State.reset, _, 0, rfl⟩,
   ⟨{ State.reset with holds := { repair := some [] } }, _, 0, rfl, by decide +kernel⟩,
   ⟨{ State.reset with ports := [(2815, { dynQ := [tDyn] })] }, _, 2815, 0, tDyn, [], _, rfl, rfl, by decide +kernel⟩,
   ⟨{ State.reset with ports := [(2815, { requests := [⟨64, 63, 7, [1], 0⟩] })] }, _, 2815, 0, ⟨64, 63, 7, [1], 0⟩, 1, rfl, by decide +kernel⟩,
   ⟨State.reset, _, 0, tHeader 3 0 0, [], rfl, by decide +kernel⟩,
   ⟨State.reset, _, 0, rfl⟩,
   ⟨{ State.reset with pw := { gtcRunning := true }, ports := [(2815, { awaiting := [tDyn] })] }, _, 2815, 2000, rfl, by decide +kernel⟩,
   ⟨State.reset, _, 0, 43 * 2 ^ 24 + 4 * 2 ^ 16, rfl, by decide +kernel⟩,
   ⟨{ State.reset with pw := { gtcRunning := true }, seqRecs := [(43 * 64, { single := [(65535, 1, 0)] })] }, _, 2000, 43, 0, 65535, 43 * 64, 65535, 1, 0, rfl, by decide +kernel⟩,
   ⟨{ State.reset with holds := { swapping := [0] } }, _, 0, 0x100, rfl, by decide +kernel⟩⟩

/-- The hypotheses of every clause of ImageLoadAndSiteUpkeepComplete can all be met. -/
theorem test_ImageLoadAndSiteUpkeepComplete_witness :
    (∃ (s : State) (u : State) (now : Nat) (q : QueueIx) (slot : SlotIx) (data : Option Bytes) (a : Accepted) (b : Bytes) (img : ImageSt) (h : Nat) (v : State) (w : State), u = s.at_ now ∧ v = s.beginCmd a ∧ w = v.meetIn ((sqArg a.entry 2).testBit 0) (sqArg a.entry 0) (sqArg a.entry 1) ∧ s.ready q slot 0x0100 a ∧ s.readFits ((sqArg a.entry 2).testBit 0) (sqArg a.entry 0) (sqArg a.entry 1) data = true ∧ v.holdsImage (sqTurf a.entry) = false ∧ v.pw.safeStopped = false ∧ 256 ≤ sqArg a.entry 1 ∧ sqArg a.entry 1 ≤ 2 ^ 30 ∧ v.addrCheck a.q (v.queue a.q).turf ((sqArg a.entry 2).testBit 0) (sqArg a.entry 0) (sqArg a.entry 1) = none ∧ w.readIn ((sqArg a.entry 2).testBit 0) (sqArg a.entry 0) (sqArg a.entry 1) data = some b ∧ w.checkImage (sqTurf a.entry) (sqArg a.entry 1) b = .inl img ∧ w.freeHandle = some h)
    ∧ (∃ (m : SiteIx) (s : State) (u : State) (now : Nat), u = s.at_ now ∧ u.bu.memoryOn = true ∧ (u.site m).selfRefresh = false)
    ∧ (∃ (m : SiteIx) (s : State) (u : State) (now : Nat), u = s.at_ now ∧ (u.site m).selfRefresh = true)
    ∧ (∃ (m : SiteIx) (s : State) (u : State) (now : Nat) (sp : Nat) (rest : List Nat), u = s.at_ now ∧ (s.site m).migrating = none ∧ (s.site m).sparePcs = sp :: rest)
    ∧ (∃ (m : SiteIx) (s : State) (u : State) (now : Nat), u = s.at_ now ∧ (s.site m).migrating = none ∧ (s.site m).sparePcs = [])
    ∧ (∃ (m : SiteIx) (s : State) (u : State) (now : Nat) (pc : Fin 64) (l : Nat) (sp : Nat), u = s.at_ now ∧ (s.site m).migrating = some (l, sp) ∧ l ≠ pc.val ∧ (s.site m).waitingPc.contains pc.val = false)
    ∧ (∃ (m : SiteIx) (s : State) (u : State) (now : Nat) (lost : List (Fin 268435456)) (pc : Nat) (sp : Nat) (v : State), u = s.at_ now ∧ v = (lost.filter (fun g => s.pcOf (g.val * 256) == pc)).foldl (fun x g => x.spoil (siteKey m (g.val * 256)) 256) s ∧ (s.site m).migrating = some (pc, sp) ∧ (s.site m).waitingPc = [])
    ∧ (∃ (m : SiteIx) (s : State) (u : State) (now : Nat) (pc : Fin 66) (bank : Byte), u = s.at_ now ∧ (s.site m).rowCopy = none ∧ 0 < s.sparesLeft 0x0A (rowPool m pc bank.toNat))
    ∧ (∃ (m : SiteIx) (s : State) (u : State) (now : Nat) (r : Nat × Nat × Nat) (v : State) (w : State), u = s.at_ now ∧ v = s.modSite m (fun y => { y with rowCopy := none, rowsReplaced := y.rowsReplaced ++ [r] }) ∧ w = (v.addWear 0x02 m 1 (rowDetail r)).replaced 0x0A (v.rowOrigin m r.1) 1 m (rowDetail r) 0 ∧ (s.site m).rowCopy = some r ∧ (w.site m).rowWaits = [])
    ∧ (∃ (m : SiteIx) (s : State) (u : State) (now : Nat), u = s.at_ now ∧ u.bu.memoryOn = true ∧ (u.site m).lastAccess + 10000000 ≤ u.now ∧ (u.batches.any (fun b => b.2.started && (u.calPorts b.1).any (fun p => p / 64 == 16 + m.val))) = false)
    ∧ (∃ (s : State) (u : State) (now : Nat), u = s.at_ now) :=
  ⟨⟨tCmd 0x0100 [0x5000, 480, 1], _, 0, 0, 0, some tSchedule, tAcc 0x0100 [0x5000, 480, 1], tSchedule, tLoaded, 1, _, _, rfl, rfl, rfl, by decide +kernel⟩,
   ⟨23, { State.reset with bu := { memoryOn := true } }, _, 0, rfl, by decide +kernel⟩,
   ⟨23, { State.reset with sites := [(23, { selfRefresh := true })] }, _, 0, rfl, by decide +kernel⟩,
   ⟨23, State.reset, _, 0, 64, [65], rfl, by decide +kernel⟩,
   ⟨23, { State.reset with sites := [(23, { sparePcs := [] })] }, _, 0, rfl, by decide +kernel⟩,
   ⟨23, { State.reset with sites := [(23, { migrating := some (0, 64) })] }, _, 0, 63, 0, 64, rfl, by decide +kernel⟩,
   ⟨23, { State.reset with sites := [(23, { migrating := some (63, 65) })] }, _, 0, [268435455], 63, 65, _, rfl, rfl, by decide +kernel⟩,
   ⟨23, State.reset, _, 0, 65, 255, rfl, by decide +kernel⟩,
   ⟨23, { State.reset with sites := [(23, { rowCopy := some (65, 255, 65535) })] }, _, 0, (65, 255, 65535), _, _, rfl, rfl, rfl, by decide +kernel⟩,
   ⟨23, { State.reset with bu := { memoryOn := true }, pw := { gtcRunning := true } }, _, 10000000, rfl, by decide +kernel⟩,
   ⟨State.reset, _, 0, rfl⟩⟩

/-- The hypotheses of every clause of LightAndTuningComplete can all be met. -/
theorem test_LightAndTuningComplete_witness :
    (∃ (s : State) (u : State) (now : Nat) (b : BankIx) (output : Nat) (lineMin : Nat) (limit : Bool) (feed : Nat) (low : Nat), u = s.at_ now ∧ low = (if output < 700 then (u.bank b).lowSamples + 1 else 0) ∧ u.bu.photonicsOn = true ∧ (u.bank b).faulted = false ∧ u.bankFeed b = some feed ∧ (2 ≤ low ∨ lineMin < 500 ∨ limit = true))
    ∧ (∃ (s : State) (u : State) (now : Nat) (b : BankIx) (output : Nat) (lineMin : Nat) (limit : Bool), u = s.at_ now ∧ limit = false ∧ u.bu.photonicsOn = true ∧ (u.bank b).faulted = false ∧ 700 ≤ output ∧ 500 ≤ lineMin)
    ∧ (∃ (s : State) (u : State) (now : Nat) (c : Nat), u = s.at_ now ∧ u.holds.lightAt = some c ∧ c ≤ u.now)
    ∧ (∃ (s : State) (u : State) (now : Nat), u = s.at_ now ∧ u.holds.lightOn = true ∧ u.holds.lightEnd = none)
    ∧ (∃ (s : State) (u : State) (now : Nat) (c : Nat), u = s.at_ now ∧ u.holds.lightOn = true ∧ u.holds.lightEnd = some c ∧ c ≤ u.now)
    ∧ (∃ (s : State) (u : State) (now : Nat) (b : BankIx) (t : Nat) (feed : Nat) (n : Nat), u = s.at_ now ∧ (u.holds.retuning.find? (fun r => r.1 == b.val)) = none ∧ (u.bank b).wornAt = some t ∧ u.bankFeed b = some feed ∧ ((feedPorts feed).any u.scheduled = false ∨ t + 10000000000 ≤ u.now) ∧ u.spareBank (b / 20) = some n)
    ∧ (∃ (s : State) (u : State) (now : Nat) (b : BankIx) (r : Nat × Nat), u = s.at_ now ∧ u.holds.retuning.find? (fun r => r.1 == b.val) = some r)
    ∧ (∃ (s : State) (u : State) (now : Nat) (p : PortIx) (pos : PosIx) (pm : Nat) (v : State), u = s.at_ now ∧ v = s.modPort p (fun x => { x with detune := tset x.detune pos pm, detuneRuns := tset x.detuneRuns pos 0 }) ∧ s.bu.photonicsOn = true ∧ s.unlit p.val = false ∧ 16 ≤ p.val / 64 ∧ (s.port p).lane pos ≠ 31 ∧ 25 < pm ∧ tget (s.port p).detuneRuns 0 pos = 9)
    ∧ (∃ (s : State) (u : State) (now : Nat) (p : PortIx) (pos : PosIx) (pm : Nat), u = s.at_ now ∧ s.bu.photonicsOn = true ∧ s.unlit p.val = false ∧ 16 ≤ p.val / 64 ∧ (s.port p).lane pos ≠ 31 ∧ pm ≤ 25)
    ∧ (∃ (s : State) (u : State) (now : Nat) (p : PortIx) (pos : Nat), u = s.at_ now ∧ u.bu.photonicsOn = true ∧ (u.port p).sweeping = none ∧ u.unlit p.val = false ∧ (u.port p).failed = false ∧ u.holds.swapping.contains (feedOf p) = false ∧ u.sweepTime p = true ∧ (u.port p).standIn = none ∧ (u.port p).nextPosition (u.scheduled p) = some pos ∧ (u.scheduled p = true ∨ 16 ≤ (u.port p).lane pos))
    ∧ (∃ (s : State) (u : State) (now : Nat) (p : PortIx) (pos : Nat) (i : Nat), u = s.at_ now ∧ u.bu.photonicsOn = true ∧ (u.port p).sweeping = none ∧ u.unlit p.val = false ∧ (u.port p).failed = false ∧ u.holds.swapping.contains (feedOf p) = false ∧ u.sweepTime p = true ∧ (u.port p).standIn = some (pos, i) ∧ u.mapInForce p = true)
    ∧ (∃ (s : State) (u : State) (now : Nat) (p : PortIx) (pos : Nat) (t : Nat), u = s.at_ now ∧ (u.port p).sweeping = some (pos, none, t) ∧ t + 20000 ≤ u.now ∧ (u.port p).toSweep = [])
    ∧ (∃ (s : State) (u : State) (now : Nat) (p : PortIx) (t0 : Nat) (t : Nat) (ts : List Nat), u = s.at_ now ∧ (u.port p).starveSince = some t0 ∧ u.portTurfs p = t :: ts ∧ t0 + 50000000 ≤ u.now ∧ ((setIns (t :: ts) 0).filter (fun x => !u.tuneAccepted.contains x)).isEmpty = false)
    ∧ (∃ (s : State) (u : State) (now : Nat) (q : QueueIx) (slot : SlotIx) (a : Accepted) (v : State), u = s.at_ now ∧ v = s.beginCmd a ∧ s.ready q slot 0x0104 a ∧ gapLenOk a.entry = true ∧ sqArg a.entry 0 = 0)
    ∧ (∃ (s : State) (u : State) (now : Nat) (q : QueueIx) (slot : SlotIx) (a : Accepted) (v : State), u = s.at_ now ∧ v = s.beginCmd a ∧ s.ready q slot 0x0104 a ∧ gapLenOk a.entry = true ∧ sqArg a.entry 0 = 1)
    ∧ (∃ (s : State) (u : State) (now : Nat) (q : QueueIx) (slot : SlotIx) (a : Accepted) (v : State), u = s.at_ now ∧ v = s.beginCmd a ∧ s.ready q slot 0x0104 a ∧ gapLenOk a.entry = true ∧ sqArg a.entry 0 = 2 ∧ (v.queue a.q).turf = 0 ∧ v.now + 20000 ≤ sqArg a.entry 2)
    ∧ (∃ (s : State) (u : State) (now : Nat) (t : TurfIx) (g : Nat × Nat × Nat × Nat × Nat), u = s.at_ now ∧ u.tuneGaps.find? (fun g => g.1 == t.val && g.2.1 != 0) = some g ∧ g.2.1 + g.2.2.1 * 1000 ≤ u.now)
    ∧ (∃ (s : State) (u : State) (now : Nat), u = s.at_ now)
    ∧ (∃ (s : State) (u : State) (now : Nat) (due : List (Nat × Nat × Nat × Nat)) (v : State), u = s.at_ now ∧ due = u.holds.tuning.filter (fun h => decide (h.1 + h.2.1 * 1000 ≤ u.now)) ∧ v = { u with holds := { u.holds with tuning := u.holds.tuning.filter (fun h => !due.contains h) }, tuneAccepted := [] } ∧ due.isEmpty = false)
    ∧ (∃ (s : State) (u : State) (now : Nat) (f : FibreIx) (g : Fin 2) (bad : List PosIx) (runs : List Nat), u = s.at_ now ∧ runs = (List.range 18).map (fun i =>
          if bad.any (fun b => b.val == i) then tget (s.port (fibreGroupPort f g)).codeRuns 0 i + 1 else 0) ∧ s.bu.photonicsOn = true) :=
  ⟨⟨{ State.reset with bu := { photonicsOn := true }, banks := [(79, { lowSamples := 1 })], selectors := [(63, 79)] }, _, 0, 79, 699, 500, false, 63, _, rfl, rfl, by decide +kernel⟩,
   ⟨{ State.reset with bu := { photonicsOn := true } }, _, 0, 79, 700, 500, false, rfl, by decide +kernel⟩,
   ⟨{ State.reset with holds := { lightAt := some 0 } }, _, 0, 0, rfl, by decide +kernel⟩,
   ⟨{ State.reset with holds := { lightOn := true } }, _, 0, rfl, by decide +kernel⟩,
   ⟨{ State.reset with holds := { lightOn := true, lightEnd := some 0 } }, _, 0, 0, rfl, by decide +kernel⟩,
   ⟨{ State.reset with banks := [(75, { wornAt := some 0 })] }, _, 0, 75, 0, 63, 76, rfl, by decide +kernel⟩,
   ⟨{ State.reset with holds := { retuning := [(63, 75)] } }, _, 0, 63, (63, 75), rfl, by decide +kernel⟩,
   ⟨{ State.reset with bu := { photonicsOn := true }, ports := [(2815, { detuneRuns := [(17, 9)] })] }, _, 0, 2815, 17, 26, _, rfl, rfl, by decide +kernel⟩,
   ⟨{ State.reset with bu := { photonicsOn := true } }, _, 0, 2815, 17, 25, rfl, by decide +kernel⟩,
   ⟨{ State.reset with bu := { photonicsOn := true }, ports := [(2815, { nextSweep := 16 })] }, _, 0, 2815, 16, rfl, by decide +kernel⟩,
   ⟨{ State.reset with bu := { photonicsOn := true }, ports := [(2815, { standIn := some (0, 16) })] }, _, 0, 2815, 0, 16, rfl, by decide +kernel⟩,
   ⟨{ State.reset with pw := { gtcRunning := true }, ports := [(2815, { sweeping := some (17, none, 0) })] }, _, 20000, 2815, 17, 0, rfl, by decide +kernel⟩,
   ⟨{ State.reset with pw := { gtcRunning := true }, ports := [(2815, { starveSince := some 0 })], batches := [(5, { tBatch with started := true })], cals := [(5, { active := { period := 32, entries := [(2815, 0)] } })] }, _, 50000000, 2815, 0, 5, [], rfl, by decide +kernel⟩,
   ⟨tCmd 0x0104 [0, 20], _, 0, 0, 0, tAcc 0x0104 [0, 20], _, rfl, rfl, by decide +kernel⟩,
   ⟨tCmd 0x0104 [1, 10000], _, 0, 0, 0, tAcc 0x0104 [1, 10000], _, rfl, rfl, by decide +kernel⟩,
   ⟨tCmd 0x0104 [2, 10000, 20000], _, 0, 0, 0, tAcc 0x0104 [2, 10000, 20000], _, rfl, rfl, by decide +kernel⟩,
   ⟨{ State.reset with pw := { gtcRunning := true }, tuneGaps := [(63, 1, 20, 0, 0)] }, _, 20001, 63, (63, 1, 20, 0, 0), rfl, by decide +kernel⟩,
   ⟨State.reset, _, 0, rfl⟩,
   ⟨{ State.reset with pw := { gtcRunning := true }, holds := { tuning := [(0, 20, 0, 0)] } }, _, 20000, _, _, rfl, rfl, rfl, by decide +kernel⟩,
   ⟨{ State.reset with bu := { photonicsOn := true } }, _, 0, 127, 1, [17], _, rfl, rfl, by decide +kernel⟩⟩

/-- The hypotheses of every clause of TimeRolesAndJoiningComplete can all be met. -/
theorem test_TimeRolesAndJoiningComplete_witness :
    (∃ (f : FabFibreIx) (s : State) (q : QueueIx) (slot : SlotIx) (a : Accepted) (v : State), v = s.beginCmd a ∧ s.ready q slot 0x0603 a ∧ sqArg a.entry 0 = f.val ∧ v.fibreUp f = true ∧ (v.role f).cmd = none ∧ v.leads f = decide (sqArg a.entry 1 ≠ 0))
    ∧ (∃ (f : FabFibreIx) (s : State) (q : QueueIx) (slot : SlotIx) (a : Accepted) (v : State), v = s.beginCmd a ∧ s.ready q slot 0x0603 a ∧ sqArg a.entry 0 = f.val ∧ v.fibreUp f = true ∧ (v.role f).cmd = none ∧ v.leads f = decide (sqArg a.entry 1 = 0))
    ∧ (∃ (f : FabFibreIx) (s : State) (msg : Bytes) (fr : MsgFrame) (v : State) (x : State), x = v.sendFibre f (joinMsg 0x29 0 Config.uid (List.replicate 8 0 ++ slice msg 24 4)) ∧ s.takesMessage (fabLink f fr.channel) 5 fr.seq v ∧ (v.role f).pending = none ∧ v.now + 20000 ≤ leAt msg 16 8)
    ∧ (∃ (f : FabFibreIx) (s : State) (msg : Bytes) (fr : MsgFrame) (v : State), s.takesMessage (fabLink f fr.channel) 5 fr.seq v ∧ (v.role f).pending = none ∧ leAt msg 16 8 < v.now + 20000)
    ∧ (∃ (f : FabFibreIx) (s : State) (fr : MsgFrame) (v : State), s.takesMessage (fabLink f fr.channel) 5 fr.seq v ∧ (v.role f).pending.isSome = true)
    ∧ (∃ (f : FabFibreIx) (s : State) (msg : Bytes) (fr : MsgFrame) (v : State) (c : Nat) (id : Word), s.takesMessage (fabLink f fr.channel) 5 fr.seq v ∧ (v.role f).pending = some (c, id) ∧ id.toNat = leAt msg 24 4 ∧ leAt msg 4 1 = 0)
    ∧ (∃ (f : FabFibreIx) (s : State) (msg : Bytes) (fr : MsgFrame) (v : State) (c : Nat) (id : Word), s.takesMessage (fabLink f fr.channel) 5 fr.seq v ∧ (v.role f).pending = some (c, id) ∧ id.toNat = leAt msg 24 4 ∧ leAt msg 4 1 = 1)
    ∧ (∃ (f : FabFibreIx) (s : State) (msg : Bytes) (fr : MsgFrame) (v : State) (c : Nat) (id : Word), s.takesMessage (fabLink f fr.channel) 5 fr.seq v ∧ (v.role f).pending = some (c, id) ∧ id.toNat = leAt msg 24 4 ∧ leAt msg 4 1 = 2)
    ∧ (∃ (f : FabFibreIx) (s : State) (now : Nat) (u : State), u = s.at_ now ∧ (u.role f).collided = 1 ∧ (u.role f).pending = none ∧ (u.role f).cmd.isSome = true ∧ (u.role f).retryAt ≤ u.now)
    ∧ (∃ (f : FabFibreIx) (s : State) (now : Nat) (u : State), u = s.at_ now ∧ u.fibreUp f = true ∧ u.leads f = false)
    ∧ (∃ (f : FabFibreIx) (s : State) (now : Nat) (u : State) (v : State) (fr : MsgFrame), u = s.at_ now ∧ u.takesMessage (fabLink f fr.channel) 6 fr.seq v ∧ v.fibreUp f = true ∧ v.leads f = true)
    ∧ (∃ (f : FabFibreIx) (s : State) (a : TimeAns) (u : State) (v : State) (fr : MsgFrame), u = s.at_ a.t4 ∧ u.takesMessage (fabLink f fr.channel) 6 fr.seq v ∧ v.fibreUp f = true ∧ v.leads f = false ∧ (v.hearAnswer f a.hops.toNat a.rootUid).sourceNow = some f.val)
    ∧ (∃ (s : State) (q : QueueIx) (slot : SlotIx) (a : Accepted) (v : State), v = s.beginCmd a ∧ s.ready q slot 0x0600 a ∧ (v.fab.phase = .none ∨ v.fab.phase = .left) ∧ (sqArg a.entry 1 = 0 ∨ v.rangeCheck (v.queue a.q).turf (sqArg a.entry 1) 131072 = none))
    ∧ (∃ (s : State) (q : QueueIx) (slot : SlotIx) (a : Accepted) (v : State), v = s.beginCmd a ∧ s.ready q slot 0x0601 a ∧ v.drain = none) :=
  ⟨⟨95, { tCmd 0x0603 [95, 0] with links := tFibre }, 0, 0, tAcc 0x0603 [95, 0], _, rfl, by decide +kernel⟩,
   ⟨95, { tCmd 0x0603 [95, 1] with links := tFibre }, 0, 0, tAcc 0x0603 [95, 1], _, rfl, by decide +kernel⟩,
   ⟨95, { State.reset with links := tFibre }, List.replicate 16 0 ++ natLe 8 20000 ++ List.replicate 488 0, {}, _, _, rfl, test_taken (by decide +kernel) (by decide +kernel), by decide +kernel⟩,
   ⟨95, { State.reset with links := tFibre }, List.replicate 16 0 ++ natLe 8 19999 ++ List.replicate 488 0, {}, _, test_taken (by decide +kernel) (by decide +kernel), by decide +kernel⟩,
   ⟨95, { State.reset with links := tFibre, fab := tRole }, {}, _, test_taken (by decide +kernel) (by decide +kernel), by decide +kernel⟩,
   ⟨95, { State.reset with links := tFibre, fab := tRole }, tAnswer 0, {}, _, 40000, 7, test_taken (by decide +kernel) (by decide +kernel), by decide +kernel⟩,
   ⟨95, { State.reset with links := tFibre, fab := tRole }, tAnswer 1, {}, _, 40000, 7, test_taken (by decide +kernel) (by decide +kernel), by decide +kernel⟩,
   ⟨95, { State.reset with links := tFibre, fab := tRole }, tAnswer 2, {}, _, 40000, 7, test_taken (by decide +kernel) (by decide +kernel), by decide +kernel⟩,
   ⟨95, { State.reset with fab := { roles := [(95, { collided := 1, cmd := some (0, 0) })] } }, 0, _, rfl, by decide +kernel⟩,
   ⟨95, { State.reset with links := tFibre }, 0, _, rfl, by decide +kernel⟩,
   ⟨95, { State.reset with links := tFibre, fab := { roles := [(95, { leader := true })] } }, 0, _, _, {}, rfl, test_taken (by decide +kernel) (by decide +kernel), by decide +kernel⟩,
   ⟨95, { State.reset with links := tFibre }, { reqId := 0, hops := 0, rootUid := 5, t1 := 0, t2 := 3, t3 := 3, t4 := 1 }, _, _, {}, rfl, test_taken (by decide +kernel) (by decide +kernel), by decide +kernel⟩,
   ⟨tCmd 0x0600 [0, 0], 0, 0, tAcc 0x0600 [0, 0], _, rfl, by decide +kernel⟩,
   ⟨tCmd 0x0601 [], 0, 0, tAcc 0x0601 [], _, rfl, by decide +kernel⟩⟩

/-- The hypotheses of every clause of FabricMembershipComplete can all be met. -/
theorem test_FabricMembershipComplete_witness :
    (∃ (s : State) (now : Nat) (u : State), u = s.at_ now ∧ (u.fab.phase = .claiming ∨ u.fab.phase = .requested ∨ u.fab.phase = .member ∨ u.fab.phase = .founder) ∧ u.fab.claimDue ≤ u.now ∧ u.now < u.fab.claimStart + 2000000)
    ∧ (∃ (f : FabFibreIx) (s : State) (m : Bytes) (now : Nat) (fr : MsgFrame) (u : State) (y : State), u = s.at_ now ∧ u.takesMessage (fabLink f fr.channel) 5 fr.seq y ∧ (y.fab.phase = .founder ∨ y.fab.phase = .member) ∧ BitVec.ofNat 64 (leAt m 8 8) ≠ Config.uid)
    ∧ (∃ (f : FabFibreIx) (s : State) (m : Bytes) (now : Nat) (fr : MsgFrame) (u : State) (y : State), u = s.at_ now ∧ u.takesMessage (fabLink f fr.channel) 5 fr.seq y ∧ (y.fab.phase = .claiming ∨ y.fab.phase = .requested) ∧ BitVec.ofNat 64 (leAt m 8 8) ≠ Config.uid)
    ∧ (∃ (f : FabFibreIx) (s : State) (m : Bytes) (now : Nat) (fr : MsgFrame) (u : State) (y : State), u = s.at_ now ∧ u.takesMessage (fabLink f fr.channel) 5 fr.seq y ∧ (y.fab.phase = .claiming ∨ y.fab.phase = .requested ∨ y.fab.phase = .founder ∨ y.fab.phase = .member) ∧ BitVec.ofNat 64 (leAt m 8 8) = Config.uid ∧ BitVec.ofNat 32 (leAt m 20 4) ≠ y.fab.nonce)
    ∧ (∃ (f : FabFibreIx) (s : State) (m : Bytes) (u : State) (fr : MsgFrame) (v : State), u = { v with fab := { v.fab with
          phase := .requested, founderUid := BitVec.ofNat 64 (leAt m 24 8), admitted := leAt m 32 2 } } ∧ s.takesMessage (fabLink f fr.channel) 5 fr.seq v ∧ v.fab.phase = .claiming)
    ∧ (∃ (s : State) (now : Nat) (u : State), u = s.at_ now ∧ u.fab.phase = .claiming ∧ u.fab.claimStart + 2000000 ≤ u.now ∧ u.fab.mode = 1)
    ∧ (∃ (s : State) (now : Nat) (u : State) (x : State) (y : State), u = s.at_ now ∧ x = { (u.meetPlan 0) with fab := { u.fab with flat := u.planOf 0 } } ∧ y = x.becomeFounder 0 1 [⟨Config.uid, 0, some u.fab.nonce⟩] ∧ u.fab.phase = .claiming ∧ u.fab.claimStart + 2000000 ≤ u.now ∧ u.fab.mode ≠ 1 ∧ u.fab.claims.any (fun c => claimBefore c (u.fab.epoch, Config.uid, u.fab.nonce)) = false)
    ∧ (∃ (f : FabFibreIx) (s : State) (m : Bytes) (fr : MsgFrame) (v : State), s.takesMessage (fabLink f fr.channel) 5 fr.seq v ∧ v.fab.phase = .founder ∧ BitVec.ofNat 64 (leAt m 24 8) = Config.uid ∧ v.fab.members.find? (fun x => x.uid == BitVec.ofNat 64 (leAt m 8 8)) = none ∧ v.fab.nextModule ≤ 1023)
    ∧ (∃ (f : FabFibreIx) (s : State) (m : Bytes) (x : Member) (fr : MsgFrame) (v : State), s.takesMessage (fabLink f fr.channel) 5 fr.seq v ∧ v.fab.phase = .founder ∧ BitVec.ofNat 64 (leAt m 24 8) = Config.uid ∧ v.fab.members.find? (fun x => x.uid == BitVec.ofNat 64 (leAt m 8 8)) = some x ∧ x.nonce = none)
    ∧ (∃ (f : FabFibreIx) (s : State) (m : Bytes) (x : Member) (n : Word) (fr : MsgFrame) (v : State), s.takesMessage (fabLink f fr.channel) 5 fr.seq v ∧ v.fab.phase = .founder ∧ BitVec.ofNat 64 (leAt m 24 8) = Config.uid ∧ BitVec.ofNat 64 (leAt m 8 8) ≠ Config.uid ∧ v.fab.members.find? (fun x => x.uid == BitVec.ofNat 64 (leAt m 8 8)) = some x ∧ x.nonce = some n ∧ n ≠ BitVec.ofNat 32 (leAt m 20 4))
    ∧ (∃ (f : FabFibreIx) (s : State) (m : Bytes) (u : State) (fr : MsgFrame) (v : State), u = { v with fab := { v.fab with
          phase := .member, epoch := leAt m 4 4, founderUid := BitVec.ofNat 64 (leAt m 8 8), moduleNo := leAt m 34 2 % 1024
          admitted := v.fab.admitted + 1, flat := (List.range 64).map (fun i => leAt m (64 + 2 * i) 2) } } ∧ s.takesMessage (fabLink f fr.channel) 5 fr.seq v ∧ v.fab.phase = .requested ∧ BitVec.ofNat 64 (leAt m 24 8) = Config.uid ∧ leAt m 32 1 = 0)
    ∧ (∃ (f : FabFibreIx) (s : State) (m : Bytes) (fr : MsgFrame) (v : State), s.takesMessage (fabLink f fr.channel) 5 fr.seq v ∧ v.fab.phase = .requested ∧ BitVec.ofNat 64 (leAt m 24 8) = Config.uid ∧ leAt m 32 1 ≠ 0)
    ∧ (∃ (s : State) (now : Nat) (u : State) (known : List (Nat × PairSt)), u = s.at_ now ∧ known = u.fab.pairs.filter (fun p => p.2.bootEpoch.isSome && p.2.uid != u.fab.founderUid) ∧ u.fab.phase = .member ∧ known.any (fun p => decide (p.2.uid.toNat < Config.uid.toNat)) = false)
    ∧ (∃ (f : FabFibreIx) (s : State) (m : Bytes) (u : State) (fr : MsgFrame) (v : State), u = ({ v with fab := { v.fab with
          members := v.fab.members.filter (fun x => x.uid != BitVec.ofNat 64 (leAt m 8 8))
          pairs := tdel v.fab.pairs (leAt m 32 2 % 1024) } } : State).closePeerQueues (leAt m 32 2 % 1024) ∧ s.takesMessage (fabLink f fr.channel) 5 fr.seq v ∧ v.fab.phase ≠ .none ∧ v.fab.phase ≠ .left)
    ∧ (∃ (f : FabFibreIx) (s : State) (m : Bytes) (fr : MsgFrame) (v : State), s.takesMessage (fabLink f fr.channel) 5 fr.seq v ∧ BitVec.ofNat 64 (leAt m 24 8) = Config.uid ∧ v.fab.phase ≠ .none ∧ v.fab.phase ≠ .left) :=
  ⟨⟨tJoin { phase := .claiming, claimStart := 0 }, 0, _, rfl, by decide +kernel⟩,
   ⟨95, tJoin { phase := .member }, padTo 8 [] ++ natLe 8 (Config.uid + 1).toNat ++ [], 0, {}, _, _, rfl, test_taken (by decide +kernel) (by decide +kernel), by decide +kernel, (by rw [test_uid_field _ 8 _ _ (by simp)]; exact test_next_uid)⟩,
   ⟨95, tJoin { phase := .requested }, padTo 8 [] ++ natLe 8 (Config.uid + 1).toNat ++ [], 0, {}, _, _, rfl, test_taken (by decide +kernel) (by decide +kernel), by decide +kernel, (by rw [test_uid_field _ 8 _ _ (by simp)]; exact test_next_uid)⟩,
   ⟨95, tJoin { phase := .claiming, nonce := 1 }, tNamed 8 [], 0, {}, _, _, rfl, test_taken (by decide +kernel) (by decide +kernel), by decide +kernel, test_named 8 [], by decide +kernel⟩,
   ⟨95, tJoin { phase := .claiming }, List.replicate 512 0, _, {}, _, rfl, test_taken (by decide +kernel) (by decide +kernel), by decide +kernel⟩,
   ⟨{ State.reset with fab := { phase := .claiming, mode := 1 }, pw := { gtcRunning := true } }, 2000000, _, rfl, by decide +kernel⟩,
   ⟨{ State.reset with fab := { phase := .claiming }, pw := { gtcRunning := true } }, 2000000, _, _, _, rfl, rfl, rfl, by decide +kernel⟩,
   ⟨95, tJoin { phase := .founder }, tNamed 24 [], {}, _, test_taken (by decide +kernel) (by decide +kernel), by decide +kernel, test_named 24 [], rfl, by decide +kernel⟩,
   ⟨95, tJoin { phase := .founder, members := [tMember none] }, tTwice, tMember none, {}, _, test_taken (by decide +kernel) (by decide +kernel), by decide +kernel, test_twice.1, test_twice.2.2 none, rfl⟩,
   ⟨95, tJoin { phase := .founder, members := [tMember (some 1)] }, tTwice, tMember (some 1), 1, {}, _, test_taken (by decide +kernel) (by decide +kernel), by decide +kernel, test_twice.1, test_twice.2.1, test_twice.2.2 (some 1), rfl, by decide +kernel⟩,
   ⟨95, tJoin { phase := .requested }, tNamed 24 [], _, {}, _, rfl, test_taken (by decide +kernel) (by decide +kernel), by decide +kernel, test_named 24 [], by decide +kernel⟩,
   ⟨95, tJoin { phase := .requested }, padTo 24 [] ++ natLe 8 Config.uid.toNat ++ [1], {}, _, test_taken (by decide +kernel) (by decide +kernel), by decide +kernel, test_uid_field _ 24 _ _ (by simp), by decide +kernel⟩,
   ⟨{ State.reset with fab := { phase := .member } }, 0, _, _, rfl, rfl, by decide +kernel⟩,
   ⟨95, tJoin { phase := .member }, List.replicate 512 0, _, {}, _, rfl, test_taken (by decide +kernel) (by decide +kernel), by decide +kernel⟩,
   ⟨95, tJoin { phase := .halted }, tNamed 24 [], {}, _, test_taken (by decide +kernel) (by decide +kernel), test_named 24 [], by decide +kernel⟩⟩

/-- The hypotheses of every clause of FabricTrafficComplete can all be met. -/
theorem test_FabricTrafficComplete_witness :
    (∃ (s : State) (m : Fin 1024) (now : Nat), ((s.at_ now).moduleEp m).isNone = true)
    ∧ (∃ (s : State) (m : Fin 1024) (msg : Bytes) (now : Nat) (w : State), w = s.at_ now ∧ (w.moduleEp m).isSome = true ∧ w.fab.phase ≠ .halted ∧ ((tget w.fab.pairs {} m.val).bootEpoch = none ∨ (tget w.fab.pairs {} m.val).bootEpoch = some (BitVec.ofNat 32 (leAt msg 16 4))) ∧ w.pw.timeSource = none ∧ leAt msg 20 4 ≤ w.fab.epoch)
    ∧ (∃ (s : State) (m : Fin 1024) (msg : Bytes) (now : Nat) (w : State) (b : Word), w = (s.at_ now).peerRestarted m ∧ ((s.at_ now).moduleEp m).isSome = true ∧ (s.at_ now).fab.phase ≠ .halted ∧ (tget (s.at_ now).fab.pairs {} m.val).bootEpoch = some b ∧ b ≠ BitVec.ofNat 32 (leAt msg 16 4) ∧ w.pw.timeSource = none ∧ leAt msg 20 4 ≤ w.fab.epoch)
    ∧ (∃ (s : State) (l : LinkIx) (route : BitVec 128) (d : Bytes) (r : Bytes), r = natLe 16 route.toNat ∧ d.length = 8192 ∧ isFar l = false ∧ leAt r 0 1 = 2 ∧ s.fab.phase ≠ .halted ∧ s.pairWith (leAt r 4 2) ≠ 1 ∧ s.pairWith (leAt r 4 2) ≠ 2 ∧ leAt r 10 2 = s.calEpoch)
    ∧ (∃ (s : State) (l : LinkIx) (route : BitVec 128) (d : Bytes) (r : Bytes), r = natLe 16 route.toNat ∧ d.length = 8192 ∧ isFar l = false ∧ leAt r 0 1 = 2 ∧ s.fab.phase ≠ .halted ∧ s.pairWith (leAt r 4 2) ≠ 1 ∧ s.pairWith (leAt r 4 2) ≠ 2 ∧ leAt r 10 2 ≠ s.calEpoch)
    ∧ (∃ (s : State) (l : LinkIx) (route : BitVec 128) (d : Bytes) (r : Bytes), r = natLe 16 route.toNat ∧ d.length = 8192 ∧ isFar l = false ∧ leAt r 0 1 = 2 ∧ s.fab.phase ≠ .halted ∧ (s.pairWith (leAt r 4 2) = 1 ∨ s.pairWith (leAt r 4 2) = 2))
    ∧ (∃ (s : State) (p : PortIx) (b : PendingBillet), (s.port p).pending.find? (fun b => decide (40 ≤ b.src / 64) && (portFmu b.src).isNone && b.late
          && (s.holds.repair.isSome || decide (b.slot + 64 ≤ s.slot))) = some b)
    ∧ (∃ (s : State) (n : DWord) (now : Nat) (u : State), u = s.at_ now ∧ u.obs.clampMask.testBit 3 = true ∧ u.fab.phase ≠ .halted ∧ u.now < n.toNat)
    ∧ (∃ (s : State) (n : DWord) (now : Nat) (u : State), u = s.at_ now ∧ u.obs.clampMask.testBit 3 = true ∧ u.fab.phase ≠ .halted ∧ n.toNat ≤ u.now)
    ∧ (∃ (s : State) (now : Nat) (u : State), u = s.at_ now ∧ u.obs.clampMask.testBit 3 = false)
    ∧ (∃ (l : LinkIx) (fr : Bytes), isFar l = false ∧ linkShapeOk l fr = true ∧ linkCrcOk fr = false)
    ∧ (∃ (s : State) (l : LinkIx) (fr : Bytes) (w : State), w = ((s.linkHeader l fr).fabricCarriage l (leAt fr 0 16)).acceptFabric l fr ∧ isFar l = false ∧ linkShapeOk l fr = true ∧ linkCrcOk fr = true ∧ (s.link l).state = .inService ∧ retryOf l fr = none ∧ (s.linkHeader l fr).fab.phase ≠ .halted)
    ∧ (∃ (s : State) (q : QueueIx) (slot : SlotIx) (a : Accepted) (v : State) (w : State) (b : Bytes) (g : FabricSt), v = s.beginCmd a ∧ w = (v.readOpen (sqArg a.entry 1) (sqArg a.entry 3 * (routeTable (sqArg a.entry 0)).2)).2 ∧ g = (if sqArg a.entry 0 = 0 then { w.fab with epShadow := memWrite w.fab.epShadow (sqArg a.entry 2 * 8) b }
          else if sqArg a.entry 0 = 1 then { w.fab with routesShadow := memWrite w.fab.routesShadow (sqArg a.entry 2 * 16) b }
          else { w.fab with headerShadow := memWrite w.fab.headerShadow (sqArg a.entry 2 * 256) b }) ∧ s.ready q slot 0x0602 a ∧ sqArg a.entry 2 + sqArg a.entry 3 ≤ (routeTable (sqArg a.entry 0)).1 ∧ v.rangeCheck (v.queue a.q).turf (sqArg a.entry 1) (sqArg a.entry 3 * (routeTable (sqArg a.entry 0)).2) = none ∧ (v.readOpen (sqArg a.entry 1) (sqArg a.entry 3 * (routeTable (sqArg a.entry 0)).2)).1 = some b)
    ∧ (∃ (s : State) (q : QueueIx) (slot : SlotIx) (a : Accepted) (v : State), v = s.beginCmd a ∧ s.ready q slot 0x0604 a ∧ 4864 ≤ sqArg a.entry 1) :=
  ⟨⟨State.reset, 1023, 0, by decide +kernel⟩,
   ⟨{ State.reset with fab := tPeer }, 5, padTo 512 [], 0, _, rfl, by decide +kernel⟩,
   ⟨{ State.reset with fab := { tPeer with pairs := [(5, { state := 3, bootEpoch := some 1 })] } }, 5, padTo 512 [], 0, _, 1, rfl, by decide +kernel⟩,
   ⟨State.reset, 351, 2, List.replicate 8192 0, _, rfl, by decide +kernel⟩,
   ⟨State.reset, 351, 2 + 2 ^ 80, List.replicate 8192 0, _, rfl, by decide +kernel⟩,
   ⟨{ State.reset with fab := { epTable := [], pairs := [(0, { state := 1 })] } }, 351, 2, List.replicate 8192 0, _, rfl, by decide +kernel⟩,
   ⟨{ State.reset with pw := { schedCycles := 64 * 72 }, ports := [(0, { pending := [{ tPending with src := 2560, late := true }] })] }, 0, { tPending with src := 2560, late := true }, by decide +kernel⟩,
   ⟨{ State.reset with obs := { clampMask := 8 } }, 1, 0, _, rfl, by decide +kernel⟩,
   ⟨{ State.reset with obs := { clampMask := 8 } }, 0, 0, _, rfl, by decide +kernel⟩,
   ⟨State.reset, 0, _, rfl, by decide +kernel⟩,
   ⟨351, List.replicate 48 0, by decide +kernel⟩,
   ⟨{ State.reset with links := [(350, { state := .inService })] }, 350, tIdleFrame, _, rfl, by decide +kernel⟩,
   ⟨{ tCmd 0x0602 [1, 0x10000000000000, 16383, 1] with bu := { memoryOn := true }, cfg := tOwner }, 0, 0, tAcc 0x0602 [1, 0x10000000000000, 16383, 1], _, _, List.replicate 16 0, _, rfl, rfl, rfl, by decide +kernel⟩,
   ⟨tCmd 0x0604 [0x10000000000000, 4864], 0, 0, tAcc 0x0604 [0x10000000000000, 4864], _, rfl, by decide +kernel⟩⟩

/-- The hypotheses of every clause of CounterAndTraceReadsComplete can all be met. -/
theorem test_CounterAndTraceReadsComplete_witness :
    (∃ (q : QueueIx) (slot : SlotIx) (s : State) (v : State) (a : Accepted) (us : List Nat), v = s.beginCmd a ∧ s.ready q slot 0x0700 a ∧ sqArg a.entry 0 = 0 ∧ ctrUnits a.entry = some us ∧ v.ctrDenied a us = false ∧ v.addrCheck a.q (v.queue a.q).turf ((sqArg a.entry 5).testBit 0) (sqArg a.entry 4)
          (us.flatMap (v.ctrRec false (sqArg a.entry 1))).length = none)
    ∧ (∃ (q : QueueIx) (slot : SlotIx) (s : State) (v : State) (a : Accepted) (us : List Nat), v = s.beginCmd a ∧ s.ready q slot 0x0700 a ∧ sqArg a.entry 0 = 1 ∧ ctrUnits a.entry = some us ∧ v.ctrDenied a us = false ∧ v.addrCheck a.q (v.queue a.q).turf ((sqArg a.entry 5).testBit 0) (sqArg a.entry 4)
          (us.flatMap (v.ctrRec false (sqArg a.entry 1))).length = none)
    ∧ (∃ (q : QueueIx) (slot : SlotIx) (s : State) (v : State) (a : Accepted) (us : List Nat), v = s.beginCmd a ∧ s.ready q slot 0x0700 a ∧ sqArg a.entry 0 = 3 ∧ ctrUnits a.entry = some us ∧ v.ctrDenied a us = false ∧ v.addrCheck a.q (v.queue a.q).turf ((sqArg a.entry 5).testBit 0) (sqArg a.entry 4)
          (us.flatMap (v.ctrRec true (sqArg a.entry 1))).length = none)
    ∧ (∃ (q : QueueIx) (slot : SlotIx) (s : State) (v : State) (a : Accepted) (us : List Nat) (data : Option Bytes) (b : Bytes) (w : State), v = s.beginCmd a ∧ w = v.meetIn ((sqArg a.entry 5).testBit 0) (sqArg a.entry 4) (64 * sqArg a.entry 3) ∧ s.ready q slot 0x0700 a ∧ sqArg a.entry 0 = 2 ∧ ctrUnits a.entry = some us ∧ sqArg a.entry 1 = 0 ∧ v.ctrDenied a us = false ∧ s.readFits ((sqArg a.entry 5).testBit 0) (sqArg a.entry 4) (64 * sqArg a.entry 3) data = true ∧ v.addrCheck a.q (v.queue a.q).turf ((sqArg a.entry 5).testBit 0) (sqArg a.entry 4) (64 * sqArg a.entry 3) = none ∧ w.readIn ((sqArg a.entry 5).testBit 0) (sqArg a.entry 4) (64 * sqArg a.entry 3) data = some b)
    ∧ (∃ (q : QueueIx) (slot : SlotIx) (s : State) (v : State) (a : Accepted) (m : Nat) (off : Nat), v = s.beginCmd a ∧ s.ready q slot 0x0701 a ∧ sqArg a.entry 0 % 4096 = 0 ∧ sqArg a.entry 1 % 4096 = 0 ∧ 65536 ≤ sqArg a.entry 1 ∧ sqArg a.entry 1 ≤ 2 ^ 32 ∧ v.traceSite (sqArg a.entry 0) (sqArg a.entry 1) = some (m, off) ∧ ((List.range (ceilDiv (off % 2 ^ 30 + sqArg a.entry 1) (2 ^ 30))).any (fun j =>
          !mayReach (v.queue a.q).turf (siteOwner v.turfMap m (off / 2 ^ 30 + j)) || v.retainedAt m ((off / 2 ^ 30 + j) * 2 ^ 30))) = false ∧ tfind v.obs.traces (sqTurf a.entry) = none)
    ∧ (∃ (q : QueueIx) (slot : SlotIx) (s : State) (v : State) (a : Accepted) (x : TraceSt) (m : Nat) (off : Nat) (u : State), v = s.beginCmd a ∧ u = { v with obs := { v.obs with traces := tdel v.obs.traces (sqTurf a.entry) } } ∧ s.ready q slot 0x0702 a ∧ tfind v.obs.traces (sqTurf a.entry) = some x ∧ u.resolve x.buffer.toNat = some (.site m off))
    ∧ (∃ (q : QueueIx) (slot : SlotIx) (s : State) (v : State) (a : Accepted) (l : List DigestSt), v = s.beginCmd a ∧ l = tget v.obs.digests [] (sqTurf a.entry) ∧ s.ready q slot 0x0703 a ∧ sqArg a.entry 0 = 0 ∧ v.batch (sqTurf a.entry) = none ∧ l.length < 16)
    ∧ (∃ (q : QueueIx) (slot : SlotIx) (s : State) (v : State) (a : Accepted), v = s.beginCmd a ∧ s.ready q slot 0x0703 a ∧ sqArg a.entry 0 = 1 ∧ v.batch (sqTurf a.entry) = none)
    ∧ (∃ (q : QueueIx) (slot : SlotIx) (s : State) (v : State) (a : Accepted) (l : List DigestSt), v = s.beginCmd a ∧ l = tget v.obs.digests [] (sqTurf a.entry) ∧ s.ready q slot 0x0703 a ∧ sqArg a.entry 0 = 2)
    ∧ (∃ (q : QueueIx) (slot : SlotIx) (s : State) (v : State) (a : Accepted) (r : AshRec) (t : Nat), v = s.beginCmd a ∧ t = (v.queue a.q).turf ∧ s.ready q slot 0x0705 a ∧ (sqArg a.entry 0 = 0 ∧ (v.obs.ash.filter (fun x => t == 0 || (x.turf == t && x.trigger != 1))).getLast? = some r
          ∨ sqArg a.entry 0 ≠ 0 ∧ v.obs.ash.find? (fun x => x.id == sqArg a.entry 0) = some r) ∧ (t = 0 ∨ r.turf = t ∧ r.trigger ≠ 1) ∧ sqArg a.entry 2 + sqArg a.entry 3 ≤ r.data.length ∧ (sqArg a.entry 4).testBit 1 = false ∧ v.addrCheck a.q t ((sqArg a.entry 4).testBit 0) (sqArg a.entry 1) (sqArg a.entry 3) = none)
    ∧ (∃ (q : QueueIx) (slot : SlotIx) (s : State) (v : State) (a : Accepted) (r : AshRec) (o : State), v = s.beginCmd a ∧ o = (v.writeOut a ((sqArg a.entry 4).testBit 0) (sqArg a.entry 1) (slice r.data (sqArg a.entry 2) (sqArg a.entry 3))).1 ∧ s.ready q slot 0x0705 a ∧ sqArg a.entry 0 ≠ 0 ∧ (v.queue a.q).turf = 0 ∧ v.obs.ash.find? (fun x => x.id == sqArg a.entry 0) = some r ∧ sqArg a.entry 2 + sqArg a.entry 3 ≤ r.data.length ∧ (sqArg a.entry 4).testBit 1 = true ∧ v.addrCheck a.q 0 ((sqArg a.entry 4).testBit 0) (sqArg a.entry 1) (sqArg a.entry 3) = none ∧ (v.writeOut a ((sqArg a.entry 4).testBit 0) (sqArg a.entry 1) (slice r.data (sqArg a.entry 2) (sqArg a.entry 3))).2 = true) :=
  ⟨⟨0, 0, tCmd 0x0700 [0, 1, 2687, 1, 0x5000, 1], _, tAcc 0x0700 [0, 1, 2687, 1, 0x5000, 1], [2687], rfl, by decide +kernel⟩,
   ⟨0, 0, tCmd 0x0700 [1, 5, 3, 1, 0x5000, 1], _, tAcc 0x0700 [1, 5, 3, 1, 0x5000, 1], [3], rfl, by decide +kernel⟩,
   ⟨0, 0, tCmd 0x0700 [3, 3, 23, 1, 0x5000, 1], _, tAcc 0x0700 [3, 3, 23, 1, 0x5000, 1], [23], rfl, by decide +kernel⟩,
   ⟨0, 0, tCmd 0x0700 [2, 0, 4095, 1, 0x5000, 1], _, tAcc 0x0700 [2, 0, 4095, 1, 0x5000, 1], [4095], some (List.replicate 64 0), List.replicate 64 0, _, rfl, rfl, by decide +kernel⟩,
   ⟨0, 0, tCmd 0x0701 [16 * 2 ^ 48, 65536], _, tAcc 0x0701 [16 * 2 ^ 48, 65536], 0, 0, rfl, by decide +kernel⟩,
   ⟨0, 0, { tCmd 0x0702 [] with obs := { traces := [(0, { buffer := 0x10000000000000, length := 65536, select := 0, wrap := false, startGtc := 0 })] } }, _, tAcc 0x0702 [], { buffer := 0x10000000000000, length := 65536, select := 0, wrap := false, startGtc := 0 }, 0, 0, _, rfl, rfl, by decide +kernel⟩,
   ⟨0, 0, tCmd 0x0703 [0, 0x1FFFFFFFF, 255], _, tAcc 0x0703 [0, 0x1FFFFFFFF, 255], _, rfl, rfl, by decide +kernel⟩,
   ⟨0, 0, tCmd 0x0703 [1], _, tAcc 0x0703 [1], rfl, by decide +kernel⟩,
   ⟨0, 0, tCmd 0x0703 [2, 0, 0, 0x5000, 1], _, tAcc 0x0703 [2, 0, 0, 0x5000, 1], _, rfl, rfl, by decide +kernel⟩,
   ⟨0, 0, { tCmd 0x0705 [0, 0x5000, 0, 4, 1] with obs := { ash := [tAsh] } }, _, tAcc 0x0705 [0, 0x5000, 0, 4, 1], tAsh, _, rfl, rfl, by decide +kernel⟩,
   ⟨0, 0, { tCmd 0x0705 [1, 0x5000, 0, 4, 3] with obs := { ash := [tAsh] } }, _, tAcc 0x0705 [1, 0x5000, 0, 4, 3], tAsh, _, rfl, rfl, by decide +kernel⟩⟩

/-- The hypotheses of every clause of ClampsAndRicksComplete can all be met. -/
theorem test_ClampsAndRicksComplete_witness :
    (∃ (s : State) (u : State) (now : Nat) (c : Nat) (v : State), u = s.at_ now ∧ v = { u.compareDue with
          obs := { u.compareDue.obs with
            clampAt := setDel u.compareDue.obs.clampAt c, lastClampAt := some c, clampCtrs := u.compareDue.obs.ctrs
            clampLaunches := u.compareDue.obs.launches }
          bu := { u.compareDue.bu with clampOutUntil := c + 1000 } } ∧ u.compareDue.obs.clampAt.find? (fun c => decide (c ≤ u.compareDue.now)) = some c)
    ∧ (∃ (s : State) (u : State) (now : Nat), u = s.at_ now ∧ u.obs.clampMask.testBit 0 = true)
    ∧ (∃ (s : State) (u : State) (now : Nat) (c : CellIx), u = s.at_ now ∧ s.cellAwake c = true)
    ∧ (∃ (s : State) (u : State) (now : Nat) (q : QueueIx) (slot : SlotIx) (a : Accepted) (v : State), u = s.at_ now ∧ v = s.beginCmd a ∧ s.ready q slot 0x0704 a ∧ (v.queue a.q).turf = 0 ∧ sqArg a.entry 0 = 0 ∧ sqArg a.entry 1 < 16 ∧ ((sqArg a.entry 1).testBit 1 = false ∨ v.now < sqArg a.entry 2))
    ∧ (∃ (s : State) (u : State) (now : Nat) (q : QueueIx) (slot : SlotIx) (a : Accepted) (v : State) (c : Nat), u = s.at_ now ∧ v = s.beginCmd a ∧ c = (if sqArg a.entry 2 = 0 then v.now + 1024 else sqArg a.entry 2) ∧ s.ready q slot 0x0704 a ∧ (v.queue a.q).turf = 0 ∧ sqArg a.entry 0 = 1 ∧ v.now + 1024 ≤ c)
    ∧ (∃ (s : State) (u : State) (now : Nat) (q : QueueIx) (slot : SlotIx) (a : Accepted) (v : State), u = s.at_ now ∧ v = s.beginCmd a ∧ s.ready q slot 0x0704 a ∧ (v.queue a.q).turf = 0 ∧ sqArg a.entry 0 = 2 ∧ v.now + 20000 ≤ sqArg a.entry 2)
    ∧ (∃ (s : State) (u : State) (now : Nat) (r : RickRef) (k : Rick), u = s.at_ now ∧ s.rickAt r = some k)
    ∧ (∃ (s : State) (u : State) (now : Nat) (r : RickRef) (k : Rick), u = s.at_ now ∧ s.rickAt r = some k)
    ∧ (∃ (s : State) (u : State) (now : Nat) (r : RickRef) (k : Rick), u = s.at_ now ∧ s.rickAt r = some k) :=
  ⟨⟨{ State.reset with obs := { clampAt := [0] } }, _, 0, 0, _, rfl, rfl, by decide +kernel⟩,
   ⟨{ State.reset with obs := { clampMask := 1 } }, _, 0, rfl, by decide +kernel⟩,
   ⟨{ State.reset with regions := [(63, { sleep := .s0 })] }, _, 0, 4095, rfl, by decide +kernel⟩,
   ⟨tCmd 0x0704 [0, 15, 1], _, 0, 0, 0, tAcc 0x0704 [0, 15, 1], _, rfl, rfl, by decide +kernel⟩,
   ⟨tCmd 0x0704 [1, 0, 0], _, 0, 0, 0, tAcc 0x0704 [1, 0, 0], _, _, rfl, rfl, rfl, by decide +kernel⟩,
   ⟨tCmd 0x0704 [2, 0, 20000], _, 0, 0, 0, tAcc 0x0704 [2, 0, 20000], _, rfl, rfl, by decide +kernel⟩,
   ⟨State.reset, _, 0, .core 19, {}, rfl, by decide +kernel⟩,
   ⟨{ State.reset with queues := [(8191, { state := .opened })] }, _, 0, .queue 8191, {}, rfl, by decide +kernel⟩,
   ⟨{ State.reset with regions := [(63, { sleep := .s0 })], cells := [(4095, { rick := { items := [[1]] } })] }, _, 0, .cell 4095, { items := [[1]] }, rfl, by decide +kernel⟩⟩

/-- The hypotheses of every clause of FirmwareCommandsComplete can all be met. -/
theorem test_FirmwareCommandsComplete_witness :
    (∃ (s : State) (v : State) (a : Accepted), v = s.beginCmd a ∧ s.firm.runningCw.isSome = true ∧ s.ctlHeld = false)
    ∧ (∃ (s : State) (v : State) (a : Accepted), v = s.beginCmd a ∧ s.firm.runningCw.isSome = true ∧ s.ctlHeld = false)
    ∧ (∃ (q : QueueIx) (slot : SlotIx) (s : State) (v : State) (a : Accepted) (data : Option Bytes) (b : Bytes) (w : State), v = s.beginCmd a ∧ w = v.meetIn ((sqArg a.entry 4).testBit 0) (sqArg a.entry 1) (sqArg a.entry 2) ∧ s.ready q slot 0x0900 a ∧ sqArg a.entry 0 = 0 ∧ s.firm.activating = none ∧ s.readFits ((sqArg a.entry 4).testBit 0) (sqArg a.entry 1) (sqArg a.entry 2) data = true ∧ 1 ≤ sqArg a.entry 2 ∧ sqArg a.entry 2 ≤ 4 * 2 ^ 20 ∧ sqArg a.entry 3 + sqArg a.entry 2 ≤ 36 * 2 ^ 20 ∧ v.addrCheck a.q (v.queue a.q).turf ((sqArg a.entry 4).testBit 0) (sqArg a.entry 1) (sqArg a.entry 2) = none ∧ w.readIn ((sqArg a.entry 4).testBit 0) (sqArg a.entry 1) (sqArg a.entry 2) data = some b)
    ∧ (∃ (q : QueueIx) (slot : SlotIx) (s : State) (v : State) (a : Accepted), v = s.beginCmd a ∧ s.ready q slot 0x0900 a ∧ sqArg a.entry 0 = 1 ∧ s.firm.activating = none)
    ∧ (∃ (q : QueueIx) (slot : SlotIx) (s : State) (v : State) (a : Accepted) (data : Option Bytes) (n : Bytes) (w : State), v = s.beginCmd a ∧ w = v.meetIn ((sqArg a.entry 4).testBit 0) (sqArg a.entry 3) 48 ∧ s.ready q slot 0x0900 a ∧ sqArg a.entry 0 = 2 ∧ s.readFits ((sqArg a.entry 4).testBit 0) (sqArg a.entry 3) 48 data = true ∧ v.addrCheck a.q (v.queue a.q).turf ((sqArg a.entry 4).testBit 0) (sqArg a.entry 3) 48 = none ∧ w.readIn ((sqArg a.entry 4).testBit 0) (sqArg a.entry 3) 48 data = some n)
    ∧ (∃ (q : QueueIx) (slot : SlotIx) (s : State) (v : State) (a : Accepted), v = s.beginCmd a ∧ s.ready q slot 0x0900 a ∧ sqArg a.entry 0 = 3 ∧ 4096 ≤ sqArg a.entry 2)
    ∧ (∃ (q : QueueIx) (slot : SlotIx) (s : State) (v : State) (a : Accepted) (w : BankWrite), v = s.beginCmd a ∧ w = { heartwood := true, bankB := true, image := some (fwImageOf v.stagedBytes), cmd := some (a.q, a.slot) } ∧ s.ready q slot 0x0901 a ∧ sqArg a.entry 0 = 1 ∧ s.firm.activating = none ∧ confirms a.entry (sqArg a.entry 1) = true ∧ v.firm.write = none ∧ v.firm.runningBankB = false)
    ∧ (∃ (q : QueueIx) (slot : SlotIx) (s : State) (v : State) (a : Accepted) (w : BankWrite), v = s.beginCmd a ∧ w = { heartwood := true, bankB := false, image := some (fwImageOf v.stagedBytes), cmd := some (a.q, a.slot) } ∧ s.ready q slot 0x0901 a ∧ sqArg a.entry 0 = 1 ∧ s.firm.activating = none ∧ confirms a.entry (sqArg a.entry 1) = true ∧ v.firm.write = none ∧ v.firm.runningBankB = true)
    ∧ (∃ (q : QueueIx) (slot : SlotIx) (s : State) (v : State) (a : Accepted), v = s.beginCmd a ∧ s.ready q slot 0x0901 a ∧ sqArg a.entry 0 = 2 ∧ s.firm.activating = none ∧ s.fetchStopped = false ∧ confirms a.entry (sqArg a.entry 1) = true ∧ v.batches = [] ∧ v.activationWaits a v.now = false)
    ∧ (∃ (q : QueueIx) (slot : SlotIx) (s : State) (v : State) (a : Accepted) (w : State), v = s.beginCmd a ∧ w = v.modAccepted a.q a.slot (fun b => { b with aux := v.now }) ∧ s.ready q slot 0x0901 a ∧ sqArg a.entry 0 = 2 ∧ s.firm.activating = none ∧ s.fetchStopped = false ∧ confirms a.entry (sqArg a.entry 1) = true ∧ v.batches = [] ∧ v.activationWaits a v.now = true) :=
  ⟨⟨{ State.reset with firm := { runningCw := some tFw } }, _, tAcc 0 [], rfl, by decide +kernel⟩,
   ⟨{ State.reset with firm := { runningCw := some tFw } }, _, tAcc 0 [], rfl, by decide +kernel⟩,
   ⟨0, 0, tCmd 0x0900 [0, 0x5000, 4, 37748732, 1], _, tAcc 0x0900 [0, 0x5000, 4, 37748732, 1], some [1, 2, 3, 4], [1, 2, 3, 4], _, rfl, rfl, by decide +kernel⟩,
   ⟨0, 0, tCmd 0x0900 [1], _, tAcc 0x0900 [1], rfl, by decide +kernel⟩,
   ⟨0, 0, tCmd 0x0900 [2, 0x5000, 0, 0x6000, 1], _, tAcc 0x0900 [2, 0x5000, 0, 0x6000, 1], some (List.replicate 48 0), List.replicate 48 0, _, rfl, rfl, by decide +kernel⟩,
   ⟨0, 0, tCmd 0x0900 [3, 0x5000, 4096, 0, 1], _, tAcc 0x0900 [3, 0x5000, 4096, 0, 1], rfl, by decide +kernel⟩,
   ⟨0, 0, tCmd 0x0901 [1, 0xFFFFFEFE], _, tAcc 0x0901 [1, 0xFFFFFEFE], _, rfl, rfl, by decide +kernel⟩,
   ⟨0, 0, { tCmd 0x0901 [1, 0xFFFFFEFE] with firm := { runningBankB := true } }, _, tAcc 0x0901 [1, 0xFFFFFEFE], _, rfl, rfl, by decide +kernel⟩,
   ⟨0, 0, tCmd 0x0901 [2, 0xFFFFFEFE], _, tAcc 0x0901 [2, 0xFFFFFEFE], rfl, by decide +kernel⟩,
   ⟨0, 0, { tCmd 0x0901 [2, 0xFFFFFEFE] with accepted := (tCmd 0x0901 [2, 0xFFFFFEFE]).accepted ++ [{ q := 0, slot := 1, seq := 1, entry := 0 }] }, _, tAcc 0x0901 [2, 0xFFFFFEFE], _, rfl, rfl, by decide +kernel⟩⟩

/-- The hypotheses of every clause of GateAndManagementComplete can all be met. -/
theorem test_GateAndManagementComplete_witness :
    (∃ (s : State) (u : State) (now : Nat) (r : BitVec 512) (e : Bytes), u = s.at_ now ∧ e.length = 64 ∧ s.ctlHeld = false ∧ gateField r 0 2 = 1 ∧ s.gateStatus 1 r (s.gateEntry r e) = stOk)
    ∧ (∃ (s : State) (u : State) (now : Nat) (r : BitVec 512) (e : Bytes), u = s.at_ now ∧ e.length = 64 ∧ s.ctlHeld = false ∧ gateField r 0 2 = 2 ∧ s.gateStatus 2 r (s.gateEntry r e) = stOk)
    ∧ (∃ (s : State) (u : State) (now : Nat) (r : BitVec 512) (e : Bytes), u = s.at_ now ∧ e.length = 64 ∧ s.ctlHeld = false ∧ gateField r 0 2 = 3 ∧ s.gateStatus 3 r (s.gateEntry r e) = stOk)
    ∧ (∃ (s : State) (u : State) (now : Nat) (r : BitVec 512) (e : Bytes), u = s.at_ now ∧ e.length = 64 ∧ s.ctlHeld = false ∧ gateField r 0 2 = 4 ∧ s.gateStatus 4 r (s.gateEntry r e) = stOk)
    ∧ (∃ (s : State) (u : State) (now : Nat) (r : BitVec 512) (e : Bytes), u = s.at_ now ∧ e.length = 64 ∧ s.ctlHeld = false ∧ gateField r 0 2 = 5 ∧ s.gateStatus 5 r (s.gateEntry r e) = stOk)
    ∧ (∃ (s : State) (u : State) (now : Nat) (r : BitVec 512) (e : Bytes), u = s.at_ now ∧ e.length = 64 ∧ s.ctlHeld = false ∧ gateField r 0 2 = 6 ∧ s.gateStatus 6 r (s.gateEntry r e) = stOk)
    ∧ (∃ (s : State) (u : State) (now : Nat) (r : BitVec 512) (e : Bytes), u = s.at_ now ∧ e.length = 64 ∧ s.ctlHeld = false ∧ gateField r 0 2 = 7 ∧ s.gateStatus 7 r (s.gateEntry r e) = stOk)
    ∧ (∃ (s : State) (u : State) (now : Nat) (r : BitVec 512) (e : Bytes), u = s.at_ now ∧ e.length = 64 ∧ s.ctlHeld = false ∧ gateField r 0 2 = 8 ∧ s.gateStatus 8 r (s.gateEntry r e) = stOk)
    ∧ (∃ (s : State) (u : State) (now : Nat) (r : BitVec 512) (e : Bytes), u = s.at_ now ∧ e.length = 64 ∧ s.ctlHeld = false ∧ gateField r 0 2 = 9 ∧ s.gateStatus 9 r (s.gateEntry r e) = stOk)
    ∧ (∃ (s : State) (u : State) (now : Nat) (m : McIx) (ts : List Nat) (spare : Bool) (v : State), u = s.at_ now ∧ ts = ((u.mc m).retirements.filter (fun t => decide (u.now < t + 86400000000000))) ++ [u.now] ∧ spare = !(u.mcsIn .standby).isEmpty ∧ v = ((u.modMc m (fun x => { x with role := .retired, retiredAt := u.now, retirements := ts })).addWear 0x0E m 1 0).faultNotice 0x0C
          (if spare then 1 else 0) m 0 0 ∧ (u.mcsIn .running).length = 3 ∧ (u.mc m).role = .running ∧ u.firm.runningHw.isSome = true)
    ∧ (∃ (s : State) (u : State) (now : Nat) (m : McIx) (v : State), u = s.at_ now ∧ v = u.modMc m (fun x => { x with role := .running }) ∧ (u.mc m).role = .joining ∧ u.firm.fatal = false)
    ∧ (∃ (s : State) (u : State) (now : Nat), u = s.at_ now ∧ u.duplex = true ∧ u.firm.fatal = false ∧ (u.mcsIn .joining).isEmpty = false)
    ∧ (∃ (s : State) (u : State) (now : Nat) (v : State), u = s.at_ now ∧ v = u.callStandby ∧ u.duplex = true ∧ u.firm.fatal = false ∧ (u.mcsIn .joining).isEmpty = true ∧ (u.mcsIn .standby).isEmpty = false)
    ∧ (∃ (s : State) (u : State) (now : Nat), u = s.at_ now ∧ u.duplex = true ∧ u.firm.fatal = false ∧ (u.mcsIn .joining).isEmpty = true ∧ (u.mcsIn .standby).isEmpty = true)
    ∧ (∃ (s : State) (u : State) (now : Nat) (m : McIx), u = s.at_ now ∧ (u.mc m).role = .retired ∧ u.ctlHeld = false ∧ (u.mc m).retiredAt + 1000000000 ≤ u.now)
    ∧ (∃ (s : State) (u : State) (now : Nat) (m : McIx), u = s.at_ now ∧ (u.mc m).role = .retired ∧ u.ctlHeld = false) :=
  ⟨⟨tCmd 0 [], _, 0, tGate 1, natLe 64 (tEntry 1025 0 [1, 2]).toNat, rfl, by decide +kernel⟩,
   ⟨tCmd 0 [], _, 0, tGate 2, natLe 64 (tEntry 1027 0 [1, 2]).toNat, rfl, by decide +kernel⟩,
   ⟨tCmd 0 [], _, 0, tGate 3, natLe 64 (tEntry 0 0 [1, 2]).toNat, rfl, by decide +kernel⟩,
   ⟨tCmd 0 [], _, 0, tGate 4, natLe 64 (tEntry 0 0 [1, 2]).toNat, rfl, by decide +kernel⟩,
   ⟨tCmd 0 [], _, 0, tGate 5, natLe 64 (tEntry 0 0 [1, 2]).toNat, rfl, by decide +kernel⟩,
   ⟨tCmd 0 [], _, 0, tGate 6, natLe 64 (tEntry 2049 0 [1, 2]).toNat, rfl, by decide +kernel⟩,
   ⟨tCmd 0 [], _, 0, tGate 7, natLe 64 (tEntry 2305 0 [1, 2]).toNat, rfl, by decide +kernel⟩,
   ⟨tCmd 0 [], _, 0, tGate 8, natLe 64 (tEntry 3 0 [1, 2]).toNat, rfl, by decide +kernel⟩,
   ⟨tCmd 0 [], _, 0, tGate 9, natLe 64 (tEntry 0 0 [1, 2]).toNat, rfl, by decide +kernel⟩,
   ⟨{ State.reset with firm := { runningHw := some tFw, mcs := tCores .running .running .running .standby } }, _, 0, 2, _, _, _, rfl, rfl, rfl, rfl, by decide +kernel⟩,
   ⟨{ State.reset with firm := { mcs := tCores .running .running .retired .joining } }, _, 0, 3, _, rfl, rfl, by decide +kernel⟩,
   ⟨{ State.reset with firm := { mcs := tCores .running .running .retired .joining } }, _, 0, rfl, by decide +kernel⟩,
   ⟨{ State.reset with firm := { mcs := tCores .running .running .retired .standby } }, _, 0, _, rfl, rfl, by decide +kernel⟩,
   ⟨{ State.reset with firm := { mcs := tCores .running .running .retired .failed } }, _, 0, rfl, by decide +kernel⟩,
   ⟨{ State.reset with pw := { gtcRunning := true }, firm := { mcs := tCores .running .running .running .retired } }, _, 1000000000, 3, rfl, by decide +kernel⟩,
   ⟨{ State.reset with firm := { mcs := tCores .running .running .running .retired } }, _, 0, 3, rfl, by decide +kernel⟩⟩

/-- The hypotheses of every clause of HealthCommandsComplete can all be met. -/
theorem test_HealthCommandsComplete_witness :
    (∃ (s : State) (q : QueueIx) (slot : SlotIx) (a : Accepted) (v : State), v = s.beginCmd a ∧ s.ready q slot 0x0800 a ∧ ((v.queue a.q).turf = 0 ∨ sqArg a.entry 0 = 4) ∧ (v.healthReport (sqArg a.entry 0) (v.queue a.q).turf).1.length ≤ sqArg a.entry 2)
    ∧ (∃ (s : State) (q : QueueIx) (slot : SlotIx) (a : Accepted) (v : State) (l : List Defect), v = s.beginCmd a ∧ l = (v.firm.defects.drop (sqArg a.entry 1)).take (sqArg a.entry 2) ∧ s.ready q slot 0x0802 a ∧ 1 ≤ sqArg a.entry 2 ∧ sqArg a.entry 2 ≤ 4096)
    ∧ (∃ (s : State) (k : Byte) (n : Half) (d : Word) (now : Nat) (u : State), u = s.at_ now ∧ unitOk k.toNat n.toNat d = true ∧ k ≠ 6 ∧ (k ≠ 1 ∨ u.wornCell n.toNat = true) ∧ u.wearWaits k.toNat n.toNat = false)
    ∧ (∃ (s : State) (k : Byte) (n : Half) (d : Word) (now : Nat) (u : State), u = s.at_ now ∧ unitOk k.toNat n.toNat d = true ∧ k ≠ 6 ∧ (k ≠ 1 ∨ u.wornCell n.toNat = true) ∧ u.wearWaits k.toNat n.toNat = true ∧ u.firm.deferred.contains (k.toNat, n.toNat, d) = false)
    ∧ (∃ (s : State) (n : Half) (d : Word) (now : Nat) (u : State), u = s.at_ now ∧ unitOk 6 n.toNat d = true ∧ (u.bank n.toNat).wornAt = none ∧ (u.bankFeed n.toNat).isSome = true ∧ (u.bank n.toNat).faulted = false)
    ∧ (∃ (s : State) (q : QueueIx) (slot : SlotIx) (a : Accepted) (v : State) (k : Nat) (n : Nat) (d : Word), v = s.beginCmd a ∧ k = sqArg a.entry 0 ∧ n = sqArg a.entry 1 ∧ d = BitVec.ofNat 32 (sqArg a.entry 2) ∧ s.ready q slot 0x0801 a ∧ k ∈ [0x01, 0x04, 0x07, 0x08, 0x0B, 0x0C] ∧ unitOk k n d = true ∧ sqArg a.entry 2 < 2 ^ 32 ∧ v.inService k n d = true ∧ v.noSpareNow k n d = false ∧ v.wearWaits k n = false ∧ v.poolBusy k n d = false ∧ (k ≠ 7 ∨ v.scheduled n = false))
    ∧ (∃ (s : State) (q : QueueIx) (slot : SlotIx) (a : Accepted) (v : State) (n : Nat) (d : Word), v = s.beginCmd a ∧ n = sqArg a.entry 1 ∧ d = BitVec.ofNat 32 (sqArg a.entry 2) ∧ s.ready q slot 0x0801 a ∧ sqArg a.entry 0 = 0x0D ∧ unitOk 0x0D n d = true ∧ sqArg a.entry 2 < 2 ^ 32 ∧ v.inService 0x0D n d = true ∧ v.noSpareNow 0x0D n d = false ∧ v.wearWaits 0x0D n = false ∧ v.poolBusy 0x0D n d = false)
    ∧ (∃ (s : State) (q : QueueIx) (slot : SlotIx) (a : Accepted) (v : State) (n : Nat) (feed : Nat) (b : Nat) (d : Word), v = s.beginCmd a ∧ n = sqArg a.entry 1 ∧ d = BitVec.ofNat 32 (sqArg a.entry 2) ∧ s.ready q slot 0x0801 a ∧ sqArg a.entry 0 = 6 ∧ unitOk 6 n d = true ∧ sqArg a.entry 2 < 2 ^ 32 ∧ v.inService 6 n d = true ∧ v.noSpareNow 6 n d = false ∧ v.wearWaits 6 n = false ∧ v.poolBusy 6 n d = false ∧ v.bankFeed n = some feed ∧ v.spareBank (n / 20) = some b ∧ (feedPorts feed).any v.scheduled = false)
    ∧ (∃ (k : Byte) (n : Half) (key : Nat), selfTestKey k.toNat n.toNat = some key)
    ∧ (∃ (s : State) (k : Byte) (n : Half) (d : Word) (p : Nat), p = poolOf k.toNat n.toNat d ∧ k ≠ 0x0E ∧ selfTestKey k.toNat n.toNat = none ∧ s.sparesLeft k.toNat p ≠ 0)
    ∧ (∃ (k : Byte), k.toNat ∈ [0x08, 0x09, 0x0C])
    ∧ (∃ (s : State) (k : Byte) (n : Half) (d : Word) (r : Nat × State), r = s.takeHour k.toNat n.toNat d.toNat ∧ k.toNat ∈ [0x01, 0x04, 0x06] ∧ r.1 ≠ 0)
    ∧ (∃ (s : State) (k : Byte) (n : Half) (d : Word), k.toNat ∈ [0x01, 0x04, 0x06] ∧ (s.takeHour k.toNat n.toNat d.toNat).1 = 0)
    ∧ (∃ (s : State) (n : Half) (x : Word) (d : Word) (v : State), v = s.addWear 0x0F n.toNat x d) :=
  ⟨⟨tCmd 0x0800 [0, 0x5000, 64, 1], 0, 0, tAcc 0x0800 [0, 0x5000, 64, 1], _, rfl, by decide +kernel⟩,
   ⟨tCmd 0x0802 [0x5000, 0, 4096, 1], 0, 0, tAcc 0x0802 [0x5000, 0, 4096, 1], _, _, rfl, rfl, by decide +kernel⟩,
   ⟨State.reset, 13, 16, 0, 0, _, rfl, by decide +kernel⟩,
   ⟨{ State.reset with batches := [(0, tBatch)] }, 13, 19, 0, 0, _, rfl, by decide +kernel⟩,
   ⟨State.reset, 75, 0, 0, _, rfl, by decide +kernel⟩,
   ⟨tCmd 0x0801 [4, 2303, 0], 0, 0, tAcc 0x0801 [4, 2303, 0], _, _, _, _, rfl, rfl, rfl, rfl, by decide +kernel⟩,
   ⟨tCmd 0x0801 [13, 15, 0], 0, 0, tAcc 0x0801 [13, 15, 0], _, _, _, rfl, rfl, rfl, by decide +kernel⟩,
   ⟨tCmd 0x0801 [6, 75, 0], 0, 0, tAcc 0x0801 [6, 75, 0], _, _, 63, 76, _, rfl, rfl, rfl, by decide +kernel⟩,
   ⟨13, 19, 1299, by decide +kernel⟩,
   ⟨State.reset, 8, 2687, 17, _, rfl, by decide +kernel⟩,
   ⟨8, by decide +kernel⟩,
   ⟨{ State.reset with firm := { cellWear := [(4095, { hourStore := 3 })] } }, 4, 4095, 0, _, rfl, by decide +kernel⟩,
   ⟨State.reset, 4, 4095, 0, by decide +kernel⟩,
   ⟨State.reset, 0, 0, 0, _, rfl⟩⟩

/-- The hypotheses of every clause of ResetsComplete can all be met. -/
theorem test_ResetsComplete_witness :
    (∃ (s : State) (c : ModuleResetCause), s.bu.vaux = true ∧ (c ≠ .refclkLost ∨ s.lorCompat = true ∧ s.pw.gtcRunning = true))
    ∧ (∃ (s : State) (t : State), t = s.resetModule false 6 none false ∧ s.bu.vaux = true ∧ s.bu.xtalFailed = false)
    ∧ (∃ (s : State) (b : BringupSt), b = {
          vaux := false, counts := s.bu.counts, bootEpoch := s.bu.bootEpoch, record := s.bu.record, monotonic := s.bu.monotonic
          smbAlert := false, cfgSel := s.bu.cfgSel, strapFault := s.bu.strapFault, cause := s.bu.cause, prior := s.bu.prior })
    ∧ (∃ (s : State), s.bu.vaux = true ∧ s.bu.xtalFailed = false ∧ s.bu.islandUp = false ∧ s.pw.shutdown = false)
    ∧ (∃ (s : State), s.bu.vaux = true ∧ s.bu.xtalFailed = false ∧ s.bu.islandUp = false ∧ s.pw.shutdown = true ∧ s.junctionsCool = true ∧ s.bu.thermRst = false)
    ∧ (∃ (s : State) (t : State), t = s.assertCompute ∧ s.bu.vaux = true ∧ s.bu.crstLow = false)
    ∧ (∃ (s : State), s.bu.crstLow = true ∧ s.bu.computeHeld = true)
    ∧ (∃ (s : State), s.bu.crstLow = true ∧ s.bu.computeHeld = false)
    ∧ (∃ (s : State), s.bu.crstLow = false)
    ∧ (∃ (s : State), s.bu.islandUp = true)
    ∧ (∃ (s : State) (t : State), t = s.assertCompute ∧ s.bu.islandUp = true ∧ s.bu.computeHeld = false)
    ∧ (∃ (s : State) (c : CdIx) (t : State) (u : State), t = s.countReset 3 ∧ u = t.clearDies [c.val] ∧ s.bu.islandUp = true ∧ s.bu.diesHeld.contains c.val = false ∧ 7 ≤ t.bu.lastDone ∧ t.bu.computeOn = true ∧ t.bu.computeHeld = false ∧ t.bu.crstLow = false)
    ∧ (∃ (s : State), s.bu.islandUp = true ∧ s.firm.runningCw.isSome = true ∧ s.ctlHeld = false)
    ∧ (∃ (s : State) (key : Half), (s.bu.islandUp = false ∨ key ≠ 0xA5C3))
    ∧ (∃ (s : State) (now : Nat) (u : State), u = s.at_ now ∧ u.pw.refclk = true ∧ u.pw.gtcRunning = false)
    ∧ (∃ (s : State) (now : Nat) (u : State), u = s.at_ now ∧ u.pw.refclk = true ∧ u.pw.gtcRunning = true ∧ u.lorCompat = true)
    ∧ (∃ (s : State) (now : Nat) (u : State), u = s.at_ now ∧ u.pw.refclk = true ∧ u.pw.gtcRunning = true ∧ u.lorCompat = false)
    ∧ (∃ (s : State) (now : Nat) (c : Nat) (u : State), u = s.at_ now ∧ u.pw.holdover = some c)
    ∧ (∃ (s : State) (now : Nat) (u : State), u = s.at_ now ∧ u.pw.holdover = none)
    ∧ (∃ (s : State) (now : Nat) (c : Nat) (u : State) (v : State), u = s.at_ now ∧ v = (u.batches.foldl (fun x p => x.stopBatch p.1 stInternal 0 false)
          ({ u with pw := { u.pw with safeStopped := true } } : State)).settleAll ∧ u.pw.holdover = some c ∧ c + 1000000 ≤ u.now ∧ u.pw.safeStopped = false) :=
  ⟨⟨State.reset, .rstN, by decide +kernel⟩,
   ⟨State.reset, _, rfl, by decide +kernel⟩,
   ⟨State.reset, _, rfl⟩,
   ⟨State.reset, by decide +kernel⟩,
   ⟨{ State.reset with pw := { shutdown := true } }, by decide +kernel⟩,
   ⟨State.reset, _, rfl, by decide +kernel⟩,
   ⟨{ State.reset with bu := { crstLow := true, computeHeld := true } }, by decide +kernel⟩,
   ⟨{ State.reset with bu := { crstLow := true } }, by decide +kernel⟩,
   ⟨{ State.reset with bu := { computeHeld := true } }, by decide +kernel⟩,
   ⟨{ State.reset with bu := { islandUp := true } }, by decide +kernel⟩,
   ⟨{ State.reset with bu := { islandUp := true } }, _, rfl, by decide +kernel⟩,
   ⟨{ State.reset with bu := { islandUp := true, lastDone := 7, computeOn := true } }, 15, _, _, rfl, rfl, by decide +kernel⟩,
   ⟨{ State.reset with bu := { islandUp := true }, firm := { runningCw := some tFw } }, by decide +kernel⟩,
   ⟨{ State.reset with bu := { islandUp := true } }, 0xA5C2, by decide +kernel⟩,
   ⟨{ State.reset with pw := { refclk := true } }, 0, _, rfl, by decide +kernel⟩,
   ⟨{ State.reset with pw := { refclk := true, gtcRunning := true }, cfg := [(1, { active := memWrite [] 108 [1] })] }, 0, _, rfl, by decide +kernel⟩,
   ⟨{ State.reset with pw := { refclk := true, gtcRunning := true } }, 0, _, rfl, by decide +kernel⟩,
   ⟨{ State.reset with pw := { holdover := some 0 } }, 0, 0, _, rfl, by decide +kernel⟩,
   ⟨State.reset, 0, _, rfl, by decide +kernel⟩,
   ⟨{ State.reset with pw := { gtcRunning := true, holdover := some 0 } }, 1000000, 0, _, _, rfl, rfl, by decide +kernel⟩⟩

/-- The hypotheses of every clause of BringupStepsComplete can all be met. -/
theorem test_BringupStepsComplete_witness :
    (∃ (v : Via) (s : State) (u : State) (o : BaseObs) (n : List Nat), u = s.stepBegun 1 ∧ n = o.bumps.map (fun b => (setBits b.toNat 4).headD 0) ∧ s.stepOpen 1 v ∧ o.bumps.length = 4 ∧ o.fuses.length = 40 ∧ o.badGroup = none ∧ badQuadrant o.bumps 0 [] = none ∧ badFuse n o.fuses = none ∧ 3 ≤ o.votingCores)
    ∧ (∃ (v : Via) (s : State) (u : State) (o : BaseObs) (g : GroupIx), u = s.stepBegun 1 ∧ s.stepOpen 1 v ∧ o.bumps.length = 4 ∧ o.fuses.length = 40 ∧ o.badGroup = some g)
    ∧ (∃ (v : Via) (s : State) (u : State) (cores : Nat), u = s.stepBegun 2 ∧ s.stepOpen 2 v ∧ u.pw.refclk = true ∧ 3 ≤ cores)
    ∧ (∃ (v : Via) (s : State) (u : State), u = s.stepBegun 2 ∧ s.stepOpen 2 v ∧ u.pw.refclk = false)
    ∧ (∃ (v : Via) (s : State) (u : State) (cores : Nat), u = s.stepBegun 2 ∧ s.stepOpen 2 v ∧ u.pw.refclk = true ∧ cores < 3)
    ∧ (∃ (v : Via) (s : State) (u : State) (o : TrainObs) (t : State), u = s.stepBegun 3 ∧ t = (List.range 352).foldl (fun x l => x.trainLink l)
          ({ u with bu := { u.bu with photonicsOn := true, memoryOn := true } } : State).zeroSites ∧ s.stepOpen 3 v ∧ o.badGroup = none ∧ o.badPort = none ∧ o.badSite = none ∧ 3 ≤ o.votingCores)
    ∧ (∃ (v : Via) (s : State) (u : State) (o : SodObs) (t : State), u = s.stepBegun 4 ∧ t = (o.wakeFails.map (fun r => r.val)).foldl (fun x r => x.sodWakeFail r) (o.defects.foldl (fun x d => x.takeFinding d) u) ∧ s.stepOpen 4 v ∧ 3 ≤ o.votingCores)
    ∧ (∃ (v : Via) (s : State) (u : State) (b : Bool) (i : FwImage) (t : State), u = s.stepBegun 5 ∧ t = u.goodCores.zipIdx.foldl (fun x m => x.modMc m.1 (fun y => { y with role := if m.2 < 3 then .running else .standby }))
          ({ u with bu := { u.bu with noBank := false } } : State) ∧ s.stepOpen 5 v ∧ 3 ≤ u.goodCores.length ∧ u.chooseBank = some (b, i))
    ∧ (∃ (v : Via) (s : State) (u : State), u = s.stepBegun 5 ∧ s.stepOpen 5 v ∧ 3 ≤ u.goodCores.length ∧ u.chooseBank = none)
    ∧ (∃ (v : Via) (s : State) (u : State) (d : Bytes) (w : BankWrite), u = s.stepBegun 0x10 ∧ w = { heartwood := true, bankB := true, image := some (fwImageOf d), fromWindow := true } ∧ s.stepOpen 0x10 v ∧ s.arg 1 ≤ 36 * 2 ^ 20 ∧ d.length = s.arg 1 ∧ (u.arg 2).testBit 0 = true)
    ∧ (∃ (v : Via) (s : State) (u : State) (d : Bytes) (t : State), u = s.stepBegun 6 ∧ t = { u with firm := { u.firm with staged := memWrite [] 0 d, stagedTop := d.length } } ∧ s.stepOpen 6 v ∧ s.arg 1 ≤ 36 * 2 ^ 20 ∧ d.length = s.arg 1 ∧ 8 ≤ t.scServing.length)
    ∧ (∃ (v : Via) (s : State) (u : State) (l : List RegionIx) (t : State), u = s.stepBegun 7 ∧ t = ((List.range 64).filter (fun r => !(u.region r).failed && (u.region r).sleep != .s0)).foldl (fun x r =>
          if l.any (fun y => y.val == r) then x.wakeFailed r 1 []
          else (x.modRegion r (fun y => { y with wakeFail := false })).wakeDone r true)
            ({ u with bu := { u.bu with computeOn := true } } : State) ∧ s.stepOpen 7 v ∧ s.bu.crstLow = false)
    ∧ (∃ (v : Via) (s : State) (u : State), u = s.stepBegun 7 ∧ s.stepOpen 7 v ∧ s.bu.crstLow = true)
    ∧ (∃ (v : Via) (s : State) (u : State) (sec : Bytes) (t : State), u = s.stepBegun 8 ∧ sec = (match u.firm.runningCw with | some i => i.steward | none => []) ∧ t = { u with firm := { u.firm with stewardCopy := sec } } ∧ s.stepOpen 8 v)
    ∧ (∃ (v : Via) (s : State) (u : State), u = s.stepBegun 9 ∧ s.stepOpen 9 v ∧ u.queueArgFault = none)
    ∧ (∃ (v : Via) (s : State) (u : State) (n : Nat), u = s.stepBegun 9 ∧ s.stepOpen 9 v ∧ u.queueArgFault = some n) :=
  ⟨⟨.smbus, tWindow 0, _, tBase, _, rfl, rfl, by decide +kernel⟩,
   ⟨.smbus, tWindow 0, _, { tBase with badGroup := some 255 }, 255, rfl, by decide +kernel⟩,
   ⟨.port 1, { tWindow 1 with pcie1 := { linkUp := true, perst := false }, pw := { refclk := true } }, _, 3, rfl, by decide +kernel⟩,
   ⟨.smbus, { tWindow 1 with pw := { refclk := false } }, _, rfl, by decide +kernel⟩,
   ⟨.smbus, { tWindow 1 with pw := { refclk := true } }, _, 2, rfl, by decide +kernel⟩,
   ⟨.smbus, tWindow 2, _, { badGroup := none, badPort := none, badSite := none, votingCores := 3 }, _, rfl, rfl, by decide +kernel⟩,
   ⟨.smbus, tWindow 3, _, { votingCores := 3, defects := [], wakeFails := [] }, _, rfl, rfl, by decide +kernel⟩,
   ⟨.smbus, { tWindow 4 with firm := { bankB := { valid := true, img := some tPatch } } }, _, true, tPatch, _, rfl, rfl, by decide +kernel⟩,
   ⟨.smbus, tWindow 4, _, rfl, by decide +kernel⟩,
   ⟨.port 0, { tWindow 4 with bu := { islandUp := true, lastDone := 4, noBank := true, args := [(1, 4), (2, 1)] }, pcie0 := { linkUp := true, perst := false } }, _, [1, 2, 3, 4], _, rfl, rfl, by decide +kernel⟩,
   ⟨.port 0, { tWindow 5 with bu := { islandUp := true, lastDone := 5, args := [(1, 4)] }, pcie0 := { linkUp := true, perst := false } }, _, [1, 2, 3, 4], _, rfl, rfl, by decide +kernel⟩,
   ⟨.smbus, tWindow 6, _, [63], _, rfl, rfl, by decide +kernel⟩,
   ⟨.smbus, { tWindow 6 with bu := { islandUp := true, lastDone := 6, crstLow := true } }, _, rfl, by decide +kernel⟩,
   ⟨.smbus, tWindow 7, _, _, _, rfl, rfl, rfl, by decide +kernel⟩,
   ⟨.port 0, { tWindow 8 with pcie0 := { linkUp := true, perst := false }, bu := { islandUp := true, lastDone := 8, args := [(0, 0x100000), (1, 0x200000), (2, 0x44)] } }, _, rfl, by decide +kernel⟩,
   ⟨.port 0, { tWindow 8 with pcie0 := { linkUp := true, perst := false } }, _, 1, rfl, by decide +kernel⟩⟩

/-- The hypotheses of every clause of StepEndsAndMirrorComplete can all be met. -/
theorem test_StepEndsAndMirrorComplete_witness :
    (∃ (s : State) (t : State), t = s.endStep 0 s.bu.outcome.2 ∧ s.bu.state = 1 ∧ s.bu.awaits = false ∧ s.firm.write = none ∧ s.bu.outcome.1 = 0 ∧ s.bu.step ≠ 0x10 ∧ s.bu.step ∉ [3, 5, 6, 9])
    ∧ (∃ (s : State) (t : State), t = s.endStep 0 s.trainData ∧ s.bu.state = 1 ∧ s.bu.awaits = false ∧ s.firm.write = none ∧ s.bu.outcome.1 = 0 ∧ s.bu.step = 3)
    ∧ (∃ (s : State) (t : State), t = s.endStep 0 s.bu.outcome.2 ∧ s.bu.state = 1 ∧ s.bu.awaits = false ∧ s.firm.write = none ∧ s.bu.outcome.1 = 0 ∧ s.bu.step = 9)
    ∧ (∃ (s : State) (t : State), t = s.endStep 0 s.bu.outcome.2 ∧ s.bu.state = 1 ∧ s.bu.awaits = false ∧ s.firm.write = none ∧ s.bu.outcome.1 = 0 ∧ s.bu.step = 5)
    ∧ (∃ (s : State) (t : State), t = s.endStep 0 s.bu.outcome.2 ∧ s.bu.state = 1 ∧ s.bu.awaits = false ∧ s.firm.write = none ∧ s.bu.outcome.1 = 0 ∧ s.bu.step = 6)
    ∧ (∃ (s : State) (t : State), t = s.endStep s.bu.outcome.1 s.bu.outcome.2 ∧ s.bu.state = 1 ∧ s.bu.awaits = false ∧ s.firm.write = none ∧ s.bu.outcome.1 ≠ 0)
    ∧ (∃ (s : State) (sub : Byte), s.bu.state = 1 ∧ s.bu.awaits = false ∧ stepParts s.bu.step ≠ 0 ∧ 1 ≤ sub.toNat ∧ sub.toNat ≤ stepParts s.bu.step)
    ∧ (∃ (s : State), s.bu.state = 1 ∧ s.bu.awaits = false ∧ stepParts s.bu.step = 0)
    ∧ (∃ (s : State), s.bu.vaux = true)
    ∧ (∃ (s : State) (t : State) (x : BitVec 7) (off : Half) (d : Bytes), t = d.zipIdx.foldl (fun w y => w.mirrorByte (off.toNat + y.2) y.1) s ∧ s.bu.vaux = true ∧ x.toNat = s.mirrorAddr ∧ mirrorReset off.toNat d = none)
    ∧ (∃ (s : State) (t : State) (x : BitVec 7) (off : Half) (d : Bytes) (n : Nat), t = d.zipIdx.foldl (fun w y => w.mirrorByte (off.toNat + y.2) y.1) s ∧ s.bu.vaux = true ∧ x.toNat = s.mirrorAddr ∧ mirrorReset off.toNat d = some n) :=
  ⟨⟨{ State.reset with bu := { state := 1, step := 8 } }, _, rfl, by decide +kernel⟩,
   ⟨{ State.reset with bu := { state := 1, step := 3 } }, _, rfl, by decide +kernel⟩,
   ⟨{ State.reset with bu := { state := 1, step := 9 } }, _, rfl, by decide +kernel⟩,
   ⟨{ State.reset with bu := { state := 1, step := 5 } }, _, rfl, by decide +kernel⟩,
   ⟨{ State.reset with bu := { state := 1, step := 6, outcome := (0, 7) } }, _, rfl, by decide +kernel⟩,
   ⟨{ State.reset with bu := { state := 1, step := 1, outcome := (4, 7) } }, _, rfl, by decide +kernel⟩,
   ⟨{ State.reset with bu := { state := 1, step := 4 } }, 8, by decide +kernel⟩,
   ⟨{ State.reset with bu := { state := 1, step := 9 } }, by decide +kernel⟩,
   ⟨State.reset, by decide +kernel⟩,
   ⟨State.reset, _, 0x60, 0x110, [1], rfl, by decide +kernel⟩,
   ⟨State.reset, _, 0x60, 0x140, [2, 0, 0xC3, 0xA5], 0xA5C30002, rfl, by decide +kernel⟩⟩

/-- The hypotheses of StepRunsTheFront can all be met. -/
theorem test_StepRunsTheFront_witness :
    ∃ (c : Instr) (rest : List Instr) (s : State), s.pending = c :: rest :=
  ⟨.clamp 0, [], { State.reset with pending := [.clamp 0] }, by decide +kernel⟩

/-- The hypotheses of EmptyQueueIdles can all be met. -/
theorem test_EmptyQueueIdles_witness :
    ∃ (s : State), s.pending = [] :=
  ⟨State.reset, by decide +kernel⟩

/-- The hypotheses of QueueIsOnlyConsumed can all be met. -/
theorem test_QueueIsOnlyConsumed_witness :
    ∃ (c : Instr) (s : State) (t : State), exec c s = .next t :=
  ⟨.clamp 0, { State.reset with pending := [.clamp 1] }, { State.reset with pending := [.clamp 1] }, next_of (by decide +kernel)⟩

/-- The hypotheses of CommandsStopOnlyWhenIllFormed can all be met. -/
theorem test_CommandsStopOnlyWhenIllFormed_witness :
    ∃ (c : Instr), c.mayBeIllFormed = false :=
  ⟨.clamp 0, by decide +kernel⟩

/-- The hypotheses of EveryStepKeepsMemoryFormAndCounterRange can all be met. -/
theorem test_EveryStepKeepsMemoryFormAndCounterRange_witness :
    ∃ (s : State) (t : State), step s = .next t ∧ s.memOk ∧ s.ctrsInRange :=
  ⟨State.reset, State.reset, next_of (by decide +kernel), ⟨⟨rfl, rfl⟩, ⟨List.forall_mem_nil _, List.forall_mem_nil _⟩⟩⟩

/-- The hypotheses of DefectListOnlyGrows can all be met. -/
theorem test_DefectListOnlyGrows_witness :
    ∃ (c : Instr) (s : State) (t : State), exec c s = .next t :=
  ⟨.clamp 0, State.reset, State.reset, next_of (by decide +kernel)⟩

/-- The hypotheses of every clause of KeySlotsAreRevokedOnlyByAFirstBoot can all be met. -/
theorem test_KeySlotsAreRevokedOnlyByAFirstBoot_witness :
    (∃ (c : Instr) (s : State) (t : State) (k : Nat), exec c s = .next t ∧ k ∈ s.firm.revoked)
    ∧ (∃ (c : Instr) (s : State) (t : State), exec c s = .next t ∧ c ≠ .bringupStepEnd)
    ∧ (∃ (c : Instr) (s : State) (t : State), exec c s = .next t ∧ c = .bringupStepEnd ∧ (¬ s.completesHeartwood))
    ∧ (∃ (c : Instr) (s : State) (t : State) (i : FwImage), exec c s = .next t ∧ c = .bringupStepEnd ∧ s.firm.runningHw = some i ∧ (s.runningBank.booted = true ∨ i.revokeLower = false))
    ∧ (∃ (c : Instr) (s : State) (t : State) (i : FwImage), exec c s = .next t ∧ c = .bringupStepEnd ∧ s.completesHeartwood ∧ s.firm.runningHw = some i ∧ s.runningBank.booted = false ∧ i.revokeLower = true) :=
  ⟨⟨.bringupStepEnd, tBoot, tBooted, 0, next_of (by decide +kernel), by decide +kernel⟩,
   ⟨.clamp 0, tBoot, tBoot, next_of (by decide +kernel), by decide +kernel⟩,
   ⟨.bringupStepEnd, State.reset, State.reset, next_of (by decide +kernel), by decide +kernel⟩,
   ⟨.bringupStepEnd, tBooted, tBooted, tRevoker, next_of (by decide +kernel), by decide +kernel⟩,
   ⟨.bringupStepEnd, tBoot, tBooted, tRevoker, next_of (by decide +kernel), by decide +kernel⟩⟩

/-- The hypotheses of MemoryStaysUnderCommandsThatStoreNothing can all be met. -/
theorem test_MemoryStaysUnderCommandsThatStoreNothing_witness :
    ∃ (c : Instr) (s : State) (t : State), exec c s = .next t ∧ c.leavesMemory = true :=
  ⟨.clamp 0, State.reset, State.reset, next_of (by decide +kernel), by decide +kernel⟩

/-- The hypotheses of SignalBeyondTheRangeIsRefused can all be met. -/
theorem test_SignalBeyondTheRangeIsRefused_witness :
    ∃ (s : State) (k : Nat) (n : Nat) (p : Party), s.ctrRefusal k n p = none ∧ 2 ^ 31 - 1 < (s.ctr k).value + n :=
  ⟨tCounter, 200, 2147483647, { who := 0 }, by decide +kernel⟩

/-- The hypotheses of every clause of CounterChangesAreExact can all be met. -/
theorem test_CounterChangesAreExact_witness :
    (∃ (s : State) (k : Nat) (n : Nat) (p : Party), s.ctrRefusal k n p = none ∧ (s.ctr k).value + n < 2 ^ 31)
    ∧ (∃ (s : State) (k : Nat) (n : Nat) (p : Party), s.ctrRefusal k (-(n : Int)) p = none ∧ n ≤ (s.ctr k).value ∧ (s.ctr k).value < 2 ^ 31)
    ∧ (∃ (s : State) (k : Nat) (n : Nat) (p : Party), s.ctrRefusal k (-(n : Int)) p = none ∧ (s.ctr k).value < n) :=
  ⟨⟨tCounter, 200, 7, { who := 0 }, by decide +kernel⟩,
   ⟨tCounter, 200, 5, { who := 0 }, by decide +kernel⟩,
   ⟨tCounter, 200, 6, { who := 0 }, by decide +kernel⟩⟩

/-- The hypotheses of every clause of LedgerAdditionSaturates can all be met. -/
theorem test_LedgerAdditionSaturates_witness :
    (∃ (w : BitVec 128) (j : Int), -(2 ^ 127) ≤ w.toInt + j ∧ w.toInt + j ≤ 2 ^ 127 - 1)
    ∧ (∃ (w : BitVec 128) (j : Int), 2 ^ 127 - 1 < w.toInt + j)
    ∧ (∃ (w : BitVec 128) (j : Int), w.toInt + j < -(2 ^ 127)) :=
  ⟨⟨5, -7, by decide +kernel⟩,
   ⟨1, 2 ^ 127, by decide +kernel⟩,
   ⟨-1, -(2 ^ 127), by decide +kernel⟩⟩

/-- The hypotheses of every clause of IntegerAtomicsAreExact can all be met. -/
theorem test_IntegerAtomicsAreExact_witness :
    (∃ (p : Packet), p.op = 0x10 ∧ p.otype = 0)
    ∧ (∃ (p : Packet), p.op = 0x11 ∧ p.otype = 0)
    ∧ (∃ (p : Packet), p.op = 0x12 ∧ p.otype = 0)
    ∧ (∃ (p : Packet), p.op = 0x13 ∧ p.otype = 1) :=
  ⟨⟨tAtom 0x10 0, by decide +kernel⟩,
   ⟨tAtom 0x11 0, by decide +kernel⟩,
   ⟨tAtom 0x12 0, by decide +kernel⟩,
   ⟨tAtom 0x13 1, by decide +kernel⟩⟩

/-- The hypotheses of every clause of WrittenBytesReadBack can all be met. -/
theorem test_WrittenBytesReadBack_witness :
    (∃ (s : State) (t : State) (a : Nat) (bs : Bytes), Memory.wf s.mem = true ∧ s.writePiece a bs false = (t, true) ∧ (∀ m o : Nat, s.resolve a = some (.site m o) → (s.site m).heldRefresh = false))
    ∧ (∃ (s : State) (a : Nat) (m : Nat) (o : Nat), s.resolve a = some (.site m o) ∧ (s.site m).heldRefresh = true)
    ∧ (∃ (s : State) (t : State) (a : Nat) (bs : Bytes) (k : Nat) (x : Nat), Memory.wf s.mem = true ∧ s.writePiece a bs false = (t, true) ∧ s.pieceKey a = some k ∧ (x < k ∨ k + bs.length ≤ x)) :=
  ⟨⟨State.reset, (State.reset.writePiece (16 * 2 ^ 48 + 5) [1, 2] false).1, 16 * 2 ^ 48 + 5, [1, 2], rfl, by decide +kernel, fun m _ _ => rfl⟩,
   ⟨{ State.reset with sites := [(0, { heldRefresh := true })] }, 16 * 2 ^ 48 + 5, 0, 5, by decide +kernel⟩,
   ⟨State.reset, (State.reset.writePiece (16 * 2 ^ 48 + 5) [1, 2] false).1, 16 * 2 ^ 48 + 5, [1, 2], siteKey 0 5, siteKey 0 7, by decide +kernel⟩⟩

/-- The hypotheses of every clause of ForeignStoresChangeNothing can all be met. -/
theorem test_ForeignStoresChangeNothing_witness :
    (∃ (a : Arrival) (p : Packet) (s : State) (m : Nat) (o : Nat), s.resolve p.addr = some (.site m o) ∧ mayReach a.turf (siteOwner s.turfMap m (o / 2 ^ 30)) = false ∧ p.requestOk = true ∧ s.siteHeld p = false ∧ p.len ≠ 0 ∧ p.op = 2)
    ∧ (∃ (a : Arrival) (p : Packet) (s : State) (m : Nat) (o : Nat), s.resolve p.addr = some (.site m o) ∧ mayReach a.turf (siteOwner s.turfMap m (o / 2 ^ 30)) = false ∧ p.requestOk = true ∧ s.siteHeld p = false ∧ p.len ≠ 0 ∧ p.op = 1)
    ∧ (∃ (a : Arrival) (p : Packet) (s : State) (m : Nat) (o : Nat), s.resolve p.addr = some (.site m o) ∧ mayReach a.turf (siteOwner s.turfMap m (o / 2 ^ 30)) = false ∧ p.requestOk = true ∧ s.siteHeld p = false ∧ p.len ≠ 0) :=
  ⟨⟨{ turf := 3 }, { (tStore (16 * 2 ^ 48)) with data := List.replicate 256 0 }, State.reset, 0, 0, by decide +kernel⟩,
   ⟨{ turf := 3 }, { hdr := mkHdr 1 0 0 0 256 0 1 0 (BitVec.ofNat 64 (16 * 2 ^ 48)) 0 }, State.reset, 0, 0, by decide +kernel⟩,
   ⟨{ turf := 3 }, { (tStore (16 * 2 ^ 48)) with data := List.replicate 256 0 }, State.reset, 0, 0, by decide +kernel⟩⟩

/-- The hypotheses of every clause of FetchedEntriesAreChecked can all be met. -/
theorem test_FetchedEntriesAreChecked_witness :
    (∃ (q : QueueIx) (d : Bytes) (s : State) (u : State) (w : BitVec 512), w = BitVec.ofNat 512 (leNat d) ∧ u = s.takeEntry q.val w ∧ q.val < 4096 ∧ s.mayFetch q.val = true ∧ (s.queue q.val).sqMod = false ∧ d.length = 64 ∧ argMasks (sqOpcode w) = none)
    ∧ (∃ (q : QueueIx) (d : Bytes) (s : State) (u : State) (w : BitVec 512), w = BitVec.ofNat 512 (leNat d) ∧ u = s.takeEntry q.val w ∧ q.val < 4096 ∧ s.mayFetch q.val = true ∧ (s.queue q.val).sqMod = false ∧ d.length = 64 ∧ fld w 14 2 ≠ 0)
    ∧ (∃ (q : QueueIx) (d : Bytes) (s : State) (u : State) (w : BitVec 512), w = BitVec.ofNat 512 (leNat d) ∧ u = s.takeEntry q.val w ∧ q.val < 4096 ∧ s.mayFetch q.val = true ∧ (s.queue q.val).sqMod = false ∧ d.length = 64 ∧ 0x0600 ≤ sqOpcode w ∧ sqOpcode w ≤ 0x0604 ∧ (s.queue q.val).turf ≠ 0 ∧ entryOk w = true)
    ∧ (∃ (q : QueueIx) (d : Bytes) (s : State) (u : State) (w : BitVec 512), w = BitVec.ofNat 512 (leNat d) ∧ u = s.takeEntry q.val w ∧ q.val < 4096 ∧ s.mayFetch q.val = true ∧ (s.queue q.val).sqMod = false ∧ d.length = 64 ∧ 0x0600 ≤ sqOpcode w ∧ sqOpcode w ≤ 0x0604 ∧ entryOk w = false)
    ∧ (∃ (q : QueueIx) (d : Bytes) (s : State) (u : State) (w : BitVec 512), w = BitVec.ofNat 512 (leNat d) ∧ u = s.takeEntry q.val w ∧ q.val < 4096 ∧ s.mayFetch q.val = true ∧ (s.queue q.val).sqMod = false ∧ d.length = 64 ∧ u.entryRefusal q.val w = none) :=
  ⟨⟨1, tEntryBytes 0x0777 0, tFetch3, _, _, rfl, rfl, by decide +kernel⟩,
   ⟨1, tEntryBytes 0 7, tFetch3, _, _, rfl, rfl, by decide +kernel⟩,
   ⟨1, tEntryBytes 0x0601 0, tFetch3, _, _, rfl, rfl, by decide +kernel⟩,
   ⟨1, tEntryBytes 0x0601 7, tFetch3, _, _, rfl, rfl, by decide +kernel⟩,
   ⟨1, tEntryBytes 0 0, tFetch3, _, _, rfl, rfl, by decide +kernel⟩⟩

/-- The hypotheses of CompletionEntriesStandInTheRing can all be met. -/
theorem test_CompletionEntriesStandInTheRing_witness :
    ∃ (q : QueueIx) (slot : SlotIx) (s : State) (a : Accepted) (x : QueueSt), x = s.queue q.val ∧ s.ready q slot 0x0000 a ∧ q.val < 4096 ∧ x.state = .opened ∧ x.cqMod = false ∧ (s.queue 0).state ≠ .closing ∧ Memory.wf s.hostMem = true :=
  ⟨0, 0, tCmd 0 [], tAcc 0 [], _, rfl, by decide +kernel⟩

/-- The hypotheses of every clause of RicksGiveTheirBestItem can all be met. -/
theorem test_RicksGiveTheirBestItem_witness :
    (∃ (r : RickRef) (s : State) (k : Rick) (pre : List (List (BitVec 128))) (post : List (List (BitVec 128))) (i : List (BitVec 128)), s.rickAt r = some k ∧ k.cur = none ∧ k.items = pre ++ i :: post ∧ (∀ j ∈ pre, itemPrio j < itemPrio i) ∧ (∀ j ∈ post, itemPrio j ≤ itemPrio i))
    ∧ (∃ (r : RickRef) (s : State) (k : Rick) (i : List (BitVec 128)) (n : Nat), s.rickAt r = some k ∧ k.cur = some (i, n))
    ∧ (∃ (r : RickRef) (s : State) (k : Rick), s.rickAt r = some k ∧ k.cur = none ∧ k.items = [])
    ∧ (∃ (r : RickRef) (s : State) (k : Rick), s.rickAt r = some k ∧ k.cur ≠ none)
    ∧ (∃ (r : RickRef) (s : State) (k : Rick), s.rickAt r = some k ∧ k.cur ≠ none) :=
  ⟨⟨.core 0, tRicks [[1], [2 ^ 127, 5], [2 ^ 127]] none, { items := [[1], [2 ^ 127, 5], [2 ^ 127]] }, [[1]], [[2 ^ 127]], [2 ^ 127, 5], by decide +kernel⟩,
   ⟨.core 0, tRicks [[2 ^ 127]] (some ([1, 2, 3], 1)), { items := [[2 ^ 127]], cur := some ([1, 2, 3], 1) }, [1, 2, 3], 1, by decide +kernel⟩,
   ⟨.core 0, State.reset, {}, by decide +kernel⟩,
   ⟨.core 0, tRicks [] (some ([1, 2, 3], 1)), { cur := some ([1, 2, 3], 1) }, by decide +kernel⟩,
   ⟨.core 0, tRicks [] (some ([1, 2, 3], 1)), { cur := some ([1, 2, 3], 1) }, by decide +kernel⟩⟩

/-- The hypotheses of every clause of FullRicksDiscardTheirOldest can all be met. -/
theorem test_FullRicksDiscardTheirOldest_witness :
    (∃ (k : Rick) (item : List (BitVec 128)), k.words + item.length ≤ 16)
    ∧ (∃ (k : Rick) (item : List (BitVec 128)) (pre : List (List (BitVec 128))) (post : List (List (BitVec 128))) (x : List (BitVec 128)), k.items = pre ++ x :: post ∧ pre.length ≤ 16 ∧ 16 < ({ k with items := x :: post } : Rick).words + item.length ∧ ({ k with items := post } : Rick).words + item.length ≤ 16)
    ∧ (∃ (k : Rick) (item : List (BitVec 128)), 16 < k.words + item.length) :=
  ⟨⟨{}, [1, 2], by decide +kernel⟩,
   ⟨{ items := [[1, 2, 3], [4, 5, 6], [7, 8, 9]], cur := some ([1, 2, 3, 4], 1) }, [1, 2, 3, 4, 5], [], [[4, 5, 6], [7, 8, 9]], [1, 2, 3], by decide +kernel⟩,
   ⟨{ items := [[1, 2, 3, 4, 5, 6, 7, 8], [1, 2, 3, 4, 5, 6, 7, 8]] }, [1, 2], by decide +kernel⟩⟩

/-- The hypotheses of RunBatchNamesAPresentBucket can all be met. -/
theorem test_RunBatchNamesAPresentBucket_witness :
    ∃ (q : QueueIx) (slot : SlotIx) (s : State) (u : State) (v : State) (a : Accepted) (img : ImageSt), u = s.beginCmd a ∧ v = u.clearErrors img.turf ∧ s.ready q slot 0x0102 a ∧ s.runWaits a = false ∧ tfind u.images (sqArg a.entry 0) = some img ∧ tfind v.images (sqArg a.entry 0) = some img ∧ img.ready = true ∧ ((v.queue a.q).turf = 0 ∨ (v.queue a.q).turf = img.turf) ∧ img.buckets.any (fun b => b.1 == sqArg a.entry 1) = false :=
  ⟨0, 0, { tCmd 0x0102 [7, 9] with images := [(7, tImage)] }, _, _, tAcc 0x0102 [7, 9], tImage, rfl, rfl, by decide +kernel⟩

/-- The hypotheses of every clause of OneActivationAtATime can all be met. -/
theorem test_OneActivationAtATime_witness :
    (∃ (q : QueueIx) (slot : SlotIx) (s : State) (a : Accepted), s.acceptedAt q.val slot.val = some a ∧ s.firm.activating ≠ none ∧ a.started = false ∧ sqOpcode a.entry = 0x0901 ∧ sqArg a.entry 0 = 1)
    ∧ (∃ (q : QueueIx) (slot : SlotIx) (s : State) (a : Accepted), s.acceptedAt q.val slot.val = some a ∧ s.firm.activating ≠ none ∧ a.started = false ∧ sqOpcode a.entry = 0x0901 ∧ sqArg a.entry 0 = 2)
    ∧ (∃ (q : QueueIx) (slot : SlotIx) (s : State) (a : Accepted), s.acceptedAt q.val slot.val = some a ∧ s.firm.activating ≠ none ∧ a.started = false ∧ sqOpcode a.entry = 0x0900 ∧ sqArg a.entry 0 = 0) :=
  ⟨⟨0, 0, { tCmd 0x0901 [1] with firm := { activating := some (0, 1) } }, tAcc 0x0901 [1], by decide +kernel⟩,
   ⟨0, 0, { tCmd 0x0901 [2] with firm := { activating := some (0, 1) } }, tAcc 0x0901 [2], by decide +kernel⟩,
   ⟨0, 0, { tCmd 0x0900 [0] with firm := { activating := some (0, 1) } }, tAcc 0x0900 [0], by decide +kernel⟩⟩

/-- The hypotheses of every clause of DrainedSwapsOfAtomicSets can all be met. -/
theorem test_DrainedSwapsOfAtomicSets_witness :
    (∃ (q : QueueIx) (slot : SlotIx) (s : State) (u : State) (a : Accepted), u = s.beginCmd a ∧ s.ready q slot 0x0402 a ∧ 1 ≤ sqArg a.entry 0 ∧ sqArg a.entry 0 ≤ 4 ∧ u.cfgDenied a = false)
    ∧ (∃ (q : QueueIx) (slot : SlotIx) (s : State) (u : State) (a : Accepted), u = s.beginCmd a ∧ s.ready q slot 0x0401 a ∧ 1 ≤ sqArg a.entry 0 ∧ sqArg a.entry 0 ≤ 4 ∧ u.cfgDenied a = false)
    ∧ (∃ (q : QueueIx) (slot : SlotIx) (s : State) (u : State) (a : Accepted), u = s.beginCmd a ∧ s.ready q slot 0x0402 a ∧ sqArg a.entry 0 = 5 ∧ u.cfgDenied a = false ∧ u.routesOk = true ∧ u.drain ≠ none)
    ∧ (∃ (q : QueueIx) (slot : SlotIx) (s : State) (u : State) (a : Accepted), u = s.beginCmd a ∧ s.ready q slot 0x0402 a ∧ sqArg a.entry 0 = 8 ∧ sqArg a.entry 1 = 0 ∧ u.drain ≠ none) :=
  ⟨⟨0, 0, tCmd 0x0402 [1], _, tAcc 0x0402 [1], rfl, by decide +kernel⟩,
   ⟨0, 0, tCmd 0x0401 [1, 7], _, tAcc 0x0401 [1, 7], rfl, by decide +kernel⟩,
   ⟨0, 0, { tCmd 0x0402 [5] with fab := { epShadow := tEps }, drain := some tDrain }, _, tAcc 0x0402 [5], rfl, by decide +kernel⟩,
   ⟨0, 0, { tCmd 0x0402 [8] with drain := some tDrain }, _, tAcc 0x0402 [8], rfl, by decide +kernel⟩⟩

/-- The hypotheses of every clause of ResetsLeaveTheSourceMask can all be met. -/
theorem test_ResetsLeaveTheSourceMask_witness :
    (∃ (s : State) (t : State) (mv : Nat) (ok : Bool), exec (.coldReset ok mv) s = .next t)
    ∧ (∃ (s : State) (t : State) (mv : Nat), exec (.moduleReset .rstN mv) s = .next t ∧ s.bu.vaux = true)
    ∧ (∃ (s : State) (t : State) (mv : Nat), exec (.moduleReset .vinLow mv) s = .next t ∧ s.bu.vaux = true)
    ∧ (∃ (s : State) (t : State) (mv : Nat), exec (.moduleReset .refclkLost mv) s = .next t ∧ s.bu.vaux = true ∧ s.lorCompat = true ∧ s.pw.gtcRunning = true) :=
  ⟨⟨State.reset, State.reset.resetModule true 1 (some 0) false, 0, true, next_of (by decide +kernel)⟩,
   ⟨State.reset, State.reset.resetModule false 2 (some 0) false, 0, next_of (by decide +kernel), by decide +kernel⟩,
   ⟨State.reset, State.reset.resetModule false 3 (some 0) false, 0, next_of (by decide +kernel), by decide +kernel⟩,
   ⟨tLor, tLor.resetModule false 5 (some 0) false, 0, next_of (by decide +kernel), by decide +kernel⟩⟩

/-- The hypotheses of every clause of TokenPostsStopAt255 can all be met. -/
theorem test_TokenPostsStopAt255_witness :
    (∃ (s : State) (c : Nat) (k : Nat) (n : Nat), (s.cell c).token k + n ≤ 255 ∧ n ≠ 0)
    ∧ (∃ (s : State) (c : Nat) (k : Nat) (n : Nat) (j : Nat), (s.cell c).token k + n ≤ 255 ∧ j ≠ k)
    ∧ (∃ (s : State) (c : Nat) (k : Nat) (n : Nat), 255 < (s.cell c).token k + n ∧ n ≠ 0)
    ∧ (∃ (s : State) (c : Nat) (k : Nat) (n : Nat), 255 < (s.cell c).token k + n ∧ n ≠ 0 ∧ s.faultBatch c = none) :=
  ⟨⟨State.reset, 0, 1, 15, by decide +kernel⟩,
   ⟨State.reset, 0, 1, 15, 2, by decide +kernel⟩,
   ⟨{ State.reset with cells := [(0, { t := [(1, 250)] })] }, 0, 1, 6, by decide +kernel⟩,
   ⟨{ State.reset with cells := [(0, { t := [(1, 250)] })] }, 0, 1, 6, by decide +kernel⟩⟩

theorem test_wf_cmdFetch : (Instr.cmdFetch 0 (some [])).wf = false := by decide
theorem test_wf_basePower :
    (Instr.basePower .smbus { badGroup := none, bumps := [], fuses := [], votingCores := 3 }).wf = false := by decide
theorem test_wf_farDataGranule : (Instr.farDataGranule 0 [1]).wf = false := by decide
theorem test_wf_completion : (Instr.completion 63 []).wf = false := by decide
theorem test_wf_farIdleFrame : (Instr.farIdleFrame 63 [1]).wf = false := by decide
theorem test_wf_linkFrameReceive : (Instr.linkFrameReceive 64 [1]).wf = false := by decide
theorem test_wf_ident : (Instr.ident 0 []).wf = false := by decide
theorem test_wf_laneMapReq : (Instr.laneMapReq 0 ⟨[], 1⟩).wf = false := by decide
theorem test_wf_laneMap : (Instr.laneMap 0 ⟨[], 1⟩ 0).wf = false := by decide
theorem test_wf_fabricBilletReceive : (Instr.fabricBilletReceive 64 0 []).wf = false := by decide
theorem test_wf_gateTableSwap : (Instr.gateTableSwap 0 0 []).wf = false := by decide
theorem test_wf_gateSettingsCommit : (Instr.gateSettingsCommit 0 0 []).wf = false := by decide
theorem test_wf_gateLease : (Instr.gateLease 0 0 []).wf = false := by decide
theorem test_wf_gateRegionPstate : (Instr.gateRegionPstate 0 0 []).wf = false := by decide
theorem test_wf_gateCellTableWrite : (Instr.gateCellTableWrite 0 0 []).wf = false := by decide
theorem test_wf_gateSpareSubst : (Instr.gateSpareSubst 0 0 []).wf = false := by decide
theorem test_wf_gateFirmware : (Instr.gateFirmware 0 0 []).wf = false := by decide
theorem test_wf_gateQueue : (Instr.gateQueue 0 0 []).wf = false := by decide
theorem test_wf_gateHealth : (Instr.gateHealth 0 0 []).wf = false := by decide
theorem test_wf_train : (Instr.train .smbus { badSite := some (0, 3) }).wf = false := by decide
theorem test_wf_cmdFetch_good : (Instr.cmdFetch 0 (some (List.replicate 64 0))).wf = true := by decide

/-! ### Worked examples of the spec -/

/-- The rick of the example of 02: A, B, C, D arrive, and B's first word is read. -/
def tRickAD : Rick :=
  let item := fun (prio n : Nat) => itemHead prio (n - 1) 0 0 0 :: List.replicate (n - 1) (0 : BitVec 128)
  let r := [(2, 4), (5, 3), (2, 4), (0, 4)].foldl (fun (r : Rick) x => r.put false (item x.1 x.2)) {}
  r.read.2

/-- Then E of priority 6 and two words arrives. -/
def tRickE : Rick := tRickAD.put false [itemHead 6 1 0 0 0, 0]

/-- 02, example of the rick: E discards A alone; LOST is 1, ITEMS 4, WORDS 13. -/
theorem test_rick_example_discards_the_oldest : (tRickE.lost, tRickE.count, tRickE.words) = (1, 4, 13) := by decide +kernel
/-- 02, example of the rick: DROP_ITEM leaves 3 items and 10 words, and E is read next. -/
theorem test_rick_example_drop : (tRickE.drop.count, tRickE.drop.words, itemPrio [tRickE.drop.read.1]) = (3, 10, 6) := by decide +kernel

/-- 03, example of R86: 100.0, 0.3 and zeros as a block of E4M3 elements. -/
theorem test_quantise_example :
    quantise 3 0 ([ofF32 0x42C80000, ofF32 0x3E99999A] ++ List.replicate 30 (ofF32 0)) (List.replicate 32 0)
      = (0x7D, [0x7C, 0x3A] ++ List.replicate 30 0) := by decide +kernel

/-- 01, example of R21: an address of CD5 names S2 of its cell 89. -/
theorem test_address_example : State.reset.locOf 5 0x0B3F0008 = .ctr (65536 + (5 * 256 + 89) * 64 + 2) := by decide +kernel

/-- 09, example of Table 6.6: copy A of a signal of cell 1,369 to counter 20,000. -/
theorem test_sync_packet_example :
    natLe 16 (carriage 0x0107 1 41 0 1 (syncAddr 48 20000 0 0 false 0x559)).toNat
      = [0x07, 0x01, 0x01, 0x29, 1, 0, 0, 0, 0x59, 0x05, 0, 0, 0x20, 0x4e, 0x30, 0] := by decide +kernel

/-- 09, example of R243: the Collier waits with TH 4, DEC 4 and AE1 with TH 3, DEC 1 on a counter. -/
def tWaits (value : Nat) : State :=
  { State.reset with
    ctrs := [(65536 + 7, { value := value, waiters := [{ who := 0, thresh := 4, dec := 4, since := 0 },
      { who := 0x2000, thresh := 3, dec := 1, since := 0 }] })] }

/-- At 4 the Collier's wait alone succeeds and leaves 0; at 5 it leaves 1, below AE1's threshold. -/
theorem test_waits_example :
    ((((tWaits 4).evalWaits (65536 + 7)).1.ctr (65536 + 7)).value, ((tWaits 4).evalWaits (65536 + 7)).2.length) = (0, 1)
    ∧ ((((tWaits 5).evalWaits (65536 + 7)).1.ctr (65536 + 7)).value, ((tWaits 5).evalWaits (65536 + 7)).2.length) = (1, 1) := by
  decide +kernel

/-- 13, example of OPEN_QUEUE: the entry's bytes. -/
def tOpenExample : BitVec 512 :=
  BitVec.ofNat 512 (leNat (
    [0x01, 0, 0x02, 0, 0x40, 0, 0, 0, 0x01, 0, 0, 0, 0, 0, 0, 0, 0x11, 0, 0, 0, 0, 0, 0, 0, 0, 0, 0, 0x20, 0x10, 0, 0, 0]
    ++ [0, 0, 0x01, 0x20, 0x10, 0, 0, 0, 0x88, 0, 0x11, 0x08, 0, 0, 0, 0] ++ List.replicate 16 0))

/-- Its fields, and that nothing in it is reserved or out of range. -/
theorem test_open_queue_example :
    (sqOpcode tOpenExample, sqTurf tOpenExample, sqTag tOpenExample, sqNotify tOpenExample) = (1, 1, 0x40, true)
    ∧ (sqArg tOpenExample 0, sqArg tOpenExample 1, sqArg tOpenExample 2, sqArg tOpenExample 3)
      = (17, 0x1020000000, 0x1020010000, 0x08110088)
    ∧ entryOk tOpenExample = true ∧ openBad tOpenExample = false := by decide +kernel

/-- 15, example of a bring-up: 249 mV is slot 2. -/
theorem test_strap_example : strapCode 249 = (2, false) := by decide

/-- 16, Table 16.9: at H = 128 every odd cycle is a hold cycle, so that 72 schedule cycles from an even count end 143 cycles on; R124: with
H = 41 the hold cycle of the first 64 counts that a slot of 72 meets are those at 6, 12, 18 and so on. -/
theorem test_slot_length : slotLength 0 128 = 143 ∧ slotLength 0 0 = 72 ∧ slotLength 0 41 = 72 + 72 * 41 / 215 := by decide +kernel

/-- Table 20.3: a running cell counts the 72 schedule cycles of a slot, and its hold cycles where PCTR0 is programmed for them. -/
theorem test_cycle_events :
    let x := ((({ State.reset with cells := [(5, { running := true, ctrCfg := [(0, 0xC00201)] })] } : State).passCycles 72 71).cell 5)
    (tget x.ctrs 0 8, tget x.ctrs 0 0, tget x.ctrs 0 10) = (72, 71, 0) := by decide +kernel

end Sys2Proof.Tests
end

/-!
# Entries fetched from a ring in host memory (R8, R316, R341)

What CMD_FETCH does with the 64 B it reads goes through `State.acceptEntry`, and that through `State.entryRefusal`: which status an
entry is refused with is said here once per branch, and that fetching an entry leaves the turf its queue is bound to.
-/
namespace Sys2Proof.Machine

/-! ### Reserved values -/

/-- An entry with a reserved opcode holds a reserved value. -/
theorem entryOk_of_reservedOpcode {w : BitVec 512} (h : argMasks (sqOpcode w) = none) : entryOk w = false := by
  simp [entryOk, h]

/-- An entry without a reserved value has 0 in its bytes 14 and 15. -/
theorem reservedBytes_eq_zero_of_entryOk {w : BitVec 512} (h : entryOk w = true) : fld w 14 2 = 0 := by
  unfold entryOk at h
  split at h
  case h_1 => simp at h
  case h_2 =>
    simp only [Bool.and_eq_true, beq_iff_eq] at h
    obtain ⟨⟨⟨_, hbytes⟩, _⟩, _⟩ := h
    exact hbytes

theorem entryOk_of_reservedBytes {w : BitVec 512} (h : fld w 14 2 ≠ 0) : entryOk w = false :=
  Bool.eq_false_iff.mpr (mt reservedBytes_eq_zero_of_entryOk h)

/-- The fabric commands are among those that turf 0 alone may submit (R316). -/
theorem turf0Only_of_fabricCommand {op : Nat} (hlo : 0x0600 ≤ op) (hhi : op ≤ 0x0604) : turf0Only op = true := by
  simp only [turf0Only, List.mem_cons, decide_eq_true_eq]
  omega

/-! ### The status of an entry refused at once -/

theorem State.entryRefusal_badArg (s : State) (q : Nat) {w : BitVec 512} (h : entryOk w = false) :
    s.entryRefusal q w = some stBadArg := by
  simp [State.entryRefusal, h]

/-- Whether TURF names the queue's turf or another, a command of turf 0 alone is refused on a queue of another turf. -/
theorem State.entryRefusal_denied {s : State} {q : Nat} {w : BitVec 512} (hok : entryOk w = true)
    (hturf : (s.queue q).turf ≠ 0) (hop : turf0Only (sqOpcode w) = true) : s.entryRefusal q w = some stDenied := by
  by_cases hown : sqTurf w = (s.queue q).turf
  · simp [State.entryRefusal, hok, hturf, hop, hown]
  · simp [State.entryRefusal, hok, hturf, hown]

/-- Only a refusal for want of a resource has a RESULT (R420). -/
theorem State.refusalResult_eq_zero (s : State) (w : BitVec 512) {st : Nat} (h : st ≠ stNoResource) :
    s.refusalResult w st = 0 :=
  if_neg fun hres => h hres.1

/-! ### Fetching and accepting an entry -/

/-- Updating counters one after another leaves the queues. -/
theorem State.foldl_modCtr_queue (f : State → Ctr → Ctr) (ks : List Nat) (s : State) (q : Nat) :
    (ks.foldl (fun s k => s.modCtr k (f s)) s).queue q = s.queue q := by
  induction ks generalizing s with
  | nil => rfl
  | cons k ks ih => rw [List.foldl_cons, ih, State.modCtr_queue']

theorem State.renewQueue_queue (s : State) (q : Nat) :
    (s.renewQueue q).queue q = { s.queue q with renewed := s.now } := by
  rw [State.renewQueue, State.foldl_modCtr_queue, State.modQueue_self]

/-- Fetching an entry leaves the turf its queue is bound to. -/
theorem State.takeEntry_queue_turf (s : State) (q : Nat) (w : BitVec 512) :
    ((s.takeEntry q w).queue q).turf = (s.queue q).turf := by
  rw [State.takeEntry, State.renewQueue_queue, State.modQueue_self]
  rfl

theorem State.acceptEntry_accepted {s : State} {q : Nat} {w : BitVec 512}
    (h : (s.takeEntry q w).entryRefusal q w = none) : s.acceptEntry q w = s.takeEntry q w := by
  simp [State.acceptEntry, h]

theorem State.acceptEntry_refused {s : State} {q : Nat} {w : BitVec 512} {st : Nat}
    (h : (s.takeEntry q w).entryRefusal q w = some st) (hst : st ≠ stNoResource) :
    s.acceptEntry q w = (s.takeEntry q w).complete (s.entryCmd q w) st 0 0 := by
  simp [State.acceptEntry, h, State.refusalResult_eq_zero _ _ hst]

theorem State.acceptEntry_badArg (s : State) (q : Nat) {w : BitVec 512} (h : entryOk w = false) :
    s.acceptEntry q w = (s.takeEntry q w).complete (s.entryCmd q w) stBadArg 0 0 :=
  State.acceptEntry_refused (State.entryRefusal_badArg _ _ h) (by decide)

/-- A fabric command without a reserved value is DENIED on a queue of another turf than 0 (R316). -/
theorem State.acceptEntry_fabricCommand_denied {s : State} {q : Nat} {w : BitVec 512} (hlo : 0x0600 ≤ sqOpcode w)
    (hhi : sqOpcode w ≤ 0x0604) (hturf : (s.queue q).turf ≠ 0) (hok : entryOk w = true) :
    s.acceptEntry q w = (s.takeEntry q w).complete (s.entryCmd q w) stDenied 0 0 := by
  have hturf' : ((s.takeEntry q w).queue q).turf ≠ 0 := by rwa [State.takeEntry_queue_turf]
  exact State.acceptEntry_refused
    (State.entryRefusal_denied hok hturf' (turf0Only_of_fabricCommand hlo hhi)) (by decide)

/-- CMD_FETCH from a ring in host memory accepts the entry that the 64 B read spell (R341). -/
theorem exec_cmdFetch_hostRing {q : QueueIx} {d : Bytes} {s : State} (hq : q.val < 4096) (hmay : s.mayFetch q.val = true)
    (hhost : (s.queue q.val).sqMod = false) (hlen : d.length = 64) :
    exec (.cmdFetch q (some d)) s = .next (s.acceptEntry q.val (BitVec.ofNat 512 (leNat d))) := by
  change execCmdFetch q (some d) s = _
  simp [execCmdFetch, hq, hmay, hhost, hlen]

/-- Settles O52: CMD_FETCH accepts the entry read, and each clause is one branch of the check at its acceptance. That a reserved
value is found before the turf of the queue is looked at is log entry 103. -/
theorem fetchedEntriesAreChecked : Obligations.FetchedEntriesAreChecked := by
  unfold Obligations.FetchedEntriesAreChecked
  rintro q d s u w hq hmay hhost hlen rfl rfl
  rw [exec_cmdFetch_hostRing hq hmay hhost hlen]
  refine ⟨fun hop => ?reservedOpcode, fun hbytes => ?reservedBytes, fun hlo hhi hturf hok => ?otherTurf,
    fun _ _ hbad => ?reservedInFabric, fun hnone => ?accepted⟩
  case reservedOpcode => rw [State.acceptEntry_badArg _ _ (entryOk_of_reservedOpcode hop)]
  case reservedBytes => rw [State.acceptEntry_badArg _ _ (entryOk_of_reservedBytes hbytes)]
  case otherTurf => rw [State.acceptEntry_fabricCommand_denied hlo hhi hturf hok]
  case reservedInFabric => rw [State.acceptEntry_badArg _ _ hbad]
  case accepted => rw [State.acceptEntry_accepted hnone]

end Sys2Proof.Machine

/-!
# Batches from command to completion (R27 to R33, R360, R361, R551)

Each row looks at the batch of its turf, or at the arm its CD holds, and then takes one of a few paths: the lemmas here say once per
path what the row does, and what has to stand for it.
-/
namespace Sys2Proof.Machine

/-! ### RUN_BATCH and ABORT -/

/-- A RUN_BATCH that need not wait and that nothing refuses enters its batch (R28, R360). -/
theorem exec_runBatch_enters {s v : State} {q : QueueIx} {slot : SlotIx} {a : Accepted} {t : Nat} {img : ImageSt}
    (hready : s.ready q slot 0x0102 a) (hwait : s.runWaits a = false) (hturf : (s.beginCmd a).runTurf a = some t)
    (hv : v = (s.beginCmd a).clearErrors t) (hok : v.runRefusal a = none) (himg : tfind v.images (sqArg a.entry 0) = some img) :
    exec (.runBatch q slot) s = .next (v.enterBatch a img) := by
  subst hv
  obtain ⟨hacc, _, _⟩ := id hready
  change execRunBatch q slot s = _
  simp [execRunBatch, hacc, hwait, State.withCmd_ready hready, hturf, hok, himg]

/-- ABORT of a turf without a batch only cancels the runs that wait (R361). -/
theorem exec_abort_idle {s : State} {q : QueueIx} {slot : SlotIx} {a : Accepted} {c : State × Nat}
    (hready : s.ready q slot 0x0103 a) (hc : c = (s.beginCmd a).cancelRuns (sqTurf a.entry))
    (hnone : c.1.batch (sqTurf a.entry) = none) :
    exec (.abort q slot) s = .next (c.1.done a (c.2 * 2 ^ 16)) := by
  change execAbort q slot s = _
  simp [execAbort, State.withCmd_ready hready, ← hc, hnone]

/-- ABORT ends a batch that has not started with DENIED, and cancels its notices once they are sent (R29, R361). -/
theorem exec_abort_unstarted {s : State} {q : QueueIx} {slot : SlotIx} {a : Accepted} {c : State × Nat} {b : BatchSt}
    (hready : s.ready q slot 0x0103 a) (hc : c = (s.beginCmd a).cancelRuns (sqTurf a.entry))
    (hb : c.1.batch (sqTurf a.entry) = some b) (hstarted : b.started = false) :
    exec (.abort q slot) s =
      .next (((if b.waiting then c.1 else c.1.sendNotices 3 (sqTurf a.entry) b.attempt b.regions b.startCount).finishBatch
        (sqTurf a.entry) b stDenied 0).done a ((c.2 + 1) * 2 ^ 16)) := by
  change execAbort q slot s = _
  simp [execAbort, State.withCmd_ready hready, ← hc, hb, hstarted]

/-- ABORT stops a running batch and waits for that stop (R32, R361). -/
theorem exec_abort_running {s : State} {q : QueueIx} {slot : SlotIx} {a : Accepted} {c : State × Nat} {b : BatchSt}
    (hready : s.ready q slot 0x0103 a) (hc : c = (s.beginCmd a).cancelRuns (sqTurf a.entry))
    (hb : c.1.batch (sqTurf a.entry) = some b) (hstarted : b.started = true) :
    exec (.abort q slot) s =
      .next ((((c.1.modAccepted a.q a.slot (fun x => { x with aux := c.2 })).modBatch (sqTurf a.entry) (fun b => { b with
        abortCmd := some (a.q, a.slot) })).stopBatch (sqTurf a.entry) stDenied 0 true).settleStop (sqTurf a.entry)) := by
  change execAbort q slot s = _
  simp [execAbort, State.withCmd_ready hready, ← hc, hb, hstarted]

/-! ### Notices at a CD -/

/-- An arm notice is taken when the CD holds no arm of the turf, or one whose start count has been reached (R29). -/
theorem State.armNotice_taken {s v w : State} {cd : Nat} {arg : Word} {count : DWord}
    (hfree : ∀ h, tfind s.arms (cd * 64 + bits arg.toNat 5 0) = some h → h.count ≤ s.now)
    (hv : v = { s with arms := tset s.arms (cd * 64 + bits arg.toNat 5 0) {
      regions := bits arg.toNat 19 16, attempt := bits arg.toNat 9 8, count := count.toNat } })
    (hw : w = v.modCd cd (fun d => { d with
      flits := d.flits.filter (fun f => !((setBits (bits arg.toNat 19 16) 4).map (fun i => 4 * cd + i)).contains (regionOf f.cell)) })) :
    s.armNotice cd arg count =
      ((setBits (bits arg.toNat 19 16) 4).map (fun i => 4 * cd + i)).foldl (fun (x : State) r =>
        let x := (regionCells r).foldl (fun (y : State) c => y.modCell c (armCell (v.bucketOf (bits arg.toNat 5 0)).2)) x
        x.sendSignal cd (bits arg.toNat 5 0) (x.ctrAddr (2 * bits arg.toNat 5 0)).toNat 1 0 (cellParty 0 (64 * r))) w := by
  subst hw hv
  cases hheld : tfind s.arms (cd * 64 + bits arg.toNat 5 0) with
  | none => simp [State.armNotice, hheld]
  | some h => simp [State.armNotice, hheld, Nat.not_lt.mpr (hfree h hheld)]

/-- A cancel notice whose ATTEMPT and start count are those of the arm held withdraws it (R29). -/
theorem State.cancelNotice_matching {s : State} {cd : Nat} {arg : Word} {count : DWord} {h : HeldArm}
    (hheld : tfind s.arms (cd * 64 + bits arg.toNat 5 0) = some h) (hattempt : h.attempt = bits arg.toNat 9 8)
    (hcount : h.count = count.toNat) :
    s.cancelNotice cd arg count = { s with arms := tdel s.arms (cd * 64 + bits arg.toNat 5 0) } := by
  simp [State.cancelNotice, hheld, hattempt, hcount]

/-- A cancel notice at a CD that holds no arm of the turf is discarded (R29). -/
theorem State.cancelNotice_unheld {s : State} {cd : Nat} {arg : Word} {count : DWord}
    (hnone : tfind s.arms (cd * 64 + bits arg.toNat 5 0) = none) : s.cancelNotice cd arg count = s.discardNotice cd := by
  simp [State.cancelNotice, hnone]

/-! ### Deadline, end and start of a batch -/

/-- A first attempt that has not armed in time is cancelled, and a second is armed with a new start count (R28). -/
theorem exec_armDeadline_rearms {s : State} {t : TurfIx} {now : Nat} {b : BatchSt} (hb : (s.at_ now).batch t = some b)
    (hwaiting : b.waiting = false) (hstarted : b.started = false) (hdue : b.startCount ≤ (s.at_ now).now + 1000)
    (harmed : (s.at_ now).armed t b = false) (hlacks : (s.at_ now).batchLacks t = false) (hfirst : b.attempt = 1)
    (hhost : b.hostCount = false) :
    exec (.armDeadline t now) s =
      .next (((s.at_ now).sendNotices 3 t b.attempt b.regions b.startCount).armBatch t b 2 (s.at_ now).startAfter) := by
  change execArmDeadline t now s = _
  simp [execArmDeadline, hb, hwaiting, hstarted, Nat.not_lt.mpr hdue, harmed, hlacks, hfirst, hhost]

/-- A batch whose done counter has reached the number of its cells completes with OK (R551). -/
theorem exec_batchDone_completes {s : State} {t : TurfIx} {now : Nat} {b : BatchSt} (hb : (s.at_ now).batch t = some b)
    (hstarted : b.started = true) (hdone : 64 * popCount b.regions 64 ≤ ((s.at_ now).ctr (2 * t + 1)).value)
    (habort : b.abortCmd = none) :
    exec (.batchDone t now) s =
      .next (((s.at_ now).evalWaits (2 * t + 1)).1.finishBatch t b stOk (((s.at_ now).evalWaits (2 * t + 1)).1.okResult b)) := by
  change execBatchDone t now s = _
  simp [execBatchDone, hb, hstarted, Nat.not_lt.mpr hdone, habort]

/-- An armed batch whose start count has come goes by whether it lacks a part, before a slot whose number is a multiple of 32
(R97, R154, R183, R184). -/
theorem exec_batchStart_due {s : State} {t : TurfIx} {now : Nat} {b : BatchSt} (hb : (s.at_ now).batch t = some b)
    (hwaiting : b.waiting = false) (hstarted : b.started = false) (hstopping : b.stopping = false)
    (hdue : b.startCount ≤ (s.at_ now).now) (harmed : (s.at_ now).armed t b = true) (hslot : ((s.at_ now).slot + 1) % 32 = 0)
    (hgap : (s.at_ now).tuneGaps.any (fun g => g.1 == t.val && g.2.1 != 0) = false) :
    exec (.batchStart t now) s =
      .next (if (s.at_ now).batchLacks t then (s.at_ now).withdrawBatch t b stNoResource 0 else (s.at_ now).beginBatch t b) := by
  change execBatchStart t now s = _
  simp only [execBatchStart, hb, hwaiting, hstarted, hstopping, Nat.not_lt.mpr hdue, harmed, hslot, hgap]
  exact (apply_ite Host.Outcome.next _ _ _).symm

/-! ### The end of a region's request -/

/-- A region that reaches the state it was going to ends its request; in S4 its cells lose everything, and their tables must be loaded
again (R419). -/
theorem exec_regionSafeState_ends {s : State} {r : RegionIx} {x : Sleep} (hgoing : (s.region r).going = some x) :
    exec (.regionSafeState r) s =
      .next (((if x = .s4 then (s.modRegion r (fun y => { y with
          sleep := .s4, going := none, needsTables := true })).clearRegion r
        else s.modRegion r (fun y => { y with sleep := x, going := none })).regionEnded r).settleWakes) := by
  change execRegionSafeState r s = _
  by_cases hdeep : x = .s4
  · simp [execRegionSafeState, hgoing, hdeep]
  · simp [execRegionSafeState, hgoing, hdeep]

/-- Settles O11: each clause is one path of its row. That a discarded cancel notice counts against the first receive port of the CD is log
entry 44. -/
theorem batchCommandsComplete : Obligations.BatchCommandsComplete := by
  unfold Obligations.BatchCommandsComplete
  rintro s q slot u a now rfl
  refine ⟨fun t v img => exec_runBatch_enters, fun c => exec_abort_idle,
    fun c b hready hc hb hstarted hwaiting => ?abortWaiting,
    fun c b => exec_abort_running, fun cd arg count v w hnone hv hw => ?armNotice,
    fun cd arg count h hheld hattempt hcount => ?cancelMatching, fun cd arg count hnone => ?cancelUnheld,
    fun t b v hb hwaiting hstarted hdue harmed hlacks hfirst hhost hv => ?deadline,
    fun t b v hb hstarted hdone habort hv => ?done,
    fun t b hb hwaiting hstarted hstopping hdue harmed hslot hgap hlacks => ?start,
    fun t b hb hwaiting hstarted hstopping hdue harmed hslot hgap hlacks => ?startLacking,
    fun r x => exec_regionSafeState_ends⟩
  case abortWaiting => simp [exec_abort_unstarted hready hc hb hstarted, hwaiting]
  case armNotice =>
    change Host.Outcome.next (s.armNotice cd arg count) = _
    rw [State.armNotice_taken (by simp [hnone]) hv hw]
  case cancelMatching =>
    change Host.Outcome.next (s.cancelNotice cd arg count) = _
    rw [State.cancelNotice_matching hheld hattempt hcount]
  case cancelUnheld =>
    change Host.Outcome.next (s.cancelNotice cd arg count) = _
    rw [State.cancelNotice_unheld hnone, State.discardNotice]
  case deadline => rw [exec_armDeadline_rearms hb hwaiting hstarted hdue harmed hlacks hfirst hhost, hv]
  case done => rw [exec_batchDone_completes hb hstarted hdone habort, hv]
  case start => simp [exec_batchStart_due hb hwaiting hstarted hstopping hdue harmed hslot hgap, hlacks]
  case startLacking => simp [exec_batchStart_due hb hwaiting hstarted hstopping hdue harmed hslot hgap, hlacks]

end Sys2Proof.Machine

/-!
# Memory operations at their target (R265 to R271, R274, R241)

A request goes by what its address resolves to and by the first rule that refuses it. The four atomics share one path up to the new
value, which `atomValue` gives by OPCODE and OTYPE: that path is followed once, for any atomic.
-/
namespace Sys2Proof.Machine

section Requests

variable {s : State} {a : Arrival} {p : Packet} {turf m o k : Nat} {remote : Bool}

/-! ### LOAD and STORE -/

/-- A LOAD of a near-tier site that no rule refuses reads the module's own memory (R274). -/
theorem State.loadReq_site (hok : p.requestOk = true) (hloc : s.resolve p.addr = some (.site m o))
    (href : s.opRefusal turf p = none) : s.loadReq turf p = s.loadMem turf p := by
  simp [State.loadReq, hok, hloc, href]

/-- A LOAD of a counter answers its 4-byte value (R241). -/
theorem State.loadReq_counter (hok : p.requestOk = true) (hloc : s.resolve p.addr = some (.ctr k)) (hlen : p.len = 4)
    (href : s.ctrReadRefusal k turf = none) : s.loadReq turf p = s.dataReq turf p (natLe 4 (s.ctr k).value) false := by
  simp [State.loadReq, hok, hloc, hlen, href]

/-- A LOAD whose site is not held is performed at once (R214). -/
theorem exec_load_unheld (hop : p.op = 1) (hheld : s.siteHeld p = false) :
    exec (.load a p) s = .next (s.loadReq a.turf p) := by
  change execLoad a p s = _
  simp [execLoad, Packet.reservedOp, hop, hheld]

/-- A STORE of a near-tier site that no rule refuses writes every piece of its range, is counted there and answered (R269). -/
theorem exec_store_site (hop : p.op = 2) (hheld : s.siteHeld p = false) (hok : p.requestOk = true)
    (hloc : s.resolve p.addr = some (.site m o)) (href : s.opRefusal a.turf p = none) :
    exec (.store a p) s =
      .next ((((pieces p.addr p.len).foldl (fun (v : State) (x : Nat × Nat) =>
        (v.writePiece x.1 (slice p.data (x.1 - p.addr) x.2) p.poisoned).1) s).countSite p 1).storeAnswer a.turf p) := by
  change execStore a p s = _
  simp [execStore, State.storeReq, hop, hheld, hok, hloc, href]

/-! ### Atomics -/

/-- An atomic on a near-tier site, found neither performed before nor at a far unit, is performed there (R268, R271). -/
theorem State.atomReq_site (hok : p.requestOk = true) (hnew : s.atomFound p = none) (hfar : s.farPending p = false)
    (hloc : s.resolve p.addr = some (.site m o)) (href : s.opRefusal turf p = none) :
    s.atomReq turf remote p = s.atomMem turf p := by
  simp [State.atomReq, hok, hnew, hfar, hloc, href]

/-- On bytes without poison the new value replaces the old, which is answered and recorded (R268, R271). -/
theorem State.atomMem_performed {bs : Bytes} {n : Nat} {r : Nat × Nat} (hn : n = otypeBytes p.otype)
    (hread : (s.meetRange p.addr n).readPiece p.addr n = some (bs, false)) (hr : r = atomValue p (leNat bs)) :
    s.atomMem turf p =
      ((((s.meetRange p.addr n).writePiece p.addr (natLe n r.1) false).1.countSite p 1).countRange (s.resolve p.addr)
        r.2).atomDone turf p (BitVec.ofNat 128 (leNat bs)) (decide (0 < r.2)) := by
  subst hr hn
  simp [State.atomMem, hread]

/-- An atomic on a counter, found neither performed before nor at a far unit, goes by the rules of counters (R241, R271). -/
theorem State.atomReq_counter (hok : p.requestOk = true) (hnew : s.atomFound p = none) (hfar : s.farPending p = false)
    (hloc : s.resolve p.addr = some (.ctr k)) : s.atomReq turf remote p = s.atomCtr turf remote p k := by
  simp [State.atomReq, hok, hnew, hfar, hloc]

/-- A nonzero INT32 ATOM_ADD on a counter is a signal of the amount, answered with the value before it (R241). -/
theorem State.atomCtr_signal {r : State × Nat} (hop : p.op = 0x10) (hint : p.otype = 0) (hne : signed 32 p.operand.toNat ≠ 0)
    (hr : r = s.signalCtr k (signed 32 p.operand.toNat) {
      who := BitVec.ofNat 16 (if remote then p.srcEp else p.unit), turf := turf, remote := remote })
    (hdone : r.2 = stOk) :
    s.atomCtr turf remote p k = r.1.atomDone turf p (BitVec.ofNat 128 (s.ctr k).value) false := by
  simp only [State.atomCtr, hop, hint, hne, ← hr, hdone, ne_eq, not_true_eq_false, or_self, if_false, if_true]

/-! Whichever of the four it is, an atomic whose site is not held is performed at once (R214, R268). -/

theorem exec_atomAdd_unheld (hop : p.op = 0x10) (hheld : s.siteHeld p = false) :
    exec (.atomAdd a p) s = .next (s.atomReq a.turf a.remote p) := if_neg (by simp [hop, hheld])

theorem exec_atomMin_unheld (hop : p.op = 0x11) (hheld : s.siteHeld p = false) :
    exec (.atomMin a p) s = .next (s.atomReq a.turf a.remote p) := if_neg (by simp [hop, hheld])

theorem exec_atomMax_unheld (hop : p.op = 0x12) (hheld : s.siteHeld p = false) :
    exec (.atomMax a p) s = .next (s.atomReq a.turf a.remote p) := if_neg (by simp [hop, hheld])

theorem exec_atomCas_unheld (hop : p.op = 0x13) (hheld : s.siteHeld p = false) :
    exec (.atomCas a p) s = .next (s.atomReq a.turf a.remote p) := if_neg (by simp [hop, hheld])

end Requests

/-- Settles O17: a LOAD, a STORE and the one path of the four atomics, followed at a near-tier site and at a counter. -/
theorem memoryOperationsComplete : Obligations.MemoryOperationsComplete := by
  unfold Obligations.MemoryOperationsComplete
  intro s a p m o n
  refine ⟨fun hop hheld hok hloc href => ?load, exec_store_site, fun k hop hheld hok hloc hlen href => ?loadCounter,
    fun bs r hop hheld hok hnew hfar hloc href hn hread hr => ?add, fun bs r hop hheld hok hnew hfar hloc href hn hread hr => ?min,
    fun bs r hop hheld hok hnew hfar hloc href hn hread hr => ?max, fun bs r hop hheld hok hnew hfar hloc href hn hread hr => ?cas,
    fun k r hop hheld hok hnew hfar hloc hint hne hr hdone => ?addCounter⟩
  case load => rw [exec_load_unheld hop hheld, State.loadReq_site hok hloc href]
  case loadCounter => rw [exec_load_unheld hop hheld, State.loadReq_counter hok hloc hlen href]
  case add =>
    rw [exec_atomAdd_unheld hop hheld, State.atomReq_site hok hnew hfar hloc href, State.atomMem_performed hn hread hr]
  case min =>
    rw [exec_atomMin_unheld hop hheld, State.atomReq_site hok hnew hfar hloc href, State.atomMem_performed hn hread hr]
  case max =>
    rw [exec_atomMax_unheld hop hheld, State.atomReq_site hok hnew hfar hloc href, State.atomMem_performed hn hread hr]
  case cas =>
    rw [exec_atomCas_unheld hop hheld, State.atomReq_site hok hnew hfar hloc href, State.atomMem_performed hn hread hr]
  case addCounter =>
    rw [exec_atomAdd_unheld hop hheld, State.atomReq_counter hok hnew hfar hloc, State.atomCtr_signal hop hint hne hr hdone]

end Sys2Proof.Machine

/-!
# Ricks (R56 to R60)

Which item a read takes, and which items an arriving item discards. Both are said of the lists that `takeBest` and `dropUntil` walk;
the accesses of the control path then follow from what they do to the rick that is reached.
-/
namespace Sys2Proof.Machine

/-! ### The item a read takes -/

theorem takeBest_eq_none {l : List (List (BitVec 128))} : takeBest l = none ↔ l = [] := by
  cases l with
  | nil => simp [takeBest]
  | cons i t =>
    simp only [takeBest, reduceCtorEq, iff_false]
    split
    · simp
    · split <;> simp

/-- The item taken is one of the list. -/
theorem mem_of_takeBest {l rest : List (List (BitVec 128))} {j : List (BitVec 128)} (h : takeBest l = some (j, rest)) : j ∈ l := by
  induction l generalizing j rest with
  | nil => simp [takeBest] at h
  | cons i t ih =>
    simp only [takeBest] at h
    split at h
    case h_1 => simp_all
    case h_2 k rest' hbest =>
      split at h
      · obtain ⟨rfl, -⟩ : k = j ∧ i :: rest' = rest := by simpa using h
        exact List.mem_cons_of_mem _ (ih hbest)
      · obtain ⟨rfl, -⟩ : i = j ∧ t = rest := by simpa using h
        exact List.mem_cons_self

/-- The item taken is the first that is above every earlier one and below no later one (R57). -/
theorem takeBest_append_cons {pre post : List (List (BitVec 128))} {i : List (BitVec 128)}
    (hpre : ∀ j ∈ pre, itemPrio j < itemPrio i) (hpost : ∀ j ∈ post, itemPrio j ≤ itemPrio i) :
    takeBest (pre ++ i :: post) = some (i, pre ++ post) := by
  induction pre with
  | nil =>
    cases hbest : takeBest post with
    | none => simp [takeBest, takeBest_eq_none.mp hbest]
    | some b => simp [takeBest, hbest, Nat.not_lt.mpr (hpost b.1 (mem_of_takeBest hbest))]
  | cons x pre ih =>
    have hrest := ih fun j hj => hpre j (List.mem_cons_of_mem _ hj)
    simp [takeBest, hrest, hpre x List.mem_cons_self]

/-! ### Reading -/

/-- A read with a current item gives its next word, and frees the item with its last. -/
theorem Rick.read_current {k : Rick} {i : List (BitVec 128)} {n : Nat} (hcur : k.cur = some (i, n)) :
    k.read = (i.getD n 0, { k with cur := if n + 1 < i.length then some (i, n + 1) else none }) := by
  simp only [Rick.read, hcur]
  split <;> rfl

/-- A read without a current item gives the first word of the item taken, which is current until its last word is read. -/
theorem Rick.read_takes {k : Rick} {i : List (BitVec 128)} {rest : List (List (BitVec 128))} (hcur : k.cur = none)
    (hbest : takeBest k.items = some (i, rest)) :
    k.read = (i.headD 0, { k with items := rest, cur := if 1 < i.length then some (i, 1) else none }) := by
  simp only [Rick.read, hcur, hbest]
  split <;> rfl

theorem Rick.read_empty {k : Rick} (hcur : k.cur = none) (hitems : k.items = []) : k.read = (0, k) := by
  simp [Rick.read, hcur, hitems, takeBest]

/-! ### Discarding -/

/-- A rick that is too full with some of its last items alone is too full with all of them. -/
theorem Rick.overfull_of_suffix {cap n : Nat} {k : Rick} {pre l : List (List (BitVec 128))} (hitems : k.items = pre ++ l)
    (h : cap < ({ k with items := l } : Rick).words + n) : cap < k.words + n := by
  simp only [Rick.words, hitems, List.map_append, List.sum_append] at h ⊢
  omega

theorem dropUntil_fits {cap n f : Nat} {k : Rick} (h : k.words + n ≤ cap) : dropUntil cap n f k = k := by
  cases f <;> simp [dropUntil, h]

theorem dropUntil_overfull {cap n f : Nat} {k : Rick} {x : List (BitVec 128)} {t : List (List (BitVec 128))}
    (hitems : k.items = x :: t) (h : cap < k.words + n) :
    dropUntil cap n (f + 1) k = dropUntil cap n f { k with items := t, lost := min 0xFFFF (k.lost + 1) } := by
  simp [dropUntil, hitems, Nat.not_le.mpr h]

/-- Items go, oldest first, up to the first that makes room, and LOST counts each (R58). -/
theorem dropUntil_discards {cap n f : Nat} {k : Rick} {pre post : List (List (BitVec 128))} {x : List (BitVec 128)}
    (hitems : k.items = pre ++ x :: post) (hf : pre.length ≤ f) (hfull : cap < ({ k with items := x :: post } : Rick).words + n)
    (hroom : ({ k with items := post } : Rick).words + n ≤ cap) :
    dropUntil cap n (f + 1) k = { k with items := post, lost := min 0xFFFF (k.lost + (pre.length + 1)) } := by
  induction pre generalizing k f with
  | nil =>
    rw [dropUntil_overfull hitems (Rick.overfull_of_suffix hitems hfull)]
    exact dropUntil_fits hroom
  | cons y pre ih =>
    obtain ⟨f, rfl⟩ : ∃ g, f = g + 1 := Nat.exists_eq_add_one.mpr (Nat.lt_of_lt_of_le (Nat.succ_pos _) hf)
    rw [dropUntil_overfull (t := pre ++ x :: post) hitems (Rick.overfull_of_suffix hitems hfull),
      ih (k := { k with items := pre ++ x :: post, lost := min 0xFFFF (k.lost + 1) }) rfl (Nat.le_of_succ_le_succ hf) hfull hroom]
    simp only [List.length_cons, Rick.mk.injEq, true_and, and_true]
    omega

/-- The current item is never discarded. -/
theorem dropUntil_cur (cap n f : Nat) (k : Rick) : (dropUntil cap n f k).cur = k.cur := by
  induction f generalizing k with
  | zero => rfl
  | succ f ih =>
    unfold dropUntil
    split
    · rfl
    · split
      · rfl
      · exact ih _

/-! ### Arriving -/

theorem Rick.put_fits {k : Rick} {item : List (BitVec 128)} (held : Bool) (h : k.words + item.length ≤ 16) :
    k.put held item = { k with items := k.items ++ [item] } :=
  if_pos h

theorem Rick.put_held {k : Rick} {item : List (BitVec 128)} (h : 16 < k.words + item.length) :
    k.put true item = { k with overrun := true } := by
  simp [Rick.put, Nat.not_le.mpr h]

theorem Rick.put_discards {k : Rick} {item : List (BitVec 128)} (h : 16 < k.words + item.length) :
    k.put false item =
      { dropUntil 16 item.length 17 k with items := (dropUntil 16 item.length 17 k).items ++ [item] } := by
  simp [Rick.put, Nat.not_le.mpr h]

/-- An arriving item leaves the current one (R57, R58). -/
theorem Rick.put_cur (k : Rick) (held : Bool) (item : List (BitVec 128)) : (k.put held item).cur = k.cur := by
  rcases Nat.lt_or_ge 16 (k.words + item.length) with hover | hfits
  · cases held
    · rw [Rick.put_discards hover]
      exact dropUntil_cur ..
    · rw [Rick.put_held hover]
  · rw [Rick.put_fits held hfits]

/-! ### Accesses of the control path -/

section Accesses

variable {s : State} {r : RickRef} {k : Rick}

theorem exec_rickDataRead_reached (h : s.rickAt r = some k) :
    exec (.rickDataRead r) s = .next ((s.setRick r k.read.2).emit (.rickWord k.read.1)) := by
  change execRickDataRead r s = _
  simp [execRickDataRead, h]

theorem exec_dropItem_reached (h : s.rickAt r = some k) : exec (.dropItem r) s = .next (s.setRick r k.drop) := by
  change execDropItem r s = _
  simp [execDropItem, h]

theorem exec_flush_reached (h : s.rickAt r = some k) : exec (.flush r) s = .next (s.setRick r k.flush) := by
  change execFlush r s = _
  simp [execFlush, h]

end Accesses

/-- Settles O54: a read goes by whether an item is current, and without one by the item `takeBest` finds. -/
theorem ricksGiveTheirBestItem : Obligations.RicksGiveTheirBestItem := by
  unfold Obligations.RicksGiveTheirBestItem
  intro r s k hat
  refine ⟨fun pre post i hcur hitems hpre hpost => ?takes, fun i n hcur => ?continues, fun hcur hitems => ?empty,
    fun _ => exec_dropItem_reached hat, fun held item _ => k.put_cur held item⟩
  case takes =>
    have hbest : takeBest k.items = some (i, pre ++ post) := hitems ▸ takeBest_append_cons hpre hpost
    rw [exec_rickDataRead_reached hat, Rick.read_takes hcur hbest]
  case continues => rw [exec_rickDataRead_reached hat, Rick.read_current hcur]
  case empty => rw [exec_rickDataRead_reached hat, Rick.read_empty hcur hitems]

/-- Settles O55: an arriving item fits, or is ignored in MODE 1, or discards by `dropUntil`. Its 17 rounds are enough, since each of up
to 16 earlier items goes in one of them. -/
theorem fullRicksDiscardTheirOldest : Obligations.FullRicksDiscardTheirOldest := by
  unfold Obligations.FullRicksDiscardTheirOldest
  refine fun k item => ⟨fun held => Rick.put_fits held, fun pre post x hitems hpre hfull hroom => ?discards, Rick.put_held⟩
  rw [Rick.put_discards (Rick.overfull_of_suffix hitems hfull), dropUntil_discards hitems hpre hfull hroom]

end Sys2Proof.Machine

/-!
# Token posts and the fault that stops a cell (R31, R50, R52)

What a cell fault leaves of the cell it stops, where no running batch holds the cell: `State.cellFault` then is the CELL_ERR bit, its
item and the stop, and none of them touches a token counter.
-/
namespace Sys2Proof.Machine

section CellFaults

variable (s : State) (c : Nat)

theorem State.modCell_faultBatch (d : Nat) (f : CellSt → CellSt) : (s.modCell d f).faultBatch c = s.faultBatch c := rfl

theorem State.cellError_faultBatch (d bitNo : Nat) (place : Bool) : (s.cellError d bitNo place).faultBatch c = s.faultBatch c := by
  cases place <;> rfl

/-- To leave the state or to set its observation registers is to set those registers. -/
theorem State.ite_eq_obs {p : Prop} [Decidable p] (o : ObsSt) :
    ∃ o' : ObsSt, (if p then s else { s with obs := o }) = { s with obs := o' } := by
  split
  · exact ⟨s.obs, rfl⟩
  · exact ⟨o, rfl⟩

/-- Announcing a Clamp changes the observation registers alone. -/
theorem State.announceClamp_eq_obs (count : Nat) : ∃ o : ObsSt, s.announceClamp count = { s with obs := o } :=
  s.ite_eq_obs _

theorem State.faultClamp_eq_obs : ∃ o : ObsSt, s.faultClamp = { s with obs := o } := by
  unfold State.faultClamp
  split
  · exact s.announceClamp_eq_obs _
  · exact ⟨s.obs, rfl⟩

theorem State.faultClamp_faultBatch : s.faultClamp.faultBatch c = s.faultBatch c := by
  obtain ⟨o, ho⟩ := s.faultClamp_eq_obs
  rw [ho]
  rfl

theorem State.faultClamp_cell : s.faultClamp.cell c = s.cell c := by
  obtain ⟨o, ho⟩ := s.faultClamp_eq_obs
  rw [ho]
  rfl

/-- A cell error sets its bit of CELL_ERR. -/
theorem State.cellError_err (bitNo : Nat) (place : Bool) :
    ((s.cellError c bitNo place).cell c).err = (s.cell c).err ||| BitVec.ofNat 32 (2 ^ bitNo) := by
  cases place <;> simp [State.cellError, State.cellItem]

theorem State.cellError_token (bitNo : Nat) (place : Bool) (k : Nat) :
    ((s.cellError c bitNo place).cell c).token k = (s.cell c).token k := by
  cases place <;> simp [State.cellError, State.cellItem, CellSt.token]

/-- Where no running batch holds the cell and no retest follows, a fault is the error and the stop of the cell (R31). -/
theorem State.cellFault_cell_of_noBatch {s : State} {c : Nat} (bitNo cause : Nat) (item : Bool) (h : s.faultBatch c = none) :
    (s.cellFault c bitNo cause item none).cell c =
      { stopCell false ((s.cellError c bitNo item).cell c) with stoppedErr := true, running := false } := by
  have hnone : ((s.cellError c bitNo item).modCell c (fun x =>
      { stopCell false x with stoppedErr := true, running := false })).faultClamp.faultBatch c = none := by
    rw [State.faultClamp_faultBatch, State.modCell_faultBatch, State.cellError_faultBatch, h]
  simp only [State.cellFault, hnone]
  rw [State.faultClamp_cell, State.modCell_self]

end CellFaults

section Posts

variable {s : State} {c k n : Nat}

/-- A post that stays within 255 adds to its counter (R50). -/
theorem State.post_adds (hfit : (s.cell c).token k + n ≤ 255) (hn : n ≠ 0) :
    s.post c k n = s.modCell c (fun x => { x with t := tset x.t k (x.token k + n) }) := by
  simp [State.post, hn, Nat.not_lt.mpr hfit]

/-- A post that would pass 255 is the cell fault TOKEN_RANGE (R52). -/
theorem State.post_overflows (hover : 255 < (s.cell c).token k + n) (hn : n ≠ 0) :
    s.post c k n = s.cellFault c 0 4 true none := by
  simp [State.post, hn, hover]

theorem State.post_zero (s : State) (c k : Nat) : s.post c k 0 = s := rfl

end Posts

/-- Settles O60: within 255 a post is one write of the token table, and above it the cell fault, which in a cell that no running batch
holds stops the cell and leaves its token counters. -/
theorem tokenPostsStopAt255 : Obligations.TokenPostsStopAt255 := by
  unfold Obligations.TokenPostsStopAt255
  intro s c k n
  refine ⟨fun hfit hn => ?adds, fun j hfit hj => ?others, State.post_overflows, fun hover hn hfree => ?stopped⟩
  case adds => simp [State.post_adds hfit hn, CellSt.token]
  case others =>
    by_cases hn : n = 0
    · rw [hn, State.post_zero]
    · simp [State.post_adds hfit hn, CellSt.token, hj]
  case stopped =>
    rw [State.post_overflows hover hn, State.cellFault_cell_of_noBatch 0 4 true hfree]
    refine ⟨?counter, ?bit, rfl⟩
    case counter => exact s.cellError_token c 0 true k
    case bit =>
      change ((s.cellError c 0 true).cell c).err.getLsbD 0 = true
      simp [State.cellError_err]

end Sys2Proof.Machine

/-!
# Steps and events of a cell (R37 to R46, R92 to R94, R100 to R107, R112, R122, R552)

Every step row is `State.issue` with an effect of its own, so that a step that may issue takes that effect between `State.beginIssue` and
`State.endIssue`. The events of a cell look at what stands in flight, at its region or at a hold, and then take one path.
-/
namespace Sys2Proof.Machine

/-- A row that issues its step with the effect `act` does so when the step may issue (R92, R114). -/
theorem next_issue_ready {s : State} {c : Nat} {op : StepOp} {w : BitVec 256} {act : State → BitVec 256 → State}
    (h : s.stepReady c op w) :
    (.next (s.issue c op act) : Host.Outcome State Fault Refusal) = .next ((act (s.beginIssue c op w) w).endIssue c) :=
  congrArg _ (State.issue_ready h)

/-- Settles O12: each row's effect stands in its clause. That a step's values are computed at its issue is log entry 21. -/
theorem computeAndMoveStepsComplete : Obligations.ComputeAndMoveStepsComplete := by
  unfold Obligations.ComputeAndMoveStepsComplete
  rintro s u c w x rfl
  refine ⟨fun o hready hu ho hclean => ?matmul, fun a l hready hu ha hl => ?drain, fun r hready hu hval => ?vop,
    fun o v hready hu ho hval => ?vload, fun o e hready hu ho hval => ?vstore, fun hready hu => ?rowcopy, fun hready hu => ?ctlRead,
    fun v hready hu hval => ?ctlWrite, fun hready hu => ?rickRead⟩
  case matmul =>
    subst hu ho
    change execMatmul c s = _
    simp [execMatmul, State.issue_ready hready, hclean]
  case drain =>
    rw [hl, ha, hu]
    exact next_issue_ready hready
  case vload | vstore =>
    rw [hval, ho, hu]
    exact next_issue_ready hready
  case vop | ctlWrite =>
    rw [hval, hu]
    exact next_issue_ready hready
  case rowcopy | ctlRead | rickRead =>
    rw [hu]
    exact next_issue_ready hready

/-! ### Events of a cell -/

section CellEvents

variable {s : State} {c : CellIx}

/-- A step in flight that is not held back takes its effects, posts and leaves the hazards (R46, R93). -/
theorem exec_stepComplete_takes {k : Fin 2048} {i : InFlight} (hi : (s.cell c).inflight[k.val]? = some i) (hunit : i.unit ≠ .ctl)
    (hheld : s.held = false) :
    exec (.stepComplete c k) s =
      .next (((i.effects.foldl (fun v e => v.stepEffect c e) (s.modCell c (fun x => { x with
        inflight := x.inflight.eraseIdx k.val }))).post c i.postT i.postN).settleCell c) := by
  change execStepComplete c k s = _
  simp [execStepComplete, hi, hunit, hheld]

/-- A HALT that is due halts the cell, posts, and signals the done counter of its batch's turf (R112). -/
theorem exec_haltComplete_due {t : Nat} {u v : State} (hdue : (s.cell c).haltDue = true) (hroom : s.protRoom (c / 256) = true)
    (hu : u = ((s.cell c).inflight.filter (fun i => i.unit == .ctl)).foldl (fun v i => v.post c i.postT i.postN)
      (s.modCell c (fun y => { y with halted := true, running := false, haltIssued := false, inflight := [] })))
    (herr : (u.cell c).stoppedErr = false) (hbatch : u.batchOfCell c = some t)
    (hv : v = u.modBatch t (fun b => { b with lastHalt := max b.lastHalt u.now })) :
    exec (.haltComplete c) s =
      .next ((v.cellSignal c 0 (v.ctrAddr (2 * t + 1)).toNat 1 { v.collierParty c with turf := t }).settleCell c) := by
  change execHaltComplete c s = _
  simp [execHaltComplete, hdue, hroom, ← hu, herr, hbatch, hv]

/-- The ramp is updated in a running cell outside a hold (R122). -/
theorem exec_rampUpdate_running (feeding : Bool) (hrun : (s.cell c).running = true) (hheld : s.held = false) :
    exec (.rampUpdate ⟨c, feeding⟩) s =
      .next (s.modCell c (fun x => { x with
        ramp := if x.macBusy then min 16 (x.ramp + 1) else 0, macBusy := feeding && x.inflight.any (fun i => i.unit == .mac) })) := by
  change execRampUpdate ⟨c, feeding⟩ s = _
  simp [execRampUpdate, hrun, hheld]

theorem exec_storeScrub_clean (row : Fin 3072) : exec (.storeScrub c row .clean) s = .next s := by
  change execStoreScrub c row .clean s = _
  simp [execStoreScrub]

/-- A correction found in an awake region is counted (R37). -/
theorem exec_storeScrub_corrected (row : Fin 3072) (hawake : (s.region (regionOf c)).sleep = .s0) :
    exec (.storeScrub c row .corrected) s =
      .next ((s.modWear c (fun w => { w with
        corrections := w.corrections.filter (fun t => decide (s.now < t + 86400000000000)) ++ [s.now]
        hourStore := w.hourStore + 1 })).cellEvent c 0x20 1 0 0) := by
  change execStoreScrub c row .corrected s = _
  simp [execStoreScrub, hawake]

/-- An uncorrectable word found in an awake region stays marked (R37, R39). -/
theorem exec_storeScrub_uncorrectable (row : Fin 3072) (hawake : (s.region (regionOf c)).sleep = .s0) :
    exec (.storeScrub c row .uncorrectable) s = .next (s.draw.2.spoil (rowKey c row + 8 * (s.draw.1.toNat % 64)) 8) := by
  change execStoreScrub c row .uncorrectable s = _
  simp [execStoreScrub, hawake]

theorem exec_logicFault_awake (passes : Bool) (hawake : (s.region (regionOf c)).sleep = .s0) :
    exec (.logicFault c passes) s = .next (s.cellFault c 6 1 true (some passes)) := by
  change execLogicFault c passes s = _
  simp [execLogicFault, hawake]

end CellEvents

/-- Settles O14: each clause is one path of its row. Which word of a scrubbed row stays marked is a free value (log entry 41). -/
theorem cellEventsComplete : Obligations.CellEventsComplete := by
  unfold Obligations.CellEventsComplete
  exact fun s c => ⟨fun _ _ => exec_stepComplete_takes, fun _ _ _ => exec_haltComplete_due, exec_rampUpdate_running,
    exec_storeScrub_clean, exec_storeScrub_corrected, exec_storeScrub_uncorrectable, exec_logicFault_awake, fun _ => rfl⟩

end Sys2Proof.Machine

/-!
# Access engines (R47 to R49, R115 to R121)

Every entry row is `State.aeStart` with an effect of its own on the repeat that begins. The events of an engine look at its entry, its
oldest repeat or one of its operations.
-/
namespace Sys2Proof.Machine

/-- A row that starts repeats with the effect `act` starts the next repeat when it may start (R115, R116). -/
theorem next_aeStart_ready {s : State} {c e kind : Nat} {w : BitVec 512} {act : State → BitVec 512 → Nat → Nat → State}
    (h : s.entryReady c e kind w) :
    (.next (s.aeStart c e kind act) : Host.Outcome State Fault Refusal) =
      .next (act (s.beginEntry c e w) w ((s.cell c).ae e).rep ((s.cell c).ae e).nextId) :=
  congrArg _ (State.aeStart_ready h)

section EngineRows

variable {s : State} {c : CellIx} {e : AeIx}

/-- A SIGNAL entry is sent once every earlier operation is acknowledged and its CD has room (R18, R115, R248). -/
theorem exec_aeSignal_ready {w : BitVec 512} (hready : s.entryReady c e 5 w) (hquiet : ((s.cell c).ae e).quiet = true)
    (hroom : s.signalStalls c (s.cellTurf c) (fld w 16 8) = false) :
    exec (.aeSignal c e) s =
      .next ((s.beginEntry c e w).cellSignal c (1 + e) (fld w 16 8) (fld w 24 4) ((s.beginEntry c e w).aeParty c e w)) := by
  obtain ⟨hentry, _, _, _⟩ := id hready
  change execAeSignal c e s = _
  simp [execAeSignal, hquiet, hentry, hroom, State.aeStart_ready hready]

/-- A WAIT entry goes by what becomes of its wait (R108, R115, R239). -/
theorem exec_aeWait_ready {w : BitVec 512} {v : State × WaitResult} (hready : s.entryReady c e 6 w)
    (hv : v = (s.beginEntry c e w).waitOn (65536 + c * 64 + fld w 16 1) {
      who := cellParty (1 + e) c, thresh := signed 32 (fld w 20 4), dec := fld w 24 4, since := (s.beginEntry c e w).now
      layer := aeLayer w, operator := aeOperator w }) :
    exec (.aeWait c e) s =
      .next (if v.2 = .standing then
          v.1.modAe c e (fun a => { a.modRep ((s.cell c).ae e).nextId (fun r => { r with opsLeft := 1 }) with gated := true })
        else v.1) := by
  change execAeWait c e s = _
  simp only [execAeWait, State.aeStart_ready hready, ← hv]
  obtain ⟨v, _ | _ | _⟩ := v <;> rfl

theorem exec_aeEnd_reached {w : BitVec 512} (hentry : ((s.cell c).ae e).entry = some w) (hgoing : (s.cell c).aeGoing e = true)
    (hkind : aeKind w = 0) : exec (.aeEnd c e) s = .next (s.modAe c e (fun a => { a with finished := true })) := by
  change execAeEnd c e s = _
  simp [execAeEnd, hentry, hgoing, hkind]

theorem exec_schedRecv_ready {w : BitVec 512} {errs : List (Fin 49152 × Bool)} (hready : s.entryReady c e 7 w)
    (hheld : s.held = false) :
    exec (.schedRecv c ⟨e, errs⟩) s =
      .next ((s.beginEntry c e w).schedMove c e false w ((s.cell c).ae e).rep ((s.cell c).ae e).ptr
        (errs.map (fun x => (x.1.val, x.2)))) := by
  change execSchedRecv c ⟨e, errs⟩ s = _
  simp [execSchedRecv, hheld, State.aeStart_ready hready]

theorem exec_schedSend_ready {w : BitVec 512} (hready : s.entryReady c e 8 w) (hheld : s.held = false) :
    exec (.schedSend c e) s =
      .next ((s.beginEntry c e w).schedMove c e true w ((s.cell c).ae e).rep ((s.cell c).ae e).ptr []) := by
  change execSchedSend c e s = _
  simp [execSchedSend, hheld, State.aeStart_ready hready]

end EngineRows

/-- Settles O15: each row's effect on the repeat that begins stands in its clause. -/
theorem engineEntriesComplete : Obligations.EngineEntriesComplete := by
  unfold Obligations.EngineEntriesComplete
  rintro s u c e w r id rfl rfl
  refine ⟨fun hready hu => ?get, fun hready hu => ?put, fun hready hu => ?getInd, fun hready hu => ?putInd,
    fun hready hu hquiet hroom => ?signal, fun v hready hu hv hstanding => ?waits, fun v hready hu hv hstanding => ?passes,
    exec_aeEnd_reached, fun errs hready hu hheld => ?recv, fun hready hu hheld => ?send⟩
  case get | put | getInd | putInd =>
    rw [hu]
    exact next_aeStart_ready hready
  case signal => rw [exec_aeSignal_ready hready hquiet hroom, hu]
  case waits =>
    subst hu
    rw [exec_aeWait_ready hready hv, if_pos hstanding]
  case passes =>
    subst hu
    rw [exec_aeWait_ready hready hv, if_neg hstanding]
  case recv => rw [exec_schedRecv_ready hready hheld, hu]
  case send => rw [exec_schedSend_ready hready hheld, hu]

section EngineEvents

variable {s : State} {c : CellIx} {e : AeIx}

/-- The cycle of a scheduled repeat comes while its engine is at an earlier entry, or its take fails (R118). -/
theorem exec_aeSchedDeadline_missed {w : BitVec 512} (hentry : ((s.cell c).ae e).entry = some w) (hheld : s.held = false)
    (hrun : (s.cell c).running = true) (hstop : (s.cell c).stopping = false) (hok : ((s.cell c).ae e).faulted = false)
    (hahead : ((s.cell c).ae e).schedAhead = true)
    (hmiss : isSched w = false ∨ (s.cell c).canTake (aeTake w).1 (aeTake w).2 = false) :
    exec (.aeSchedDeadline c e) s = .next (s.aeFault c e) := by
  have htake : (isSched w && (s.cell c).canTake (aeTake w).1 (aeTake w).2) = false := Bool.and_eq_false_iff.mpr hmiss
  change execAeSchedDeadline c e s = _
  simp [execAeSchedDeadline, hentry, hheld, hrun, hstop, hok, hahead, htake]

/-- The oldest repeat whose action is complete leaves its engine and posts (R52, R115). -/
theorem exec_aeActionComplete_posts {r : AeRep} {l : List AeRep} (hreps : ((s.cell c).ae e).reps = r :: l) (hleft : r.opsLeft = 0)
    (hok : ((s.cell c).ae e).faulted = false) :
    exec (.aeActionComplete c e) s =
      .next ((s.modAe c e (fun a => { a with reps := l })).post c (r.post.toNat % 16) (r.post.toNat / 16)) := by
  change execAeActionComplete c e s = _
  simp [execAeActionComplete, hreps, hleft, hok]

/-- A refusal of an operation that is outstanding ends it at its unit and reaches the engine (R49, R117). -/
theorem exec_opNack_outstanding {tag : Word} (st : Byte)
    (hout : (s.ops.any (fun o => o.unit == cellParty (1 + e) c && o.tag == tag)) = true) :
    exec (.opNack c e tag st) s = .next ((s.opDone (cellParty (1 + e) c) tag).aeRefused c e tag st.toNat) := by
  change execOpNack c e tag st s = _
  simp only [execOpNack, hout, Bool.not_true, Bool.false_eq_true, if_false]

/-- A refused operation is issued again, with one more retry counted, 1 us after its refusal (R117). -/
theorem exec_aeNackRetry_due {u : State} {now t : Nat} {tag : Word} {o : AeOp} {r : AeRep} (hu : u = s.at_ now)
    (hop : ((u.cell c).ae e).ops.find? (fun o => o.tag == tag) = some o) (href : o.refusedAt = some t)
    (hrep : ((u.cell c).ae e).repOf o.rep = some r) (hdue : t + 1000 ≤ u.now) (hstop : (u.cell c).stopping = false) :
    exec (.aeNackRetry c e tag now) s =
      .next ((u.modAe c e (fun a => { a with ops := a.ops.filter (fun o => o.tag != tag) })).aeIssue c e
        { o with retries := o.retries + 1, refusedAt := none } r.layer r.operator) := by
  change execAeNackRetry c e tag now s = _
  simp [execAeNackRetry, ← hu, hop, href, hrep, Nat.not_lt.mpr hdue, hstop]

end EngineEvents

/-- Settles O16: each clause is one path of its row. -/
theorem engineEventsComplete : Obligations.EngineEventsComplete := by
  unfold Obligations.EngineEventsComplete
  exact fun s u c e now hu => ⟨fun _ => exec_aeSchedDeadline_missed, fun _ _ => exec_aeActionComplete_posts,
    fun _ st => exec_opNack_outstanding st, fun _ _ _ _ => exec_aeNackRetry_due hu⟩

end Sys2Proof.Machine

/-!
# Clamps and snapshot banks (R62, R502 to R506)

When an announced Clamp latches, and the announcements by CLAMP_IN and by the three modes of CLAMP_ARM.
-/
namespace Sys2Proof.Machine

section Clamps

variable {s : State} {now : Nat} {q : QueueIx} {slot : SlotIx} {a : Accepted}

/-- At the first announced count that has come, the Clamp of that count latches (R502). -/
theorem exec_clamp_due {u : State} {c : Nat} (hu : u = (s.at_ now).compareDue)
    (hdue : u.obs.clampAt.find? (fun c => decide (c ≤ u.now)) = some c) : exec (.clamp now) s = .next (u.latchClamp c) := by
  change execClamp now s = _
  simp only [execClamp, ← hu, hdue]

/-- CLAMP_IN announces a Clamp when its mask bit is set (Table 20.7). -/
theorem exec_clampInEdge_armed {u : State} (hu : u = s.at_ now) (hmask : u.obs.clampMask.testBit 0 = true) :
    exec (.clampInEdge now) s = .next (u.announceClamp (u.now + 1024)) := by
  change execClampInEdge now s = _
  simp only [execClampInEdge, ← hu, hmask, if_true]

theorem exec_snapArm_awake {c : CellIx} (hawake : s.cellAwake c = true) : exec (.snapArm c) s = .next (s.modCell c armBank) := by
  change execSnapArm c s = _
  simp [execSnapArm, hawake]

theorem State.clampDenied_of_turf0 (h : (s.queue a.q).turf = 0) : s.clampDenied a = false := by
  simp [State.clampDenied, h]

/-- CLAMP_ARM mode 0 sets the mask and the compare count and arms every bank (R506). -/
theorem exec_clampArmSet_ready {v : State} (hready : s.ready q slot 0x0704 a) (hv : v = s.beginCmd a)
    (hturf : (v.queue a.q).turf = 0) (hmode : sqArg a.entry 0 = 0) (hmask : sqArg a.entry 1 < 16)
    (hcount : (sqArg a.entry 1).testBit 1 = false ∨ v.now < sqArg a.entry 2) :
    exec (.clampArmSet q slot) s =
      .next (({ v with
        cells := tmap v.cells (fun _ x => armBank x)
        obs := { v.obs with
          clampMask := sqArg a.entry 1
          clampCompare := if (sqArg a.entry 1).testBit 1 then some (sqArg a.entry 2) else none
          clampCtrs := [], clampLaunches := 0 } } : State).done a 0) := by
  have harg : ¬(16 ≤ sqArg a.entry 1 ∨ (sqArg a.entry 1).testBit 1 = true ∧ sqArg a.entry 2 ≤ v.now) := by
    rintro (h | ⟨hbit, hle⟩)
    · omega
    · rcases hcount with h | h
      · simp [hbit] at h
      · omega
  change execClampArmSet q slot s = _
  simp only [execClampArmSet, State.withCmd_ready hready (sel := fun w => sqArg w 0 == 0) (beq_iff_eq.mpr hmode), ← hv,
    State.clampDenied_of_turf0 hturf, Bool.false_eq_true, if_false, if_neg harg]

/-- CLAMP_ARM mode 1 announces a Clamp for a count at least 1,024 ns away (R506). -/
theorem exec_clampArmClamp_ready {v : State} {c : Nat} (hready : s.ready q slot 0x0704 a) (hv : v = s.beginCmd a)
    (hturf : (v.queue a.q).turf = 0) (hmode : sqArg a.entry 0 = 1)
    (hc : c = (if sqArg a.entry 2 = 0 then v.now + 1024 else sqArg a.entry 2)) (hcount : v.now + 1024 ≤ c) :
    exec (.clampArmClamp q slot) s = .next ((v.announceClamp c).done a (v.clampUsed c)) := by
  change execClampArmClamp q slot s = _
  simp only [execClampArmClamp, State.withCmd_ready hready (sel := fun w => sqArg w 0 == 1) (beq_iff_eq.mpr hmode), ← hv,
    State.clampDenied_of_turf0 hturf, Bool.false_eq_true, if_false, ← hc, if_neg (Nat.not_lt.mpr hcount)]

/-- CLAMP_ARM mode 2 announces a Clamp for a count at least 20 us away, here and to every peer (R504, R506). -/
theorem exec_clampArmFabric_ready {v : State} (hready : s.ready q slot 0x0704 a) (hv : v = s.beginCmd a)
    (hturf : (v.queue a.q).turf = 0) (hmode : sqArg a.entry 0 = 2) (hcount : v.now + 20000 ≤ sqArg a.entry 2) :
    exec (.clampArmFabric q slot) s =
      .next ((((v.fab.pairs.filter (fun p => p.2.state != 0)).map (fun p => p.1)).foldl (fun x m => x.sendMessage m
        (padTo 512 (natLe 2 0x40 ++ natLe 6 0 ++ natLe 8 (sqArg a.entry 2) ++ natLe 8 Config.uid.toNat)))
          (v.announceClamp (sqArg a.entry 2))).done a (v.clampUsed (sqArg a.entry 2))) := by
  change execClampArmFabric q slot s = _
  simp only [execClampArmFabric, State.withCmd_ready hready (sel := fun w => sqArg w 0 == 2) (beq_iff_eq.mpr hmode), ← hv,
    State.clampDenied_of_turf0 hturf, Bool.false_eq_true, if_false, if_neg (Nat.not_lt.mpr hcount)]

end Clamps

/-- Settles O30: each clause is one path of its row. -/
theorem clampsAndRicksComplete : Obligations.ClampsAndRicksComplete := by
  unfold Obligations.ClampsAndRicksComplete
  rintro s u now rfl
  refine ⟨fun c v hdue hv => ?clamp, exec_clampInEdge_armed rfl, fun c => exec_snapArm_awake, fun q slot a v => exec_clampArmSet_ready,
    fun q slot a v c => exec_clampArmClamp_ready, fun q slot a v => exec_clampArmFabric_ready,
    fun r k => exec_rickDataRead_reached, fun r k => exec_dropItem_reached, fun r k => exec_flush_reached⟩
  case clamp =>
    rw [exec_clamp_due rfl hdue, hv]
    rfl

end Sys2Proof.Machine

/-!
# Ledger addition (R81)

Saturation to a ledger word in the three ranges of its argument, and the addition that saturates a true sum.
-/
namespace Sys2Proof.Machine

section LedgerSaturation

variable {i : Int}

/-- Every integer from -2^127 to 2^127 - 1 is the value of its ledger word. -/
theorem toInt_ledgerWord (hlo : -(2 ^ 127) ≤ i) (hhi : i ≤ 2 ^ 127 - 1) : (BitVec.ofInt 128 i).toInt = i :=
  BitVec.toInt_ofInt_eq_self (by decide) hlo (Int.lt_of_le_sub_one hhi)

theorem ledgerSat_inside (hlo : -(2 ^ 127) ≤ i) (hhi : i ≤ 2 ^ 127 - 1) :
    (ledgerSat i).1.toInt = i ∧ (ledgerSat i).2 = false := by
  have hsat : ledgerSat i = (BitVec.ofInt 128 i, false) := by
    rw [ledgerSat, if_neg (Int.not_lt.mpr hhi), if_neg (Int.not_lt.mpr hlo)]
  rw [hsat]
  exact ⟨toInt_ledgerWord hlo hhi, rfl⟩

theorem ledgerSat_above (hi : 2 ^ 127 - 1 < i) : (ledgerSat i).1.toInt = 2 ^ 127 - 1 ∧ (ledgerSat i).2 = true := by
  have hsat : ledgerSat i = (BitVec.ofInt 128 (2 ^ 127 - 1), true) := by rw [ledgerSat, if_pos hi]
  rw [hsat]
  exact ⟨toInt_ledgerWord (by decide) (by decide), rfl⟩

theorem ledgerSat_below (hi : i < -(2 ^ 127)) : (ledgerSat i).1.toInt = -(2 ^ 127) ∧ (ledgerSat i).2 = true := by
  have hsat : ledgerSat i = (BitVec.ofInt 128 (-(2 ^ 127)), true) := by
    rw [ledgerSat, if_neg (by omega), if_pos hi]
  rw [hsat]
  exact ⟨toInt_ledgerWord (by decide) (by decide), rfl⟩

end LedgerSaturation

/-- Settles O48: a ledger addition saturates the true sum, which lies inside the 128 bits, above them or below them. -/
theorem ledgerAdditionSaturates : Obligations.LedgerAdditionSaturates := by
  unfold Obligations.LedgerAdditionSaturates
  intro w j
  have hadd : ledgerAdd w j = ledgerSat (w.toInt + j) := rfl
  rw [hadd]
  exact ⟨ledgerSat_inside, ledgerSat_above, ledgerSat_below⟩

end Sys2Proof.Machine

/-!
# P-states, ceilings, throttle and supply monitor (R124, R125, R426, R428, R437, R444, R460)

Each power event is taken at a count `now` and looks at the state `u = s.at_ now`: what is announced, what was sampled before, which
input stands asserted. One path then follows.
-/
namespace Sys2Proof.Machine

section PowerEvents

variable {s u : State} {now : Nat}

/-- An announced switch whose count has come is carried out, unless Heartwood holds control actions (R426). -/
theorem exec_pstateSwitch_due {c p : Nat} (hu : u = s.at_ now) (hann : u.pw.switchAt = some (c, p)) (hdue : c ≤ u.now)
    (hheld : u.ctlHeld = false) : exec (.pstateSwitch now) s = .next (u.switchTo p).settlePstates := by
  change execPstateSwitch now s = _
  simp [execPstateSwitch, ← hu, hann, Nat.not_lt.mpr hdue, hheld]

/-! ### Power ceiling (R428) -/

@[simp] theorem State.takePower_powerCeil (p1ms p100ms : Nat) : (u.takePower p1ms p100ms).pw.powerCeil = u.pw.powerCeil := rfl

/-- The time below 95 % of the limit goes on from where it began. -/
theorem State.takePower_belowSince {p100ms c : Nat} (p1ms : Nat) (hlow : p100ms * 100 < u.powerLimit * 95)
    (hsince : u.pw.belowSince = some c) : (u.takePower p1ms p100ms).pw.belowSince = some c := by
  simp [State.takePower, hlow, hsince]

theorem exec_powerCeilingCheck_burst {p1ms : Nat} (p100ms : Nat) (hu : u = s.at_ now) (hover : 12500 < p1ms) (hagain : 0 < u.pw.over1ms) :
    exec (.powerCeilingCheck p1ms p100ms now) s = .next ((u.takePower p1ms p100ms).raisePower 2) := by
  change execPowerCeilingCheck p1ms p100ms now s = _
  simp only [execPowerCeilingCheck, ← hu, if_pos (And.intro hover hagain)]

theorem exec_powerCeilingCheck_over {p1ms p100ms : Nat} (hu : u = s.at_ now) (hburst : p1ms ≤ 12500) (hover : u.powerLimit < p100ms)
    (hcheck : u.pw.powerNextCheck ≤ u.now) :
    exec (.powerCeilingCheck p1ms p100ms now) s = .next ((u.takePower p1ms p100ms).raisePower 1) := by
  change execPowerCeilingCheck p1ms p100ms now s = _
  simp [execPowerCeilingCheck, ← hu, Nat.not_lt.mpr hburst, hover, hcheck]

theorem exec_powerCeilingCheck_calm {p1ms p100ms c : Nat} (hu : u = s.at_ now) (hburst : p1ms ≤ 12500)
    (hlow : p100ms * 100 < u.powerLimit * 95) (hceil : 0 < u.pw.powerCeil) (hsince : u.pw.belowSince = some c)
    (hcalm : c + 100000000 ≤ u.now) :
    exec (.powerCeilingCheck p1ms p100ms now) s = .next (u.takePower p1ms p100ms).lowerPower := by
  have hunder : ¬u.powerLimit < p100ms := by omega
  change execPowerCeilingCheck p1ms p100ms now s = _
  simp [execPowerCeilingCheck, ← hu, Nat.not_lt.mpr hburst, hunder, hceil,
    State.takePower_belowSince p1ms hlow hsince, hcalm]

/-! ### Timing margin (R437) -/

/-- The eighth low sample in a row of a region starts its count again and raises the margin ceiling. -/
theorem exec_marginSample_eighth {r : RegionIx} (hu : u = s.at_ now) (hseven : (u.region r).lowMargin = 7) :
    exec (.marginSample r true now) s = .next ((u.modRegion r (fun x => { x with lowMargin := 0 })).marginStep r) := by
  change execMarginSample r true now s = _
  simp [execMarginSample, ← hu, hseven]

/-- An earlier low sample is counted and, with no margin ceiling to lower, does nothing else. -/
theorem exec_marginSample_counted {r : RegionIx} (hu : u = s.at_ now) (hfew : (u.region r).lowMargin < 7)
    (hceil : u.pw.marginCeil = 0) :
    exec (.marginSample r true now) s =
      .next (u.modRegion r (fun x => { x with lowMargin := (u.region r).lowMargin + 1 })) := by
  have hmod : ((u.region r).lowMargin + 1) % 8 = (u.region r).lowMargin + 1 := Nat.mod_eq_of_lt (by omega)
  have hnot : (u.region r).lowMargin ≠ 7 := by omega
  change execMarginSample r true now s = _
  simp [execMarginSample, ← hu, hmod, hnot, hceil]

/-! ### Throttle and THROT_N (R124, R125, R460) -/

/-- The first announced ratio whose count has come is in force, and a nonzero one marks the running batches (R125). -/
theorem exec_throttleChange_due {c v : Nat} {rest : List (Nat × Nat)} (hu : u = s.at_ now) (hann : u.pw.hAt = (c, v) :: rest)
    (hdue : c ≤ u.now) (hheld : u.ctlHeld = false) :
    exec (.throttleChange now) s =
      .next { u with
        pw := { u.pw with h := v, hAt := rest }
        batches := if v = 0 then u.batches
          else tmap u.batches (fun _ b => if b.started then { b with sawThrottle := true } else b) } := by
  change execThrottleChange now s = _
  simp only [execThrottleChange, ← hu, hann, Nat.not_lt.mpr hdue, hheld, Bool.false_eq_true, or_self, if_false]
  by_cases hv : v = 0
  · simp only [if_pos hv]
  · simp only [if_neg hv]

theorem exec_throtNAssert_rises (hu : u = s.at_ now) (hlow : u.bu.throtN = false) :
    exec (.throtNAssert now) s =
      .next ((({ u with bu := { u.bu with throtN := true }, pw := { u.pw with reqThrotN := true } } : State).requestH
        (u.now + 500)).notice0 4 0x1225 [1]) := by
  change execThrotNAssert now s = _
  simp only [execThrotNAssert, ← hu, hlow, Bool.false_eq_true, if_false]
  rfl

theorem exec_throtNRelease_falls (hu : u = s.at_ now) (hhigh : u.bu.throtN = true) :
    exec (.throtNRelease now) s =
      .next ((({ u with bu := { u.bu with throtN := false }, pw := { u.pw with reqThrotN := false } } : State).requestH
        (u.now + 500)).notice0 4 0x1225 [0]) := by
  change execThrotNRelease now s = _
  simp only [execThrotNRelease, ← hu, hhigh, Bool.not_true, Bool.false_eq_true, if_false]
  rfl

/-! ### Supply monitor (R444) -/

/-- A new dip is counted, keeps its minimum, requests the ratio and places its notice. -/
theorem exec_brownoutWarn_begins {minMv : Half} {v : State} (hu : u = s.at_ now) (hnone : u.pw.brownout = false)
    (hv : v = { u with pw := { u.pw with
      brownout := true, brownoutCount := (u.pw.brownoutCount + 1) % 2 ^ 32, brownoutMin := minMv.toNat
      vinMv := minMv.toNat, reqSupply := true } }) :
    exec (.brownoutWarn minMv now) s =
      .next ((v.requestH (u.now + 500)).notice0 5 0x1202
        [BitVec.ofNat 128 (minMv.toNat + (u.pw.brownoutCount + 1) % 2 ^ 32 * 2 ^ 32)]) := by
  change execBrownoutWarn minMv now s = _
  simp only [execBrownoutWarn, ← hu, hnone, Bool.false_eq_true, if_false, hv]
  rfl

/-- The end of a dip writes its wear record and withdraws the request. -/
theorem exec_brownoutClear_ends {minMv : Half} {v : State} (hu : u = s.at_ now) (hdip : u.pw.brownout = true)
    (hv : v = u.addWear 0x0B 0 (BitVec.ofNat 32 (min u.pw.brownoutMin minMv.toNat)) 0) :
    exec (.brownoutClear minMv now) s =
      .next (({ v with pw := { v.pw with
        brownout := false, brownoutMin := min u.pw.brownoutMin minMv.toNat, reqSupply := false } } : State).requestH (v.now + 500)) := by
  change execBrownoutClear minMv now s = _
  simp only [execBrownoutClear, ← hu, hdip, Bool.not_true, Bool.false_eq_true, if_false, hv]
  rfl

end PowerEvents

/-- Settles O5: each clause is one path of its event. -/
theorem powerEventsComplete : Obligations.PowerEventsComplete := by
  unfold Obligations.PowerEventsComplete
  exact fun s u now hu => ⟨fun _ _ => exec_pstateSwitch_due hu, fun _ p100ms => exec_powerCeilingCheck_burst p100ms hu,
    fun _ _ => exec_powerCeilingCheck_over hu, fun _ _ _ => exec_powerCeilingCheck_calm hu, fun _ => exec_marginSample_eighth hu,
    fun _ => exec_marginSample_counted hu, fun _ _ _ => exec_throttleChange_due hu, exec_throtNAssert_rises hu,
    exec_throtNRelease_falls hu, fun _ _ => exec_brownoutWarn_begins hu, fun _ _ => exec_brownoutClear_ends hu⟩

end Sys2Proof.Machine

/-!
# Control steps of a cell (R92, R93, R108 to R112, Table 4.12)

A control step completes as it issues. WAIT goes by what becomes of its wait and SIGNAL by the room it finds. The loop steps change one
loop register or the step pointer.
-/
namespace Sys2Proof.Machine

section LoopSteps

variable {x : CellSt} {w : BitVec 256}

/-- A jump on a condition moves the step pointer to TARGET exactly when the condition holds (Table 4.12). -/
theorem CellSt.jump_decide (p : Prop) [Decidable p] : x.jump (decide p) w = if p then { x with ptr := sf w 215 205 } else x := by
  by_cases hp : p
  · simp only [CellSt.jump, hp, decide_true, if_true]
  · simp only [CellSt.jump, hp, decide_false, if_false, Bool.false_eq_true]

/-- DJNZ: a register of zero stays, a register of one goes to zero with no jump, and any other is counted down with a jump. -/
theorem CellSt.countDown_eq (n : Nat) :
    (if x.loop n = 0 then x else (x.setLoop n (x.loop n - 1)).jump (x.loop n - 1 != 0) w) =
      if x.loop n = 0 then x
      else if x.loop n - 1 = 0 then x.setLoop n 0
      else { x.setLoop n (x.loop n - 1) with ptr := sf w 215 205 } := by
  by_cases hlast : x.loop n - 1 = 0
  · simp only [CellSt.jump, hlast, bne_self_eq_false, Bool.false_eq_true, if_false, if_true]
  · simp only [CellSt.jump, bne_iff_ne.mpr hlast, if_neg hlast, if_true]

end LoopSteps

section ControlSteps

variable {s : State} {c : CellIx} {w : BitVec 256}

/-- A WAIT that may issue goes by what becomes of its wait: one that stands closes the gate (R64, R108, R239). -/
theorem exec_wait_ready {u : State} {x : CellSt} {r : State × WaitResult} (hready : s.stepReady c .wait w)
    (hu : u = s.beginIssue c .wait w) (hx : x = u.cell c)
    (hr : r = u.waitOn (65536 + c * 64 + sf w 223 218) {
      who := cellParty 0 c
      thresh := if w.toNat.testBit 153 then (x.loop (sf w 152 149)).toInt else signed 32 (sf w 217 186)
      dec := sf w 185 154, since := u.now, layer := x.layer, operator := x.operator }) :
    exec (.wait c) s =
      .next ((if r.2 = .standing then (r.1.fly c .wait w {} []).modCell c (fun y => { y with waitGated := true })
        else r.1.ctlDone c w).endIssue c) := by
  subst hx
  change execWait c s = _
  simp only [execWait, State.issue_ready hready, ← hu, ← hr]
  obtain ⟨v, _ | _ | _⟩ := r <;> rfl

/-- A SIGNAL that may issue is sent once its CD's Protected queues have room (R18, R109). -/
theorem exec_signal_ready {u : State} (hready : s.stepReady c .signal w) (hu : u = s.beginIssue c .signal w)
    (hroom : s.signalStalls c (s.collierParty c).turf (s.signalAddr c w) = false) :
    exec (.signal c) s =
      .next (((u.cellSignal c 0 (u.signalAddr c w) (sf w 185 154) (u.collierParty c)).ctlDone c w).endIssue c) := by
  obtain ⟨hstep, _⟩ := id hready
  change execSignal c s = _
  simp [execSignal, hstep, hroom, State.issue_ready hready, hu]

end ControlSteps

/-- Settles O13: each row's effect stands in its clause. -/
theorem syncAndLoopStepsComplete : Obligations.SyncAndLoopStepsComplete := by
  unfold Obligations.SyncAndLoopStepsComplete
  intro s u c w x hx
  refine ⟨fun r hready hu hr hstanding => ?stands, fun r hready hu hr hstanding => ?passes, exec_signal_ready, fun hready hu => ?sread,
    fun hready hu => ?token, fun hready hu => ?lset, fun hready hu => ?ladd, fun hready hu => ?lcopy, fun hready hu => ?djnz,
    fun hready hu => ?jmp, fun hready hu => ?jz, fun hready hu => ?jltu, fun hready hu => ?mark, fun hready hu => ?halt⟩
  case stands => rw [exec_wait_ready hready hu hx hr, if_pos hstanding]
  case passes => rw [exec_wait_ready hready hu hx hr, if_neg hstanding]
  case sread | token | lset | ladd | lcopy | jmp | mark | halt =>
    rw [hu]
    exact next_issue_ready hready
  case djnz =>
    simp only [hu, ← CellSt.countDown_eq]
    exact next_issue_ready hready
  case jz | jltu =>
    simp only [hu, ← CellSt.jump_decide]
    exact next_issue_ready hready

end Sys2Proof.Machine

/-!
# Frames, billets and packets of the photonic base (R148, R158 to R172, R485, R486)

One lemma per row and path: the launch of a slot and the repair hold, a billet on its way from the frame sent to the place its locator
names, a Dynamic frame from its request to its acknowledgement, and the two copies of a Protected packet.
-/
namespace Sys2Proof.Machine

section SlotLaunch

variable {s : State}

/-- Without a hold in force and with every billet of the next slot there, its frames are launched (R148). -/
theorem exec_frameLaunch_slot (hon : s.bu.photonicsOn = true) (hfree : s.held = false) (hthere : s.mustHold (s.slot + 1) = false) :
    exec .frameLaunch s = .next (s.launchSlot (s.slot + 1)) := by
  change execFrameLaunch s = _
  simp only [execFrameLaunch, hon, hfree, hthere, Bool.not_true, Bool.or_self, Bool.false_eq_true, if_false]

/-- A billet that the next slot uses and that is missing starts the repair hold with that slot (R164). -/
theorem exec_frameLaunch_hold (hon : s.bu.photonicsOn = true) (hfree : s.held = false) (hmissing : s.mustHold (s.slot + 1) = true) :
    exec .frameLaunch s = .next (s.startRepairHold (s.slot + 1)) := by
  change execFrameLaunch s = _
  simp only [execFrameLaunch, hon, hfree, hmissing, Bool.not_true, Bool.or_self, Bool.false_eq_true, if_false, if_true]

/-- In a slot that a hold or the throttle stretches the ports send frames of no slot (R148). -/
theorem exec_interstitialFrame_stretched (hon : s.bu.photonicsOn = true) (hstretch : s.held = true ∨ s.pw.h ≠ 0) :
    exec .interstitialFrame s = .next s.launchBetween := by
  have hbetween : (s.held || decide (s.pw.h ≠ 0)) = true := by
    rwa [Bool.or_eq_true, decide_eq_true_iff]
  change execInterstitialFrame s = _
  simp only [execInterstitialFrame, hon, hbetween, Bool.not_true, Bool.or_self, Bool.false_eq_true, if_false]

/-- The repair hold ends once nothing is missing (R164). -/
theorem exec_repairHoldEnd_ends (hnone : s.holds.repair = some []) :
    exec .repairHoldEnd s = .next { s with holds := { s.holds with repair := none } } := by
  change execRepairHoldEnd s = _
  simp only [execRepairHoldEnd, if_pos hnone]

end SlotLaunch

/-! ### A billet at its receive port (R158, R162) -/

section BilletReception

variable {s : State} {p : PortIx} {h : BitVec 512} {d : Bytes} {b : PendingBillet}

/-- Kinds 1 and 2 of a frame are a billet and a repaired one (Table 6.5), the two that BILLET_RECEIVE reads. -/
theorem billetKind_eq_true (hkind : fld h 16 1 = 1 ∨ fld h 16 1 = 2) : (fld h 16 1 == 1 || fld h 16 1 == 2) = true := by
  rwa [Bool.or_eq_true, beq_iff_eq, beq_iff_eq]

/-- A frame of an old calendar only counts. -/
theorem exec_billetReceive_oldCalendar (hcrc : hdrCrcOk h = true) (hkind : fld h 16 1 = 1 ∨ fld h 16 1 = 2)
    (hepoch : fld h 22 2 ≠ s.calEpoch) : exec (.billetReceive p h d) s = .next (s.bump 2 p 4 1) := by
  change execBilletReceive p h d s = _
  simp only [execBilletReceive, hcrc, billetKind_eq_true hkind, if_pos hepoch, Bool.not_true, Bool.false_eq_true, if_false]

/-- A frame of the calendar in force that names an expected billet: its payload is judged, then the room at its place. -/
theorem exec_billetReceive_expected (hcrc : hdrCrcOk h = true) (hkind : fld h 16 1 = 1 ∨ fld h 16 1 = 2)
    (hepoch : fld h 22 2 = s.calEpoch)
    (hfind : (s.port p).pending.find? (fun b => b.slot % 2 ^ 32 == fld h 24 4) = some b) :
    exec (.billetReceive p h d) s =
      .next (if d.length ≠ 8192 ∨ fld h 56 4 ≠ crc32c d then s.billetFails p b 2
        else if s.noPlace p then s.billetFails p b 1 else s.billetArrives p b h d) := by
  change execBilletReceive p h d s = _
  simp only [execBilletReceive, hcrc, billetKind_eq_true hkind, hepoch, hfind, ← apply_ite Host.Outcome.next, Bool.not_true,
    Bool.false_eq_true, ne_eq, not_true, if_false]

theorem exec_billetReceive_placed (hcrc : hdrCrcOk h = true) (hkind : fld h 16 1 = 1 ∨ fld h 16 1 = 2)
    (hepoch : fld h 22 2 = s.calEpoch)
    (hfind : (s.port p).pending.find? (fun b => b.slot % 2 ^ 32 == fld h 24 4) = some b) (hlen : d.length = 8192)
    (hpay : fld h 56 4 = crc32c d) (hroom : s.noPlace p = false) :
    exec (.billetReceive p h d) s = .next (s.billetArrives p b h d) := by
  have hgood : ¬(d.length ≠ 8192 ∨ fld h 56 4 ≠ crc32c d) := fun hbad => hbad.elim (· hlen) (· hpay)
  rw [exec_billetReceive_expected hcrc hkind hepoch hfind, if_neg hgood, hroom]
  rfl

theorem exec_billetReceive_badPayload (hcrc : hdrCrcOk h = true) (hkind : fld h 16 1 = 1 ∨ fld h 16 1 = 2)
    (hepoch : fld h 22 2 = s.calEpoch)
    (hfind : (s.port p).pending.find? (fun b => b.slot % 2 ^ 32 == fld h 24 4) = some b) (hpay : fld h 56 4 ≠ crc32c d) :
    exec (.billetReceive p h d) s = .next (s.billetFails p b 2) := by
  rw [exec_billetReceive_expected hcrc hkind hepoch hfind, if_pos (Or.inr hpay)]

/-- A planned repair is sent from the frame the transmit port kept (R163). -/
theorem exec_repairSend_planned {r : RepairPlan} {y : BilletSt} (hplan : s.holds.repairs.find? (fun r => r.tx == p.val) = some r)
    (hpend : (s.port r.rx).pending.find? (fun b => b.slot == r.slot) = some b) (hkept : s.keptBillet p r.rx b = some y) :
    exec (.repairSend p) s = .next (s.sendRepair p r.rx b y) := by
  change execRepairSend p s = _
  simp only [execRepairSend, hplan, hpend, hkept]

end BilletReception

/-! ### Dynamic frames (R166 to R169) -/

section DynamicFrames

variable {s : State} {p : PortIx}

/-- A port requests a frame for the packets that one frame takes, and marks them (R166). -/
theorem exec_dynamicFrameRequest_packets {k : DynPkt} {ks : List DynPkt} {v : State} (hframe : frameOf (s.port p).dynQ = k :: ks)
    (hv : v = s.modPort p (fun x => { x with
      dynQ := x.dynQ.map (fun y => if ((k :: ks).map (fun z => z.id)).contains y.id then { y with requested := true } else y) })) :
    exec (.dynamicFrameRequest p) s =
      .next (({ v with nextSeq := s.nextSeq + 1 } : State).modPort k.dst (fun x => { x with requests := x.requests ++ [{
        tx := p, turf := k.turf, vc := k.vc, ids := (k :: ks).map (fun z => z.id), stamp := s.nextSeq }] })) := by
  change execDynamicFrameRequest p s = _
  simp only [execDynamicFrameRequest, hframe, hv]
  rfl

/-- The next grant of an endpoint's arbiter, at the receive port it is for, names the first free frame (R166, R167). -/
theorem exec_dynamicGrant_free {r : DynReq} {k : Nat} (hnext : s.nextGrant (p / 64) = some (p.val, r))
    (hfree : s.frameFor r.tx p = some k) : exec (.dynamicGrant p) s = .next (s.grantFrame p r k) := by
  change execDynamicGrant p s = _
  simp [execDynamicGrant, hnext, hfree]

/-- A Dynamic frame that passes its checks is counted, acknowledged, and its packets delivered in order (R168, R169). -/
theorem exec_dynamicFrameReceive_good {h : BitVec 512} {d : Bytes} (hcrc : hdrCrcOk h = true) (hkind : fld h 16 1 = 3)
    (hpay : fld h 56 4 = crc32c d) :
    exec (.dynamicFrameReceive p h d) s =
      .next ((List.range (min 8 (fld h 35 1))).foldl (fun v i =>
        v.deliverPacket p (fld h 21 1 % 64) (areaPacket h d i) (fld h (36 + i) 1)) ((s.bump 2 p 5 1).emit (.frameAck p))) := by
  change execDynamicFrameReceive p h d s = _
  simp only [execDynamicFrameReceive, hcrc, hkind, hpay, Bool.not_true, Bool.false_eq_true, ne_eq, not_true, if_false]

/-- Packets without an acknowledgement after 2 us are sent again (R169). -/
theorem exec_dynamicResend_due {u : State} {now : Nat} (hu : u = s.at_ now) (hdue : (u.unacked p).isEmpty = false) :
    exec (.dynamicResend p now) s = .next (u.resendFrames p (u.unacked p)) := by
  change execDynamicResend p now s = _
  simp only [execDynamicResend, ← hu, hdue, Bool.false_eq_true, if_false]

end DynamicFrames

/-! ### Protected packets and fault notices (R171, R172, R485, R486) -/

section ProtectedPackets

variable {s u : State} {now : Nat}

/-- A copy of a Protected packet for an endpoint of the module is judged by the record of its source (R171). -/
theorem exec_carriageReceive_copy {o : OepIx} {f : BitVec 128} (hu : u = s.at_ now) (htype : bits f.toNat 23 16 ≠ 0)
    (hdest : bits f.toNat 29 24 < 44) :
    exec (.carriageReceive o f now) s =
      .next (u.copyArrives (seqKey o (bits f.toNat 29 24)) (bits f.toNat 29 24 * 64 + bits f.toNat 31 31) (bits f.toNat 15 0)
        (bits f.toNat 31 31) (fun v => v.protectedEffect (bits f.toNat 29 24) (bits f.toNat 23 16)
          (BitVec.ofNat 32 (bits f.toNat 63 32)) (BitVec.ofNat 64 (bits f.toNat 127 64)))) := by
  have hpacket : ¬(bits f.toNat 23 16 = 0 ∨ 44 ≤ bits f.toNat 29 24) := not_or.mpr ⟨htype, Nat.not_le.mpr hdest⟩
  change execCarriageReceive o f now s = _
  simp only [execCarriageReceive, ← hu, if_neg hpacket]

/-- The second copy that has not come 2 us after the first is missing (R172). -/
theorem exec_missingDuplicate_due {a b : OepIx} {n : Half} {key m c t : Nat} (hu : u = s.at_ now)
    (hsingle : u.singleKey a b n.toNat = some (key, m, c, t)) (hdue : t + 2000 ≤ u.now) :
    exec (.missingDuplicate a b n now) s = .next (u.copyMissing key a b m c) := by
  change execMissingDuplicate a b n now s = _
  simp only [execMissingDuplicate, ← hu, hsingle, if_neg (Nat.not_lt.mpr hdue)]

/-- With a swap under way and no light hold in force, a notice of a light hold announces its count (R485). -/
theorem State.faultHeard_lightHold {x : Word} (n : DWord) (hswap : s.holds.swapping ≠ []) (hoff : s.holds.lightOn = false)
    (hstart : bits x.toNat 9 8 = 1) : s.faultHeard x n = { s with holds := { s.holds with lightAt := some n.toNat } } := by
  simp [State.faultHeard, hswap, hoff, hstart]

end ProtectedPackets

/-- Settles O23: each clause is one path of its row. That the repair hold starts with the slot that uses the missing
billet is log entry 57, how far ahead an arbiter looks is log entry 49, and which receive port a stale, duplicate or missing copy counts
at is log entry 114. -/
theorem baseFramesComplete : Obligations.BaseFramesComplete := by
  unfold Obligations.BaseFramesComplete
  intro s u p now hu
  exact ⟨exec_frameLaunch_slot, exec_frameLaunch_hold, exec_interstitialFrame_stretched, fun _ _ _ => exec_billetReceive_placed,
    fun _ _ _ => exec_billetReceive_badPayload, fun _ _ => exec_billetReceive_oldCalendar, fun _ _ _ => exec_repairSend_planned, rfl,
    exec_repairHoldEnd_ends, fun _ _ _ => exec_dynamicFrameRequest_packets, fun _ _ => exec_dynamicGrant_free,
    fun _ _ => exec_dynamicFrameReceive_good, fun _ => rfl, exec_dynamicResend_due hu, fun _ _ => exec_carriageReceive_copy hu,
    fun _ _ _ _ _ _ _ => exec_missingDuplicate_due hu,
    fun _ n hswap hoff hstart => congrArg _ (State.faultHeard_lightHold n hswap hoff hstart)⟩

end Sys2Proof.Machine

/-!
# Light sources and tuning (R178 to R197, R484)

One lemma per row and path. Most of these rows are events taken at a count `now` that look at the state `u = s.at_ now`; the loop of a
ring and a quality window look at the state itself, and the three modes of SET_TUNING_GAP at the command in their slot.
-/
namespace Sys2Proof.Machine

/-! ### Banks and light holds (R178, R179, R182, R186) -/

section LightSources

/-- Which feed group a bank serves stands in the selectors, not in the banks. -/
@[simp] theorem State.modBank_bankFeed (s : State) (k b : Nat) (f : BankSt → BankSt) : (s.modBank k f).bankFeed b = s.bankFeed b := rfl

variable {s u : State} {now : Nat} {b : BankIx}

/-- A second low sample, a weak line or a bias at its limit faults a bank that feeds a group (R178). -/
theorem exec_bankMonitorSample_faults {output lineMin feed low : Nat} {limit : Bool} (hu : u = s.at_ now)
    (hon : u.bu.photonicsOn = true) (hsound : (u.bank b).faulted = false) (hfeed : u.bankFeed b = some feed)
    (hlow : low = if output < 700 then (u.bank b).lowSamples + 1 else 0) (hbad : 2 ≤ low ∨ lineMin < 500 ∨ limit = true) :
    exec (.bankMonitorSample b output lineMin limit now) s =
      .next ((u.modBank b (fun x => { x with output := output, lowSamples := low })).bankFault b feed) := by
  have hfaults : (decide (2 ≤ low) || decide (lineMin < 500) || limit) = true := by
    simpa [or_assoc] using hbad
  change execBankMonitorSample b output lineMin limit now s = _
  simp only [execBankMonitorSample, ← hu, ← hlow, hon, hsound, hfaults, State.modBank_bankFeed, hfeed, Bool.not_true, Bool.or_self,
    Bool.false_eq_true, if_false]

/-- A sound sample clears the count of low ones (R178). -/
theorem exec_bankMonitorSample_sound {output lineMin : Nat} {limit : Bool} (hu : u = s.at_ now) (hon : u.bu.photonicsOn = true)
    (hsound : (u.bank b).faulted = false) (hout : 700 ≤ output) (hline : 500 ≤ lineMin) (hbias : limit = false) :
    exec (.bankMonitorSample b output lineMin limit now) s =
      .next (u.modBank b (fun x => { x with output := output, lowSamples := 0 })) := by
  change execBankMonitorSample b output lineMin limit now s = _
  simp [execBankMonitorSample, ← hu, hon, hsound, Nat.not_lt.mpr hout, Nat.not_lt.mpr hline, hbias]

/-- A light hold starts at its announced count, and the running batches have met one (R179). -/
theorem exec_lightHoldStart_due {c : Nat} (hu : u = s.at_ now) (hann : u.holds.lightAt = some c) (hdue : c ≤ u.now) :
    exec (.lightHoldStart now) s = .next { u with
      holds := { u.holds with lightAt := none, lightOn := true }
      batches := tmap u.batches (fun _ b => { b with sawLight := b.sawLight || b.started }) } := by
  change execLightHoldStart now s = _
  simp only [execLightHoldStart, ← hu, hann, if_neg (Nat.not_lt.mpr hdue)]

/-- The end of a light hold is announced for 2 us later (R179; log entry 58). -/
theorem exec_lightHoldEnd_announces (hu : u = s.at_ now) (hhold : u.holds.lightOn = true) (hnone : u.holds.lightEnd = none) :
    exec (.lightHoldEnd now) s =
      .next (({ u with holds := { u.holds with lightEnd := some (u.now + 2000) } } : State).announceAll 5
        (6 + 2 * 2 ^ 8 + u.holds.lightBank * 2 ^ 16) (BitVec.ofNat 64 (u.now + 2000))) := by
  change execLightHoldEnd now s = _
  simp only [execLightHoldEnd, ← hu, hhold, hnone, Bool.not_true, Bool.false_eq_true, if_false]

/-- A light hold ends at the announced count; the ports that are still re-tuned stay under swap (R179, R185). -/
theorem exec_lightHoldEnd_due {c : Nat} (hu : u = s.at_ now) (hhold : u.holds.lightOn = true) (hann : u.holds.lightEnd = some c)
    (hdue : c ≤ u.now) :
    exec (.lightHoldEnd now) s = .next { u with holds := { u.holds with
      lightOn := false, lightEnd := none
      swapping := u.holds.swapping.filter (fun f => u.holds.retuning.any (fun r => r.2 == f)) } } := by
  change execLightHoldEnd now s = _
  simp only [execLightHoldEnd, ← hu, hhold, hann, if_neg (Nat.not_lt.mpr hdue), Bool.not_true, Bool.false_eq_true, if_false]

/-- A worn bank is swapped once no running calendar names a port of its feed group, or after 10 s (R186). -/
theorem exec_bankWearSwap_swaps {t feed n : Nat} (hu : u = s.at_ now) (htuned : u.holds.retuning.find? (fun r => r.1 == b.val) = none)
    (hworn : (u.bank b).wornAt = some t) (hfeed : u.bankFeed b = some feed)
    (hturn : (feedPorts feed).any u.scheduled = false ∨ t + 10000000000 ≤ u.now) (hspare : u.spareBank (b / 20) = some n) :
    exec (.bankWearSwap b now) s = .next (u.wearSwap b feed n) := by
  have hmay : ¬((feedPorts feed).any u.scheduled = true ∧ u.now < t + 10000000000) := by
    rintro ⟨hused, hearly⟩
    rcases hturn with hidle | hlate
    · exact Bool.false_ne_true (hidle.symm.trans hused)
    · exact Nat.not_lt.mpr hlate hearly
  change execBankWearSwap b now s = _
  simp only [execBankWearSwap, ← hu, htuned, hworn, hfeed, if_neg hmay, hspare]

/-- BANK_WEAR_SWAP given again says that the ports of a bank swapped without a hold are re-tuned (log entry 128). -/
theorem exec_bankWearSwap_retuned {r : Nat × Nat} (hu : u = s.at_ now)
    (hswapped : u.holds.retuning.find? (fun r => r.1 == b.val) = some r) :
    exec (.bankWearSwap b now) s = .next (u.retuned b r.2) := by
  change execBankWearSwap b now s = _
  simp only [execBankWearSwap, ← hu, hswapped]

end LightSources

/-! ### Ring locking (R187) -/

section RingLocking

variable {s : State} {p : PortIx} {pos : PosIx} {pm : Nat}

/-- The loop of a ring of a lit port runs for one lock period: the tenth in a row above 25 pm fails the ring. A site or an edge group has
no regions that could be asleep. -/
theorem exec_ringLock_lit {runs : Nat} (hon : s.bu.photonicsOn = true) (hlit : s.unlit p.val = false) (hedge : 16 ≤ p.val / 64)
    (hused : (s.port p).lane pos ≠ 31) (hruns : runs = if 25 < pm then tget (s.port p).detuneRuns 0 pos + 1 else 0) :
    exec (.ringLock p pos pm false) s =
      .next (if 10 ≤ runs then (s.modPort p (fun x => { x with
          detune := tset x.detune pos pm, detuneRuns := tset x.detuneRuns pos 0 })).ringFails p pos 2
        else s.modPort p (fun x => { x with detune := tset x.detune pos pm, detuneRuns := tset x.detuneRuns pos runs })) := by
  change execRingLock p pos pm false s = _
  simp only [execRingLock, hon, hlit, decide_eq_false (Nat.not_lt.mpr hedge), decide_eq_false hused, ← hruns, Bool.not_true,
    Bool.false_and, Bool.or_self, Bool.or_false, Bool.false_eq_true, if_false, decide_eq_true_eq]
  by_cases hten : 10 ≤ runs
  · simp only [if_pos hten]
  · simp only [if_neg hten]

/-- The tenth lock period in a row above 25 pm fails the ring. -/
theorem exec_ringLock_tenth {v : State} (hon : s.bu.photonicsOn = true) (hlit : s.unlit p.val = false) (hedge : 16 ≤ p.val / 64)
    (hused : (s.port p).lane pos ≠ 31) (hover : 25 < pm) (hnine : tget (s.port p).detuneRuns 0 pos = 9)
    (hv : v = s.modPort p (fun x => { x with detune := tset x.detune pos pm, detuneRuns := tset x.detuneRuns pos 0 })) :
    exec (.ringLock p pos pm false) s = .next (v.ringFails p pos 2) := by
  rw [exec_ringLock_lit (runs := 10) hon hlit hedge hused (by rw [if_pos hover, hnine]), if_pos (Nat.le_refl 10), hv]

/-- A ring within 25 pm is locked, and its count begins again. -/
theorem exec_ringLock_locked (hon : s.bu.photonicsOn = true) (hlit : s.unlit p.val = false) (hedge : 16 ≤ p.val / 64)
    (hused : (s.port p).lane pos ≠ 31) (hnear : pm ≤ 25) :
    exec (.ringLock p pos pm false) s =
      .next (s.modPort p (fun x => { x with detune := tset x.detune pos pm, detuneRuns := tset x.detuneRuns pos 0 })) := by
  rw [exec_ringLock_lit (runs := 0) hon hlit hedge hused (if_neg (Nat.not_lt.mpr hnear)).symm, if_neg (by decide)]

end RingLocking

/-! ### Channel sweeps (R189 to R193) -/

section ChannelSweeps

variable {s u : State} {now : Nat} {p : PortIx} {pos : Nat}

/-- The sweep begins in place in scheduled service, and at a position that carries no lane (R190). -/
theorem exec_channelSweep_inPlace (hu : u = s.at_ now) (hon : u.bu.photonicsOn = true) (hfree : (u.port p).sweeping = none)
    (hlit : u.unlit p.val = false) (hworks : (u.port p).failed = false) (hswap : u.holds.swapping.contains (feedOf p) = false)
    (htime : u.sweepTime p = true) (hstand : (u.port p).standIn = none) (hnext : (u.port p).nextPosition (u.scheduled p) = some pos)
    (hplace : u.scheduled p = true ∨ 16 ≤ (u.port p).lane pos) :
    exec (.channelSweep p now) s = .next (u.beginSweep p pos none) := by
  have hstays : (u.scheduled p || decide (16 ≤ (u.port p).lane pos)) = true := by
    rwa [Bool.or_eq_true, decide_eq_true_iff]
  change execChannelSweep p now s = _
  simp only [execChannelSweep, ← hu, hon, hfree, hlit, hworks, hswap, htime, hstand, hnext, hstays, Option.isSome_none, Bool.not_true,
    Bool.or_self, Bool.false_eq_true, if_false, if_true]

/-- With the lane on its stand-in and both ends sending by the new map, the sweep of the freed position begins (R191). -/
theorem exec_channelSweep_standIn {i : Nat} (hu : u = s.at_ now) (hon : u.bu.photonicsOn = true) (hfree : (u.port p).sweeping = none)
    (hlit : u.unlit p.val = false) (hworks : (u.port p).failed = false) (hswap : u.holds.swapping.contains (feedOf p) = false)
    (htime : u.sweepTime p = true) (hstand : (u.port p).standIn = some (pos, i)) (hmap : u.mapInForce p = true) :
    exec (.channelSweep p now) s = .next (u.beginSweep p pos (some i)) := by
  change execChannelSweep p now s = _
  simp only [execChannelSweep, ← hu, hon, hfree, hlit, hworks, hswap, htime, hstand, hmap, Option.isSome_none, Bool.not_true,
    Bool.or_self, Bool.false_eq_true, if_false, if_true]

/-- A sweep without a stand-in ends after 20 us, and its position counts as swept now (R189). -/
theorem exec_channelSweepEnd_due {t : Nat} (hu : u = s.at_ now) (hsweep : (u.port p).sweeping = some (pos, none, t))
    (hdue : t + 20000 ≤ u.now) (hwaits : (u.port p).toSweep = []) :
    exec (.channelSweepEnd p false now) s =
      .next (u.modPort p (fun x => { x.swept pos with sweeping := none, lastSwept := tset (x.swept pos).lastSwept pos u.now })) := by
  change execChannelSweepEnd p false now s = _
  simp only [execChannelSweepEnd, ← hu, hsweep, if_neg (Nat.not_lt.mpr hdue), hwaits, Option.isSome_none, List.any_nil, Bool.or_self,
    Bool.false_eq_true, if_false]

/-- After 50 ms of starvation each turf concerned that has not accepted the downgrade is told; the notice to turf 0 names the lowest turf
concerned (R194; log entry 63). -/
theorem exec_tuningStarved_due {t0 t : Nat} {ts told : List Nat} (hu : u = s.at_ now) (hsince : (u.port p).starveSince = some t0)
    (hturfs : u.portTurfs p = t :: ts) (hdue : t0 + 50000000 ≤ u.now)
    (htold : told = (setIns (t :: ts) 0).filter (fun x => !u.tuneAccepted.contains x)) (hsome : told.isEmpty = false) :
    exec (.tuningStarved p now) s =
      .next ((told.foldl (fun v x =>
        v.noticeTurf x 4 0x1001 [BitVec.ofNat 128 (p.val + (if (t :: ts).contains x then x else t) * 2 ^ 16)]) u).modPort p
          (fun x => { x with starved := min 0xFFFF (x.starved + 1), starveSince := some (t0 + 50000000) })) := by
  change execTuningStarved p now s = _
  simp only [execTuningStarved, ← hu, hsince, hturfs, ← htold, Nat.not_lt.mpr hdue, hsome, Bool.false_eq_true, or_self, if_false]

end ChannelSweeps

/-! ### Tuning gaps and holds (R193, R195, R196) -/

section TuningGapCommands

variable {s v : State} {q : QueueIx} {slot : SlotIx} {a : Accepted}

/-- SET_TUNING_GAP mode 0 plans a gap: it begins now, or with the end of the batch that runs for the turf. -/
theorem exec_setTuningGapGap_plans (hready : s.ready q slot 0x0104 a) (hv : v = s.beginCmd a) (hlen : gapLenOk a.entry = true)
    (hmode : sqArg a.entry 0 = 0) :
    exec (.setTuningGapGap q slot) s = .next { v with
      tuneGaps := v.tuneGaps ++ [(sqTurf a.entry,
        if (v.batch (sqTurf a.entry)).any (fun b => b.started) then 0 else max 1 v.now, sqArg a.entry 1, a.q, a.slot)] } := by
  change execSetTuningGapGap q slot s = _
  simp only [execSetTuningGapGap, State.withCmd_ready hready (sel := fun w => sqArg w 0 == 0) (beq_iff_eq.mpr hmode), ← hv, hlen,
    Bool.not_true, Bool.false_eq_true, if_false]
  cases v.batch (sqTurf a.entry) with
  | none => rfl
  | some b => rfl

/-- SET_TUNING_GAP mode 1 accepts the downgrade for its turf. -/
theorem exec_setTuningGapAccept_accepts (hready : s.ready q slot 0x0104 a) (hv : v = s.beginCmd a) (hlen : gapLenOk a.entry = true)
    (hmode : sqArg a.entry 0 = 1) :
    exec (.setTuningGapAccept q slot) s =
      .next (({ v with tuneAccepted := setIns v.tuneAccepted (sqTurf a.entry) } : State).done a 0) := by
  change execSetTuningGapAccept q slot s = _
  simp only [execSetTuningGapAccept, State.withCmd_ready hready (sel := fun w => sqArg w 0 == 1) (beq_iff_eq.mpr hmode), ← hv, hlen,
    Bool.not_true, Bool.false_eq_true, if_false]

/-- SET_TUNING_GAP mode 2 of turf 0 plans a hold at least 20 us ahead. -/
theorem exec_setTuningGapHold_plans (hready : s.ready q slot 0x0104 a) (hv : v = s.beginCmd a) (hlen : gapLenOk a.entry = true)
    (hmode : sqArg a.entry 0 = 2) (hturf : (v.queue a.q).turf = 0) (hcount : v.now + 20000 ≤ sqArg a.entry 2) :
    exec (.setTuningGapHold q slot) s =
      .next { v with holds := { v.holds with tunes := v.holds.tunes ++ [(sqArg a.entry 2, sqArg a.entry 1, a.q, a.slot)] } } := by
  change execSetTuningGapHold q slot s = _
  simp only [execSetTuningGapHold, State.withCmd_ready hready (sel := fun w => sqArg w 0 == 2) (beq_iff_eq.mpr hmode), ← hv, hlen,
    hturf, if_neg (Nat.not_lt.mpr hcount), Bool.not_true, Bool.false_eq_true, ne_eq, not_true, if_false]

end TuningGapCommands

section TuningEvents

variable {s u : State} {now : Nat}

/-- A gap that has lasted LENGTH covers the ports of its turf and completes its command. -/
theorem exec_tuningGapEnd_due {t : TurfIx} {g : Nat × Nat × Nat × Nat × Nat} (hu : u = s.at_ now)
    (hgap : u.tuneGaps.find? (fun g => g.1 == t.val && g.2.1 != 0) = some g) (hdue : g.2.1 + g.2.2.1 * 1000 ≤ u.now) :
    exec (.tuningGapEnd t now) s =
      .next ((({ u with tuneGaps := u.tuneGaps.erase g } : State).gapCovers t []).completeAt (g.2.2.2.1, g.2.2.2.2) stOk 0) := by
  change execTuningGapEnd t now s = _
  simp only [execTuningGapEnd, ← hu, hgap, if_neg (Nat.not_lt.mpr hdue)]

/-- The holds that have lasted LENGTH cover every port of the running calendars, take back the accepted downgrades, and complete their
commands. -/
theorem exec_tuningHoldEnd_due {due : List (Nat × Nat × Nat × Nat)} {v : State} (hu : u = s.at_ now)
    (hlist : due = u.holds.tuning.filter (fun h => decide (h.1 + h.2.1 * 1000 ≤ u.now))) (hsome : due.isEmpty = false)
    (hv : v = { u with
      holds := { u.holds with tuning := u.holds.tuning.filter (fun h => !due.contains h) }, tuneAccepted := [] }) :
    exec (.tuningHoldEnd now) s =
      .next (due.foldl (fun x h => x.completeAt (h.2.2.1, h.2.2.2) stOk 0)
        (v.batches.foldl (fun x b => if b.2.started then x.startTimers (x.calPorts b.1) true x.now else x) v)) := by
  change execTuningHoldEnd now s = _
  simp only [execTuningHoldEnd, ← hu, ← hlist, hsome, hv, Bool.false_eq_true, if_false]

end TuningEvents

/-! ### Fibre lanes (R484) -/

/-- A quality window counts the bad windows in a row of each position, and the third replaces the lane. -/
theorem exec_qualityWindow_counts {s : State} {f : FibreIx} {g : Fin 2} {bad : List PosIx} {runs : List Nat}
    (hon : s.bu.photonicsOn = true)
    (hruns : runs = (List.range 18).map (fun i =>
      if bad.any (fun b => b.val == i) then tget (s.port (fibreGroupPort f g)).codeRuns 0 i + 1 else 0)) :
    exec (.qualityWindow f g bad) s =
      .next (((List.range 18).filter (fun i => decide (3 ≤ runs.getD i 0))).foldl (fun x i => x.replaceLane f g i 2)
        (s.modPort (fibreGroupPort f g) (fun x => { x with
          codeRuns := runs.zipIdx.map (fun r => (r.2, if 3 ≤ r.1 then 0 else r.1)) }))) := by
  change execQualityWindow f g bad s = _
  simp only [execQualityWindow, hon, ← hruns, Bool.not_true, Bool.false_eq_true, if_false]

/-- Settles O25: each clause is one path of its row. That the first LIGHT_HOLD_END of a hold announces its end is log entry 58, which turfs
are told of a starved port and what the notice to turf 0 names is log entry 63, and that a BANK_WEAR_SWAP given again means re-tuned is log
entry 128. -/
theorem lightAndTuningComplete : Obligations.LightAndTuningComplete := by
  unfold Obligations.LightAndTuningComplete
  intro s u now hu
  exact ⟨fun _ _ _ _ _ _ => exec_bankMonitorSample_faults hu, fun _ _ _ _ => exec_bankMonitorSample_sound hu,
    fun _ => exec_lightHoldStart_due hu, exec_lightHoldEnd_announces hu, fun _ => exec_lightHoldEnd_due hu,
    fun _ _ _ _ => exec_bankWearSwap_swaps hu, fun _ _ => exec_bankWearSwap_retuned hu,
    fun _ _ _ _ => exec_ringLock_tenth, fun _ _ _ => exec_ringLock_locked,
    fun _ _ => exec_channelSweep_inPlace hu, fun _ _ _ => exec_channelSweep_standIn hu, fun _ _ _ => exec_channelSweepEnd_due hu,
    fun _ _ _ _ hsince hturfs hdue hsome => exec_tuningStarved_due hu hsince hturfs hdue rfl hsome,
    fun _ _ _ _ => exec_setTuningGapGap_plans, fun _ _ _ _ => exec_setTuningGapAccept_accepts,
    fun _ _ _ _ => exec_setTuningGapHold_plans, fun _ _ => exec_tuningGapEnd_due hu, hu ▸ rfl,
    fun _ _ => exec_tuningHoldEnd_due hu, fun _ _ _ _ => exec_qualityWindow_counts⟩

end Sys2Proof.Machine

/-!
# Far units: their frames, failover and billets (R217 to R230)

One lemma per row and path. A frame row acts on a frame of its own TYPE and of the length that the link gives; what the frame then brings
goes through `State.farReceive`. An event of a unit or a sublink that is due 50 us after a loss looks at the state `s.at_ now`.
-/
namespace Sys2Proof.Machine

/-! ### Frames of a far sublink (R218, R219, R221) -/

section FarFrames

variable {s : State} {l : LinkIx} {f : Bytes}

/-- A row of far frames passes over a frame of a fabric channel or of another TYPE, and this frame is neither. -/
theorem farRow_takes {type : Nat} (hfar : isFar l = true) (htype : leAt f 4 1 = type) : (!isFar l || leAt f 4 1 != type) = false := by
  rw [hfar, htype, bne_self_eq_false]
  rfl

/-- A DATA frame brings its two granules. -/
theorem exec_farDataGranule_far (hfar : isFar l = true) (htype : leAt f 4 1 = 2) (hshape : linkShapeOk l f = true) :
    exec (.farDataGranule l f) s =
      .next ((s.farReceive l f true (fun v =>
        (v.readGranule l (slice f 24 8) (slice f 48 256)).readGranule l (slice f 32 8) (slice f 304 256))).drainProgress) := by
  change execFarDataGranule l f s = _
  simp only [execFarDataGranule, farRow_takes hfar htype, hshape, Bool.not_true, Bool.false_eq_true, if_false]

/-- A RECORD frame brings its sixteen completions. -/
theorem exec_completion_far (hfar : isFar l = true) (htype : leAt f 4 1 = 1) (hshape : linkShapeOk l f = true) :
    exec (.completion l f) s =
      .next ((s.farReceive l f true (fun v =>
        (List.range 16).foldl (fun v i => v.completionRecord l (slice f (48 + 32 * i) 32)) v)).drainProgress) := by
  change execCompletion l f s = _
  simp only [execCompletion, farRow_takes hfar htype, hshape, Bool.not_true, Bool.false_eq_true, if_false]

/-- An idle frame brings its header alone. -/
theorem exec_farIdleFrame_far (hfar : isFar l = true) (htype : leAt f 4 1 = 0) (hshape : linkShapeOk l f = true) :
    exec (.farIdleFrame l f) s = .next (s.farReceive l f false (fun v => v)) := by
  change execFarIdleFrame l f s = _
  simp only [execFarIdleFrame, farRow_takes hfar htype, hshape, Bool.not_true, Bool.false_eq_true, if_false]

/-- A frame whose CRC fails is discarded whole and counts at its fibre, whatever it would have brought (R218). -/
theorem State.farReceive_badCrc (sequenced : Bool) (body : State → State) (hcrc : linkCrcOk f = false) :
    s.farReceive l f sequenced body = s.fibreCount l 3 := by
  simp only [State.farReceive, hcrc, Bool.not_false, if_true]

end FarFrames

/-! ### Failover, and a unit that is down (R226, R227) -/

section FarOutages

variable {s v : State} {now t : Nat}

/-- A sublink lost for 50 us hands its slot on, as long as its unit has a sublink in service. -/
theorem exec_sublinkFailover_due {l : LinkIx} (hfar : isFar l = true) (hlost : ((s.at_ now).link l).lostAt = some t)
    (hout : ((s.at_ now).link l).state ≠ .inService) (hdue : t + 50000 ≤ (s.at_ now).now)
    (hup : ((s.at_ now).farUp (l / 8)).isEmpty = false) :
    exec (.sublinkFailover l now) s = .next ((s.at_ now).failOver l) := by
  change execSublinkFailover l now s = _
  simp only [execSublinkFailover, hlost, hfar, beq_false_of_ne hout, decide_eq_false (Nat.not_lt.mpr hdue), hup, Bool.not_true,
    Bool.or_self, Bool.false_eq_true, if_false]

/-- A unit without a sublink for 50 us is down. -/
theorem exec_farUnitDown_due {u : FmuIx} {w : State} (hnone : ((s.at_ now).fmu u).noSublinkSince = some t)
    (hdue : t + 50000 ≤ (s.at_ now).now)
    (hv : v = ((s.at_ now).modFmu u (fun x => { x with
      down := true, registered := false, billets := [], noSublinkSince := none })).failUnitOps u stInternal)
    (hw : w = { v with
      links := tmap v.links (fun k x => if k / 8 = u.val then { x with cmds := [], heldFrames := [], lostAt := none } else x) }) :
    exec (.farUnitDown u now) s =
      .next (((w.stopUsers (fun q => portFmu q == some u.val) 0).releasePending (fun q => portFmu q == some u.val)).drainProgress) := by
  change execFarUnitDown u now s = _
  simp only [execFarUnitDown, hnone, if_neg (Nat.not_lt.mpr hdue), hw, hv]

end FarOutages

/-! ### Commands of far billets (R229, R230) -/

section FarBillets

variable {s : State} {u : FmuIx} {p : PortIx} {b : FarBillet}

/-- The oldest far-destined billet of the port that is due is queued. -/
theorem exec_farBilletWriteQueue_due (hdue : (s.farWritesDue u).find? (fun b => b.port == p.val) = some b) :
    exec (.farBilletWriteQueue u p) s = .next (s.queueFarBillet u b) := by
  change execFarBilletWriteQueue u p s = _
  simp only [execFarBilletWriteQueue, hdue]

/-- The billet that the port sends 48 slots later is read, after the unit's WRITEs that are due. -/
theorem exec_farBilletReadQueue_reads {m t k : Nat} {e : BitVec 256} (hunit : portFmu p = some u.val)
    (hslot : m = s.pw.schedCycles / 72 + 48) (hentry : (s.entriesAt m).find? (fun e => e.2.1 == p.val) = some (t, p.val, e, k))
    (hnew : ((s.fmu u).billets.any (fun b => b.port == p.val && b.slot == m && !b.isWrite)) = false) (hroom : s.farFull u = false)
    (hb : b = { port := p.val, slot := m, isWrite := false, off := s.farOffset t (p.val / 64 - 40) (locAt e true k).toNat, turf := t }) :
    exec (.farBilletReadQueue u p) s =
      .next ((((s.farWritesDue u).foldl (fun v w => v.queueFarBillet u w) s).modFmu u (fun x => { x with
        billets := x.billets ++ [b] })).queueFarBillet u b) := by
  change execFarBilletReadQueue u p s = _
  simp only [execFarBilletReadQueue, ← hslot, hunit, hentry, hnew, hroom, hb, bne_self_eq_false, Bool.or_self, Bool.false_eq_true,
    if_false]

end FarBillets

/-- Settles O21: each clause is one path of its row, and a frame whose CRC fails is the idle frame's path with nothing received. That the
stopped batches of a unit that is down have RESULT 0 is log entry 72. -/
theorem farUnitsComplete : Obligations.FarUnitsComplete := by
  unfold Obligations.FarUnitsComplete
  intro s l u now
  refine ⟨fun _ => exec_farDataGranule_far, fun _ => exec_completion_far, fun _ => exec_farIdleFrame_far,
    fun f hfar htype hshape hcrc => ?badCrc, fun _ => exec_sublinkFailover_due, fun _ _ _ => exec_farUnitDown_due,
    fun _ _ => exec_farBilletWriteQueue_due, fun _ _ _ _ _ _ => exec_farBilletReadQueue_reads⟩
  case badCrc => rw [exec_farIdleFrame_far hfar htype hshape, State.farReceive_badCrc _ _ hcrc]

end Sys2Proof.Machine

/-!
# Links: identity, lane maps, retraining and loss (R219, R223 to R226, R289, R290, R314)

Far sublinks and fabric channels share these rows. The rows of messages look at the state itself; the timed ones and LINK_DOWN look at the
state `u = s.at_ now`. A lane map or LINK_DOWN comes in a sequenced frame of its own and acts once that frame is taken.
-/
namespace Sys2Proof.Machine

/-! ### Identity (R223, R224, R290) -/

section LinkIdentity

variable {s : State} {l : LinkIx} {m : Bytes}

/-- An IDENT that a rule refuses puts the link out of service with that rule's cause. -/
theorem exec_ident_refused {c : Nat} (hlen : m.length = 512) (hstate : (s.link l).state = .identify)
    (hrefusal : s.identRefusal l m = some c) :
    exec (.ident l m) s = .next (s.modLink l (fun x => { x with state := .refused, cause := c })) := by
  change execIdent l m s = _
  simp only [execIdent, hlen, hstate, hrefusal, ne_eq, not_true, if_false]

/-- An IDENT that no rule refuses is acknowledged; the link comes into service when its own was. -/
theorem exec_ident_accepted {v : State} (hlen : m.length = 512) (hstate : (s.link l).state = .identify)
    (hrefusal : s.identRefusal l m = none) (hv : v = (s.modLink l (fun x => { x with newIdent := some m })).sendMgmt l (natLe 2 2)) :
    exec (.ident l m) s = .next (if (v.link l).ackSeen then v.enterService l m else v) := by
  change execIdent l m s = _
  simp only [execIdent, hlen, hstate, hrefusal, ← hv, ne_eq, not_true, if_false]

/-- IDENT_ACK before the peer's identity is only noted. -/
theorem exec_identAck_early (hstate : (s.link l).state = .identify) (hnone : (s.link l).newIdent = none) :
    exec (.identAck l) s = .next (s.modLink l (fun y => { y with ackSeen := true })) := by
  change execIdentAck l s = _
  simp only [execIdentAck, hstate, hnone, ne_eq, not_true, if_false]

/-- IDENT_ACK with the peer's identity known brings the link into service. -/
theorem exec_identAck_known (hstate : (s.link l).state = .identify) (hpeer : (s.link l).newIdent = some m) :
    exec (.identAck l) s = .next ((s.modLink l (fun y => { y with ackSeen := true })).enterService l m).drainProgress := by
  change execIdentAck l s = _
  simp only [execIdentAck, hstate, hpeer, ne_eq, not_true, if_false]

/-- FEC lock of a link that trains begins the exchange of identities. -/
theorem exec_fecLock_training (hstate : (s.link l).state = .training) :
    exec (.fecLock l) s =
      .next ((s.modLink l (fun x => { x with state := .identify, ackSeen := false, newIdent := none })).sendMgmt l (s.identMsg l)) := by
  change execFecLock l s = _
  simp only [execFecLock, hstate, ne_eq, not_true, if_false]

/-- IDENT is repeated while the peer's has not come. -/
theorem exec_identRepeat_waiting (hstate : (s.link l).state = .identify) (hnone : (s.link l).newIdent = none) :
    exec (.identRepeat l) s = .next (s.sendMgmt l (s.identMsg l)) :=
  if_pos ⟨hstate, Option.isNone_iff_eq_none.mpr hnone⟩

/-- A link that is down trains, with light and outside a shutdown. -/
theorem exec_sublinkRetrain_down {u : State} {now : Nat} (hu : u = s.at_ now) (hon : u.bu.photonicsOn = true)
    (hrun : u.pw.shutdown = false) (hstate : (u.link l).state = .down) :
    exec (.sublinkRetrain l now) s = .next (u.trainLink l) := by
  change execSublinkRetrain l now s = _
  simp only [execSublinkRetrain, ← hu, hon, hrun, hstate, Bool.not_true, Bool.or_self, Bool.false_eq_true, if_false]

end LinkIdentity

/-! ### Messages in sequenced frames (R225, R226) -/

section LinkMessages

variable {s v : State} {l : LinkIx} {m : Bytes} {n : Half}

/-- A lane map asked for waits to be announced. -/
theorem exec_laneMapReq_taken (hlen : m.length = 18) (htaken : s.takesMessage l 5 n v) :
    exec (.laneMapReq l ⟨m, n⟩) s = .next (v.mapAsked l m) := by
  change execLaneMapReq l ⟨m, n⟩ s = _
  simp only [execLaneMapReq, hlen, State.onMessage_taken htaken, ne_eq, not_true, if_false]

/-- A lane map announced is noted with the SEQ it applies from. -/
theorem exec_laneMap_taken {k : Half} (hlen : m.length = 18) (htaken : s.takesMessage l 5 n v) :
    exec (.laneMap l ⟨m, n⟩ k) s = .next (v.mapAnnounced l k.toNat m) := by
  change execLaneMap l ⟨m, n⟩ k s = _
  simp only [execLaneMap, hlen, State.onMessage_taken htaken, ne_eq, not_true, if_false]

/-- LINK_DOWN takes the link out of service. -/
theorem exec_linkDown_taken {now : Nat} (htaken : (s.at_ now).takesMessage l 5 n v) :
    exec (.linkDown l ⟨n, now⟩) s = .next (v.loseLink l) := by
  change execLinkDown l ⟨n, now⟩ s = _
  simp only [execLinkDown, State.onMessage_taken htaken]

end LinkMessages

/-! ### Replay and loss (R219, R226, R289, R314) -/

section LinkLosses

variable {s u : State} {l : LinkIx} {now : Nat}

/-- On RETRY the frames held go out again from EXP_SEQ. -/
theorem exec_farFrameResend_retry (n : Half) (hu : u = s.at_ now) (hstate : (u.link l).state = .inService) :
    exec (.farFrameResend l true n now) s = .next (u.resendLink l n.toNat) := by
  change execFarFrameResend l true n now s = _
  simp only [execFarFrameResend, ← hu, hstate, ne_eq, not_true, if_false, if_true]

/-- With ACK standing still for 1 us the frames held go out again from the oldest. -/
theorem exec_farFrameResend_stalled (n : Half) {f : Nat × Bytes × Nat} {fs : List (Nat × Bytes × Nat)} (hu : u = s.at_ now)
    (hstate : (u.link l).state = .inService) (hheld : (u.link l).heldFrames = f :: fs) (hdue : (u.link l).ackAt + 1000 ≤ u.now) :
    exec (.farFrameResend l false n now) s = .next (u.resendLink l f.1) := by
  change execFarFrameResend l false n now s = _
  simp only [execFarFrameResend, ← hu, hstate, hheld, if_neg (Nat.not_lt.mpr hdue), ne_eq, not_true, Bool.false_eq_true, if_false]

/-- A far sublink without a good frame for 10 us is lost. -/
theorem exec_sublinkLoss_due (hu : u = s.at_ now) (hfar : isFar l = true) (hdue : (u.link l).lastGood + 10000 ≤ u.now) :
    exec (.sublinkLoss l now) s = .next (u.loseLink l) := by
  change execSublinkLoss l now s = _
  simp only [execSublinkLoss, ← hu, hfar, decide_eq_false (Nat.not_lt.mpr hdue), Bool.not_true, Bool.or_self, Bool.false_eq_true,
    if_false]

/-- A fabric channel without a good frame for 10 us is lost. -/
theorem exec_channelLoss_due (hu : u = s.at_ now) (hfab : isFar l = false) (hdue : (u.link l).lastGood + 10000 ≤ u.now) :
    exec (.channelLoss l now) s = .next (u.loseLink l) := by
  change execChannelLoss l now s = _
  simp only [execChannelLoss, ← hu, hfab, decide_eq_false (Nat.not_lt.mpr hdue), Bool.or_self, Bool.false_eq_true, if_false]

end LinkLosses

/-- Settles O22: each clause is one path of its row; a fibre fails by the channels of it that are lost for 5 ms, whichever they are. That a
message is taken with its frame before it acts is log entry 25, which rule gives the cause of a refusal is log entry 75, and that a map
asked for waits for the announcement under way is log entry 76. -/
theorem linkRowsComplete : Obligations.LinkRowsComplete := by
  unfold Obligations.LinkRowsComplete
  intro s u l now hu
  exact ⟨fun _ _ => exec_ident_refused, fun _ _ => exec_ident_accepted, exec_identAck_early, fun _ => exec_identAck_known,
    exec_fecLock_training, exec_identRepeat_waiting, exec_sublinkRetrain_down hu, fun _ _ _ => exec_laneMapReq_taken,
    fun _ _ _ _ => exec_laneMap_taken, fun _ _ htaken => exec_linkDown_taken (hu ▸ htaken), fun n => exec_farFrameResend_retry n hu,
    fun n _ _ => exec_farFrameResend_stalled n hu, exec_sublinkLoss_due hu, exec_channelLoss_due hu, fun _ => hu ▸ rfl⟩

end Sys2Proof.Machine

/-!
# LOAD_IMAGE and the upkeep of the near-tier sites (R206 to R214, R513, R515)

One lemma per path. What a replacement does is said of `State.migrate` and `State.replaceRow`, which the rows and the errors of a read
share. Patrol scrub and self-refresh look at the state `u = s.at_ now`.
-/
namespace Sys2Proof.Machine

/-! ### LOAD_IMAGE (R513, R515) -/

/-- An image whose bytes pass stages 1 to 6 is entered under the lowest free handle. -/
theorem exec_loadImage_enters {s v w : State} {q : QueueIx} {slot : SlotIx} {data : Option Bytes} {a : Accepted} {b : Bytes}
    {img : ImageSt} {h : Nat} (hready : s.ready q slot 0x0100 a) (hv : v = s.beginCmd a)
    (hfits : s.readFits ((sqArg a.entry 2).testBit 0) (sqArg a.entry 0) (sqArg a.entry 1) data = true)
    (hfree : v.holdsImage (sqTurf a.entry) = false) (hrun : v.pw.safeStopped = false) (hmin : 256 ≤ sqArg a.entry 1)
    (hmax : sqArg a.entry 1 ≤ 2 ^ 30)
    (haddr : v.addrCheck a.q (v.queue a.q).turf ((sqArg a.entry 2).testBit 0) (sqArg a.entry 0) (sqArg a.entry 1) = none)
    (hw : w = v.meetIn ((sqArg a.entry 2).testBit 0) (sqArg a.entry 0) (sqArg a.entry 1))
    (hread : w.readIn ((sqArg a.entry 2).testBit 0) (sqArg a.entry 0) (sqArg a.entry 1) data = some b)
    (hcheck : w.checkImage (sqTurf a.entry) (sqArg a.entry 1) b = .inl img) (hhandle : w.freeHandle = some h) :
    exec (.loadImage q slot data) s = .next (w.enterImage a h img) := by
  obtain ⟨hacc, _, _⟩ := id hready
  have hlen : ¬(2 ^ 30 < sqArg a.entry 1 ∨ sqArg a.entry 1 < 256) := not_or.mpr ⟨Nat.not_lt.mpr hmax, Nat.not_lt.mpr hmin⟩
  change execLoadImage q slot data s = _
  simp only [execLoadImage, hacc, hfits, State.withCmd_ready hready (sel := fun _ => true) rfl, ← hv, hfree, hrun, if_neg hlen, haddr,
    ← hw, hread, hcheck, hhandle, Bool.not_true, Bool.or_self, Bool.false_eq_true, if_false]

/-! ### Patrol scrub (R206, R207, R209) -/

section PatrolScrub

variable {s u : State} {m : SiteIx} {g : Fin 268435456} {f : ScrubFind} {now : Nat}

/-- The scrubber reads a granule of a site that is out of self-refresh, acts on what the check symbols find, and writes it back. -/
theorem exec_patrolScrub_reads (hu : u = s.at_ now) (hon : u.bu.memoryOn = true) (hawake : (u.site m).selfRefresh = false) :
    exec (.patrolScrub m g f now) s =
      .next (((u.upset (halvesOf m (g.val * 256)) f).eccGranule m (halvesOf m (g.val * 256))).writeBack (halvesOf m (g.val * 256))) := by
  change execPatrolScrub m g f now s = _
  simp only [execPatrolScrub, ← hu, hon, hawake, Bool.not_true, Bool.or_self, Bool.false_eq_true, if_false]

/-- The scrubber stands in self-refresh (R214). -/
theorem exec_patrolScrub_selfRefresh (hu : u = s.at_ now) (hasleep : (u.site m).selfRefresh = true) :
    exec (.patrolScrub m g f now) s = .next u := by
  change execPatrolScrub m g f now s = _
  simp only [execPatrolScrub, ← hu, hasleep, Bool.or_true, if_true]

end PatrolScrub

/-! ### Spare pseudo-channels (R211, R212) -/

section Migrations

variable {s : State} {m pc sp : Nat}

/-- A pseudo-channel begins migrating to the first spare one, which is taken at once. -/
theorem State.migrate_begins {rest : List Nat} (hidle : (s.site m).migrating = none) (hspare : (s.site m).sparePcs = sp :: rest) :
    s.migrate m pc =
      (s.modSite m (fun y => { y with migrating := some (pc, sp), sparePcs := rest })).takeSpare 0x0B m m
        (if (s.site m).errors.any (fun e => e.1 == pc) then 2 else 3) := by
  simp only [State.migrate, hidle, hspare]

/-- With no spare left the site goes on degraded (R212). -/
theorem State.migrate_degrades (hidle : (s.site m).migrating = none) (hnone : (s.site m).sparePcs = []) :
    s.migrate m pc = s.siteDegraded m ((s.site m).phys pc) := by
  simp only [State.migrate, hidle, hnone]

/-- While another pseudo-channel migrates, one that does not wait yet waits. -/
theorem State.migrate_waits {l : Nat} (hbusy : (s.site m).migrating = some (l, sp)) (hother : l ≠ pc)
    (hnew : (s.site m).waitingPc.contains pc = false) :
    s.migrate m pc = s.modSite m (fun y => { y with waitingPc := y.waitingPc ++ [pc] }) := by
  simp only [State.migrate, hbusy, hother, hnew, Bool.false_eq_true, or_self, if_false]

end Migrations

/-- The end of a migration maps the spare in, and with nothing waiting that is all. -/
theorem exec_pcMigrationEnd_last {s v : State} {m : SiteIx} {lost : List (Fin 268435456)} {pc sp : Nat}
    (hbusy : (s.site m).migrating = some (pc, sp)) (hnone : (s.site m).waitingPc = [])
    (hv : v = (lost.filter (fun g => s.pcOf (g.val * 256) == pc)).foldl (fun x g => x.spoil (siteKey m (g.val * 256)) 256) s) :
    exec (.pcMigrationEnd m lost) s =
      .next (((v.modSite m (fun y => { y with
          pcMap := tset y.pcMap pc sp, migrating := none, corrected := tdel y.corrected pc })).addWear 0x03 m 1
            (BitVec.ofNat 32 ((s.site m).phys pc))).replaced 0x0B
        (if (s.site m).errors.any (fun e => e.1 == pc) then 2 else 3) 1 m (BitVec.ofNat 32 ((s.site m).phys pc)) 0) := by
  change execPcMigrationEnd m lost s = _
  simp only [execPcMigrationEnd, hbusy, hnone, hv]

/-! ### Spare rows (R210) -/

/-- A row begins copying to a spare row of its bank, which is taken at once. -/
theorem State.replaceRow_begins {s : State} {m pc bank row : Nat} (hidle : (s.site m).rowCopy = none)
    (hleft : 0 < s.sparesLeft 0x0A (rowPool m pc bank)) :
    s.replaceRow m pc bank row =
      (s.modSite m (fun y => { y with rowCopy := some (pc, bank, row) })).takeSpare 0x0A (rowPool m pc bank) m (s.rowOrigin m pc) := by
  simp only [State.replaceRow, hidle, if_pos hleft, Option.isSome_none, Bool.false_eq_true, if_false]

/-- The end of a row's copy is recorded, and with nothing waiting that is all. -/
theorem exec_rowReplaceEnd_last {s v w : State} {m : SiteIx} {r : Nat × Nat × Nat} (hcopy : (s.site m).rowCopy = some r)
    (hv : v = s.modSite m (fun y => { y with rowCopy := none, rowsReplaced := y.rowsReplaced ++ [r] }))
    (hw : w = (v.addWear 0x02 m 1 (rowDetail r)).replaced 0x0A (v.rowOrigin m r.1) 1 m (rowDetail r) 0)
    (hnone : (w.site m).rowWaits = []) :
    exec (.rowReplaceEnd m) s = .next (w.modSite m (fun y => { y with rowWaits := [] })) := by
  change execRowReplaceEnd m s = _
  simp only [execRowReplaceEnd, hcopy, ← hv, ← hw, hnone, List.foldl_nil]

/-! ### Self-refresh (R214) -/

/-- A site with no access for 10 ms and no running calendar that names a port of it enters self-refresh. -/
theorem exec_selfRefreshEnter_idle {s u : State} {m : SiteIx} {now : Nat} (hu : u = s.at_ now) (hon : u.bu.memoryOn = true)
    (hdue : (u.site m).lastAccess + 10000000 ≤ u.now)
    (hunnamed : (u.batches.any (fun b => b.2.started && (u.calPorts b.1).any (fun p => p / 64 == 16 + m.val))) = false) :
    exec (.selfRefreshEnter m now) s = .next (u.modSite m (fun x => { x with selfRefresh := true })) := by
  change execSelfRefreshEnter m now s = _
  simp only [execSelfRefreshEnter, ← hu, hon, hunnamed, decide_eq_false (Nat.not_lt.mpr hdue), Bool.not_true, Bool.or_self,
    Bool.false_eq_true, if_false]

/-- Settles O24: each clause is one path of its row. What ORIGIN names and that the spare is taken at the start is log entry 73, and how an
error comes about that a scrub meets is log entry 115. -/
theorem imageLoadAndSiteUpkeepComplete : Obligations.ImageLoadAndSiteUpkeepComplete := by
  unfold Obligations.ImageLoadAndSiteUpkeepComplete
  intro m s u now hu
  exact ⟨fun _ _ _ _ _ _ _ _ _ => exec_loadImage_enters, fun _ _ => exec_patrolScrub_reads hu,
    fun _ _ => exec_patrolScrub_selfRefresh hu,
    fun _ _ _ hidle hspare => congrArg _ (State.migrate_begins hidle hspare),
    fun _ hidle hnone => congrArg _ (State.migrate_degrades hidle hnone),
    fun _ _ _ hbusy hother hnew => congrArg _ (State.migrate_waits hbusy hother hnew), fun _ _ _ _ => exec_pcMigrationEnd_last,
    fun _ _ _ hidle hleft => congrArg _ (State.replaceRow_begins hidle hleft), fun _ _ _ => exec_rowReplaceEnd_last,
    exec_selfRefreshEnter_idle hu, hu ▸ rfl⟩

end Sys2Proof.Machine

/-!
# What every command keeps (R236, R513)

Each row has its own lemma in Laws/Keeps<Family>; the split over the rows is made once here, so that what every step keeps follows from it.
-/
namespace Sys2Proof.Machine

/-- Every command but BRINGUP_STEP_END, which may revoke key slots, keeps all that `Keeps` lists. -/
theorem exec_keeps (s : State) : ∀ c : Instr, c ≠ .bringupStepEnd → KeepsO s (exec c s)
  | .nop .., _ => execNop_keeps (.refl s) ..
  | .openQueue .., _ => execOpenQueue_keeps (.refl s) ..
  | .closeQueue .., _ => execCloseQueue_keeps (.refl s) ..
  | .bindTurf .., _ => execBindTurf_keeps (.refl s) ..
  | .queryIdentity .., _ => execQueryIdentity_keeps (.refl s) ..
  | .queryQueue .., _ => execQueryQueue_keeps (.refl s) ..
  | .queryNotices .., _ => execQueryNotices_keeps (.refl s) ..
  | .loadImage .., _ => execLoadImage_keeps (.refl s) ..
  | .unloadImage .., _ => execUnloadImage_keeps (.refl s) ..
  | .runBatch .., _ => execRunBatch_keeps (.refl s) ..
  | .abort .., _ => execAbort_keeps (.refl s) ..
  | .alloc .., _ => execAlloc_keeps (.refl s) ..
  | .free .., _ => execFree_keeps (.refl s) ..
  | .copy .., _ => execCopy_keeps (.refl s) ..
  | .fill .., _ => execFill_keeps (.refl s) ..
  | .mapAperture .., _ => execMapAperture_keeps (.refl s) ..
  | .setTuningGapGap .., _ => execSetTuningGapGap_keeps (.refl s) ..
  | .setTuningGapAccept .., _ => execSetTuningGapAccept_keeps (.refl s) ..
  | .setTuningGapHold .., _ => execSetTuningGapHold_keeps (.refl s) ..
  | .syncCreateCreate .., _ => execSyncCreateCreate_keeps (.refl s) ..
  | .syncCreateRelease .., _ => execSyncCreateRelease_keeps (.refl s) ..
  | .syncCreateTakeOver .., _ => execSyncCreateTakeOver_keeps (.refl s) ..
  | .syncSignal .., _ => execSyncSignal_keeps (.refl s) ..
  | .syncDump .., _ => execSyncDump_keeps (.refl s) ..
  | .cfgWriteShadow .., _ => execCfgWriteShadow_keeps (.refl s) ..
  | .cfgSwap .., _ => execCfgSwap_keeps (.refl s) ..
  | .cfgSwapDrainedCalendar .., _ => execCfgSwapDrainedCalendar_keeps (.refl s) ..
  | .cfgSwapDrainedRouting .., _ => execCfgSwapDrainedRouting_keeps (.refl s) ..
  | .cfgStore .., _ => execCfgStore_keeps (.refl s) ..
  | .cfgRead .., _ => execCfgRead_keeps (.refl s) ..
  | .pstateSet .., _ => execPstateSet_keeps (.refl s) ..
  | .limitsRead .., _ => execLimitsRead_keeps (.refl s) ..
  | .regionSleep .., _ => execRegionSleep_keeps (.refl s) ..
  | .regionWake .., _ => execRegionWake_keeps (.refl s) ..
  | .fabJoin .., _ => execFabJoin_keeps (.refl s) ..
  | .fabLeave .., _ => execFabLeave_keeps (.refl s) ..
  | .routeLoadShadow .., _ => execRouteLoadShadow_keeps (.refl s) ..
  | .linkRoleSwap .., _ => execLinkRoleSwap_keeps (.refl s) ..
  | .fabStatus .., _ => execFabStatus_keeps (.refl s) ..
  | .ctrReadRead .., _ => execCtrReadRead_keeps (.refl s) ..
  | .ctrReadClear .., _ => execCtrReadClear_keeps (.refl s) ..
  | .ctrReadProgram .., _ => execCtrReadProgram_keeps (.refl s) ..
  | .ctrReadClampCopy .., _ => execCtrReadClampCopy_keeps (.refl s) ..
  | .traceStart .., _ => execTraceStart_keeps (.refl s) ..
  | .traceStop .., _ => execTraceStop_keeps (.refl s) ..
  | .digestArmArm .., _ => execDigestArmArm_keeps (.refl s) ..
  | .digestArmDisarm .., _ => execDigestArmDisarm_keeps (.refl s) ..
  | .digestArmRead .., _ => execDigestArmRead_keeps (.refl s) ..
  | .clampArmSet .., _ => execClampArmSet_keeps (.refl s) ..
  | .clampArmClamp .., _ => execClampArmClamp_keeps (.refl s) ..
  | .clampArmFabric .., _ => execClampArmFabric_keeps (.refl s) ..
  | .ashRead .., _ => execAshRead_keeps (.refl s) ..
  | .healthRead .., _ => execHealthRead_keeps (.refl s) ..
  | .spareSubst .., _ => execSpareSubst_keeps (.refl s) ..
  | .defectListRead .., _ => execDefectListRead_keeps (.refl s) ..
  | .fwUpdateStageWrite .., _ => execFwUpdateStageWrite_keeps (.refl s) ..
  | .fwUpdateStageDiscard .., _ => execFwUpdateStageDiscard_keeps (.refl s) ..
  | .fwUpdateStageAttest .., _ => execFwUpdateStageAttest_keeps (.refl s) ..
  | .fwUpdateStageCertificate .., _ => execFwUpdateStageCertificate_keeps (.refl s) ..
  | .fwActivateHeartwood .., _ => execFwActivateHeartwood_keeps (.refl s) ..
  | .fwActivateCordwood .., _ => execFwActivateCordwood_keeps (.refl s) ..
  | .cmdFetch .., _ => execCmdFetch_keeps (.refl s) ..
  | .sqTailWrite .., _ => execSqTailWrite_keeps (.refl s) ..
  | .cqHeadWrite .., _ => execCqHeadWrite_keeps (.refl s) ..
  | .fabricQueueFetch .., _ => execFabricQueueFetch_keeps (.refl s) ..
  | .fabricQueueRelease .., _ => execFabricQueueRelease_keeps (.refl s) ..
  | .apertureWrite .., _ => execApertureWrite_keeps (.refl s) ..
  | .apertureRead .., _ => execApertureRead_keeps (.refl s) ..
  | .perst .., _ => execPerst_keeps (.refl s) ..
  | .registerWrite .., _ => execRegisterWrite_keeps (.refl s) ..
  | .basePower .., _ => execBasePower_keeps (.refl s) ..
  | .clocksStart .., _ => execClocksStart_keeps (.refl s) ..
  | .train .., _ => execTrain_keeps (.refl s) ..
  | .sodTest .., _ => execSodTest_keeps (.refl s) ..
  | .loadHeartwood .., _ => execLoadHeartwood_keeps (.refl s) ..
  | .loadCordwood .., _ => execLoadCordwood_keeps (.refl s) ..
  | .cellsPower .., _ => execCellsPower_keeps (.refl s) ..
  | .stewardBroadcast .., _ => execStewardBroadcast_keeps (.refl s) ..
  | .queuesEnable .., _ => execQueuesEnable_keeps (.refl s) ..
  | .hwRecover .., _ => execHwRecover_keeps (.refl s) ..
  | .buResetModule .., _ => execBuResetModule_keeps (.refl s) ..
  | .buResetCompute .., _ => execBuResetCompute_keeps (.refl s) ..
  | .buResetDie .., _ => execBuResetDie_keeps (.refl s) ..
  | .buResetFirmware .., _ => execBuResetFirmware_keeps (.refl s) ..
  | .bringupStepTimeout .., _ => execBringupStepTimeout_keeps (.refl s) ..
  | .mirrorStatusRead .., _ => execMirrorStatusRead_keeps (.refl s) ..
  | .smbusBlockWrite .., _ => execSmbusBlockWrite_keeps (.refl s) ..
  | .coldReset .., _ => execColdReset_keeps (.refl s) ..
  | .moduleReset .., _ => execModuleReset_keeps (.refl s) ..
  | .computeReset .., _ => execComputeReset_keeps (.refl s) ..
  | .firmwareReset .., _ => execFirmwareReset_keeps (.refl s) ..
  | .bringupIslandRelease .., _ => execBringupIslandRelease_keeps (.refl s) ..
  | .peatXtalFail .., _ => execPeatXtalFail_keeps (.refl s) ..
  | .vauxLoss .., _ => execVauxLoss_keeps (.refl s) ..
  | .brownoutWarn .., _ => execBrownoutWarn_keeps (.refl s) ..
  | .brownoutClear .., _ => execBrownoutClear_keeps (.refl s) ..
  | .refclkLost .., _ => execRefclkLost_keeps (.refl s) ..
  | .refclkBack .., _ => execRefclkBack_keeps (.refl s) ..
  | .refclkSafeStop .., _ => execRefclkSafeStop_keeps (.refl s) ..
  | .throtNAssert .., _ => execThrotNAssert_keeps (.refl s) ..
  | .throtNRelease .., _ => execThrotNRelease_keeps (.refl s) ..
  | .clampInEdge .., _ => execClampInEdge_keeps (.refl s) ..
  | .clamp .., _ => execClamp_keeps (.refl s) ..
  | .matmul .., _ => execMatmul_keeps (.refl s) ..
  | .drain .., _ => execDrain_keeps (.refl s) ..
  | .vop .., _ => execVop_keeps (.refl s) ..
  | .vload .., _ => execVload_keeps (.refl s) ..
  | .vstore .., _ => execVstore_keeps (.refl s) ..
  | .rowcopy .., _ => execRowcopy_keeps (.refl s) ..
  | .ctlRead .., _ => execCtlRead_keeps (.refl s) ..
  | .ctlWrite .., _ => execCtlWrite_keeps (.refl s) ..
  | .rickRead .., _ => execRickRead_keeps (.refl s) ..
  | .wait .., _ => execWait_keeps (.refl s) ..
  | .signal .., _ => execSignal_keeps (.refl s) ..
  | .sread .., _ => execSread_keeps (.refl s) ..
  | .token .., _ => execToken_keeps (.refl s) ..
  | .lset .., _ => execLset_keeps (.refl s) ..
  | .ladd .., _ => execLadd_keeps (.refl s) ..
  | .lcopy .., _ => execLcopy_keeps (.refl s) ..
  | .djnz .., _ => execDjnz_keeps (.refl s) ..
  | .jmp .., _ => execJmp_keeps (.refl s) ..
  | .jz .., _ => execJz_keeps (.refl s) ..
  | .jltu .., _ => execJltu_keeps (.refl s) ..
  | .mark .., _ => execMark_keeps (.refl s) ..
  | .halt .., _ => execHalt_keeps (.refl s) ..
  | .haltComplete .., _ => execHaltComplete_keeps (.refl s) ..
  | .stepComplete .., _ => execStepComplete_keeps (.refl s) ..
  | .waitSatisfied .., _ => execWaitSatisfied_keeps (.refl s) ..
  | .get .., _ => execGet_keeps (.refl s) ..
  | .put .., _ => execPut_keeps (.refl s) ..
  | .getInd .., _ => execGetInd_keeps (.refl s) ..
  | .putInd .., _ => execPutInd_keeps (.refl s) ..
  | .aeSignal .., _ => execAeSignal_keeps (.refl s) ..
  | .aeWait .., _ => execAeWait_keeps (.refl s) ..
  | .schedRecv .., _ => execSchedRecv_keeps (.refl s) ..
  | .schedSend .., _ => execSchedSend_keeps (.refl s) ..
  | .aeEnd .., _ => execAeEnd_keeps (.refl s) ..
  | .aeActionComplete .., _ => execAeActionComplete_keeps (.refl s) ..
  | .aeSchedDeadline .., _ => execAeSchedDeadline_keeps (.refl s) ..
  | .opNack .., _ => execOpNack_keeps (.refl s) ..
  | .aeNackRetry .., _ => execAeNackRetry_keeps (.refl s) ..
  | .rampUpdate .., _ => execRampUpdate_keeps (.refl s) ..
  | .storeScrub .., _ => execStoreScrub_keeps (.refl s) ..
  | .logicFault .., _ => execLogicFault_keeps (.refl s) ..
  | .batchArmNotice .., _ => execBatchArmNotice_keeps (.refl s) ..
  | .batchCancelNotice .., _ => execBatchCancelNotice_keeps (.refl s) ..
  | .armDeadline .., _ => execArmDeadline_keeps (.refl s) ..
  | .batchStart .., _ => execBatchStart_keeps (.refl s) ..
  | .batchDone .., _ => execBatchDone_keeps (.refl s) ..
  | .frameLaunch .., _ => execFrameLaunch_keeps (.refl s) ..
  | .interstitialFrame .., _ => execInterstitialFrame_keeps (.refl s) ..
  | .billetReceive .., _ => execBilletReceive_keeps (.refl s) ..
  | .repairSend .., _ => execRepairSend_keeps (.refl s) ..
  | .repairHoldCheck .., _ => execRepairHoldCheck_keeps (.refl s) ..
  | .repairHoldEnd .., _ => execRepairHoldEnd_keeps (.refl s) ..
  | .dynamicFrameRequest .., _ => execDynamicFrameRequest_keeps (.refl s) ..
  | .dynamicGrant .., _ => execDynamicGrant_keeps (.refl s) ..
  | .dynamicFrameReceive .., _ => execDynamicFrameReceive_keeps (.refl s) ..
  | .dynamicResend .., _ => execDynamicResend_keeps (.refl s) ..
  | .carriageReceive .., _ => execCarriageReceive_keeps (.refl s) ..
  | .missingDuplicate .., _ => execMissingDuplicate_keeps (.refl s) ..
  | .syncPacketApply .., _ => execSyncPacketApply_keeps (.refl s) ..
  | .signalRefusalReceive .., _ => execSignalRefusalReceive_keeps (.refl s) ..
  | .swapAnnouncement .., _ => execSwapAnnouncement_keeps (.refl s) ..
  | .cfgSwapTakeEffect .., _ => execCfgSwapTakeEffect_keeps (.refl s) ..
  | .faultNotice .., _ => execFaultNotice_keeps (.refl s) ..
  | .bankMonitorSample .., _ => execBankMonitorSample_keeps (.refl s) ..
  | .lightHoldStart .., _ => execLightHoldStart_keeps (.refl s) ..
  | .lightHoldEnd .., _ => execLightHoldEnd_keeps (.refl s) ..
  | .bankWearSwap .., _ => execBankWearSwap_keeps (.refl s) ..
  | .ringLock .., _ => execRingLock_keeps (.refl s) ..
  | .channelSweep .., _ => execChannelSweep_keeps (.refl s) ..
  | .channelSweepEnd .., _ => execChannelSweepEnd_keeps (.refl s) ..
  | .tuningStarved .., _ => execTuningStarved_keeps (.refl s) ..
  | .tuningHoldStart .., _ => execTuningHoldStart_keeps (.refl s) ..
  | .tuningHoldEnd .., _ => execTuningHoldEnd_keeps (.refl s) ..
  | .patrolScrub .., _ => execPatrolScrub_keeps (.refl s) ..
  | .rowReplace .., _ => execRowReplace_keeps (.refl s) ..
  | .rowReplaceEnd .., _ => execRowReplaceEnd_keeps (.refl s) ..
  | .pcMigration .., _ => execPcMigration_keeps (.refl s) ..
  | .pcMigrationEnd .., _ => execPcMigrationEnd_keeps (.refl s) ..
  | .selfRefreshEnter .., _ => execSelfRefreshEnter_keeps (.refl s) ..
  | .selfRefreshExit .., _ => execSelfRefreshExit_keeps (.refl s) ..
  | .farDataGranule .., _ => execFarDataGranule_keeps (.refl s) ..
  | .completion .., _ => execCompletion_keeps (.refl s) ..
  | .ident .., _ => execIdent_keeps (.refl s) ..
  | .identAck .., _ => execIdentAck_keeps (.refl s) ..
  | .laneMapReq .., _ => execLaneMapReq_keeps (.refl s) ..
  | .laneMap .., _ => execLaneMap_keeps (.refl s) ..
  | .linkDown .., _ => execLinkDown_keeps (.refl s) ..
  | .identRepeat .., _ => execIdentRepeat_keeps (.refl s) ..
  | .sublinkRetrain .., _ => execSublinkRetrain_keeps (.refl s) ..
  | .farFrameResend .., _ => execFarFrameResend_keeps (.refl s) ..
  | .sublinkLoss .., _ => execSublinkLoss_keeps (.refl s) ..
  | .sublinkFailover .., _ => execSublinkFailover_keeps (.refl s) ..
  | .farUnitDown .., _ => execFarUnitDown_keeps (.refl s) ..
  | .farBilletWriteQueue .., _ => execFarBilletWriteQueue_keeps (.refl s) ..
  | .farBilletReadQueue .., _ => execFarBilletReadQueue_keeps (.refl s) ..
  | .load .., _ => execLoad_keeps (.refl s) ..
  | .store .., _ => execStore_keeps (.refl s) ..
  | .atomAdd .., _ => execAtomAdd_keeps (.refl s) ..
  | .atomMin .., _ => execAtomMin_keeps (.refl s) ..
  | .atomMax .., _ => execAtomMax_keeps (.refl s) ..
  | .atomCas .., _ => execAtomCas_keeps (.refl s) ..
  | .ack .., _ => execAck_keeps (.refl s) ..
  | .data .., _ => execData_keeps (.refl s) ..
  | .nack .., _ => execNack_keeps (.refl s) ..
  | .tomicOpTimeout .., _ => execTomicOpTimeout_keeps (.refl s) ..
  | .ceSubmit .., _ => execCeSubmit_keeps (.refl s) ..
  | .ceDescriptorStart .., _ => execCeDescriptorStart_keeps (.refl s) ..
  | .ceDescriptorComplete .., _ => execCeDescriptorComplete_keeps (.refl s) ..
  | .messageInboxStore .., _ => execMessageInboxStore_keeps (.refl s) ..
  | .linkFrameReceive .., _ => execLinkFrameReceive_keeps (.refl s) ..
  | .escapeMove .., _ => execEscapeMove_keeps (.refl s) ..
  | .channelLoss .., _ => execChannelLoss_keeps (.refl s) ..
  | .fibreFailed .., _ => execFibreFailed_keeps (.refl s) ..
  | .joinClaim .., _ => execJoinClaim_keeps (.refl s) ..
  | .founder .., _ => execFounder_keeps (.refl s) ..
  | .founderElection .., _ => execFounderElection_keeps (.refl s) ..
  | .joinReq .., _ => execJoinReq_keeps (.refl s) ..
  | .joinAccept .., _ => execJoinAccept_keeps (.refl s) ..
  | .leave .., _ => execLeave_keeps (.refl s) ..
  | .dupId .., _ => execDupId_keeps (.refl s) ..
  | .founderLost .., _ => execFounderLost_keeps (.refl s) ..
  | .roleSwapReq .., _ => execRoleSwapReq_keeps (.refl s) ..
  | .roleSwapAns .., _ => execRoleSwapAns_keeps (.refl s) ..
  | .pairDesc .., _ => execPairDesc_keeps (.refl s) ..
  | .pairDescSend .., _ => execPairDescSend_keeps (.refl s) ..
  | .fabricBilletReceive .., _ => execFabricBilletReceive_keeps (.refl s) ..
  | .inboundBilletMissing .., _ => execInboundBilletMissing_keeps (.refl s) ..
  | .timeRequest .., _ => execTimeRequest_keeps (.refl s) ..
  | .timeAnswer .., _ => execTimeAnswer_keeps (.refl s) ..
  | .fabricClampMessage _ uid _, _ => execFabricClampMessage_keeps (.refl s) _ uid _
  | .leaseExpiry .., _ => execLeaseExpiry_keeps (.refl s) ..
  | .orphanFree .., _ => execOrphanFree_keeps (.refl s) ..
  | .gateTableSwap .., _ => execGateTableSwap_keeps (.refl s) ..
  | .gateSettingsCommit .., _ => execGateSettingsCommit_keeps (.refl s) ..
  | .gateLease .., _ => execGateLease_keeps (.refl s) ..
  | .gateRegionPstate .., _ => execGateRegionPstate_keeps (.refl s) ..
  | .gateCellTableWrite .., _ => execGateCellTableWrite_keeps (.refl s) ..
  | .gateSpareSubst .., _ => execGateSpareSubst_keeps (.refl s) ..
  | .gateFirmware .., _ => execGateFirmware_keeps (.refl s) ..
  | .gateQueue .., _ => execGateQueue_keeps (.refl s) ..
  | .gateHealth .., _ => execGateHealth_keeps (.refl s) ..
  | .mgmtDeviation .., _ => execMgmtDeviation_keeps (.refl s) ..
  | .standbyJoin .., _ => execStandbyJoin_keeps (.refl s) ..
  | .duplexDisagree .., _ => execDuplexDisagree_keeps (.refl s) ..
  | .standbyPromote .., _ => execStandbyPromote_keeps (.refl s) ..
  | .pstateSwitch .., _ => execPstateSwitch_keeps (.refl s) ..
  | .throttleChange .., _ => execThrottleChange_keeps (.refl s) ..
  | .powerCeilingCheck .., _ => execPowerCeilingCheck_keeps (.refl s) ..
  | .marginSample .., _ => execMarginSample_keeps (.refl s) ..
  | .phaseOpen .., _ => execPhaseOpen_keeps (.refl s) ..
  | .phaseSenseCheck .., _ => execPhaseSenseCheck_keeps (.refl s) ..
  | .phaseShed .., _ => execPhaseShed_keeps (.refl s) ..
  | .kindlingStep .., _ => execKindlingStep_keeps (.refl s) ..
  | .thermalSample .., _ => execThermalSample_keeps (.refl s) ..
  | .thermalFallBoundary .., _ => execThermalFallBoundary_keeps (.refl s) ..
  | .thermalCeilingCheck .., _ => execThermalCeilingCheck_keeps (.refl s) ..
  | .thermistorSample .., _ => execThermistorSample_keeps (.refl s) ..
  | .spareStandbyTest .., _ => execSpareStandbyTest_keeps (.refl s) ..
  | .wearSubstitution .., _ => execWearSubstitution_keeps (.refl s) ..
  | .wearLogWrite .., _ => execWearLogWrite_keeps (.refl s) ..
  | .rickDataRead .., _ => execRickDataRead_keeps (.refl s) ..
  | .dropItem .., _ => execDropItem_keeps (.refl s) ..
  | .flush .., _ => execFlush_keeps (.refl s) ..
  | .snapArm .., _ => execSnapArm_keeps (.refl s) ..
  | .computeResetRelease .., _ => execComputeResetRelease_keeps (.refl s) ..
  | .pcieLinkUp .., _ => execPcieLinkUp_keeps (.refl s) ..
  | .bringupStepEnd, h => absurd rfl h
  | .bankCommit .., _ => execBankCommit_keeps (.refl s) ..
  | .drainWaitTimeout .., _ => execDrainWaitTimeout_keeps (.refl s) ..
  | .swapHoldStart .., _ => execSwapHoldStart_keeps (.refl s) ..
  | .swapHoldEnd .., _ => execSwapHoldEnd_keeps (.refl s) ..
  | .regionSafeState .., _ => execRegionSafeState_keeps (.refl s) ..
  | .farIdleFrame .., _ => execFarIdleFrame_keeps (.refl s) ..
  | .fecLock .., _ => execFecLock_keeps (.refl s) ..
  | .dynamicFrameAck .., _ => execDynamicFrameAck_keeps (.refl s) ..
  | .tuningGapEnd .., _ => execTuningGapEnd_keeps (.refl s) ..
  | .copyEngineFault .., _ => execCopyEngineFault_keeps (.refl s) ..
  | .roleSwapRetry .., _ => execRoleSwapRetry_keeps (.refl s) ..
  | .qualityWindow .., _ => execQualityWindow_keeps (.refl s) ..
  | .telemetrySample .., _ => execTelemetrySample_keeps (.refl s) ..

/-- Whatever the command, the state it answers keeps all that `Grows` lists. -/
theorem exec_grows {c : Instr} {s t : State} (h : exec c s = .next t) : Grows s t := by
  by_cases hc : c = .bringupStepEnd
  · subst hc
    exact execBringupStepEnd_grows s t h
  · exact ((exec_keeps s c hc).keeps t h).grows

/-- Whether a command waits or the block idles, a step keeps all that `Grows` lists, on the state without its front command. -/
theorem step_grows {s t : State} (h : step s = .next t) : Grows { s with pending := s.pending.tail } t := by
  unfold step at h
  split at h
  case h_1 hempty =>
    obtain rfl : s.idle = t := by simpa using h
    have hidle := (State.idle_keeps (.refl s)).grows
    exact { hidle with pending := by rw [hidle.pending, hempty]; rfl }
  case h_2 c rest hfront =>
    have htail : s.pending.tail = rest := by rw [hfront]; rfl
    rw [htail]
    exact exec_grows h

/-- Settles O41: the form of both memories and the range of the counters are among what every step keeps, and no waiting command
decides them. -/
theorem everyStepKeepsMemoryFormAndCounterRange : Obligations.EveryStepKeepsMemoryFormAndCounterRange := by
  unfold Obligations.EveryStepKeepsMemoryFormAndCounterRange
  rintro s t ⟨hmem, hhost⟩ hctrs hstep
  have hgrows := step_grows hstep
  exact ⟨⟨hgrows.mem hmem, hgrows.host hhost⟩, hgrows.ctrs hctrs⟩

/-- Settles O42: at reset both memories, the counters and the images are empty. -/
theorem resetMeetsTheInvariant : Obligations.ResetMeetsTheInvariant :=
  ⟨⟨Memory.wf_nil, Memory.wf_nil⟩, ⟨List.forall_mem_nil _, List.forall_mem_nil _⟩, rfl, rfl, rfl, rfl⟩

end Sys2Proof.Machine

/-!
# Changes of a sync counter (R236 to R238)

`State.addCtr` looks at the counter's value once `State.ctrRefusal` has nothing against the party. What it records besides (event counts,
trace records, notices) leaves the counters and the sync event log, which is said first, by `SyncKept`.
-/
namespace Sys2Proof.Machine

/-! ### The sync event log -/

/-- One element met by `keepLast`: it goes while too many match, and stays otherwise. -/
def keepStep {α : Type} (p : α → Bool) (acc : Nat × List α) (x : α) : Nat × List α :=
  if p x && decide (0 < acc.1) then (acc.1 - 1, acc.2) else (acc.1, acc.2 ++ [x])

theorem keepLast_eq_foldl {α : Type} (p : α → Bool) (n : Nat) (l : List α) :
    keepLast p n l = (l.foldl (keepStep p) ((l.filter p).length - n, [])).2 := rfl

/-- Each matching element takes one from the number still to go. -/
theorem keepStep_foldl_fst {α : Type} (p : α → Bool) (l : List α) (acc : Nat × List α) :
    (l.foldl (keepStep p) acc).1 = acc.1 - (l.filter p).length := by
  induction l generalizing acc with
  | nil => rfl
  | cons x l ih =>
    rw [List.foldl_cons, ih]
    by_cases hp : p x = true
    · by_cases hacc : 0 < acc.1
      · simp only [keepStep, hp, hacc, decide_true, Bool.and_self, if_true, List.filter_cons_of_pos, List.length_cons]
        omega
      · simp only [keepStep, hp, hacc, decide_false, Bool.and_false, Bool.false_eq_true, if_false, List.filter_cons_of_pos,
          List.length_cons]
        omega
    · simp [keepStep, hp]

/-- The newest element is kept. -/
theorem keepLast_append_getLast? {α : Type} (p : α → Bool) {n : Nat} (hn : 0 < n) (l : List α) (x : α) :
    (keepLast p n (l ++ [x])).getLast? = some x := by
  have hnone : (l.foldl (keepStep p) (((l ++ [x]).filter p).length - n, [])).1 = 0 := by
    have hone : ([x].filter p).length ≤ 1 := List.length_filter_le p [x]
    rw [keepStep_foldl_fst, List.filter_append, List.length_append]
    dsimp only
    omega
  rw [keepLast_eq_foldl, List.foldl_append, List.foldl_cons, List.foldl_nil, keepStep, hnone]
  simp

theorem State.logSync_getLast? (s : State) (e : SyncEvent) : (s.logSync e).syncLog.getLast? = some e :=
  keepLast_append_getLast? _ (by decide) _ _

/-! ### What leaves the counters and their log -/

/-- The sync counters and the sync event log stay. -/
structure SyncKept (s t : State) : Prop where
  ctrs : t.ctrs = s.ctrs
  log : t.syncLog = s.syncLog

theorem SyncKept.refl (s : State) : SyncKept s s := ⟨rfl, rfl⟩

theorem SyncKept.trans {s t u : State} (h : SyncKept s t) (h' : SyncKept t u) : SyncKept s u :=
  ⟨h'.ctrs.trans h.ctrs, h'.log.trans h.log⟩

theorem SyncKept.foldl {α : Type} {f : State → α → State} (hf : ∀ v a, SyncKept v (f v a)) (l : List α) (s : State) :
    SyncKept s (l.foldl f s) := by
  induction l generalizing s with
  | nil => exact .refl s
  | cons a l ih => exact (hf s a).trans (ih _)

theorem SyncKept.ctr {s t : State} (h : SyncKept s t) (k : Nat) : t.ctr k = s.ctr k := by
  rw [State.ctr, State.ctr, h.ctrs]

theorem SyncKept.ite {s t u : State} {c : Prop} [Decidable c] (h : SyncKept s t) (h' : SyncKept s u) :
    SyncKept s (if c then t else u) := by
  split <;> assumption

theorem State.storeSite_syncKept (s : State) (m off : Nat) (bs : Bytes) (poison : Bool) : SyncKept s (s.storeSite m off bs poison) :=
  .ite ⟨rfl, rfl⟩ ⟨rfl, rfl⟩

theorem State.traceInto_syncKept (s : State) (t : Nat) (x : TraceSt) (r : TraceRec) : SyncKept s (s.traceInto t x r) := by
  have hstored : ∀ (m off : Nat) (o : ObsSt), SyncKept s { s.storeSite m off (traceBytes r) false with obs := o } := fun m off _ =>
    ⟨(s.storeSite_syncKept m off _ _).ctrs, (s.storeSite_syncKept m off _ _).log⟩
  unfold State.traceInto
  refine .ite (.refl s) ?_
  split
  · exact .ite (hstored _ _ _) (.ite (hstored _ _ _) ⟨rfl, rfl⟩)
  · exact ⟨rfl, rfl⟩

theorem State.trace_syncKept (s : State) (r : TraceRec) : SyncKept s (s.trace r) := by
  have hring : SyncKept s { s with obs := { s.obs with
    traceRing := keepLast (fun x => x.producer == r.producer) 1024 (s.obs.traceRing ++ [r]) } } := ⟨rfl, rfl⟩
  exact hring.trans (.foldl (fun v (x : Nat × TraceSt) => v.traceInto_syncKept x.1 x.2 r) _ _)

theorem State.notice_syncKept (s : State) (q prio code : Nat) (words : List (BitVec 128)) :
    SyncKept s (s.notice q prio code words) :=
  .ite ⟨rfl, rfl⟩ ⟨rfl, rfl⟩

theorem State.noticeTurf_syncKept (s : State) (t prio code : Nat) (words : List (BitVec 128)) :
    SyncKept s (s.noticeTurf t prio code words) :=
  .foldl (fun v q => v.notice_syncKept q prio code words) _ _

/-- Whoever owns the counter, a notice to its owner is no change of a counter. -/
theorem State.ownerNotice_syncKept (s : State) (k prio cellCode queueCode : Nat) (word : BitVec 128) :
    SyncKept s (s.ownerNotice k prio cellCode queueCode word) := by
  unfold State.ownerNotice
  cases s.ctrOwner k with
  | free => exact .refl s
  | cell => exact ⟨rfl, rfl⟩
  | image t => exact s.noticeTurf_syncKept ..
  | leased q t => exact s.notice_syncKept ..
  | orphan t => exact .refl s
  | system t => exact ⟨rfl, rfl⟩

theorem State.countRefusal_syncKept (s : State) (k turf : Nat) : SyncKept s (s.countRefusal (.ctr k) turf) :=
  .ite ⟨rfl, rfl⟩ ⟨rfl, rfl⟩

/-- Counting an event of a quadrant's counters, where the counter is one of those, sets observation registers alone. -/
theorem State.countQuadrant_eq_obs (s : State) (k index : Nat) :
    ∃ o : ObsSt, (if k < 65536 then s.bump 5 (k / 16384) index 1 else s) = { s with obs := o } := by
  split
  · exact ⟨_, rfl⟩
  · exact ⟨s.obs, rfl⟩

theorem State.countQuadrant_syncKept (s : State) (k index : Nat) :
    SyncKept s (if k < 65536 then s.bump 5 (k / 16384) index 1 else s) :=
  .ite ⟨rfl, rfl⟩ (.refl s)

/-! ### Refusal and underflow -/

/-- A refused change leaves every counter. -/
theorem State.refuseChange_ctr (s : State) (k amount status : Nat) (overflow : Bool) (p : Party) (j : Nat) :
    (s.refuseChange k amount status overflow p).ctr j = s.ctr j := by
  have hdenied : SyncKept s (if status = stDenied then s.countRefusal (.ctr k) p.turf else s) :=
    .ite (s.countRefusal_syncKept k p.turf) (.refl s)
  have hcounted : ∀ u : State, SyncKept u (if k < 65536 then u.bump 5 (k / 16384) 3 1
      else u.tally (.signalRefused ((k - 65536) / 64 / 256)) 1) := fun u => .ite ⟨rfl, rfl⟩ ⟨rfl, rfl⟩
  exact ((State.trace_syncKept _ _).ctr j).trans ((hdenied.trans (hcounted _)).ctr j)

section Underflow

variable (s : State) (k amount : Nat) (p : Party) (status : Nat)

/-- The event an underflow enters in the log (R238, R260). -/
def State.underflowEvent : SyncEvent :=
  { gtc := s.now, addr := s.ctrAddr k, event := 1, status := BitVec.ofNat 8 status, signaller := p.who
    remote := p.remote, amount := BitVec.ofNat 32 amount, epoch := BitVec.ofNat 32 p.epoch }

/-- Once the event is in the log and the counter's flag is set, only an event count and the owner's notice follow (R238). -/
theorem State.underflow_syncKept :
    SyncKept ((s.logSync (s.underflowEvent k amount p status)).modCtr k (fun c => { c with underflowSeen := true }))
      (s.underflow k amount p status) :=
  (State.countQuadrant_syncKept _ k 2).trans (State.ownerNotice_syncKept _ _ _ _ _ _)

/-- An underflow leaves the counter's value. -/
theorem State.underflow_value : ((s.underflow k amount p status).ctr k).value = (s.ctr k).value := by
  rw [(s.underflow_syncKept k amount p status).ctr, State.modCtr_self]
  rfl

/-- The newest entry of the log is the underflow's. -/
theorem State.underflow_getLast? :
    (s.underflow k amount p status).syncLog.getLast? = some (s.underflowEvent k amount p status) := by
  rw [(s.underflow_syncKept k amount p status).log]
  exact s.logSync_getLast? _

end Underflow

/-! ### A change that the counter does not refuse beforehand -/

section Changes

variable {s : State} {k : Nat} {delta : Int} {p : Party}

/-- A result above the range refuses the change as an overflow (R237). -/
theorem State.addCtr_above (hok : s.ctrRefusal k delta p = none) (hover : 2 ^ 31 - 1 < ((s.ctr k).value : Int) + delta) :
    s.addCtr k delta p = (s.refuseChange k delta.natAbs stBadArg true p, stBadArg) := by
  have hpos : ¬ ((s.ctr k).value : Int) + delta < 0 := by omega
  simp only [State.addCtr, hok, if_neg hpos, if_pos hover]

/-- A result in the range is stored (R236). -/
theorem State.addCtr_inRange (hok : s.ctrRefusal k delta p = none) (hlo : 0 ≤ ((s.ctr k).value : Int) + delta)
    (hhi : ((s.ctr k).value : Int) + delta ≤ 2 ^ 31 - 1) :
    (s.addCtr k delta p).2 = stOk ∧ (((s.addCtr k delta p).1.ctr k).value : Int) = (s.ctr k).value + delta := by
  simp only [State.addCtr, hok, if_neg (Int.not_lt.mpr hlo), if_neg (Int.not_lt.mpr hhi), true_and]
  rw [(State.trace_syncKept _ _).ctr, (State.countQuadrant_syncKept _ _ _).ctr, State.modCtr_self]
  exact Int.toNat_of_nonneg hlo

/-- A result below 0 leaves the value, and is entered in the log as an underflow (R238). -/
theorem State.addCtr_below (hok : s.ctrRefusal k delta p = none) (hunder : ((s.ctr k).value : Int) + delta < 0) :
    (s.addCtr k delta p).2 = stBadArg ∧ ((s.addCtr k delta p).1.ctr k).value = (s.ctr k).value
      ∧ ∃ e : SyncEvent, (s.addCtr k delta p).1.syncLog.getLast? = some e ∧ e.event = 1 ∧ e.addr = s.ctrAddr k := by
  simp only [State.addCtr, hok, if_pos hunder, true_and]
  obtain ⟨o, ho⟩ := s.countQuadrant_eq_obs k 3
  rw [ho, (State.trace_syncKept _ _).ctr, (State.trace_syncKept _ _).log]
  exact ⟨State.underflow_value _ k _ p _, _, State.underflow_getLast? _ k _ p _, rfl, rfl⟩

end Changes

/-- Settles O46: a signal that the counter does not refuse beforehand and that would carry it above the range is refused as an overflow. -/
theorem signalBeyondTheRangeIsRefused : Obligations.SignalBeyondTheRangeIsRefused := by
  unfold Obligations.SignalBeyondTheRangeIsRefused
  intro s k n p hok hover
  rw [State.addCtr_above hok (by omega)]
  exact ⟨rfl, s.refuseChange_ctr k _ _ _ p k⟩

/-- Settles O47: a result that is neither above the range nor below it is stored, and one below it is an underflow. -/
theorem counterChangesAreExact : Obligations.CounterChangesAreExact := by
  unfold Obligations.CounterChangesAreExact
  intro s k n p
  refine ⟨fun hok hhi => ?signal, fun hok hle hhi => ?decrement, fun hok hlt => State.addCtr_below hok (by omega)⟩
  case signal => exact (State.addCtr_inRange hok (by omega) (by omega)).imp_right fun hvalue => by omega
  case decrement => exact (State.addCtr_inRange hok (by omega) (by omega)).imp_right fun hvalue => by omega

end Sys2Proof.Machine

/-!
# Sync commands, signals on arrival, and terms (R242 to R247, R253 to R260, R546)

A sync command that may start passes the checks of its row and takes one path; an arriving packet goes by its kind, by the counter it
names and by the module it comes from; a due term or orphan goes by the owner of its counter.
-/
namespace Sys2Proof.Machine

/-! ### SYNC_CREATE, SYNC_SIGNAL and SYNC_DUMP -/

section SyncCommands

variable {s u : State} {q : QueueIx} {slot : SlotIx} {a : Accepted} {k : Nat}

/-- SYNC_CREATE mode 0 leases the lowest free counter, with the value and the term given (R257). -/
theorem exec_syncCreateCreate_leases (hready : s.ready q slot 0x0300 a) (hu : u = s.beginCmd a) (hmode : sqArg a.entry 0 = 0)
    (hvalue : sqArg a.entry 1 < 2 ^ 31) (hterm : termOk (sqArg a.entry 2) = true) (hzero : sqArg a.entry 3 = 0)
    (hquota : u.syncHeld (u.queue a.q).turf < syncQuota u.turfMap (u.queue a.q).turf) (hfree : u.lowestFree = some k) :
    exec (.syncCreateCreate q slot) s =
      .next ((u.modCtr k (fun c => { c with
        value := sqArg a.entry 1, owner := .leased a.q (u.queue a.q).turf, everLeased := true, termUs := termOf (sqArg a.entry 2)
        renewed := u.now, changed := u.now, changedSinceArm := true })).done a (k + (u.ctr k).epoch * 2 ^ 32)) := by
  change execSyncCreateCreate q slot s = _
  have hgood : ¬ (2 ^ 31 ≤ sqArg a.entry 1 ∨ (!termOk (sqArg a.entry 2)) = true ∨ sqArg a.entry 3 ≠ 0) := by
    simpa [hterm, hzero] using hvalue
  simp only [execSyncCreateCreate, State.withCmd_ready hready (sel := fun w => sqArg w 0 == 0) (beq_iff_eq.mpr hmode), ← hu,
    if_neg hgood, if_neg (Nat.not_le.mpr hquota), hfree, State.modCtr_self]

/-- SYNC_CREATE mode 1 revokes the lease and frees the counter at once (R255, R257). -/
theorem exec_syncCreateRelease_frees (hready : s.ready q slot 0x0300 a) (hu : u = s.beginCmd a) (hmode : sqArg a.entry 0 = 1)
    (hok : u.leaseRefusal a true = none) :
    exec (.syncCreateRelease q slot) s = .next (((u.revokeCtr (sqArg a.entry 1)).freeCtr (sqArg a.entry 1)).done a 0) := by
  change execSyncCreateRelease q slot s = _
  simp only [execSyncCreateRelease, State.withCmd_ready hready (sel := fun w => sqArg w 0 == 1) (beq_iff_eq.mpr hmode), ← hu, hok]

/-- SYNC_CREATE mode 2 raises the epoch and moves the counter to the queue's turf, whose quota the counter counts in already or which has
room for it (R257, R546). -/
theorem exec_syncCreateTakeOver_moves (hready : s.ready q slot 0x0300 a) (hu : u = s.beginCmd a) (hmode : sqArg a.entry 0 = 2)
    (hctr : sqArg a.entry 1 = k) (hok : u.leaseRefusal a false = none)
    (hroom : u.ctrTurf k = some (u.queue a.q).turf ∨ u.syncHeld (u.queue a.q).turf < syncQuota u.turfMap (u.queue a.q).turf) :
    exec (.syncCreateTakeOver q slot) s =
      .next ((u.modCtr k (fun c => { c with
        epoch := nextEpoch (u.ctr k).epoch, owner := .leased a.q (u.queue a.q).turf, termUs := termOf (sqArg a.entry 2)
        renewed := u.now })).done a (k + nextEpoch (u.ctr k).epoch * 2 ^ 32)) := by
  change execSyncCreateTakeOver q slot s = _
  have hfits : ¬ (u.ctrTurf k ≠ some (u.queue a.q).turf
      ∧ syncQuota u.turfMap (u.queue a.q).turf ≤ u.syncHeld (u.queue a.q).turf) := by
    rcases hroom with hown | hfew
    · exact fun h => h.1 hown
    · exact fun h => Nat.not_le.mpr hfew h.2
  simp only [execSyncCreateTakeOver, State.withCmd_ready hready (sel := fun w => sqArg w 0 == 2) (beq_iff_eq.mpr hmode), ← hu, hok,
    hctr, if_neg hfits]

/-- SYNC_SIGNAL sends its packet through the edge group of its turf's service core, and waits for the outcome (R258). -/
theorem exec_syncSignal_sends {oep : Nat} (hready : s.ready q slot 0x0301 a) (hu : u = s.beginCmd a)
    (hoep : oep = s.batchOep (s.queue q).turf) (hroom : s.protRoom oep = true) (hsome : 1 ≤ sqArg a.entry 1)
    (hamount : sqArg a.entry 1 < 2 ^ 31) (hepoch : sqArg a.entry 2 < 2 ^ 32)
    (hgood : u.signalBad (u.queue a.q).turf (sqArg a.entry 0) = false) :
    exec (.syncSignal q slot) s =
      .next (u.sendSignal oep (u.queue a.q).turf (sqArg a.entry 0) (sqArg a.entry 1) (sqArg a.entry 2) (queueParty a.q)) := by
  change execSyncSignal q slot s = _
  have hfields : ¬ (sqArg a.entry 1 = 0 ∨ 2 ^ 31 ≤ sqArg a.entry 1 ∨ 2 ^ 32 ≤ sqArg a.entry 2) := by omega
  simp only [execSyncSignal, ← hoep, hroom, State.withCmd_ready hready (sel := fun _ => true) rfl, ← hu, if_neg hfields, hgood,
    Bool.not_true, Bool.false_eq_true, if_false]

/-- SYNC_DUMP captures the counters of a turf, or for turf 0 of every turf, and answers the length of the section and the record (R259). -/
theorem exec_syncDump_captures {r : Nat × State} (hready : s.ready q slot 0x0302 a) (hu : u = s.beginCmd a)
    (hallowed : sqTurf a.entry ≠ 0 ∨ (u.queue a.q).turf = 0) (hr : r = u.dumpCapture (sqTurf a.entry)) :
    exec (.syncDump q slot) s =
      .next (r.2.done a ((u.syncSection (decide (sqTurf a.entry = 0)) (sqTurf a.entry)).length + r.1 * 2 ^ 32)) := by
  change execSyncDump q slot s = _
  have hgood : ¬ (sqTurf a.entry = 0 ∧ (u.queue a.q).turf ≠ 0) := by omega
  simp only [execSyncDump, State.withCmd_ready hready (sel := fun _ => true) rfl, ← hu, if_neg hgood, ← hr]

end SyncCommands

/-- Settles O9: each clause is the path of its row on which every check passes. -/
theorem syncCommandsComplete : Obligations.SyncCommandsComplete := by
  unfold Obligations.SyncCommandsComplete
  intro s q slot u a hu
  exact ⟨fun _ hready => exec_syncCreateCreate_leases hready hu, fun hready => exec_syncCreateRelease_frees hready hu,
    fun _ hready => exec_syncCreateTakeOver_moves hready hu, fun _ hready => exec_syncSignal_sends hready hu,
    fun _ hready => exec_syncDump_captures hready hu⟩

/-! ### Sync packets on arrival (R245 to R247) -/

section SyncPackets

variable {s : State} {arg : Word} {addr : DWord} {k : Nat}

/-- A signal from within the module is applied with the turf that its signaller has (R323). -/
theorem exec_syncPacketApply_local (hkind : bits addr.toNat 19 18 = 0) (hctr : s.packetCtr addr = some k)
    (hlocal : addr.toNat.testBit 17 = false) :
    exec (.syncPacketApply arg addr) s =
      .next (s.applySignal k (arg.toNat % 2 ^ 31) {
        who := BitVec.ofNat 16 addr.toNat, epoch := bits addr.toNat 31 20, turf := s.signallerTurf (BitVec.ofNat 16 addr.toNat) addr }
        addr) := by
  change execSyncPacketApply arg addr s = _
  simp only [execSyncPacketApply, State.syncApply, hkind, hctr, hlocal, Bool.false_eq_true, if_true, if_false]

/-- A signal from another module is applied for a turf that is drawn (log entry 123). -/
theorem exec_syncPacketApply_remote (hkind : bits addr.toNat 19 18 = 0) (hctr : s.packetCtr addr = some k)
    (hremote : addr.toNat.testBit 17 = true) :
    exec (.syncPacketApply arg addr) s =
      .next (s.draw.2.applySignal k (arg.toNat % 2 ^ 31) {
        who := BitVec.ofNat 16 addr.toNat, remote := true, epoch := bits addr.toNat 31 20, turf := s.draw.1.toNat % 64 } addr) := by
  change execSyncPacketApply arg addr s = _
  simp only [execSyncPacketApply, State.syncApply, hkind, hctr, hremote, if_true]

/-- A signal that names no counter is lost (R22, R246). -/
theorem exec_syncPacketApply_lost (hkind : bits addr.toNat 19 18 = 0) (hnone : s.packetCtr addr = none) :
    exec (.syncPacketApply arg addr) s =
      .next (s.signalLost (arg.toNat % 2 ^ 31) (addr.toNat.testBit 17) (BitVec.ofNat 16 addr.toNat) addr) := by
  change execSyncPacketApply arg addr s = _
  simp only [execSyncPacketApply, State.syncApply, hkind, hnone, if_true]

/-- The refusal of a signal that no cell sent ends that signal at its unit (R246). -/
theorem exec_signalRefusalReceive_unit (hkind : bits addr.toNat 19 18 = 1) (hunit : addr.toNat % 2 ^ 16 / 2 ^ 14 ≠ 0) :
    exec (.signalRefusalReceive arg addr) s =
      .next (s.signalDone (BitVec.ofNat 16 addr.toNat) none (signalOf addr) (arg.toNat % 256)) := by
  change execSignalRefusalReceive arg addr s = _
  simp only [execSignalRefusalReceive, State.refusalArrives, hkind, if_true]

/-- The refusal of a cell's signal reaches the cell (R246). -/
theorem exec_signalRefusalReceive_cell (hkind : bits addr.toNat 19 18 = 1) (hcell : addr.toNat % 2 ^ 16 / 2 ^ 14 = 0) :
    exec (.signalRefusalReceive arg addr) s =
      .next (s.refuseToCell (addr.toNat % 2 ^ 16 % 4096) (addr.toNat % 2 ^ 16 / 4096 % 4) (arg.toNat % 256)
        (s.ctrAddr ((s.packetCtr addr).getD 0)) (s.ctr ((s.packetCtr addr).getD 0)).epoch 0 0) := by
  change execSignalRefusalReceive arg addr s = _
  simp only [execSignalRefusalReceive, State.refusalArrives, hkind, hcell, if_true]

end SyncPackets

/-! ### Terms and orphans (R254 to R256, R345) -/

section Terms

variable {s u : State} {now : Nat}

/-- An orphan of 1 s is freed (R255). -/
theorem exec_orphanFree_due {k : Fin 65536} {t : Nat} (hu : u = s.at_ now) (howner : (u.ctr k).owner = .orphan t)
    (hdue : (u.ctr k).orphanAt + 1000000000 ≤ u.now) : exec (.orphanFree k now) s = .next (u.freeCtr k) := by
  change execOrphanFree k now s = _
  simp only [execOrphanFree, ← hu, howner, if_pos hdue]

/-- A younger orphan stays. -/
theorem exec_orphanFree_early {k : Fin 65536} {t : Nat} (hu : u = s.at_ now) (howner : (u.ctr k).owner = .orphan t)
    (hearly : u.now < (u.ctr k).orphanAt + 1000000000) : exec (.orphanFree k now) s = .next u := by
  change execOrphanFree k now s = _
  simp only [execOrphanFree, ← hu, howner, if_neg (Nat.not_le.mpr hearly)]

end Terms

/-- Settles O10: each clause is one path of its row, and the check of the terms is made where nothing holds control actions. The turf of
a signal from another module is a free value (log entry 123). -/
theorem syncArrivalsAndTermsComplete : Obligations.SyncArrivalsAndTermsComplete := by
  unfold Obligations.SyncArrivalsAndTermsComplete
  intro s
  refine ⟨fun _ _ _ => exec_syncPacketApply_local,
    fun _ _ _ hkind hctr hremote => ⟨_, exec_syncPacketApply_remote hkind hctr hremote⟩,
    fun _ _ => exec_syncPacketApply_lost, fun _ _ => exec_signalRefusalReceive_unit, fun _ _ => exec_signalRefusalReceive_cell,
    fun now v w hv hfree hw => ?expiry, fun _ _ _ => exec_orphanFree_due rfl, fun _ _ _ => exec_orphanFree_early rfl⟩
  case expiry =>
    subst hv hw
    exact if_neg (Bool.eq_false_iff.mp hfree)

end Sys2Proof.Machine

/-!
# Writes and integer atomics at the module's own memory (R214, R268, R269)

A write that is performed puts its bytes at one key of `State.mem` and touches nothing that an address is resolved by, so a read of the same
address finds them there; every other byte follows from the rule of `memWrite`. The integer atomics are stated for words of any width and
then read at INT32 and INT64.
-/
namespace Sys2Proof.Machine

section OwnWrites

variable {s t : State} {a m o c l : Nat} {bs : Bytes}

/-! ### Writes (R214, R269) -/

/-- A write of memory moves no address. -/
@[simp] theorem State.poke_resolve (s : State) (key : Nat) (bs : Bytes) (a : Nat) : (s.poke key bs).resolve a = s.resolve a := rfl

/-- A write of memory wakes no region. -/
@[simp] theorem State.poke_cellAwake (s : State) (key : Nat) (bs : Bytes) (c : Nat) : (s.poke key bs).cellAwake c = s.cellAwake c := rfl

@[simp] theorem State.storeSite_resolve (s : State) (m o : Nat) (bs : Bytes) (poison : Bool) (a : Nat) :
    (s.storeSite m o bs poison).resolve a = s.resolve a := by
  unfold State.storeSite
  split <;> rfl

@[simp] theorem State.storeSite_hostMem (s : State) (m o : Nat) (bs : Bytes) (poison : Bool) :
    (s.storeSite m o bs poison).hostMem = s.hostMem := by
  unfold State.storeSite
  split <;> rfl

/-- A write to a site that a reset holds waits behind those already waiting (R214). -/
theorem State.storeSite_held (poison : Bool) (hheld : (s.site m).heldRefresh = true) :
    s.storeSite m o bs poison = { s with siteWaits := s.siteWaits ++ [(siteKey m o, bs, poison)] } := if_pos hheld

/-- A write to a site that no reset holds is performed at once. -/
theorem State.storeSite_mem (poison : Bool) (hfree : (s.site m).heldRefresh = false) :
    (s.storeSite m o bs poison).mem = memWrite s.mem (siteKey m o) bs := by
  rw [State.storeSite, if_neg (Bool.eq_false_iff.mp hfree)]
  rfl

theorem State.readPiece_store (n : Nat) (hloc : s.resolve a = some (.store c l)) (hawake : s.cellAwake c = true) :
    (s.readPiece a n).map (fun r => r.1) = some (memRead s.mem (storeKey c l) n) := by
  simp [State.readPiece, hloc, hawake]

theorem State.readPiece_site (n : Nat) (hloc : s.resolve a = some (.site m o)) :
    (s.readPiece a n).map (fun r => r.1) = some (memRead s.mem (siteKey m o) n) := by
  simp [State.readPiece, hloc]

/-- A write that is taken is one of a cell's store in an awake region, or one of a site. -/
theorem State.writePiece_cases (h : s.writePiece a bs false = (t, true)) :
    (∃ c l, s.resolve a = some (.store c l) ∧ s.cellAwake c = true ∧ t = s.poke (storeKey c l) bs) ∨
    (∃ m o, s.resolve a = some (.site m o) ∧ t = s.storeSite m o bs false) := by
  unfold State.writePiece at h
  split at h
  next c l hloc =>
    split at h
    next hawake => exact .inl ⟨c, l, hloc, hawake, (Prod.mk.inj h).1.symm⟩
    next => simp at h
  next m o hloc => exact .inr ⟨m, o, hloc, (Prod.mk.inj h).1.symm⟩
  next => simp at h

/-- What was written is read back where no reset holds the site. -/
theorem State.readPiece_writePiece (hwf : Memory.wf s.mem = true) (h : s.writePiece a bs false = (t, true))
    (hfree : ∀ m o, s.resolve a = some (.site m o) → (s.site m).heldRefresh = false) :
    (t.readPiece a bs.length).map (fun r => r.1) = some bs := by
  obtain ⟨c, l, hloc, hawake, rfl⟩ | ⟨m, o, hloc, rfl⟩ := State.writePiece_cases h
  · rw [State.readPiece_store _ (by rwa [State.poke_resolve]) (by rwa [State.poke_cellAwake])]
    exact congrArg some (memRead_memWrite hwf)
  · rw [State.readPiece_site _ (by rwa [State.storeSite_resolve]), State.storeSite_mem false (hfree m o hloc), memRead_memWrite hwf]

/-- A write to a held site is taken, and waits (R214). -/
theorem State.writePiece_held (hloc : s.resolve a = some (.site m o)) (hheld : (s.site m).heldRefresh = true) :
    s.writePiece a bs false = ({ s with siteWaits := s.siteWaits ++ [(siteKey m o, bs, false)] }, true) := by
  simp [State.writePiece, hloc, State.storeSite_held false hheld]

/-- A write leaves every byte outside its range, whether it is performed or waits. -/
theorem State.writePiece_frame {k x : Nat} (hwf : Memory.wf s.mem = true) (h : s.writePiece a bs false = (t, true))
    (hkey : s.pieceKey a = some k) (hout : x < k ∨ k + bs.length ≤ x) :
    memGet t.mem x = memGet s.mem x ∧ t.hostMem = s.hostMem := by
  obtain ⟨c, l, hloc, -, rfl⟩ | ⟨m, o, hloc, rfl⟩ := State.writePiece_cases h
  · obtain rfl : storeKey c l = k := by simpa [State.pieceKey, hloc] using hkey
    exact ⟨memGet_memWrite_of_not_mem hwf hout, rfl⟩
  · obtain rfl : siteKey m o = k := by simpa [State.pieceKey, hloc] using hkey
    refine ⟨?_, State.storeSite_hostMem ..⟩
    cases hheld : (s.site m).heldRefresh
    case false => rw [State.storeSite_mem false hheld, memGet_memWrite_of_not_mem hwf hout]
    case true => rw [State.storeSite_held false hheld]

end OwnWrites

/-- Settles O50: a performed write stands at its key of the memory, and one to a held site waits (log entry 116). -/
theorem writtenBytesReadBack : Obligations.WrittenBytesReadBack := by
  unfold Obligations.WrittenBytesReadBack
  exact fun s t a bs => ⟨State.readPiece_writePiece, fun m o => State.writePiece_held, fun k x => State.writePiece_frame⟩

/-! ### Integer atomics (R268) -/

/-- The model's signed reading of a word is that of a bit vector. -/
theorem signed_toNat {n : Nat} (x : BitVec n) : signed n x.toNat = x.toInt := by
  cases n with
  | zero => simp [signed, BitVec.toInt_zero_length, Nat.mod_one]
  | succ n =>
    have hhalf : x.toNat < 2 ^ n ↔ 2 * x.toNat < 2 ^ (n + 1) := by rw [Nat.pow_succ]; omega
    simp only [signed, BitVec.toInt_eq_toNat_cond, Nat.mod_eq_of_lt x.isLt, Nat.add_sub_cancel, hhalf]

section IntegerAtomics

variable {p : Packet} {w : Nat} (hint : p.otype = 0 ∨ p.otype = 1) (hw : 8 * otypeBytes p.otype = w) (old : Nat)
include hint hw

/-- An add wraps. -/
theorem atomValue_add_integer (hop : p.op = 0x10) :
    atomValue p old = ((BitVec.ofNat w old + BitVec.ofNat w p.operand.toNat).toNat, 0) := by
  simp only [atomValue, hop, hw]
  obtain hty | hty := hint <;> simp [hty]

/-- A minimum compares signed words. -/
theorem atomValue_min_integer (hop : p.op = 0x11) :
    atomValue p old = ((if (BitVec.ofNat w p.operand.toNat).slt (BitVec.ofNat w old) then BitVec.ofNat w p.operand.toNat
      else BitVec.ofNat w old).toNat, 0) := by
  simp only [atomValue, hop, hw, ← BitVec.toNat_ofNat, signed_toNat, apply_ite BitVec.toNat, BitVec.slt_iff_toInt_lt]
  obtain hty | hty := hint <;> simp [hty]

/-- A maximum compares signed words. -/
theorem atomValue_max_integer (hop : p.op = 0x12) :
    atomValue p old = ((if (BitVec.ofNat w old).slt (BitVec.ofNat w p.operand.toNat) then BitVec.ofNat w p.operand.toNat
      else BitVec.ofNat w old).toNat, 0) := by
  simp only [atomValue, hop, hw, ← BitVec.toNat_ofNat, signed_toNat, apply_ite BitVec.toNat, BitVec.slt_iff_toInt_lt]
  obtain hty | hty := hint <;> simp [hty]

end IntegerAtomics

/-- The bits of a word's value are those of the field that stands there. -/
theorem bits_toNat {n : Nat} (x : BitVec n) (hi lo : Nat) : bits x.toNat hi lo = (x.extractLsb' lo (hi + 1 - lo)).toNat := by
  simp [bits, BitVec.extractLsb'_toNat, Nat.shiftRight_eq_div_pow]

/-- A compare-and-swap of 64-bit words writes the upper half of its operand exactly where the old word equals the lower half. -/
theorem atomValue_cas_int64 {p : Packet} (y : BitVec 64) (hop : p.op = 0x13) (hint : p.otype = 1) :
    atomValue p y.toNat = ((if y = p.operand.extractLsb' 0 64 then p.operand.extractLsb' 64 64 else y).toNat, 0) := by
  simp only [atomValue, hop, hint, show 8 * otypeBytes 1 = 64 from rfl, Nat.mod_eq_of_lt y.isLt, bits_toNat, BitVec.toNat_inj,
    apply_ite BitVec.toNat]

/-- Settles O49: the add, the minimum and the maximum of integers of any width, read at INT32, and the compare-and-swap of INT64. -/
theorem integerAtomicsAreExact : Obligations.IntegerAtomicsAreExact := by
  unfold Obligations.IntegerAtomicsAreExact
  intro p x
  have hint32 (hty : p.otype = 0) : 8 * otypeBytes p.otype = 32 := by rw [hty]; rfl
  have hx : BitVec.ofNat 32 x.toNat = x := by simp
  refine ⟨fun hop hty => ?add, fun hop hty => ?min, fun hop hty => ?max, atomValue_cas_int64⟩
  case add => rw [atomValue_add_integer (.inl hty) (hint32 hty) _ hop, hx]
  case min => rw [atomValue_min_integer (.inl hty) (hint32 hty) _ hop, hx]
  case max => rw [atomValue_max_integer (.inl hty) (hint32 hty) _ hop, hx]

end Sys2Proof.Machine

/-!
# Answers, timeouts, the escape channel and copy engines (R270, R272, R278 to R285, R302, R484)

What ends an operation at its issuer, and what a copy engine and the message inbox do. Each lemma follows one path of its row.
-/
namespace Sys2Proof.Machine

/-! ### Answers (R270, R315) -/

section Answers

variable {s : State} {unit : Half} {p : Packet} {o : TomicOp} {opcode : Nat} {ok : TomicOp → Bool}

/-- An answer to no outstanding operation is discarded and counted. -/
theorem State.takeAnswer_late (hnone : s.opOf unit p.tag = none) :
    s.takeAnswer unit p opcode ok = s.tally (.lateAnswer unit.toNat) 1 := by
  simp [State.takeAnswer, hnone]

/-- An answer of the right kind ends its operation; only that of a STORE or an atomic says that it was performed. -/
theorem State.takeAnswer_ends (hop : s.opOf unit p.tag = some o) (hcode : p.op = opcode) (hok : ok o = true) :
    s.takeAnswer unit p opcode ok =
      ((s.opDone unit o.tag).opAnswered o p p.status (decide (opcode = 0x80 ∧ o.pkt.op ≠ 1)) false).drainProgress := by
  simp [State.takeAnswer, hop, hcode, hok]

/-- An ACK answers any operation but a LOAD. -/
theorem exec_ack_ends (hop : s.opOf unit p.tag = some o) (hcode : p.op = 0x80) (hwrites : o.pkt.op ≠ 1) :
    exec (.ack unit p) s = .next ((s.opDone unit o.tag).opAnswered o p p.status true false).drainProgress := by
  change Host.Outcome.next (s.takeAnswer unit p 0x80 (fun o => o.pkt.op != 1)) = _
  rw [State.takeAnswer_ends hop hcode (by simpa using hwrites), decide_eq_true ⟨rfl, hwrites⟩]

/-- A DATA answers a LOAD with as many bytes as it asked for. -/
theorem exec_data_ends (hop : s.opOf unit p.tag = some o) (hcode : p.op = 0x81) (hload : o.pkt.op = 1)
    (hlen : p.data.length = o.pkt.len) :
    exec (.data unit p) s = .next ((s.opDone unit o.tag).opAnswered o p p.status false false).drainProgress := by
  change Host.Outcome.next (s.takeAnswer unit p 0x81 (fun o => o.pkt.op == 1 && decide (p.data.length = o.pkt.len))) = _
  rw [State.takeAnswer_ends hop hcode (by simp [hload, hlen])]
  rfl

/-- A NACK answers any operation with a refusal status. -/
theorem exec_nack_ends (hop : s.opOf unit p.tag = some o) (hcode : p.op = 0x82) (hstatus : p.status ≠ 0) :
    exec (.nack unit p) s = .next ((s.opDone unit o.tag).opAnswered o p p.status false false).drainProgress := by
  change Host.Outcome.next (s.takeAnswer unit p 0x82 (fun _ => p.status != 0)) = _
  rw [State.takeAnswer_ends hop hcode (by simpa using hstatus)]
  rfl

end Answers

/-- Settles O18: the three rows take their answer by one path. That a late answer is counted in a tally is log entry 113. -/
theorem answersComplete : Obligations.AnswersComplete := by
  unfold Obligations.AnswersComplete
  intro s unit p o
  exact ⟨exec_ack_ends, exec_data_ends, exec_nack_ends, fun hnone => congrArg _ (State.takeAnswer_late hnone),
    fun hnone => congrArg _ (State.takeAnswer_late hnone), fun hnone => congrArg _ (State.takeAnswer_late hnone)⟩

/-! ### Timeouts and the escape channel (R272, R302) -/

section Waits

variable {s u : State} {now : Nat}

/-- After 10 ms without an answer an operation ends with INTERNAL, indeterminate. -/
theorem exec_tomicOpTimeout_due {unit : Half} {tag : Word} {o : TomicOp} (hu : u = s.at_ now) (hop : u.opOf unit tag.toNat = some o)
    (hdue : o.sentAt + 10000000 ≤ u.now) : exec (.tomicOpTimeout unit tag now) s = .next (u.opEnds o stInternal true).drainProgress := by
  change execTomicOpTimeout unit tag now s = _
  simp only [execTomicOpTimeout, ← hu, hop, if_neg (Nat.not_lt.mpr hdue)]

/-- A younger operation goes on. -/
theorem exec_tomicOpTimeout_early {unit : Half} {tag : Word} {o : TomicOp} (hu : u = s.at_ now)
    (hop : u.opOf unit tag.toNat = some o) (hearly : u.now < o.sentAt + 10000000) :
    exec (.tomicOpTimeout unit tag now) s = .next u := by
  change execTomicOpTimeout unit tag now s = _
  simp only [execTomicOpTimeout, ← hu, hop, if_pos hearly]

/-- A queue of channel 0 or 1 whose head has waited 2 us without a credit moves to the escape channel whole. -/
theorem exec_escapeMove_due {l : LinkIx} {vc : Fin 4} {h : Nat × Nat × Nat × Bytes} {v : State} (hu : u = s.at_ now)
    (hhead : (u.link l).waiting.find? (fun w => w.1 == vc.val) = some h) (hfab : isFar l = false) (hchannel : linkChannel l ≠ 2)
    (hstate : (u.link l).state = .inService) (hcredit : tget (u.link l).recCredits 0 vc = 0) (hdue : h.2.1 + 2000 ≤ u.now)
    (hv : v = ((u.link l).waiting.filter (fun w => w.1 == vc.val)).foldl (fun v w => v.escapeBody l vc w.2.2.2)
      ((u.modLink l (fun y => { y with waiting := y.waiting.filter (fun w => w.1 != vc.val) })).fibreCount l 6)) :
    exec (.escapeMove l vc now) s =
      .next (if (v.link v.escapeLink).state = .inService then v.drainProgress else v.notice0 5 0x1008 []) := by
  change execEscapeMove l vc now s = _
  simp only [execEscapeMove, ← hu, hhead]
  rw [if_neg (by simp [hfab, hchannel, hstate, hcredit, Nat.not_lt.mpr hdue]), ← hv]
  exact (apply_ite Host.Outcome.next _ _ _).symm

/-- A queue with nothing waiting stays. -/
theorem exec_escapeMove_empty {l : LinkIx} {vc : Fin 4} (hu : u = s.at_ now)
    (hnone : (u.link l).waiting.find? (fun w => w.1 == vc.val) = none) : exec (.escapeMove l vc now) s = .next u := by
  change execEscapeMove l vc now s = _
  simp only [execEscapeMove, ← hu, hnone]

end Waits

/-- Settles O19: each clause is one path of its row. That the 2 us are measured from the head of the queue is log entry 94. -/
theorem timeoutsAndEscapeComplete : Obligations.TimeoutsAndEscapeComplete := by
  unfold Obligations.TimeoutsAndEscapeComplete
  intro s u now hu
  exact ⟨fun _ _ _ => exec_tomicOpTimeout_due hu, fun _ _ _ => exec_tomicOpTimeout_early hu,
    fun _ _ _ _ => exec_escapeMove_due hu, fun _ _ => exec_escapeMove_empty hu⟩

/-! ### Copy-engine descriptors (R279 to R282) -/

section Descriptors

variable {s v : State} {ce : CeIx} {d : CeDesc}

/-- The next descriptor starts, with the bytes of its HOST source where it has one. -/
theorem exec_ceDescriptorStart_next {o : Option Bytes} (hnext : (s.ce ce).nextDesc (s.ceOutstanding ce) = some d)
    (hlen : d.srcHost = false ∨ o.all (fun b => b.length == d.len) = true) :
    exec (.ceDescriptorStart ce o) s = .next (s.startDesc ce d o) := by
  change execCeDescriptorStart ce o s = _
  simp only [execCeDescriptorStart, hnext]
  cases o with
  | none => rfl
  | some b =>
    refine if_neg ?_
    rintro ⟨hhost, hshort⟩
    obtain hown | hall := hlen
    · simp [hown] at hhost
    · exact hshort (by simpa using hall)

/-- A descriptor that fails its checks ends with BAD_ARG before it moves a byte (R279). -/
theorem State.startDesc_badArg {n : Nat} (hv : v = s.modDesc n d.id (fun x => { x with started := true, gather := [] }))
    (hbad : v.descOk d = false) : s.startDesc n d none = v.endDesc n d.id stBadArg := by
  subst hv
  exact if_pos (by simpa using hbad)

/-- An atomic descriptor of no ledger sends its operation (R280). -/
theorem State.startDesc_atomic {n : Nat} (hown : d.srcHost = false) (hatomic : d.op < 0x20) (hplain : d.otype ≠ 3)
    (hv : v = s.modDesc n d.id (fun x => { x with started := true, gather := [] })) (hok : v.descOk d = true) :
    s.startDesc n d none =
      (v.issueOp (ceUnit n).toNat d.turf d.op d.otype 0 0 (BitVec.ofNat 64 d.dst) (BitVec.ofNat 128 (fld d.raw 24 16)) none []
        false 2 d.id).1 := by
  subst hv
  simp [State.startDesc, hok, hown, hatomic, hplain]

/-- The oldest descriptor that has ended and can go on completes (R281). -/
theorem exec_ceDescriptorComplete_ended (hended : s.endedDesc ce = some d) :
    exec (.ceDescriptorComplete ce) s = .next (s.completeDesc ce d) := by
  change execCeDescriptorComplete ce s = _
  simp only [execCeDescriptorComplete, hended]

/-- One that names no status record, or whose record is stored, goes on to its DONE. -/
theorem State.completeDesc_recorded {n : Nat} (hdone : d.statusAddr = 0 ∨ d.stored = true) :
    s.completeDesc n d = s.finishDesc n d := if_pos hdone

/-- Else its status record is stored first (R281). -/
theorem State.completeDesc_stores {n : Nat} (haddr : d.statusAddr ≠ 0) (hnew : d.stored = false)
    (href : s.issueRefusal d.turf d.statusAddr = none) (hv : v = s.modDesc n d.id (fun x => { x with statusSent := true })) :
    s.completeDesc n d =
      (v.issueOp (ceUnit n).toNat d.turf 0x02 0 0 8 (BitVec.ofNat 64 d.statusAddr) 0 none (natLe 8 d.record) false 4 d.id).1 := by
  subst hv
  simp [State.completeDesc, haddr, hnew, href]

end Descriptors

/-! ### Stores to a copy engine and to the inbox (R278, R284, R285) -/

section Stores

variable {s : State} {a : Arrival} {p : Packet}

/-- A SUBMIT store that nothing refuses appends its descriptors and is answered. -/
theorem exec_ceSubmit_appends {ce : CeIx} (hop : p.op = 2) (hloc : s.resolve p.addr = some (.ceSubmit ce))
    (href : s.submitRefusal ce a.turf a.remote p = none) :
    exec (.ceSubmit ce a p) s =
      .next (((submitted p).foldl (fun v w =>
        v.pushDesc ce { raw := w, turf := a.turf, byCell := p.unit / 2 ^ 14 == 0 }) s).storeAnswer a.turf p) := by
  change execCeSubmit ce a p s = _
  simp [execCeSubmit, hop, hloc, href]

/-- A message store of four well-formed records delivers each valid one and answers with the mask of those not delivered. -/
theorem exec_messageInboxStore_delivers {r : State × Nat} (hop : p.op = 2) (hloc : s.resolve p.addr = some .inbox)
    (hok : p.requestOk = true) (hlen : p.len = 256) (hrecords : (inboxRecords p).all msgOk = true)
    (hr : r = (inboxRecords p).zipIdx.foldl (fun (acc : State × Nat) x =>
      if !(leAt x.1 0 2).testBit 15 then acc
      else ((acc.1.deliver a.turf p x.1).1, if (acc.1.deliver a.turf p x.1).2 then acc.2 + 2 ^ x.2 else acc.2)) (s, 0)) :
    exec (.messageInboxStore a p) s = .next (r.1.storeAnswer a.turf p (BitVec.ofNat 128 r.2)) := by
  change execMessageInboxStore a p s = _
  rw [execMessageInboxStore, if_neg (by simp [hop, hloc]), if_neg (by simp [hok, hlen, hrecords]), hr]

end Stores

/-- Settles O20: each clause is one path of its row, and what a descriptor does at its start and at its end is said of `startDesc` and
`completeDesc`. -/
theorem copyEnginesAndMessagesComplete : Obligations.CopyEnginesAndMessagesComplete := by
  unfold Obligations.CopyEnginesAndMessagesComplete
  intro s ce a p
  refine ⟨fun d o => exec_ceDescriptorStart_next, fun d v hnext hown hv hbad => ?badArg,
    fun d v hnext hown hatomic hplain hv hok => ?atomic, fun d hended hdone => ?recorded,
    fun d v hended haddr hnew href hv => ?stores, exec_ceSubmit_appends, rfl, fun r => exec_messageInboxStore_delivers⟩
  case badArg => rw [exec_ceDescriptorStart_next hnext (.inl hown), State.startDesc_badArg hv hbad]
  case atomic => rw [exec_ceDescriptorStart_next hnext (.inl hown), State.startDesc_atomic hown hatomic hplain hv hok]
  case recorded => rw [exec_ceDescriptorComplete_ended hended, State.completeDesc_recorded hdone]
  case stores => rw [exec_ceDescriptorComplete_ended hended, State.completeDesc_stores haddr hnew href hv]

end Sys2Proof.Machine

/-!
# Swap announcements, swap holds, the drain's bound and the commit of a bank (R304, R466, R469, R473, R475)

One lemma per path. The events of a count look at the state `u = s.at_ now`; what an announcement does is said of
`State.swapAnnounced`.
-/
namespace Sys2Proof.Machine

/-! ### Announcements (R466, Table 18.3) -/

section Announcements

variable {s : State} {arg : Word} {count : DWord}

/-- The next generation of a set 1 to 4 that is not announced enters its count. -/
theorem State.swapAnnounced_enters (hkind : bits arg.toNat 10 9 = 0) (hswap : arg.toNat.testBit 8 = false)
    (hfree : (s.cset (bits arg.toNat 7 0)).announced = none) (hlo : 1 ≤ bits arg.toNat 7 0) (hhi : bits arg.toNat 7 0 ≤ 4)
    (hnext : ((s.cset (bits arg.toNat 7 0)).generation + 1) % 2 ^ 32 % 65536 = bits arg.toNat 31 16) :
    s.swapAnnounced arg count =
      s.modCset (bits arg.toNat 7 0) (fun c => { c with
        announced := some (count.toNat, ((s.cset (bits arg.toNat 7 0)).generation + 1) % 2 ^ 32, none) }) := by
  simp only [State.swapAnnounced, hkind, hswap, hfree, decide_eq_true (And.intro hlo hhi), beq_iff_eq.mpr hnext, Option.isNone_none,
    Bool.and_self, Bool.false_eq_true, if_false, if_true]

/-- A withdrawal takes the announcement of its set back. -/
theorem State.swapAnnounced_withdraws (hkind : bits arg.toNat 10 9 = 0) (hback : arg.toNat.testBit 8 = true) :
    s.swapAnnounced arg count = s.modCset (bits arg.toNat 7 0) (fun c => { c with announced := none }) := by
  simp only [State.swapAnnounced, hkind, hback, if_true]

end Announcements

/-! ### Events at their count (R304, R466, R469, R470) -/

section SwapCounts

variable {s u : State} {now n : Nat}

/-- At the announced count the set swaps, and the command that asked for it completes with the generation. -/
theorem exec_cfgSwapTakeEffect_due {k : Byte} {g : Nat} {c : Nat × Nat} (hu : u = s.at_ now)
    (hann : (u.cset k.toNat).announced = some (n, g, some c)) (hdue : n ≤ u.now) :
    exec (.cfgSwapTakeEffect k now) s = .next ((u.takeSwap k.toNat).completeAt c stOk g) := by
  change execCfgSwapTakeEffect k now s = _
  simp only [execCfgSwapTakeEffect, ← hu, hann, if_neg (Nat.not_lt.mpr hdue)]

/-- The hold starts at its count, and the drain's time runs from there. -/
theorem exec_swapHoldStart_due (hu : u = s.at_ now) (hann : u.holds.swapAt = some n) (hdue : n ≤ u.now) :
    exec (.swapHoldStart now) s =
      .next ({ u with
        holds := { u.holds with swapAt := none, swapOn := true, swapEnd := none }
        drain := u.drain.map (fun (d : Drain) => { d with since := u.now }) } : State).drainProgress := by
  change execSwapHoldStart now s = _
  simp only [execSwapHoldStart, ← hu, hann, if_neg (Nat.not_lt.mpr hdue)]
  rfl

/-- The hold ends at its count, and a swap that has been made completes. -/
theorem exec_swapHoldEnd_due {d : Drain} (hu : u = s.at_ now) (hann : u.holds.swapEnd = some n) (hdue : n ≤ u.now)
    (hdrain : u.drain = some d) (hmade : d.leaving = true) :
    exec (.swapHoldEnd now) s =
      .next (({ u with holds := { u.holds with swapOn := false, swapEnd := none }, drain := none } : State).completeAt d.cmd 0
        (if d.unload.isSome then 0 else d.epoch)) := by
  change execSwapHoldEnd now s = _
  simp only [execSwapHoldEnd, ← hu, hann, if_neg (Nat.not_lt.mpr hdue), hdrain, hmade, if_true]

/-- A calendar drain still going on 50 us after its hold began gives way, and the end of the hold is announced for 2 us later. -/
theorem exec_drainWaitTimeout_due {d : Drain} {v w : State} (hu : u = s.at_ now) (hdrain : u.drain = some d) (hgoing : d.leaving = false)
    (hdue : d.since + 50000 ≤ u.now) (hcalendar : d.routing = false) (hhold : u.holds.swapOn = true)
    (hv : v = ({ u with drain := none } : State).completeAt d.cmd stDrainTimeout 0)
    (hw : w = { v with holds := { v.holds with swapEnd := some (v.now + 2000) } }) :
    exec (.drainWaitTimeout now) s =
      .next (w.announceAll 4 (8 + 2 * 2 ^ 9 + (w.cset 8).generation % 65536 * 2 ^ 16) (BitVec.ofNat 64 (v.now + 2000))) := by
  change execDrainWaitTimeout now s = _
  simp only [execDrainWaitTimeout, ← hu, hdrain, hgoing, Nat.not_lt.mpr hdue, hcalendar, hhold, ← hv, ← hw, Bool.not_true, Bool.and_false,
    Bool.false_eq_true, or_self, if_false]

end SwapCounts

/-! ### BANK_COMMIT (R473, R475) -/

section BankCommits

variable {s : State} {w : BankWrite}

/-- A bank B of settings whose read-back passes is valid and in force with its SEQ, and the command completes with SEQ and bank. -/
theorem exec_bankCommit_settingsB {b : SetBank} (hwrite : s.firm.write = some w) (hset : w.settings = some b) (hB : w.bankB = true) :
    exec (.bankCommit true) s =
      .next (({ s with firm := { s.firm with setB := { b with valid := true }, setInForceB := true, seqInForce := b.seq } } : State).endWrite
        w 0 (b.seq + 2 ^ 32)) := by
  change execBankCommit true s = _
  simp only [execBankCommit, hwrite, hset, hB, Bool.not_true, Bool.false_eq_true, if_false, if_true]
  rfl

/-- A bank of settings whose read-back fails for the first time is written again. -/
theorem exec_bankCommit_rewrites (hwrite : s.firm.write = some w) (hfirst : w.rewritten = false) (hset : w.heartwood = false) :
    exec (.bankCommit false) s = .next { s with firm := { s.firm with write := some { w with rewritten := true } } } := by
  change execBankCommit false s = _
  simp only [execBankCommit, hwrite, hfirst, hset, Bool.not_false, Bool.and_self, if_true]

end BankCommits

/-- Settles O8: each clause is one path of its row. -/
theorem swapEventsComplete : Obligations.SwapEventsComplete := by
  unfold Obligations.SwapEventsComplete
  intro s u now hu
  exact ⟨fun _ _ hkind hswap hfree hlo hhi hnext => congrArg _ (State.swapAnnounced_enters hkind hswap hfree hlo hhi hnext),
    fun _ _ hkind hback => congrArg _ (State.swapAnnounced_withdraws hkind hback), fun _ _ _ _ => exec_cfgSwapTakeEffect_due hu,
    fun _ => exec_swapHoldStart_due hu, fun _ _ => exec_swapHoldEnd_due hu,
    fun _ _ hdrain hgoing hdue hcalendar hhold hv => exec_drainWaitTimeout_due hu hdrain hgoing hdue hcalendar hhold hv rfl,
    fun _ _ => exec_bankCommit_settingsB, fun _ => exec_bankCommit_rewrites⟩

end Sys2Proof.Machine

/-!
# Time roles, time, and the commands that join and leave the fabric (R308, R313, R432 to R434)

A row of a message acts, once its frame has been taken in its turn, through one operation of the state: `State.roleAsked`,
`State.roleAnswered`, `State.timeAnswered`. One lemma says so per row, and the paths are lemmas about the operation.
-/
namespace Sys2Proof.Machine

/-! ### LINK_ROLE_SWAP (Table 11.12) -/

section RoleCommands

variable {s v : State} {q : QueueIx} {slot : SlotIx} {a : Accepted} {f : FabFibreIx}

/-- A role to change of an in-service fibre without a change under way: the peer is asked. -/
theorem exec_linkRoleSwap_asks (hready : s.ready q slot 0x0603 a) (hv : v = s.beginCmd a) (hfibre : sqArg a.entry 0 = f.val)
    (hup : v.fibreUp f = true) (hidle : (v.role f).cmd = none) (hother : v.leads f = decide (sqArg a.entry 1 ≠ 0)) :
    exec (.linkRoleSwap q slot) s =
      .next ((v.modRole f (fun x => { x with cmd := some (a.q, a.slot), collided := 0 })).askRole f (decide (sqArg a.entry 1 = 0))) := by
  change execLinkRoleSwap q slot s = _
  have hchange : ¬ v.leads f = decide (sqArg a.entry 1 = 0) := by
    simp [hother]
  simp only [execLinkRoleSwap, State.withCmd_ready hready (sel := fun _ => true) rfl, ← hv, hfibre, if_neg (Nat.not_le.mpr f.isLt), hup,
    hidle, if_neg hchange, Bool.not_true, Option.isSome_none, Bool.or_self, Bool.false_eq_true, if_false]

/-- A role already held: the command completes at once. -/
theorem exec_linkRoleSwap_held (hready : s.ready q slot 0x0603 a) (hv : v = s.beginCmd a) (hfibre : sqArg a.entry 0 = f.val)
    (hup : v.fibreUp f = true) (hidle : (v.role f).cmd = none) (hheld : v.leads f = decide (sqArg a.entry 1 = 0)) :
    exec (.linkRoleSwap q slot) s = .next (v.done a (roleCode (decide (sqArg a.entry 1 = 0)))) := by
  change execLinkRoleSwap q slot s = _
  simp only [execLinkRoleSwap, State.withCmd_ready hready (sel := fun _ => true) rfl, ← hv, hfibre, if_neg (Nat.not_le.mpr f.isLt), hup,
    hidle, hheld, Bool.not_true, Option.isSome_none, Bool.or_self, Bool.false_eq_true, if_false, if_true]

end RoleCommands

/-! ### Role messages (R309, R313) -/

section RoleMessages

variable {s v x : State} {f : FabFibreIx} {msg : Bytes} {fr : MsgFrame} {c : Nat} {id : Word}

theorem exec_roleSwapReq_taken (htaken : s.takesMessage (fabLink f fr.channel) 5 fr.seq v) :
    exec (.roleSwapReq f ⟨msg, fr⟩) s = .next (v.roleAsked f msg) :=
  congrArg _ (State.onMessage_taken htaken)

theorem exec_roleSwapAns_taken (htaken : s.takesMessage (fabLink f fr.channel) 5 fr.seq v) :
    exec (.roleSwapAns f ⟨msg, fr⟩) s = .next (v.roleAnswered f msg) :=
  congrArg _ (State.onMessage_taken htaken)

/-- A request whose count is at least 20 us ahead is answered 0, and the role asked for applies from that count. -/
theorem State.roleAsked_agrees (hnone : (v.role f).pending = none) (hroom : v.now + 20000 ≤ leAt msg 16 8)
    (hx : x = v.sendFibre f (joinMsg 0x29 0 Config.uid (List.replicate 8 0 ++ slice msg 24 4))) :
    v.roleAsked f msg =
      x.modRole f (fun y => { y with at_ := some (decide (leAt msg 4 1 ≠ 0), leAt msg 16 8), leader := x.leads f }) := by
  simp only [State.roleAsked, hnone, Option.isSome_none, Bool.false_eq_true, if_neg (Nat.not_lt.mpr hroom), if_false, if_true, hx]

/-- A request whose count is nearer is answered 1. -/
theorem State.roleAsked_tooNear (hnone : (v.role f).pending = none) (hnear : leAt msg 16 8 < v.now + 20000) :
    v.roleAsked f msg = v.sendFibre f (joinMsg 0x29 1 Config.uid (List.replicate 8 0 ++ slice msg 24 4)) := by
  simp only [State.roleAsked, hnone, Option.isSome_none, Bool.false_eq_true, if_pos hnear, Nat.one_ne_zero, if_false]

/-- A request that crosses the module's own is answered 2, and both are cancelled. -/
theorem State.roleAsked_crosses (hown : (v.role f).pending.isSome = true) :
    v.roleAsked f msg =
      (v.sendFibre f (joinMsg 0x29 2 Config.uid (List.replicate 8 0 ++ slice msg 24 4))).roleCollision f
        (BitVec.ofNat 64 (leAt msg 8 8)) := by
  simp only [State.roleAsked, hown, if_true]

/-- Answer 0 to the module's request: the role it wants applies from the count it named. -/
theorem State.roleAnswered_agreed (hown : (v.role f).pending = some (c, id)) (hid : id.toNat = leAt msg 24 4)
    (hans : leAt msg 4 1 = 0) : v.roleAnswered f msg = v.endRole f (v.role f).want (some ((v.role f).want, c)) := by
  simp only [State.roleAnswered, hown, hid, hans, ne_eq, not_true, if_false]

/-- Answer 1: the roles stay. -/
theorem State.roleAnswered_refused (hown : (v.role f).pending = some (c, id)) (hid : id.toNat = leAt msg 24 4)
    (hans : leAt msg 4 1 = 1) : v.roleAnswered f msg = v.endRole f (v.leads f) none := by
  simp only [State.roleAnswered, hown, hid, hans, ne_eq, not_true, if_false]

/-- Answer 2: the requests have crossed. -/
theorem State.roleAnswered_crossed (hown : (v.role f).pending = some (c, id)) (hid : id.toNat = leAt msg 24 4)
    (hans : leAt msg 4 1 = 2) : v.roleAnswered f msg = v.roleCollision f (BitVec.ofNat 64 (leAt msg 8 8)) := by
  simp only [State.roleAnswered, hown, hid, hans, ne_eq, not_true, if_false]

/-- After the delay of its first collision a command that still waits asks once more. -/
theorem exec_roleSwapRetry_due {now : Nat} {u : State} (hu : u = s.at_ now) (honce : (u.role f).collided = 1)
    (hnone : (u.role f).pending = none) (hcmd : (u.role f).cmd.isSome = true) (hdue : (u.role f).retryAt ≤ u.now) :
    exec (.roleSwapRetry ⟨f, now⟩) s = .next (u.askRole f (u.role f).want) := by
  subst hu
  exact if_pos ⟨honce, Option.isNone_iff_eq_none.mpr hnone, hcmd, hdue⟩

end RoleMessages

/-! ### Time (R432 to R434) -/

section TimeMessages

variable {s u v : State} {f : FabFibreIx} {fr : MsgFrame} {now : Nat}

/-- The follower of an in-service fibre asks for the time. -/
theorem exec_timeRequest_asks (hu : u = s.at_ now) (hup : u.fibreUp f = true) (hfollows : u.leads f = false) :
    exec (.timeRequest f none now) s = .next (u.draw.2.sendTime f (timeMsg 0 0 (u.draw.1.toNat % 2 ^ 32) 0 u.draw.2.now 0 0)) := by
  change execTimeRequest f none now s = _
  simp only [execTimeRequest, ← hu, hup, hfollows, Bool.not_true, Bool.or_self, Bool.false_eq_true, if_false]

/-- The leader of an in-service fibre answers a request at once. -/
theorem exec_timeRequest_answers {id : Word} {t1 : Nat} (hu : u = s.at_ now)
    (htaken : u.takesMessage (fabLink f fr.channel) 6 fr.seq v) (hup : v.fibreUp f = true) (hleads : v.leads f = true) :
    exec (.timeRequest f (some (fr, id, t1)) now) s =
      .next (v.sendTime f (timeMsg 1 v.timeStanding.1 id.toNat v.timeStanding.2 t1 v.now v.now)) := by
  change execTimeRequest f (some (fr, id, t1)) now s = _
  simp only [execTimeRequest, ← hu, State.onMessage_taken htaken, hup, hleads, Bool.not_true, Bool.or_self, Bool.false_eq_true, if_false]

theorem exec_timeAnswer_taken {a : TimeAns} (hu : u = s.at_ a.t4) (htaken : u.takesMessage (fabLink f fr.channel) 6 fr.seq v) :
    exec (.timeAnswer f ⟨fr, a⟩) s = .next (v.timeAnswered f a) :=
  congrArg _ (State.onMessage_taken (hu ▸ htaken))

/-- An answer on the fibre that is then the source corrects the time by half the difference of the two ways. -/
theorem State.timeAnswered_source {a : TimeAns} (hup : v.fibreUp f = true) (hfollows : v.leads f = false)
    (hsource : (v.hearAnswer f a.hops.toNat a.rootUid).sourceNow = some f.val) :
    v.timeAnswered f a =
      (v.hearAnswer f a.hops.toNat a.rootUid).correctTime ((((a.t2 : Int) - a.t1) - ((a.t4 : Int) - a.t3)) / 2) := by
  simp only [State.timeAnswered, hup, hfollows, hsource, Bool.not_true, Bool.or_self, Bool.false_eq_true, if_false, if_true]

end TimeMessages

/-! ### FAB_JOIN and FAB_LEAVE (R308, Table 11.12) -/

section JoinCommands

variable {s v : State} {q : QueueIx} {slot : SlotIx} {a : Accepted}

/-- Outside a fabric FAB_JOIN begins the claim, once a numbering plan it names can be read. -/
theorem exec_fabJoin_claims (hready : s.ready q slot 0x0600 a) (hv : v = s.beginCmd a)
    (hphase : v.fab.phase = .none ∨ v.fab.phase = .left)
    (hplan : sqArg a.entry 1 = 0 ∨ v.rangeCheck (v.queue a.q).turf (sqArg a.entry 1) 131072 = none) :
    exec (.fabJoin q slot) s =
      .next (({ v with fab := { v.fab with
        mode := sqArg a.entry 0, planAddr := BitVec.ofNat 64 (sqArg a.entry 1), joinCmd := some (a.q, a.slot) } } : State).beginClaim) := by
  change execFabJoin q slot s = _
  have hreadable : (if sqArg a.entry 1 = 0 then none else v.rangeCheck (v.queue a.q).turf (sqArg a.entry 1) 131072) = none := by
    rw [ite_eq_left_iff]
    exact hplan.resolve_left
  simp only [execFabJoin, State.withCmd_ready hready (sel := fun _ => true) rfl, ← hv, hreadable]
  obtain hnone | hleft := hphase
  · simp only [hnone]
  · simp only [hleft]

/-- Without a drain under way FAB_LEAVE ends a join under way with BUSY and begins the drain. -/
theorem exec_fabLeave_drains (hready : s.ready q slot 0x0601 a) (hv : v = s.beginCmd a) (hidle : v.drain = none) :
    exec (.fabLeave q slot) s =
      .next (({ v.endJoin stBusy 0 0 with drain := some {
        routing := true, turf := 0, cmd := (a.q, a.slot), epoch := 0, since := v.now, fabLeave := true } } : State).drainProgress) := by
  change execFabLeave q slot s = _
  simp only [execFabLeave, State.withCmd_ready hready (sel := fun _ => true) rfl, ← hv, hidle, Option.isSome_none, Bool.false_eq_true,
    if_false]

end JoinCommands

/-- Settles O26: each clause is one path of its row. -/
theorem timeRolesAndJoiningComplete : Obligations.TimeRolesAndJoiningComplete := by
  unfold Obligations.TimeRolesAndJoiningComplete
  intro f s
  refine ⟨fun _ _ _ _ => exec_linkRoleSwap_asks, fun _ _ _ _ => exec_linkRoleSwap_held,
    fun msg fr v x htaken hnone hroom hx => ?agrees, fun msg fr v htaken hnone hnear => ?tooNear,
    fun msg fr v htaken hown => ?crosses, fun msg fr v c id htaken hown hid hans => ?agreed,
    fun msg fr v c id htaken hown hid hans => ?refused, fun msg fr v c id htaken hown hid hans => ?crossed,
    fun _ _ => exec_roleSwapRetry_due, fun _ _ => exec_timeRequest_asks, fun _ _ _ _ _ _ => exec_timeRequest_answers,
    fun a u v fr hu htaken hup hfollows hsource => ?source, fun _ _ _ _ => exec_fabJoin_claims, fun _ _ _ _ => exec_fabLeave_drains⟩
  case agrees => rw [exec_roleSwapReq_taken htaken, State.roleAsked_agrees hnone hroom hx]
  case tooNear => rw [exec_roleSwapReq_taken htaken, State.roleAsked_tooNear hnone hnear]
  case crosses => rw [exec_roleSwapReq_taken htaken, State.roleAsked_crosses hown]
  case agreed => rw [exec_roleSwapAns_taken htaken, State.roleAnswered_agreed hown hid hans]
  case refused => rw [exec_roleSwapAns_taken htaken, State.roleAnswered_refused hown hid hans]
  case crossed => rw [exec_roleSwapAns_taken htaken, State.roleAnswered_crossed hown hid hans]
  case source => rw [exec_timeAnswer_taken hu htaken, State.timeAnswered_source hup hfollows hsource]

end Sys2Proof.Machine

/-!
# Claims, founders, members, departures and duplicated identities (R308 to R311, R344)

A row of a message acts, once its frame has been taken in its turn, through one operation of the state, and the paths are lemmas about
that operation. `State.claimHeard` and `State.joinHeard` go by what the module is in the exchange of join messages, which outside a halt
is its phase.
-/
namespace Sys2Proof.Machine

/-- Unless its fabric activity is halted, a module is in the exchange of join messages what its phase says. -/
theorem FabricSt.joinPhase_of_phase {x : FabricSt} {p : JoinPhase} (h : x.phase = p) (hp : p ≠ .halted) : x.joinPhase = p :=
  (if_neg (h ▸ hp)).trans h

/-! ### Claims (R308, R310) -/

section Claims

variable {s u v : State} {f : FabFibreIx} {m : Bytes} {fr : MsgFrame} {now : Nat}

theorem exec_joinClaim_own (hu : u = s.at_ now) : exec (.joinClaim f none now) s = .next u.claim := by
  subst hu
  rfl

theorem exec_joinClaim_taken (hu : u = s.at_ now) (htaken : u.takesMessage (fabLink f fr.channel) 5 fr.seq v) :
    exec (.joinClaim f (some ⟨m, fr⟩) now) s = .next (v.claimHeard f m) :=
  congrArg _ (State.onMessage_taken (hu ▸ htaken))

/-- Within the 2 ms of its join a module sends its claim each time that one is due. -/
theorem State.claim_due
    (hphase : u.fab.phase = .claiming ∨ u.fab.phase = .requested ∨ u.fab.phase = .member ∨ u.fab.phase = .founder)
    (hdue : u.fab.claimDue ≤ u.now) (hjoin : u.now < u.fab.claimStart + 2000000) :
    u.claim = ({ u with fab := { u.fab with claimDue := u.fab.claimDue + 100000 } } : State).sendFabric u.claimMsg := by
  obtain h | h | h | h := hphase <;>
    simp only [State.claim, h, decide_eq_true hdue, decide_eq_true hjoin, Bool.and_self, if_true]

/-- A founder or member answers the claim of another module with FOUNDER. -/
theorem State.claimHeard_answers (hphase : v.fab.phase = .founder ∨ v.fab.phase = .member)
    (hother : BitVec.ofNat 64 (leAt m 8 8) ≠ Config.uid) : v.claimHeard f m = v.sendFibre f v.founderMsg := by
  obtain h | h := hphase <;>
    simp only [State.claimHeard, FabricSt.joinPhase_of_phase h (by decide), hother, false_and, decide_false, Bool.false_eq_true, if_false]

/-- A claimant keeps the claim of another module, the last of each UID. -/
theorem State.claimHeard_collects (hphase : v.fab.phase = .claiming ∨ v.fab.phase = .requested)
    (hother : BitVec.ofNat 64 (leAt m 8 8) ≠ Config.uid) :
    v.claimHeard f m = { v with fab := { v.fab with
      claims := v.fab.claims.filter (fun x => x.2.1 != BitVec.ofNat 64 (leAt m 8 8))
        ++ [(leAt m 4 4, BitVec.ofNat 64 (leAt m 8 8), BitVec.ofNat 32 (leAt m 20 4))] } } := by
  obtain h | h := hphase <;>
    simp only [State.claimHeard, FabricSt.joinPhase_of_phase h (by decide), hother, false_and, decide_false, Bool.false_eq_true, if_false]

/-- A claim of the module's own UID with another NONCE halts its fabric activity. -/
theorem State.claimHeard_twin
    (hphase : v.fab.phase = .claiming ∨ v.fab.phase = .requested ∨ v.fab.phase = .founder ∨ v.fab.phase = .member)
    (hown : BitVec.ofNat 64 (leAt m 8 8) = Config.uid) (hnonce : BitVec.ofNat 32 (leAt m 20 4) ≠ v.fab.nonce) :
    v.claimHeard f m = v.haltFabric := by
  obtain h | h | h | h := hphase <;>
    simp only [State.claimHeard, FabricSt.joinPhase_of_phase h (by decide), decide_eq_true (And.intro hown hnonce), if_true]

end Claims

/-! ### FOUNDER and the election (R309, R310) -/

section Elections

variable {s u v x y : State} {f : FabFibreIx} {m : Bytes} {fr : MsgFrame} {now : Nat}

theorem exec_founder_taken (htaken : s.takesMessage (fabLink f fr.channel) 5 fr.seq v) :
    exec (.founder f ⟨m, fr⟩) s = .next (v.founderHeard f m) :=
  congrArg _ (State.onMessage_taken htaken)

/-- The first FOUNDER that a claimant hears gets its JOIN_REQ. -/
theorem State.founderHeard_first (hphase : v.fab.phase = .claiming)
    (hu : u = { v with fab := { v.fab with
      phase := .requested, founderUid := BitVec.ofNat 64 (leAt m 24 8), admitted := leAt m 32 2 } }) :
    v.founderHeard f m = u.sendFibre f (v.joinReqMsg (BitVec.ofNat 64 (leAt m 24 8))) := by
  subst hu
  exact if_pos hphase

/-- After 2 ms without FOUNDER a join-only command gives up. -/
theorem exec_founderElection_joinOnly (hu : u = s.at_ now) (hphase : u.fab.phase = .claiming)
    (hdue : u.fab.claimStart + 2000000 ≤ u.now) (hmode : u.fab.mode = 1) :
    exec (.founderElection now) s = .next (({ u with fab := { u.fab with phase := .none } } : State).endJoin stBusy 0 0) := by
  change execFounderElection now s = _
  simp only [execFounderElection, ← hu, hphase, hmode, Nat.not_lt.mpr hdue, ne_eq, not_true, or_self, if_false, if_true]

/-- After 2 ms without FOUNDER the first-ranked claimant founds the fabric under number 0. -/
theorem exec_founderElection_founds (hu : u = s.at_ now) (hphase : u.fab.phase = .claiming)
    (hdue : u.fab.claimStart + 2000000 ≤ u.now) (hmode : u.fab.mode ≠ 1)
    (hfirst : u.fab.claims.any (fun c => claimBefore c (u.fab.epoch, Config.uid, u.fab.nonce)) = false)
    (hx : x = { (u.meetPlan 0) with fab := { u.fab with flat := u.planOf 0 } })
    (hy : y = x.becomeFounder 0 1 [⟨Config.uid, 0, some u.fab.nonce⟩]) :
    exec (.founderElection now) s = .next (y.reflat.endJoin stOk 0 y.joinResult) := by
  change execFounderElection now s = _
  simp only [execFounderElection, ← hu, hphase, if_neg hmode, hfirst, Nat.not_lt.mpr hdue, ne_eq, not_true, or_self, Bool.false_eq_true,
    if_false, hy, hx]

theorem exec_founderLost_gone (hu : u = s.at_ now) : exec (.founderLost now) s = .next u.founderGone := by
  subst hu
  rfl

/-- Where no member that the module knows has a lower UID, it follows a founder that is gone; the members keep their numbers. -/
theorem State.founderGone_follows {known : List (Nat × PairSt)} (hphase : u.fab.phase = .member)
    (hknown : known = u.fab.pairs.filter (fun p => p.2.bootEpoch.isSome && p.2.uid != u.fab.founderUid))
    (hlowest : known.any (fun p => decide (p.2.uid.toNat < Config.uid.toNat)) = false) :
    u.founderGone = u.becomeFounder u.fab.moduleNo (known.foldl (fun n p => max n (p.1 + 1)) (u.fab.moduleNo + 1))
      (known.map (fun p => ({ uid := p.2.uid, number := p.1 } : Member)) ++ [⟨Config.uid, u.fab.moduleNo, some u.fab.nonce⟩]) := by
  simp only [State.founderGone, hphase, ← hknown, hlowest, ne_eq, not_true, Bool.false_eq_true, if_false]

end Elections

/-! ### Admission (R309 to R311) -/

section Admissions

variable {s u v : State} {f : FabFibreIx} {m : Bytes} {fr : MsgFrame} {x : Member}

theorem exec_joinReq_taken (htaken : s.takesMessage (fabLink f fr.channel) 5 fr.seq v) :
    exec (.joinReq f ⟨m, fr⟩) s = .next (v.joinHeard f m) :=
  congrArg _ (State.onMessage_taken htaken)

theorem exec_joinAccept_taken (htaken : s.takesMessage (fabLink f fr.channel) 5 fr.seq v) :
    exec (.joinAccept f ⟨m, fr⟩) s = .next (v.joinAnswered m) :=
  congrArg _ (State.onMessage_taken htaken)

/-- A founder acts on the JOIN_REQs that name it. -/
theorem State.joinHeard_mine (hphase : v.fab.phase = .founder) (hmine : BitVec.ofNat 64 (leAt m 24 8) = Config.uid) :
    ¬ (v.fab.joinPhase ≠ .founder ∨ BitVec.ofNat 64 (leAt m 24 8) ≠ Config.uid) := by
  simp [FabricSt.joinPhase_of_phase hphase (by decide), hmine]

/-- A module that the founder does not know is admitted under the next number. -/
theorem State.joinHeard_new (hphase : v.fab.phase = .founder) (hmine : BitVec.ofNat 64 (leAt m 24 8) = Config.uid)
    (hnew : v.fab.members.find? (fun x => x.uid == BitVec.ofNat 64 (leAt m 8 8)) = none) (hroom : v.fab.nextModule ≤ 1023) :
    v.joinHeard f m =
      v.takeMember f {
        uid := BitVec.ofNat 64 (leAt m 8 8), number := v.fab.nextModule, nonce := some (BitVec.ofNat 32 (leAt m 20 4)) } := by
  simp only [State.joinHeard, if_neg (State.joinHeard_mine hphase hmine), hnew, if_neg (Nat.not_lt.mpr hroom)]

/-- A module that a new founder knows is admitted under the number it had. -/
theorem State.joinHeard_known (hphase : v.fab.phase = .founder) (hmine : BitVec.ofNat 64 (leAt m 24 8) = Config.uid)
    (hfind : v.fab.members.find? (fun x => x.uid == BitVec.ofNat 64 (leAt m 8 8)) = some x) (hunasked : x.nonce = none) :
    v.joinHeard f m = v.takeMember f { x with nonce := some (BitVec.ofNat 32 (leAt m 20 4)) } := by
  simp only [State.joinHeard, if_neg (State.joinHeard_mine hphase hmine), hfind, hunasked]

/-- The UID of another live member, with another NONCE, is reported as duplicated. -/
theorem State.joinHeard_duplicate {n : Word} (hphase : v.fab.phase = .founder) (hmine : BitVec.ofNat 64 (leAt m 24 8) = Config.uid)
    (hother : BitVec.ofNat 64 (leAt m 8 8) ≠ Config.uid)
    (hfind : v.fab.members.find? (fun x => x.uid == BitVec.ofNat 64 (leAt m 8 8)) = some x) (hlive : x.nonce = some n)
    (hnonce : n ≠ BitVec.ofNat 32 (leAt m 20 4)) :
    v.joinHeard f m =
      v.sendFabric (joinMsg 0x25 v.fab.epoch Config.uid
        (List.replicate 8 0 ++ natLe 8 (BitVec.ofNat 64 (leAt m 8 8)).toNat ++ slice m 20 4)) := by
  simp only [State.joinHeard, if_neg (State.joinHeard_mine hphase hmine), hfind, hlive, if_neg hnonce, if_neg hother]

/-- A module that is accepted takes its number and endpoints, and its FAB_JOIN completes. -/
theorem State.joinAnswered_accepted (hphase : v.fab.phase = .requested) (hmine : BitVec.ofNat 64 (leAt m 24 8) = Config.uid)
    (hresult : leAt m 32 1 = 0)
    (hu : u = { v with fab := { v.fab with
      phase := .member, epoch := leAt m 4 4, founderUid := BitVec.ofNat 64 (leAt m 8 8), moduleNo := leAt m 34 2 % 1024
      admitted := v.fab.admitted + 1, flat := (List.range 64).map (fun i => leAt m (64 + 2 * i) 2) } }) :
    v.joinAnswered m = u.reflat.endJoin stOk 0 u.joinResult := by
  simp only [State.joinAnswered, hphase, hmine, hresult, ne_eq, not_true, or_self, if_false, hu]

/-- A module that is refused is outside the fabric, and its FAB_JOIN ends with NO_RESOURCE. -/
theorem State.joinAnswered_refused (hphase : v.fab.phase = .requested) (hmine : BitVec.ofNat 64 (leAt m 24 8) = Config.uid)
    (hresult : leAt m 32 1 ≠ 0) :
    v.joinAnswered m = ({ v with fab := { v.fab with phase := .none } } : State).endJoin stNoResource 0 0 := by
  simp only [State.joinAnswered, hphase, hmine, if_pos hresult, ne_eq, not_true, or_self, if_false]

end Admissions

/-! ### Departures and duplicated identities (R309 to R311, R344) -/

section Departures

variable {s u v : State} {f : FabFibreIx} {m : Bytes} {fr : MsgFrame}

theorem exec_leave_taken (htaken : s.takesMessage (fabLink f fr.channel) 5 fr.seq v) :
    exec (.leave f ⟨m, fr⟩) s = .next (v.leaveHeard m) :=
  congrArg _ (State.onMessage_taken htaken)

theorem exec_dupId_taken (htaken : s.takesMessage (fabLink f fr.channel) 5 fr.seq v) :
    exec (.dupId f ⟨m, fr⟩) s = .next (v.duplicate m) :=
  congrArg _ (State.onMessage_taken htaken)

/-- A module that leaves is forgotten and its queues close; where it was the founder, the founder is gone. -/
theorem State.leaveHeard_forgets (hin : v.fab.phase ≠ .none) (hstays : v.fab.phase ≠ .left)
    (hu : u = ({ v with fab := { v.fab with
      members := v.fab.members.filter (fun x => x.uid != BitVec.ofNat 64 (leAt m 8 8))
      pairs := tdel v.fab.pairs (leAt m 32 2 % 1024) } } : State).closePeerQueues (leAt m 32 2 % 1024)) :
    v.leaveHeard m = if BitVec.ofNat 64 (leAt m 8 8) = u.fab.founderUid then u.founderGone else u := by
  simp only [State.leaveHeard, hin, hstays, or_self, if_false, hu]

/-- DUP_ID of the module's own UID halts its fabric activity. -/
theorem State.duplicate_own (hown : BitVec.ofNat 64 (leAt m 24 8) = Config.uid) (hin : v.fab.phase ≠ .none)
    (hstays : v.fab.phase ≠ .left) : v.duplicate m = v.haltFabric := by
  simp only [State.duplicate, hown, hin, hstays, ne_eq, not_true, or_self, if_false]

end Departures

/-- Settles O27: each clause is one path of its row. That the NONCE tells a repeated JOIN_REQ from that of a duplicated identity is log
entry 126. -/
theorem fabricMembershipComplete : Obligations.FabricMembershipComplete := by
  unfold Obligations.FabricMembershipComplete
  intro f s
  refine ⟨fun now u hu hphase hdue hjoin => ?claims, fun m now fr u y hu htaken hphase hother => ?answers,
    fun m now fr u y hu htaken hphase hother => ?collects, fun m now fr u y hu htaken hphase hown hnonce => ?twin,
    fun m u fr v htaken hphase hu => ?first, fun _ _ => exec_founderElection_joinOnly, fun _ _ _ _ => exec_founderElection_founds,
    fun m fr v htaken hphase hmine hnew hroom => ?new, fun m x fr v htaken hphase hmine hfind hunasked => ?known,
    fun m x n fr v htaken hphase hmine hother hfind hlive hnonce => ?duplicate,
    fun m u fr v htaken hphase hmine hresult hu => ?accepted, fun m fr v htaken hphase hmine hresult => ?refused,
    fun now u known hu hphase hknown hlowest => ?follows, fun m u fr v htaken hin hstays hu => ?leaves,
    fun m fr v htaken hown hin hstays => ?own⟩
  case claims => rw [exec_joinClaim_own hu, State.claim_due hphase hdue hjoin]
  case answers => rw [exec_joinClaim_taken hu htaken, State.claimHeard_answers hphase hother]
  case collects => rw [exec_joinClaim_taken hu htaken, State.claimHeard_collects hphase hother]
  case twin => rw [exec_joinClaim_taken hu htaken, State.claimHeard_twin hphase hown hnonce]
  case first => rw [exec_founder_taken htaken, State.founderHeard_first hphase hu]
  case new => rw [exec_joinReq_taken htaken, State.joinHeard_new hphase hmine hnew hroom]
  case known => rw [exec_joinReq_taken htaken, State.joinHeard_known hphase hmine hfind hunasked]
  case duplicate => rw [exec_joinReq_taken htaken, State.joinHeard_duplicate hphase hmine hother hfind hlive hnonce]
  case accepted => rw [exec_joinAccept_taken htaken, State.joinAnswered_accepted hphase hmine hresult hu]
  case refused => rw [exec_joinAccept_taken htaken, State.joinAnswered_refused hphase hmine hresult]
  case follows => rw [exec_founderLost_gone hu, State.founderGone_follows hphase hknown hlowest]
  case leaves => rw [exec_leave_taken htaken, State.leaveHeard_forgets hin hstays hu]
  case own => rw [exec_dupId_taken htaken, State.duplicate_own hown hin hstays]

end Sys2Proof.Machine

/-!
# Pair descriptors, inbound billets, fabric frames, fabric Clamps and the fabric tables (R291 to R297, R306, R307, R312, R317, R504)

What a descriptor, a billet or a Clamp message does is said of `State.pairArrives`, `State.inboundBillet` and `State.clampArrives`, which
routed frames share with the rows.
-/
namespace Sys2Proof.Machine

/-! ### Pair descriptors (R312, R315, Table 11.11) -/

section PairDescriptors

variable {s u w : State} {m : Fin 1024} {msg : Bytes} {now : Nat}

/-- Where no time source was chosen none is in force. -/
theorem State.sourceNow_eq_none (h : s.pw.timeSource = none) : s.sourceNow = none := by
  simp only [State.sourceNow, h]

theorem exec_pairDesc_arrives (hu : u = s.at_ now) : exec (.pairDesc m msg now) s = .next (u.pairArrives m msg) := by
  subst hu
  rfl

/-- A descriptor from a module without an endpoint is passed over. -/
theorem State.pairArrives_unknown (hnone : (u.moduleEp m).isNone = true) : u.pairArrives m msg = u := if_pos (.inl hnone)

/-- The state that a descriptor's BOOT_EPOCH leaves: a peer not known before, or known with that one, has not restarted, and one known
with another has. -/
def State.bootMet (u : State) (m : Nat) (boot : Word) (w : State) : Prop :=
  ((tget u.fab.pairs {} m).bootEpoch = none ∨ (tget u.fab.pairs {} m).bootEpoch = some boot) ∧ w = u
    ∨ ∃ b, (tget u.fab.pairs {} m).bootEpoch = some b ∧ b ≠ boot ∧ w = u.peerRestarted m

/-- A descriptor of no higher fabric epoch, where no time is stepped, gives the pair its state on what its BOOT_EPOCH leaves. -/
theorem State.pairArrives_enters (hep : (u.moduleEp m).isSome = true) (hrun : u.fab.phase ≠ .halted)
    (hboot : u.bootMet m (BitVec.ofNat 32 (leAt msg 16 4)) w) (hsource : w.pw.timeSource = none) (hepoch : leAt msg 20 4 ≤ w.fab.epoch) :
    u.pairArrives m msg = { w with fab := { w.fab with pairs := tset w.fab.pairs m.val { tget w.fab.pairs {} m.val with
      state := w.pairState msg, bootEpoch := some (BitVec.ofNat 32 (leAt msg 16 4)), uid := BitVec.ofNat 64 (leAt msg 8 8)
      calEpoch := BitVec.ofNat 16 (leAt msg 4 2) } } } := by
  have hacts : ¬ ((u.moduleEp m).isNone = true ∨ u.fab.phase = .halted) := by
    simpa [hrun] using Option.isSome_iff_ne_none.mp hep
  have hnotime (g : FabricSt) : ({ w with fab := g } : State).sourceNow = none := State.sourceNow_eq_none hsource
  have hlower : ¬ w.fab.epoch < leAt msg 20 4 := Nat.not_lt.mpr hepoch
  obtain ⟨hnone | hsame, rfl⟩ | ⟨b, hold, hother, rfl⟩ := hboot
  · simp only [State.pairArrives, if_neg hacts, hnone, hnotime, hlower, Option.isSome_none, Bool.false_eq_true, false_and, if_false]
  · simp only [State.pairArrives, if_neg hacts, hsame, hnotime, hlower, Option.isSome_none, Bool.false_eq_true, false_and, if_false,
      if_true]
  · simp only [State.pairArrives, if_neg hacts, hold, if_neg hother, hnotime, hlower, Option.isSome_none, Bool.false_eq_true, false_and,
      if_false]

end PairDescriptors

/-! ### Billets between modules (R306, R307, R312) -/

section FabricBillets

variable {s : State} {l : LinkIx} {route : BitVec 128} {d r : Bytes}

/-- A billet of 8,192 bytes that comes in a routed frame of a fabric channel reaches its edge group. -/
theorem exec_fabricBilletReceive_routed (hlen : d.length = 8192) (hfab : isFar l = false) (hr : r = natLe 16 route.toNat)
    (hkind : leAt r 0 1 = 2) : exec (.fabricBilletReceive l route d) s = .next (s.inboundBillet (linkFibre l) r d) := by
  change execFabricBilletReceive l route d s = _
  simp only [execFabricBilletReceive, hlen, hfab, ← hr, hkind, ne_eq, not_true, bne_self_eq_false, Bool.or_self, Bool.false_eq_true,
    if_false]

/-- A billet of the calendar in force, of a full pair, is kept for its descriptor. -/
theorem State.inboundBillet_kept {fibre : Nat} (hrun : s.fab.phase ≠ .halted) (hmgmt : s.pairWith (leAt r 4 2) ≠ 1)
    (hdyn : s.pairWith (leAt r 4 2) ≠ 2) (hcal : leAt r 10 2 = s.calEpoch) :
    s.inboundBillet fibre r d = { s with fab := { s.fab with
      inbound := tset s.fab.inbound (fibre / 24 * 256 + leAt r 14 1) (some d) } } := by
  simp only [State.inboundBillet, hrun, hmgmt, hdyn, hcal, or_self, ne_eq, not_true, if_false]

/-- One of another calendar is counted. -/
theorem State.inboundBillet_oldCalendar {fibre : Nat} (hrun : s.fab.phase ≠ .halted) (hmgmt : s.pairWith (leAt r 4 2) ≠ 1)
    (hdyn : s.pairWith (leAt r 4 2) ≠ 2) (hcal : leAt r 10 2 ≠ s.calEpoch) :
    s.inboundBillet fibre r d = s.bump 2 (fibrePort fibre) 4 1 := by
  simp only [State.inboundBillet, hrun, hmgmt, hdyn, hcal, or_self, ne_eq, not_false_eq_true, if_false, if_true]

/-- One of a pair that is management-only or Dynamic-only is discarded. -/
theorem State.inboundBillet_notFull {fibre : Nat} (hrun : s.fab.phase ≠ .halted)
    (hpair : s.pairWith (leAt r 4 2) = 1 ∨ s.pairWith (leAt r 4 2) = 2) :
    s.inboundBillet fibre r d = s.tally (.fabricDrop fibre) 1 := by
  simp only [State.inboundBillet, if_neg hrun, if_pos hpair]

/-- A billet that a receive port of the fabric still misses 64 slots late stops its turf's batch (R307). -/
theorem exec_inboundBilletMissing_stops {p : PortIx} {b : PendingBillet}
    (hfind : (s.port p).pending.find? (fun b => decide (40 ≤ b.src / 64) && (portFmu b.src).isNone && b.late
      && (s.holds.repair.isSome || decide (b.slot + 64 ≤ s.slot))) = some b) :
    exec (.inboundBilletMissing p) s =
      .next ((((s.stopBatch b.turf stInternal (BitVec.ofNat 64 (7 * 2 ^ 16)) false).settleStop b.turf).releasePending
        (fun q => q == p.val)).drainProgress) := by
  change execInboundBilletMissing p s = _
  simp only [execInboundBilletMissing, hfind]

end FabricBillets

/-! ### Fabric Clamps (R504) -/

section ClampMessages

variable {s u : State} {n x : DWord} {now c : Nat}

theorem exec_fabricClampMessage_arrives (hu : u = s.at_ now) :
    exec (.fabricClampMessage n x now) s = .next (u.clampArrives n.toNat) := by
  subst hu
  rfl

/-- A count ahead is announced. -/
theorem State.clampArrives_ahead (hmask : u.obs.clampMask.testBit 3 = true) (hrun : u.fab.phase ≠ .halted) (hahead : u.now < c) :
    u.clampArrives c = u.announceClamp c := by
  simp only [State.clampArrives, hmask, hrun, if_neg (Nat.not_le.mpr hahead), Bool.not_true, Bool.false_eq_true, or_self, if_false]

/-- A count behind is counted, and Clamps 1,024 ns later. -/
theorem State.clampArrives_behind (hmask : u.obs.clampMask.testBit 3 = true) (hrun : u.fab.phase ≠ .halted) (hbehind : c ≤ u.now) :
    u.clampArrives c = ({ u with obs := { u.obs with lateClamps := u.obs.lateClamps + 1 } } : State).announceClamp (u.now + 1024) := by
  simp only [State.clampArrives, hmask, hrun, if_pos hbehind, Bool.not_true, Bool.false_eq_true, or_self, if_false]

/-- Where the mask does not name the fabric the message is passed over. -/
theorem State.clampArrives_masked (hmask : u.obs.clampMask.testBit 3 = false) : u.clampArrives c = u := by
  simp only [State.clampArrives, hmask, Bool.not_false, true_or, if_true]

end ClampMessages

/-! ### Frames of a fabric channel (R219, R289, R291 to R296) -/

section FabricFrames

variable {s w : State} {l : LinkIx} {fr : Bytes}

/-- A frame with a bad CRC is only counted. -/
theorem exec_linkFrameReceive_badCrc (hfab : isFar l = false) (hshape : linkShapeOk l fr = true) (hcrc : linkCrcOk fr = false) :
    exec (.linkFrameReceive l fr) s = .next (s.fibreCount l 3) := by
  change execLinkFrameReceive l fr s = _
  simp only [execLinkFrameReceive, hfab, hshape, hcrc, Bool.not_true, Bool.not_false, Bool.false_eq_true, if_false, if_true]

/-- A good one that asks for no resend has its header, its carriage field and its packet taken. -/
theorem exec_linkFrameReceive_good (hfab : isFar l = false) (hshape : linkShapeOk l fr = true) (hcrc : linkCrcOk fr = true)
    (hstate : (s.link l).state = .inService) (hretry : retryOf l fr = none) (hrun : (s.linkHeader l fr).fab.phase ≠ .halted)
    (hw : w = ((s.linkHeader l fr).fabricCarriage l (leAt fr 0 16)).acceptFabric l fr) :
    exec (.linkFrameReceive l fr) s = .next (w.pumpAll l).drainProgress := by
  change execLinkFrameReceive l fr s = _
  simp only [execLinkFrameReceive, hfab, hshape, hcrc, hstate, hretry, if_neg hrun, hw, Bool.not_true, Bool.false_eq_true, ne_eq, not_true,
    if_false]

end FabricFrames

/-! ### Fabric tables (R297, R316, R317) -/

section FabricTables

variable {s v w : State} {q : QueueIx} {slot : SlotIx} {a : Accepted}

/-- ROUTE_LOAD_SHADOW writes the entries read into the shadow table that it names. -/
theorem exec_routeLoadShadow_loads {b : Bytes} {g : FabricSt} (hready : s.ready q slot 0x0602 a) (hv : v = s.beginCmd a)
    (hfits : sqArg a.entry 2 + sqArg a.entry 3 ≤ (routeTable (sqArg a.entry 0)).1)
    (hrange : v.rangeCheck (v.queue a.q).turf (sqArg a.entry 1) (sqArg a.entry 3 * (routeTable (sqArg a.entry 0)).2) = none)
    (hread : (v.readOpen (sqArg a.entry 1) (sqArg a.entry 3 * (routeTable (sqArg a.entry 0)).2)).1 = some b)
    (hw : w = (v.readOpen (sqArg a.entry 1) (sqArg a.entry 3 * (routeTable (sqArg a.entry 0)).2)).2)
    (hg : g = (if sqArg a.entry 0 = 0 then { w.fab with epShadow := memWrite w.fab.epShadow (sqArg a.entry 2 * 8) b }
      else if sqArg a.entry 0 = 1 then { w.fab with routesShadow := memWrite w.fab.routesShadow (sqArg a.entry 2 * 16) b }
      else { w.fab with headerShadow := memWrite w.fab.headerShadow (sqArg a.entry 2 * 256) b })) :
    exec (.routeLoadShadow q slot) s = .next (({ w with fab := g } : State).done a 0) := by
  have htable : (if sqArg a.entry 0 = 0 then
        { w.fab with epShadow := memWrite w.fab.epShadow (sqArg a.entry 2 * (routeTable (sqArg a.entry 0)).2) b }
      else if sqArg a.entry 0 = 1 then
        { w.fab with routesShadow := memWrite w.fab.routesShadow (sqArg a.entry 2 * (routeTable (sqArg a.entry 0)).2) b }
      else { w.fab with headerShadow := memWrite w.fab.headerShadow (sqArg a.entry 2 * (routeTable (sqArg a.entry 0)).2) b }) = g := by
    rw [hg]
    by_cases hep : sqArg a.entry 0 = 0
    · simp only [routeTable, hep, if_true]
    · by_cases hroutes : sqArg a.entry 0 = 1
      · simp only [routeTable, hroutes, Nat.one_ne_zero, if_false, if_true]
      · simp only [routeTable, if_neg hep, if_neg hroutes]
  change execRouteLoadShadow q slot s = _
  simp only [execRouteLoadShadow, State.withCmd_ready hready (sel := fun _ => true) rfl, ← hv, if_neg (Nat.not_lt.mpr hfits), hrange, hread,
    ← hw, htable]

/-- FAB_STATUS writes 96 records of fibres and 1,024 states of pairs. -/
theorem exec_fabStatus_writes (hready : s.ready q slot 0x0604 a) (hv : v = s.beginCmd a) (hroom : 4864 ≤ sqArg a.entry 1) :
    exec (.fabStatus q slot) s =
      .next (v.output a false (sqArg a.entry 0)
        ((List.range 96).flatMap v.fibreRecord ++ (List.range 1024).flatMap (fun m => natLe 4 (tget v.fab.pairs {} m).state)) 4864) := by
  change execFabStatus q slot s = _
  simp only [execFabStatus, State.withCmd_ready hready (sel := fun _ => true) rfl, ← hv, if_neg (Nat.not_lt.mpr hroom)]

end FabricTables

/-- Settles O28: each clause is one path of its row. That the billets of a pair that is not full are dropped and counted in a tally is log
entry 137, with 93 and 113. -/
theorem fabricTrafficComplete : Obligations.FabricTrafficComplete := by
  unfold Obligations.FabricTrafficComplete
  intro s
  refine ⟨fun _ => rfl, fun m msg now hnone => ?unknown, fun m msg now w hw hep hrun hboot hsource hepoch => ?sameBoot,
    fun m msg now w b hw hep hrun hold hother hsource hepoch => ?restarted,
    fun l route d r hlen hfab hr hkind hrun hmgmt hdyn hcal => ?kept,
    fun l route d r hlen hfab hr hkind hrun hmgmt hdyn hcal => ?oldCalendar,
    fun l route d r hlen hfab hr hkind hrun hpair => ?notFull, fun _ _ => exec_inboundBilletMissing_stops,
    fun n x now u hu hmask hrun hahead => ?ahead, fun n x now u hu hmask hrun hbehind => ?behind, fun n x now u hu hmask => ?masked,
    fun _ _ => exec_linkFrameReceive_badCrc, fun _ _ _ => exec_linkFrameReceive_good,
    fun _ _ _ _ _ _ _ => exec_routeLoadShadow_loads, fun _ _ _ _ => exec_fabStatus_writes⟩
  case unknown => rw [exec_pairDesc_arrives rfl, State.pairArrives_unknown hnone]
  case sameBoot =>
    rw [exec_pairDesc_arrives hw, State.pairArrives_enters hep hrun (.inl ⟨hboot, rfl⟩) hsource hepoch]
  case restarted =>
    rw [exec_pairDesc_arrives rfl, State.pairArrives_enters hep hrun (.inr ⟨b, hold, hother, hw⟩) hsource hepoch]
  case kept => rw [exec_fabricBilletReceive_routed hlen hfab hr hkind, State.inboundBillet_kept hrun hmgmt hdyn hcal]
  case oldCalendar => rw [exec_fabricBilletReceive_routed hlen hfab hr hkind, State.inboundBillet_oldCalendar hrun hmgmt hdyn hcal]
  case notFull => rw [exec_fabricBilletReceive_routed hlen hfab hr hkind, State.inboundBillet_notFull hrun hpair]
  case ahead => rw [exec_fabricClampMessage_arrives hu, State.clampArrives_ahead hmask hrun hahead]
  case behind => rw [exec_fabricClampMessage_arrives hu, State.clampArrives_behind hmask hrun hbehind]
  case masked => rw [exec_fabricClampMessage_arrives hu, State.clampArrives_masked hmask]

end Sys2Proof.Machine

/-!
# What holds of every command (R411, R513)

Each row has its own lemma in Laws/Keeps<Family> and, where it stores nothing, in Laws/Frames; the splits over the rows stand here, once for
the memories and once for the outcome.
-/
namespace Sys2Proof.Machine

/-! ### The front command and the idle block -/

/-- Settles O37: it is how a step is defined on a queue with a front. -/
theorem stepRunsTheFront : Obligations.StepRunsTheFront := by
  unfold Obligations.StepRunsTheFront
  intro c rest s hfront
  rw [step, hfront]

/-- The clock's own state after a nanosecond without a command (R431, R434). -/
def PowerSt.idle (p : PowerSt) : PowerSt :=
  if !p.gtcRunning then p
  else if p.halfRate ≠ 0 then { p with halfRate := p.halfRate - 1, gtc := p.gtc + (p.halfRate - 1) % 2 }
  else if p.slew = 0 then { p with gtc := p.gtc + 1 }
  else if p.slewTick < 4999 then { p with slewTick := p.slewTick + 1, gtc := p.gtc + 1 }
  else if 0 < p.slew then { p with slewTick := 0, slew := p.slew - 1, gtc := p.gtc + 2 }
  else { p with slewTick := 0, slew := p.slew + 1 }

theorem State.idle_eq (s : State) : s.idle = { s with pw := s.pw.idle } := by
  unfold State.idle PowerSt.idle
  repeat' split
  all_goals rfl

theorem PowerSt.idle_gtc_le (p : PowerSt) : p.gtc ≤ p.idle.gtc := by
  unfold PowerSt.idle
  repeat' split
  all_goals simp

theorem PowerSt.idle_stopped {p : PowerSt} (h : p.gtcRunning = false) : p.idle = p := by
  simp [PowerSt.idle, h]

theorem PowerSt.idle_tick {p : PowerSt} (hrun : p.gtcRunning = true) (hrate : p.halfRate = 0) (hslew : p.slew = 0) :
    p.idle = { p with gtc := p.gtc + 1 } := by
  simp [PowerSt.idle, hrun, hrate, hslew]

/-- Settles O38: an empty queue lets one nanosecond pass, which is log entry 14. -/
theorem emptyQueueIdles : Obligations.EmptyQueueIdles := by
  unfold Obligations.EmptyQueueIdles
  intro s hempty
  have hstep : step s = .next s.idle := by rw [step, hempty]
  exact ⟨s.pw.idle, by rw [hstep, State.idle_eq], s.pw.idle_gtc_le, PowerSt.idle_stopped, PowerSt.idle_tick⟩

/-! ### The waiting commands and the defect list -/

/-- Settles O39: the queue of waiting commands is among what every command keeps. -/
theorem queueIsOnlyConsumed : Obligations.QueueIsOnlyConsumed := by
  unfold Obligations.QueueIsOnlyConsumed
  intro c s t h
  exact (exec_grows h).pending

/-- Settles O43: that the defect list grows at its end alone is among what every command keeps. -/
theorem defectListOnlyGrows : Obligations.DefectListOnlyGrows := by
  unfold Obligations.DefectListOnlyGrows
  intro c s t h
  exact (exec_grows h).defects

/-! ### Commands that store nothing -/

theorem exec_memKept {c : Instr} (s : State) (hleaves : c.leavesMemory = true) : MemKeptO s (exec c s) := by
  cases c
  case sqTailWrite => exact execSqTailWrite_memKept (.refl s) ..
  case cqHeadWrite => exact execCqHeadWrite_memKept (.refl s) ..
  case apertureWrite => exact execApertureWrite_memKept (.refl s) ..
  case apertureRead => exact execApertureRead_memKept (.refl s) ..
  case registerWrite => exact execRegisterWrite_memKept (.refl s) ..
  case basePower => exact execBasePower_memKept (.refl s) ..
  case clocksStart => exact execClocksStart_memKept (.refl s) ..
  case loadHeartwood => exact execLoadHeartwood_memKept (.refl s) ..
  case loadCordwood => exact execLoadCordwood_memKept (.refl s) ..
  case hwRecover => exact execHwRecover_memKept (.refl s) ..
  case bringupStepTimeout => exact execBringupStepTimeout_memKept (.refl s) ..
  case mirrorStatusRead => exact execMirrorStatusRead_memKept (.refl s)
  case bringupIslandRelease => exact execBringupIslandRelease_memKept (.refl s)
  case brownoutWarn => exact execBrownoutWarn_memKept (.refl s) ..
  case brownoutClear => exact execBrownoutClear_memKept (.refl s) ..
  case refclkBack => exact execRefclkBack_memKept (.refl s) ..
  case throtNAssert => exact execThrotNAssert_memKept (.refl s) ..
  case throtNRelease => exact execThrotNRelease_memKept (.refl s) ..
  case clampInEdge => exact execClampInEdge_memKept (.refl s) ..
  case clamp => exact execClamp_memKept (.refl s) ..
  case aeEnd => exact execAeEnd_memKept (.refl s) ..
  case rampUpdate => exact execRampUpdate_memKept (.refl s) ..
  case batchArmNotice => exact execBatchArmNotice_memKept (.refl s) ..
  case batchCancelNotice => exact execBatchCancelNotice_memKept (.refl s) ..
  case repairSend => exact execRepairSend_memKept (.refl s) ..
  case repairHoldEnd => exact execRepairHoldEnd_memKept (.refl s)
  case dynamicFrameRequest => exact execDynamicFrameRequest_memKept (.refl s) ..
  case dynamicGrant => exact execDynamicGrant_memKept (.refl s) ..
  case dynamicFrameReceive => exact execDynamicFrameReceive_memKept (.refl s) ..
  case missingDuplicate => exact execMissingDuplicate_memKept (.refl s) ..
  case swapAnnouncement => exact execSwapAnnouncement_memKept (.refl s) ..
  case faultNotice => exact execFaultNotice_memKept (.refl s) ..
  case lightHoldStart => exact execLightHoldStart_memKept (.refl s) ..
  case lightHoldEnd => exact execLightHoldEnd_memKept (.refl s) ..
  case bankWearSwap => exact execBankWearSwap_memKept (.refl s) ..
  case channelSweep => exact execChannelSweep_memKept (.refl s) ..
  case tuningStarved => exact execTuningStarved_memKept (.refl s) ..
  case tuningHoldStart => exact execTuningHoldStart_memKept (.refl s) ..
  case rowReplace => exact execRowReplace_memKept (.refl s) ..
  case rowReplaceEnd => exact execRowReplaceEnd_memKept (.refl s) ..
  case pcMigration => exact execPcMigration_memKept (.refl s) ..
  case selfRefreshEnter => exact execSelfRefreshEnter_memKept (.refl s) ..
  case selfRefreshExit => exact execSelfRefreshExit_memKept (.refl s) ..
  case laneMapReq => exact execLaneMapReq_memKept (.refl s) ..
  case laneMap => exact execLaneMap_memKept (.refl s) ..
  case linkDown => exact execLinkDown_memKept (.refl s) ..
  case identRepeat => exact execIdentRepeat_memKept (.refl s) ..
  case sublinkRetrain => exact execSublinkRetrain_memKept (.refl s) ..
  case farFrameResend => exact execFarFrameResend_memKept (.refl s) ..
  case sublinkLoss => exact execSublinkLoss_memKept (.refl s) ..
  case farBilletWriteQueue => exact execFarBilletWriteQueue_memKept (.refl s) ..
  case farBilletReadQueue => exact execFarBilletReadQueue_memKept (.refl s) ..
  case load => exact execLoad_memKept (.refl s) ..
  case messageInboxStore => exact execMessageInboxStore_memKept (.refl s) ..
  case channelLoss => exact execChannelLoss_memKept (.refl s) ..
  case founder => exact execFounder_memKept (.refl s) ..
  case founderLost => exact execFounderLost_memKept (.refl s) ..
  case pairDescSend => exact execPairDescSend_memKept (.refl s) ..
  case fabricBilletReceive => exact execFabricBilletReceive_memKept (.refl s) ..
  case timeRequest => exact execTimeRequest_memKept (.refl s) ..
  case timeAnswer => exact execTimeAnswer_memKept (.refl s) ..
  case fabricClampMessage _ uid _ => exact execFabricClampMessage_memKept (.refl s) _ uid _
  case gateTableSwap => exact execGateTableSwap_memKept (.refl s) ..
  case gateSettingsCommit => exact execGateSettingsCommit_memKept (.refl s) ..
  case gateLease => exact execGateLease_memKept (.refl s) ..
  case gateRegionPstate => exact execGateRegionPstate_memKept (.refl s) ..
  case gateCellTableWrite => exact execGateCellTableWrite_memKept (.refl s) ..
  case gateSpareSubst => exact execGateSpareSubst_memKept (.refl s) ..
  case gateFirmware => exact execGateFirmware_memKept (.refl s) ..
  case gateQueue => exact execGateQueue_memKept (.refl s) ..
  case gateHealth => exact execGateHealth_memKept (.refl s) ..
  case mgmtDeviation => exact execMgmtDeviation_memKept (.refl s) ..
  case standbyJoin => exact execStandbyJoin_memKept (.refl s) ..
  case standbyPromote => exact execStandbyPromote_memKept (.refl s) ..
  case throttleChange => exact execThrottleChange_memKept (.refl s) ..
  case powerCeilingCheck => exact execPowerCeilingCheck_memKept (.refl s) ..
  case marginSample => exact execMarginSample_memKept (.refl s) ..
  case phaseShed => exact execPhaseShed_memKept (.refl s) ..
  case thermalFallBoundary => exact execThermalFallBoundary_memKept (.refl s) ..
  case thermalCeilingCheck => exact execThermalCeilingCheck_memKept (.refl s) ..
  case thermistorSample => exact execThermistorSample_memKept (.refl s) ..
  case wearLogWrite => exact execWearLogWrite_memKept (.refl s) ..
  case rickDataRead => exact execRickDataRead_memKept (.refl s) ..
  case dropItem => exact execDropItem_memKept (.refl s) ..
  case flush => exact execFlush_memKept (.refl s) ..
  case snapArm => exact execSnapArm_memKept (.refl s) ..
  case pcieLinkUp => exact execPcieLinkUp_memKept (.refl s) ..
  case bringupStepEnd => exact execBringupStepEnd_memKept (.refl s)
  case farIdleFrame => exact execFarIdleFrame_memKept (.refl s) ..
  case fecLock => exact execFecLock_memKept (.refl s) ..
  case dynamicFrameAck => exact execDynamicFrameAck_memKept (.refl s) ..
  case roleSwapRetry => exact execRoleSwapRetry_memKept (.refl s) ..
  case qualityWindow => exact execQualityWindow_memKept (.refl s) ..
  case telemetrySample => exact execTelemetrySample_memKept (.refl s) ..
  all_goals exact absurd hleaves Bool.false_ne_true

/-- Settles O45: each of the rows has its lemma in Laws/Frames. -/
theorem memoryStaysUnderCommandsThatStoreNothing : Obligations.MemoryStaysUnderCommandsThatStoreNothing := by
  unfold Obligations.MemoryStaysUnderCommandsThatStoreNothing
  intro c s t a hleaves h
  have hkept := (exec_memKept s hleaves).kept t h
  exact ⟨by rw [hkept.mem], by rw [hkept.host]⟩

/-! ### How a command ends -/

/-- An outcome is a next state or, where `ill` allows it, the fault `illFormed`; it is no refusal. -/
structure Ends (ill : Bool) (o : Host.Outcome State Fault Refusal) : Prop where
  ends : (∃ t, o = .next t) ∨ ill = true ∧ o = .fault .illFormed

theorem Ends.next {ill : Bool} (t : State) : Ends ill (.next t) := ⟨.inl ⟨t, rfl⟩⟩

theorem Ends.fault : Ends true (.fault .illFormed) := ⟨.inr ⟨rfl, rfl⟩⟩

theorem Ends.ite {ill : Bool} {p : Prop} [Decidable p] {o o' : Host.Outcome State Fault Refusal} (h : Ends ill o)
    (h' : Ends ill o') : Ends ill (if p then o else o') := by
  split
  · exact h
  · exact h'

/-- The first group of rows answers one next state, the second decides between next states, the third looks for a record first; in the
last two a byte operand may have an impossible length. -/
theorem exec_ends (c : Instr) (s : State) : Ends c.mayBeIllFormed (exec c s) := by
  cases c
  case
    nop | openQueue | closeQueue | bindTurf | queryIdentity | queryQueue | queryNotices | unloadImage | abort | alloc | free |
    copy | fill | mapAperture | setTuningGapGap | setTuningGapAccept | setTuningGapHold | syncCreateCreate | syncCreateRelease
    | syncCreateTakeOver | syncDump | cfgSwap | cfgSwapDrainedCalendar | cfgSwapDrainedRouting | cfgStore | cfgRead |
    pstateSet | limitsRead | regionSleep | regionWake | fabJoin | fabLeave | routeLoadShadow | linkRoleSwap | fabStatus |
    ctrReadRead | ctrReadClear | ctrReadClampCopy | traceStart | traceStop | digestArmArm | digestArmDisarm | digestArmRead |
    clampArmSet | clampArmClamp | clampArmFabric | ashRead | healthRead | spareSubst | defectListRead |
    fwUpdateStageCertificate | perst | clocksStart | train | sodTest | loadHeartwood | cellsPower | stewardBroadcast |
    queuesEnable | buResetModule | buResetCompute | buResetDie | buResetFirmware | mirrorStatusRead | coldReset | vauxLoss |
    matmul | drain | vop | vload | vstore | rowcopy | ctlRead | ctlWrite | rickRead | wait | sread | token | lset | ladd |
    lcopy | djnz | jmp | jz | jltu | mark | halt | waitSatisfied | get | put | getInd | putInd | aeWait | batchArmNotice |
    batchCancelNotice | repairHoldCheck | syncPacketApply | signalRefusalReceive | swapAnnouncement | faultNotice |
    tuningHoldStart | rowReplace | pcMigration | selfRefreshExit | linkDown | ack | data | nack | fibreFailed | founder |
    joinReq | joinAccept | leave | dupId | founderLost | roleSwapReq | roleSwapAns | pairDesc | pairDescSend | timeAnswer |
    fabricClampMessage | phaseOpen | phaseSenseCheck | dynamicFrameAck | copyEngineFault | telemetrySample =>
    exact .next _
  case
    syncSignal | sqTailWrite | cqHeadWrite | fabricQueueRelease | bringupStepTimeout | moduleReset | computeReset |
    bringupIslandRelease | peatXtalFail | brownoutWarn | brownoutClear | refclkLost | throtNAssert | throtNRelease |
    clampInEdge | signal | aeSignal | schedRecv | schedSend | opNack | rampUpdate | logicFault | frameLaunch |
    interstitialFrame | repairHoldEnd | dynamicFrameReceive | dynamicResend | carriageReceive | ringLock | tuningHoldEnd |
    patrolScrub | selfRefreshEnter | identRepeat | sublinkLoss | load | atomAdd | atomMin | atomMax | atomCas |
    messageInboxStore | channelLoss | founderElection | leaseExpiry | mgmtDeviation | standbyJoin | duplexDisagree |
    standbyPromote | powerCeilingCheck | marginSample | thermalFallBoundary | thermalCeilingCheck | thermistorSample |
    spareStandbyTest | wearSubstitution | wearLogWrite | snapArm | computeResetRelease | pcieLinkUp | bringupStepEnd | fecLock
    | roleSwapRetry | qualityWindow =>
    repeat' apply Ends.ite
    all_goals exact .next _
  case
    runBatch | fwUpdateStageDiscard | fwActivateHeartwood | fwActivateCordwood | fabricQueueFetch | apertureWrite |
    apertureRead | registerWrite | smbusBlockWrite | firmwareReset | refclkBack | refclkSafeStop | clamp | haltComplete |
    stepComplete | aeEnd | aeActionComplete | aeSchedDeadline | aeNackRetry | storeScrub | armDeadline | batchStart |
    batchDone | billetReceive | repairSend | dynamicFrameRequest | dynamicGrant | missingDuplicate | cfgSwapTakeEffect |
    bankMonitorSample | lightHoldStart | lightHoldEnd | bankWearSwap | channelSweep | channelSweepEnd | tuningStarved |
    rowReplaceEnd | pcMigrationEnd | identAck | sublinkRetrain | farFrameResend | sublinkFailover | farUnitDown |
    farBilletWriteQueue | farBilletReadQueue | store | tomicOpTimeout | ceSubmit | ceDescriptorComplete | escapeMove |
    joinClaim | inboundBilletMissing | timeRequest | orphanFree | pstateSwitch | throttleChange | phaseShed | kindlingStep |
    thermalSample | rickDataRead | dropItem | flush | bankCommit | drainWaitTimeout | swapHoldStart | swapHoldEnd |
    regionSafeState | tuningGapEnd =>
    dsimp only [exec, execRunBatch, execFwUpdateStageDiscard, execFwActivateHeartwood, execFwActivateCordwood, execFabricQueueFetch,
      execApertureWrite, execApertureRead, execRegisterWrite, execSmbusBlockWrite, execFirmwareReset, execRefclkBack,
      execRefclkSafeStop, execClamp, execHaltComplete, execStepComplete, execAeEnd, execAeActionComplete, execAeSchedDeadline,
      execAeNackRetry, execStoreScrub, execArmDeadline, execBatchStart, execBatchDone, execBilletReceive, execRepairSend,
      execDynamicFrameRequest, execDynamicGrant, execMissingDuplicate, execCfgSwapTakeEffect, execBankMonitorSample,
      execLightHoldStart, execLightHoldEnd, execBankWearSwap, execChannelSweep, execChannelSweepEnd, execTuningStarved,
      execRowReplaceEnd, execPcMigrationEnd, execIdentAck, execSublinkRetrain, execFarFrameResend, execSublinkFailover,
      execFarUnitDown, execFarBilletWriteQueue, execFarBilletReadQueue, execStore, execTomicOpTimeout, execCeSubmit,
      execCeDescriptorComplete, execEscapeMove, execJoinClaim, execInboundBilletMissing, execTimeRequest, execOrphanFree,
      execPstateSwitch, execThrottleChange, execPhaseShed, execKindlingStep, execThermalSample, execRickDataRead, execDropItem,
      execFlush, execBankCommit, execDrainWaitTimeout, execSwapHoldStart, execSwapHoldEnd, execRegionSafeState, execTuningGapEnd]
    repeat' split
    all_goals exact .next _
  case
    basePower | loadCordwood | hwRecover | farDataGranule | completion | laneMapReq | laneMap | linkFrameReceive |
    fabricBilletReceive | gateTableSwap | gateSettingsCommit | gateLease | gateRegionPstate | gateCellTableWrite |
    gateSpareSubst | gateFirmware | gateQueue | gateHealth | farIdleFrame =>
    repeat' apply Ends.ite
    all_goals first | exact .next _ | exact .fault
  case
    loadImage | cfgWriteShadow | ctrReadProgram | fwUpdateStageWrite | fwUpdateStageAttest | cmdFetch | ident |
    ceDescriptorStart =>
    dsimp only [exec, execLoadImage, execCfgWriteShadow, execCtrReadProgram, execFwUpdateStageWrite, execFwUpdateStageAttest, execCmdFetch,
      execIdent, execCeDescriptorStart]
    repeat' split
    all_goals first | exact .next _ | exact .fault

/-- Settles O40: the outcome of every command is of the kind that `Ends` gives. -/
theorem commandsStopOnlyWhenIllFormed : Obligations.CommandsStopOnlyWhenIllFormed := by
  unfold Obligations.CommandsStopOnlyWhenIllFormed
  intro c s
  obtain hnext | ⟨hill, hfault⟩ := (exec_ends c s).ends
  case inl => exact ⟨.inr hnext, fun _ => hnext⟩
  case inr => exact ⟨.inl hfault, fun hwell => by simp [hwell] at hill⟩

end Sys2Proof.Machine

/-!
# Bring-up (R366 to R368, R381 to R385, R401 to R416, R535, R549)

A step written at a window begins by `State.runStep_open`, runs its action, and ends by BRINGUP_STEP_END or at its limit. Its end goes by
`State.stepEnds`, by the outcome the action left, and by the step's code.
-/
namespace Sys2Proof.Machine

section StepEnd

variable {s t : State}

/-! ### The end of a step -/

/-- A step runs, and neither CRST_N nor a bank write of the window holds its end (R395, R402). -/
abbrev State.stepEnds (s : State) : Prop :=
  s.bu.state = 1 ∧ s.bu.awaits = false ∧ s.firm.write.any (fun w => w.fromWindow) = false

theorem State.stepEnds_unwritten (hrun : s.bu.state = 1) (hawaits : s.bu.awaits = false) (hwrite : s.firm.write = none) : s.stepEnds :=
  ⟨hrun, hawaits, by simp [hwrite]⟩

/-- Where a step ends, its end reports the outcome. -/
theorem execBringupStepEnd_reports (hends : s.stepEnds) {o : Byte × DWord}
    (ho : o = if s.bu.step = 3 ∧ s.bu.outcome.1 = 0 then (0, s.trainData) else s.bu.outcome) (ht : t = s.endStep o.1 o.2) :
    execBringupStepEnd s =
      if o.1 ≠ 0 then .next { t with bu := { t.bu with latched := if o.1 = 4 ∨ o.1 = 5 then some o else t.bu.latched } }
      else if s.bu.step = recoverCode then .next t
      else .next (
        if s.bu.step = 5 then
          ({ t with bu := { t.bu with lastDone := s.bu.step, cwData := if s.bu.step = 6 then o.2 else t.bu.cwData } } : State).bankBooted
        else if s.bu.step = 9 then
          ({ t with bu := { t.bu with lastDone := s.bu.step, cwData := if s.bu.step = 6 then o.2 else t.bu.cwData } } : State).queuesDone
        else { t with bu := { t.bu with lastDone := s.bu.step, cwData := if s.bu.step = 6 then o.2 else t.bu.cwData } }) := by
  obtain ⟨hrun, hawaits, hwrite⟩ := hends
  subst ht ho
  unfold execBringupStepEnd
  cases hbank : s.firm.write with
  | none => rw [if_neg (by simp [hrun, hawaits])]
  | some w =>
    have hw : w.fromWindow = false := by simpa [hbank] using hwrite
    rw [if_neg (by simp [hrun, hawaits, hw])]

theorem execBringupStepEnd_waits (hends : ¬ s.stepEnds) : execBringupStepEnd s = .next s := by
  unfold execBringupStepEnd
  rw [if_pos]
  refine Classical.byContradiction fun hnone => ?_
  simp only [not_or, ne_eq, Classical.not_not, Bool.not_eq_true] at hnone
  obtain ⟨hrun, hawaits, hwriting⟩ := hnone
  refine hends ⟨hrun, hawaits, ?_⟩
  cases hbank : s.firm.write with
  | none => rfl
  | some w => simpa [hbank] using hwriting

/-- A step whose outcome is a cause fails with it; an orientation or fuse fault stays latched (R402, R409). -/
theorem exec_bringupStepEnd_fails (hends : s.stepEnds) (hcause : s.bu.outcome.1 ≠ 0)
    (ht : t = s.endStep s.bu.outcome.1 s.bu.outcome.2) :
    exec .bringupStepEnd s =
      .next { t with bu := { t.bu with
        latched := if s.bu.outcome.1 = 4 ∨ s.bu.outcome.1 = 5 then some s.bu.outcome else t.bu.latched } } := by
  have ho : s.bu.outcome = if s.bu.step = 3 ∧ s.bu.outcome.1 = 0 then (0, s.trainData) else s.bu.outcome :=
    (if_neg fun h => hcause h.2).symm
  change execBringupStepEnd s = _
  rw [execBringupStepEnd_reports hends ho ht, if_pos hcause]

/-- The data a completed step reports: TRAIN's is what came up (R404). -/
def State.doneData (s : State) : DWord := if s.bu.step = 3 then s.trainData else s.bu.outcome.2

/-- A step without a cause is DONE and the last one done; three steps leave more behind (R384, R399, R402). -/
theorem exec_bringupStepEnd_done (hends : s.stepEnds) (hok : s.bu.outcome.1 = 0) (hcode : s.bu.step ≠ recoverCode)
    (ht : t = s.endStep 0 s.doneData) {u : State}
    (hu : u = { t with bu := { t.bu with
      lastDone := s.bu.step, cwData := if s.bu.step = 6 then s.doneData else t.bu.cwData } }) :
    exec .bringupStepEnd s =
      .next (if s.bu.step = 5 then u.bankBooted else if s.bu.step = 9 then u.queuesDone else u) := by
  have ho : (0, s.doneData) = if s.bu.step = 3 ∧ s.bu.outcome.1 = 0 then (0, s.trainData) else s.bu.outcome := by
    by_cases htrain : s.bu.step = 3
    · simp [State.doneData, htrain, hok]
    · simp [State.doneData, htrain, ← hok]
  change execBringupStepEnd s = _
  rw [execBringupStepEnd_reports hends ho ht, if_neg (by simp), if_neg hcode, hu]

theorem State.doneData_eq_outcome (h : s.bu.step ≠ 3) : s.doneData = s.bu.outcome.2 := if_neg h

/-- A completed LOAD_HEARTWOOD marks its bank booted (R384). -/
theorem exec_bringupStepEnd_heartwood (hdone : s.completesHeartwood) (ht : t = s.endStep 0 s.bu.outcome.2) :
    exec .bringupStepEnd s = .next ({ t with bu := { t.bu with lastDone := 5 } } : State).bankBooted := by
  obtain ⟨hrun, hawaits, hwrite, hok, hcode⟩ := hdone
  have hdata : s.doneData = s.bu.outcome.2 := State.doneData_eq_outcome (by simp [hcode])
  rw [exec_bringupStepEnd_done ⟨hrun, hawaits, hwrite⟩ hok (by rw [hcode]; decide) (ht.trans (by rw [hdata])) rfl, if_pos hcode]
  simp only [hcode, reduceIte, Nat.reduceEqDiff]

/-- The end of a step that does not complete LOAD_HEARTWOOD leaves the firmware's state. -/
theorem exec_bringupStepEnd_firm (hnot : ¬ s.completesHeartwood) (h : exec .bringupStepEnd s = .next t) : t.firm = s.firm := by
  change execBringupStepEnd s = .next t at h
  by_cases hends : s.stepEnds
  case neg =>
    rw [execBringupStepEnd_waits hends] at h
    exact Host.Outcome.next.inj h ▸ rfl
  case pos =>
    obtain ⟨o, ho⟩ : ∃ o, o = if s.bu.step = 3 ∧ s.bu.outcome.1 = 0 then (0, s.trainData) else s.bu.outcome := ⟨_, rfl⟩
    rw [execBringupStepEnd_reports hends ho rfl] at h
    split at h
    case isTrue => exact Host.Outcome.next.inj h ▸ rfl
    case isFalse hok =>
      split at h
      case isTrue => exact Host.Outcome.next.inj h ▸ rfl
      case isFalse =>
        split at h
        case isTrue hcode =>
          obtain ⟨hrun, hawaits, hwrite⟩ := hends
          exact absurd ⟨hrun, hawaits, hwrite, by simpa [ho, hcode] using hok, hcode⟩ hnot
        case isFalse =>
          split at h
          · exact Host.Outcome.next.inj h ▸ rfl
          · exact Host.Outcome.next.inj h ▸ rfl

end StepEnd

/-! ### Key slots (R383) -/

theorem mem_setIns {l : List Nat} {a k : Nat} : k ∈ setIns l a ↔ k = a ∨ k ∈ l := by
  induction l with
  | nil => simp [setIns]
  | cons b l ih =>
    simp only [setIns]
    split
    · simp
    · split
      next heq => simp [heq]
      next =>
        simp only [List.mem_cons, ih]
        exact or_left_comm

theorem mem_foldl_setIns_iff {m l : List Nat} {k : Nat} : k ∈ m.foldl setIns l ↔ k ∈ l ∨ k ∈ m := by
  induction m generalizing l with
  | nil => simp
  | cons a m ih => rw [List.foldl_cons, ih, mem_setIns, List.mem_cons, or_comm (a := k = a), or_assoc]

@[simp] theorem State.raiseFloor_revoked (s : State) (kind svn : Nat) : (s.raiseFloor kind svn).firm.revoked = s.firm.revoked := by
  unfold State.raiseFloor
  cases s.firm.setInForceB <;> rfl

/-- The end of a LOAD_HEARTWOOD leaves the key slots where the bank has booted before or its patch does not revoke. -/
theorem State.bankBooted_revoked_of_unrevoking {s : State} {i : FwImage} (hrun : s.firm.runningHw = some i)
    (h : s.runningBank.booted = true ∨ i.revokeLower = false) : s.bankBooted.firm.revoked = s.firm.revoked := by
  unfold State.runningBank at h
  by_cases hbooted : (if s.firm.runningBankB then s.firm.bankB else s.firm.bankA).booted = true
  · simp [State.bankBooted, hrun, hbooted]
  · have hkeeps : i.revokeLower = false := h.resolve_left hbooted
    simp [State.bankBooted, hrun, hbooted, hkeeps]

/-- The first boot of a REVOKE_LOWER patch revokes every slot below its key (R383). -/
theorem State.mem_bankBooted_revoked {s : State} {i : FwImage} {k : Nat} (hrun : s.firm.runningHw = some i)
    (hnew : s.runningBank.booted = false) (hlower : i.revokeLower = true) :
    k ∈ s.bankBooted.firm.revoked ↔ k ∈ s.firm.revoked ∨ k < i.key := by
  unfold State.runningBank at hnew
  simp [State.bankBooted, hrun, hnew, hlower, mem_foldl_setIns_iff]

/-- Settles O44: BRINGUP_STEP_END alone changes the revoked slots, and it does so where it completes LOAD_HEARTWOOD. -/
theorem keySlotsAreRevokedOnlyByAFirstBoot : Obligations.KeySlotsAreRevokedOnlyByAFirstBoot := by
  unfold Obligations.KeySlotsAreRevokedOnlyByAFirstBoot
  intro c s t h
  refine ⟨(exec_grows h).revoked, fun hc => ((exec_keeps s c hc).keeps t h).revoked, ?otherEnd, ?unrevoking, ?revoking⟩
  case otherEnd =>
    rintro rfl hnot
    rw [exec_bringupStepEnd_firm hnot h]
  case unrevoking =>
    rintro i rfl hrun hkeeps
    by_cases hdone : s.completesHeartwood
    case pos =>
      rw [exec_bringupStepEnd_heartwood hdone rfl] at h
      obtain rfl := Host.Outcome.next.inj h
      exact State.bankBooted_revoked_of_unrevoking hrun hkeeps
    case neg => rw [exec_bringupStepEnd_firm hdone h]
  case revoking =>
    rintro i rfl hdone hrun hnew hlower k
    rw [exec_bringupStepEnd_heartwood hdone rfl] at h
    obtain rfl := Host.Outcome.next.inj h
    exact State.mem_bankBooted_revoked hrun hnew hlower

end Sys2Proof.Machine

/-! ### The limit of a step and the mirror (R402, R408, R414, R535, R549) -/

namespace Sys2Proof.Machine

section Windows

variable {s t : State}

/-- A step that has parts fails at its limit with the part it stands at, and what only a completed step leaves is
taken back (R402, R549). -/
theorem exec_bringupStepTimeout_part {sub : Byte} (hrun : s.bu.state = 1) (hawaits : s.bu.awaits = false)
    (hparts : stepParts s.bu.step ≠ 0) (hlo : 1 ≤ sub.toNat) (hhi : sub.toNat ≤ stepParts s.bu.step) :
    exec (.bringupStepTimeout sub) s = .next ((s.undoStep s.bu.step).endStep 9 (failData 0 sub.toNat)) := by
  change execBringupStepTimeout sub s = _
  simp [execBringupStepTimeout, hrun, hawaits, hparts, hlo, hhi]

theorem exec_bringupStepTimeout_whole (hrun : s.bu.state = 1) (hawaits : s.bu.awaits = false) (hparts : stepParts s.bu.step = 0) :
    exec (.bringupStepTimeout 0) s = .next ((s.undoStep s.bu.step).endStep 9 (failData 0 0)) := by
  change execBringupStepTimeout 0 s = _
  simp [execBringupStepTimeout, hrun, hawaits, hparts]

/-- A block write to the mirror's address writes its bytes one after another, and then BU_RESET where it touches it (R408, R535). -/
theorem exec_smbusBlockWrite_writes {x : BitVec 7} {off : Half} {d : Bytes} (hvaux : s.bu.vaux = true) (haddr : x.toNat = s.mirrorAddr)
    (ht : t = d.zipIdx.foldl (fun w y => w.mirrorByte (off.toNat + y.2) y.1) s) :
    (mirrorReset off.toNat d = none → exec (.smbusBlockWrite x off d) s = .next t)
    ∧ (∀ n : Nat, mirrorReset off.toNat d = some n →
        exec (.smbusBlockWrite x off d) s = .next (t.buReset (bits n 31 16) (bits n 2 0) (bits n 11 8))) := by
  change (_ → execSmbusBlockWrite x off d s = _) ∧ ∀ n : Nat, _ → execSmbusBlockWrite x off d s = _
  subst ht
  constructor
  · intro hnone
    simp [execSmbusBlockWrite, hvaux, haddr, hnone]
  · intro n hsome
    simp [execSmbusBlockWrite, hvaux, haddr, hsome]

end Windows

/-- Settles O36: the end of a step goes by its outcome and its code. That a step at its limit takes back what only a completed step leaves is
log entry 34. -/
theorem stepEndsAndMirrorComplete : Obligations.StepEndsAndMirrorComplete := by
  unfold Obligations.StepEndsAndMirrorComplete
  intro s t
  refine ⟨fun hrun hawaits hwrite hok hcode ht hplain => ?plain, fun hrun hawaits hwrite hok hcode ht => ?train,
    fun hrun hawaits hwrite hok hcode ht => ?queues, fun hrun hawaits hwrite hok hcode ht => ?heartwood,
    fun hrun hawaits hwrite hok hcode ht => ?cordwood,
    fun hrun hawaits hwrite => exec_bringupStepEnd_fails (State.stepEnds_unwritten hrun hawaits hwrite),
    fun sub => exec_bringupStepTimeout_part, exec_bringupStepTimeout_whole, fun hvaux => ?statusRead,
    fun x off d hvaux haddr hnone ht => (exec_smbusBlockWrite_writes hvaux haddr ht).1 hnone,
    fun x off d n hvaux haddr hsome ht => (exec_smbusBlockWrite_writes hvaux haddr ht).2 n hsome⟩
  case plain =>
    simp only [List.mem_cons, List.not_mem_nil, or_false, not_or] at hplain
    obtain ⟨htrain, hheart, hcord, hqueues⟩ := hplain
    rw [exec_bringupStepEnd_done (State.stepEnds_unwritten hrun hawaits hwrite) hok hcode
      (ht.trans (by rw [State.doneData_eq_outcome htrain])) rfl, if_neg hheart, if_neg hqueues, if_neg hcord]
  case train =>
    rw [exec_bringupStepEnd_done (State.stepEnds_unwritten hrun hawaits hwrite) hok (by rw [hcode]; decide)
      (ht.trans (by rw [State.doneData, if_pos hcode])) rfl]
    simp only [hcode, reduceIte, Nat.reduceEqDiff]
  case queues =>
    rw [exec_bringupStepEnd_done (State.stepEnds_unwritten hrun hawaits hwrite) hok (by rw [hcode]; decide)
      (ht.trans (by rw [State.doneData_eq_outcome (by simp [hcode])])) rfl]
    simp only [hcode, reduceIte, Nat.reduceEqDiff]
  case heartwood =>
    obtain ⟨_, _, hwindow⟩ := State.stepEnds_unwritten hrun hawaits hwrite
    exact exec_bringupStepEnd_heartwood ⟨hrun, hawaits, hwindow, hok, hcode⟩ ht
  case cordwood =>
    have hdata : s.doneData = s.bu.outcome.2 := State.doneData_eq_outcome (by simp [hcode])
    rw [exec_bringupStepEnd_done (State.stepEnds_unwritten hrun hawaits hwrite) hok (by rw [hcode]; decide)
      (ht.trans (by rw [hdata])) rfl]
    simp only [hcode, reduceIte, Nat.reduceEqDiff, hdata]
  case statusRead =>
    change Host.Outcome.next (if s.bu.vaux then _ else s) = _
    rw [if_pos hvaux]

/-! ### The steps (R366 to R368, R381, R384, R401 to R416) -/

section Steps

variable {v : Via} {s u t : State}

/-- Once three boot cores agree a step acts (R368). -/
theorem State.voted_agreed {cores : Nat} {act : State → State} (h : 3 ≤ cores) : u.voted cores act = act u :=
  if_neg (Nat.not_lt.mpr h)

/-! BASE_POWER -/

theorem exec_basePower_acts {o : BaseObs} (hopen : s.stepOpen 1 v) (hu : u = s.stepBegun 1) (hbumps : o.bumps.length = 4)
    (hfuses : o.fuses.length = 40) : exec (.basePower v o) s = .next (u.basePowerAct o) := by
  change execBasePower v o s = _
  rw [execBasePower, if_neg (by simp [hbumps, hfuses]), State.runStep_open hopen, hu]

/-- Sound rails, bumps and fuses and three agreeing cores: the stored settings and the defect list are taken (R411, R474). -/
theorem State.basePowerAct_sound {o : BaseObs} {n : List Nat} (hgroup : o.badGroup = none) (hbumps : badQuadrant o.bumps 0 [] = none)
    (hn : n = o.bumps.map (fun b => (setBits b.toNat 4).headD 0)) (hfuses : badFuse n o.fuses = none) (hvotes : 3 ≤ o.votingCores) :
    u.basePowerAct o =
      ({ u.loadSettings.applyList with bu := { u.loadSettings.applyList.bu with baseOn := true, orient := n } } : State).succeeds 0 := by
  subst hn
  simp only [State.basePowerAct, hgroup, hbumps, hfuses, State.voted_agreed hvotes]

theorem State.basePowerAct_badGroup {o : BaseObs} {g : GroupIx} (h : o.badGroup = some g) : u.basePowerAct o = u.fails 0x06 g.val 0 := by
  simp only [State.basePowerAct, h]

/-! TRAIN, SOD_TEST, LOAD_HEARTWOOD -/

theorem State.trainAct_sound {o : TrainObs} (hgroup : o.badGroup = none) (hport : o.badPort = none) (hsite : o.badSite = none)
    (hvotes : 3 ≤ o.votingCores)
    (ht : t = (List.range 352).foldl (fun x l => x.trainLink l)
      ({ u with bu := { u.bu with photonicsOn := true, memoryOn := true } } : State).zeroSites) :
    u.trainAct o = t.succeeds 0 := by
  subst ht
  simp only [State.trainAct, hgroup, hport, hsite, State.voted_agreed hvotes]

theorem State.sodAct_tested {o : SodObs} (hvotes : 3 ≤ o.votingCores)
    (ht : t = (o.wakeFails.map (fun r => r.val)).foldl (fun x r => x.sodWakeFail r) (o.defects.foldl (fun x d => x.takeFinding d) u)) :
    u.sodAct o =
      t.succeeds ((t.firm.defects.length - u.firm.defects.length) * 2 ^ 48 + t.firm.defects.length * 2 ^ 32 + t.unavailable * 2 ^ 8) := by
  subst ht
  simp only [State.sodAct, State.voted_agreed hvotes]

/-- LOAD_HEARTWOOD runs the chosen bank on the voting cores (R367, R384). -/
theorem State.loadHeartwoodAct_runs {b : Bool} {i : FwImage} (hcores : 3 ≤ u.goodCores.length) (hbank : u.chooseBank = some (b, i))
    (ht : t = u.goodCores.zipIdx.foldl (fun x m => x.modMc m.1 (fun y => { y with role := if m.2 < 3 then .running else .standby }))
      ({ u with bu := { u.bu with noBank := false } } : State)) :
    u.loadHeartwoodAct =
      ({ t with firm := { t.firm with runningHw := some i, runningBankB := b } } : State).succeeds
        (i.release * 2 ^ 48 + b2n b * 2 ^ 8) := by
  subst ht
  have hbank' : ({ u with bu := { u.bu with noBank := false } } : State).chooseBank = some (b, i) := hbank
  simp only [State.loadHeartwoodAct, if_neg (Nat.not_lt.mpr hcores), hbank']

theorem State.loadHeartwoodAct_noBank (hcores : 3 ≤ u.goodCores.length) (hbank : u.chooseBank = none) :
    u.loadHeartwoodAct = ({ u with bu := { u.bu with noBank := true } } : State).fails 0x0C 0 0 := by
  have hbank' : ({ u with bu := { u.bu with noBank := false } } : State).chooseBank = none := hbank
  simp only [State.loadHeartwoodAct, if_neg (Nat.not_lt.mpr hcores), hbank']

/-! HW_RECOVER and LOAD_CORDWOOD -/

theorem State.fetched_ok {d : Bytes} (h : u.arg 1 ≤ 36 * 2 ^ 20) : u.fetched (some d) = .ok d := if_neg (Nat.not_lt.mpr h)

theorem State.fetchFits_of_length {d : Bytes} (h : d.length = s.arg 1) : s.fetchFits (some d) = true := by
  simp [State.fetchFits, h]

theorem exec_hwRecover_acts {d : Bytes} (hopen : s.stepOpen 0x10 v) (hu : u = s.stepBegun 0x10) (hlen : d.length = s.arg 1) :
    exec (.hwRecover v (some d)) s = .next (u.recoverAct (some d)) := by
  change execHwRecover v (some d) s = _
  rw [execHwRecover, if_neg (by simp [State.fetchFits_of_length hlen]), State.runStep_open hopen, hu]

theorem State.recoverAct_invalid {d : Bytes} {c : Nat} (hroom : u.arg 1 ≤ 36 * 2 ^ 20)
    (hfault : u.fwFault 1 d u.firm.runningCw = some c) : u.recoverAct (some d) = u.imageFails c := by
  simp only [State.recoverAct, State.fetched_ok hroom, hfault]

/-- A valid patch begins to be written to bank B, whose commit record is invalidated first (R404, R473). -/
theorem State.recoverAct_valid {d : Bytes} {w : BankWrite} (hroom : u.arg 1 ≤ 36 * 2 ^ 20)
    (hfault : u.fwFault 1 d u.firm.runningCw = none) (hbank : (u.arg 2).testBit 0 = true)
    (hw : w = { heartwood := true, bankB := true, image := some (fwImageOf d), fromWindow := true }) :
    u.recoverAct (some d) = { u with firm := { u.firm with bankB := { u.firm.bankB with valid := false }, write := some w } } := by
  subst hw
  simp only [State.recoverAct, State.fetched_ok hroom, hfault, hbank, if_true]

theorem exec_loadCordwood_acts {d : Bytes} (hopen : s.stepOpen 6 v) (hu : u = s.stepBegun 6) (hlen : d.length = s.arg 1) :
    exec (.loadCordwood v (some d)) s = .next (u.loadCordwoodAct (some d)) := by
  change execLoadCordwood v (some d) s = _
  rw [execLoadCordwood, if_neg (by simp [State.fetchFits_of_length hlen]), State.runStep_open hopen, hu]

theorem State.loadCordwoodAct_invalid {d : Bytes} {c : Nat} (hroom : u.arg 1 ≤ 36 * 2 ^ 20)
    (ht : t = { u with firm := { u.firm with staged := memWrite [] 0 d, stagedTop := d.length } })
    (hfault : t.fwFault 2 d t.firm.runningHw = some c) : u.loadCordwoodAct (some d) = t.imageFails c := by
  subst ht
  simp only [State.loadCordwoodAct, State.fetched_ok hroom, hfault]

/-- A valid image runs on the service cores that serve (R376, R385). -/
theorem State.loadCordwoodAct_valid {d : Bytes} (hroom : u.arg 1 ≤ 36 * 2 ^ 20)
    (ht : t = { u with firm := { u.firm with staged := memWrite [] 0 d, stagedTop := d.length } })
    (hfault : t.fwFault 2 d t.firm.runningHw = none) (hcores : 8 ≤ t.scServing.length) :
    u.loadCordwoodAct (some d) =
      ({ t.runStaged with bu := { t.runStaged.bu with cordwoodUp := true } } : State).succeeds
        (fwRelease t.runStaged.firm.runningCw * 2 ^ 48 + t.scServing.length * 2 ^ 8) := by
  subst ht
  simp only [State.loadCordwoodAct, State.fetched_ok hroom, hfault, if_neg (Nat.not_lt.mpr hcores)]

/-! CELLS_POWER, STEWARD_BROADCAST, QUEUES_ENABLE -/

theorem State.cellsPowerAct_waits {l : List RegionIx} {g : Option GroupIx} (h : u.bu.crstLow = true) :
    u.cellsPowerAct l g = { u with bu := { u.bu with awaits := true } } := by
  rw [State.cellsPowerAct, if_pos h]

/-- With CRST_N high every region that has not failed is woken (R395, R403). -/
theorem State.cellsPowerAct_wakes {l : List RegionIx} (h : u.bu.crstLow = false)
    (ht : t = ((List.range 64).filter (fun r => !(u.region r).failed && (u.region r).sleep != .s0)).foldl (fun x r =>
      if l.any (fun y => y.val == r) then x.wakeFailed r 1 []
      else (x.modRegion r (fun y => { y with wakeFail := false })).wakeDone r true)
        ({ u with bu := { u.bu with computeOn := true } } : State)) :
    u.cellsPowerAct l none =
      t.succeeds (((List.range 64).filter (fun r => (t.region r).sleep == .s0)).length * 2 ^ 8
        + ((List.range 64).filter (fun r => (t.region r).wakeFail)).length * 2 ^ 16) := by
  subst ht
  rw [State.cellsPowerAct, if_neg (by simp [h])]
  rfl

/-- The broadcast without a faulted cell gives every awake cell the running image's steward (R406). -/
theorem State.broadcastAct_sound {n : Nat} {sec : Bytes} (hsec : sec = (u.firm.runningCw.map (fun i => i.steward)).getD [])
    (ht : t = { u with firm := { u.firm with stewardCopy := sec } }) :
    u.broadcastAct n [] =
      (((List.range 4096).filter (fun c => (t.region (regionOf c)).sleep == .s0)).foldl
        (fun x c => x.modCell c (fun y => { y with steward := sec })) t).succeeds (n % 65536 * 2 ^ 48) := by
  subst ht hsec
  cases hcw : u.firm.runningCw <;> simp [State.broadcastAct, hcw]

theorem State.queuesAct_opens (h : u.queueArgFault = none) :
    u.queuesAct = u.openQueue0.reportLastOp.succeeds (b2n u.bu.lastopShown.isSome * 2 ^ 8) := by
  simp only [State.queuesAct, h]

theorem State.queuesAct_refused {n : Nat} (h : u.queueArgFault = some n) : u.queuesAct = u.fails 0x11 0 n := by
  simp only [State.queuesAct, h]

end Steps

/-- Settles O35: each clause is one path of its step's action. That a step acts at its acceptance is log entry 34, and that a signature and a
hash are uninterpreted is log entry 7. -/
theorem bringupStepsComplete : Obligations.BringupStepsComplete := by
  unfold Obligations.BringupStepsComplete
  intro v s u
  refine ⟨fun o n hopen hu hbumps hfuses hgroup hquadrants hn hgood hvotes => ?basePower,
    fun o g hopen hu hbumps hfuses hgroup => ?badRail, fun cores hopen hu hclock hvotes => ?clocksStart,
    fun hopen hu hclock cores => ?noClock, fun cores hopen hu hclock hvotes => ?fewCores,
    fun o t hopen hu hgroup hport hsite hvotes ht => ?train, fun o t hopen hu hvotes ht => ?sodTest,
    fun b i t hopen hu hcores hbank ht => ?heartwood, fun hopen hu hcores hbank => ?noBank,
    fun d w hopen hu hroom hlen hbank hw => ?recover, fun d t hopen hu hroom hlen hcores ht => ?cordwood,
    fun l t hopen hu hpin ht => ?cellsPower, fun l hopen hu hpin => ?cellsWait, fun n sec t hopen hu hsec ht => ?steward,
    fun hopen hu harg => ?queues, fun n hopen hu harg => ?queueRefused⟩
  case basePower =>
    rw [exec_basePower_acts hopen hu hbumps hfuses, State.basePowerAct_sound hgroup hquadrants hn hgood hvotes]
  case badRail => rw [exec_basePower_acts hopen hu hbumps hfuses, State.basePowerAct_badGroup hgroup]
  case clocksStart =>
    change Host.Outcome.next (s.runStep 2 v _) = _
    rw [State.runStep_open hopen, ← hu, if_neg (by simp [hclock]), State.voted_agreed hvotes]
  case noClock =>
    change Host.Outcome.next (s.runStep 2 v _) = _
    rw [State.runStep_open hopen, ← hu, if_pos (by simp [hclock])]
  case fewCores =>
    change Host.Outcome.next (s.runStep 2 v _) = _
    rw [State.runStep_open hopen, ← hu, if_neg (by simp [hclock]), State.voted, if_pos hvotes]
  case train =>
    change Host.Outcome.next (s.runStep 3 v _) = _
    rw [State.runStep_open hopen, ← hu, State.trainAct_sound hgroup hport hsite hvotes ht]
  case sodTest =>
    change Host.Outcome.next (s.runStep 4 v _) = _
    rw [State.runStep_open hopen, ← hu, State.sodAct_tested hvotes ht]
  case heartwood =>
    change Host.Outcome.next (s.runStep 5 v _) = _
    rw [State.runStep_open hopen, ← hu, State.loadHeartwoodAct_runs hcores hbank ht]
  case noBank =>
    change Host.Outcome.next (s.runStep 5 v _) = _
    rw [State.runStep_open hopen, ← hu, State.loadHeartwoodAct_noBank hcores hbank]
  case recover =>
    have hroom' : u.arg 1 ≤ 36 * 2 ^ 20 := hu ▸ hroom
    rw [exec_hwRecover_acts hopen hu hlen]
    cases hfault : u.fwFault 1 d u.firm.runningCw with
    | some c => rw [State.recoverAct_invalid hroom' hfault]
    | none => rw [State.recoverAct_valid hroom' hfault hbank hw]
  case cordwood =>
    have hroom' : u.arg 1 ≤ 36 * 2 ^ 20 := hu ▸ hroom
    rw [exec_loadCordwood_acts hopen hu hlen]
    cases hfault : t.fwFault 2 d t.firm.runningHw with
    | some c => rw [State.loadCordwoodAct_invalid hroom' ht hfault]
    | none => rw [State.loadCordwoodAct_valid hroom' ht hfault hcores]
  case cellsPower =>
    change Host.Outcome.next (s.runStep 7 v _) = _
    rw [State.runStep_open hopen, ← hu, State.cellsPowerAct_wakes (hu ▸ hpin) ht]
  case cellsWait =>
    change Host.Outcome.next (s.runStep 7 v _) = _
    rw [State.runStep_open hopen, ← hu, State.cellsPowerAct_waits (hu ▸ hpin)]
  case steward =>
    have hsec' : sec = (u.firm.runningCw.map (fun i => i.steward)).getD [] := by
      rw [hsec]
      cases u.firm.runningCw <;> rfl
    change Host.Outcome.next (s.runStep 8 v _) = _
    rw [State.runStep_open hopen, ← hu, State.broadcastAct_sound hsec' ht]
  case queues =>
    change Host.Outcome.next (s.runStep 9 v _) = _
    rw [State.runStep_open hopen, ← hu, State.queuesAct_opens harg]
  case queueRefused =>
    change Host.Outcome.next (s.runStep 9 v _) = _
    rw [State.runStep_open hopen, ← hu, State.queuesAct_refused harg]

end Sys2Proof.Machine

/-!
# Resets (R393 to R395, R407)

BU_RESET of the compute scope is ignored while a compute reset is in progress, whether BU_RESET or CRST_N asserted it.
-/
namespace Sys2Proof.Machine

/-- A state in which CRST_N is low and BU_RESET has asserted no compute reset. -/
def underCrst : State := { State.reset with bu := { islandUp := true, crstLow := true } }

/-- While CRST_N is low a write of the compute scope is only flagged (R407). -/
theorem exec_buResetCompute_underCrst : exec (.buResetCompute 0xA5C3) underCrst = .next underCrst.cmdIgnored := rfl

/-- Refutes O34: the clause of BU_RESET's compute scope lets CRST_N be low, and then the write is ignored and asserts no reset. -/
theorem not_resetsComplete : ¬ Obligations.ResetsComplete := by
  unfold Obligations.ResetsComplete
  intro h
  obtain ⟨_, _, _, _, _, _, _, _, _, _, _, hcompute, _⟩ := h underCrst
  have hasserted := hcompute underCrst.assertCompute rfl rfl rfl
  rw [exec_buResetCompute_underCrst] at hasserted
  have hheld : underCrst.cmdIgnored.bu.computeHeld = true := congrArg (fun v => v.bu.computeHeld) (Host.Outcome.next.inj hasserted)
  exact Bool.false_ne_true hheld

end Sys2Proof.Machine

/-!
# Queue and memory commands (R337 to R347, R353, R362 to R364)

A ready command acts by `State.withCmd_ready` on the state `u` that records it, and each path of its row is one clause.
-/
namespace Sys2Proof.Machine

section QueueCommands

variable {q : QueueIx} {slot : SlotIx} {s u : State} {a : Accepted}

/-- The rings that OPEN_QUEUE puts in module memory lie in ranges of the turf (R338). -/
abbrev State.ringsOwned (u : State) (a : Accepted) : Prop :=
  ((sqArg a.entry 3).testBit 8 = true →
      u.ringRefusal (sqTurf a.entry) (sqArg a.entry 1) (64 * 2 ^ bits (sqArg a.entry 3) 3 0) = none)
    ∧ ((sqArg a.entry 3).testBit 9 = true →
      u.ringRefusal (sqTurf a.entry) (sqArg a.entry 2) (16 * 2 ^ bits (sqArg a.entry 3) 7 4) = none)

/-- OPEN_QUEUE opens the closed queue `n` that ARG0 names, or that is the lowest free one of its range: a host queue at once. -/
theorem exec_openQueue_host {n : Nat} (hready : s.ready q slot 0x0001 a) (hu : u = s.beginCmd a) (hargs : openBad a.entry = false)
    (hturf : turfValid u.turfMap (sqTurf a.entry) = true) (hrings : u.ringsOwned a) (hhost : sqArg a.entry 4 = 0)
    (hpick : sqArg a.entry 0 = n ∧ n ≠ 0 ∨ sqArg a.entry 0 = 0 ∧ u.lowestQueue 1 4095 = some n)
    (hclosed : (u.queue n).state = .closed)
    (hquota : u.queuesHeld (sqTurf a.entry) < queueQuota u.turfMap (sqTurf a.entry)) :
    exec (.openQueue q slot) s = .next (u.openQueue a n (sqTurf a.entry) 0) := by
  obtain ⟨hsq, hcq⟩ := hrings
  have hpick' : (if sqArg a.entry 0 = 0 then u.lowestQueue 1 4095 else some (sqArg a.entry 0)) = some n := by
    obtain ⟨rfl, hn⟩ | ⟨hzero, hlow⟩ := hpick
    · rw [if_neg hn]
    · rw [if_pos hzero, hlow]
  change execOpenQueue q slot s = _
  simp [execOpenQueue, State.withCmd_ready hready, ← hu, hargs, hturf, hhost, ite_eq_right_iff.mpr hsq, ite_eq_right_iff.mpr hcq,
    hpick', hclosed, Nat.not_le.mpr hquota]

/-- A fabric queue of another module that is no version behind opens with its pair of doorbell counters (R343). -/
theorem exec_openQueue_fabric {n d : Nat} (hready : s.ready q slot 0x0001 a) (hu : u = s.beginCmd a) (hargs : openBad a.entry = false)
    (hturf : turfValid u.turfMap (sqTurf a.entry) = true) (hrings : u.ringsOwned a) (hfabric : sqArg a.entry 4 ≠ 0)
    (hthere : u.epPresent (sqArg a.entry 4) = true) (hother : u.localIx (sqArg a.entry 4) = none)
    (hpick : sqArg a.entry 0 = n ∧ n ≠ 0 ∨ sqArg a.entry 0 = 0 ∧ u.lowestQueue 4096 4096 = some n)
    (hclosed : (u.queue n).state = .closed) (hquota : u.queuesHeld (sqTurf a.entry) < queueQuota u.turfMap (sqTurf a.entry))
    (hversion : (tget u.fab.pairs {} (u.peerOf (sqArg a.entry 4))).state ≠ 1) (hpair : u.lowestPair = some d)
    (hsync : u.syncHeld (sqTurf a.entry) + 2 ≤ syncQuota u.turfMap (sqTurf a.entry)) :
    exec (.openQueue q slot) s = .next (u.openQueue a n (sqTurf a.entry) d) := by
  obtain ⟨hsq, hcq⟩ := hrings
  have hpick' : (if sqArg a.entry 0 = 0 then u.lowestQueue 4096 4096 else some (sqArg a.entry 0)) = some n := by
    obtain ⟨rfl, hn⟩ | ⟨hzero, hlow⟩ := hpick
    · rw [if_neg hn]
    · rw [if_pos hzero, hlow]
  change execOpenQueue q slot s = _
  simp [execOpenQueue, State.withCmd_ready hready, ← hu, hargs, hturf, hfabric, hthere, hother, ite_eq_right_iff.mpr hsq,
    ite_eq_right_iff.mpr hcq, hpick', hclosed, Nat.not_le.mpr hquota, hpair, Nat.not_lt.mpr hsync]
  exact fun hbehind => absurd hbehind hversion

/-- CLOSE_QUEUE goes by the state of the queue it names (R346). -/
theorem exec_closeQueue_byState (hready : s.ready q slot 0x0002 a) (hu : u = s.beginCmd a) (hnz : sqArg a.entry 0 ≠ 0) :
    ((u.queue (sqArg a.entry 0)).state = .closed → exec (.closeQueue q slot) s = .next (u.done a 1))
    ∧ ((u.queue (sqArg a.entry 0)).state = .closing →
        exec (.closeQueue q slot) s = .next (u.modAccepted a.q a.slot (fun b => { b with aux := 1 })))
    ∧ ((u.queue (sqArg a.entry 0)).state = .opened ∨ (u.queue (sqArg a.entry 0)).state = .error →
        exec (.closeQueue q slot) s =
          .next ((u.modAccepted a.q a.slot (fun b => { b with aux := 0 })).startClose (sqArg a.entry 0) 8 (sqArg a.entry 1))) := by
  change (_ → execCloseQueue q slot s = _) ∧ (_ → execCloseQueue q slot s = _) ∧ (_ → execCloseQueue q slot s = _)
  refine ⟨fun hclosed => ?_, fun hclosing => ?_, ?_⟩
  · simp only [execCloseQueue, State.withCmd_ready hready (sel := fun _ => true) rfl, ← hu, if_neg hnz, hclosed]
  · simp only [execCloseQueue, State.withCmd_ready hready (sel := fun _ => true) rfl, ← hu, if_neg hnz, hclosing]
  · rintro (hopened | herror)
    · simp only [execCloseQueue, State.withCmd_ready hready (sel := fun _ => true) rfl, ← hu, if_neg hnz, hopened]
    · simp only [execCloseQueue, State.withCmd_ready hready (sel := fun _ => true) rfl, ← hu, if_neg hnz, herror]

/-- BIND_TURF of an open queue without accepted commands revokes the counters it holds and binds it (Table 13.11). -/
theorem exec_bindTurf_binds (hready : s.ready q slot 0x0003 a) (hu : u = s.beginCmd a) (hnz : sqArg a.entry 0 ≠ 0)
    (hopened : (u.queue (sqArg a.entry 0)).state = .opened) (hturf : turfValid u.turfMap (sqArg a.entry 1) = true)
    (hidle : u.accepted.any (fun b => b.q == sqArg a.entry 0) = false)
    (hquota : (u.queue (sqArg a.entry 0)).turf = sqArg a.entry 1
      ∨ u.queuesHeld (sqArg a.entry 1) < queueQuota u.turfMap (sqArg a.entry 1)) :
    exec (.bindTurf q slot) s =
      .next ((((u.revokeQueueCtrs (sqArg a.entry 0)).modQueue (sqArg a.entry 0)
        (fun y => { y with turf := sqArg a.entry 1 })).bindEntry (sqArg a.entry 0)).done a 0) := by
  have hroom : ¬ ((u.queue (sqArg a.entry 0)).turf ≠ sqArg a.entry 1
      ∧ queueQuota u.turfMap (sqArg a.entry 1) ≤ u.queuesHeld (sqArg a.entry 1)) := by
    rintro ⟨hmoves, hfull⟩
    exact hquota.elim hmoves (Nat.not_lt.mpr hfull)
  change execBindTurf q slot s = _
  simp only [execBindTurf, State.withCmd_ready hready (sel := fun _ => true) rfl, ← hu, if_neg hroom, hidle]
  rw [if_neg (by simp [hnz, hopened, hturf])]
  rfl

/-- QUERY mode 2 moves notices out of the queue it may look at (R353). -/
theorem exec_queryNotices_moves {n : Nat} {r : Rick} (hready : s.ready q slot 0x0004 a) (hu : u = s.beginCmd a)
    (hmode : sqArg a.entry 0 = 2)
    (hwhose : (sqArg a.entry 3).testBit 15 = true ∧ a.q = 0 ∧ n = bits (sqArg a.entry 3) 12 0
      ∨ (sqArg a.entry 3).testBit 15 = false ∧ n = a.q)
    (haddr : u.addrCheck a.q (u.queue a.q).turf ((sqArg a.entry 2).testBit 0) (sqArg a.entry 1)
      (64 * bits (sqArg a.entry 2) 12 8) = none) (hr : r = (u.queue n).notices) :
    exec (.queryNotices q slot) s =
      .next (State.finishOut a
        ((moveItems (bits (sqArg a.entry 2) 12 8) r).1.length + r.lost * 2 ^ 16 + b2n r.overrun * 2 ^ 32)
        ((u.modQueue n (fun x => { x with
            notices := { (moveItems (bits (sqArg a.entry 2) 12 8) r).2 with overrun := false } })).writeOut a
          ((sqArg a.entry 2).testBit 0) (sqArg a.entry 1)
          ((moveItems (bits (sqArg a.entry 2) 12 8) r).1.flatMap (fun i => padTo 64 (i.flatMap (fun w => natLe 16 w.toNat)))))) := by
  subst hr
  change execQueryNotices q slot s = _
  simp only [execQueryNotices, State.withCmd_ready hready (sel := fun w => sqArg w 0 == 2) (by simp [hmode]), ← hu]
  obtain ⟨hother, hzero, rfl⟩ | ⟨hown, rfl⟩ := hwhose
  · rw [if_neg (by simp [hzero])]
    simp only [hother, haddr, if_true]
  · rw [if_neg (by simp [hown])]
    simp only [hown, haddr, Bool.false_eq_true, if_false]

end QueueCommands

/-- Settles O1: each clause is one path of its row. That D is the lowest free pair of the sync space is log entry 109. -/
theorem queueCommandsComplete : Obligations.QueueCommandsComplete := by
  unfold Obligations.QueueCommandsComplete
  intro q slot s u a hu
  refine ⟨fun hready => ?nop, fun n hready hargs hturf hsq hcq => exec_openQueue_host hready hu hargs hturf ⟨hsq, hcq⟩,
    fun n d hready hargs hturf hsq hcq => exec_openQueue_fabric hready hu hargs hturf ⟨hsq, hcq⟩,
    fun hready hnz => (exec_closeQueue_byState hready hu hnz).1, fun hready hnz => (exec_closeQueue_byState hready hu hnz).2.1,
    fun hready hnz => (exec_closeQueue_byState hready hu hnz).2.2, fun hready => exec_bindTurf_binds hready hu,
    fun hready hmode => ?identity, fun hready hmode hmay => ?queue, fun n r hready => exec_queryNotices_moves hready hu⟩
  case nop =>
    change Host.Outcome.next (s.withCmd q slot 0x0000 _ _) = _
    rw [State.withCmd_ready hready rfl, hu]
  case identity =>
    change Host.Outcome.next (s.withCmd q slot 0x0004 _ _) = _
    rw [State.withCmd_ready hready (by simp [hmode]), hu]
  case queue =>
    change Host.Outcome.next (s.withCmd q slot 0x0004 _ _) = _
    rw [State.withCmd_ready hready (by simp [hmode]), ← hu]
    exact congrArg _ (if_neg fun h => hmay.elim h.1 h.2)

section MemoryCommands

variable {q : QueueIx} {slot : SlotIx} {s u : State} {a : Accepted}

/-- ALLOC hands out the range found, zeroed where ZERO asks for it: a site's in place, a far unit's by stores (R362). -/
theorem exec_alloc_handsOut {ix n t off : Nat} (hready : s.ready q slot 0x0200 a) (hu : u = s.beginCmd a) (hix : sqArg a.entry 0 = ix)
    (hn : sqArg a.entry 1 = n) (ht : sqTurf a.entry = t) (hlo : 16 ≤ ix) (hhi : ix < 48) (hnz : n ≠ 0) (hpage : n % 4096 = 0)
    (howns : (List.range 64).any (fun j => u.rangeOwner ix j == some t) = true)
    (hthere : ix < 40 ∨ (u.fmu (ix - 40)).registered = true) (hfree : u.findFree t ix n = some off) :
    exec (.alloc q slot) s =
      .next (if (sqArg a.entry 2).testBit 0 = false then
          ({ u with allocs := u.allocs ++ [(t, ix, off, n)] } : State).done a (u.flatOf ix * 2 ^ 48 + off)
        else if ix < 40 then
          ((({ u with allocs := u.allocs ++ [(t, ix, off, n)] } : State).touch (ix - 16)).pokeZero (siteKey (ix - 16) off) n).done a
            (u.flatOf ix * 2 ^ 48 + off)
        else State.finishOut a (u.flatOf ix * 2 ^ 48 + off)
          (({ u with allocs := u.allocs ++ [(t, ix, off, n)] } : State).writeOut a false (u.flatOf ix * 2 ^ 48 + off)
            (List.replicate n 0))) := by
  have hbounds : ¬ (ix < 16 ∨ 48 ≤ ix ∨ n = 0 ∨ n % 4096 ≠ 0) := by omega
  have hpresent : ¬ (40 ≤ ix ∧ (!(u.fmu (ix - 40)).registered) = true) := by
    rintro ⟨hfar, habsent⟩
    obtain hsite | hregistered := hthere
    · omega
    · simp [hregistered] at habsent
  subst hix hn ht
  change execAlloc q slot s = _
  simp only [execAlloc, State.withCmd_ready hready (sel := fun _ => true) rfl, ← hu]
  rw [if_neg hbounds, if_neg (by simp [howns]), if_neg hpresent]
  simp only [hfree, Bool.not_eq_true']

/-- FREE removes the allocation at its address, of any turf for turf 0 (R362). -/
theorem exec_free_removes {p : Nat × Nat × Nat × Nat} (hready : s.ready q slot 0x0201 a) (hu : u = s.beginCmd a)
    (hfind : u.allocs.find? (fun x => u.flatOf x.2.1 * 2 ^ 48 + x.2.2.1 == sqArg a.entry 0) = some p)
    (hmay : (u.queue a.q).turf = 0 ∨ p.1 = sqTurf a.entry) :
    exec (.free q slot) s =
      .next (({ u with
        allocs := u.allocs.filter (fun x => !(u.flatOf x.2.1 * 2 ^ 48 + x.2.2.1 == sqArg a.entry 0)) } : State).done a 0) := by
  have howns : ¬ ((u.queue a.q).turf ≠ 0 ∧ p.1 ≠ sqTurf a.entry) := fun h => hmay.elim h.1 h.2
  change execFree q slot s = _
  simp only [execFree, State.withCmd_ready hready (sel := fun _ => true) rfl, ← hu, hfind, if_neg howns]

/-- Without an engine there is no least loaded one. -/
theorem State.leastLoaded_nil (u : State) : u.leastLoaded [] = none := rfl

/-- A descriptor goes to the engine of the mask with the fewest descriptors in flight (R363). -/
theorem State.dispatchDesc_placed {n : Nat} {raw : BitVec 512} {srcHost dstHost : Bool}
    (hleast : u.leastLoaded (((setBits (ceMask u.turfMap (u.queue a.q).turf) 64).filter (fun i => !(u.ce i).retired)).filter
      (fun i => decide (1 ≤ (u.ce i).free))) = some n) :
    State.dispatchDesc s u a raw srcHost dstHost =
      u.pushDesc n { raw := raw, turf := (u.queue a.q).turf, cmd := some (a.q, a.slot), srcHost := srcHost, dstHost := dstHost } := by
  have hsome : ¬ ((setBits (ceMask u.turfMap (u.queue a.q).turf) 64).filter (fun i => !(u.ce i).retired)).isEmpty = true := by
    intro hempty
    rw [List.isEmpty_iff.mp hempty, List.filter_nil, State.leastLoaded_nil] at hleast
    simp at hleast
  simp only [State.dispatchDesc, if_neg hsome, hleast]

/-- MAP_APERTURE changes the window once no access under its old mapping is outstanding (R355, R364). -/
theorem exec_mapAperture_maps (hready : s.ready q slot 0x0204 a) (hu : u = s.beginCmd a) (halign : sqArg a.entry 1 % 2 ^ 30 = 0)
    (hops : s.ops.any (fun o => o.unit == windowParty (s.queue q).port (sqArg a.entry 0)) = false)
    (hreads : (s.pcie (s.queue q).port).reads.any (fun r => r.window == sqArg a.entry 0) = false)
    (hmay : (tfind (u.pcie (s.queue q).port).windows (sqArg a.entry 0)).all (fun x =>
      x.turf == (u.queue a.q).turf || (u.queue a.q).turf == 0) = true) :
    exec (.mapAperture q slot) s =
      .next ((u.modPcie (s.queue q).port (fun x => { x with
        windows := if (sqArg a.entry 2).testBit 0 = true
          then tset x.windows (sqArg a.entry 0) { base := BitVec.ofNat 64 (sqArg a.entry 1), turf := (u.queue a.q).turf }
          else tdel x.windows (sqArg a.entry 0) })).done a 0) := by
  change execMapAperture q slot s = _
  dsimp only [execMapAperture]
  rw [State.withCmd_ready hready (by simp [hops, hreads]), ← hu, if_neg (fun h => h halign), if_neg]
  · split <;> rfl
  · cases hwin : tfind (u.pcie (s.queue q).port).windows (sqArg a.entry 0) with
    | none => simp
    | some x =>
      rw [hwin] at hmay
      intro hother
      obtain ⟨hturf, hzero⟩ := Bool.and_eq_true_iff.mp hother
      obtain hown | hturf0 := Bool.or_eq_true_iff.mp hmay
      · exact of_decide_eq_true hturf (eq_of_beq hown)
      · exact of_decide_eq_true hzero (eq_of_beq hturf0)

end MemoryCommands

/-- Settles O2: each clause is one path of its row. The address that ALLOC takes is log entry 112; the EPOCH of a COPY or FILL and
the engine that takes it are log entry 107. -/
theorem memoryCommandsComplete : Obligations.MemoryCommandsComplete := by
  unfold Obligations.MemoryCommandsComplete
  intro q slot s u a hu
  refine ⟨fun ix n t off hready => exec_alloc_handsOut hready hu, fun p hready => exec_free_removes hready hu,
    fun n hready hlo hhi hhost hboth hleast => ?copy, fun n hready hlo hhi hlen hdst hhost hleast => ?fill,
    fun hready => exec_mapAperture_maps hready hu⟩
  case copy =>
    change execCopy q slot s = _
    simp only [execCopy, State.withCmd_ready hready (sel := fun _ => true) rfl, ← hu]
    rw [if_neg, State.dispatchDesc_placed hleast]
    rintro (hzero | hlong | ⟨hfabric, hhosts⟩ | hends)
    · omega
    · omega
    · obtain hq | ⟨hsrc, hdst⟩ := hhost
      · omega
      · simp [hsrc, hdst] at hhosts
    · exact hboth hends
  case fill =>
    change execFill q slot s = _
    simp only [execFill, State.withCmd_ready hready (sel := fun _ => true) rfl, ← hu]
    rw [if_neg, State.dispatchDesc_placed hleast]
    rintro (hzero | hlong | hodd | hunaligned | ⟨hfabric, hdsthost⟩)
    · omega
    · omega
    · exact hodd hlen
    · exact hunaligned hdst
    · obtain hq | hmodule := hhost
      · omega
      · simp [hmodule] at hdsthost

end Sys2Proof.Machine

/-!
# Fetches, doorbells, apertures and registers (R332 to R335, R341, R343, R355, R356, R365, R533)
-/
namespace Sys2Proof.Machine

section Fetches

variable {q : QueueIx} {s u : State} {addr : Nat} {d : Bytes}

/-- CMD_FETCH from a ring in module memory accepts the entry that stands there, once nothing holds its site (R341). -/
theorem exec_cmdFetch_ownRing {o : Option Bytes} (hq : q.val < 4096) (hmay : s.mayFetch q = true) (hlen : d.length = 64)
    (hown : (s.queue q).sqMod = true) (haddr : addr = (s.queue q).sqAddr.toNat + 64 * (s.queue q).sqHead) (hheld : s.heldAt addr = false)
    (hrange : s.rangeCheck (s.queue q).turf addr 64 = none) (hread : s.fetchOwn (s.queue q).turf addr = some d) :
    exec (.cmdFetch q o) s = .next ((s.meetIn false addr 64).acceptEntry q (BitVec.ofNat 512 (leNat d))) := by
  subst haddr
  change execCmdFetch q o s = _
  simp [execCmdFetch, hq, hmay, hown, hheld, hrange, hread, hlen]

/-- FABRIC_QUEUE_FETCH takes 1 from D and accepts the next entry (R343). -/
theorem exec_fabricQueueFetch_accepts (hq : 4096 ≤ q.val) (hmay : s.mayFetch q = true)
    (haddr : addr = (s.queue q).sqAddr.toNat + 64 * (s.queue q).sqHead) (hheld : s.heldAt addr = false)
    (hu : u = s.waitTake (s.queue q).dCtr { who := coreParty 0 (s.batchCore (s.queue q).turf), thresh := 1, dec := 1, since := s.now })
    (hrange : u.rangeCheck (s.queue q).turf addr 64 = none) (hread : u.fetchOwn (s.queue q).turf addr = some d) :
    exec (.fabricQueueFetch q) s = .next ((u.meetIn false addr 64).acceptEntry q (BitVec.ofNat 512 (leNat d))) := by
  subst haddr
  change execFabricQueueFetch q s = _
  rw [execFabricQueueFetch, if_pos (by simp [hq, hmay, hheld])]
  simp only [← hu, hrange, hread, Option.isNone_none, if_true]

/-! ### Doorbells (R334, R335) -/

variable {p : PcieIx} {value : DWord}

theorem exec_sqTailWrite_moves (hfree : s.portWrites p = false) (hreach : s.doorbellReaches q p = true)
    (hfits : bits value.toNat 15 0 < ((s.renewQueue q).queue q).sqSize) :
    exec (.sqTailWrite q p value) s = .next ((s.renewQueue q).modQueue q (fun y => { y with sqTail := bits value.toNat 15 0 })) := by
  change execSqTailWrite q p value s = _
  rw [execSqTailWrite, if_neg (by simp [hfree]), if_neg (by simp [hreach]), if_neg (Nat.not_le.mpr hfits)]

theorem exec_cqHeadWrite_moves (hfree : s.portWrites p = false) (hreach : s.doorbellReaches q p = true)
    (hfits : bits value.toNat 15 0 < (s.queue q).cqSize)
    (hwritten : (bits value.toNat 15 0 + (s.queue q).cqSize - (s.queue q).cqHead) % (s.queue q).cqSize ≤ (s.queue q).unreleased) :
    exec (.cqHeadWrite q p value) s = .next ((s.renewQueue q).modQueue q (fun y => { y with cqHead := bits value.toNat 15 0 })) := by
  change execCqHeadWrite q p value s = _
  rw [execCqHeadWrite, if_neg (by simp [hfree]), if_neg (by simp [hreach]), if_neg]
  rintro (hbeyond | hunwritten)
  · exact absurd hfits (Nat.not_lt.mpr hbeyond)
  · exact absurd hwritten (Nat.not_le.mpr hunwritten)

/-- A doorbell write waits for the writes that its port received before it (R335). -/
theorem exec_doorbell_waits (hwrites : s.portWrites p = true) :
    exec (.sqTailWrite q p value) s = .next s ∧ exec (.cqHeadWrite q p value) s = .next s :=
  ⟨if_pos hwrites, if_pos hwrites⟩

/-- A doorbell write of another port, or of a queue that is not open, is ignored (R334). -/
theorem exec_doorbell_ignored (hfree : s.portWrites p = false) (hother : s.doorbellReaches q p = false) :
    exec (.sqTailWrite q p value) s = .next (s.doorbellIgnored q) ∧ exec (.cqHeadWrite q p value) s = .next (s.doorbellIgnored q) := by
  change execSqTailWrite q p value s = _ ∧ execCqHeadWrite q p value s = _
  rw [execSqTailWrite, if_neg (by simp [hfree]), if_pos (by simp [hother]), execCqHeadWrite, if_neg (by simp [hfree]),
    if_pos (by simp [hother])]
  exact ⟨rfl, rfl⟩

end Fetches

section Apertures

variable {p : PcieIx} {offset : Fin 68719476736} {s : State} {win : WindowSt} {base : Nat}

theorem exec_apertureWrite_issues {data : Bytes} (hwin : tfind (s.pcie p).windows (offset.val / 2 ^ 30) = some win)
    (hbase : base = win.base.toNat + offset.val % 2 ^ 30) :
    exec (.apertureWrite p offset data) s =
      .next ((pieces base data.length).foldl (fun (v : State) x =>
        if (v.issueRefusal win.turf x.1).isSome then v.apertureError p
        else (v.issueOp (windowParty p (offset.val / 2 ^ 30)).toNat win.turf 0x02 0 0 x.2 (BitVec.ofNat 64 x.1) 0 none
          (slice data (x.1 - base) x.2) false 3 p).1) s) := by
  subst hbase
  change execApertureWrite p offset data s = _
  simp only [execApertureWrite, hwin]

/-- A read of one piece that no rule refuses waits for its LOAD and for the stores of its window before it (R356). -/
theorem exec_apertureRead_issues {len : Fin 4097} {i : State × Word}
    (hwin : tfind (s.pcie p).windows (offset.val / 2 ^ 30) = some win) (hbase : base = win.base.toNat + offset.val % 2 ^ 30)
    (hpiece : pieces base len.val = [(base, len.val)]) (hmay : s.issueRefusal win.turf base = none)
    (hi : i = s.issueOp (windowParty p (offset.val / 2 ^ 30)).toNat win.turf 0x01 0 0 len.val (BitVec.ofNat 64 base) 0 none [] false 3 p) :
    exec (.apertureRead p offset len) s =
      .next ((i.1.modPcie p (fun x => { x with reads := x.reads ++ [{
        window := offset.val / 2 ^ 30, parts := [(i.2, len.val, none)]
        waits := (s.ops.filter (fun o =>
          o.unit == windowParty p (offset.val / 2 ^ 30) && hfld o.pkt.hdr 0 1 == 2)).map (fun o => o.tag) }] })).answerReads p) := by
  subst hbase hi
  change execApertureRead p offset len s = _
  simp only [execApertureRead, hwin, hpiece, List.foldl_cons, List.foldl_nil, hmay, Option.isSome_none, Bool.false_eq_true, if_false,
    List.nil_append]

theorem exec_apertureRead_unmapped {len : Fin 4097} (hnone : tfind (s.pcie p).windows (offset.val / 2 ^ 30) = none) :
    exec (.apertureRead p offset len) s = .next ((s.apertureError p).emit (.pcieRead p (List.replicate len.val 0xFF) false)) := by
  change execApertureRead p offset len s = _
  simp only [execApertureRead, hnone]

end Apertures

/-- Settles O3: each clause is one path of its row. That a doorbell which must wait leaves the state is log entry 141, with 16. -/
theorem doorbellsFetchAndWindowsComplete : Obligations.DoorbellsFetchAndWindowsComplete := by
  unfold Obligations.DoorbellsFetchAndWindowsComplete
  intro s
  refine ⟨fun q d hq hmay hlen hhost => exec_cmdFetch_hostRing hq hmay hhost hlen, fun q addr d o => exec_cmdFetch_ownRing,
    fun q addr u d => exec_fabricQueueFetch_accepts, fun q n hq hopened hpos hvalue hwritten => ?release,
    fun q p value => exec_sqTailWrite_moves, fun q p value => exec_cqHeadWrite_moves, fun q p value => exec_doorbell_waits,
    fun q p value => exec_doorbell_ignored, fun p offset data win base => exec_apertureWrite_issues,
    fun p offset len win base i => exec_apertureRead_issues, fun p offset len => exec_apertureRead_unmapped, fun _ => rfl,
    fun p hvaux hup => ?linkUp, fun p off value hlo hhi halign => ?args, fun p off value hlo halign => ?msix,
    fun c off value hawake => ?cell, fun _ _ => rfl⟩
  case release =>
    change execFabricQueueRelease q n s = _
    rw [execFabricQueueRelease, if_pos ⟨hq, hopened, hpos, hvalue, hwritten⟩]
  case linkUp =>
    change execPcieLinkUp p s = _
    rw [execPcieLinkUp, if_pos (by simp [hvaux, hup])]
  case args =>
    change execRegisterWrite (.bar0 p off) value s = _
    simp only [execRegisterWrite, if_pos (And.intro hlo (And.intro hhi halign))]
  case msix =>
    change execRegisterWrite (.bar0 p off) value s = _
    simp only [execRegisterWrite]
    rw [if_neg (by omega), if_neg (by omega), if_pos ⟨hlo, halign⟩]
  case cell =>
    change execRegisterWrite (.cellCtl c off) value s = _
    simp only [execRegisterWrite, if_pos hawake]

end Sys2Proof.Machine

/-!
# Power and thermal (R418 to R423, R426, R430, R439 to R443, R446 to R458)
-/
namespace Sys2Proof.Machine

section PowerCommands

variable {q : QueueIx} {slot : SlotIx} {s u v : State} {a : Accepted}

/-- PSTATE_SET of a valid state records the target. A switch announced before holds the command; otherwise the switch is considered, and the
command completes unless one is now announced (R426). -/
theorem exec_pstateSet_records (hready : s.ready q slot 0x0500 a) (hu : u = s.beginCmd a) (hstate : sqArg a.entry 0 ≤ 12)
    (hcount : sqArg a.entry 1 = 0 ∨ u.earliestSwitch ≤ sqArg a.entry 1)
    (hv : v = { u with pw := { u.pw with target := sqArg a.entry 0 } }) :
    exec (.pstateSet q slot) s =
      .next (if u.pw.switchAt.isSome then v
        else if (v.considerSwitch (sqArg a.entry 1)).pw.switchAt.isNone then
          (v.considerSwitch (sqArg a.entry 1)).done a (v.considerSwitch (sqArg a.entry 1)).pstateResult
        else (v.considerSwitch (sqArg a.entry 1)).modAccepted a.q a.slot (fun b => { b with aux := 1 })) := by
  have hargs : ¬ (12 < sqArg a.entry 0 ∨ sqArg a.entry 1 ≠ 0 ∧ sqArg a.entry 1 < u.earliestSwitch) := by omega
  subst hv
  change Host.Outcome.next (s.withCmd q slot 0x0500 _ _) = _
  rw [State.withCmd_ready hready rfl, ← hu, if_neg hargs]

/-- REGION_SLEEP is put to the regions named once none is another turf's or in a batch (R418). -/
theorem exec_regionSleep_begins (hready : s.ready q slot 0x0502 a) (hu : u = s.beginCmd a) (hlo : 1 ≤ sqArg a.entry 1)
    (hhi : sqArg a.entry 1 ≤ 4) (hown : u.foreignRegions (u.queue a.q).turf (sqArg a.entry 0) = false)
    (hidle : sqArg a.entry 1 ≠ 1 ∨ (u.queue a.q).turf = 0)
    (hfree : ∀ r ∈ setBits (sqArg a.entry 0) 64, ∀ t, regionOwner u.turfMap r = some t → u.batch t = none) :
    exec (.regionSleep q slot) s = .next (u.beginSleeps a (sqArg a.entry 0) (Sleep.ofNum (sqArg a.entry 1))) := by
  change execRegionSleep q slot s = _
  dsimp only [execRegionSleep]
  rw [State.withCmd_ready hready rfl, ← hu, if_neg (by omega), if_neg, if_neg]
  · simp only [List.any_eq_true, not_exists, not_and, Bool.not_eq_true]
    intro r hr
    cases howner : regionOwner u.turfMap r with
    | none => rfl
    | some t => simp [hfree r hr t howner]
  · rw [hown]
    obtain hother | hzero := hidle
    · simp [hother]
    · simp [hzero]

end PowerCommands

/-- Settles O4: each clause is one path of its row. -/
theorem powerCommandsComplete : Obligations.PowerCommandsComplete := by
  unfold Obligations.PowerCommandsComplete
  intro q slot s u a hu
  refine ⟨fun v hready hstate hcount hv hheld => ?held, fun v hready hstate hcount hv hfree hnone => ?unneeded,
    fun v hready hstate hcount hv hfree hsome => ?announced, fun hready => ?limits,
    fun hready hlo hhi hown hidle hfree => exec_regionSleep_begins hready hu hlo hhi hown hidle ?free,
    fun hready hown hrunning => ?wake⟩
  case held => rw [exec_pstateSet_records hready hu hstate hcount hv, if_pos hheld]
  case unneeded =>
    rw [exec_pstateSet_records hready hu hstate hcount hv, if_neg (by simp [hfree]), if_pos (by simp [hnone])]
  case announced =>
    rw [exec_pstateSet_records hready hu hstate hcount hv, if_neg (by simp [hfree]), if_neg]
    simpa [Option.isSome_iff_ne_none] using hsome
  case limits =>
    change Host.Outcome.next (s.withCmd q slot 0x0501 _ _) = _
    rw [State.withCmd_ready hready rfl, hu]
  case free =>
    intro r hr t howner
    simpa [howner] using List.all_eq_true.mp hfree r hr
  case wake =>
    change Host.Outcome.next (s.withCmd q slot 0x0503 _ _) = _
    rw [State.withCmd_ready hready rfl, ← hu, if_neg (by simp [hown]), if_neg (by simp [hrunning])]

/-! ### Regulator phases (R439 to R443) -/

section Phases

variable {s u v : State} {now : Nat}

theorem exec_phaseOpen_loses {p : PhaseIx} (hu : u = s.at_ now) (hclosed : (u.phase p).isOpen = false) :
    exec (.phaseOpen p now) s = .next ((u.modPhase p (fun x => { x with isOpen := true })).losePhase p false).settleWakes := by
  change Host.Outcome.next ((s.at_ now).phaseOpens p).settleWakes = _
  rw [← hu, State.phaseOpens, if_neg (by simp [hclosed])]

theorem exec_phaseSenseCheck_agrees {g : GroupIx} (hu : u = s.at_ now) (hpresent : (u.group g).spareComing = false) :
    exec (.phaseSenseCheck g none now) s = .next (u.modGroup g (fun y => { y with misses := [] })).settleWakes := by
  change Host.Outcome.next ((s.at_ now).senseCheck g none).settleWakes = _
  simp only [← hu, State.senseCheck, hpresent, Bool.false_eq_true, if_false]

/-- The rotation sheds phase 0 of a group at its start, and records the phase's first loss (R442). -/
theorem exec_phaseShed_first {g : GroupIx} {loss : Nat} (hu : u = s.at_ now) (hspare : (u.group g).spareUsed = false)
    (hseven : (u.group g).onSeven = false) (hstart : (u.group g).shedNext = 0) (hclosed : (u.phase (9 * g)).isOpen = false)
    (hsense : (u.phase (9 * g)).senseFailed = false) (hv : v = u.modGroup g (fun y => { y with shedNext := 1 }))
    (hfirst : (v.phase (9 * g)).firstLoss = none) :
    exec (.phaseShed g loss now) s = .next (v.modPhase (9 * g) (fun y => { y with firstLoss := some loss })) := by
  subst hv
  change execPhaseShed g loss now s = _
  have hturn : ((List.range 9).map (fun i => (0 + i) % 9)).find? (fun i =>
      !(u.phase (9 * g + i)).isOpen && !(u.phase (9 * g + i)).senseFailed && (decide (i < 8) || false)) = some 0 :=
    List.find?_cons_of_pos (by simp [hclosed, hsense])
  simp only [execPhaseShed, ← hu, hspare, hseven, hstart, Bool.or_self, Bool.false_and, Bool.false_eq_true, if_false]
  rw [hturn]
  simp only [Nat.add_zero, Nat.zero_add, Nat.reduceMod, hfirst]

/-- A sample inside the low range is stored, and the group's current is summed again (R443). -/
theorem exec_telemetrySample_stored {p : PhaseIx} {ma : Nat} (hrange : (s.phase p).highRange = false)
    (hsettled : (s.phase p).rangeChanged = false) (hlo : 3000 ≤ ma) (hhi : ma ≤ 3800)
    (hv : v = s.modPhase p (fun y => { y with value := ma, lowSamples := 0, highRange := false, rangeChanged := false })) :
    exec (.telemetrySample p ma) s =
      .next (v.modGroup (p.val / 9) (fun y => { y with
        currentMa := ((List.range 9).map (fun i => (v.phase (9 * (p.val / 9) + i)).value)).sum })) := by
  have hvalue : min 4000 ma = ma := by omega
  have hnotLow : ¬ ma < 3000 := by omega
  have hnotHigh : ¬ 3800 < ma := by omega
  subst hv
  change execTelemetrySample p ma s = _
  simp only [execTelemetrySample, State.modPhase, hrange, hsettled, hvalue, hnotLow, hnotHigh, Bool.false_eq_true, if_false, decide_false,
    Bool.not_false, Bool.true_and, Bool.false_and, Bool.or_self]

end Phases

/-! ### Kindling (R421 to R423) -/

section Kindling

variable {s u : State} {r : RegionIx} {bad : List PhaseIx} {w : Waking} {now : Nat}

/-- A region under no reset wakes (R394). -/
abbrev State.kindles (u : State) (r : RegionIx) (w : Waking) : Prop :=
  (u.region r).waking = some w ∧ u.bu.computeHeld = false ∧ u.bu.crstLow = false ∧ u.bu.diesHeld.contains (r.val / 4) = false

theorem exec_kindlingStep_one (hu : u = s.at_ now) (hwakes : u.kindles r w) (hstep : w.step = 1) :
    exec (.kindlingStep r true bad now) s =
      .next (u.modRegion r (fun x => { x with waking := some { w with step := 2, attempt := 0 } })) := by
  obtain ⟨hwaking, hheld, hpin, hdie⟩ := hwakes
  change execKindlingStep r true bad now s = _
  simp only [execKindlingStep, ← hu, hwaking, hheld, hpin, hdie, hstep, Bool.or_self, Bool.false_eq_true, if_false]

/-- A PLL that locks: one of the region's pool has been taken where the alternate was tried (R422). -/
theorem exec_kindlingStep_two (hu : u = s.at_ now) (hwakes : u.kindles r w) (hstep : w.step = 2) :
    exec (.kindlingStep r true bad now) s =
      .next ((u.modRegion r (fun x => { x with waking := some { w with step := 3, attempt := 0 } })).pllTaken r w) := by
  obtain ⟨hwaking, hheld, hpin, hdie⟩ := hwakes
  change execKindlingStep r true bad now s = _
  simp only [execKindlingStep, ← hu, hwaking, hheld, hpin, hdie, hstep, Bool.or_self, Bool.false_eq_true, if_false]

theorem exec_kindlingStep_four (hu : u = s.at_ now) (hwakes : u.kindles r w) (hstep : w.step = 4) :
    exec (.kindlingStep r true bad now) s = .next (u.wakeDone r w.fromS4).settleWakes := by
  obtain ⟨hwaking, hheld, hpin, hdie⟩ := hwakes
  change execKindlingStep r true bad now s = _
  simp only [execKindlingStep, ← hu, hwaking, hheld, hpin, hdie, hstep, Bool.or_self, Bool.false_eq_true, if_false]

/-- Step 1 or 2 that is not ready is retried twice, and then the region has failed to wake (R423). -/
theorem exec_kindlingStep_unready (hu : u = s.at_ now) (hwakes : u.kindles r w) (hstep : w.step = 1 ∨ w.step = 2) :
    exec (.kindlingStep r false bad now) s =
      .next (if w.attempt < 2 then u.retryStep r w bad else (u.wakeFailed r w.step bad).settleWakes) := by
  obtain ⟨hwaking, hheld, hpin, hdie⟩ := hwakes
  change execKindlingStep r false bad now s = _
  rw [apply_ite Host.Outcome.next]
  obtain hone | htwo := hstep
  · simp only [execKindlingStep, ← hu, hwaking, hheld, hpin, hdie, hone, Bool.or_self, Bool.false_eq_true, ne_eq,
      not_true_eq_false, false_and, if_false]
  · simp only [execKindlingStep, ← hu, hwaking, hheld, hpin, hdie, htwo, Bool.or_self, Bool.false_eq_true, ne_eq,
      not_true_eq_false, and_false, if_false]

end Kindling

/-! ### Thermal rows (R446 to R458) -/

section Thermal

variable {s u : State} {now : Nat}

/-- A sample takes its group's readings, and shuts the module down at a sensor that they find at its shutdown level (R446, R458). -/
theorem exec_thermalSample_takes {l : List SensorReading} (hu : u = s.at_ now) {o : Option Nat}
    (ho : (sampledIds l).find? (fun n => decide (shutdownLevel n ≤ ((u.thermalTaken l).sensor n).value)) = o) :
    exec (.thermalSample l now) s = .next (o.elim (u.thermalTaken l) (u.thermalTaken l).thermalShutdown) := by
  subst ho
  change execThermalSample l now s = _
  simp only [execThermalSample, ← hu]
  cases (sampledIds l).find? (fun n => decide (shutdownLevel n ≤ ((u.thermalTaken l).sensor n).value)) <;> rfl

theorem exec_thermalFallBoundary_lowers (hu : u = s.at_ now) (hlower : u.pw.hMaxThisMs < u.pw.reqThermal) :
    exec (.thermalFallBoundary now) s =
      .next (({ u with pw := { u.pw with hMaxThisMs := 0, reqThermal := u.pw.hMaxThisMs } } : State).requestH (u.now + 500)) := by
  subst hu
  exact if_pos hlower

theorem exec_thermalCeilingCheck_raises (hu : u = s.at_ now) (hlong : 50000000 ≤ nonzeroTime u.pw.hHist u.now)
    (hdue : u.pw.thermalNextCheck ≤ u.now) (hroom : u.pw.thermalCeil < 12) :
    exec (.thermalCeilingCheck now) s = .next u.raiseThermal := by
  subst hu
  exact if_pos ⟨hlong, hdue, hroom⟩

theorem exec_thermalCeilingCheck_lowers (hu : u = s.at_ now) (hshort : nonzeroTime u.pw.hHist u.now < 50000000)
    (hcalm : u.thermalCalm = true) (hraised : 0 < u.pw.thermalCeil) : exec (.thermalCeilingCheck now) s = .next u.lowerThermal := by
  subst hu
  change execThermalCeilingCheck now s = _
  rw [execThermalCeilingCheck, if_neg fun h => absurd hshort (Nat.not_lt.mpr h.1), if_pos (by simp [hcalm, hraised])]

/-- A valid reading of an input that is read, at or below its limit, is stored and ends the notices of that input (R447, R456). -/
theorem exec_thermistorSample_stored {n : Fin 8} {x : SensorReading} (hu : u = s.at_ now)
    (hrole : (memGet (u.cset 2).active (16 + 8 * n.val)).toNat ≠ 0) (hclosed : (u.sensor (312 + n.val)).isOpen = false)
    (hsound : u.hasDefect 0x0F (312 + n.val) 0 = false) (hvalid : x.valid = true)
    (hlimit : x.value ≤ 8 * ((memGet (u.cset 2).active (17 + 8 * n.val)).toNat : Int)) :
    exec (.thermistorSample n x now) s =
      .next ((u.modSensor (312 + n.val) (fun y => { y with value := x.value })).modSensor (312 + n.val)
        (fun y => { y with noticedAt := none })) := by
  subst hu
  change execThermistorSample n x now s = _
  rw [execThermistorSample, if_neg (not_or.mpr ⟨hrole, not_or.mpr ⟨ne_true_of_eq_false hclosed, ne_true_of_eq_false hsound⟩⟩),
    if_neg (by simp [hvalid]), if_neg fun h => absurd hlimit (Int.not_le.mpr h.2)]

end Thermal

/-- Settles O6: each clause is one path of its row. -/
theorem phasesAndThermalComplete : Obligations.PhasesAndThermalComplete := by
  unfold Obligations.PhasesAndThermalComplete
  intro s u now hu
  refine ⟨fun p => exec_phaseOpen_loses hu, fun g => exec_phaseSenseCheck_agrees hu,
    fun g loss hspare hseven hstart hclosed hsense => exec_phaseShed_first hu hspare hseven hstart hclosed hsense rfl,
    fun p ma v => exec_telemetrySample_stored,
    fun r bad w hwaking hheld hpin hdie => exec_kindlingStep_one hu ⟨hwaking, hheld, hpin, hdie⟩,
    fun r bad w hwaking hheld hpin hdie => exec_kindlingStep_two hu ⟨hwaking, hheld, hpin, hdie⟩,
    fun r bad w hwaking hheld hpin hdie => exec_kindlingStep_four hu ⟨hwaking, hheld, hpin, hdie⟩,
    fun r bad w hwaking hheld hpin hdie hstep hfew => ?retried, fun r bad w hwaking hheld hpin hdie hstep hmany => ?failed,
    fun l => exec_thermalSample_takes hu, fun l n => exec_thermalSample_takes hu, exec_thermalFallBoundary_lowers hu,
    exec_thermalCeilingCheck_raises hu, exec_thermalCeilingCheck_lowers hu, fun n x => exec_thermistorSample_stored hu⟩
  case retried => rw [exec_kindlingStep_unready hu ⟨hwaking, hheld, hpin, hdie⟩ hstep, if_pos hfew]
  case failed => rw [exec_kindlingStep_unready hu ⟨hwaking, hheld, hpin, hdie⟩ hstep, if_neg (Nat.not_lt.mpr hmany)]

end Sys2Proof.Machine

/-!
# Configuration commands and UNLOAD_IMAGE (R464 to R475, R518)
-/
namespace Sys2Proof.Machine

section Configuration

variable {q : QueueIx} {slot : SlotIx} {s u v : State} {a : Accepted}

/-- CFG_WRITE_SHADOW writes the bytes read into the shadow set; those of the floors stay in SET 0x09 (R465). -/
theorem exec_cfgWriteShadow_writes {k addr off len : Nat} {o : Option Bytes} {b : Bytes} (hready : s.ready q slot 0x0400 a)
    (hu : u = s.beginCmd a) (hk : k = sqArg a.entry 0) (haddr : addr = sqArg a.entry 1) (hoff : off = sqArg a.entry 2)
    (hlen : len = sqArg a.entry 3) (hfits : s.readFits ((sqArg a.entry 4).testBit 0) addr len o = true) (hnotRoutes : k ≠ 5)
    (hnotCalendar : k ≠ 8) (hroom : off + len ≤ setSize k) (hset : setSize k ≠ 0) (hfree : (u.cset k).announced = none)
    (hmay : u.addrCheck a.q (u.queue a.q).turf ((sqArg a.entry 4).testBit 0) addr len = none)
    (hv : v = u.meetIn ((sqArg a.entry 4).testBit 0) addr len) (hread : v.readIn ((sqArg a.entry 4).testBit 0) addr len o = some b) :
    exec (.cfgWriteShadow q slot o) s =
      .next ((v.modCset k (fun c => { c with
        shadow := if k = 9 then memWrite (memWrite c.shadow off b) 4 (natLe 4 v.firm.floors.toNat)
          else memWrite c.shadow off b })).done a 0) := by
  subst hk haddr hoff hlen
  obtain ⟨hacc, _, _⟩ := id hready
  have hargs : ¬ (sqArg a.entry 0 = 5 ∨ sqArg a.entry 0 = 8
      ∨ setSize (sqArg a.entry 0) < sqArg a.entry 2 + sqArg a.entry 3 ∨ setSize (sqArg a.entry 0) = 0) := by omega
  change execCfgWriteShadow q slot o s = _
  simp only [execCfgWriteShadow, hacc, hfits, State.withCmd_ready hready (sel := fun _ => true) rfl, ← hu, if_neg hargs, hfree, hmay,
    ← hv, hread, Option.isSome_none, Bool.not_true, Bool.false_eq_true, if_false]

/-! ### Swaps -/

theorem exec_cfgSwap_announces (hready : s.ready q slot 0x0401 a) (hu : u = s.beginCmd a) (hmay : u.cfgDenied a = false) :
    exec (.cfgSwap q slot) s = .next (u.announceSwap a (sqArg a.entry 0) (sqArg a.entry 1)) := by
  obtain ⟨hacc, hop, _⟩ := id hready
  change execCfgSwap q slot s = _
  simp [execCfgSwap, hacc, hop, State.withCmd_ready hready, ← hu, hmay]

/-- A drained swap of a set that swaps atomically is a swap at the earliest count (R471). -/
theorem exec_cfgSwap_drained (hready : s.ready q slot 0x0402 a) (hu : u = s.beginCmd a) (hmay : u.cfgDenied a = false)
    (hnotRoutes : sqArg a.entry 0 ≠ 5) (hnotCalendar : sqArg a.entry 0 ≠ 8) :
    exec (.cfgSwap q slot) s = .next (u.announceSwap a (sqArg a.entry 0) 0) := by
  obtain ⟨hacc, hop, _⟩ := id hready
  change execCfgSwap q slot s = _
  simp [execCfgSwap, hacc, hop, State.withCmd_ready hready, ← hu, hmay, hnotRoutes, hnotCalendar]

theorem State.announceSwap_needsDrain {k count : Nat} (h : k = 5 ∨ k = 8) : u.announceSwap a k count = u.fail a stNeedsDrain := if_pos h

/-- An atomic swap that nothing refuses is announced for its count, or for the earliest where ARG1 is 0 (R466, R467). -/
theorem State.announceSwap_announces {k count n : Nat} (hlo : 1 ≤ k) (hhi : k ≤ 4) (hfree : (u.cset k).announced = none)
    (hfits : u.swapRefusal k = none) (hcount : count = 0 ∨ u.now + 10000 ≤ count ∧ count ≤ u.now + 10000000000)
    (hn : n = if count = 0 then u.now + 10000 else count) :
    u.announceSwap a k count =
      (u.modCset k (fun c => { c with announced := some (n, ((u.cset k).generation + 1) % 2 ^ 32, some (a.q, a.slot)) })).announceAll
        4 (k + ((u.cset k).generation + 1) % 2 ^ 32 % 65536 * 2 ^ 16) (BitVec.ofNat 64 n) := by
  subst hn
  rw [State.announceSwap, if_neg (by omega), if_neg (by simp [hlo, hhi]), if_neg (by simp [hfree])]
  simp only [hfits]
  rw [if_neg (by omega)]

/-- With no batch running a calendar swap is made at once (R469). -/
theorem State.startCalendarSwap_atOnce {t epoch : Nat} (hidle : u.batches.all (fun p => !p.2.started) = true) :
    u.startCalendarSwap a t epoch none =
      (u.endCalendar { routing := false, turf := t, cmd := (a.q, a.slot), epoch := epoch, since := u.now + 2000 }).done a epoch := by
  rw [State.startCalendarSwap, if_pos hidle]
  rfl

theorem exec_cfgSwapDrainedCalendar_starts (hready : s.ready q slot 0x0402 a) (hu : u = s.beginCmd a) (hset : sqArg a.entry 0 = 8)
    (hepoch : sqArg a.entry 1 < 2 ^ 32) (hnew : sqArg a.entry 1 = 0 ∨ sqArg a.entry 1 ≠ (u.cset 8).generation)
    (hidle : u.batch (sqTurf a.entry) = none) (hfree : u.drain = none) :
    exec (.cfgSwapDrainedCalendar q slot) s = .next (u.startCalendarSwap a (sqTurf a.entry) (u.nextCal (sqArg a.entry 1)) none) := by
  change Host.Outcome.next (s.withCmd q slot 0x0402 _ _) = _
  rw [State.withCmd_ready hready (by simp [hset]), ← hu, if_neg (by omega), if_neg (by simp [State.batchHeld, hidle, hfree])]

theorem exec_cfgSwapDrainedRouting_starts (hready : s.ready q slot 0x0402 a) (hu : u = s.beginCmd a) (hset : sqArg a.entry 0 = 5)
    (hmay : u.cfgDenied a = false) (hroutes : u.routesOk = true) (hfree : u.drain = none) (hidle : u.fabricScheduled = false) :
    exec (.cfgSwapDrainedRouting q slot) s =
      .next ({ u with drain := some {
        routing := true, turf := 0, cmd := (a.q, a.slot), epoch := 0, since := u.now } } : State).drainProgress := by
  change Host.Outcome.next (s.withCmd q slot 0x0402 _ _) = _
  rw [State.withCmd_ready hready (by simp [hset]), ← hu, if_neg (by simp [hmay]), if_neg (by simp [hroutes]),
    if_neg (by simp [hfree, hidle])]

/-- UNLOAD_IMAGE of a ready image without a batch starts the swap that removes it (R518). -/
theorem exec_unloadImage_starts {img : ImageSt} (hready : s.ready q slot 0x0101 a) (hu : u = s.beginCmd a)
    (himg : tfind u.images (sqArg a.entry 0) = some img) (hloaded : img.ready = true)
    (hmay : (u.queue a.q).turf = 0 ∨ img.turf = (u.queue a.q).turf) (hidle : u.batch img.turf = none) (hfree : u.drain = none) :
    exec (.unloadImage q slot) s = .next (u.startCalendarSwap a img.turf (u.nextCal 0) (some (sqArg a.entry 0))) := by
  have howns : ¬ ((u.queue a.q).turf ≠ 0 ∧ img.turf ≠ (u.queue a.q).turf) := fun h => hmay.elim h.1 h.2
  have hnone : ¬ ((u.batchHeld img.turf || u.drain.isSome) = true) := by simp [State.batchHeld, hidle, hfree]
  change execUnloadImage q slot s = _
  simp only [execUnloadImage, State.withCmd_ready hready (sel := fun _ => true) rfl, ← hu, himg, hloaded, if_neg howns, if_neg hnone,
    Bool.not_true, Bool.false_eq_true, if_false]

/-! ### The settings store -/

theorem exec_cfgStore_begins (hready : s.ready q slot 0x0403 a) (hu : u = s.beginCmd a)
    (hconfirms : sqArg a.entry 0 + (sqTag a.entry).toNat = 2 ^ 32 - 1) (hfree : u.firm.write = none) (hnone : u.storedSwap = false) :
    exec (.cfgStore q slot) s = .next (u.beginStore (u.storeBank ((sqArg a.entry 1).testBit 0)) (some (a.q, a.slot))) := by
  have hconfirms' : confirms a.entry (sqArg a.entry 0) = true := by
    rw [confirms, beq_iff_eq]
    omega
  change Host.Outcome.next (s.withCmd q slot 0x0403 _ _) = _
  rw [State.withCmd_ready hready rfl, ← hu, if_neg (by simp [hconfirms']), if_neg (by simp [hfree, hnone])]

theorem exec_cfgRead_writes {b : Bytes} (hready : s.ready q slot 0x0404 a) (hu : u = s.beginCmd a) (hmay : u.cfgDenied a = false)
    (hset : sqArg a.entry 0 ∈ [1, 2, 3, 4, 5, 8, 9])
    (hbytes : u.cfgBytes (sqTurf a.entry) (sqArg a.entry 0) (sqArg a.entry 1) (sqArg a.entry 3) (sqArg a.entry 4) = some b) :
    exec (.cfgRead q slot) s = .next (u.output a ((sqArg a.entry 5).testBit 0) (sqArg a.entry 2) b (sqArg a.entry 4)) := by
  change execCfgRead q slot s = _
  simp only [execCfgRead, State.withCmd_ready hready (sel := fun _ => true) rfl, ← hu, hmay, hset, hbytes, decide_true, Bool.not_true,
    Bool.false_eq_true, if_false]

end Configuration

/-- Settles O7: each clause is one path of its row. The layout of SET 0x08 that `State.cfgBytes` gives is log entry 19. -/
theorem configurationCommandsComplete : Obligations.ConfigurationCommandsComplete := by
  unfold Obligations.ConfigurationCommandsComplete
  intro q slot s u a hu
  refine ⟨fun k addr off len o b v hready => exec_cfgWriteShadow_writes hready hu,
    fun k n hready hmay hk hlo hhi hfree hfits hn hnz hsoon hlate => ?swap,
    fun k hready hmay hk hlo hhi hfree hfits => ?drainedSwap, fun hready hmay hset => ?needsDrain,
    fun hready hset hepoch hnew hidle hfree hstill => ?calendar, fun hready => exec_cfgSwapDrainedRouting_starts hready hu,
    fun img hready => exec_unloadImage_starts hready hu, fun hready => exec_cfgStore_begins hready hu,
    fun b hready => exec_cfgRead_writes hready hu⟩
  case swap =>
    subst hk hn
    rw [exec_cfgSwap_announces hready hu hmay,
      State.announceSwap_announces hlo hhi hfree hfits (.inr ⟨hsoon, hlate⟩) (if_neg hnz).symm]
  case drainedSwap =>
    subst hk
    rw [exec_cfgSwap_drained hready hu hmay (by omega) (by omega), State.announceSwap_announces hlo hhi hfree hfits (.inl rfl) rfl]
    rfl
  case needsDrain => rw [exec_cfgSwap_announces hready hu hmay, State.announceSwap_needsDrain hset]
  case calendar =>
    rw [exec_cfgSwapDrainedCalendar_starts hready hu hset hepoch hnew hidle hfree, State.startCalendarSwap_atOnce hstill]

end Sys2Proof.Machine

/-!
# The call gate (R377, R378)

Heartwood reads the submission entry of a request before it answers. Where the ring lies in a near-tier site that a compute reset holds in
self-refresh, the read has to wait (R214), and with it the answer.
-/
namespace Sys2Proof.Machine

/-- Queue 0 is open with its ring at the start of near-tier site 0, which a compute reset holds in self-refresh. -/
def ringHeld : State := { State.reset with
  queues := [(0, { state := .opened, sqMod := true, sqAddr := 16 * 2 ^ 48 })], sites := [(0, { heldRefresh := true })] }

/-- A request of service 3 for queue 0, which R378 finds right. -/
def leaseRequest : BitVec 512 := 3

/-- While the ring's site is held a request of the gate is not answered. -/
theorem exec_gateLease_ringHeld (core : ScIx) {e : Bytes} (hlen : e.length = 64) :
    exec (.gateLease core leaseRequest e) ringHeld = .next ringHeld := by
  have hserves : ¬ ((ringHeld.ctlHeld || (gateField leaseRequest 0 2 != 3 && !ringHeld.gateBad leaseRequest)) = true) := by decide +kernel
  have hheld : ((ringHeld.queue (gateField leaseRequest 4 2)).sqMod && ringHeld.heldAt
      ((ringHeld.queue (gateField leaseRequest 4 2)).sqAddr.toNat + 64 * gateField leaseRequest 6 2)) = true := by decide +kernel
  change ringHeld.gate 3 core leaseRequest e = _
  rw [State.gate, if_neg (fun h => h hlen), if_neg hserves, if_pos hheld]

/-- Refutes O32: the clauses of the gate let the ring lie in a site that is held, and then the request is not answered. -/
theorem not_gateAndManagementComplete : ¬ Obligations.GateAndManagementComplete := by
  unfold Obligations.GateAndManagementComplete
  intro h
  obtain ⟨_, _, hlease, _⟩ := h ringHeld (ringHeld.at_ 0) 0 rfl
  have hanswer := hlease 0 leaseRequest (List.replicate 64 0) (List.length_replicate ..) (by decide +kernel) (by decide +kernel)
    (by decide +kernel)
  rw [exec_gateLease_ringHeld 0 (List.length_replicate ..)] at hanswer
  have hlen := congrArg (fun v => v.firm.gateAnswers.length) (Host.Outcome.next.inj hanswer)
  have hgrows : ringHeld.firm.gateAnswers.length = ringHeld.draw.2.firm.gateAnswers.length + 1 := by
    simpa only [List.length_append, List.length_singleton] using hlen
  exact Nat.ne_of_lt (Nat.lt_succ_self _) hgrows

end Sys2Proof.Machine

/-!
# Firmware commands (R351, R374 to R376, R381, R385 to R390)
-/
namespace Sys2Proof.Machine

section FirmwareCommands

variable {q : QueueIx} {slot : SlotIx} {s v w : State} {a : Accepted}

/-! ### One activation at a time (R390) -/

theorem State.fwBusy_idle {q slot opcode : Nat} {sel : BitVec 512 → Bool} (hidle : s.firm.activating = none) :
    s.fwBusy q slot opcode sel = none := by
  unfold State.fwBusy
  split
  · rfl
  · simp [hidle]

theorem State.fwBusy_activating {q slot opcode : Nat} {sel : BitVec 512 → Bool} (hacc : s.acceptedAt q slot = some a)
    (hrun : s.firm.activating ≠ none) (hnew : a.started = false) (hop : sqOpcode a.entry = opcode) (hsel : sel a.entry = true) :
    s.fwBusy q slot opcode sel = some (s.fail a stBusy) := by
  have hsome : s.firm.activating.isSome = true := Option.isSome_iff_ne_none.mpr hrun
  simp [State.fwBusy, hacc, hsome, hnew, hop, hsel]

/-! ### The firmware reset (R374) -/

theorem exec_firmwareReset_restarts (hcw : s.firm.runningCw.isSome = true) (hfree : s.ctlHeld = false) :
    exec (.firmwareReset none) s = .next (s.fwReset none)
    ∧ ∀ n : ScIx, exec (.firmwareReset (some n)) s = .next ((s.failCore (s.scOf n) 2).fwReset none) := by
  have hstarts : ¬ ((s.firm.runningCw.isNone || s.ctlHeld) = true) := by
    simp [hfree, Option.isNone_eq_false_iff.mpr hcw]
  exact ⟨if_neg hstarts, fun n => if_neg hstarts⟩

/-! ### Staging and attestation (R386, R387) -/

theorem exec_fwUpdateStageWrite_stages {data : Option Bytes} {b : Bytes} (hready : s.ready q slot 0x0900 a) (hv : v = s.beginCmd a)
    (hmode : sqArg a.entry 0 = 0) (hidle : s.firm.activating = none)
    (hfits : s.readFits ((sqArg a.entry 4).testBit 0) (sqArg a.entry 1) (sqArg a.entry 2) data = true)
    (hlo : 1 ≤ sqArg a.entry 2) (hhi : sqArg a.entry 2 ≤ 4 * 2 ^ 20) (hroom : sqArg a.entry 3 + sqArg a.entry 2 ≤ 36 * 2 ^ 20)
    (hmay : v.addrCheck a.q (v.queue a.q).turf ((sqArg a.entry 4).testBit 0) (sqArg a.entry 1) (sqArg a.entry 2) = none)
    (hw : w = v.meetIn ((sqArg a.entry 4).testBit 0) (sqArg a.entry 1) (sqArg a.entry 2))
    (hread : w.readIn ((sqArg a.entry 4).testBit 0) (sqArg a.entry 1) (sqArg a.entry 2) data = some b) :
    exec (.fwUpdateStageWrite q slot data) s =
      .next (({ w with firm := { w.firm with
        staged := memWrite w.firm.staged (sqArg a.entry 3) b
        stagedTop := max w.firm.stagedTop (sqArg a.entry 3 + sqArg a.entry 2) } } : State).done a
          (max w.firm.stagedTop (sqArg a.entry 3 + sqArg a.entry 2))) := by
  obtain ⟨hacc, _, _⟩ := id hready
  have hlength : ¬ (sqArg a.entry 2 = 0 ∨ 4 * 2 ^ 20 < sqArg a.entry 2 ∨ 36 * 2 ^ 20 < sqArg a.entry 2 + sqArg a.entry 3) := by omega
  change execFwUpdateStageWrite q slot data s = _
  simp only [execFwUpdateStageWrite, hacc, State.fwBusy_idle hidle, hfits,
    State.withCmd_ready hready (sel := fun w => sqArg w 0 == 0) (by simp [hmode]), ← hv, if_neg hlength, hmay, ← hw, hread,
    Bool.not_true, Bool.false_eq_true, if_false]

theorem exec_fwUpdateStageDiscard_discards (hready : s.ready q slot 0x0900 a) (hv : v = s.beginCmd a) (hmode : sqArg a.entry 0 = 1)
    (hidle : s.firm.activating = none) :
    exec (.fwUpdateStageDiscard q slot) s =
      .next (({ v with firm := { v.firm with staged := [], stagedTop := 0 } } : State).done a 0) := by
  change execFwUpdateStageDiscard q slot s = _
  simp only [execFwUpdateStageDiscard, State.fwBusy_idle hidle,
    State.withCmd_ready hready (sel := fun w => sqArg w 0 == 1) (by simp [hmode]), ← hv]

theorem exec_fwUpdateStageAttest_reports {data : Option Bytes} {n : Bytes} (hready : s.ready q slot 0x0900 a) (hv : v = s.beginCmd a)
    (hmode : sqArg a.entry 0 = 2) (hfits : s.readFits ((sqArg a.entry 4).testBit 0) (sqArg a.entry 3) 48 data = true)
    (hmay : v.addrCheck a.q (v.queue a.q).turf ((sqArg a.entry 4).testBit 0) (sqArg a.entry 3) 48 = none)
    (hw : w = v.meetIn ((sqArg a.entry 4).testBit 0) (sqArg a.entry 3) 48)
    (hread : w.readIn ((sqArg a.entry 4).testBit 0) (sqArg a.entry 3) 48 data = some n) :
    exec (.fwUpdateStageAttest q slot data) s =
      .next ((w.attestation n).2.output a ((sqArg a.entry 4).testBit 0) (sqArg a.entry 1) (w.attestation n).1 0) := by
  obtain ⟨hacc, _, _⟩ := id hready
  change execFwUpdateStageAttest q slot data s = _
  simp only [execFwUpdateStageAttest, hacc, hfits,
    State.withCmd_ready hready (sel := fun w => sqArg w 0 == 2) (by simp [hmode]), ← hv, hmay, ← hw, hread,
    Bool.not_true, Bool.false_eq_true, if_false]

theorem exec_fwUpdateStageCertificate_writes (hready : s.ready q slot 0x0900 a) (hv : v = s.beginCmd a) (hmode : sqArg a.entry 0 = 3)
    (hroom : 4096 ≤ sqArg a.entry 2) :
    exec (.fwUpdateStageCertificate q slot) s =
      .next (v.output a ((sqArg a.entry 4).testBit 0) (sqArg a.entry 1) ((List.range Config.certLen.toNat).map Config.certByte)
        Config.certLen.toNat) := by
  change Host.Outcome.next (s.withCmd q slot 0x0900 _ _) = _
  rw [State.withCmd_ready hready (by simp [hmode]), ← hv, if_neg (Nat.not_lt.mpr hroom)]

/-! ### Activation (R387 to R389) -/

/-- What the activation of a staged patch leaves: a patch that is not valid is refused, and for a valid one the commit record of the bank
that does not run is invalidated before `b` is written to it (R388, R473). -/
def State.activatePatch (v : State) (a : Accepted) (b : BankWrite) : State :=
  match v.fwFault 1 v.stagedBytes v.firm.runningCw with
  | some c => v.refuseImage a c
  | none => { v with firm := { (if b.bankB then { v.firm with bankB := { v.firm.bankB with valid := false } }
      else { v.firm with bankA := { v.firm.bankA with valid := false } }) with write := some b, activating := some (a.q, a.slot) } }

theorem exec_fwActivateHeartwood_patches {b : BankWrite} (hready : s.ready q slot 0x0901 a) (hv : v = s.beginCmd a)
    (hkind : sqArg a.entry 0 = 1) (hidle : s.firm.activating = none) (hconfirms : confirms a.entry (sqArg a.entry 1) = true)
    (hfree : v.firm.write = none)
    (hb : b = { heartwood := true, bankB := !v.firm.runningBankB, image := some (fwImageOf v.stagedBytes), cmd := some (a.q, a.slot) }) :
    exec (.fwActivateHeartwood q slot) s = .next (v.activatePatch a b) := by
  subst hb
  change execFwActivateHeartwood q slot s = _
  rw [execFwActivateHeartwood, State.fwBusy_idle hidle, State.withCmd_ready hready (by simp [hkind]), ← hv,
    if_neg (by simp [hconfirms]), if_neg (by simp [hfree])]
  rfl

theorem exec_fwActivateCordwood_confirmed (hready : s.ready q slot 0x0901 a) (hv : v = s.beginCmd a) (hkind : sqArg a.entry 0 = 2)
    (hidle : s.firm.activating = none) (hfetch : s.fetchStopped = false) (hconfirms : confirms a.entry (sqArg a.entry 1) = true)
    (hnone : v.batches = []) :
    exec (.fwActivateCordwood q slot) s = .next (if v.activationWaits a v.now then
      { v.modAccepted a.q a.slot (fun b => { b with aux := v.now }) with
        firm := { (v.modAccepted a.q a.slot (fun b => { b with aux := v.now })).firm with activating := some (a.q, a.slot) } }
      else v.activateStaged a) := by
  change execFwActivateCordwood q slot s = _
  simp only [execFwActivateCordwood, State.fwBusy_idle hidle, hfetch,
    State.withCmd_ready hready (sel := fun w => sqArg w 0 == 2) (by simp [hkind]), ← hv, hconfirms, hnone,
    Bool.not_true, List.isEmpty_nil, Bool.false_eq_true, if_false]

end FirmwareCommands

/-- Settles O57: while an activation runs a command of the named form is turned away before its other checks. -/
theorem oneActivationAtATime : Obligations.OneActivationAtATime := by
  unfold Obligations.OneActivationAtATime
  intro q slot s a hacc hrun hnew
  refine ⟨fun hop hkind => ?heartwood, fun hop hkind => ?cordwood, fun data hop hmode => ?staging⟩
  case heartwood =>
    change execFwActivateHeartwood q slot s = _
    simp only [execFwActivateHeartwood,
      State.fwBusy_activating (sel := fun w => sqArg w 0 == 1) hacc hrun hnew hop (by simp [hkind])]
  case cordwood =>
    change execFwActivateCordwood q slot s = _
    simp only [execFwActivateCordwood,
      State.fwBusy_activating (sel := fun w => sqArg w 0 == 2) hacc hrun hnew hop (by simp [hkind])]
  case staging =>
    change execFwUpdateStageWrite q slot data s = _
    simp only [execFwUpdateStageWrite, hacc,
      State.fwBusy_activating (sel := fun w => sqArg w 0 == 0) hacc hrun hnew hop (by simp [hmode])]

/-- Settles O31: each clause is one path of its row. Whether a signature and a hash hold is uninterpreted (log entry 7). -/
theorem firmwareCommandsComplete : Obligations.FirmwareCommandsComplete := by
  unfold Obligations.FirmwareCommandsComplete
  intro q slot s v a hv
  refine ⟨fun hcw hfree => (exec_firmwareReset_restarts hcw hfree).1, fun n hcw hfree => (exec_firmwareReset_restarts hcw hfree).2 n,
    fun data b w hready => exec_fwUpdateStageWrite_stages hready hv, fun hready => exec_fwUpdateStageDiscard_discards hready hv,
    fun data n w hready => exec_fwUpdateStageAttest_reports hready hv, fun hready => exec_fwUpdateStageCertificate_writes hready hv,
    fun b hready hkind hidle hconfirms hfree hbank hb => ?toB, fun b hready hkind hidle hconfirms hfree hbank hb => ?toA,
    fun hready hkind hidle hfetch hconfirms hnone hwaits => ?cordwood,
    fun w hready hkind hidle hfetch hconfirms hnone hwaits hw => ?waiting⟩
  case toB =>
    subst hb
    rw [exec_fwActivateHeartwood_patches hready hv hkind hidle hconfirms hfree (by rw [hbank])]
    rfl
  case toA =>
    subst hb
    rw [exec_fwActivateHeartwood_patches hready hv hkind hidle hconfirms hfree (by rw [hbank])]
    rfl
  case cordwood =>
    rw [exec_fwActivateCordwood_confirmed hready hv hkind hidle hfetch hconfirms hnone, hwaits]
    rfl
  case waiting =>
    subst hw
    rw [exec_fwActivateCordwood_confirmed hready hv hkind hidle hfetch hconfirms hnone, hwaits]
    rfl

end Sys2Proof.Machine

/-!
# Health reports, substitutions and wear records (R478 to R483, R490)
-/
namespace Sys2Proof.Machine

section Health

variable {q : QueueIx} {slot : SlotIx} {s u v : State} {a : Accepted}

/-! ### Reports -/

theorem exec_healthRead_writes {r : Bytes × State} (hready : s.ready q slot 0x0800 a) (hv : v = s.beginCmd a)
    (hmay : (v.queue a.q).turf = 0 ∨ sqArg a.entry 0 = 4) (hr : r = v.healthReport (sqArg a.entry 0) (v.queue a.q).turf)
    (hroom : r.1.length ≤ sqArg a.entry 2) :
    exec (.healthRead q slot) s =
      .next (r.2.output a ((sqArg a.entry 3).testBit 0) (sqArg a.entry 1) r.1 r.1.length) := by
  have hserved : ¬ ((v.queue a.q).turf ≠ 0 ∧ sqArg a.entry 0 ≠ 4) := fun h => hmay.elim h.1 h.2
  change execHealthRead q slot s = _
  simp only [execHealthRead, State.withCmd_ready hready (sel := fun _ => true) rfl, ← hv, if_neg hserved, ← hr,
    if_neg (Nat.not_lt.mpr hroom)]

theorem exec_defectListRead_writes (hready : s.ready q slot 0x0802 a) (hv : v = s.beginCmd a) (hlo : 1 ≤ sqArg a.entry 2)
    (hhi : sqArg a.entry 2 ≤ 4096) :
    exec (.defectListRead q slot) s =
      .next (v.output a ((sqArg a.entry 3).testBit 0) (sqArg a.entry 0)
        (((v.firm.defects.drop (sqArg a.entry 1)).take (sqArg a.entry 2)).flatMap defectBytes)
        (((v.firm.defects.drop (sqArg a.entry 1)).take (sqArg a.entry 2)).length + v.firm.defects.length * 2 ^ 16
          + b2n v.firm.listFull * 2 ^ 32)) := by
  change Host.Outcome.next (s.withCmd q slot 0x0802 _ _) = _
  rw [State.withCmd_ready hready rfl, ← hv, if_neg (by omega)]

/-! ### Wear substitutions (R481, R482) -/

/-- A unit other than a bank whose figures have crossed their threshold is substituted, or deferred where it has to wait. -/
theorem exec_wearSubstitution_crossed {k : Byte} {n : Half} {d : Word} {now : Nat} (hu : u = s.at_ now)
    (hunit : unitOk k.toNat n.toNat d = true) (hbank : k ≠ 6) (hworn : k ≠ 1 ∨ u.wornCell n.toNat = true) :
    exec (.wearSubstitution k n d now) s = .next (if u.wearWaits k.toNat n.toNat then
        (if u.firm.deferred.contains (k.toNat, n.toNat, d) then u
          else { u with firm := { u.firm with deferred := u.firm.deferred ++ [(k.toNat, n.toNat, d)] } })
      else ({ u with firm := { u.firm with
        deferred := u.firm.deferred.filter (fun x => x != (k.toNat, n.toNat, d)) } } : State).wearSubst k.toNat n.toNat d) := by
  have hcrossed : ¬ ((!unitOk k.toNat n.toNat d || (k.toNat == 0x01 && !u.wornCell n.toNat
      && !u.firm.deferred.contains (k.toNat, n.toNat, d))) = true) := by
    obtain hother | hcell := hworn
    · have hne : k.toNat ≠ 1 := fun h => hother (BitVec.eq_of_toNat_eq h)
      simp [hunit, hne]
    · simp [hunit, hcell]
  have hother : k.toNat ≠ 6 := fun h => hbank (BitVec.eq_of_toNat_eq h)
  change execWearSubstitution k n d now s = _
  rw [execWearSubstitution, ← hu, if_neg hcrossed, if_neg hother]
  cases u.wearWaits k.toNat n.toNat
  · rfl
  · cases u.firm.deferred.contains (k.toNat, n.toNat, d) <;> rfl

/-- A worn bank that feeds ports is noted for its own swap (R186). -/
theorem exec_wearSubstitution_bank {n : Half} {d : Word} {now : Nat} (hu : u = s.at_ now) (hunit : unitOk 6 n.toNat d = true)
    (hnew : (u.bank n.toNat).wornAt = none) (hfeeds : (u.bankFeed n.toNat).isSome = true) (hsound : (u.bank n.toNat).faulted = false) :
    exec (.wearSubstitution 6 n d now) s = .next (u.modBank n.toNat (fun x => { x with wornAt := some u.now })) := by
  have hkind : (6 : Byte).toNat = 6 := rfl
  have hknown : ¬ ((!unitOk (6 : Byte).toNat n.toNat d || ((6 : Byte).toNat == 0x01 && !u.wornCell n.toNat
      && !u.firm.deferred.contains ((6 : Byte).toNat, n.toNat, d))) = true) := by
    change ¬ ((!unitOk 6 n.toNat d || false) = true)
    simp [hunit]
  have hnotes : ¬ (((u.bank n.toNat).wornAt.isSome || (u.bankFeed n.toNat).isNone || (u.bank n.toNat).faulted) = true) := by
    simp [hnew, hsound, Option.isNone_eq_false_iff.mpr hfeeds]
  change execWearSubstitution 6 n d now s = _
  rw [execWearSubstitution, ← hu, if_neg hknown, if_pos hkind, if_neg hnotes]

/-! ### SPARE_SUBST (R490) -/

/-- The checks of SPARE_SUBST that a unit `n` of kind `k` passes: it has its number, it serves, its pool has a spare for it, and nothing
makes the substitution wait. -/
structure State.Substitutable (v : State) (a : Accepted) (k n : Nat) (d : Word) : Prop where
  unit : unitOk k n d = true
  detail : sqArg a.entry 2 < 2 ^ 32
  serves : v.inService k n d = true
  spare : v.noSpareNow k n d = false
  atOnce : v.wearWaits k n = false
  idle : v.poolBusy k n d = false

/-- A spare comes in for a unit of a kind other than a bank; for a service core the command completes first. -/
theorem exec_spareSubst_substitutes {k n : Nat} {d : Word} (hready : s.ready q slot 0x0801 a) (hv : v = s.beginCmd a)
    (hk : k = sqArg a.entry 0) (hn : n = sqArg a.entry 1) (hd : d = BitVec.ofNat 32 (sqArg a.entry 2))
    (hkind : k ∈ [0x01, 0x04, 0x07, 0x08, 0x0B, 0x0C, 0x0D]) (hchecks : v.Substitutable a k n d)
    (hgap : k ≠ 7 ∨ v.scheduled n = false) :
    exec (.spareSubst q slot) s =
      .next (if k = 0x0D then (v.done a 1).wearSubst k n d else (v.wearSubst k n d).done a 1) := by
  subst hk hn hd
  obtain ⟨hunit, hdetail, hserves, hspare, hatOnce, hidle⟩ := hchecks
  have hvalid : sqArg a.entry 0 ∈ [0x01, 0x04, 0x06, 0x07, 0x08, 0x0B, 0x0C, 0x0D] := by
    revert hkind
    simp only [List.mem_cons, List.not_mem_nil, or_false]
    omega
  have hother : sqArg a.entry 0 ≠ 6 := by
    rintro h
    rw [h] at hkind
    exact absurd hkind (by decide)
  have hbusy : (sqArg a.entry 0 == 0x07 && v.scheduled (sqArg a.entry 1)) = false := by
    obtain hring | hnone := hgap
    · simp [hring]
    · simp [hnone]
  change Host.Outcome.next (s.withCmd q slot 0x0801 _ _) = _
  rw [State.withCmd_ready hready rfl, ← hv,
    if_neg (by rw [hunit, hserves, decide_eq_true hvalid, decide_eq_false (Nat.not_le.mpr hdetail)]; decide),
    if_neg (by rw [hspare]; decide), if_neg (by rw [hatOnce, hidle, hbusy]; decide), if_neg hother]

/-- A bank of no scheduled port is swapped for the spare bank of its row. -/
theorem exec_spareSubst_bank {n feed b : Nat} {d : Word} (hready : s.ready q slot 0x0801 a) (hv : v = s.beginCmd a)
    (hk : sqArg a.entry 0 = 6) (hn : n = sqArg a.entry 1) (hd : d = BitVec.ofNat 32 (sqArg a.entry 2))
    (hchecks : v.Substitutable a 6 n d) (hfeed : v.bankFeed n = some feed) (hbank : v.spareBank (n / 20) = some b)
    (hgap : (feedPorts feed).any v.scheduled = false) :
    exec (.spareSubst q slot) s = .next ((v.wearSwap n feed b).done a 1) := by
  subst hn hd
  obtain ⟨hunit, hdetail, hserves, hspare, hatOnce, hidle⟩ := hchecks
  change Host.Outcome.next (s.withCmd q slot 0x0801 _ _) = _
  rw [State.withCmd_ready hready rfl, ← hv, hk,
    if_neg (by rw [hunit, hserves, decide_eq_false (Nat.not_le.mpr hdetail)]; decide),
    if_neg (by rw [hspare]; decide), if_neg (by rw [hatOnce, hidle]; exact Bool.false_ne_true), if_pos rfl]
  simp only [hfeed, hbank, hgap, Bool.false_eq_true, if_false]

/-! ### Standby tests (R478, R479) -/

theorem exec_spareStandbyTest_passed {k : Byte} {n : Half} {d : Word} {key : Nat} (hkey : selfTestKey k.toNat n.toNat = some key) :
    exec (.spareStandbyTest k n d true) s = .next { s with firm := { s.firm with selfTest := tset s.firm.selfTest key 1 } } := by
  change execSpareStandbyTest k n d true s = _
  rw [execSpareStandbyTest, hkey]
  rfl

/-- A spare without a SELFTEST field that fails is taken out of its pool and entered with ACTION 0. -/
theorem exec_spareStandbyTest_failed {k : Byte} {n : Half} {d : Word} {p : Nat} (hengine : k ≠ 0x0E)
    (hkey : selfTestKey k.toNat n.toNat = none) (hp : p = poolOf k.toNat n.toNat d) (hleft : s.sparesLeft k.toNat p ≠ 0) :
    exec (.spareStandbyTest k n d false) s =
      .next (((({ s with firm := { s.firm with
        sparesFailed := tset s.firm.sparesFailed (poolKey k.toNat p)
          (tget s.firm.sparesFailed 0 (poolKey k.toNat p) + 1) } } : State).dropSpare
        k.toNat n.toNat d).faultActed k.toNat 2 0 n.toNat d 0).checkProj (poolKind k.toNat)) := by
  subst hp
  have hother : k.toNat ≠ 0x0E := fun h => hengine (BitVec.eq_of_toNat_eq h)
  change execSpareStandbyTest k n d false s = _
  rw [execSpareStandbyTest, hkey, if_neg Bool.false_ne_true, if_neg hother]
  exact if_neg hleft

/-! ### The wear log (R483) -/

/-- The rows of hour counts write what was counted since the last record, and nothing where that is 0. -/
theorem exec_wearLogWrite_hour {k : Byte} {n : Half} {x d : Word} {r : Nat × State} (hrow : k.toNat ∈ [0x01, 0x04, 0x06])
    (hr : r = s.takeHour k.toNat n.toNat d.toNat) :
    exec (.wearLogWrite k n x d) s =
      .next (if r.1 = 0 then s else r.2.addWear k.toNat n.toNat (BitVec.ofNat 32 r.1) d) := by
  subst hr
  change execWearLogWrite k n x d s = _
  rw [execWearLogWrite, if_pos hrow]
  exact (apply_ite Host.Outcome.next _ _ _).symm

/-- A row of a measured figure that nothing else shows only writes its record. -/
theorem exec_wearLogWrite_figure {k : Byte} {n : Half} {x d : Word} (hrow : k.toNat ∈ [0x08, 0x09, 0x0C]) :
    exec (.wearLogWrite k n x d) s = .next (s.addWear k.toNat n.toNat x d) := by
  have hhour : k.toNat ∉ [0x01, 0x04, 0x06] := by
    simp only [List.mem_cons, List.not_mem_nil, or_false] at hrow ⊢
    omega
  have hkept : k.toNat ∈ [0x07, 0x08, 0x09, 0x0C, 0x0F] := by
    simp only [List.mem_cons, List.not_mem_nil, or_false] at hrow ⊢
    omega
  have hdays : k.toNat ≠ 0x0F := by
    intro h
    rw [h] at hrow
    exact absurd hrow (by decide)
  have hbias : k.toNat ≠ 0x07 := by
    intro h
    rw [h] at hrow
    exact absurd hrow (by decide)
  change execWearLogWrite k n x d s = _
  rw [execWearLogWrite, if_neg hhour, if_pos hkept, if_neg hdays, if_neg hbias]

end Health

/-- Settles O33: each clause is one path of its row. That SPARE_SUBST of a service core completes before its substitution and the firmware
reset this makes, and that a substitution which has to wait is made by the same row later, are log entry 33; the hour counts of mesh links
are log entry 120. -/
theorem healthCommandsComplete : Obligations.HealthCommandsComplete := by
  unfold Obligations.HealthCommandsComplete
  intro s
  refine ⟨fun q slot a v hready hv hmay => exec_healthRead_writes hready hv hmay rfl,
    fun q slot a v l hready hv hlo hhi hl => ?defects, fun k n d now u hu hunit hbank hworn hwaits => ?substituted,
    fun k n d now u hu hunit hbank hworn hwaits hnew => ?deferred, fun n d now u => exec_wearSubstitution_bank,
    fun q slot a v k n d hready hv hk hn hd hkind hunit hdetail hserves hspare hatOnce hidle hgap => ?spare,
    fun q slot a v n d hready hv hk hn hd hunit hdetail hserves hspare hatOnce hidle => ?core,
    fun q slot a v n feed b d hready hv hk hn hd hunit hdetail hserves hspare hatOnce hidle =>
      exec_spareSubst_bank hready hv hk hn hd ⟨hunit, hdetail, hserves, hspare, hatOnce, hidle⟩,
    fun k n d key => exec_spareStandbyTest_passed, fun k n d p => exec_spareStandbyTest_failed, fun k n x d => exec_wearLogWrite_figure,
    fun k n x d r hrow hr hcount => ?counted, fun k n x d hrow hcount => ?uncounted, fun n x d v hv => ?days, fun n x d => ?bias⟩
  case defects =>
    subst hl
    exact exec_defectListRead_writes hready hv hlo hhi
  case substituted =>
    rw [exec_wearSubstitution_crossed hu hunit hbank hworn, hwaits]
    rfl
  case deferred =>
    rw [exec_wearSubstitution_crossed hu hunit hbank hworn, hwaits, hnew]
    rfl
  case spare =>
    have hother : k ≠ 0x0D := by
      rintro rfl
      exact absurd hkind (by decide)
    rw [exec_spareSubst_substitutes hready hv hk hn hd (List.mem_append_left [0x0D] hkind)
      ⟨hunit, hdetail, hserves, hspare, hatOnce, hidle⟩ hgap, if_neg hother]
  case core =>
    rw [exec_spareSubst_substitutes hready hv hk.symm hn hd (by decide) ⟨hunit, hdetail, hserves, hspare, hatOnce, hidle⟩
      (.inl (by decide)), if_pos rfl]
  case counted => rw [exec_wearLogWrite_hour hrow hr, if_neg hcount]
  case uncounted => rw [exec_wearLogWrite_hour hrow rfl, if_pos hcount]
  case days =>
    subst hv
    rfl
  case bias => rfl

end Sys2Proof.Machine

/-!
# Counter reads, sync traces, digests and Ash reads (R494 to R500, R507)
-/
namespace Sys2Proof.Machine

section Observation

variable {q : QueueIx} {slot : SlotIx} {s v w : State} {a : Accepted}

/-! ### CTR_READ (R495, R496) -/

/-- The records of the units named are those before the counters are cleared. -/
theorem State.ctrRead_writes {us : List Nat} {clamped clear : Bool} {bs : Bytes} (hunits : ctrUnits a.entry = some us)
    (hmay : v.ctrDenied a us = false) (hbs : bs = us.flatMap (v.ctrRec clamped (sqArg a.entry 1)))
    (haddr : v.addrCheck a.q (v.queue a.q).turf ((sqArg a.entry 5).testBit 0) (sqArg a.entry 4) bs.length = none) :
    v.ctrRead a clamped clear = State.finishOut a bs.length
      ((if clear then us.foldl (fun x u => x.ctrClear (sqArg a.entry 1) u) v else v).writeOut a ((sqArg a.entry 5).testBit 0)
        (sqArg a.entry 4) bs) := by
  subst hbs
  simp only [State.ctrRead, hunits, hmay, haddr, Bool.false_eq_true, if_false]

theorem exec_ctrReadRead_reads (hready : s.ready q slot 0x0700 a) (hv : v = s.beginCmd a) (hmode : sqArg a.entry 0 = 0) :
    exec (.ctrReadRead q slot) s = .next (v.ctrRead a false false) := by
  change Host.Outcome.next (s.withCmd q slot 0x0700 _ _) = _
  rw [State.withCmd_ready hready (by simp [hmode]), ← hv]

theorem exec_ctrReadClear_reads (hready : s.ready q slot 0x0700 a) (hv : v = s.beginCmd a) (hmode : sqArg a.entry 0 = 1) :
    exec (.ctrReadClear q slot) s = .next (v.ctrRead a false true) := by
  change Host.Outcome.next (s.withCmd q slot 0x0700 _ _) = _
  rw [State.withCmd_ready hready (by simp [hmode]), ← hv]

theorem exec_ctrReadClampCopy_reads (hready : s.ready q slot 0x0700 a) (hv : v = s.beginCmd a) (hmode : sqArg a.entry 0 = 3) :
    exec (.ctrReadClampCopy q slot) s = .next (v.ctrRead a true false) := by
  change Host.Outcome.next (s.withCmd q slot 0x0700 _ _) = _
  rw [State.withCmd_ready hready (by simp [hmode]), ← hv]

theorem exec_ctrReadProgram_programs {us : List Nat} {data : Option Bytes} {b : Bytes} (hready : s.ready q slot 0x0700 a)
    (hv : v = s.beginCmd a) (hmode : sqArg a.entry 0 = 2) (hunits : ctrUnits a.entry = some us) (hset : sqArg a.entry 1 = 0)
    (hmay : v.ctrDenied a us = false)
    (hfits : s.readFits ((sqArg a.entry 5).testBit 0) (sqArg a.entry 4) (64 * sqArg a.entry 3) data = true)
    (haddr : v.addrCheck a.q (v.queue a.q).turf ((sqArg a.entry 5).testBit 0) (sqArg a.entry 4) (64 * sqArg a.entry 3) = none)
    (hw : w = v.meetIn ((sqArg a.entry 5).testBit 0) (sqArg a.entry 4) (64 * sqArg a.entry 3))
    (hread : w.readIn ((sqArg a.entry 5).testBit 0) (sqArg a.entry 4) (64 * sqArg a.entry 3) data = some b) :
    exec (.ctrReadProgram q slot data) s =
      .next ((us.zipIdx.foldl (fun x u => x.modCell u.1 (programCell (slice b (64 * u.2) 64))) w).done a us.length) := by
  obtain ⟨hacc, _, _⟩ := id hready
  have hrow : ¬ (sqArg a.entry 1 ≠ 0) := fun h => h hset
  change execCtrReadProgram q slot data s = _
  simp only [execCtrReadProgram, hacc, hfits, State.withCmd_ready hready (sel := fun w => sqArg w 0 == 2) (by simp [hmode]), ← hv,
    hunits, if_neg hrow, hmay, haddr, ← hw, hread, Bool.not_true, Bool.false_eq_true, if_false]

/-! ### Sync traces (R497, R498) -/

theorem exec_traceStart_opens {m off : Nat} (hready : s.ready q slot 0x0701 a) (hv : v = s.beginCmd a)
    (haligned : sqArg a.entry 0 % 4096 = 0) (hwhole : sqArg a.entry 1 % 4096 = 0) (hlo : 65536 ≤ sqArg a.entry 1)
    (hhi : sqArg a.entry 1 ≤ 2 ^ 32) (hsite : v.traceSite (sqArg a.entry 0) (sqArg a.entry 1) = some (m, off))
    (hmay : ((List.range (ceilDiv (off % 2 ^ 30 + sqArg a.entry 1) (2 ^ 30))).any (fun j =>
      !mayReach (v.queue a.q).turf (siteOwner v.turfMap m (off / 2 ^ 30 + j)) || v.retainedAt m ((off / 2 ^ 30 + j) * 2 ^ 30))) = false)
    (hnew : tfind v.obs.traces (sqTurf a.entry) = none) :
    exec (.traceStart q slot) s =
      .next (({ v with obs := { v.obs with traces := tset v.obs.traces (sqTurf a.entry) {
        buffer := BitVec.ofNat 64 (sqArg a.entry 0), length := sqArg a.entry 1, select := sqArg a.entry 2
        wrap := (sqArg a.entry 3).testBit 0, startGtc := v.now } } } : State).done a 0) := by
  have hargs : ¬ (sqArg a.entry 0 % 4096 ≠ 0 ∨ sqArg a.entry 1 % 4096 ≠ 0 ∨ sqArg a.entry 1 < 65536
      ∨ 2 ^ 32 < sqArg a.entry 1) := by
    omega
  change execTraceStart q slot s = _
  simp only [execTraceStart, State.withCmd_ready hready (sel := fun _ => true) rfl, ← hv, if_neg hargs, hsite, hmay, hnew,
    Option.isSome_none, Bool.false_eq_true, if_false]

theorem exec_traceStop_closes {x : TraceSt} {m off : Nat} (hready : s.ready q slot 0x0702 a) (hv : v = s.beginCmd a)
    (hopen : tfind v.obs.traces (sqTurf a.entry) = some x)
    (hw : w = { v with obs := { v.obs with traces := tdel v.obs.traces (sqTurf a.entry) } })
    (hsite : w.resolve x.buffer.toNat = some (.site m off)) :
    exec (.traceStop q slot) s =
      .next ((w.storeSite m off (traceHeader x w.now) false).done a (x.written % 2 ^ 32 + x.dropped % 2 ^ 32 * 2 ^ 32)) := by
  change execTraceStop q slot s = _
  simp only [execTraceStop, State.withCmd_ready hready (sel := fun _ => true) rfl, ← hv, hopen, ← hw, hsite]

/-! ### Digests (R499, R500) -/

theorem exec_digestArmArm_arms {l : List DigestSt} (hready : s.ready q slot 0x0703 a) (hv : v = s.beginCmd a) (hmode : sqArg a.entry 0 = 0)
    (hidle : v.batch (sqTurf a.entry) = none) (hl : l = tget v.obs.digests [] (sqTurf a.entry)) (hroom : l.length < 16) :
    exec (.digestArmArm q slot) s =
      .next (({ v with obs := { v.obs with digests := tset v.obs.digests (sqTurf a.entry) (l ++ [{
        operator := BitVec.ofNat 16 (sqArg a.entry 1), layer := BitVec.ofNat 16 (sqArg a.entry 1 / 2 ^ 16)
        layerAny := (sqArg a.entry 1).testBit 32, anchor := signed 8 (sqArg a.entry 2) }]) } } : State).done a l.length) := by
  subst hl
  change Host.Outcome.next (s.withCmd q slot 0x0703 _ _) = _
  rw [State.withCmd_ready hready (by simp [hmode]), ← hv, if_neg (by simp [hidle]), if_neg (Nat.not_le.mpr hroom)]

theorem exec_digestArmDisarm_forgets (hready : s.ready q slot 0x0703 a) (hv : v = s.beginCmd a) (hmode : sqArg a.entry 0 = 1)
    (hidle : v.batch (sqTurf a.entry) = none) :
    exec (.digestArmDisarm q slot) s =
      .next (({ v with obs := { v.obs with digests := tdel v.obs.digests (sqTurf a.entry) } } : State).done a 0) := by
  change Host.Outcome.next (s.withCmd q slot 0x0703 _ _) = _
  rw [State.withCmd_ready hready (by simp [hmode]), ← hv, if_neg (by simp [hidle])]

theorem exec_digestArmRead_writes (hready : s.ready q slot 0x0703 a) (hv : v = s.beginCmd a) (hmode : sqArg a.entry 0 = 2) :
    exec (.digestArmRead q slot) s =
      .next (v.output a ((sqArg a.entry 4).testBit 0) (sqArg a.entry 3)
        ((tget v.obs.digests [] (sqTurf a.entry)).flatMap
          (fun d => d.record (((v.turfRegions (sqTurf a.entry)).flatMap regionCells).foldl setIns [])))
        (tget v.obs.digests [] (sqTurf a.entry)).length) := by
  change Host.Outcome.next (s.withCmd q slot 0x0703 _ _) = _
  rw [State.withCmd_ready hready (by simp [hmode]), ← hv]

/-! ### Ash reads (R507) -/

/-- An Ash record that a turf may read: any for turf 0, else its own, of any trigger but that of a management fault. -/
def AshRec.readBy (t : Nat) (r : AshRec) : Bool := t == 0 || (r.turf == t && r.trigger != 1)

/-- ARG0 names a record, or the latest one that the turf may read. -/
abbrev State.ashNames (v : State) (a : Accepted) (r : AshRec) : Prop :=
  sqArg a.entry 0 = 0 ∧ (v.obs.ash.filter (AshRec.readBy (v.queue a.q).turf)).getLast? = some r
    ∨ sqArg a.entry 0 ≠ 0 ∧ v.obs.ash.find? (fun x => x.id == sqArg a.entry 0) = some r

/-- ASH_READ copies the bytes asked for, and where they are written it ends the record's pin when asked. -/
theorem exec_ashRead_copies {r : AshRec} {o : State × Bool} (hready : s.ready q slot 0x0705 a) (hv : v = s.beginCmd a)
    (hnames : v.ashNames a r) (hmay : r.readBy (v.queue a.q).turf = true)
    (hroom : sqArg a.entry 2 + sqArg a.entry 3 ≤ r.data.length)
    (haddr : v.addrCheck a.q (v.queue a.q).turf ((sqArg a.entry 4).testBit 0) (sqArg a.entry 1) (sqArg a.entry 3) = none)
    (ho : o = v.writeOut a ((sqArg a.entry 4).testBit 0) (sqArg a.entry 1) (slice r.data (sqArg a.entry 2) (sqArg a.entry 3))) :
    exec (.ashRead q slot) s = .next (State.finishOut a (sqArg a.entry 3 + r.id * 2 ^ 32)
      (if (sqArg a.entry 4).testBit 1 && o.2 then
          { o.1 with obs := { o.1.obs with ash := o.1.obs.ash.map (fun x => if x.id = r.id then { x with pinned := false } else x) } }
        else o.1, o.2)) := by
  have hrec : (if sqArg a.entry 0 = 0 then (v.obs.ash.filter (AshRec.readBy (v.queue a.q).turf)).getLast?
      else v.obs.ash.find? (fun x => x.id == sqArg a.entry 0)) = some r := by
    obtain ⟨hzero, hlast⟩ | ⟨hid, hfind⟩ := hnames
    · rw [if_pos hzero, hlast]
    · rw [if_neg hid, hfind]
  unfold AshRec.readBy at hmay hrec
  subst ho
  change execAshRead q slot s = _
  simp only [execAshRead, State.withCmd_ready hready (sel := fun _ => true) rfl, ← hv, hrec, hmay, if_neg (Nat.not_lt.mpr hroom), haddr,
    Bool.not_true, Bool.false_eq_true, if_false]

end Observation

/-- Settles O29: each clause is one path of its row. That a program written by mode 2 of CTR_READ is in force at once is log entry 133. -/
theorem counterAndTraceReadsComplete : Obligations.CounterAndTraceReadsComplete := by
  unfold Obligations.CounterAndTraceReadsComplete
  intro q slot s v a hv
  refine ⟨fun us hready hmode hunits hmay haddr => ?read, fun us hready hmode hunits hmay haddr => ?clear,
    fun us hready hmode hunits hmay haddr => ?clampCopy, fun us data b w hready => exec_ctrReadProgram_programs hready hv,
    fun m off hready => exec_traceStart_opens hready hv, fun x m off u hready => exec_traceStop_closes hready hv,
    fun l hready => exec_digestArmArm_arms hready hv, fun hready => exec_digestArmDisarm_forgets hready hv,
    fun l hready hmode hl => ?digests, fun r t hready ht hnames hmay hroom hkeep haddr => ?ash,
    fun r o hready hid hturf hfind hroom hunpin haddr hwritten ho => ?unpin⟩
  case read => rw [exec_ctrReadRead_reads hready hv hmode, State.ctrRead_writes hunits hmay rfl haddr, if_neg Bool.false_ne_true]
  case clear => rw [exec_ctrReadClear_reads hready hv hmode, State.ctrRead_writes hunits hmay rfl haddr, if_pos rfl]
  case clampCopy => rw [exec_ctrReadClampCopy_reads hready hv hmode, State.ctrRead_writes hunits hmay rfl haddr, if_neg Bool.false_ne_true]
  case digests =>
    subst hl
    exact exec_digestArmRead_writes hready hv hmode
  case ash =>
    subst ht
    have hreads : r.readBy (v.queue a.q).turf = true := by simpa [AshRec.readBy] using hmay
    rw [exec_ashRead_copies hready hv hnames hreads hroom haddr rfl, hkeep, Bool.false_and, if_neg Bool.false_ne_true]
  case unpin =>
    have hreads : r.readBy (v.queue a.q).turf = true := by simp [AshRec.readBy, hturf]
    subst ho
    rw [exec_ashRead_copies hready hv (.inr ⟨hid, hfind⟩) hreads hroom (by rw [hturf, haddr]) rfl, hunpin, hwritten, Bool.true_and,
      if_pos rfl]

end Sys2Proof.Machine

/-!
# RUN_BATCH of a BUCKET that the image lacks (R519), and accesses across a turf's border (R324, R325)
-/
namespace Sys2Proof.Machine

/-! ### RUN_BATCH -/

/-- A BUCKET that the image does not hold is refused before the start count and the state of the batch are looked at. -/
theorem State.runRefusal_bucketAbsent {v : State} {a : Accepted} {img : ImageSt} (himg : tfind v.images (sqArg a.entry 0) = some img)
    (hloaded : img.ready = true) (hmay : (v.queue a.q).turf = 0 ∨ (v.queue a.q).turf = img.turf)
    (hlacks : img.buckets.any (fun b => b.1 == sqArg a.entry 1) = false) : v.runRefusal a = some stBadArg := by
  have howns : ¬ ((v.queue a.q).turf ≠ 0 ∧ img.turf ≠ (v.queue a.q).turf) := fun h => hmay.elim h.1 (fun heq => h.2 heq.symm)
  simp only [State.runRefusal, himg, hloaded, if_neg howns, hlacks, Bool.not_true, Bool.not_false, Bool.false_eq_true, if_false, if_true]

/-- A RUN_BATCH that need not wait and that is refused completes with the status of its refusal. -/
theorem exec_runBatch_refused {s v : State} {q : QueueIx} {slot : SlotIx} {a : Accepted} {t st : Nat} (hready : s.ready q slot 0x0102 a)
    (hwait : s.runWaits a = false) (hturf : (s.beginCmd a).runTurf a = some t) (hv : v = (s.beginCmd a).clearErrors t)
    (hrefused : v.runRefusal a = some st) : exec (.runBatch q slot) s = .next (v.fail a st) := by
  subst hv
  obtain ⟨hacc, _, _⟩ := id hready
  change execRunBatch q slot s = _
  simp [execRunBatch, hacc, hwait, State.withCmd_ready hready, hturf, hrefused]

/-- Settles O56: the image is loaded and its turf may run it, so the check of the BUCKET is the first that refuses. -/
theorem runBatchNamesAPresentBucket : Obligations.RunBatchNamesAPresentBucket := by
  unfold Obligations.RunBatchNamesAPresentBucket
  intro q slot s u v a img hu hready hwait himg hv himg' hloaded hmay hlacks
  subst hu
  have hturf : (s.beginCmd a).runTurf a = some img.turf := by rw [State.runTurf, himg, Option.map_some]
  exact exec_runBatch_refused hready hwait hturf hv (State.runRefusal_bucketAbsent himg' hloaded hmay hlacks)

/-! ### Foreign accesses -/

section ForeignAccess

variable {s : State} {p : Packet} {turf m o : Nat}

/-- The pieces of a range that is not empty begin at its address. -/
theorem pieces_starts {addr len : Nat} (hlen : len ≠ 0) : ∃ n l, pieces addr len = (addr, n) :: l := by
  obtain ⟨k, hk⟩ : ∃ k, ceilDiv (addr % 256 + len) 256 = k + 1 := Nat.exists_eq_succ_of_ne_zero (by unfold ceilDiv; omega)
  have hfirst : max addr (addr / 256 * 256 + 256 * 0) = addr := by omega
  rw [pieces, hk, List.range_succ_eq_map, List.map_cons]
  simp only [hfirst]
  exact ⟨_, _, rfl⟩

/-- Bytes of a site that the turf may not reach are DENIED (R324). -/
theorem State.memRefusal_foreign (hloc : s.resolve p.addr = some (.site m o))
    (hforeign : mayReach turf (siteOwner s.turfMap m (o / 2 ^ 30)) = false) : s.memRefusal turf p.addr = some stDenied := by
  simp only [State.memRefusal, hloc, State.locOwner, hforeign, Bool.false_and, Bool.false_eq_true, if_false]

theorem State.opRefusal_foreign (hop : p.op < 0x10) (hlen : p.len ≠ 0) (hloc : s.resolve p.addr = some (.site m o))
    (hforeign : mayReach turf (siteOwner s.turfMap m (o / 2 ^ 30)) = false) : s.opRefusal turf p = some stDenied := by
  obtain ⟨n, l, hpieces⟩ := pieces_starts (addr := p.addr) hlen
  rw [State.opRefusal, opPieces, if_neg (Nat.not_le.mpr hop), hpieces, List.foldl_cons]
  simp only [State.memRefusal_foreign hloc hforeign]
  clear hpieces
  induction l with
  | nil => rfl
  | cons x l ih => exact ih

/-- A request denied at a site is counted there, and its NACK goes out. -/
theorem State.refuseReq_deniedAtSite (hloc : s.resolve p.addr = some (.site m o)) :
    s.refuseReq turf p stDenied = (s.crossing 3 m 8 turf).nackReq turf p stDenied := by
  rw [State.refuseReq, if_pos rfl, hloc]
  rfl

theorem State.crossing_counts (s : State) (set unit index turf : Nat) :
    tget (s.crossing set unit index turf).obs.ctrs 0 (ctrKey set unit index) = tget s.obs.ctrs 0 (ctrKey set unit index) + 1 :=
  tget_tset_self ..

/-- An answer is only queued at its port. -/
theorem State.nackReq_obs (s : State) (turf : Nat) (p : Packet) (st : Nat) : (s.nackReq turf p st).obs = s.obs := rfl

end ForeignAccess

/-- Settles O51: the first piece meets DENIED before any byte is read or written, and a refusal counts and queues its NACK. -/
theorem foreignStoresChangeNothing : Obligations.ForeignStoresChangeNothing := by
  unfold Obligations.ForeignStoresChangeNothing
  intro a p s m o hloc hforeign hok hheld hlen
  obtain ⟨hmem, hhost⟩ := State.refuseReq_memKept (MemKept.refl s) a.turf p stDenied
  refine ⟨fun hop => ?store, fun hop => ?load, hmem, hhost, ?counted⟩
  case store =>
    have href := State.opRefusal_foreign (by omega) hlen hloc hforeign
    change execStore a p s = _
    simp [execStore, State.storeReq, hop, hheld, hok, hloc, href]
  case load =>
    have href := State.opRefusal_foreign (by omega) hlen hloc hforeign
    rw [exec_load_unheld hop hheld]
    simp [State.loadReq, hok, hloc, href]
  case counted => rw [State.refuseReq_deniedAtSite hloc, State.nackReq_obs, State.crossing_counts]

end Sys2Proof.Machine

/-!
# Completion entries (R339, R342, Table 13.8)
-/
namespace Sys2Proof.Machine

/-- The ring's tail after one more entry: at its end it goes back to 0 and the phase turns (R339). -/
def QueueSt.advanceTail (y : QueueSt) : QueueSt :=
  if y.cqTail + 1 = y.cqSize then { y with cqTail := 0, phase := !y.phase } else { y with cqTail := y.cqTail + 1 }

/-- Where the next completion entry of a host queue with its ring in host memory goes. -/
def QueueSt.tailKey (y : QueueSt) : Nat := hostKey y.port (y.cqAddr.toNat + 16 * y.cqTail)

/-- Of the memories and the queues, `t` differs from `s` in the bytes `bs` from key `k` of host memory and in queue `q`, which is `y`. -/
structure State.WritesEntry (s t : State) (q k : Nat) (bs : Bytes) (y : QueueSt) : Prop where
  host : t.hostMem = memWrite s.hostMem k bs
  mem : t.mem = s.mem
  queue : t.queue q = y
  others : ∀ j, j ≠ q → t.queue j = s.queue j

section Completion

variable {s : State} {a : Accepted} {q : Nat}

theorem State.modPcie_queue (s : State) (p : Nat) (f : PcieSt → PcieSt) (j : Nat) : (s.modPcie p f).queue j = s.queue j := by
  unfold State.modPcie
  split <;> rfl

theorem State.msix_queue (s : State) (port vector j : Nat) : (s.msix port vector).queue j = s.queue j := by
  unfold State.msix
  extract_lets v
  split
  · exact State.modPcie_queue ..
  · rfl

theorem State.beginCmd_queue (s : State) (a : Accepted) (j : Nat) : (s.beginCmd a).queue j = s.queue j := by
  unfold State.beginCmd
  split <;> rfl

/-- The start of a command touches neither memory. -/
theorem State.beginCmd_memKept (s : State) (a : Accepted) : MemKept s (s.beginCmd a) := by
  unfold State.beginCmd
  split <;> exact ⟨rfl, rfl⟩

/-- Host memory written, and the tail of the queue one further. -/
theorem State.writesEntry_advance (s : State) (q k : Nat) (bs : Bytes) :
    s.WritesEntry (({ s with hostMem := memWrite s.hostMem k bs } : State).modQueue q QueueSt.advanceTail) q k bs
      (s.queue q).advanceTail := by
  generalize hm : memWrite s.hostMem k bs = m
  exact ⟨hm.symm, rfl, State.modQueue_self .., fun j hj => State.modQueue_ne _ _ _ _ hj⟩

/-- An interrupt leaves both memories and the queues. -/
theorem State.WritesEntry.msix {t : State} {k : Nat} {bs : Bytes} {y : QueueSt} (h : s.WritesEntry t q k bs y) (port vector : Nat) :
    s.WritesEntry (t.msix port vector) q k bs y := by
  obtain ⟨hhost, hmem, hqueue, hothers⟩ := h
  obtain ⟨hkeptMem, hkeptHost⟩ := State.msix_memKept (MemKept.refl t) port vector
  exact ⟨hkeptHost.trans hhost, hkeptMem.trans hmem, (State.msix_queue ..).trans hqueue,
    fun j hj => (State.msix_queue ..).trans (hothers j hj)⟩

/-- On a ring in host memory a completion writes its entry at the tail, which goes one further; an interrupt may follow (R342, R354). -/
theorem State.writeCqe_hostRing {tag : Word} {status cause : Nat} {notify : Bool} {result : DWord} (hq : q < 4096)
    (hhost : (s.queue q).cqMod = false) :
    s.WritesEntry (s.writeCqe q tag status cause notify result) q (s.queue q).tailKey
      (cqeBytes tag status cause (s.queue q).phase result) (s.queue q).advanceTail := by
  have hwritten := s.writesEntry_advance q (s.queue q).tailKey (cqeBytes tag status cause (s.queue q).phase result)
  unfold State.writeCqe
  extract_lets x bs addr step r w
  rw [if_neg (Nat.not_le.mpr hq), if_neg (by rw [hhost]; exact Bool.false_ne_true)]
  split
  · exact hwritten.msix ..
  · exact hwritten

/-- The completion of a command of an open queue writes its entry and gives its reserved place back. -/
theorem State.completeCore_hostRing {status cause : Nat} {result : DWord} (hq : a.q < 4096) (hopen : (s.queue a.q).state = .opened)
    (hhost : (s.queue a.q).cqMod = false) :
    s.WritesEntry (s.completeCore a status cause result) a.q (s.queue a.q).tailKey
      (cqeBytes (sqTag a.entry) status cause (s.queue a.q).phase result)
      { (s.queue a.q).advanceTail with reserved := (s.queue a.q).advanceTail.reserved - 1 } := by
  unfold State.completeCore
  extract_lets v w u
  have hw : w = v.writeCqe a.q (sqTag a.entry) status cause (sqNotify a.entry) result :=
    if_pos (show (s.queue a.q).writes = true by rw [QueueSt.writes, hopen])
  obtain ⟨hhostMem, hmem, hqueue, hothers⟩ : v.WritesEntry w a.q _ _ _ := by
    rw [hw]
    exact State.writeCqe_hostRing hq hhost
  have hu : s.WritesEntry u a.q (s.queue a.q).tailKey (cqeBytes (sqTag a.entry) status cause (s.queue a.q).phase result)
      { (s.queue a.q).advanceTail with reserved := (s.queue a.q).advanceTail.reserved - 1 } :=
    ⟨hhostMem, hmem, (State.modQueue_self ..).trans (by rw [hqueue]; rfl),
      fun j hj => (State.modQueue_ne _ _ _ _ hj).trans (hothers j hj)⟩
  split
  · exact ⟨hu.host, hu.mem, hu.queue, hu.others⟩
  · exact hu

theorem State.settleQueue_notClosing (h : (s.queue q).state ≠ .closing) : s.settleQueue q = s := if_neg (fun hclosing => h hclosing.1)

theorem QueueSt.advanceTail_state (y : QueueSt) : y.advanceTail.state = y.state := by
  unfold QueueSt.advanceTail
  split <;> rfl

/-- With queue 0 not closing, no close waits for the completion of a command of an open queue. -/
theorem State.complete_unclosed {status cause : Nat} {result : DWord} (hq : a.q < 4096) (hopen : (s.queue a.q).state = .opened)
    (hhost : (s.queue a.q).cqMod = false) (hzero : (s.queue 0).state ≠ .closing) :
    s.complete a status cause result = s.completeCore a status cause result := by
  obtain ⟨_, _, hqueue, hothers⟩ := State.completeCore_hostRing (status := status) (cause := cause) (result := result) hq hopen hhost
  have hown : ((s.completeCore a status cause result).queue a.q).state ≠ .closing := by
    rw [hqueue, QueueSt.advanceTail_state, hopen]
    decide
  have hadmin : ((s.completeCore a status cause result).queue 0).state ≠ .closing := by
    by_cases hself : 0 = a.q
    · rwa [hself]
    · rwa [hothers 0 hself]
  rw [State.complete, State.settleQueue_notClosing hown, State.settleQueue_notClosing hadmin]

end Completion

/-- An accepted command stands in its own slot. -/
theorem State.acceptedAt_queue {s : State} {q slot : Nat} {a : Accepted} (h : s.acceptedAt q slot = some a) : a.q = q := by
  have hkey := List.find?_some h
  exact eq_of_beq (Bool.and_eq_true_iff.mp hkey).1

theorem cqeBytes_length (tag : Word) (status cause : Nat) (phase : Bool) (result : DWord) :
    (cqeBytes tag status cause phase result).length = 16 := by simp [cqeBytes]

/-- Settles O53: a NOP completes, and its completion writes one entry at the ring's tail. -/
theorem completionEntriesStandInTheRing : Obligations.CompletionEntriesStandInTheRing := by
  unfold Obligations.CompletionEntriesStandInTheRing
  intro q slot s a x hready hx hq hopen hhost hzero hwf
  obtain rfl : x = (s.beginCmd a).queue q.val := hx.trans (State.beginCmd_queue ..).symm
  obtain ⟨hkeptMem, hkeptHost⟩ := State.beginCmd_memKept s a
  have hqueueOf := State.acceptedAt_queue hready.1
  have hexec : exec (.nop q slot) s = .next ((s.beginCmd a).done a 0) := by
    change Host.Outcome.next (s.withCmd q slot 0x0000 _ _) = _
    rw [State.withCmd_ready hready rfl]
  rw [← hqueueOf] at hq hopen hhost ⊢
  rw [← State.beginCmd_queue s a] at hzero
  rw [← hkeptHost] at hwf ⊢
  obtain ⟨hhostMem, hmem, hqueue, _⟩ : (s.beginCmd a).WritesEntry ((s.beginCmd a).done a 0) a.q _ _ _ := by
    rw [State.done, State.complete_unclosed hq hopen hhost hzero]
    exact State.completeCore_hostRing hq hopen hhost
  have hlength := cqeBytes_length (sqTag a.entry) stOk 0 ((s.beginCmd a).queue a.q).phase 0
  refine ⟨(s.beginCmd a).done a 0, hexec, ?entry, fun k hk => ?otherBytes, hmem.trans hkeptMem, fun hmore => ?more, fun hend => ?wraps⟩
  case entry =>
    rw [hhostMem, ← hlength]
    exact memRead_memWrite hwf
  case otherBytes =>
    rw [hhostMem]
    exact memGet_memWrite_of_not_mem hwf (by rw [cqeBytes_length]; exact hk)
  case more =>
    rw [hqueue, QueueSt.advanceTail, if_neg hmore]
    exact ⟨rfl, rfl⟩
  case wraps =>
    rw [hqueue, QueueSt.advanceTail, if_pos hend]
    exact ⟨rfl, rfl⟩

end Sys2Proof.Machine
